-- ==== Sys2Proof/Word.lean ====
section
/-! DEFINITION. Bytes, bit fields and the little-endian byte order of R3. -/
namespace Sys2Proof

/-- A byte. -/
abbrev Byte := BitVec 8

/-- A run of bytes, byte 0 first (R3). -/
abbrev Bytes := List Byte

/-- Bit 0 or 1 of a flag. -/
def bit (b : Bool) : Nat := if b then 1 else 0

end Sys2Proof
end

