-- ==== Sys2Proof/Syntax.lean ====
section
/-! DEFINITION. The commands and events of the Dunisk block: one constructor per row of spec/opcode_table.json.
A command names the place it acts at; the numbers are those of R14, R15, R23 and R25. -/
namespace Sys2Proof

/-- The three MOA channels of the steward (R317). -/
inductive Channel where
  | mailbox | slot0 | slot1
  deriving DecidableEq, Repr

/-- Who holds request slots (R93): a tile, the steward or the vault. -/
inductive SlotOwner where
  | tile (t : Nat) | steward | vault
  deriving DecidableEq, Repr

/-- Who injects a request (R93, R119, R208, R232). -/
inductive Requester where
  | mover | queue | stealUnit | ingress | home | steward | vault | scrubber | debug
  deriving DecidableEq, Repr

/-- The three expert selectors of the shadow (R411). -/
inductive ExpertSel where
  | entry | descriptor | route
  deriving DecidableEq, Repr

/-- The IDE sub-streams (R400). -/
inductive IdeSub where
  | pr | npr | cpl
  deriving DecidableEq, Repr

/-- One place of the key port: stream, sub-stream, direction and key set (R277, R400). -/
structure IdeKeyId where
  stream : Nat
  sub : IdeSub
  transmit : Bool
  kset : Bool
  deriving DecidableEq, Repr

/-- The commands and events: first those with operands, then those without, each part in the order of the table. -/
inductive Instr where
  | tickMarkerReceive (die diff : Nat)
  | frameLockRegained (die : Nat)
  | sownWindowOpen (tile out entry : Nat)
  | sownCellArrival (tile input : Nat) (damage : BitVec 96)
  | sownLoadStart (ch : Channel)
  | swapFrameWrite (ch : Channel) (frame : BitVec 64)
  | swapArm (ch : Channel)
  | swapDisarm (ch : Channel)
  | sownQuotaWrite (ch : Channel) (quota : BitVec 16)
  | expertEntryWrite (ch : Channel) (entry : BitVec 64)
  | expertDescriptorWrite (ch : Channel) (desc : BitVec 128)
  | expertRouteWrite (ch : Channel) (entry : BitVec 32)
  | expertSelectorWrite (ch : Channel) (sel : ExpertSel) (value : BitVec 32)
  | expertCheck (ch : Channel)
  | engineNoProgress (tile engine : Nat)
  | hbmRequestUnanswered (tile tag : Nat)
  | xsUncorr (tile out : Nat)
  | xsPhyDown (tile out : Nat)
  | flitHeadArrival (tile subnet input : Nat) (damage : BitVec 128)
  | outputArbitration (tile subnet out : Nat)
  | creditReturn (tile subnet input vc : Nat)
  | flitAgeDrop (tile subnet input vc : Nat)
  | requestInject (tile : Nat) (who : Requester)
  | requestEject (tile subnet : Nat)
  | replyDeadline (tile subnet : Nat)
  | reqTimeout (owner : SlotOwner) (slot : Nat)
  | slotQuarantineEnd (owner : SlotOwner) (slot : Nat)
  | replyArrival (tile subnet : Nat)
  | openCtrlWrite (tile : Nat) (value : BitVec 128)
  | listLaunch (plot : Nat) (value : BitVec 128)
  | launchDequeue (tile : Nat)
  | commandDispatch (tile ctx : Nat)
  | listNop (tile engine : Nat)
  | listWait (tile engine : Nat)
  | listSignal (tile engine : Nat)
  | listTick (tile engine : Nat)
  | listLoop (tile ctx : Nat)
  | listCall (tile ctx : Nat)
  | listEnd (tile ctx : Nat)
  | listEvent (tile engine : Nat)
  | moveCopy (tile : Nat)
  | moveFill (tile : Nat)
  | moveHbmRead (tile : Nat)
  | moveHbmWrite (tile : Nat)
  | moveHostRead (tile : Nat)
  | moveHostWrite (tile : Nat)
  | moveSow (tile : Nat)
  | moveReap (tile : Nat)
  | moveEmit (tile : Nat)
  | moveHbmStream (tile : Nat)
  | reduceOasis (tile : Nat)
  | reduceRelease (tile : Nat)
  | reduceAdd (tile : Nat)
  | reduceAddSown (tile : Nat)
  | reduceScaleAdd (tile : Nat)
  | reduceMerge (tile : Nat)
  | reduceRound (tile : Nat)
  | reduceNarrow (tile : Nat)
  | reduceMap (tile : Nat)
  | reduceCrc (tile : Nat)
  | arrayLoad (tile : Nat)
  | arrayMm (tile : Nat)
  | arrayTopk (tile : Nat)
  | arrayGate (tile : Nat)
  | queueSend (tile : Nat)
  | queueGet (tile : Nat)
  | queuePut (tile : Nat)
  | queueCombine (tile : Nat)
  | queueBind (tile : Nat)
  | queueUnbind (tile : Nat)
  | queuePop (tile : Nat)
  | queueHandler (tile : Nat)
  | commandComplete (tile engine : Nat)
  | statusRecordWrite (tile ctx : Nat)
  | ctxAbort (tile ctx : Nat)
  | semWrite (tile sem : Nat) (value : BitVec 16)
  | stealRequestSend (tile engine : Nat)
  | stealRequestReceive (tile : Nat)
  | lendReceive (tile engine : Nat)
  | stolenResultReturn (tile lendId : Nat)
  | engCtrlWrite (tile : Nat) (value : BitVec 128)
  | msgPacketLand (tile : Nat)
  | entryPublish (tile queue : Nat)
  | handlerLaunch (tile : Nat)
  | fallbackDrain (tile queue : Nat)
  | assemblyAbandon (tile index : Nat)
  | remoteGet (tile : Nat)
  | remotePut (tile : Nat)
  | combinePacket (tile : Nat)
  | queueRdWrite (tile queue : Nat) (value : BitVec 16)
  | fbPop (tile : Nat) (value : BitVec 32)
  | collDoorbell (plot : Nat) (offset : BitVec 32)
  | collAccept (plot : Nat) (desc : Bytes)
  | collNoAck (plot : Nat) (step : BitVec 32) (part chunk : Nat)
  | collAckReceive (tile : Nat)
  | collResendReceive (tile : Nat)
  | kernelDoorbell (plot : Nat) (offset : BitVec 32)
  | kernelBind (plot : Nat) (desc : Bytes)
  | kernelUnbind (plot : Nat) (desc : Bytes)
  | tokenPartArrival (tile : Nat)
  | tokenAsmTimeout (tile slot : Nat)
  | khdrReceive (tile : Nat)
  | kernelTrainLand (tile : Nat)
  | expertOutputArrival (tile : Nat)
  | tokenRetTimeout (tile slot : Nat)
  | dfpIngress (port : Nat) (halfB : Bool) (frame : Bytes) (good : Bool)
  | msgDfpReceive (tile : Nat)
  | egressEnqueue (port : Nat)
  | egressSchedule (port : Nat) (halfB : Bool)
  | txUnderrun (port : Nat) (halfB : Bool)
  | portUp (port : Nat)
  | portDrain (port : Nat)
  | portDown (port : Nat)
  | portCtrlWrite (ch : Channel) (port : Nat) (value : BitVec 128)
  | moduleInsert (port : Nat)
  | moduleRemove (port : Nat)
  | svcPress (port : Nat)
  | svcStuck (port : Nat)
  | frontPanelScan (bits : BitVec 512)
  | portLinkUp (port : Nat)
  | portLinkDown (port : Nat)
  | drainComplete (port : Nat)
  | drainLimitExpiry (port : Nat)
  | sieveWrite (ch : Channel) (value : BitVec 320)
  | lookupWrite (ch : Channel) (value : BitVec 64)
  | meterWrite (ch : Channel) (value : BitVec 256)
  | egressQueueWrite (ch : Channel) (port : Nat) (value : BitVec 64)
  | shaperWrite (ch : Channel) (port : Nat) (value : BitVec 64)
  | gateWrite (ch : Channel) (port : Nat) (value : BitVec 128)
  | poolWrite (ch : Channel) (port : Nat) (value : BitVec 64)
  | pfcReceive (port prio : Nat) (pause : Bool)
  | combLost (comb : Nat)
  | adcReading (loop : Nat) (code : BitVec 16)
  | loopConfigWrite (ch : Channel) (value : BitVec 128)
  | calGo (ch : Channel) (value : BitVec 64)
  | calDue (port : Nat)
  | calStageEnd (port : Nat)
  | plotBind (ch : Channel)
  | plotBindDone (plot : Nat)
  | plotRebind (ch : Channel)
  | plotRebindDone (plot : Nat)
  | plotTeardown (ch : Channel)
  | teardownTilesReleased (plot : Nat)
  | hbmScrubDone (plot range : Nat)
  | plotConfigWrite (ch : Channel) (sub : Nat) (value : Bytes)
  | queueQuotaWrite (ch : Channel) (quota : BitVec 16)
  | hbmRangeWrite (ch : Channel) (value : BitVec 128)
  | attestReport (ch : Channel)
  | getVersion (ch : Channel)
  | getCapabilities (ch : Channel)
  | negotiateAlgorithms (ch : Channel)
  | getDigests (ch : Channel)
  | getCertificate (ch : Channel) (offset len : Nat)
  | challenge (ch : Channel) (nonce : Bytes)
  | getMeasurements (ch : Channel) (session : Option Nat) (index : Nat) (nonce : Bytes)
  | keyExchange (ch : Channel)
  | finish (session : Nat) (mutualKey : Option Bytes)
  | heartbeatSpdm (session : Nat)
  | keyUpdate (session : Nat)
  | endSession (session : Nat)
  | spdmUnsupportedRequest (ch : Channel) (code : BitVec 8)
  | plotClaim (session plot : Nat)
  | keySet (session : Nat) (phase : Bool) (key : Bytes)
  | txPhase (session : Nat) (phase : Bool)
  | phaseRetire (session : Nat) (phase : Bool) (hold : Nat)
  | secFlags (session : Nat) (flags : BitVec 8)
  | phaseHoldEnd (plot : Nat) (phase : Bool)
  | query (session : Nat)
  | keyProg (session : Nat) (id : IdeKeyId) (key : BitVec 256) (iv : BitVec 64)
  | kSetGo (session : Nat) (id : IdeKeyId)
  | kSetStop (session : Nat) (id : IdeKeyId)
  | ideAnswer (ack : Bool)
  | ideManagerWrite (ch : Channel) (value : Bytes)
  | capsuleUnwrap (plot : Nat) (value : BitVec 128)
  | rngHealth (test : BitVec 32)
  | libraryWrite (ch : Channel) (value : BitVec 64)
  | wearWrite (ch : Channel) (value : BitVec 64)
  | heartbeatMiss (member : Nat)
  | quorumGroupWrite (ch : Channel) (sub : Nat) (value : BitVec 64)
  | rejoin (ch : Channel) (bitmap : BitVec 32)
  | graftMapWrite (ch : Channel) (value : BitVec 16)
  | graftHoldEnd (plot : Nat)
  | clusterActive (ch : Channel)
  | clusterFallow (ch : Channel)
  | clusterDeep (ch : Channel)
  | portPwrWrite (ch : Channel) (port : Nat) (fallow : Bool)
  | fallowAll (ch : Channel)
  | wakeAll (ch : Channel)
  | powerStageStart (die index : Nat)
  | powerStageEnd (die index : Nat)
  | pwrCtrlWrite (ch : Channel) (value : BitVec 64)
  | moaFrameReceive (frame : Bytes) (good : Bool)
  | moaRead (ch : Channel) (index sub : Nat)
  | moaWrite (ch : Channel) (index sub : Nat) (payload : Bytes)
  | odRegisterWrite (ch : Channel) (index sub : Nat) (payload : Bytes)
  | describe (ch : Channel) (index sub : Nat)
  | hello (ch : Channel)
  | segWrite (ch : Channel) (index sub total : Nat) (xcrc : BitVec 32)
  | segRead (ch : Channel) (index sub : Nat)
  | segAbort (ch : Channel)
  | segment (ch : Channel) (segno : Nat) (data : Bytes)
  | segAck (ch : Channel) (segno : Nat)
  | segTimeout (ch : Channel)
  | keySlotWrite (ch : Channel) (slot : Bool) (value : Bytes)
  | arpRequest (ip : BitVec 32)
  | neighborSolicitation (ip : BitVec 128)
  | hostRegisterWrite (offset size : Nat) (data : BitVec 64)
  | dmaWindowWrite (plot : Nat) (value : BitVec 128)
  | eventRingWrite (ring : Nat) (value : BitVec 512)
  | consWrite (ring : Nat) (value : BitVec 32)
  | irqHoldEnd (ring : Nat)
  | dmaCompletion (tag : Nat) (data : Bytes) (err : Bool)
  | hbmResponse (tile tag : Nat) (err : Bool)
  | hbmRead (tile : Nat)
  | hbmWrite (tile : Nat)
  | stream (tile : Nat)
  | streamEnd (tile index : Nat) (readError : Bool)
  | startupStageDone (flashOk : Bool)
  | selfTestStart (ch : Channel)
  | selfTestDone (cluster : Nat) (result : BitVec 8)
  | fwImage (ch : Channel) (total : Nat) (xcrc : BitVec 32)
  | verify (ch : Channel)
  | activate (ch : Channel)
  | confirm (ch : Channel)
  | erase (ch : Channel)
  | restart (ch : Channel)
  | counterWrite (ch : Channel) (value : BitVec 32)
  | pmcCfgWrite (tile index : Nat) (value : BitVec 64)
  | rakeKWrite (ch : Channel) (value : BitVec 8)
  | rakeBaseWrite (ch : Channel) (value : BitVec 64)
  | histogramClear (ch : Channel)
  | hangThaw (ch : Channel) (value : BitVec 8)
  | hangBaseWrite (ch : Channel) (value : BitVec 64)
  | traceCtrlWrite (ch : Channel) (value : BitVec 8)
  | markerSend (ch : Channel) (value : Bytes)
  | railFault (cluster : Nat)
  | linkRetry (kindPort : Bool) (index : Nat)
  | linkRetrain (kindPort : Bool) (index : Nat) (failed : Bool)
  | dbgAccess (tile : Nat) (write : Bool) (addr : Nat) (data : Bytes)
  | hostRegisterRead (offset size : Nat)
  | chunkedTransfer (ch : Channel) (first last : Bool) (part : Bytes)
  | combLocked (comb : Nat)
  | frameTick
  | sownLoadDone
  | shadowRetireEnd
  | expertCheckDone
  | capsuleDone
  | rngRestartPass
  | rngWaitTimeout
  | heartbeatSend
  | quorumDfpReceive
  | heartbeat
  | view
  | commit
  | quorumPhase1End
  | quorumPhase2End
  | quorumPhase3End
  | thermalTrip
  | mailboxGo
  | mailboxDone
  | hostRead
  | hostWrite
  | porRelease
  | warmReset
  | pstoreCompaction
  | rakeWriteOut
  | porAssert
  deriving DecidableEq, Repr

end Sys2Proof
end

