-- ==== Sys2Proof/Machine/Bits.lean ====
section
/-! DEFINITION. Bit fields, byte packing in little-endian order (R3) and the two CRCs (R409, CRC-32C). -/
namespace Sys2Proof.Machine

/-- The field of w bits from bit lo up. -/
def fld {n : Nat} (x : BitVec n) (lo w : Nat) : Nat := (x.toNat / 2 ^ lo) % 2 ^ w

/-- One bit as a Bool. -/
def flag {n : Nat} (x : BitVec n) (i : Nat) : Bool := x.getLsbD i

/-- The word with the w-bit field from bit lo replaced. -/
def setFld {n : Nat} (x : BitVec n) (lo w v : Nat) : BitVec n :=
  BitVec.ofNat n (x.toNat - fld x lo w * 2 ^ lo + (v % 2 ^ w) * 2 ^ lo)

/-- A number placed in a field of w bits from bit lo up, the rest zero. -/
def at_ (lo w v : Nat) : Nat := (v % 2 ^ w) * 2 ^ lo

/-- A flag at bit lo. -/
def atB (lo : Nat) (b : Bool) : Nat := if b then 2 ^ lo else 0

/-- The low n bytes of a number, byte 0 first (R3). -/
def toBytes : Nat → Nat → Bytes
  | 0, _ => []
  | n + 1, v => BitVec.ofNat 8 v :: toBytes n (v / 256)

/-- The number that a run of bytes spells, byte 0 least significant (R3). -/
def ofBytes : Bytes → Nat
  | [] => 0
  | x :: xs => x.toNat + 256 * ofBytes xs

/-- A run of bytes cut or padded with zeros to n bytes. -/
def padTo (n : Nat) (xs : Bytes) : Bytes := (xs ++ List.replicate (n - xs.length) 0#8).take n

/-- One step of CRC-8 (R409). -/
def crc8Step (c : Nat) (m : Bool) : Nat :=
  let fb := ((c / 128) % 2 = 1) != m
  let c' := (c * 2) % 256
  if fb then c' ^^^ 0x07 else c'

/-- CRC-8 of bits 0 to n - 1, bit 0 first (R409). -/
def crc8 {w : Nat} (x : BitVec w) (n : Nat) : BitVec 8 :=
  BitVec.ofNat 8 ((List.range n).foldl (fun c i => crc8Step c (x.getLsbD i)) 0)

/-- One bit step of the reflected CRC-32C register. -/
def crc32cBit (c : Nat) : Nat := if c % 2 = 1 then (c / 2) ^^^ 0x82F63B78 else c / 2

/-- One byte into the CRC-32C register. -/
def crc32cByte (c : Nat) (x : Byte) : Nat :=
  (List.range 8).foldl (fun c _ => crc32cBit c) (c ^^^ x.toNat)

/-- CRC-32C (Castagnoli) of a run of bytes: reflected, initial value and final XOR all ones (log 6). -/
def crc32c (xs : Bytes) : BitVec 32 :=
  BitVec.ofNat 32 ((xs.foldl crc32cByte 0xFFFFFFFF) ^^^ 0xFFFFFFFF)

/-- Rounded-up division. -/
def ceilDiv (a b : Nat) : Nat := (a + b - 1) / b

end Sys2Proof.Machine
end

