-- ==== Sys2Proof/Machine/Table.lean ====
section
/-! DEFINITION. Sparse tables by number (sorted association lists) and the byte memory in its one canonical form. -/
namespace Sys2Proof.Machine

/-- A sparse table: pairs of a number and a value, numbers strictly rising. -/
abbrev Tbl (α : Type) := List (Nat × α)

/-- The value listed at a number. -/
def Tbl.get? {α : Type} : Tbl α → Nat → Option α
  | [], _ => none
  | (j, a) :: t, k => if j = k then some a else if k < j then none else Tbl.get? t k

/-- The value at a number, or the given one where none is listed. -/
def Tbl.getD {α : Type} (t : Tbl α) (k : Nat) (d : α) : α := (Tbl.get? t k).getD d

/-- The table with the value at one number replaced. -/
def Tbl.put {α : Type} : Tbl α → Nat → α → Tbl α
  | [], k, a => [(k, a)]
  | (j, b) :: t, k, a =>
    if k < j then (k, a) :: (j, b) :: t
    else if k = j then (k, a) :: t
    else (j, b) :: Tbl.put t k a

/-- The table with nothing listed at one number. -/
def Tbl.del {α : Type} : Tbl α → Nat → Tbl α
  | [], _ => []
  | (j, b) :: t, k => if j = k then t else (j, b) :: Tbl.del t k

/-- The table without the numbers for which the test holds. -/
def Tbl.drop {α : Type} (t : Tbl α) (p : Nat → Bool) : Tbl α := List.filter (fun x => !p x.1) t

/-- The table with every value changed. -/
def Tbl.mapV {α : Type} (t : Tbl α) (f : Nat → α → α) : Tbl α := List.map (fun x => (x.1, f x.1 x.2)) t

/-- A byte memory: pairs of an address and a byte, addresses strictly rising, no byte zero. An address that is not
listed reads as zero (R354: every tested resource reads zero; log 5 for HBM and host memory). -/
abbrev Mem := List (Nat × Byte)

/-- The byte at an address. -/
def Mem.byte (m : Mem) (a : Nat) : Byte := Tbl.getD m a 0#8

/-- The memory with one byte written. Writing zero removes the entry. -/
def Mem.put1 (m : Mem) (a : Nat) (x : Byte) : Mem := if x = 0#8 then Tbl.del m a else Tbl.put m a x

/-- The bytes from an address on. -/
def Mem.read (m : Mem) (a : Nat) : Nat → Bytes
  | 0 => []
  | n + 1 => Mem.byte m a :: Mem.read m (a + 1) n

/-- The memory with a run of bytes written from an address on. -/
def Mem.write (m : Mem) (a : Nat) : Bytes → Mem
  | [] => m
  | x :: xs => Mem.write (Mem.put1 m a x) (a + 1) xs

/-- The memory with every byte of a range zero. -/
def Mem.zero (m : Mem) (lo len : Nat) : Mem := List.filter (fun x => x.1 < lo || lo + len ≤ x.1) m

/-- Numbers strictly rising from a bound on. -/
def Tbl.sortedFrom {α : Type} (lo : Nat) : Tbl α → Bool
  | [] => true
  | (k, _) :: t => lo ≤ k && Tbl.sortedFrom (k + 1) t

/-- The canonical form of a memory: addresses strictly rising, no zero byte listed. -/
def Mem.wf (m : Mem) : Bool := Tbl.sortedFrom 0 m && m.all (fun x => x.2 ≠ 0#8)

end Sys2Proof.Machine
end

