-- ==== Sys2Proof/Machine/State.lean ====
section
/-! DEFINITION. The state of the block as plain data: every register, queue, buffer, table and mode of spec/, grouped by
chapter, with the state right after reset. Rule numbers name the rule that gives a field. -/
namespace Sys2Proof.Machine

/-- The members of the family (00_scope). -/
inductive Member where
  | dx16 | dx64 | dx256 | dx1024
  deriving DecidableEq, Repr

/-- An event as R349 lays a record down. `tile = none` is NO_TILE. -/
structure Event where
  type : BitVec 8
  plot : BitVec 8
  tile : Option Nat
  frame : BitVec 48
  offset : Nat
  d0 : BitVec 32
  d1 : BitVec 32
  d2 : BitVec 32
  d3 : BitVec 32
  deriving DecidableEq, Repr

/-- The time base (R41, R43) and the cycle counter of R372; `due` in the mc of a tick that has not yet run. -/
structure Clock where
  frame : BitVec 48
  offset : Nat
  mc : Nat
  due : Bool
  deriving DecidableEq, Repr

/-! ### The sown plane (03) -/

/-- The shadow's states (R64). -/
inductive ShadowState where
  | free | loading | ready | armed | retired | invalid
  deriving DecidableEq, Repr

/-- A sown cell: the 96-bit header of R26 and 64 payload bytes. -/
structure Cell where
  hdr : BitVec 96
  data : Bytes
  deriving DecidableEq, Repr

/-- One version of every sown table, descriptor and route (R48, R57, R77). Keys: entries (tile·5 + output)·2048 + k,
descriptors tile·64 + i, routes tile·1024 + destination. An entry or descriptor not listed is 0; a route not listed is the
default route of R80. -/
structure SownVersion where
  gen : BitVec 16
  slots : Nat
  altOf : BitVec 16
  entries : Tbl (BitVec 64)
  descs : Tbl (BitVec 128)
  routes : Tbl (BitVec 32)
  deriving DecidableEq, Repr

/-- An open window of an output (R50): its entry, the generation bound, the ECHK failure and the cells it has moved. -/
structure Window where
  entry : BitVec 64
  gen : BitVec 16
  bad : Bool
  opened : Nat
  carried : Nat
  deriving DecidableEq, Repr

/-- The staging state of one furrow end (R58, R59): `fillA` says BUF_A is the fill (or receive) buffer. -/
structure Staging where
  fillA : Bool
  filled : Nat
  hasSend : Bool
  ready : Bool
  stale : Bool
  sent : Nat
  /-- landed marks of the receive buffer: CELL_INDEX to STALE -/
  recv : Tbl Bool
  /-- landed marks of the read buffer -/
  read : Tbl Bool
  deriving DecidableEq, Repr

/-- A cell staged at a PORT inject descriptor, before its header is built (R27, R33). -/
structure StagedCell where
  kind : Nat
  index : Nat
  fill : Nat
  first : Bool
  last : Bool
  data : Bytes
  deriving DecidableEq, Repr

/-- A DFP or train staged on a PORT furrow (R69, R231). -/
structure StagedDfp where
  cells : List StagedCell
  begun : Bool
  plot : Nat
  egress : Nat
  cls : Nat
  deriving DecidableEq, Repr

/-- Frame lock of one die (R42). -/
structure DieLock where
  locked : Bool
  zeros : Nat
  clearFence : Bool
  deriving DecidableEq, Repr

/-- The sown plane. -/
structure Sown where
  active : SownVersion
  shadow : SownVersion
  state : ShadowState
  /-- LOADING came from expert writes (R64, R411) -/
  expert : Bool
  /-- an image load or the check of OD 0x2201.05 is in progress -/
  busy : Bool
  swapFrame : BitVec 48
  lastSwap : BitVec 48
  /-- open windows of an output, key tile·5 + output -/
  windows : Tbl (List Window)
  /-- cells in flight toward a router input, key tile·4 + input -/
  links : Tbl (List Cell)
  /-- key ((tile·256 + plot)·4096 + furrow)·2 + direction -/
  staging : Tbl Staging
  portq : Tbl (List StagedDfp)
  gleanPtr : Tbl Nat
  /-- fences of a tile: bits 0–4 sown outputs, 5–9 open-plane outputs (OD 0x2201.08) -/
  fences : Tbl (BitVec 16)
  dies : Tbl DieLock
  deriving DecidableEq, Repr

/-! ### The open plane (04) -/

/-- A packet: the 128-bit header of R34 and its payload bytes from byte 16 of the head flit on. -/
structure Packet where
  hdr : BitVec 128
  body : Bytes
  deriving DecidableEq, Repr

/-- A packet in a router input buffer with its route (R74, R79). -/
structure Held where
  pkt : Packet
  arrived : Nat
  out : Nat
  vc : Nat
  deriving DecidableEq, Repr

/-- Arbitration state of an output (R86, R87). -/
structure Arb where
  count : Nat
  ptr : Nat
  hint : Option (Nat × Nat)
  /-- mc at which the output can next start a packet -/
  busy : Nat
  /-- mc in which the next winner is to be hinted, and the input and VC of the packet last granted (R87) -/
  hintAt : Option Nat
  cur : Option (Nat × Nat)
  deriving DecidableEq, Repr

/-- The states of a request slot (R93). -/
inductive SlotState where
  | free | waiting | quarantine
  deriving DecidableEq, Repr

/-- Whom a reply serves (R93, R97). -/
inductive ReqRef where
  /-- request k of the sheaf with this id in an engine's queue -/
  | sheaf (engine sid k : Nat)
  /-- a steal request of an engine (R123) -/
  | steal (engine : Nat)
  /-- part k that a borrowed sheaf reads from its victim or writes back (R123) -/
  | stolen (victim lendId : Nat) (put : Bool) (k : Nat)
  /-- a packet of the open-path DFP at the head of the tile's ingress queue (R232) -/
  | dfp
  /-- a KHDR for a token slot's rank (R208) -/
  | khdr (slot rank serial : Nat)
  /-- a repair fetch of a collective (R186) -/
  | repair (plot : Nat) (step : BitVec 32) (chunk part owner k : Nat)
  | admin
  deriving DecidableEq, Repr

/-- A request slot with its recorded target and its timer (R93, R95). -/
structure Slot where
  state : SlotState
  target : Nat
  injected : Nat
  timeout : Nat
  who : Requester
  ref : ReqRef
  plot : Nat
  /-- its target refused it for a seal (R282) -/
  sealHit : Bool
  /-- the host DMA window of its plot when it was issued: base and bytes (R342) -/
  win : Option (Nat × Nat)
  deriving DecidableEq, Repr

/-- The open plane. Keys: links and inputs (tile·3 + subnet)·5 + input, with VCs ·4 + vc; outputs (tile·3 + subnet)·5 + out;
EJECT buffers tile·3 + subnet; slots owner·32 + slot with owner 1024 the steward and 1025 the vault. -/
structure Opn where
  /-- packets in flight toward an input, with the mc at which they reached the router that sent them -/
  links : Tbl (List (Packet × Nat))
  bufs : Tbl (List Held)
  /-- credits an output holds for a downstream VC; not listed: the full depth of R75 -/
  used : Tbl Nat
  /-- flits that have left a buffer and whose credit has not yet returned -/
  owed : Tbl Nat
  arbs : Tbl Arb
  eject : Tbl (List (Packet × Nat))
  slots : Tbl Slot
  scrubFlight : Nat
  debugFlight : Nat
  deriving DecidableEq, Repr

/-! ### Engines, lists, arithmetic, queues (05, 06, 07) -/

/-- How far a sheaf is (R99, R118). -/
inductive SheafState where
  | queued | running | issued | lent
  /-- started by being lent, and the victim's own again (R125) -/
  | back
  | finished
  deriving DecidableEq, Repr

/-- A command in an engine queue (R117). -/
structure Sheaf where
  sid : Nat
  cmd : BitVec 256
  /-- BASE of the list it came from -/
  base : Nat
  plot : Nat
  ctx : Nat
  index : Nat
  deadline : BitVec 48
  state : SheafState
  late : Bool
  /-- requests sent so far, in all, and awaiting a reply -/
  issued : Nat
  total : Nat
  outst : Nat
  status : BitVec 8
  detail : BitVec 8
  /-- no longer stealable (R125) -/
  noSteal : Bool
  /-- MSG_ID of a queue.send, start tick of a list.tick -/
  aux : Nat
  deriving DecidableEq, Repr

/-- The states of a list context (R110). -/
inductive CtxState where
  | idle | dispatch | stalled | draining | report
  deriving DecidableEq, Repr

/-- A list frame: list address, next command index, BASE and the length limit (R110, R111, R112). -/
structure ListFrame where
  list : Nat
  index : Nat
  base : Nat
  limit : Nat
  deriving DecidableEq, Repr

/-- One loop counter (R111). -/
structure LoopCtr where
  value : Nat
  loaded : Bool
  deriving DecidableEq, Repr

/-- A list context (R110, R111, R116). -/
structure Ctx where
  state : CtxState
  plot : Nat
  cur : ListFrame
  /-- callers, innermost first, at most three -/
  stack : List ListFrame
  loops : Tbl LoopCtr
  launch : BitVec 48
  /-- status record address; none for a handler launch (R112) -/
  statusAt : Option Nat
  /-- queue and header byte address of a handler's message -/
  handler : Option (Nat × Nat × Bool)
  status : BitVec 8
  stIndex : Nat
  stEngine : Nat
  stDetail : BitVec 8
  done : Nat
  /-- held by a collective (R180) -/
  held : Bool
  deriving DecidableEq, Repr

/-- A launch waiting for a context (R110). -/
structure Launch where
  plot : Nat
  list : Nat
  base : Nat
  limit : Nat
  statusAt : Option Nat
  handler : Option (Nat × Nat × Bool)
  deriving DecidableEq, Repr

/-- ENG_CTRL (R126). -/
structure EngCtrl where
  stealEn : Bool
  ringLen : Nat
  margin : Nat
  capMover : Nat
  capQueue : Nat
  stealRing : BitVec 80
  deriving DecidableEq, Repr

/-- OPEN_CTRL without its view of the slots (R98). -/
structure OpenCtrl where
  grantN : Nat
  hintEn : Bool
  reqTimeout : Nat
  deriving DecidableEq, Repr

/-- A sheaf that a victim has lent (R123, R125). -/
structure Lent where
  lendId : Nat
  engine : Nat
  sid : Nat
  thief : Nat
  deriving DecidableEq, Repr

/-- A sheaf that a thief holds for a victim (R123): its command with absolute operands, the GETs sent and their replies awaited,
the operand's parts, whether it has run, what it gave (bytes, or accumulator entries in wire form), the PUTs sent, and whether any
step failed. -/
structure Borrowed where
  victim : Nat
  lendId : Nat
  engine : Nat
  cmd : BitVec 256
  plot : Nat
  asked : Nat
  outst : Nat
  got : Tbl Bytes
  ran : Bool
  result : Bytes
  put : Nat
  failed : Bool
  deriving DecidableEq, Repr

/-- What a semaphore was before its first change in an mc, less what has started on it since, and what was added in that mc
(R101, R121). -/
structure SemMc where
  mc : Nat
  seen : Nat
  added : Nat
  deriving DecidableEq, Repr

/-- The steal unit's state for one engine (R123). -/
structure StealUnit where
  tried : Nat
  inFlight : Bool
  lend : Option Packet
  deriving DecidableEq, Repr

/-- A narrow oasis's grid: not yet taken, float or integer (R136). -/
inductive Grid where
  | none | float | int
  deriving DecidableEq, Repr

/-- A full-range accumulator entry of either form (R137). `any` in the wide form is COUNT ≠ 0. -/
structure Fra where
  sum : Int
  count : Nat
  any : Bool
  nan : Bool
  pinf : Bool
  ninf : Bool
  onlyNz : Bool
  ovf : Bool
  inexact : Bool
  deriving DecidableEq, Repr

/-- A reserved oasis (R107, R136). An entry not listed is in its reset form. -/
structure Oasis where
  wide : Bool
  size : Nat
  grid : Grid
  entries : Tbl Fra
  deriving DecidableEq, Repr

/-- The array's weight store after an array.load (R150): K, N, format and the SRAM image copied. -/
structure Weights where
  k : Nat
  n : Nat
  fmt : Nat
  data : Bytes
  deriving DecidableEq, Repr

/-- A handler entry (R165). -/
structure Handler where
  list : Nat
  valid : Bool
  freeOnEnd : Bool
  queue : Nat
  cmds : Nat
  deriving DecidableEq, Repr

/-- What a ring entry is: a message with its handler as it was at the landing (R112), a skip entry, an abandoned one (R161, R162, R169). -/
inductive EntryKind where
  | message (handler : Option Handler)
  | skip
  | void
  deriving DecidableEq, Repr

/-- A reserved entry of a ring that is not yet published (R162, R163). -/
structure OpenEntry where
  ptr : Nat
  cells : Nat
  complete : Bool
  kind : EntryKind
  deriving DecidableEq, Repr

/-- A published message entry not yet passed (R163, R378): pointer, cells and the mc of publication. -/
structure Published where
  ptr : Nat
  cells : Nat
  mc : Nat
  deriving DecidableEq, Repr

/-- A queue's QUEUE_CTRL (R160), with the grid of a narrow region and the publication marks of its entries (R163). -/
structure Queue where
  bound : Bool
  base : Nat
  size : Nat
  combine : Bool
  wr : Nat
  rsv : Nat
  rd : Nat
  seqNext : Nat
  wide : Bool
  sem : Nat
  semEn : Bool
  contrib : Nat
  expect : Nat
  grid : Grid
  /-- reserved entries from WR on -/
  open_ : List OpenEntry
  /-- published message entries from RD on -/
  pubs : List Published
  deriving DecidableEq, Repr

/-- A fallback entry: queue, handler as it was at the landing, header and 128 bytes of data (R166). -/
structure FbEntry where
  queue : Nat
  handler : Option Handler
  hdr : BitVec 512
  data : Bytes
  deriving DecidableEq, Repr

/-- An assembly of a multi-packet message (R169). -/
structure Assembly where
  src : Nat
  msgId : Nat
  queue : Nat
  ptr : Nat
  cells : Nat
  left : Nat
  last : Nat
  deriving DecidableEq, Repr

/-! ### Kernels (09) -/

/-- A DFP inside the block: its 256-bit header (R29) and payload bytes. -/
structure Dfp where
  hdr : BitVec 256
  payload : Bytes
  deriving DecidableEq, Repr

/-- An open token (R205–R211): origin, TAG, SERIAL, parts landed, whether it has been gated, gate bits of each rank, ranks
dispatched, ranks missing, the parts of expert outputs taken (key 8·rank + part) and the accumulator entries. -/
structure Token where
  src : BitVec 32
  token : BitVec 32
  serial : Nat
  landed : List Nat
  gated : Bool
  gates : List (BitVec 32)
  ranks : List Nat
  missing : List Nat
  outs : Tbl Bytes
  acc : Tbl Fra
  deriving DecidableEq, Repr

/-- A bound kernel (R200, R201). -/
structure Kernel where
  plot : Nat
  dispatch : Bool
  cls : Nat
  outClass : Nat
  missZero : Bool
  tokFmt : Nat
  wFmt : Nat
  retFmt : Nat
  outFmt : Nat
  rnd : Nat
  gateMode : Nat
  topk : Nat
  k : Nat
  n : Nat
  tokSlots : Nat
  retWait : Nat
  pkey : BitVec 16
  wAddr : Nat
  expAddr : Nat
  tokBuf : Nat
  scale : BitVec 32
  clip : BitVec 32
  loaded : Bool
  unbinding : Bool
  serial : Nat
  tokens : Tbl Token
  deriving DecidableEq, Repr

/-- A KHDR entry of a port tile (R208, R209): sender, tag and the 16 payload bytes. One answered BUSY holds no entry: it is kept
only so that its train is known and discarded. -/
structure Khdr where
  src : Nat
  plot : Nat
  tag : BitVec 32
  body : Bytes
  refused : Bool
  deriving DecidableEq, Repr

/-- A train that a HOME has staged toward an egress tile, in staging order: a copy, or a combined token with its header
(R33, R209, R212). -/
structure DueTrain where
  src : Nat
  plot : Nat
  hdr : Option (BitVec 256)
  deriving DecidableEq, Repr

/-- A kernel or collective train landed at an egress tile (R209). -/
structure Train where
  src : Nat
  furrow : Nat
  plot : Nat
  data : Bytes
  deriving DecidableEq, Repr

/-- A programmable counter (R373). -/
structure Pmc where
  cfg : BitVec 64
  pending : Option (BitVec 64)
  value : Nat
  deriving DecidableEq, Repr

/-- Engines, contexts and the steal unit of a tile (R99–R126). -/
structure EngSt where
  /-- engine queues, key ENGINE code (R99) -/
  eng : Tbl (List Sheaf)
  sems : Tbl (BitVec 16)
  semMc : Tbl SemMc
  ctxs : Tbl Ctx
  launchQ : List Launch
  /-- handler launches waiting for room (R112) -/
  handlerWait : List Launch
  nextSid : Nat
  steal : Tbl StealUnit
  lent : List Lent
  borrowed : List Borrowed
  nextLend : Nat
  deriving DecidableEq, Repr

/-- An open-path DFP being sent by the ingress logic (R232): target tile, queue, plot, envelope and payload bytes, packets
sent, packets awaiting an ACK, MSG_ID, refused. -/
structure DfpSend where
  target : Nat
  queue : Nat
  plot : Nat
  data : Bytes
  issued : Nat
  outst : Nat
  msgId : Nat
  failed : Bool
  deriving DecidableEq, Repr

/-- A KHDR not yet injected (R208). -/
structure KhdrSend where
  target : Nat
  plot : Nat
  tag : BitVec 32
  body : Bytes
  cls : Nat
  slot : Nat
  rank : Nat
  deriving DecidableEq, Repr

/-- A GET that a collective's repair still has to send (R186). -/
structure GetSend where
  target : Nat
  plot : Nat
  addr : Nat
  bytes : Nat
  ref : ReqRef
  deriving DecidableEq, Repr

/-- A tile's end of the request network (R94, R232). -/
structure NetSt where
  /-- ejected requests not yet served, with the mc of ejection -/
  inbox : List (Packet × Nat)
  /-- replies that wait for room in INJECT: subnet, packet, eject mc -/
  replyWait : List (Nat × Packet × Nat)
  dfpOut : List DfpSend
  khdrOut : List KhdrSend
  getOut : List GetSend
  deriving DecidableEq, Repr

/-- Message queues of a tile (R157–R172). -/
structure MsgSt where
  msgId : Nat
  queues : Tbl Queue
  handlers : Tbl Handler
  fallback : List FbEntry
  asms : Tbl Assembly
  deriving DecidableEq, Repr

/-- Observation of a tile (R371–R381). -/
structure TileObs where
  ctr : Tbl (BitVec 32)
  ovf : BitVec 1024
  pmcs : Tbl Pmc
  /-- histogram bins, key queue·16 + bin (R378) -/
  hist : Tbl (BitVec 32)
  histClear : Bool
  hang : List Event
  frozen : Bool
  /-- trace buffer, newest first, and records lost since the last LOST (R381) -/
  trace : List (BitVec 128)
  traceLost : Nat
  /-- what the counters took in this mc, PMC i as event 1024 + i, and those of them that wrapped (R336, R384) -/
  adds : Tbl Nat
  wraps : List Nat
  deriving DecidableEq, Repr

/-- Kernels and collectives at a port tile (R191–R215). -/
structure KerSt where
  /-- DISPATCH and MAP kernels bound at this HOME, key CLASS + 64·MAP -/
  kernels : Tbl Kernel
  tokenIn : List Dfp
  expertIn : List Dfp
  khdrs : List Khdr
  /-- trains on their way to this egress tile -/
  due : List DueTrain
  trains : List Train
  /-- landing trains under assembly -/
  trainAsm : List Train
  /-- ACK and RESEND DFPs of collectives: plot, DFP -/
  collIn : List (Nat × Dfp)
  deriving DecidableEq, Repr

/-- One tile: everything R8 gives it. -/
structure Tile where
  openCtrl : OpenCtrl
  engCtrl : EngCtrl
  es : EngSt
  net : NetSt
  ms : MsgSt
  oases : Tbl Oasis
  weights : Option Weights
  pinned : Bool
  ob : TileObs
  ks : KerSt
  /-- sealed ranges: byte address, length (R281) -/
  sealed : List (Nat × Nat)
  zeroing : Bool
  /-- ECHK failures at use: frame of the last, and frames in a row (R288) -/
  echkFrame : Option (BitVec 48)
  echkRuns : Nat
  deriving DecidableEq, Repr

/-! ### Ports and traffic (10) -/

/-- The states of a port (R220). -/
inductive PortState where
  | absent | down | up | draining | safe
  deriving DecidableEq, Repr

/-- PORT_CTRL (R217) without STATE. -/
structure PortCtrl where
  mode : Nat
  bond : Nat
  encap : Bool
  vlan : Bool
  udpCsum : Bool
  autoUp : Bool
  passPeer : Nat
  pass : Bool
  passPlot : Nat
  passQueue : Nat
  ethertype : BitVec 16
  udpPort : BitVec 16
  vid : Nat
  windbreak : Nat
  drainLimit : Nat
  deriving DecidableEq, Repr

/-- A DFP in an egress queue (R237). -/
structure EgDfp where
  hdr : BitVec 256
  inPort : Nat
  plot : Nat
  color : Nat
  queue : Nat
  half : Bool
  pool : Nat
  src : Nat
  furrow : Nat
  /-- payload cells present, in order; the number due -/
  cells : List Bytes
  due : Nat
  broken : Bool
  whole : Bool
  marker : Bool
  enq : Nat
  deriving DecidableEq, Repr

/-- Configuration, shaper and state of an egress queue (R238–R240). -/
structure EgQueue where
  weight : Nat
  prio : Nat
  gated : Bool
  shapeEn : Bool
  qmax : Nat
  ylim : Nat
  owner : Nat
  rate : Nat
  burst : Nat
  tokens : Int
  tokensAt : Nat
  tag : BitVec 32
  largest : Nat
  dfps : List EgDfp
  deriving DecidableEq, Repr

/-- A gate entry (R242). -/
structure Gate where
  start : Nat
  stop : Nat
  valid : Bool
  qmask : BitVec 64
  deriving DecidableEq, Repr

/-- A frame on the wire or put on it (R224–R226). -/
structure TxFrame where
  bytes : Bytes
  err : Bool
  deriving DecidableEq, Repr

/-- An assembly entry of open-path DFPs at an egress port (R232): sender, MSG_ID, plot, queue, bytes due, bytes landed. -/
structure DfpAsm where
  src : Nat
  msgId : Nat
  plot : Nat
  queue : Nat
  due : Nat
  got : Bytes
  deriving DecidableEq, Repr

/-- Power of a port (R307). -/
inductive PortPwr where
  | on | fallow
  deriving DecidableEq, Repr

/-- MAC and IPv6 addresses of a port or half-port and of its peer (R217). -/
structure PortAddr where
  mac : BitVec 48
  ip6 : BitVec 128
  peerMac : BitVec 48
  peerIp6 : BitVec 128
  deriving DecidableEq, Repr

/-- The cage: link, presence and service button (R221, R222). -/
structure Cage where
  link : Bool
  /-- AUTO_UP still applies since the insertion -/
  autoPend : Bool
  present : Bool
  presentRuns : Nat
  /-- a scan has been read since reset; stable button level, scans at the other level, ignored until released, stuck raised -/
  scanned : Bool
  button : Bool
  buttonRuns : Nat
  btnIgnore : Bool
  stuckSent : Bool
  lastCell : BitVec 48
  deriving DecidableEq, Repr

/-- Egress pools and pause (R299). -/
structure Pools where
  req : Nat
  reply : Nat
  coll : Nat
  headroom : Nat
  lossless : BitVec 3
  pfcRx : BitVec 8
  deriving DecidableEq, Repr

/-- The egress half of a port (R232–R243). -/
structure Egress where
  queues : Tbl EgQueue
  gates : Tbl Gate
  gatesPend : Tbl Gate
  /-- virtual time of each output -/
  v : BitVec 32
  vB : BitVec 32
  /-- landed cells that wait for EGRESS_ENQUEUE: source, furrow, plot, cell -/
  rx : List (Nat × Nat × Nat × Cell)
  asm : List DfpAsm
  /-- the DFP in transmission on each output, with cells already sent -/
  tx : Option (EgDfp × Nat)
  txB : Option (EgDfp × Nat)
  sent : List TxFrame
  /-- PKT_NUM counts of the group this port leads, key plot·2 + phase -/
  pktNum : Tbl Nat
  /-- counts that have ended (R243) -/
  pktEnd : List Nat
  /-- round-robin pointer of bond choices, key plot·256 + lead -/
  rr : Tbl Nat
  deriving DecidableEq, Repr

/-- One port with its attach logic. -/
structure Port where
  ctrl : PortCtrl
  addrA : PortAddr
  addrB : PortAddr
  state : PortState
  cage : Cage
  bondFault : Bool
  facing : Bool
  pwr : PortPwr
  pools : Pools
  eg : Egress
  deriving DecidableEq, Repr

/-- A meter (R234). -/
structure Meter where
  cfg : BitVec 256
  tc : Nat
  tp : Nat
  at_ : Nat
  deriving DecidableEq, Repr

/-- The block-wide traffic tables (R229–R236). A class entry not listed is QUEUE = CLASS, OPEN = 1. -/
structure Traffic where
  sieve : Tbl (BitVec 320)
  lookup : Tbl (BitVec 64)
  classes : Tbl (BitVec 16)
  meters : Tbl Meter
  pauseTx : BitVec 8
  deriving DecidableEq, Repr

/-! ### Optics (11) -/

/-- One ring's loop: the register of R253 and the state of R249 and R251. -/
structure Loop where
  cfg : BitVec 128
  dac : BitVec 16
  last : BitVec 16
  /-- reading of this frame, and the readings of past frames, newest first -/
  now : List (BitVec 16)
  past : List (BitVec 16)
  e : Int
  i : Int
  ff : Int
  locked : Bool
  goodRuns : Nat
  badRuns : Nat
  railRuns : Nat
  deriving DecidableEq, Repr

/-- Stages of a calibration (R254, R255). -/
inductive CalStage where
  | idle | move | sweep | fine | verify | deferred
  deriving DecidableEq, Repr

/-- OPT_PORT of R254 with the calibration in progress (R255–R258). -/
structure OptPort where
  spare : Nat
  laneMap : BitVec 12
  calAuto : Bool
  stage : CalStage
  calCh : Nat
  frames : Nat
  /-- whole-port acquisition (R257) rather than a calibration, and failures in a row -/
  acquiring : Bool
  acqFails : Nat
  hRef : Nat
  /-- H of the frame in progress and of the one before (R250, R254) -/
  hNow : Nat
  hEnded : Nat
  lockedCh : BitVec 5
  /-- frames that each channel has been locked, up to 16 -/
  since : Tbl Nat
  lastCh : Nat
  lastEnd : BitVec 48
  /-- lane moves ordered for the next tick: lane, channel -/
  moves : List (Nat × Nat)
  /-- SETPT and DAC_BASE before a calibration, and the best code and reading of a sweep, by loop of the port -/
  saved : Tbl (BitVec 16 × BitVec 16)
  best : Tbl (BitVec 16 × BitVec 16)
  /-- lane that moves to a calibrated channel once it has locked, and that channel (R259) -/
  restore : Option (Nat × Nat)
  /-- a calibration of `calCh` is due and waits for its turn -/
  asked : Bool
  /-- the verification is that of a return to ON (R307) -/
  resume : Bool
  deriving DecidableEq, Repr

/-- The optics (R246–R258). -/
structure Optics where
  loops : Tbl Loop
  ports : Tbl OptPort
  combs : Tbl Bool
  calMax : Nat
  calInterval : Nat
  /-- DAC codes and lane moves put out at the last tick (R405) -/
  dacOut : List (Nat × BitVec 16)
  laneOut : List (Nat × Nat × Nat)
  deriving DecidableEq, Repr

/-! ### Plots and the vault (12) -/

/-- The states of a plot (R264). -/
inductive PlotState where
  | free | binding | bound | rebinding | teardown | scrubbing
  deriving DecidableEq, Repr

/-- The states of a key phase (R278). -/
inductive PhaseState where
  | empty | live | retiring | retired
  deriving DecidableEq, Repr

/-- Security flags of a plot (R276). -/
structure SecFlags where
  txEnc : Bool
  requireEnc : Bool
  noDebug : Bool
  deriving DecidableEq, Repr

/-- One participant of a collective (R179). -/
structure Part where
  tile : Nat
  src : Nat
  dst : Nat
  upTile : Nat
  srcAddr : Nat
  dstAddr : Nat
  coord : BitVec 32
  inBuf : Nat
  outBuf : Nat
  ctx : Nat
  deriving DecidableEq, Repr

/-- An input chunk buffer of a participant (R184, R191, R192): pieces complete, the bytes landed of the others (piece, place,
length), and the mc in which the last piece was complete. -/
structure InBuf where
  chunk : Nat
  pieces : List Nat
  landed : List (Nat × Nat × Nat)
  lastMc : Nat
  deriving DecidableEq, Repr

/-- An output chunk buffer (R184, R193), and the mc of its ACK. -/
structure OutBuf where
  chunk : Nat
  decided : Bool
  acked : Option Nat
  deriving DecidableEq, Repr

/-- A repair of a damaged train at a participant (R186): the tile that asks, the source index and owner index of the train, the
all-gather train or the reduce-scatter one, parts asked for in all, and the bytes of the parts that have come. -/
structure Repair where
  by_ : Nat
  part : Nat
  owner : Nat
  gather : Bool
  parts : Nat
  got : Tbl Bytes
  failed : Bool
  deriving DecidableEq, Repr

/-- A chunk in the pipeline: its reduce-scatter frame, the flags that participant j knows of owner i (key 16·j + i), the
participants not ready, repairs, and the participants that have put the chunk out (R183–R187). -/
structure ChunkRun where
  chunk : Nat
  r : BitVec 48
  notReady : List Nat
  flags : Tbl (BitVec 8)
  repairs : List Repair
  sent : List Nat
  deriving DecidableEq, Repr

/-- A piece that comes back from the upper tier (R194): bytes by offset, and whether it has reached the owner. -/
structure UpPiece where
  chunk : Nat
  piece : Nat
  got : Tbl Bytes
  ready : Bool
  deriving DecidableEq, Repr

/-- A running collective (R178–R196). -/
structure Coll where
  step : BitVec 32
  exact : Bool
  up : Bool
  inFmt : Nat
  outFmt : Nat
  retFmt : Nat
  rnd : Nat
  elements : Nat
  piece : Nat
  furrowBase : Nat
  startFrame : BitVec 48
  upWait : Nat
  srSeed : BitVec 32
  srCtr : BitVec 32
  pkey : BitVec 16
  cls : Nat
  upDst : BitVec 32
  record : Nat
  parts : List Part
  nextNew : Nat
  rerun : List Nat
  runs : List ChunkRun
  done : Nat
  defers : Nat
  reruns : Nat
  repairs : Nat
  first : BitVec 48
  inb : Tbl InBuf
  outb : Tbl OutBuf
  upIn : List UpPiece
  /-- of each participant, the number of the next sheaf of its tile when the sequencer last dispatched there (R183) -/
  marks : Tbl Nat
  deriving DecidableEq, Repr

/-- Placement generation and graft map of a plot (R301). -/
structure Graft where
  gen : BitVec 16
  hold : Nat
  holding : Bool
  map : Tbl (BitVec 16)
  /-- the plot's tiles under generation c − 1 (R302) -/
  old : BitVec 1024
  deriving DecidableEq, Repr

/-- Key phases and security flags of a plot (R276, R278). -/
structure PlotKeys where
  phase0 : PhaseState
  phase1 : PhaseState
  /-- keys as the vault and its port units hold them; none when erased -/
  key0 : Option Bytes
  key1 : Option Bytes
  tx : Bool
  txNext : Option Bool
  sec : SecFlags
  secNext : Option SecFlags
  sealedFlag : Bool
  capsules : Bytes
  deriving DecidableEq, Repr

/-- A plot's host side: DMA window, launch result and doorbell queue (R338–R342). -/
structure PlotHost where
  dmaBase : BitVec 64
  dmaPages : BitVec 32
  dmaValid : Bool
  launchResult : Nat
  launchTile : Nat
  dbFull : Bool
  accepted : BitVec 16
  /-- doorbell queue: false collective, true kernel; host offset (R341) -/
  doorbells : List (Bool × BitVec 32)
  deriving DecidableEq, Repr

/-- A plot's configuration entries (R263). -/
structure PlotCfg where
  tiles : BitVec 1024
  recovery : Bool
  sownQuota : Nat
  stealEn : Bool
  queueQuota : Nat
  hbm : BitVec 128
  owner : Bytes
  tilesNext : BitVec 1024
  rankBase : BitVec 32
  rankCount : BitVec 32
  deriving DecidableEq, Repr

/-- A plot (R263, R264). -/
structure Plot where
  state : PlotState
  cfg : PlotCfg
  /-- tiles that the routers take (R266 step 1) -/
  owned : BitVec 1024
  result : BitVec 8
  bindSerial : BitVec 32
  graft : Graft
  keys : PlotKeys
  host : PlotHost
  colls : List Coll
  /-- STEPs of collectives that have ended, with the mc (R197) -/
  collEnded : List (BitVec 32 × Nat)
  /-- HBM ranges being scrubbed: die, base granule, granules -/
  scrubs : List (Nat × Nat × Nat)
  /-- the map of the REBIND in progress, as it was checked (R267) -/
  moving : BitVec 1024
  /-- the ranges before the last cut of HBM, and the mc of that cut (R272) -/
  hbmOld : BitVec 128
  hbmCut : Option Nat
  deriving DecidableEq, Repr

/-- An SPDM session (R275, R276). -/
structure Session where
  ch : Channel
  established : Bool
  mutualHash : Option Bytes
  claim : Option Nat
  deriving DecidableEq, Repr

/-- A queued capsule unwrap (R281). -/
structure CapReq where
  plot : Nat
  offset : Nat
  tile : Nat
  sram : Nat
  /-- what the checks before deciphering gave when the unwrap began, and the capsule's LENGTH -/
  verdict : Nat
  len : Nat
  deriving DecidableEq, Repr

/-- The state of an IDE key set (R277). -/
inductive IdeState where
  | empty | programmed | active
  deriving DecidableEq, Repr

/-- A command on the key port that awaits its answer (R400): 0 PROG, 1 GO, 2 STOP. -/
structure IdeCmd where
  cmd : Nat
  id : IdeKeyId
  key : BitVec 256
  iv : BitVec 64
  deriving DecidableEq, Repr

/-- A request that waits for random bits (R284, R285). -/
inductive VaultJob where
  | keyExchange
  | challenge (nonce : Bytes)
  | measurements (session : Option Nat) (index : Nat) (nonce : Bytes)
  deriving DecidableEq, Repr

/-- The vault's answer to the last request: response code 0 response, 1 error, 2 vendor result, 3 IDE_KM, 4 IDE_KM error. -/
structure VaultReply where
  kind : Nat
  code : BitVec 8
  body : Bytes
  deriving DecidableEq, Repr

/-- The random source (R284, R285); `restarting`: its start-up test runs. -/
inductive RngState where
  | ok | restarting | dead
  deriving DecidableEq, Repr

/-- The vault (R273–R285). -/
structure Vault where
  identity : Bool
  sessions : Tbl Session
  /-- negotiated so far on each channel: version, capabilities, algorithms -/
  negotiated : Tbl Nat
  reply : VaultReply
  chunk : Bytes
  capQ : List CapReq
  ideMgr : Bytes
  ide : List (IdeKeyId × IdeState)
  idePort : Option IdeCmd
  rng : RngState
  rngFails : List Nat
  /-- consumers that wait for random bits, oldest first -/
  rngWait : List (Channel × VaultJob)
  /-- seedings of the generator so far, over all resets, and requests that it has served since the last (R284) -/
  seeds : Nat
  draws : Nat
  bootBytes : Bytes
  reportReq : Tbl (Nat × Bytes)
  deriving DecidableEq, Repr

/-! ### Faults and the quorum (13) -/

/-- A failover that has been decided but not finished (R71, R292). -/
structure Failover where
  cls : Nat
  resource : Nat
  entry : Nat
  /-- when the fault was detected -/
  frame : BitVec 48
  offset : Nat
  /-- its FAULT event has been raised -/
  told : Bool
  deriving DecidableEq, Repr

/-- Fault detection, wear and the failover library (R288–R292). -/
structure FaultSt where
  /-- uncorrectable link errors in this frame, key link index -/
  linkErr : Tbl Nat
  /-- resources declared failed: class, index -/
  failed : List (Nat × Nat)
  /-- uncorrectable HBM errors of a quarter: address and frame -/
  hbmErr : Tbl (List (Nat × BitVec 48))
  /-- wear: key kind·4096 + index to W, WARN, quiet until below half -/
  wear : Tbl (BitVec 32 × Bool × Bool)
  thTile : BitVec 32
  thLink : BitVec 32
  thPort : BitVec 32
  decay : Nat
  library : Tbl (BitVec 64)
  /-- the alternate in progress, and faults that wait (R71) -/
  current : Option Failover
  waiting : List Failover
  deriving DecidableEq, Repr

/-- A quorum round (R296). -/
structure Round where
  number : BitVec 32
  v : BitVec 32
  views : Tbl (BitVec 32)
  commit1 : Tbl (BitVec 32)
  commit2 : Tbl (BitVec 32)
  f : BitVec 32
  phase : Nat
  deriving DecidableEq, Repr

/-- A quorum message: KIND, SENDER, PASS, ROUND, SET, GROUP_ID (R293). -/
structure QMsg where
  kind : Nat
  sender : Nat
  pass : Nat
  round : BitVec 32
  set : BitVec 32
  group : BitVec 32
  deriving DecidableEq, Repr

/-- The quorum group (R294–R298). -/
structure Quorum where
  en : Bool
  self : Nat
  hbInterval : Nat
  hbMiss : Nat
  phase : Nat
  members : Tbl (BitVec 64)
  failed : BitVec 32
  round : BitVec 32
  maxRound : BitVec 32
  cur : Option Round
  held : BitVec 32
  selfOut : Bool
  /-- quorum DFPs that arrived and are not yet checked, and those checked -/
  rawIn : List QMsg
  good : List QMsg
  /-- quorum DFPs handed to the egress: destination member, message -/
  out : List (Nat × QMsg)
  /-- quorum DFPs that wait for the admin sub-network: outward, port tile, half, header and payload (R13) -/
  net : List (Bool × Nat × Bytes)
  deriving DecidableEq, Repr

/-! ### Power (14) -/

/-- The states of a cluster (R305). -/
inductive ClusterState where
  | active | fallow | deep
  deriving DecidableEq, Repr

/-- What a transition changes: a cluster's state, a port's power, or a self-test stage of a cluster (R308, R354). -/
inductive PowerUnit where
  | cluster (c : Nat) (dest : ClusterState)
  | port (p : Nat) (dest : PortPwr)
  | selfTest (c : Nat) (start : Bool)
  deriving DecidableEq, Repr

/-- A transition in a die's queue (R310). -/
structure Transition where
  unit : PowerUnit
  /-- stages ended, in all; running; mc at which the next stage became ready; mc waited -/
  ended : Nat
  stages : Nat
  running : Bool
  readyAt : Nat
  waited : Nat
  step : Nat
  deriving DecidableEq, Repr

/-- Power (R305–R314). -/
structure Power where
  clusters : Tbl ClusterState
  testing : List Nat
  queues : Tbl (List Transition)
  /-- stage starts of a die: mc, step in 0.1 A -/
  starts : Tbl (List (Nat × Nat))
  slew0 : Nat
  slew1 : Nat
  slew2 : Nat
  slew3 : Nat
  paceWin : Nat
  stFailed : BitVec 64
  stResult : Tbl (BitVec 8)
  deriving DecidableEq, Repr

/-! ### The steward's access paths (15, 16) -/

/-- The selectors of one channel (R318). -/
structure Sels where
  tile : Nat
  plot : Nat
  entry : BitVec 32
  desc : BitVec 32
  route : BitVec 32
  meter : Nat
  sieve : Nat
  lookup : Nat
  cls : Nat
  portQueue : Tbl Nat
  portGate : Tbl Nat
  loop : Nat
  optPort : Nat
  wear : BitVec 16
  library : Nat
  member : Nat
  cluster : Nat
  evsel : Nat
  hang : Nat
  histQ : Nat
  handler : Nat
  graft : Nat
  stCluster : Nat
  stage : BitVec 32
  deriving DecidableEq, Repr

/-- An open segmented transfer (R329, R330). -/
structure Transfer where
  index : Nat
  sub : Nat
  write : Bool
  total : Nat
  xcrc : BitVec 32
  /-- staging-region byte offset of a staged object -/
  base : Nat
  next : Nat
  data : Bytes
  deriving DecidableEq, Repr

/-- An MOA key slot (R325). -/
structure KeySlot where
  key : Bytes
  expert : Bool
  valid : Bool
  deriving DecidableEq, Repr

/-- SEQ tracking of a slot (R326): H, the values taken, the responses held. -/
structure SeqRec where
  h : BitVec 32
  any : Bool
  taken : List Nat
  replies : List (Nat × Bytes)
  deriving DecidableEq, Repr

/-- The steward's last answer: abort code and payload (R324). -/
structure Resp where
  abort : BitVec 8
  payload : Bytes
  deriving DecidableEq, Repr

/-- Management: addresses, key slots, selectors, transfers (R317–R331). -/
structure Mgmt where
  mgmtEn : Bool
  mac : BitVec 48
  ip4 : BitVec 32
  ip6 : BitVec 128
  udp : BitVec 16
  slot0 : KeySlot
  slot1 : KeySlot
  seq0 : SeqRec
  seq1 : SeqRec
  selsM : Sels
  sels0 : Sels
  sels1 : Sels
  xferM : Option Transfer
  xfer0 : Option Transfer
  xfer1 : Option Transfer
  resp : Resp
  /-- SEG_ACK last sent: SEGNO and abort -/
  segAck : Nat × BitVec 8
  /-- segments of a read last sent -/
  segOut : List Bytes
  authFailAt : Option Nat
  /-- frames given to the management MAC -/
  txFrames : List Bytes
  /-- a route image has been staged whole since start-up -/
  routeStaged : Bool
  coord : BitVec 32
  boot : BitVec 32
  fwVersion : BitVec 32
  deriving DecidableEq, Repr

/-- An event ring (R344). -/
structure Ring where
  base : BitVec 64
  sizeLog2 : Nat
  enable : Bool
  irqEn : Bool
  owner : BitVec 8
  mask : BitVec 16
  prod : BitVec 32
  cons : BitVec 32
  lost : BitVec 32
  ovf : Bool
  irqHold : Nat
  pendLoss : Nat
  lastIrq : Option (BitVec 48)
  wrote : Bool
  deriving DecidableEq, Repr

/-- What a DMA tag stands for (R399): a mover transfer's packet. -/
inductive DmaRef where
  | read (pkt : Packet)
  | write (pkt : Packet)
  deriving DecidableEq, Repr

/-- The host window, rings and DMA (16, R399). -/
structure HostIf where
  go : Bool
  busy : Bool
  done : Bool
  reqBuf : Mem
  rspBuf : Mem
  /-- latched wide registers: their bytes by offset -/
  latch : Tbl Bytes
  /-- bytes of wide registers written so far and held, by offset -/
  held : Tbl Byte
  rings : Tbl Ring
  /-- ring 0 has been enabled since reset (R353) -/
  ringOpen : Bool
  startBuf : List Event
  startLost : Nat
  irqs : List Nat
  dma : Tbl DmaRef
  mem : Mem
  readData : BitVec 64
  deriving DecidableEq, Repr

/-! ### HBM attach (19) -/

/-- An outstanding HBM request of an attach tile (R396): the mover packet it serves. -/
structure HbmReq where
  pkt : Packet
  plot : Nat
  addr : Nat
  write : Bool
  deriving DecidableEq, Repr

/-- An open HBM stream (R398). -/
structure HbmStream where
  plot : Nat
  furrow : Nat
  write : Bool
  next : Nat
  left : Nat
  first : BitVec 48
  sentThis : Nat
  /-- cells landed in this frame, key CELL_INDEX, with STALE -/
  landed : Tbl (Bytes × Bool)
  deriving DecidableEq, Repr

/-- The HBM attach logic of one tile. -/
structure HbmAttach where
  reqs : Tbl HbmReq
  streams : Tbl HbmStream
  deriving DecidableEq, Repr

/-! ### Start-up, firmware, observation (17, 18) -/

/-- BOOT_STAGE (R353). `held` is the block held in reset. -/
inductive BootStage where
  | held | stage (n : Nat) | done | recovery | flashFail
  deriving DecidableEq, Repr

/-- A directory copy (R359): valid, SEQ, ACTIVE, TRIAL, TRIED. -/
structure DirCopy where
  valid : Bool
  seq : BitVec 32
  active : Bool
  trial : Bool
  tried : Bool
  deriving DecidableEq, Repr

/-- The states of a firmware slot (R361). -/
inductive FwSlotState where
  | empty | partial_ | written | verified | bad
  deriving DecidableEq, Repr

/-- A record of the persistent store (R366). -/
structure PsRec where
  key : Nat
  rseq : Nat
  data : Bytes
  good : Bool
  sector : Nat
  deriving DecidableEq, Repr

/-- Flash, OTP and the running firmware (R357–R367). These outlive a reset. -/
structure Firmware where
  stage : BootStage
  dir0 : DirCopy
  dir1 : DirCopy
  slotA : Mem
  slotB : Mem
  stateA : FwSlotState
  stateB : FwSlotState
  running : Bool
  trialRun : Bool
  verifyRes : Nat
  rollback : Nat
  endRaised : Bool
  records : List PsRec
  erases : Tbl Nat
  used : Tbl Nat
  writeSector : Nat
  worn : Bool
  wearRaised : Bool
  keyJournal : Bool
  seedGood : Bool
  restartDue : Bool
  /-- no flash write starts any more after a thermal trip (R368) -/
  flashStop : Bool
  cert : Bytes
  deriving DecidableEq, Repr

/-- Rake, trace and hang-ring registers of the block (R374–R381). -/
structure Obs where
  rakeK : Nat
  rakeBase : BitVec 64
  rakeSeq : Nat
  /-- a latch being written out: its bytes by host address, and SEQ -/
  rake : Option (Nat × List (Nat × Bytes))
  hangBase : BitVec 64
  traceCtrl : BitVec 8
  traceTiles : BitVec 1024
  traceOut : List (BitVec 128)
  deriving DecidableEq, Repr

/-- The thermal trip (R312). -/
structure Trip where
  tripped : Bool
  latch : Bool
  deriving DecidableEq, Repr

/-- Stored words that hold an error which ECC will find (R130, R137, R288): of SRAM by tile·2^18 + 8-byte word, of the accumulator
store by (tile·64 + oasis)·16384 + entry, of router memory by tile. `true`: the error cannot be corrected. -/
structure Ecc where
  sram : Tbl Bool
  fra : Tbl Bool
  router : Tbl Bool
  deriving DecidableEq, Repr

/-- A bit that hardware sets and that writing 1 clears (R336). -/
inductive HsBit where
  | dbFull (plot : Nat)
  | mboxDone
  | ringOvf (ring : Nat)
  | wearWarn (resource : Nat)
  | frozen (tile : Nat)
  deriving DecidableEq, Repr

/-- What has happened in this mc and what a rule on events of one mc looks back on, or has put off to the end of the mc. -/
inductive McNote where
  /-- a bit was set -/
  | set (bit : HsBit)
  /-- a launch left the launch queue of a tile; a descriptor was read from the doorbell queue of a plot -/
  | launched (tile : Nat)
  | fetched (plot : Nat)
  /-- a host command reached a port; its service button was pressed; its drain limit expired (R223) -/
  | portCmd (port : Nat)
  | press (port : Nat)
  | expiry (port : Nat)
  /-- a member of a bond started to transmit: lead, PKT_NUM key, member (R243) -/
  | started (lead key port : Nat)
  /-- an event was raised: an S event or not (R346, R350) -/
  | event (sys : Bool) (e : Event)
  /-- CONS of a ring was written (R347) -/
  | cons (ring : Nat)
  /-- a write of a meter (R236), of a shaper, and of SHAPE_EN (R241) -/
  | meter (id : Nat) (word : BitVec 256)
  | shaper (port queue rate burst : Nat)
  | shapeEn (port queue : Nat) (on : Bool)
  /-- a write of RD, a write of FB_POP, a drain of the fallback into a queue, the time of an assembly has run out, and the entry that
  a handler number takes (R174) -/
  | rd (tile queue value : Nat)
  | fbPop (tile : Nat)
  | drained (tile queue : Nat)
  | abandon (tile index : Nat)
  | handler (tile number : Nat) (entry : Handler)
  /-- a launch of a plot was accepted at a tile; a port's FALLOW was accepted; SLEW0 to SLEW3 and PACE_WIN before a write (R313) -/
  | launch (plot tile : Nat)
  | portFallow (port : Nat)
  | slews (old : List Nat)
  deriving DecidableEq, Repr

/-- The block: everything but the queue of waiting commands and the thermal trip. -/
structure Blk where
  member : Member
  /-- mesh clock in use, in kHz, 1,200,000 to 2,000,000 (R4, R386) -/
  meshKhz : Nat
  clk : Clock
  sown : Sown
  opn : Opn
  tiles : Tbl Tile
  ports : Tbl Port
  traf : Traffic
  optics : Optics
  plots : Tbl Plot
  vault : Vault
  bindCount : BitVec 32
  fault : FaultSt
  quorum : Quorum
  power : Power
  mgmt : Mgmt
  host : HostIf
  hbma : Tbl HbmAttach
  fw : Firmware
  obs : Obs
  /-- tile SRAM, key tile·2^21 + byte address -/
  sram : Mem
  /-- HBM, key die·2^36 + byte address -/
  hbm : Mem
  ecc : Ecc
  /-- this mc so far, oldest first -/
  mcLog : List McNote
  deriving DecidableEq, Repr

/-- The machine's state: the commands that wait, first in first out, the thermal trip, and the block. -/
structure State where
  pending : List Instr
  trip : Trip
  blk : Blk
  /-- the block as this mc began: what a read of an RO field returns (R333, R336) -/
  was : Blk
  deriving DecidableEq, Repr

/-- What a read sees besides the block: the trip, and the block as this mc began. -/
structure Seen where
  trip : Trip
  was : Blk
  deriving DecidableEq, Repr

def State.seen (s : State) : Seen := { trip := s.trip, was := s.was }

/-- A block that takes the place of the old one in a reset: nothing of this mc is left to look back on. -/
def State.anew (s : State) (trip : Trip) (b : Blk) : State := { s with trip := trip, blk := b, was := b }

/-! ### Reset values. A table at reset lists nothing; what an unlisted entry holds is given here. -/

/-- An idle sown version (R48, R80). -/
def SownVersion.fresh : SownVersion :=
  { gen := 0#16, slots := 250, altOf := 0xFFFF#16, entries := [], descs := [], routes := [] }

/-- Staging with no buffer role taken: BUF_A fills, BUF_B sends and holds nothing (R58). -/
def Staging.fresh : Staging :=
  { fillA := true, filled := 0, hasSend := false, ready := false, stale := false, sent := 0, recv := [], read := [] }

/-- A die in frame lock. -/
def DieLock.fresh : DieLock := { locked := true, zeros := 0, clearFence := false }

/-- An output's arbiter. -/
def Arb.fresh : Arb := { count := 0, ptr := 0, hint := none, busy := 0, hintAt := none, cur := none }

/-- A FREE request slot. -/
def Slot.fresh : Slot :=
  { state := .free, target := 0, injected := 0, timeout := 0, who := .mover, ref := .admin, plot := 0,
    sealHit := false, win := none }

/-- An IDLE list context. -/
def Ctx.fresh : Ctx :=
  { state := .idle, plot := 0, cur := { list := 0, index := 0, base := 0, limit := 4096 }, stack := [], loops := [],
    launch := 0#48, statusAt := none, handler := none, status := 0#8, stIndex := 0, stEngine := 0, stDetail := 0#8,
    done := 0, held := false }

/-- The reset form of an accumulator entry (R137). -/
def Fra.fresh : Fra :=
  { sum := 0, count := 0, any := false, nan := false, pinf := false, ninf := false, onlyNz := true, ovf := false,
    inexact := false }

/-- An unbound queue (R160). -/
def Queue.fresh : Queue :=
  { bound := false, base := 0, size := 0, combine := false, wr := 0, rsv := 0, rd := 0, seqNext := 0, wide := false,
    sem := 0, semEn := false, contrib := 0, expect := 0, grid := .none, open_ := [], pubs := [] }

/-- An unbound handler (R165). -/
def Handler.fresh : Handler := { list := 0, valid := false, freeOnEnd := false, queue := 0, cmds := 0 }

/-- The steal unit at rest. -/
def StealUnit.fresh : StealUnit := { tried := 0, inFlight := false, lend := none }

/-- A programmable counter at reset (R373). -/
def Pmc.fresh : Pmc := { cfg := 0#64, pending := none, value := 0 }

/-- Engines of a tile at reset or when zeroed (R266). -/
def EngSt.fresh : EngSt :=
  { eng := [], sems := [], semMc := [], ctxs := [], launchQ := [], handlerWait := [], nextSid := 0, steal := [], lent := [],
    borrowed := [], nextLend := 0 }

/-- Message queues of a tile at reset or when zeroed. The first MSG_ID is 0 (log 7). -/
def MsgSt.fresh : MsgSt := { msgId := 0, queues := [], handlers := [], fallback := [], asms := [] }

/-- Kernels of a tile at reset. -/
def KerSt.fresh : KerSt :=
  { kernels := [], tokenIn := [], expertIn := [], khdrs := [], due := [], trains := [], trainAsm := [], collIn := [] }

/-- Observation of a tile at reset. -/
def TileObs.fresh : TileObs :=
  { ctr := [], ovf := 0#1024, pmcs := [], hist := [], histClear := false, hang := [], frozen := false,
    trace := [], traceLost := 0, adds := [], wraps := [] }

/-- A tile at reset (R98, R126). -/
def Tile.fresh : Tile :=
  { openCtrl := { grantN := 8, hintEn := true, reqTimeout := 68 },
    engCtrl := { stealEn := false, ringLen := 0, margin := 256, capMover := 24, capQueue := 24, stealRing := 0#80 },
    es := EngSt.fresh, net := { inbox := [], replyWait := [], dfpOut := [], khdrOut := [], getOut := [] }, ms := MsgSt.fresh,
    oases := [], weights := none, pinned := false, ob := TileObs.fresh, ks := KerSt.fresh, sealed := [],
    zeroing := false, echkFrame := none, echkRuns := 0 }

/-- PORT_CTRL at reset (R217). -/
def PortCtrl.fresh : PortCtrl :=
  { mode := 0, bond := 0, encap := false, vlan := false, udpCsum := false, autoUp := true, passPeer := 0, pass := false,
    passPlot := 0, passQueue := 0, ethertype := 0x88B5#16, udpPort := 0#16, vid := 0, windbreak := 88, drainLimit := 100 }

/-- An egress queue at reset (R238, R240). -/
def EgQueue.fresh : EgQueue :=
  { weight := 1, prio := 0, gated := false, shapeEn := false, qmax := 2048, ylim := 1024, owner := 0, rate := 0,
    burst := 1, tokens := 0, tokensAt := 0, tag := 0#32, largest := 0, dfps := [] }

/-- The quorum queues belong to plot 0 at PRIO 3 (R293). -/
def EgQueue.quorum (x : EgQueue) : EgQueue := { x with owner := 0, prio := 3, gated := false, shapeEn := false }

/-- A gate entry at reset (R242). -/
def Gate.fresh : Gate := { start := 0, stop := 0, valid := false, qmask := 0#64 }

/-- Zero addresses (R217). -/
def PortAddr.fresh : PortAddr := { mac := 0#48, ip6 := 0#128, peerMac := 0#48, peerIp6 := 0#128 }

/-- A cage with no module read yet (R220, R222). -/
def Cage.fresh : Cage :=
  { link := false, autoPend := false, present := false, presentRuns := 0, scanned := false, button := false,
    buttonRuns := 0, btnIgnore := false, stuckSent := false, lastCell := 0#48 }

/-- A port at reset (R217, R220, R299, R307, R353). -/
def Port.fresh : Port :=
  { ctrl := PortCtrl.fresh, addrA := PortAddr.fresh, addrB := PortAddr.fresh, state := .absent, cage := Cage.fresh,
    bondFault := false, facing := false, pwr := .on,
    pools := { req := 1024, reply := 1024, coll := 2048, headroom := 256, lossless := 0#3, pfcRx := 0#8 },
    eg := { queues := [], gates := [], gatesPend := [], v := 0#32, vB := 0#32, rx := [], asm := [], tx := none,
            txB := none, sent := [], pktNum := [], pktEnd := [], rr := [] } }

/-- A meter at reset (R234): CBS and PBS 4,144. -/
def Meter.fresh : Meter := { cfg := BitVec.ofNat 256 (4144 * 2 ^ 96 + 4144 * 2 ^ 120), tc := 0, tp := 0, at_ := 0 }

/-- A loop at reset (R253). The DAC code and the readings at reset are the model's (log 8). -/
def Loop.fresh : Loop :=
  { cfg := BitVec.ofNat 128 (1 + 2 * 2 ^ 1 + 4 * 2 ^ 5 + 256 * 2 ^ 16 + 16 * 2 ^ 28 + 0xFC0 * 2 ^ 40 + 256 * 2 ^ 52 +
      0x8000 * 2 ^ 64 + 0x8000 * 2 ^ 80 + 0xFFFF * 2 ^ 112),
    dac := 0#16, last := 0#16, now := [], past := [], e := 0, i := 0, ff := 0, locked := false, goodRuns := 0,
    badRuns := 0, railRuns := 0 }

/-- OPT_PORT at reset (R254). -/
def OptPort.fresh : OptPort :=
  { spare := 4, laneMap := 0x688#12, calAuto := true, stage := .idle, calCh := 0, frames := 0, acquiring := false,
    acqFails := 0, hRef := 0, hNow := 0, hEnded := 0, lockedCh := 0#5, since := [], lastCh := 4, lastEnd := 0#48, moves := [], saved := [],
    best := [], restore := none, asked := false, resume := false }

/-- Security flags at reset. -/
def SecFlags.fresh : SecFlags := { txEnc := false, requireEnc := false, noDebug := false }

/-- Keys of a plot after a bind (R266 step 4) and at reset. -/
def PlotKeys.fresh : PlotKeys :=
  { phase0 := .empty, phase1 := .empty, key0 := none, key1 := none, tx := false, txNext := none, sec := SecFlags.fresh,
    secNext := none, sealedFlag := false, capsules := List.replicate 48 0#8 }

/-- The host side of a plot at reset (R340, R342). -/
def PlotHost.fresh : PlotHost :=
  { dmaBase := 0#64, dmaPages := 0#32, dmaValid := false, launchResult := 0, launchTile := 0, dbFull := false,
    accepted := 0#16, doorbells := [] }

/-- A FREE plot (R263, R301). -/
def Plot.fresh : Plot :=
  { state := .free,
    cfg := { tiles := 0#1024, recovery := false, sownQuota := 0, stealEn := false, queueQuota := 0, hbm := 0#128,
             owner := List.replicate 48 0#8, tilesNext := 0#1024, rankBase := 0#32, rankCount := 0#32 },
    owned := 0#1024, result := 0#8, bindSerial := 0#32, graft := { gen := 0#16, hold := 4096, holding := false, map := [], old := 0#1024 },
    keys := PlotKeys.fresh, host := PlotHost.fresh, colls := [], collEnded := [], scrubs := [], moving := 0#1024,
    hbmOld := 0#128, hbmCut := none }

/-- Plot 0: always BOUND, owner of the system tile and of the staging region, 32 granules of die 0 (R263, R322). -/
def Plot.system : Plot :=
  { Plot.fresh with
    state := .bound, owned := BitVec.ofNat 1024 (2 ^ 33),
    cfg := { Plot.fresh.cfg with tiles := BitVec.ofNat 1024 (2 ^ 33), hbm := BitVec.ofNat 128 (32 * 2 ^ 16) } }

/-- The selectors of a channel at start-up (R318, R322). -/
def Sels.fresh : Sels :=
  { tile := 33, plot := 0, entry := 0#32, desc := 0#32, route := 0#32, meter := 0, sieve := 0, lookup := 0, cls := 0,
    portQueue := [], portGate := [], loop := 0, optPort := 0, wear := 0#16, library := 0, member := 0, cluster := 0,
    evsel := 0, hang := 0, histQ := 0, handler := 0, graft := 0, stCluster := 0, stage := 0#32 }

/-- An empty key slot (R325). -/
def KeySlot.fresh : KeySlot := { key := List.replicate 32 0#8, expert := false, valid := false }

/-- No SEQ taken yet (R326). -/
def SeqRec.fresh : SeqRec := { h := 0#32, any := false, taken := [], replies := [] }

/-- An event ring at reset (R344). -/
def Ring.fresh : Ring :=
  { base := 0#64, sizeLog2 := 6, enable := false, irqEn := false, owner := 0#8, mask := 0xFFFF#16, prod := 0#32,
    cons := 0#32, lost := 0#32, ovf := false, irqHold := 0, pendLoss := 0, lastIrq := none, wrote := false }

/-- An invalid directory copy. -/
def DirCopy.fresh : DirCopy := { valid := false, seq := 0#32, active := false, trial := false, tried := false }

/-- A blank flash and unprogrammed rollback steps (log 9). The seed is good (log 9). -/
def Firmware.blank : Firmware :=
  { stage := .stage 1, dir0 := DirCopy.fresh, dir1 := DirCopy.fresh, slotA := [], slotB := [], stateA := .empty,
    stateB := .empty, running := false, trialRun := false, verifyRes := 0, rollback := 0, endRaised := false,
    records := [], erases := [], used := [], writeSector := 0, worn := false, wearRaised := false, keyJournal := false,
    seedGood := true, restartDue := false, flashStop := false, cert := [] }

/-- The mesh fabric at reset: generation 0, 250 slots, idle tables, default routes (R352 stage 5). -/
def Sown.fresh : Sown :=
  { active := SownVersion.fresh, shadow := SownVersion.fresh, state := .free, expert := false, busy := false,
    swapFrame := 0#48, lastSwap := 0#48, windows := [], links := [], staging := [], portq := [],
    gleanPtr := [], fences := [], dies := [] }

/-- The open plane at reset: empty buffers, full credits, FREE slots. -/
def Opn.fresh : Opn :=
  { links := [], bufs := [], used := [], owed := [], arbs := [], eject := [], slots := [], scrubFlight := 0,
    debugFlight := 0 }

/-- The vault at reset. -/
def Vault.fresh : Vault :=
  { identity := false, sessions := [], negotiated := [], reply := { kind := 0, code := 0#8, body := [] }, chunk := [],
    capQ := [], ideMgr := List.replicate 48 0#8, ide := [], idePort := none, rng := .restarting, rngFails := [], rngWait := [],
    seeds := 0, draws := 0, bootBytes := List.replicate 16 0#8, reportReq := [] }

/-- Faults and wear at reset (R290). -/
def FaultSt.fresh : FaultSt :=
  { linkErr := [], failed := [], hbmErr := [], wear := [], thTile := 1024#32, thLink := 4096#32,
    thPort := 4096#32, decay := 16, library := [], current := none, waiting := [] }

/-- The quorum group at reset (R294). -/
def Quorum.fresh : Quorum :=
  { en := false, self := 0, hbInterval := 50, hbMiss := 4, phase := 250, members := [], failed := 0#32, round := 0#32,
    maxRound := 0#32, cur := none, held := 0#32, selfOut := false, rawIn := [], good := [], out := [], net := [] }

/-- Power at reset (R309). A cluster not listed is FALLOW (R353, log 10). -/
def Power.fresh : Power :=
  { clusters := [], testing := [], queues := [], starts := [], slew0 := 60, slew1 := 60, slew2 := 60, slew3 := 60,
    paceWin := 2000, stFailed := 0#64, stResult := [] }

/-- Management at reset (R322). -/
def Mgmt.fresh : Mgmt :=
  { mgmtEn := true, mac := 0#48, ip4 := 0#32, ip6 := 0#128, udp := 51200#16, slot0 := KeySlot.fresh,
    slot1 := KeySlot.fresh, seq0 := SeqRec.fresh, seq1 := SeqRec.fresh, selsM := Sels.fresh, sels0 := Sels.fresh,
    sels1 := Sels.fresh, xferM := none, xfer0 := none, xfer1 := none, resp := { abort := 0#8, payload := [] },
    segAck := (0, 0#8), segOut := [], authFailAt := none, txFrames := [], routeStaged := false,
    coord := 0#32, boot := 0#32, fwVersion := 0#32 }

/-- The host window at reset: the mailbox reads BUSY until stage 7 ends (R353). -/
def HostIf.fresh : HostIf :=
  { go := false, busy := true, done := false, reqBuf := [], rspBuf := [], latch := [], held := [], rings := [],
    ringOpen := false, startBuf := [], startLost := 0, irqs := [], dma := [], mem := [], readData := 0#64 }

/-- Observation at reset (R374, R379, R381). -/
def Obs.fresh : Obs :=
  { rakeK := 0, rakeBase := 0#64, rakeSeq := 0, rake := none, hangBase := 0#64, traceCtrl := 0#8, traceTiles := 0#1024,
    traceOut := [] }

/-- No stored word holds an error (log 53). -/
def Ecc.fresh : Ecc := { sram := [], fra := [], router := [] }

/-- The block after a reset, with what outlives it given: the member, the mesh clock, the firmware's flash and OTP, and how often the
random source has seeded its generator. -/
def Blk.after (m : Member) (khz seeds : Nat) (fw : Firmware) (hostMem : Mem) : Blk :=
  { member := m, meshKhz := khz, clk := { frame := 0#48, offset := 0, mc := 0, due := false }, sown := Sown.fresh, opn := Opn.fresh, tiles := [],
    ports := [], traf := { sieve := [], lookup := [], classes := [], meters := [], pauseTx := 0#8 },
    optics := { loops := [], ports := [], combs := [], calMax := 16, calInterval := 60, dacOut := [], laneOut := [] },
    plots := [(0, Plot.system)], vault := { Vault.fresh with seeds := seeds }, bindCount := 0#32, fault := FaultSt.fresh,
    quorum := Quorum.fresh, power := Power.fresh, mgmt := Mgmt.fresh, host := { HostIf.fresh with mem := hostMem },
    hbma := [], fw := fw, obs := Obs.fresh, sram := [], hbm := [], ecc := Ecc.fresh, mcLog := [] }

/-- The machine right after reset: a DX-1024 (R1) with a mesh clock of 2.0 GHz (R386, log 153), start-up stage 1 in progress
(R352, R388), no command waiting. -/
def State.reset : State :=
  let b := Blk.after .dx1024 2000000 0 Firmware.blank []
  { pending := [], trip := { tripped := false, latch := false }, blk := b, was := b }

/-- Why a command faults. -/
inductive Fault where
  /-- Raised by every event at a tile, link, port, die, cluster, comb or loop that the member does not have: R23 calls such an id
  invalid, and R1, R2 and R25 end the ranges at the member's own counts (log 16). Safe: no such place exists, so nothing can
  happen there. -/
  | noSuchUnit
  deriving DecidableEq, Repr

/-- Why a command is refused by the model. -/
inductive Refusal where
  /-- Raised by an arm of exec that has no meaning yet. Safe: nothing is claimed of it. -/
  | notModelled (mnemonic : String)
  deriving DecidableEq, Repr

end Sys2Proof.Machine
end

