-- ==== Sys2Proof/Machine/Arith.lean ====
section
/-! DEFINITION. Exact arithmetic: formats, the full-range accumulator, rounding, MX blocks and array scores (R132–R151). -/
namespace Sys2Proof.Machine

/-! ### Exact values -/

/-- A decoded value (R134): a finite nonzero one is `m · 2^e` with `m ≠ 0`. -/
inductive Val where
  | nan
  | inf (neg : Bool)
  | zero (neg : Bool)
  | fin (m e : Int)
  deriving DecidableEq, Repr

/-- The exact value `m · 2^e`, +0 for m = 0. -/
def Val.of (m e : Int) : Val := if m = 0 then .zero false else .fin m e

/-- The sign of a value. -/
def Val.neg? : Val → Bool
  | .nan => false
  | .inf n => n
  | .zero n => n
  | .fin m _ => m < 0

/-- m · 2^e in units of 2^q, for q ≤ e. -/
def scaleTo (m e q : Int) : Int := m * 2 ^ (e - q).toNat

/-- Compares |m₁|·2^e₁ < |m₂|·2^e₂. -/
def magLt (m₁ e₁ m₂ e₂ : Int) : Bool := (scaleTo m₁ e₁ (min e₁ e₂)).natAbs < (scaleTo m₂ e₂ (min e₁ e₂)).natAbs

/-- The IEEE 754 product, exact (R148, R149). -/
def Val.mul (x y : Val) : Val :=
  match x, y with
  | .nan, _ => .nan
  | _, .nan => .nan
  | .inf _, .zero _ => .nan
  | .zero _, .inf _ => .nan
  | .fin m e, .fin n f => .fin (m * n) (e + f)
  | .inf a, y => .inf (a != y.neg?)
  | x, .inf a => .inf (a != x.neg?)
  | .zero a, y => .zero (a != y.neg?)
  | x, .zero a => .zero (a != x.neg?)

/-- The smallest exponent of a run of values. -/
def minExp (l : List Val) : Int :=
  l.foldl (fun q x => match x with | .fin _ e => min q e | _ => q) 0

/-- The exact sum of a run (R151): NaN by a NaN or by both infinities, −0 only from −0 alone. -/
def Val.sum (l : List Val) : Val :=
  if l.contains .nan || (l.contains (.inf true) && l.contains (.inf false)) then .nan
  else if l.contains (.inf true) then .inf true
  else if l.contains (.inf false) then .inf false
  else
    let q := minExp l
    let s : Int := (l.map fun x => match x with | .fin m e => scaleTo m e q | _ => 0).sum
    if s = 0 then .zero (l.all fun x => x = .zero true) else .fin s q

/-! ### Formats (R133, R134) -/

/-- A floating format: exponent and fraction bits, bias, and its specials: 0 as IEEE 754, 1 as E4M3, 2 none. -/
structure FpFmt where
  eb : Nat
  fb : Nat
  bias : Int
  spec : Nat
  deriving DecidableEq, Repr

def fpBinary32 : FpFmt := { eb := 8, fb := 23, bias := 127, spec := 0 }
def fpBfloat16 : FpFmt := { eb := 8, fb := 7, bias := 127, spec := 0 }
def fpBinary16 : FpFmt := { eb := 5, fb := 10, bias := 15, spec := 0 }
def fpE4M3 : FpFmt := { eb := 4, fb := 3, bias := 7, spec := 1 }
def fpE5M2 : FpFmt := { eb := 5, fb := 2, bias := 15, spec := 0 }
def fpE3M2 : FpFmt := { eb := 3, fb := 2, bias := 3, spec := 2 }
def fpE2M3 : FpFmt := { eb := 2, fb := 3, bias := 1, spec := 2 }
def fpE2M1 : FpFmt := { eb := 2, fb := 1, bias := 1, spec := 2 }

/-- What an element is: a floating encoding, or an n-bit integer in units of 2^unit. -/
inductive Elem where
  | fp (f : FpFmt)
  | int (bits : Nat) (unit : Int)
  deriving DecidableEq, Repr

/-- Bits of an element. -/
def Elem.bits : Elem → Nat
  | .fp f => 1 + f.eb + f.fb
  | .int n _ => n

/-- The element of a format code; none for a reserved code (R133). -/
def fmtElem : Nat → Option Elem
  | 0 => some (.fp fpBinary32)
  | 1 => some (.fp fpBfloat16)
  | 2 => some (.fp fpBinary16)
  | 3 => some (.fp fpE4M3)
  | 4 => some (.fp fpE5M2)
  | 5 => some (.fp fpE4M3)
  | 6 => some (.fp fpE5M2)
  | 7 => some (.fp fpE3M2)
  | 8 => some (.fp fpE2M3)
  | 9 => some (.fp fpE2M1)
  | 10 => some (.int 8 (-6))
  | 11 => some (.int 8 0)
  | 12 => some (.int 16 0)
  | 13 => some (.int 32 0)
  | _ => none

/-- Whether a code is an MX format. -/
def isMx (c : Nat) : Bool := 5 ≤ c && c ≤ 10

/-- Whether a code is listed. -/
def fmtOk (c : Nat) : Bool := c ≤ 13

/-- Codes of the wide form, the narrow float form and the narrow integer form (R136). -/
def fmtWide (c : Nat) : Bool := c ≤ 1 || isMx c
def fmtNarrowFloat (c : Nat) : Bool := 2 ≤ c && c ≤ 4
def fmtNarrowInt (c : Nat) : Bool := 11 ≤ c && c ≤ 13

/-- Bits of one element of a code. -/
def fmtBits (c : Nat) : Nat := match fmtElem c with | some e => e.bits | none => 8

/-- Bytes of an MX block (R135). -/
def blockBytes (c : Nat) : Nat := fmtBits c * 4 + 4

/-- Bytes of a run of n elements of a code. -/
def runBytes (c n : Nat) : Nat := if isMx c then n / 32 * blockBytes c else n * (fmtBits c / 8)

/-- Alignment of a run: its element size, or 4 for MX (R103, R135). -/
def runAlign (c : Nat) : Nat := if isMx c then 4 else fmtBits c / 8

/-- A length that the code allows: whole blocks for MX (R135). -/
def lenOk (c n : Nat) : Bool := !isMx c || n % 32 = 0

/-! ### Decoding (R134, R135) -/

/-- The exact value of a floating encoding; subnormals exactly. -/
def FpFmt.decode (f : FpFmt) (x : Nat) : Val :=
  let neg := x / 2 ^ (f.eb + f.fb) % 2 = 1
  let ex := x / 2 ^ f.fb % 2 ^ f.eb
  let fr := x % 2 ^ f.fb
  let sgn : Nat → Int := fun n => if neg then -(n : Int) else n
  if f.spec = 0 ∧ ex = 2 ^ f.eb - 1 then (if fr = 0 then .inf neg else .nan)
  else if f.spec = 1 ∧ ex = 2 ^ f.eb - 1 ∧ fr = 2 ^ f.fb - 1 then .nan
  else if ex = 0 then (if fr = 0 then .zero neg else .fin (sgn fr) (1 - f.bias - f.fb))
  else .fin (sgn (2 ^ f.fb + fr)) (ex - f.bias - f.fb)

/-- The two's complement value of the low n bits. -/
def toSigned (n x : Nat) : Int :=
  let v := x % 2 ^ n
  if 2 * v < 2 ^ n then v else (v : Int) - 2 ^ n

def Elem.decode : Elem → Nat → Val
  | .fp f, x => f.decode x
  | .int n u, x => Val.of (toSigned n x) u

/-- A decoded element times its E8M0 scale (R135). -/
def mxValue (scale : Nat) (x : Val) : Val :=
  if scale = 255 then .nan
  else match x with
    | .fin m e => .fin m (e + scale - 127)
    | x => x

/-- Element i of a block or run whose bytes spell the number given. -/
def elemAt (bits i v : Nat) : Nat := v / 2 ^ (bits * i) % 2 ^ bits

/-- The 32 values of an MX block. -/
def decodeBlock (el : Elem) (xs : Bytes) : List Val :=
  let v := ofBytes xs
  let scale := v / 2 ^ (32 * el.bits) % 256
  (List.range 32).map fun i => mxValue scale (el.decode (elemAt el.bits i v))

/-- The values of n elements of a code. -/
def decodeRun (c n : Nat) (xs : Bytes) : List Val :=
  match fmtElem c with
  | none => []
  | some el =>
    if isMx c then
      (List.range (n / 32)).flatMap fun k => decodeBlock el ((xs.drop (k * blockBytes c)).take (blockBytes c))
    else
      let w := el.bits / 8
      (List.range n).map fun i => el.decode (ofBytes ((xs.drop (i * w)).take w))

/-! ### Rounding (R143–R147) -/

def rndNe : Nat := 0
def rndTz : Nat := 1
def rndDn : Nat := 2
def rndUp : Nat := 3
def rndNeSat : Nat := 4
def rndSr : Nat := 5
def rndSrSat : Nat := 6

/-- One step of the mixing of R147. -/
def srMix (x : Nat) : Nat :=
  let x := x ^^^ (x / 2 ^ 31)
  let x := x * 0xB51D3A6FC8E92D47 % 2 ^ 64
  x ^^^ (x / 2 ^ 29)

/-- The stochastic bits of an element (R147). -/
def srBits (seed ctr : Nat) : Nat :=
  srMix (srMix (srMix (srMix ((seed * 2 ^ 32 + ctr + 0x7A3B19C5E2D48F61) % 2 ^ 64)))) / 2 ^ 32

/-- Rounds `m · 2^e` to a multiple of 2^q by a mode; `bits` are the stochastic bits (R145, R147). -/
def roundTo (rnd bits : Nat) (m e q : Int) : Int :=
  if q ≤ e then scaleTo m e q
  else
    let d : Int := 2 ^ (q - e).toNat
    let lo := m / d
    let r := m % d
    if r = 0 then lo
    else
      let up : Bool :=
        if rnd = rndTz then m < 0
        else if rnd = rndDn then false
        else if rnd = rndUp then true
        else if rnd = rndSr || rnd = rndSrSat then (bits : Int) < r * 2 ^ 32 / d
        else d < 2 * r || (2 * r = d && lo % 2 = 1)
      if up then lo + 1 else lo

/-- The largest finite value of a floating format: its significand and the exponent of its unit. -/
def FpFmt.top (f : FpFmt) : Nat × Int :=
  if f.spec = 0 then (2 ^ (f.fb + 1) - 1, 2 ^ f.eb - 2 - f.bias - f.fb)
  else if f.spec = 1 then (2 ^ (f.fb + 1) - 2, 2 ^ f.eb - 1 - f.bias - f.fb)
  else (2 ^ (f.fb + 1) - 1, 2 ^ f.eb - 1 - f.bias - f.fb)

/-- The encoding of sign, significand n and unit 2^q. -/
def FpFmt.pack (f : FpFmt) (neg : Bool) (n : Nat) (q : Int) : Nat :=
  let (n, q) := if n = 2 ^ (f.fb + 1) then (2 ^ f.fb, q + 1) else (n, q)
  let s := if neg then 2 ^ (f.eb + f.fb) else 0
  if n < 2 ^ f.fb then s + n else s + (q + f.fb + f.bias).toNat * 2 ^ f.fb + (n - 2 ^ f.fb)

/-- Whether significand n and unit 2^q lie beyond the largest finite value. -/
def FpFmt.beyond (f : FpFmt) (n : Nat) (q : Int) : Bool :=
  let (n, q) := if n = 2 ^ (f.fb + 1) then (2 ^ f.fb, q + 1) else (n, q)
  f.top.2 < q || (q = f.top.2 && f.top.1 < n)

/-- An encoded element, and what it counts in ROUND_NAN and ROUND_SAT. -/
structure Enc where
  bits : Nat
  nans : Nat
  sats : Nat
  deriving DecidableEq, Repr

/-- Canonical NaN (R143); that of E4M3, 0x7F, counts in ROUND_NAN (R154). -/
def FpFmt.nan (f : FpFmt) : Enc :=
  if f.spec = 0 then { bits := (2 ^ f.eb - 1) * 2 ^ f.fb + 2 ^ (f.fb - 1), nans := 0, sats := 0 }
  else { bits := 2 ^ (f.eb + f.fb) - 1, nans := 1, sats := 0 }

/-- The largest finite value of a sign, counted in ROUND_SAT. -/
def FpFmt.maxEnc (f : FpFmt) (neg : Bool) : Enc := { bits := f.pack neg f.top.1 f.top.2, nans := 0, sats := 1 }

/-- ±∞ where the format has it; else the NaN encoding, counted in ROUND_NAN (R143). -/
def FpFmt.infEnc (f : FpFmt) (neg : Bool) : Enc :=
  if f.spec = 0 then
    { bits := (if neg then 2 ^ (f.eb + f.fb) else 0) + (2 ^ f.eb - 1) * 2 ^ f.fb, nans := 0, sats := 0 }
  else f.nan

/-- Modes whose overflow gives the largest finite value (R144). -/
def satMode (rnd : Nat) : Bool := rnd = rndNeSat || rnd = rndSrSat

/-- The overflow result of R143 for a finite value beyond range. -/
def FpFmt.overflow (f : FpFmt) (rnd : Nat) (neg : Bool) : Enc :=
  if satMode rnd || rnd = rndTz || (rnd = rndDn && !neg) || (rnd = rndUp && neg) then f.maxEnc neg else f.infEnc neg

/-- The unit in which a finite value of a floating format is rounded. -/
def FpFmt.unit (f : FpFmt) (m e : Int) : Int := max ((Nat.log2 m.natAbs : Int) + e - f.fb) (1 - f.bias - f.fb)

/-- A value written to a scalar floating format (R143, R145). -/
def FpFmt.encode (f : FpFmt) (rnd bits : Nat) : Val → Enc
  | .nan => f.nan
  | .inf neg => if satMode rnd then f.maxEnc neg else f.infEnc neg
  | .zero neg => { bits := if neg then 2 ^ (f.eb + f.fb) else 0, nans := 0, sats := 0 }
  | .fin m e =>
    let q := f.unit m e
    let n := (roundTo rnd bits m e q).natAbs
    if f.beyond n q then f.overflow rnd (m < 0) else { bits := f.pack (m < 0) n q, nans := 0, sats := 0 }

/-- A value written to a two's complement integer of n bits in units of 2^u (R143, R145). -/
def intEncode (n : Nat) (u : Int) (rnd bits : Nat) : Val → Enc
  | .nan => { bits := 0, nans := 1, sats := 0 }
  | .inf neg => { bits := if neg then 2 ^ (n - 1) else 2 ^ (n - 1) - 1, nans := 0, sats := 1 }
  | .zero _ => { bits := 0, nans := 0, sats := 0 }
  | .fin m e =>
    let v := roundTo rnd bits m e u
    if v < -2 ^ (n - 1) then { bits := 2 ^ (n - 1), nans := 0, sats := 1 }
    else if 2 ^ (n - 1) - 1 < v then { bits := 2 ^ (n - 1) - 1, nans := 0, sats := 1 }
    else { bits := (v % 2 ^ n).toNat, nans := 0, sats := 0 }

/-- A value written to a scalar format code. -/
def Elem.encode (el : Elem) (rnd bits : Nat) (x : Val) : Enc :=
  match el with
  | .fp f => f.encode rnd bits x
  | .int n u => intEncode n u rnd bits x

/-- emax of an MX element format (R146). -/
def mxEmax : Nat → Int
  | 5 => 8
  | 6 => 15
  | 7 => 4
  | 8 => 2
  | 9 => 2
  | _ => 0

/-- An element of an MX block after division by the scale: it saturates in every mode (R146). -/
def mxElem (el : Elem) (rnd bits : Nat) (x : Val) : Enc :=
  match el, x with
  | .fp f, .inf neg => f.infEnc neg
  | .fp f, .fin m e =>
    let q := f.unit m e
    let n := (roundTo rnd bits m e q).natAbs
    if f.beyond n q then f.maxEnc (m < 0) else { bits := f.pack (m < 0) n q, nans := 0, sats := 0 }
  | .fp f, x => f.encode rnd bits x
  | .int n u, .fin m e =>
    let v := roundTo rnd bits m e u
    let top : Int := 2 ^ (n - 1) - 1
    if v < -top then { bits := 2 ^ (n - 1) + 1, nans := 0, sats := 1 }
    else if top < v then { bits := 2 ^ (n - 1) - 1, nans := 0, sats := 1 }
    else { bits := (v % 2 ^ n).toNat, nans := 0, sats := 0 }
  | .int _ _, _ => { bits := 0, nans := 0, sats := 0 }

/-- Whether an element format has infinities. -/
def Elem.hasInf : Elem → Bool
  | .fp f => f.spec = 0
  | .int _ _ => false

/-- ⌊log2⌋ of the largest finite magnitude of a block, if any is not zero. -/
def maxLog (l : List Val) : Option Int :=
  l.foldl (fun a x => match x with
    | .fin m e =>
      let k := (Nat.log2 m.natAbs : Int) + e
      match a with
      | none => some k
      | some j => some (max j k)
    | _ => a) none

/-- The elements packed at their bit places. -/
def packElems (bits : Nat) (l : List Nat) : Nat := l.foldr (fun x a => x % 2 ^ bits + 2 ^ bits * a) 0

/-- An output run: its bytes and what it counts. -/
structure EncRun where
  bytes : Bytes
  nans : Nat
  sats : Nat
  deriving DecidableEq, Repr

/-- One MX block of 32 values (R146); `bits` gives the stochastic bits of the block's element i. -/
def encodeBlock (c : Nat) (el : Elem) (rnd : Nat) (bits : Nat → Nat) (l : List Val) : EncRun :=
  let blk := fun (scale : Nat) (es : List Enc) =>
    ({ bytes := toBytes (blockBytes c) (packElems el.bits (es.map (·.bits)) + scale * 2 ^ (32 * el.bits)),
       nans := 0, sats := (es.map (·.sats)).sum } : EncRun)
  if l.any fun x => x = .nan || (!el.hasInf && (x = .inf true || x = .inf false)) then blk 255 []
  else
    let ex : Int := match maxLog l with
      | none => -127
      | some k => max (-127) (min 127 (k - mxEmax c))
    blk (ex + 127).toNat (l.zipIdx.map fun x =>
      mxElem el rnd (bits x.2) (match x.1 with | .fin m e => .fin m (e - ex) | y => y))

/-- A run of values written to a format code (R143–R147); `bits i` are the stochastic bits of element i. -/
def encodeRun (c rnd : Nat) (bits : Nat → Nat) (l : List Val) : EncRun :=
  match fmtElem c with
  | none => { bytes := [], nans := 0, sats := 0 }
  | some el =>
    let parts : List EncRun :=
      if isMx c then
        (List.range (l.length / 32)).map fun k =>
          encodeBlock c el rnd (fun i => bits (32 * k + i)) ((l.drop (32 * k)).take 32)
      else
        l.zipIdx.map fun x =>
          let r := el.encode rnd (bits x.2) x.1
          { bytes := toBytes (el.bits / 8) r.bits, nans := r.nans, sats := r.sats }
    { bytes := parts.flatMap (·.bytes), nans := (parts.map (·.nans)).sum, sats := (parts.map (·.sats)).sum }

/-- The stochastic bits of element i of a command (R147). -/
def srOf (seed base i : Nat) : Nat := srBits seed ((base + i) % 2 ^ 32)

/-! ### The full-range accumulator (R136–R142) -/

/-- A form: width of SUM, grid exponent, and the exponent of L (R136). -/
structure FraForm where
  w : Nat
  g : Int
  l : Int
  deriving DecidableEq, Repr

def formWide : FraForm := { w := 320, g := -149, l := 128 }
def formFloat : FraForm := { w := 88, g := -24, l := 16 }
def formInt : FraForm := { w := 88, g := 0, l := 32 }

/-- Two's complement of w bits. -/
def wrapInt (w : Nat) (s : Int) : Int :=
  let v := s % 2 ^ w
  if 2 * v < 2 ^ w then v else v - 2 ^ w

/-- Whether a sum leaves the range of w bits (R138). -/
def sumLeaves (w : Nat) (s : Int) : Bool := s < -2 ^ (w - 1) || 2 ^ (w - 1) ≤ s

/-- Whether a finite value has magnitude 2^l or more. -/
def magGe (m e l : Int) : Bool := l ≤ (Nat.log2 m.natAbs : Int) + e

/-- An entry takes one addend (R138). Only the wide form keeps COUNT (R137). -/
def Fra.add (f : FraForm) (x : Fra) (v : Val) : Fra :=
  let x := { x with any := true, count := if f.w = 320 then min (x.count + 1) (2 ^ 41 - 1) else 0 }
  match v with
  | .nan => { x with nan := true }
  | .inf neg => { x with pinf := x.pinf || !neg, ninf := x.ninf || neg, onlyNz := false }
  | .zero neg => { x with onlyNz := x.onlyNz && neg }
  | .fin m e =>
    if magGe m e f.l then
      { x with pinf := x.pinf || decide (0 < m), ninf := x.ninf || decide (m < 0), onlyNz := false }
    else
      let s := x.sum + roundTo rndNe 0 m e f.g
      { x with
        sum := wrapInt f.w s, onlyNz := false, ovf := x.ovf || sumLeaves f.w s,
        inexact := x.inexact || (e < f.g && m % 2 ^ (f.g - e).toNat ≠ 0) }

/-- What an addend counts: FRA_RANGE and FRA_INEXACT (R138, R154). -/
def addCounts (f : FraForm) (v : Val) : Nat × Nat :=
  match v with
  | .fin m e => if magGe m e f.l then (1, 0) else (0, if e < f.g && m % 2 ^ (f.g - e).toNat ≠ 0 then 1 else 0)
  | _ => (0, 0)

/-- A merge leaves the entry as if it had taken the other's addends itself (R140). -/
def Fra.merge (f : FraForm) (x m : Fra) : Fra :=
  let s := x.sum + m.sum
  { sum := wrapInt f.w s, count := min (x.count + m.count) (2 ^ 41 - 1), any := x.any || m.any, nan := x.nan || m.nan,
    pinf := x.pinf || m.pinf, ninf := x.ninf || m.ninf, onlyNz := x.onlyNz && m.onlyNz,
    ovf := x.ovf || m.ovf || sumLeaves f.w s, inexact := x.inexact || m.inexact }

/-- The exact result of an entry (R142). -/
def Fra.result (f : FraForm) (x : Fra) : Val :=
  if x.nan || x.ovf || (x.pinf && x.ninf) then .nan
  else if x.pinf then .inf false
  else if x.ninf then .inf true
  else if x.sum = 0 then .zero (x.any && x.onlyNz)
  else .fin x.sum f.g

/-- Bytes of an entry's wire form (R136, R137). -/
def fraBytes (wide : Bool) : Nat := if wide then 48 else 12

/-- The wire form of an entry (R137). -/
def Fra.wire (wide grid : Bool) (x : Fra) : Bytes :=
  if wide then
    toBytes 48 ((x.sum % 2 ^ 320).toNat + at_ 320 41 x.count + atB 361 x.nan + atB 362 x.pinf + atB 363 x.ninf +
      atB 364 x.onlyNz + atB 365 x.ovf + atB 366 x.inexact)
  else
    toBytes 12 ((x.sum % 2 ^ 88).toNat + atB 88 x.nan + atB 89 x.pinf + atB 90 x.ninf + atB 91 x.onlyNz + atB 92 x.ovf +
      atB 93 x.inexact + atB 94 grid + atB 95 x.any)

/-- The entry that a wire form spells (R137). The narrow form keeps no count. -/
def Fra.unwire (wide : Bool) (xs : Bytes) : Fra :=
  let v := ofBytes xs
  let b := fun i => v / 2 ^ i % 2 = 1
  if wide then
    { sum := toSigned 320 v, count := v / 2 ^ 320 % 2 ^ 41, any := v / 2 ^ 320 % 2 ^ 41 ≠ 0, nan := b 361, pinf := b 362,
      ninf := b 363, onlyNz := b 364, ovf := b 365, inexact := b 366 }
  else
    { sum := toSigned 88 v, count := 0, any := b 95, nan := b 88, pinf := b 89, ninf := b 90, onlyNz := b 91, ovf := b 92,
      inexact := b 93 }

/-- GRID of a narrow wire form (R137). -/
def wireGrid (xs : Bytes) : Bool := ofBytes xs / 2 ^ 94 % 2 = 1

/-! ### Array scores (R151) -/

/-- A value rounded to binary32 in RNE. -/
def rne32 (v : Val) : Val := fpBinary32.decode (fpBinary32.encode rndNe 0 v).bits

/-- The groups of 16 of a run. -/
def groups16 (l : List Val) : List (List Val) :=
  (List.range (ceilDiv l.length 16)).map fun j => (l.drop (16 * j)).take 16

/-- The score of a run of products in ascending K (R151). -/
def scoreOf (products : List Val) : Val :=
  match (groups16 products).map Val.sum with
  | [] => .zero false
  | g :: gs => gs.foldl (fun acc g => rne32 (Val.sum [acc, g])) (rne32 g)

/-- Clamps a product to ±|c| (R148). -/
def clampTo (c p : Val) : Val :=
  match c with
  | .fin cm ce =>
    match p with
    | .inf neg => .fin (if neg then -cm.natAbs else cm.natAbs) ce
    | .fin m e => if magLt cm ce m e then .fin (if m < 0 then -cm.natAbs else cm.natAbs) ce else p
    | p => p
  | _ => p

end Sys2Proof.Machine
end

