-- ==== Sys2Proof/Machine/Gates.lean ====
section
/-! DEFINITION. Ranking of scores (R108, R152) and the gate values, correctly rounded (R206). -/
namespace Sys2Proof.Machine

/-! ### Ranking -/

/-- Whether one score ranks above another: NaN below −∞, the zeros equal (R152). -/
def Val.above (x y : Val) : Bool :=
  match x, y with
  | .nan, _ => false
  | _, .nan => true
  | .inf true, _ => false
  | _, .inf true => true
  | _, .inf false => false
  | .inf false, _ => true
  | .fin m e, .fin n f => scaleTo n f (min e f) < scaleTo m e (min e f)
  | .fin m _, .zero _ => 0 < m
  | .zero _, .fin n _ => n < 0
  | .zero _, .zero _ => false

/-- Puts an indexed score behind every one that it does not rank above. -/
def rankInsert (x : Nat × Val) : List (Nat × Val) → List (Nat × Val)
  | [] => [x]
  | y :: ys => if x.2.above y.2 then x :: y :: ys else y :: rankInsert x ys

/-- The indices of the k best scores, descending, ties to the lower index (R108, R152). -/
def topk (k : Nat) (scores : List Val) : List Nat :=
  ((scores.zipIdx.foldl (fun l x => rankInsert (x.2, x.1) l) []).take k).map (·.1)

/-! ### e^a between two bounds, in units of 2^-P -/

/-- Lower and upper Taylor sums of e^r for r in [lo, hi] below 1: n terms from the i-th on. -/
def expSeries (P : Nat) (lo hi : Nat) : Nat → Nat → Nat → Nat → Nat × Nat
  | 0, _, _, th => (0, 2 * th + 2)
  | n + 1, i, tl, th =>
    let r := expSeries P lo hi n (i + 1) (tl * lo / 2 ^ P / i) ((th * hi / 2 ^ P + 1) / i + 1)
    (tl + r.1, th + r.2)

/-- Squares an interval k times. -/
def squareUp (P : Nat) : Nat → Nat × Nat → Nat × Nat
  | 0, x => x
  | k + 1, x => squareUp P k (x.1 * x.1 / 2 ^ P, x.2 * x.2 / 2 ^ P + 1)

/-- Bounds of e^a for the dyadic a = n · 2^-s, at most 2^k (k chosen by the caller). -/
def expBounds (P k n s : Nat) : Nat × Nat :=
  let lo := n * 2 ^ P / 2 ^ (s + k + 1)
  squareUp P (k + 1) (expSeries P lo (lo + 1) (P / 2) 1 (2 ^ P) (2 ^ P))

/-- 1/x for an interval. -/
def recip (P : Nat) (x : Nat × Nat) : Nat × Nat := (2 ^ (2 * P) / x.2, 2 ^ (2 * P) / x.1 + 1)

/-- Bounds of e^d for an exact d = m · 2^e with d < 128: below −P they are 0 and 2 units. -/
def expOf (P : Nat) (m e : Int) : Nat × Nat :=
  let s := (-e).toNat
  let n := m.natAbs * 2 ^ e.toNat
  if P * 2 ^ s ≤ n then (0, 2)
  else
    let x := expBounds P (Nat.log2 (n / 2 ^ s + 1) + 1) n s
    if m < 0 then recip P x else x

/-- Whether an exact value m · 2^e reaches 128. -/
def over128 (m e : Int) : Bool := 0 < m && magGe m e 7

def ivAdd (x y : Nat × Nat) : Nat × Nat := (x.1 + y.1, x.2 + y.2)
def ivMul (P : Nat) (x y : Nat × Nat) : Nat × Nat := (x.1 * y.1 / 2 ^ P, x.2 * y.2 / 2 ^ P + 1)
def ivOne (P : Nat) : Nat × Nat := (2 ^ P, 2 ^ P)

/-- binary32 bits of the value between two bounds in units of 2^-P, where both round alike. -/
def pin32 (P : Nat) (x : Nat × Nat) : Option Nat :=
  let a := (fpBinary32.encode rndNe 0 (Val.of x.1 (-P))).bits
  let b := (fpBinary32.encode rndNe 0 (Val.of x.2 (-P))).bits
  if a = b then some a else none

/-- The nearest binary32 of a real given by its bounds at rising precision. -/
def nearest32 (f : Nat → Nat × Nat) : Nat → Nat → Nat
  | 0, P => (fpBinary32.encode rndNe 0 (Val.of (f P).1 (-P))).bits
  | n + 1, P => match pin32 P (f P) with
    | some x => x
    | none => nearest32 f n (2 * P)

/-- The nearest binary32 of 1 / D, for D given by bounds; it starts at 256 bits and doubles as often as needed. -/
def nearestRecip (f : Nat → Nat × Nat) : Nat := nearest32 (fun P => recip P (f P)) 8 256

/-! ### The modes (R206) -/

/-- An exact value as a dyadic; infinities are the caller's. -/
def Val.dyadic : Val → Int × Int
  | .fin m e => (m, e)
  | _ => (0, 0)

/-- The exact difference of two dyadics. -/
def dySub (x y : Int × Int) : Int × Int :=
  let q := min x.2 y.2
  (scaleTo x.1 x.2 q - scaleTo y.1 y.2 q, q)

def dyNeg (x : Int × Int) : Int × Int := (-x.1, x.2)
def dyMax0 (x : Int × Int) : Int × Int := if x.1 < 0 then (0, 0) else x
def dyAbs (x : Int × Int) : Int × Int := (x.1.natAbs, x.2)

def Val.isFinite : Val → Bool
  | .fin _ _ => true
  | .zero _ => true
  | _ => false

/-- SOFTMAX_K of a finite score among the finite scores: 1 / Σ e^(s_j − s_i). -/
def softmaxOf (si : Val) (l : List Val) : Nat :=
  let ds := l.map fun s => dySub s.dyadic si.dyadic
  if ds.any fun d => over128 d.1 d.2 then 0
  else nearestRecip fun P => ds.foldl (fun a d => ivAdd a (expOf P d.1 d.2)) (0, 0)

/-- SIGMOID of a finite score. -/
def sigmoidOf (s : Val) : Nat :=
  let d := dyNeg s.dyadic
  if over128 d.1 d.2 then 0 else nearestRecip fun P => ivAdd (ivOne P) (expOf P d.1 d.2)

/-- e^-|u| + 1 for a score, with +∞ giving 1. -/
def sigTail (P : Nat) (s : Val) : Nat × Nat :=
  if s.isFinite then
    let d := dyNeg (dyAbs s.dyadic)
    ivAdd (ivOne P) (expOf P d.1 d.2)
  else ivOne P

/-- max(−s, 0) of a score, with +∞ giving 0. -/
def sigHead (s : Val) : Int × Int := if s.isFinite then dyMax0 (dyNeg s.dyadic) else (0, 0)

/-- SIGMOID_NORM of a score among the scores above −∞: 1 / Σ σ_j / σ_i. -/
def sigmoidNormOf (si : Val) (l : List Val) : Nat :=
  if l.any fun s => let d := dySub (sigHead si) (sigHead s); over128 d.1 d.2 then 0
  else nearestRecip fun P =>
    l.foldl (fun a s =>
      let d := dySub (sigHead si) (sigHead s)
      ivAdd a (ivMul P (expOf P d.1 d.2) (ivMul P (sigTail P si) (recip P (sigTail P s))))) (0, 0)

/-- Bits of 1 / m. -/
def unitOver (m : Nat) : Nat := nearestRecip fun P => (m * 2 ^ P, m * 2 ^ P)

/-- Canonical binary32 NaN and 1.0. -/
def nan32 : Nat := 0x7FC00000
def one32 : Nat := 0x3F800000

/-- The gate bits of the selected scores by mode (R206). -/
def gateBits (mode : Nat) (scores : List Nat) : List Nat :=
  let vs := scores.map fpBinary32.decode
  let fins := vs.filter Val.isFinite
  let infs := (vs.filter fun v => v = .inf false).length
  let one (s : Nat) (v : Val) : Nat :=
    if mode = 0 then s
    else match v with
      | .nan => nan32
      | .inf true => 0
      | .inf false =>
        if mode = 1 then unitOver infs else if mode = 2 then one32
        else sigmoidNormOf v (vs.filter fun x => x.isFinite || x = .inf false)
      | v =>
        if mode = 1 then (if 0 < infs then 0 else softmaxOf v fins)
        else if mode = 2 then sigmoidOf v
        else sigmoidNormOf v (vs.filter fun x => x.isFinite || x = .inf false)
  scores.map fun s => one s (fpBinary32.decode s)

end Sys2Proof.Machine
end

