-- ==== Sys2Proof/Machine/Flags.lean ====
section
/-! DEFINITION. Status, DETAIL and error-reply codes, and which status wins (R96, R114, R120, R172). -/
namespace Sys2Proof.Machine

/-! ### Status of a command (R114) -/

def stOk : Nat := 0x00
def stStale : Nat := 0x01
def stMissing : Nat := 0x02
def stLate : Nat := 0x03
def stBadCommand : Nat := 0x10
def stBadOperand : Nat := 0x11
def stPlot : Nat := 0x12
def stState : Nat := 0x13
def stNoSlot : Nat := 0x14
def stNoRoom : Nat := 0x15
def stTimeout : Nat := 0x16
def stRemote : Nat := 0x17
def stMissed : Nat := 0x18
def stAborted : Nat := 0x19
def stLimit : Nat := 0x1A
def stCrc : Nat := 0x1B
def stMem : Nat := 0x1C
def stOpcode : Nat := 0x1D

/-- A status that aborts its list unless CONT = 1 (R115). -/
def failing (st : Nat) : Bool := 0x10 ≤ st

/-- The status a command completes with when it is late: OK becomes OK_LATE, nothing else changes (R114, R118). -/
def withLate (late : Bool) (st : Nat) : Nat := if late && st = stOk then stLate else st

/-- Status and DETAIL of a command that read stale or missing cells (R114): MISSING before STALE, counts to 255. -/
def inputStatus (stale missing : Nat) : Nat × Nat :=
  if 0 < missing then (stMissing, min 255 missing)
  else if 0 < stale then (stStale, min 255 stale)
  else (stOk, 0)

/-! ### DETAIL of STATE (R120, R172) -/

def dtNoOasis : Nat := 0x01
def dtOasisHeld : Nat := 0x02
def dtNoWeights : Nat := 0x03
def dtNoFurrow : Nat := 0x04
def dtFillFull : Nat := 0x05
def dtNoPort : Nat := 0x06
def dtBound : Nat := 0x07
def dtNotBound : Nat := 0x08
def dtCluster : Nat := 0x09
def dtPinned : Nat := 0x0A
def dtBadEntry : Nat := 0x0B
def dtQuota : Nat := 0x0C
def dtMode : Nat := 0x0D
def dtSealed : Nat := 0x0E

/-! ### Error replies (R96) -/

def erTimeout : Nat := 0x01
def erPlot : Nat := 0x02
def erBusy : Nat := 0x03
def erNoHandler : Nat := 0x04
def erSelfTest : Nat := 0x05
def erState : Nat := 0x06
def erPlacement : Nat := 0x07

/-- A reserved code is treated as STATE (R96). -/
def errCode (c : Nat) : Nat := if 1 ≤ c && c ≤ 7 then c else erState

/-! ### Flags of an accumulator sum -/

/-- The value that a saturating counter of w bits takes. -/
def satAdd (w a n : Nat) : Nat := min (2 ^ w - 1) (a + n)

end Sys2Proof.Machine
end

