-- ==== Sys2Proof/Machine/Geometry.lean ====
section
/-! DEFINITION. Where things are: tiles, clusters, dies, ports, attach tiles, neighbours and crossing links (R14–R18, R23–R25). -/
namespace Sys2Proof.Machine

/-- Tiles per row and per column (R1, Members). -/
def Member.width : Member → Nat
  | .dx16 => 4
  | .dx64 => 8
  | .dx256 => 16
  | .dx1024 => 32

/-- MEMBER as it reads at `OD 0x1000.01` (R322) and in HOST_INFO. -/
def Member.tileCount (m : Member) : Nat := m.width * m.width

/-- A tile id that lies in the member's mesh (R23). -/
def Member.hasTile (m : Member) (t : Nat) : Bool := t % 32 < m.width && t / 32 < m.width

/-- All tile ids of the member, rising. -/
def Member.tiles (m : Member) : List Nat := (List.range 1024).filter m.hasTile

/-- The system tile (1, 1) of every member (R17). -/
def sysTile : Nat := 33

/-- Cluster id of a tile (R14). -/
def clusterOf (t : Nat) : Nat := 8 * (t / 32 / 4) + t % 32 / 4

/-- Die of a tile (R14, R24). -/
def Member.dieOf (m : Member) (t : Nat) : Nat :=
  if m = .dx1024 then (if 16 ≤ t % 32 then 1 else 0) + (if 512 ≤ t then 2 else 0) else 0

/-- Dies of the member. -/
def Member.dies (m : Member) : Nat := if m = .dx1024 then 4 else 1

/-- The tile of a die that has its lowest id (R371). -/
def dieCorner (d : Nat) : Nat := (if d % 2 = 1 then 16 else 0) + (if 2 ≤ d then 512 else 0)

/-- A cluster id that the member has (R24). -/
def Member.hasCluster (m : Member) (c : Nat) : Bool := c % 8 < m.width / 4 && c / 8 < m.width / 4

/-- Die of a cluster. -/
def Member.dieOfCluster (m : Member) (c : Nat) : Nat := m.dieOf (128 * (c / 8) + 4 * (c % 8))

/-- The 16 tiles of a cluster, rising (R14). -/
def clusterTiles (c : Nat) : List Nat :=
  (List.range 4).flatMap fun y => (List.range 4).map fun x => (c / 8 * 4 + y) * 32 + c % 8 * 4 + x

/-- Port count of the member (R15). -/
def Member.ports (m : Member) : Nat := m.width / 2 * (m.width / 2)

/-- Whether a tile is a port tile: X and Y both even (R15). -/
def Member.isPortTile (m : Member) (t : Nat) : Bool := m.hasTile t && t % 2 = 0 && t / 32 % 2 = 0

/-- Port number of a port tile (R15). -/
def Member.portOf (m : Member) (t : Nat) : Nat := m.width / 2 * (t / 32 / 2) + t % 32 / 2

/-- Port tile of a port (R15). -/
def Member.portTile (m : Member) (p : Nat) : Nat := p / (m.width / 2) * 64 + p % (m.width / 2) * 2

/-- The HBM attach tiles of the member, rising (R16). -/
def Member.hbmTiles : Member → List Nat
  | .dx16 => [1, 3, 65, 67]
  | .dx64 => [1, 3, 5, 7]
  | .dx256 => [3, 7, 11, 15]
  | .dx1024 => [3, 7, 11, 15, 19, 23, 27, 31, 995, 999, 1003, 1007, 1011, 1015, 1019, 1023]

/-- Whether a tile is an HBM attach tile (R16). -/
def Member.isHbmTile (m : Member) (t : Nat) : Bool := m.hbmTiles.contains t

/-- The quarter that an attach tile serves: its place among its die's attach tiles (R16). -/
def Member.quarterOf (m : Member) (t : Nat) : Nat :=
  (m.hbmTiles.filter fun u => m.dieOf u = m.dieOf t && u < t).length

/-- The attach tile of a quarter of a die's stack (R16). -/
def Member.attachOf (m : Member) (die q : Nat) : Nat :=
  ((m.hbmTiles.filter fun u => m.dieOf u = die).drop q).headD 0

/-- The neighbour of a tile in direction 0 N, 1 E, 2 S, 3 W; the mesh is a torus (R18, R45). -/
def Member.neighbour (m : Member) (t dir : Nat) : Nat :=
  let w := m.width
  let x := t % 32
  let y := t / 32
  match dir with
  | 0 => (y + w - 1) % w * 32 + x
  | 1 => y * 32 + (x + 1) % w
  | 2 => (y + 1) % w * 32 + x
  | _ => y * 32 + (x + w - 1) % w

/-- The direction opposite to a direction. -/
def opposite (dir : Nat) : Nat := (dir + 2) % 4

/-- Whether the link out of a tile in a direction crosses dies (R18). -/
def Member.crossing (m : Member) (t dir : Nat) : Bool := dir < 4 && m.dieOf t ≠ m.dieOf (m.neighbour t dir)

/-- Whether the link out of a tile in a direction passes the torus seam between the last and the first row or column. -/
def Member.wraps (m : Member) (t dir : Nat) : Bool :=
  match dir with
  | 0 => t / 32 = 0
  | 1 => t % 32 = m.width - 1
  | 2 => t / 32 = m.width - 1
  | 3 => t % 32 = 0
  | _ => false

/-- Bytes of tile SRAM (R8): 1.5 MiB. -/
def sramBytes : Nat := 1572864

/-- Bytes of HBM per die (R16): 48 GB, a decimal size (00_scope, Notation). -/
def hbmBytes : Nat := 48000000000

end Sys2Proof.Machine
end

