-- ==== Sys2Proof/Machine/Ops.lean ====
section
/-! DEFINITION. The named operations every meaning is written with: the block's units read and changed, byte memories,
the gates a command passes, and the clock. -/
namespace Sys2Proof.Machine

/-- What a command answers. -/
abbrev Out := Host.Outcome State Fault Refusal

/-! ### Units of the block -/

def Blk.tile (b : Blk) (t : Nat) : Tile := b.tiles.getD t Tile.fresh
def Blk.setTile (b : Blk) (t : Nat) (x : Tile) : Blk := { b with tiles := b.tiles.put t x }
def Blk.modTile (b : Blk) (t : Nat) (f : Tile → Tile) : Blk := b.setTile t (f (b.tile t))

def Blk.port (b : Blk) (p : Nat) : Port := b.ports.getD p Port.fresh
def Blk.setPort (b : Blk) (p : Nat) (x : Port) : Blk := { b with ports := b.ports.put p x }
def Blk.modPort (b : Blk) (p : Nat) (f : Port → Port) : Blk := b.setPort p (f (b.port p))

def Blk.plot (b : Blk) (p : Nat) : Plot := b.plots.getD p Plot.fresh
def Blk.setPlot (b : Blk) (p : Nat) (x : Plot) : Blk := { b with plots := b.plots.put p x }
def Blk.modPlot (b : Blk) (p : Nat) (f : Plot → Plot) : Blk := b.setPlot p (f (b.plot p))

def Blk.hbmAt (b : Blk) (t : Nat) : HbmAttach := b.hbma.getD t { reqs := [], streams := [] }
def Blk.modHbm (b : Blk) (t : Nat) (f : HbmAttach → HbmAttach) : Blk := { b with hbma := b.hbma.put t (f (b.hbmAt t)) }

def Blk.loop (b : Blk) (l : Nat) : Loop := b.optics.loops.getD l Loop.fresh
def Blk.modLoop (b : Blk) (l : Nat) (f : Loop → Loop) : Blk :=
  { b with optics := { b.optics with loops := b.optics.loops.put l (f (b.loop l)) } }
def Blk.optPort (b : Blk) (p : Nat) : OptPort := b.optics.ports.getD p OptPort.fresh
def Blk.modOptPort (b : Blk) (p : Nat) (f : OptPort → OptPort) : Blk :=
  { b with optics := { b.optics with ports := b.optics.ports.put p (f (b.optPort p)) } }

def Blk.ring (b : Blk) (r : Nat) : Ring := b.host.rings.getD r Ring.fresh
def Blk.modRing (b : Blk) (r : Nat) (f : Ring → Ring) : Blk :=
  { b with host := { b.host with rings := b.host.rings.put r (f (b.ring r)) } }

def Blk.die (b : Blk) (d : Nat) : DieLock := b.sown.dies.getD d DieLock.fresh
def Blk.modDie (b : Blk) (d : Nat) (f : DieLock → DieLock) : Blk :=
  { b with sown := { b.sown with dies := b.sown.dies.put d (f (b.die d)) } }

/-- State of a cluster (R305); a cluster not listed is FALLOW (log 10). -/
def Blk.cluster (b : Blk) (c : Nat) : ClusterState := b.power.clusters.getD c .fallow

/-- Whether a queue of a port is the quorum's: 63, and 31 and 63 in SPLIT mode (R293). -/
def quorumQueue (mode q : Nat) : Bool := q = 63 || (mode = 2 && q = 31)

/-- An egress queue; one of the quorum's holds the fixed fields, whatever was written before it became one (R293). -/
def Blk.egQueue (b : Blk) (p q : Nat) : EgQueue :=
  let x := (b.port p).eg.queues.getD q EgQueue.fresh
  if quorumQueue (b.port p).ctrl.mode q then x.quorum else x
def Blk.modEgQueue (b : Blk) (p q : Nat) (f : EgQueue → EgQueue) : Blk :=
  b.modPort p fun x => { x with eg := { x.eg with queues := x.eg.queues.put q (f (b.egQueue p q)) } }

def Tile.queue (x : Tile) (q : Nat) : Queue := x.ms.queues.getD q Queue.fresh
def Tile.modQueue (x : Tile) (q : Nat) (f : Queue → Queue) : Tile :=
  { x with ms := { x.ms with queues := x.ms.queues.put q (f (x.queue q)) } }
def Tile.handlerOf (x : Tile) (h : Nat) : Handler := x.ms.handlers.getD h Handler.fresh
def Tile.ctx (x : Tile) (c : Nat) : Ctx := x.es.ctxs.getD c Ctx.fresh
def Tile.modCtx (x : Tile) (c : Nat) (f : Ctx → Ctx) : Tile :=
  { x with es := { x.es with ctxs := x.es.ctxs.put c (f (x.ctx c)) } }
def Tile.sheaves (x : Tile) (e : Nat) : List Sheaf := x.es.eng.getD e []
def Tile.setSheaves (x : Tile) (e : Nat) (l : List Sheaf) : Tile :=
  { x with es := { x.es with eng := x.es.eng.put e l } }
def Tile.sem (x : Tile) (k : Nat) : Nat := (x.es.sems.getD k 0#16).toNat
def Tile.setSem (x : Tile) (k v : Nat) : Tile :=
  { x with es := { x.es with sems := x.es.sems.put k (BitVec.ofNat 16 v) } }
/-- What the waits of an mc see of a semaphore, and what that mc has added to it: a change becomes visible in the next (R101, R121). -/
def Tile.semMc (x : Tile) (mc k : Nat) : SemMc :=
  match x.es.semMc.get? k with
  | some r => if r.mc = mc then r else { mc := mc, seen := x.sem k, added := 0 }
  | none => { mc := mc, seen := x.sem k, added := 0 }
def Tile.setSemMc (x : Tile) (k : Nat) (r : SemMc) : Tile := { x with es := { x.es with semMc := x.es.semMc.put k r } }
/-- A start takes n from a semaphore. -/
def Tile.semTake (x : Tile) (mc k n : Nat) : Tile :=
  let r := x.semMc mc k
  (x.setSem k (x.sem k - n)).setSemMc k { r with seen := r.seen - n }
/-- A signal leaves v in a semaphore, n added. -/
def Tile.semAdd (x : Tile) (mc k v n : Nat) : Tile :=
  let r := x.semMc mc k
  (x.setSem k v).setSemMc k { r with added := r.added + n }
/-- A host write stands, and the signals of its mc add to it (R121). -/
def Tile.semWrite (x : Tile) (mc k v : Nat) : Tile :=
  let r := x.semMc mc k
  (x.setSem k (min 65535 (v + r.added))).setSemMc k r
def Tile.stealUnit (x : Tile) (e : Nat) : StealUnit := x.es.steal.getD e StealUnit.fresh
def Tile.modSteal (x : Tile) (e : Nat) (f : StealUnit → StealUnit) : Tile :=
  { x with es := { x.es with steal := x.es.steal.put e (f (x.stealUnit e)) } }

/-! ### Ownership -/

/-- The plot that owns a tile in the routers' view (R266 step 1), if any. -/
def Blk.ownerOf (b : Blk) (t : Nat) : Option Nat :=
  ((b.plots.filter fun x => flag x.2.owned t).map (·.1)).head?

/-- Whether a plot owns a tile. -/
def Blk.owns (b : Blk) (p t : Nat) : Bool := t < 1024 && flag (b.plot p).owned t

/-- Whether a plot is BOUND (R264). -/
def Blk.bound (b : Blk) (p : Nat) : Bool := (b.plot p).state = .bound

/-- Whether a cluster is under self-test (R354). -/
def Blk.clusterTested (b : Blk) (c : Nat) : Bool := b.power.testing.contains c

/-- Whether any transition of a cluster is queued or in progress (R306, R310). -/
def Blk.clusterMoving (b : Blk) (c : Nat) : Bool :=
  ((b.power.queues.getD (b.member.dieOfCluster c) []).any fun t =>
    match t.unit with
    | .cluster k _ => k = c
    | .selfTest k _ => k = c
    | .port _ _ => false)

/-- Whether launches may run in a tile's cluster (R120, R310): ACTIVE, not under test, no transition. -/
def Blk.launchable (b : Blk) (t : Nat) : Bool :=
  b.cluster (clusterOf t) = .active && !b.clusterTested (clusterOf t) && !b.clusterMoving (clusterOf t)

/-! ### Byte memories -/

/-- Bytes of a tile's SRAM. -/
def Blk.readSram (b : Blk) (t a n : Nat) : Bytes := b.sram.read (2 ^ 21 * t + a) n
/-- A write over whole words leaves no error in them (R130). -/
def Ecc.wrote (e : Ecc) (t a n : Nat) : Ecc :=
  { e with sram := e.sram.drop fun w => 2 ^ 18 * t + ceilDiv a 8 ≤ w && w < 2 ^ 18 * t + (a + n) / 8 }
def Blk.writeSram (b : Blk) (t a : Nat) (xs : Bytes) : Blk :=
  { b with sram := b.sram.write (2 ^ 21 * t + a) xs, ecc := b.ecc.wrote t a xs.length }
def Blk.zeroSram (b : Blk) (t a n : Nat) : Blk :=
  { b with sram := b.sram.zero (2 ^ 21 * t + a) n, ecc := b.ecc.wrote t a n }

/-- Bytes of a die's HBM stack. -/
def Blk.readHbm (b : Blk) (d a n : Nat) : Bytes := b.hbm.read (2 ^ 36 * d + a) n
def Blk.writeHbm (b : Blk) (d a : Nat) (xs : Bytes) : Blk := { b with hbm := b.hbm.write (2 ^ 36 * d + a) xs }

/-- A write to host memory (R399: posted writes in order). -/
def Blk.writeHost (b : Blk) (a : Nat) (xs : Bytes) : Blk := { b with host := { b.host with mem := b.host.mem.write a xs } }

/-! ### The clock -/

/-- Frame counts compare modulo 2^48: whether f lies ahead of g by less than 2^47, and is not g (R43). -/
def ahead (f g : BitVec 48) : Bool := f ≠ g && (f - g).toNat < 2 ^ 47

/-- f has been reached at frame g (R43). -/
def reached (f g : BitVec 48) : Bool := !ahead f g

/-- Slots per frame of the active generation (R43). -/
def Blk.slots (b : Blk) : Nat := b.sown.active.slots

/-- Length of a frame in mc (R43). -/
def Blk.frameLen (b : Blk) : Nat := 8 * b.slots

/-- mc from now to the start of a frame ahead of the current one. -/
def Blk.mcUntil (b : Blk) (f : BitVec 48) : Nat := (f - b.clk.frame).toNat * b.frameLen - b.clk.offset

/-- A wall-clock duration of some ns in mc of the mesh clock in use, rounded up (R4). -/
def Blk.mcOf (b : Blk) (ns : Nat) : Nat := ceilDiv (ns * b.meshKhz) 1000000

/-- The clock one mc later; the offset waits at the end of the frame for the tick (FRAME_TICK takes it to 0). -/
def Clock.advance (c : Clock) (len : Nat) : Clock :=
  if c.offset + 1 < len then { c with mc := c.mc + 1, offset := c.offset + 1 } else { c with mc := c.mc + 1, due := true }

/-! ### What has happened in this mc (R336) -/

def Blk.note (b : Blk) (n : McNote) : Blk := { b with mcLog := b.mcLog ++ [n] }
def Blk.noted (b : Blk) (n : McNote) : Bool := b.mcLog.contains n

/-- The latest note of this mc that a function takes something from. -/
def Blk.latest {α : Type} (b : Blk) (f : McNote → Option α) : Option α := b.mcLog.reverse.findSome? f

/-! ### Gates -/

/-- The mesh clock runs: stage 5 has begun and the block is neither held, dead nor tripped (R352, R312). -/
def BootStage.mesh : BootStage → Bool
  | .held => false
  | .stage n => 5 ≤ n
  | .done => true
  | .recovery => false
  | .flashFail => false

def State.live (s : State) : Bool := !s.trip.tripped && s.blk.fw.stage.mesh

/-- Folds a change over a list of places. -/
def Blk.each {α : Type} (b : Blk) (l : List α) (f : Blk → α → Blk) : Blk := l.foldl f b

end Sys2Proof.Machine
end

