-- ==== Sys2Proof/Machine/Events.lean ====
section
/-! DEFINITION. Counters (R371–R373), drops (R40), events, hang rings and event rings (R344–R350, R379), trace records
(R380, R381). -/
namespace Sys2Proof.Machine

/-! ### Event numbers (R371), each the first value of its range plus its place in the list -/

def evTblErr : Nat := 0x100
def evFenceDiscard : Nat := 0x101
def evGlean : Nat := 0x102
def evStale : Nat := 0x103
def evStageFlush : Nat := 0x104
def evCellsInjected : Nat := 0x105
def evCellsLanded : Nat := 0x106
def evWindowN : Nat := 0x107
def evUnclaimed : Nat := 0x10B
def evOpenFence : Nat := 0x110
def evReqTimeout : Nat := 0x111
def evReplyLate : Nat := 0x112
def evLateReply : Nat := 0x113
def evFlitsInjected : Nat := 0x114
def evFlitsEjected : Nat := 0x115
def evArbLost : Nat := 0x116
def evNthGrant : Nat := 0x117
def evPreempt : Nat := 0x118
def evSemSat : Nat := 0x120
def evLaunchRefused : Nat := 0x121
def evSheafMissed : Nat := 0x122
def evStealSkip : Nat := 0x123
def evStealEmpty : Nat := 0x124
def evStealGot : Nat := 0x125
def evStealGiven : Nat := 0x126
def evStealLate : Nat := 0x127
def evSramCe : Nat := 0x128
def evCmdDone : Nat := 0x12E
def evSlotTaken : Nat := 0x132
def evFraRange : Nat := 0x140
def evFraInexact : Nat := 0x141
def evFraOvf : Nat := 0x142
def evRoundNan : Nat := 0x143
def evRoundSat : Nat := 0x144
def evAddends : Nat := 0x145
def evMacs : Nat := 0x146
def evMsgBusy : Nat := 0x150
def evMsgFallback : Nat := 0x151
def evMsgTooBig : Nat := 0x152
def evMsgOrphan : Nat := 0x153
def evMsgAbandon : Nat := 0x154
def evCombineRange : Nat := 0x155
def evQueueRdRefused : Nat := 0x156
def evUnbindDiscard : Nat := 0x157
def evCollDefer : Nat := 0x158
def evCollRerun : Nat := 0x159
def evCollRepair : Nat := 0x15A
def evKerAsmDrop : Nat := 0x15B
def evKerSkip : Nat := 0x15C
def evKerMiss : Nat := 0x15D
def evKerTokens : Nat := 0x15E
def evKerNoHdr : Nat := 0x15F
def evGraftFwd : Nat := 0x160
def evGraftRefused : Nat := 0x161
def evPublished : Nat := 0x162
def evRxFrames : Nat := 0x170
def evTxFrames : Nat := 0x171
def evLinkRetry : Nat := 0x172
def evLinkRetrain : Nat := 0x173
def evQuorumBad : Nat := 0x174
def evRxBytes : Nat := 0x175
def evTxBytes : Nat := 0x176
def evPwrPaced : Nat := 0x180
def evPwrRefused : Nat := 0x190
def evMoaForeign : Nat := 0x191
def evMoaBad : Nat := 0x192
def evMoaAuthFail : Nat := 0x193
def evMoaSegOoo : Nat := 0x194
def evBadAccess : Nat := 0x195
def evNoRing : Nat := 0x196
def evMasked : Nat := 0x197
def evMboxRefused : Nat := 0x198
def evRakeSkip : Nat := 0x199
def evTraceLost : Nat := 0x1A0
def evTraceWritten : Nat := 0x1A1

/-- Whether an event number has a fixed counter (R371, R372): every listed number that is not marked †. -/
def hasFixed (e : Nat) : Bool :=
  (0x001 ≤ e && e ≤ 0x0FF) || (0x100 ≤ e && e ≤ 0x104) || e = 0x10B || (0x110 ≤ e && e ≤ 0x113) ||
  (0x120 ≤ e && e ≤ 0x128) || (0x140 ≤ e && e ≤ 0x144) || (0x150 ≤ e && e ≤ 0x161) || (0x170 ≤ e && e ≤ 0x174) ||
  e = 0x180 || (0x190 ≤ e && e ≤ 0x199) || e = 0x1A0

/-- Whether a programmable counter counts an event (R373). -/
def Pmc.counts (x : Pmc) (e : Nat) (plot : Option Nat) : Bool :=
  flag x.cfg 10 && fld x.cfg 0 10 = e && (!flag x.cfg 11 || plot = some (fld x.cfg 16 8))

/-- A programmable counter takes n events of a kind (R373). -/
def Pmc.count (x : Pmc) (e n : Nat) (plot : Option Nat) : Pmc :=
  if x.counts e plot then
    { x with value := (x.value + n) % 2 ^ 48,
             cfg := if 2 ^ 48 ≤ x.value + n then setFld x.cfg 24 1 1 else x.cfg }
  else x

/-- What a counter has taken in this mc, and whether it wrapped (R336). -/
def TileObs.took (o : TileObs) (k n : Nat) (wrap : Bool) : TileObs :=
  { o with adds := o.adds.put k (o.adds.getD k 0 + n), wraps := if wrap then k :: o.wraps else o.wraps }

/-- The observation logic of a tile counts n events: the fixed counter wraps and sets its sticky bit (R371). -/
def TileObs.count (o : TileObs) (e n : Nat) (plot : Option Nat) : TileObs :=
  let v := (o.ctr.getD e 0#32).toNat + n
  let o := if hasFixed e then
      ({ o with ctr := o.ctr.put e (BitVec.ofNat 32 v),
                ovf := if 2 ^ 32 ≤ v then o.ovf ||| BitVec.ofNat 1024 (2 ^ e) else o.ovf }).took e n (2 ^ 32 ≤ v)
    else o
  o.pmcs.foldl (fun o x =>
    if x.2.counts e plot then
      ({ o with pmcs := o.pmcs.put x.1 (x.2.count e n plot) }).took (1024 + x.1) n (2 ^ 48 ≤ x.2.value + n)
    else o) o

/-- Counts n events at a tile. -/
def Blk.countN (b : Blk) (t e n : Nat) (plot : Option Nat := none) : Blk :=
  b.modTile t fun x => { x with ob := x.ob.count e n plot }

/-- Counts one event at a tile. -/
def Blk.count (b : Blk) (t e : Nat) (plot : Option Nat := none) : Blk := b.countN t e 1 plot

/-- Counts one event of the system tile. -/
def Blk.countSys (b : Blk) (e : Nat) : Blk := b.count sysTile e

/-! ### Events -/

/-- An event raised now. -/
def Blk.event (b : Blk) (type plot : Nat) (tile : Option Nat) (d0 d1 d2 d3 : Nat) : Event :=
  { type := BitVec.ofNat 8 type, plot := BitVec.ofNat 8 plot, tile := tile, frame := b.clk.frame, offset := b.clk.offset,
    d0 := BitVec.ofNat 32 d0, d1 := BitVec.ofNat 32 d1, d2 := BitVec.ofNat 32 d2, d3 := BitVec.ofNat 32 d3 }

/-- The 32-byte record of an event (R349). -/
def Event.bytes (e : Event) (ring phase : Nat) : Bytes :=
  toBytes 32 (at_ 0 8 e.type.toNat + at_ 8 6 ring + at_ 15 1 phase + at_ 16 8 e.plot.toNat +
    at_ 24 10 (e.tile.getD 0) + atB 34 e.tile.isNone + at_ 48 48 e.frame.toNat + at_ 96 14 e.offset +
    at_ 128 32 e.d0.toNat + at_ 160 32 e.d1.toNat + at_ 192 32 e.d2.toNat + at_ 224 32 e.d3.toNat)

/-- The hang ring of a tile takes an event (R345, R379): the last 64, newest first; a frozen ring takes none, but for an event of
the mc in which it froze (R384). -/
def Tile.hangPut (x : Tile) (thisMc : Bool) (e : Event) : Tile :=
  if x.ob.frozen && !thisMc then x else { x with ob := { x.ob with hang := (e :: x.ob.hang).take 64 } }

/-- Signals the interrupt of a ring to which a record was written, or leaves it to the end of the hold (R348). -/
def Blk.ringIrq (b : Blk) (r : Nat) : Blk :=
  let x := b.ring r
  if !x.irqEn then b
  else if x.lastIrq.any (fun f => (b.clk.frame - f).toNat < x.irqHold) then
    b.modRing r fun x => { x with wrote := true }
  else
    let b := b.modRing r fun x => { x with lastIrq := some b.clk.frame, wrote := false }
    { b with host := { b.host with irqs := b.host.irqs ++ [r] } }

/-- Writes a record to a ring that has room (R346, R349). -/
def Blk.ringWrite (b : Blk) (r : Nat) (e : Event) : Blk :=
  let x := b.ring r
  let slot := x.prod.toNat % 2 ^ x.sizeLog2
  let phase := 1 - x.prod.toNat / 2 ^ x.sizeLog2 % 2
  let b := b.writeHost (x.base.toNat + 32 * slot) (e.bytes r phase)
  (b.modRing r fun x => { x with prod := x.prod + 1 }).ringIrq r

/-- Whether a ring is full (R347). -/
def Ring.full (x : Ring) : Bool := (x.prod - x.cons).toNat = 2 ^ x.sizeLog2

/-- The OVERFLOW record that a ring owes, once room is left (R347). -/
def Blk.ringOverflow (b : Blk) (r : Nat) : Blk :=
  let x := b.ring r
  if x.pendLoss = 0 || !x.enable || x.full then b
  else (b.modRing r fun x => { x with pendLoss := 0 }).ringWrite r (b.event 0x01 x.owner.toNat none x.pendLoss 0 0 0)

/-- Posts an event to an enabled ring (R345, R347). -/
def Blk.ringPost (b : Blk) (r : Nat) (e : Event) : Blk :=
  let x := b.ring r
  if !flag x.mask (fld e.type 4 4) then b.countSys evMasked
  else if x.full then
    (b.modRing r fun x => { x with lost := if x.lost.toNat = 2 ^ 32 - 1 then x.lost else x.lost + 1, ovf := true,
                                   pendLoss := x.pendLoss + 1 }).note (.set (.ringOvf r))
  else b.ringWrite r e

/-- An S event, or a P event of plot 0, goes to ring 0; before ring 0 is first enabled to the start buffer (R345, R353). -/
def Blk.postSystem (b : Blk) (e : Event) : Blk :=
  if !b.host.ringOpen then
    if b.host.startBuf.length < 64 then { b with host := { b.host with startBuf := b.host.startBuf ++ [e] } }
    else { b with host := { b.host with startLost := b.host.startLost + 1 } }
  else if (b.ring 0).enable then b.ringPost 0 e
  else b.countSys evNoRing

/-- The lowest enabled ring that a plot owns (R345). -/
def Blk.plotRing (b : Blk) (p : Nat) : Option Nat :=
  ((b.host.rings.filter fun x => x.2.enable && x.2.owner.toNat = p && x.1 ≠ 0).map (·.1)).head?

/-- The event enters the hang ring of its tile (R345). -/
def Blk.hangEvent (b : Blk) (e : Event) : Blk :=
  match e.tile with
  | some t => b.modTile t fun x => x.hangPut (b.noted (.set (.frozen t))) e
  | none => b

/-- Raises an S event (R345, R350): it is posted as the mc ends. -/
def Blk.raiseS (b : Blk) (type plot : Nat) (tile : Option Nat) (d0 : Nat := 0) (d1 : Nat := 0) (d2 : Nat := 0)
    (d3 : Nat := 0) : Blk :=
  (b.hangEvent (b.event type plot tile d0 d1 d2 d3)).note (.event true (b.event type plot tile d0 d1 d2 d3))

/-- Raises a P event (R345, R350): it is posted as the mc ends. -/
def Blk.raiseP (b : Blk) (type plot : Nat) (tile : Option Nat) (d0 : Nat := 0) (d1 : Nat := 0) (d2 : Nat := 0)
    (d3 : Nat := 0) : Blk :=
  (b.hangEvent (b.event type plot tile d0 d1 d2 d3)).note (.event false (b.event type plot tile d0 d1 d2 d3))

/-- Posts an event to at most one ring (R345). -/
def Blk.post (b : Blk) (sys : Bool) (e : Event) : Blk :=
  if sys || e.plot = 0#8 then b.postSystem e
  else match b.plotRing e.plot.toNat with
    | some r => b.ringPost r e
    | none => b.countSys evNoRing

/-- The place of an event among those of one mc: its tile id, those of the system tile last (R346). -/
def Event.rank (e : Event) : Nat := match e.tile with
  | some t => if t = sysTile then 1024 else t
  | none => 1024

/-- Puts an event behind those of its own rank and below. -/
def insertEvent (x : Bool × Event) : List (Bool × Event) → List (Bool × Event)
  | [] => [x]
  | y :: l => if x.2.rank < y.2.rank then x :: y :: l else y :: insertEvent x l

/-- The events of this mc in the order in which they are written (R346). -/
def Blk.mcEvents (b : Blk) : List (Bool × Event) :=
  (b.mcLog.filterMap fun n => match n with
    | .event sys e => some (sys, e)
    | _ => none).foldl (fun l x => insertEvent x l) []

/-- The mc ends: its events are posted. -/
def Blk.postEvents (b : Blk) : Blk := b.each b.mcEvents fun b x => b.post x.1 x.2

/-- A drop under a reason (R40): counted at the checking tile, one DROP event, with the port or 0xFF. -/
def Blk.drop (b : Blk) (t reason : Nat) (port : Option Nat := none) (plot : Option Nat := none) : Blk :=
  let b := b.count t reason plot
  b.raiseS 0x02 (plot.getD 0) (some t) (reason + 256 * port.getD 0xFF) ((b.tile t).ob.ctr.getD reason 0#32).toNat

/-! ### Trace (R380, R381) -/

/-- A trace record. -/
def Blk.traceRec (b : Blk) (t kind data : Nat) : BitVec 128 :=
  BitVec.ofNat 128 (at_ 0 4 kind + at_ 4 10 t + at_ 14 14 b.clk.offset + at_ 28 36 b.clk.frame.toNat + at_ 64 64 data)

/-- Puts one record into a tile's buffer of 128, or counts it lost (R381). -/
def Blk.traceOne (b : Blk) (t : Nat) (r : BitVec 128) : Blk :=
  if 128 ≤ (b.tile t).ob.trace.length then
    (b.modTile t fun x => { x with ob := { x.ob with traceLost := x.ob.traceLost + 1 } }).count t evTraceLost
  else (b.modTile t fun x => { x with ob := { x.ob with trace := r :: x.ob.trace } }).count t evTraceWritten

/-- Writes a record; a LOST record goes first once room has returned (R381). -/
def Blk.trace (b : Blk) (t kind data : Nat) : Blk :=
  let o := (b.tile t).ob
  let b := if 0 < o.traceLost && o.trace.length < 128 then
      (b.modTile t fun x => { x with ob := { x.ob with traceLost := 0 } }).traceOne t (b.traceRec t 7 o.traceLost)
    else b
  b.traceOne t (b.traceRec t kind data)

/-- MARK records follow EN and MARK (R381). -/
def Blk.traceMark (b : Blk) (t kind data : Nat) : Blk :=
  if flag b.obs.traceCtrl 0 && flag b.obs.traceCtrl 1 then b.trace t kind data else b

/-- CMD records follow EN, CMD and the tile map (R381). -/
def Blk.traceCmd (b : Blk) (t kind data : Nat) : Blk :=
  if flag b.obs.traceCtrl 0 && flag b.obs.traceCtrl 2 && flag b.obs.traceTiles t then b.trace t kind data else b

/-- PKT records follow EN, PKT and the tile map (R381). -/
def Blk.tracePkt (b : Blk) (t data : Nat) : Blk :=
  if flag b.obs.traceCtrl 0 && flag b.obs.traceCtrl 3 && flag b.obs.traceTiles t then b.trace t 5 data else b

end Sys2Proof.Machine
end

