-- ==== Sys2Proof/Machine/SownTables.lean ====
section
/-! DEFINITION. Sowing tables, furrow descriptors, route tables, the images that fill them and the checks of a load
(R45–R49, R52, R55–R57, R65, R77–R82). -/
namespace Sys2Proof.Machine

/-! ### A sowing table entry (R49) -/

def eIn (e : BitVec 64) : Nat := fld e 0 3
def eHalf (e : BitVec 64) : Bool := flag e 3
def eLag (e : BitVec 64) : Nat := fld e 4 6
def ePlot (e : BitVec 64) : Nat := fld e 16 8
def eFurrow (e : BitVec 64) : Nat := fld e 24 12
def eGroup (e : BitVec 64) : Nat := fld e 36 4
def eChkOk (e : BitVec 64) : Bool := fld e 56 8 = (crc8 e 56).toNat

/-- IN codes of R49. -/
def inIdle : Nat := 0
def inInject : Nat := 5

/-- Cells a window of the entry moves (R44, R49). -/
def eCap (e : BitVec 64) : Nat := if eHalf e then 8 else 16

/-- Offset at which entry k's window opens (R45). -/
def windowOffset (e : BitVec 64) (k : Nat) : Nat := 8 * k + 2 * (eLag e % 4)

/-! ### A furrow descriptor (R57) -/

def dFurrow (d : BitVec 128) : Nat := fld d 0 12
def dPlot (d : BitVec 128) : Nat := fld d 12 8
def dValid (d : BitVec 128) : Bool := flag d 20
def dLand (d : BitVec 128) : Bool := flag d 21
def dMode (d : BitVec 128) : Nat := fld d 22 2
def dGroup (d : BitVec 128) : Nat := fld d 24 4
def dBufA (d : BitVec 128) : Nat := fld d 32 15
def dBufB (d : BitVec 128) : Nat := fld d 48 15
def dCells (d : BitVec 128) : Nat := fld d 64 16
def dPeer (d : BitVec 128) : Nat := fld d 80 10
def dMcast (d : BitVec 128) : Bool := flag d 90

def modePort : Nat := 2
def modeHbm : Nat := 3

/-- Modes served by the attach logic. -/
def dAttach (d : BitVec 128) : Bool := dMode d = modePort || dMode d = modeHbm

/-! ### A route table entry (R78, R80) -/

def rOut0 (e : BitVec 32) : Nat := fld e 0 3
def rTurn (e : BitVec 32) : Bool := flag e 3
def rOut1 (e : BitVec 32) : Nat := fld e 4 3
def rOutA (e : BitVec 32) : Nat := fld e 8 3
def rChkOk (e : BitVec 32) : Bool := fld e 24 8 = (crc8 e 24).toNat

/-- Output codes of R78: 1 N, 2 E, 3 S, 4 W, 5 EJECT. -/
def outEject : Nat := 5

/-- The default output of a tile for a destination (R80). -/
def Member.defaultOut (m : Member) (t d : Nat) : Nat :=
  let w := m.width
  if !m.hasTile d then 0
  else if d % 32 ≠ t % 32 then if (d % 32 + w - t % 32) % w ≤ w / 2 then 2 else 4
  else if d / 32 ≠ t / 32 then if (d / 32 + w - t / 32) % w ≤ w / 2 then 3 else 1
  else outEject

/-- A route entry with its check field. -/
def routeWord (out0 out1 outA : Nat) : BitVec 32 :=
  let x : BitVec 32 := BitVec.ofNat 32 (out0 + 16 * out1 + 256 * outA)
  BitVec.ofNat 32 (x.toNat + 2 ^ 24 * (crc8 x 24).toNat)

/-- The default route entry (R80). -/
def Member.defaultRoute (m : Member) (t d : Nat) : BitVec 32 :=
  routeWord (m.defaultOut t d) (m.defaultOut t d) (m.defaultOut t d)

/-! ### One version of the tables -/

namespace SownVersion

def entry (v : SownVersion) (t o k : Nat) : BitVec 64 := v.entries.getD (2048 * (5 * t + o) + k) 0#64
def desc (v : SownVersion) (t i : Nat) : BitVec 128 := v.descs.getD (64 * t + i) 0#128
def route (v : SownVersion) (m : Member) (t d : Nat) : BitVec 32 := v.routes.getD (1024 * t + d) (m.defaultRoute t d)

/-- The listed descriptors of a tile, with their index. -/
def descsOf (v : SownVersion) (t : Nat) : List (Nat × BitVec 128) :=
  (v.descs.filter fun x => x.1 / 64 = t && dValid x.2).map fun x => (x.1 % 64, x.2)

/-- The valid descriptor of a direction for a furrow of a plot at a tile; of several, the lowest index (log 147). -/
def find (v : SownVersion) (t plot furrow : Nat) (land : Bool) : Option (Nat × BitVec 128) :=
  (v.descsOf t).find? fun x => dPlot x.2 = plot && dFurrow x.2 = furrow && dLand x.2 = land

/-- The listed entries of the version that lie in its frame: tile, output, index, entry. -/
def listed (v : SownVersion) : List (Nat × Nat × Nat × BitVec 64) :=
  (v.entries.filter fun x => x.1 % 2048 < v.slots).map fun x => (x.1 / 2048 / 5, x.1 / 2048 % 5, x.1 % 2048, x.2)

/-- Whether an entry counts as its plot's: every entry that names the plot, IDLE ones too; an idle entry of plot 0 names none
(R60, log 13). -/
def owned (e : BitVec 64) : Bool := eIn e ≠ inIdle || ePlot e ≠ 0

/-- The share of a plot on an output: its entries (R60). -/
def share (v : SownVersion) (t o plot : Nat) : Nat :=
  (v.listed.filter fun x => x.1 = t && x.2.1 = o && ePlot x.2.2.2 = plot && owned x.2.2.2).length

/-- Outputs on which some entry is listed, rising. -/
def outputs (v : SownVersion) : List (Nat × Nat) := (v.listed.map fun x => (x.1, x.2.1)).eraseDups

end SownVersion

/-- The index by which an output is named: 8 · tile + output (R62). -/
def outIndex (t o : Nat) : Nat := 8 * t + o

/-! ### Checks of a load (R52) -/

/-- A failure of a load: kind, tile and output of R52. -/
structure LoadFail where
  kind : Nat
  tile : Nat
  out : Nat
  deriving DecidableEq, Repr

/-- Order in which failures are named: tile first, then output, then descriptors, then routes. -/
def LoadFail.rank (f : LoadFail) : Nat := 4096 * f.tile + if f.kind = 6 then 8 + f.out else f.out

/-- The first of several failures. -/
def firstFail : List LoadFail → Option LoadFail
  | [] => none
  | f :: fs => match firstFail fs with
    | none => some f
    | some g => some (if g.rank < f.rank then g else f)

/-- Whether a pair of consecutive non-idle entries keeps R47. -/
def lagOk (a c : BitVec 64) : Bool := eIn a = inIdle || eIn c = inIdle || eLag a % 4 ≤ eLag c % 4

/-- Whether an entry keeps the conditions of R52 on tables. -/
def entryOk (m : Member) (v : SownVersion) (t o k : Nat) (e : BitVec 64) : Bool :=
  eChkOk e && (eIn e = inIdle && eGroup e = 0 ||
    (1 ≤ eIn e && eIn e ≤ 5 && !(eIn e = inInject && o = 4) && (eGroup e = 0 || eIn e = inInject) &&
      (!m.crossing t o || eHalf e) && eLag e / 4 ≤ k && lagOk e (v.entry t o ((k + 1) % v.slots)) &&
      lagOk (v.entry t o ((k + v.slots - 1) % v.slots)) e &&
      (eIn e ≠ inInject || (v.find t (ePlot e) (eFurrow e) false).isSome) &&
      (o ≠ 4 || (v.find t (ePlot e) (eFurrow e) true).isSome)))

/-- Failures of sowing tables. -/
def tableFails (m : Member) (v : SownVersion) : List LoadFail :=
  (v.listed.filter fun x => !entryOk m v x.1 x.2.1 x.2.2.1 x.2.2.2).map fun x => ⟨4, x.1, x.2.1⟩

/-- Cells per frame that a descriptor's own INJECT entries carry, and how many such entries there are (R57). -/
def ownedCap (v : SownVersion) (t : Nat) (d : BitVec 128) : Nat × Nat :=
  let l := v.listed.filter fun x => x.1 = t && eIn x.2.2.2 = inInject && ePlot x.2.2.2 = dPlot d && eFurrow x.2.2.2 = dFurrow d
  ((l.map fun x => eCap x.2.2.2).sum, l.length)

/-- Whether a tile lies in the row or the column of another. -/
def sameLine (a c : Nat) : Bool := a % 32 = c % 32 || a / 32 = c / 32

/-- The glean groups whose owner a descriptor is: its own GROUP and those of its INJECT entries (R56, R57). -/
def groupsOf (v : SownVersion) (t : Nat) (d : BitVec 128) : List Nat :=
  (dGroup d :: ((v.listed.filter fun x =>
    x.1 = t && eIn x.2.2.2 = inInject && ePlot x.2.2.2 = dPlot d && eFurrow x.2.2.2 = dFurrow d).map
      fun x => eGroup x.2.2.2)).filter (· ≠ 0)

/-- Whether the members of a descriptor's glean groups keep R56: one PEER, and a land descriptor for each member wherever the
group's owner ejects. -/
def groupOk (v : SownVersion) (t : Nat) (d : BitVec 128) : Bool :=
  dLand d ||
  ((v.descsOf t).all fun x =>
    !(dPlot x.2 = dPlot d && (groupsOf v t d).contains (dGroup x.2) && !dLand x.2) ||
    (dPeer x.2 = dPeer d &&
      v.listed.all fun e =>
        !(e.2.1 = 4 && eIn e.2.2.2 ≠ inIdle && ePlot e.2.2.2 = dPlot d && eFurrow e.2.2.2 = dFurrow d) ||
        (v.find e.1 (dPlot x.2) (dFurrow x.2) true).isSome))

/-- Whether a valid descriptor keeps R52 and R57. -/
def descOk (m : Member) (v : SownVersion) (t : Nat) (d : BitVec 128) : Bool :=
  m.hasTile (dPeer d) &&
  (dMode d ≠ modeHbm || m.isHbmTile t) &&
  !(dLand d && (dMode d = 1 || dMcast d)) &&
  !(!dLand d && dMcast d && (dPeer d = t || !sameLine (dPeer d) t)) &&
  dCells d ≤ 32768 && (dMode d = modePort || 1 ≤ dCells d) &&
  (dAttach d ||
    (dBufA d + dCells d ≤ 24576 && dBufB d + dCells d ≤ 24576 &&
      (dBufA d + dCells d ≤ dBufB d || dBufB d + dCells d ≤ dBufA d))) &&
  (dLand d ||
    ((ownedCap v t d).2 = 0 || dCells d ≤ (ownedCap v t d).1) &&
    (v.listed.all fun x =>
      !(x.1 = t && eIn x.2.2.2 = inInject && ePlot x.2.2.2 = dPlot d && eFurrow x.2.2.2 = dFurrow d) ||
      dGroup d = 0 || dGroup d = eGroup x.2.2.2)) &&
  groupOk v t d

/-- Failures of descriptors. -/
def descFails (m : Member) (v : SownVersion) : List LoadFail :=
  (v.descs.filter fun x => dValid x.2 && !descOk m v (x.1 / 64) x.2).map fun x => ⟨5, x.1 / 64, 5⟩

/-- Furrows with an entry on a crossing output: HALF = 1 on every entry of theirs (R55). -/
def halfFails (m : Member) (v : SownVersion) : List LoadFail :=
  let cross := (v.listed.filter fun x => m.crossing x.1 x.2.1 && eIn x.2.2.2 ≠ inIdle).map fun x => (ePlot x.2.2.2, eFurrow x.2.2.2)
  (v.listed.filter fun x => eIn x.2.2.2 ≠ inIdle && !eHalf x.2.2.2 && cross.contains (ePlot x.2.2.2, eFurrow x.2.2.2)).map
    fun x => ⟨5, x.1, 5⟩

/-! ### Checks of a route version (R82) -/

/-- A walk so far: tile, leg, tiles of this leg, turn tiles met, whether an X or Y hop was taken and which way. -/
structure Walk where
  at_ : Nat
  leg : Nat
  seen : List Nat
  turns : Nat
  xdir : Nat
  ydir : Nat
  deriving DecidableEq, Repr

/-- Whether a walk from a source reaches its destination as R82 asks. -/
def walkOk (m : Member) (v : SownVersion) (admin : Bool) (d : Nat) : Nat → Walk → Bool
  | 0, _ => false
  | fuel + 1, w =>
    let e := v.route m w.at_ d
    let turn := rTurn e
    if !rChkOk e || (admin && turn) || (turn && w.at_ = d) then false
    else
      let w := if !admin && turn then { w with leg := 1, seen := [], turns := w.turns + 1, xdir := 0, ydir := 0 } else w
      let out := if admin then rOutA e else if w.leg = 0 then rOut0 e else rOut1 e
      if 2 ≤ w.turns || out = 0 || 5 < out then false
      else if out = outEject then w.at_ = d
      else if w.seen.contains w.at_ then false
      else
        let n := m.neighbour w.at_ (out - 1)
        let w' := { w with at_ := n, seen := w.at_ :: w.seen }
        if out = 2 || out = 4 then
          if w.ydir ≠ 0 || (w.xdir ≠ 0 && w.xdir ≠ out) then false else walkOk m v admin d fuel { w' with xdir := out }
        else
          if w.ydir ≠ 0 && w.ydir ≠ out then false else walkOk m v admin d fuel { w' with ydir := out }

/-- Whether the entry of a source for a destination keeps R82. -/
def routeOk (m : Member) (v : SownVersion) (t d : Nat) : Bool :=
  let e := v.route m t d
  if !m.hasTile d then rChkOk e && rOut0 e = 0 && rOut1 e = 0 && rOutA e = 0
  else
    rOut0 e ≤ 5 && rOut1 e ≤ 5 && rOutA e ≤ 5 &&
    walkOk m v false d 256 ⟨t, 0, [], 0, 0, 0⟩ && walkOk m v true d 256 ⟨t, 0, [], 0, 0, 0⟩

/-- Failures of routes (R52 kind ROUTE): the tile named is the source of the walk that fails (log 148). -/
def routeFails (m : Member) (v : SownVersion) : List LoadFail :=
  m.tiles.flatMap fun t => ((List.range 1024).filter fun d => !routeOk m v t d).map fun d => ⟨6, t, d⟩

/-- The outcome of the checks on a whole version. -/
def versionFail (m : Member) (v : SownVersion) : Option LoadFail :=
  firstFail (tableFails m v ++ descFails m v ++ halfFails m v ++ routeFails m v)

/-! ### Images (R65, R81) -/

/-- MEMBER codes of R65. -/
def Member.code : Member → Nat
  | .dx16 => 0
  | .dx64 => 1
  | .dx256 => 2
  | .dx1024 => 3

/-- A section header (R65) and where its data lie. -/
structure Section_ where
  tile : Nat
  kind : Nat
  start : Nat
  count : Nat
  pos : Nat
  deriving DecidableEq, Repr

/-- Bytes of one item of a section. -/
def Section_.item (s : Section_) : Nat := if s.kind = 5 then 16 else 8

/-- Whether a section keeps R65 (kind SECTION of R52). -/
def Section_.ok (m : Member) (slots len : Nat) (s : Section_) : Bool :=
  m.hasTile s.tile && s.kind ≤ 5 && (if s.kind = 5 then s.start = 0 && s.count ≤ 64 else s.start + s.count ≤ slots) &&
  s.pos + s.count * s.item ≤ len

/-- The section headers of an image held at an offset of die 0's HBM. -/
def sections (b : Blk) (off len : Nat) : Nat → Nat → List Section_
  | 0, _ => []
  | n + 1, pos =>
    let h := BitVec.ofNat 64 (ofBytes (b.readHbm 0 (off + pos) 8))
    let s : Section_ := { tile := fld h 0 10, kind := fld h 10 3, start := fld h 16 12, count := fld h 28 16, pos := pos + 8 }
    if len < pos + 8 then [{ s with kind := 7 }]
    else s :: (if s.pos + s.count * s.item ≤ len then sections b off len n (s.pos + s.count * s.item) else [])

/-- The bits of a table entry, a descriptor and a route entry that are not reserved; a reserved bit reads as 0 whatever is
written (R6, R49, R57, R78). -/
def entryMask : BitVec 64 := 0xFF0000FFFFFF03FF#64
def descMask : BitVec 128 := BitVec.ofNat 128 (2 ^ 28 - 1 + (2 ^ 15 - 1) * 2 ^ 32 + (2 ^ 15 - 1) * 2 ^ 48 + (2 ^ 27 - 1) * 2 ^ 64)
def routeMask : BitVec 32 := 0xFF00077F#32

/-- A version with one section's items written. -/
def SownVersion.fill (b : Blk) (off : Nat) (v : SownVersion) (s : Section_) : SownVersion :=
  (List.range s.count).foldl (fun v i =>
    let x := ofBytes (b.readHbm 0 (off + s.pos + i * s.item) s.item)
    if s.kind = 5 then { v with descs := v.descs.put (64 * s.tile + s.start + i) (BitVec.ofNat 128 x &&& descMask) }
    else { v with entries := v.entries.put (2048 * (5 * s.tile + s.kind) + s.start + i) (BitVec.ofNat 64 x &&& entryMask) }) v

/-- The header of a sowing image at an offset of die 0's HBM. -/
def imageHeader (b : Blk) (off : Nat) : BitVec 256 := BitVec.ofNat 256 (ofBytes (b.readHbm 0 off 32))

/-- Whether the header fields of a sowing image are in range (R65). -/
def headerOk (b : Blk) (h : BitVec 256) : Bool :=
  fld h 0 32 = 0x534F574E && 125 ≤ fld h 48 12 && fld h 48 12 ≤ 2048 && fld h 60 2 = b.member.code &&
  (!flag h 62 || fld h 64 16 = b.sown.active.gen.toNat) && 32 ≤ fld h 96 32 && fld h 96 32 ≤ 2 ^ 26

/-- The header of a route image. -/
def routeHeader (b : Blk) (off : Nat) : BitVec 128 := BitVec.ofNat 128 (ofBytes (b.readHbm 0 off 16))

/-- The routes of a route image: one block of 1,024 entries for each valid tile (R81). -/
def readRoutes (b : Blk) (off : Nat) : Tbl (BitVec 32) :=
  (b.member.tiles.zip (List.range b.member.tileCount)).flatMap fun x =>
    (List.range 1024).map fun d =>
      (1024 * x.1 + d, BitVec.ofNat 32 (ofBytes (b.readHbm 0 (off + 16 + 4096 * x.2 + 4 * d) 4)) &&& routeMask)

/-- The shadow that a load of the images at two offsets builds, or the first failure (R52, R65, R81, R82). The route image of
an alternate is whatever stands behind its sowing image, if that is one (R291); a planned one must be whole once staged. -/
def loadImage (b : Blk) (alt : Bool) (off routeOff : Nat) : SownVersion × Option LoadFail :=
  let h := imageHeader b off
  let m := b.member
  let len := fld h 96 32
  let slots := fld h 48 12
  let act := b.sown.active
  let v0 : SownVersion :=
    { gen := BitVec.ofNat 16 (fld h 32 16), slots := slots, altOf := BitVec.ofNat 16 (fld h 64 16),
      entries := if flag h 62 then act.entries.drop (fun k => slots ≤ k % 2048) else [],
      descs := if flag h 62 then act.descs else [], routes := act.routes }
  let rh := routeHeader b routeOff
  let staged := alt || b.mgmt.routeStaged
  let useRoutes := staged && fld rh 0 32 = 0x524F5554 && fld rh 32 16 = fld h 32 16
  if !headerOk b h then (v0, some ⟨1, 0, 0⟩)
  else if staged && (!alt && fld rh 0 32 ≠ 0x524F5554 ||
      useRoutes && (fld rh 48 2 ≠ m.code || fld rh 64 32 ≠ 16 + 4096 * m.tileCount)) then (v0, some ⟨1, 0, 0⟩)
  else if fld h 224 32 ≠ (crc32c (b.readHbm 0 (off + 32) (len - 32))).toNat then (v0, some ⟨2, 0, 0⟩)
  else if useRoutes && fld rh 96 32 ≠ (crc32c (b.readHbm 0 (routeOff + 16) (fld rh 64 32 - 16))).toNat then (v0, some ⟨2, 0, 0⟩)
  else
    let ss := sections b off len (fld h 128 32) 32
    let bad := (ss.filter fun s => !s.ok m slots len).map fun s => (⟨3, s.tile, s.kind⟩ : LoadFail)
    let v := (ss.filter fun s => s.ok m slots len).foldl (SownVersion.fill b off) v0
    let v := if useRoutes then { v with routes := readRoutes b routeOff } else v
    (v, firstFail (bad ++ tableFails m v ++ descFails m v ++ halfFails m v ++ (if useRoutes then routeFails m v else [])))

/-- Where the route image of an alternate lies: the next 64-byte boundary after its sowing image (R291). -/
def altRouteOff (b : Blk) (off : Nat) : Nat := off + ceilDiv (fld (imageHeader b off) 96 32) 64 * 64

end Sys2Proof.Machine
end

