-- ==== Sys2Proof/Machine/Fault.lean ====
section
/-! DEFINITION. Fences (R70, R92), declared faults, wear and the failover library (R71, R288–R292, R379). -/
namespace Sys2Proof.Machine

/-! ### Fault classes, in the row order of R288, and outcomes of R292 -/

def fcLink : Nat := 0
def fcTile : Nat := 1
def fcCluster : Nat := 2
def fcHbm : Nat := 3
def fcDie : Nat := 4
def fcPort : Nat := 5
def fcPeer : Nat := 6

def foFailover : Nat := 0
def foDeferred : Nat := 1
def foNoAlt : Nat := 2
def foLoadFail : Nat := 3
def foNoSwap : Nat := 4

/-- RES_KIND of a class (R291): 0 LINK, 1 TILE, 2 CLUSTER, 3 PEER. No library entry names a resource of another class. -/
def resKind (cls : Nat) : Option Nat :=
  if cls = fcPeer then some 3 else if cls ≤ fcCluster then some cls else none

/-! ### Fences -/

def Blk.fences (b : Blk) (t : Nat) : BitVec 16 := b.sown.fences.getD t 0#16

/-- Fences outputs of a tile: bits 0–4 the sown outputs, 5–9 the open-plane outputs. -/
def Blk.fence (b : Blk) (t mask : Nat) : Blk :=
  { b with sown := { b.sown with fences := b.sown.fences.put t (b.fences t ||| BitVec.ofNat 16 mask) } }

/-- Lifts fences of a tile. -/
def Blk.unfence (b : Blk) (t mask : Nat) : Blk :=
  { b with sown := { b.sown with fences := b.sown.fences.put t (b.fences t &&& ~~~BitVec.ofNat 16 mask) } }

/-- An output of a tile on both planes. -/
def bothPlanes (o : Nat) : Nat := 2 ^ o + 2 ^ (5 + o)

/-- Every output of a tile on both planes. -/
def allOutputs : Nat := 0x3FF

def Blk.sownFenced (b : Blk) (t o : Nat) : Bool := flag (b.fences t) o
def Blk.openFenced (b : Blk) (t o : Nat) : Bool := flag (b.fences t) (5 + o)

/-- The outputs a failed resource fences: tile and mask (R288, R292). A failed link fences its own direction. -/
def resourceFences (cls res : Nat) : List (Nat × Nat) :=
  if cls = fcLink then [(res / 4, bothPlanes (res % 4))]
  else if cls = fcTile then [(res, allOutputs)]
  else if cls = fcCluster then (clusterTiles res).map fun t => (t, allOutputs)
  else []

/-! ### Swap events (R410) -/

def rsNotReady : Nat := 1
def rsLock : Nat := 2
def rsSpacing : Nat := 3
def rsTooLate : Nat := 4
def rsTooFar : Nat := 5
def rsGen : Nat := 6
def rsQuota : Nat := 7
def rsSeam : Nat := 8
def rsFault : Nat := 9

/-- SWAP_REFUSED with its reason. -/
def Blk.swapRefused (b : Blk) (reason : Nat) : Blk := b.raiseS 0x21 0 none b.sown.shadow.gen.toNat reason

/-- An armed swap is cancelled; the shadow takes the state given (R71, R410). -/
def Blk.swapCancel (b : Blk) (reason : Nat) (dest : ShadowState) : Blk :=
  ({ b with sown := { b.sown with state := dest, expert := false, busy := false } } : Blk).raiseS 0x22 0 none
    b.sown.shadow.gen.toNat reason

/-! ### The failover library (R291, R292, R71) -/

def lImage (e : BitVec 64) : Nat := fld e 0 32 * 64
def lKind (e : BitVec 64) : Nat := fld e 32 3
def lValid (e : BitVec 64) : Bool := flag e 35
def lRes (e : BitVec 64) : Nat := fld e 36 12

/-- Whether a library entry can be used: VALID, and its alternate is one of the active generation (R291). -/
def Blk.usable (b : Blk) (e : BitVec 64) : Bool :=
  lValid e && fld (imageHeader b (lImage e)) 64 16 = b.sown.active.gen.toNat

/-- The lowest usable entry whose resource has failed (R292). -/
def Blk.pickAlternate (b : Blk) : Option (Nat × BitVec 64) :=
  b.fault.library.find? fun x => b.usable x.2 && b.fault.failed.any fun r => resKind r.1 = some (lKind x.2) && r.2 = lRes x.2

/-- Whether a plot has a range on a die: SIZE of range i ≠ 0 (R263). The quarters of a stack interleave at 4 KiB (R396), so a
range of one granule lies on each of them. -/
def Plot.onDie (x : Plot) (die : Nat) : Bool := fld x.cfg.hbm (32 * die + 16) 10 ≠ 0

/-- The plots that a FAULT event names (R288): the owner of the tile, the owners of a cluster's tiles, every plot with a range on
an HBM quarter; plot 0 where there is none. -/
def Blk.faultPlots (b : Blk) (f : Failover) : List Nat :=
  let l :=
    if f.cls = fcTile then [f.resource].filterMap b.ownerOf
    else if f.cls = fcLink then [f.resource / 4].filterMap b.ownerOf
    else if f.cls = fcCluster then ((clusterTiles f.resource).filterMap b.ownerOf).eraseDups
    else if f.cls = fcHbm then (b.plots.filter fun x => x.2.onDie (f.resource / 4)).map (·.1)
    else []
  if l = [] then [0] else l

/-- The FAULT event of a resource, with its detection frame and outcome (R288): one record, or one for each plot that it has to
name (log 151). -/
def Blk.faultEvent (b : Blk) (f : Failover) (outcome : Nat) : Blk :=
  let tile := if f.cls = fcTile then some f.resource else if f.cls = fcLink then some (f.resource / 4) else none
  b.each (b.faultPlots f) fun b p =>
    let e := { b.event 0x30 p tile f.cls f.resource outcome 0 with frame := f.frame, offset := f.offset }
    (b.hangEvent e).note (.event true e)

/-- The outcome of a fault is reported once (R288, R292). -/
def Blk.tellFault (b : Blk) (f : Failover) (outcome : Nat) : Blk := if f.told then b else b.faultEvent f outcome

/-- The steward takes the alternate for a fault now that the shadow is free for it (R71, R292). -/
def Blk.startFailover (b : Blk) (f : Failover) : Blk :=
  match b.pickAlternate with
  | none => b.tellFault f foNoAlt
  | some x =>
    { b with
      fault := { b.fault with current := some { f with entry := x.1 } },
      sown := { b.sown with state := .loading, expert := false, busy := true } }

/-- A fault that waits for the shadow is met when the shadow is FREE again (R71). It is reported at once: DEFERRED, or NO_ALT
when the library holds nothing for it. -/
def Blk.failWait (b : Blk) (f : Failover) : Blk :=
  let o := if b.pickAlternate.isNone then foNoAlt else foDeferred
  let b := b.faultEvent f o
  { b with fault := { b.fault with waiting := b.fault.waiting ++ [{ f with told := true }] } }

/-- A fault is met as R71 lays down, after its fence: what R71 does with the shadow does not depend on an alternate. -/
def Blk.failover (b : Blk) (f : Failover) : Blk :=
  if b.fault.current.isSome then b.failWait f
  else match b.sown.state with
    | .free => b.startFailover f
    | .invalid => b.startFailover f
    | .retired => b.failWait f
    | .loading => (b.swapCancel rsFault .free).startFailover f
    | .ready => (b.swapCancel rsFault .free).startFailover f
    | .armed =>
      if 256 ≤ b.mcUntil b.sown.swapFrame then (b.swapCancel rsFault .free).startFailover f else b.failWait f

/-! ### Hang rings at a fault (R379) -/

/-- The 64 records of a tile's hang ring, newest first (R379). -/
def Tile.hangBytes (x : Tile) : Bytes := padTo 2048 (x.ob.hang.flatMap fun e => e.bytes 0 0)

/-- Copies the 16 rings of a cluster to HANG_BASE and posts HANG_DUMP (R379, R385). -/
def Blk.hangDump (b : Blk) (c : Nat) : Blk :=
  if b.obs.hangBase = 0#64 then b
  else
    (b.writeHost (b.obs.hangBase.toNat + 32768 * c) ((clusterTiles c).flatMap fun t => (b.tile t).hangBytes)).raiseS 0x82 0 none c

/-- Freezes the rings of the tiles that a TILE or CLUSTER fault names, and dumps their clusters (R379). -/
def Blk.hangFreeze (b : Blk) (cls res : Nat) : Blk :=
  let ts := if cls = fcTile then [res] else if cls = fcCluster then clusterTiles res else []
  let b := b.each ts fun b t => (b.modTile t fun x => { x with ob := { x.ob with frozen := true } }).note (.set (.frozen t))
  if cls = fcTile then b.hangDump (clusterOf res) else if cls = fcCluster then b.hangDump res else b

/-! ### Declaring a fault (R288) -/

/-- Whether a resource has been declared failed and its fences stand: a swap has not lifted them (R70, R288). -/
def Blk.standing (b : Blk) (cls res : Nat) : Bool :=
  b.fault.failed.contains (cls, res) &&
    (resourceFences cls res).all fun x => (b.fences x.1 &&& BitVec.ofNat 16 x.2) = BitVec.ofNat 16 x.2

/-- Declares a resource failed: fence, failover, one FAULT event, frozen hang rings. Nothing more for one that is already
fenced (R288). -/
def Blk.declare (b : Blk) (cls res : Nat) : Blk :=
  if b.standing cls res then b
  else
    let f : Failover := { cls := cls, resource := res, entry := 0, frame := b.clk.frame, offset := b.clk.offset, told := false }
    let b : Blk := { b with fault := { b.fault with failed := (b.fault.failed.filter fun r => r ≠ (cls, res)) ++ [(cls, res)] } }
    let b := b.each (resourceFences cls res) fun b x => b.fence x.1 x.2
    let b := if cls = fcHbm || cls = fcPort then b.faultEvent f foNoSwap
      else if cls = fcDie then b.faultEvent f foNoAlt else b.failover f
    b.hangFreeze cls res

/-- A resource is no longer declared failed. -/
def Blk.undeclare (b : Blk) (cls res : Nat) : Blk :=
  { b with fault := { b.fault with failed := b.fault.failed.filter fun r => r ≠ (cls, res) } }

/-! ### Wear (R289, R290) -/

/-- Threshold of a kind: 0 tile, 1 link, 2 port. -/
def Blk.wearTh (b : Blk) (kind : Nat) : Nat :=
  if kind = 0 then b.fault.thTile.toNat else if kind = 1 then b.fault.thLink.toNat else b.fault.thPort.toNat

/-- W of a resource. -/
def Blk.wearOf (b : Blk) (kind idx : Nat) : BitVec 32 × Bool × Bool := b.fault.wear.getD (4096 * kind + idx) (0#32, false, false)

/-- Adds to a wear score; at the threshold WARN is set and one WEAR_WARN raised (R289). -/
def Blk.addWear (b : Blk) (kind idx n : Nat) : Blk :=
  let (w, warn, quiet) := b.wearOf kind idx
  let w' := min (2 ^ 32 - 1) (w.toNat + n)
  let hit := b.wearTh kind ≤ w' && !quiet
  let b : Blk := { b with fault := { b.fault with
    wear := b.fault.wear.put (4096 * kind + idx) (BitVec.ofNat 32 w', warn || hit, quiet || hit) } }
  if hit then (b.note (.set (.wearWarn (4096 * kind + idx)))).raiseS 0x31 0 none (2 ^ 14 * kind + idx) w' else b

/-- The decay of every score (R289); a resource may warn again once W is below half its threshold. -/
def Blk.decayWear (b : Blk) : Blk :=
  { b with fault := { b.fault with
    wear := b.fault.wear.mapV fun k x =>
      let w := x.1.toNat - x.1.toNat / 8
      (BitVec.ofNat 32 w, x.2.1, x.2.2 && b.wearTh (k / 4096) ≤ 2 * w) } }

/-- A corrected error at a tile (R289). -/
def Blk.corrected (b : Blk) (t : Nat) : Blk := (b.count t evSramCe).addWear 0 t 1

end Sys2Proof.Machine
end

