-- ==== Sys2Proof/Machine/Streams.lean ====
section
/-! DEFINITION. HBM streams (R398): what a stream gives an inject descriptor, what it writes, how it ends; and the ranges of
a plot in its dies' stacks (R263, R396). -/
namespace Sys2Proof.Machine

/-- Bytes of a granule (R263). -/
def granule : Nat := 2 ^ 26

/-- A plot's range on a die: base granule and granules (R263). -/
def PlotCfg.range (c : PlotCfg) (die : Nat) : Nat × Nat := (fld c.hbm (32 * die) 10, fld c.hbm (32 * die + 16) 10)

/-- Bytes of a plot's HBM on all dies. -/
def PlotCfg.hbmSize (c : PlotCfg) : Nat := ((List.range 4).map fun d => granule * (c.range d).2).sum

/-- The die and stack address of a plot-relative HBM offset: the ranges joined in ascending die (R104). -/
def PlotCfg.place (c : PlotCfg) (off : Nat) : Option (Nat × Nat) :=
  let rec go (d n off : Nat) : Option (Nat × Nat) :=
    match n with
    | 0 => none
    | n + 1 =>
      let r := c.range d
      if off < granule * r.2 then some (d, granule * r.1 + off) else go (d + 1) n (off - granule * r.2)
  go 0 4 off

/-- The die and stack address of each run of a plot's HBM from a byte offset on, with its bytes: a run that passes a range's end goes
on in the next (R104). -/
def PlotCfg.runs (c : PlotCfg) : Nat → Nat → Nat → List (Nat × Nat × Nat)
  | 0, _, _ => []
  | fuel + 1, off, len =>
    if len = 0 then []
    else match c.place off with
      | none => []
      | some (d, a) =>
        let r := c.range d
        let n := min len (granule * (r.1 + r.2) - a)
        (d, a, n) :: c.runs fuel (off + n) (len - n)

/-- Bytes of a plot's HBM from a byte offset on. -/
def Blk.readPlotHbm (b : Blk) (plot off n : Nat) : Bytes :=
  ((b.plot plot).cfg.runs 4 off n).flatMap fun x => b.readHbm x.1 x.2.1 x.2.2

/-- A write to a plot's HBM from a byte offset on. -/
def Blk.writePlotHbm (b : Blk) (plot off : Nat) (xs : Bytes) : Blk :=
  (((b.plot plot).cfg.runs 4 off xs.length).foldl (fun (y : Blk × Bytes) x =>
    (y.1.writeHbm x.1 x.2.1 (y.2.take x.2.2), y.2.drop x.2.2)) (b, xs)).1

/-- The quarter of a stack address: bits [7:6] of its 64-byte unit (R396). -/
def quarterOfAddr (a : Nat) : Nat := a / 64 / 64 % 4

/-- The next cell of the same quarter after a stack address (R396, R398). -/
def nextCell (a : Nat) : Nat := if a / 64 % 64 = 63 then a + 64 + 3 * 4096 else a + 64

/-- The open stream of a furrow at an attach tile. -/
def HbmAttach.streamOf (h : HbmAttach) (plot furrow : Nat) (write : Bool) : Option (Nat × HbmStream) :=
  h.streams.find? fun x => x.2.plot = plot && x.2.furrow = furrow && x.2.write = write

/-- A stream ends early: its cells not moved are counted, one STAGE_FLUSH names the furrow, the entry is free (R398). -/
def Blk.streamStop (b : Blk) (t i : Nat) : Blk :=
  match (b.hbmAt t).streams.get? i with
  | none => b
  | some s =>
    let b := b.modHbm t fun h => { h with streams := h.streams.del i }
    let b := if s.left = 0 then b else b.countN t evStageFlush s.left (some s.plot)
    b.raiseP 0x0E s.plot (some t) s.furrow s.left

/-- Cells a read stream gives a window: up to cap, up to the descriptor's CELLS in a frame, from frame FIRST on. -/
def Blk.streamTake (b : Blk) (t plot furrow cells cap : Nat) : List StagedCell × Blk :=
  match (b.hbmAt t).streamOf plot furrow false with
  | none => ([], b)
  | some (i, s) =>
    if ahead s.first b.clk.frame then ([], b)
    else
      let die := b.member.dieOf t
      let n := min (min cap (cells - s.sentThis)) s.left
      let rec addrs (a n : Nat) : List Nat := match n with | 0 => [] | n + 1 => a :: addrs (nextCell a) n
      let as := addrs s.next n
      let out := as.zipIdx.map fun x =>
        ({ kind := 0, index := s.sentThis + x.2, fill := 63, first := s.sentThis + x.2 = 0,
           last := s.sentThis + x.2 + 1 = cells || x.2 + 1 = s.left, data := b.readHbm die x.1 64 } : StagedCell)
      let s' := { s with next := (addrs s.next (n + 1)).getLastD s.next, left := s.left - n, sentThis := s.sentThis + n }
      (out, b.modHbm t fun h =>
        { h with streams := if s'.left = 0 then h.streams.del i else h.streams.put i s' })

/-- A cell lands on a write stream (R398). -/
def Blk.streamLand (b : Blk) (t plot furrow index : Nat) (data : Bytes) (stale : Bool) : Blk :=
  match (b.hbmAt t).streamOf plot furrow true with
  | none => b
  | some (i, s) =>
    b.modHbm t fun h => { h with streams := h.streams.put i { s with landed := s.landed.put index (data, stale) } }

/-- A write stream takes its landed frame in CELL_INDEX order; a missing or stale cell stops it (R398). -/
def Blk.streamFrame (b : Blk) (t i : Nat) (s : HbmStream) : Blk :=
  let rec go (b : Blk) (l : List (Nat × (Bytes × Bool))) (want : Nat) (s : HbmStream) : Blk × HbmStream × Bool :=
    match l with
    | [] => (b, s, true)
    | (k, (x, stale)) :: l =>
      if k ≠ want || stale then (b, s, false)
      else if s.left = 0 then (b, s, true)
      else go (b.writeHbm (b.member.dieOf t) s.next x) l (want + 1) { s with next := nextCell s.next, left := s.left - 1 }
  let (b, s, ok) := go b s.landed 0 s
  let s := { s with landed := [], sentThis := 0 }
  let b := b.modHbm t fun h => { h with streams := if s.left = 0 then h.streams.del i else h.streams.put i s }
  if ok then b else b.streamStop t i

/-- Every stream of every attach tile passes a tick: read streams count their frame anew, write streams take what landed. -/
def Blk.streamTick (b : Blk) : Blk :=
  b.each b.hbma fun b x => b.each x.2.streams fun b y => b.streamFrame x.1 y.1 y.2

/-- Streams of a plot stop (teardown, rebind), or those of withdrawn furrows (swap). -/
def Blk.streamStopIf (b : Blk) (p : Nat → HbmStream → Bool) : Blk :=
  b.each b.hbma fun b x => b.each x.2.streams fun b y => if p x.1 y.2 then b.streamStop x.1 y.1 else b

end Sys2Proof.Machine
end

