-- ==== Sys2Proof/Machine/Operands.lean ====
section
/-! DEFINITION. The fields of a command (R102) and what its operands name (R103, R104). -/
namespace Sys2Proof.Machine

/-! ### The command (R102) -/

def kOp (c : BitVec 256) : Nat := fld c 0 8
def kSteal (c : BitVec 256) : Bool := flag c 8
def kEvent (c : BitVec 256) : Bool := flag c 9
def kOrder (c : BitVec 256) : Bool := flag c 10
def kNowait (c : BitVec 256) : Bool := flag c 11
def kCont (c : BitVec 256) : Bool := flag c 12
def kDlRel (c : BitVec 256) : Bool := flag c 13
def kWaitSem (c : BitVec 256) : Nat := fld c 16 5
def kWaitEn (c : BitVec 256) : Bool := flag c 21
def kSigSem (c : BitVec 256) : Nat := fld c 24 5
def kSigEn (c : BitVec 256) : Bool := flag c 29
def kDeadline (c : BitVec 256) : Nat := fld c 32 16
def kXopt (c : BitVec 256) : Nat := fld c 48 16
def kOpa (c : BitVec 256) : Nat := fld c 64 32
def kOpb (c : BitVec 256) : Nat := fld c 96 32
def kOpc (c : BitVec 256) : Nat := fld c 128 32
def kLen (c : BitVec 256) : Nat := fld c 160 32
def kArg (c : BitVec 256) : Nat := fld c 192 32
def kInFmt (c : BitVec 256) : Nat := fld c 224 4
def kOutFmt (c : BitVec 256) : Nat := fld c 228 4
def kRnd (c : BitVec 256) : Nat := fld c 232 3
def kChkOk (c : BitVec 256) : Bool := fld c 248 8 = (crc8 c 248).toNat

/-- ENGINE of an OP and its function. -/
def opEngine (op : Nat) : Nat := op / 64
def opFunction (op : Nat) : Nat := op % 64

/-- Functions of the list commands (R105). -/
def fnNop : Nat := 0x38
def fnWait : Nat := 0x39
def fnSignal : Nat := 0x3A
def fnTick : Nat := 0x3B
def fnLoop : Nat := 0x3C
def fnCall : Nat := 0x3D
def fnEnd : Nat := 0x3E
def fnEvent : Nat := 0x3F

/-- Whether an OP is listed in R105 to R109. -/
def opListed (op : Nat) : Bool :=
  0x38 ≤ opFunction op ||
  (match opEngine op with
   | 0 => 0x01 ≤ opFunction op && opFunction op ≤ 0x0A
   | 1 => 0x01 ≤ opFunction op && opFunction op ≤ 0x0A
   | 2 => 0x01 ≤ opFunction op && opFunction op ≤ 0x04
   | _ => 0x01 ≤ opFunction op && opFunction op ≤ 0x08)

/-- Whether CCHK and OP of a command pass (R102). -/
def cmdOk (c : BitVec 256) : Bool := kChkOk c && opListed (kOp c)

/-! ### SRAM operands (R103) -/

/-- The byte address of an SRAM operand: bits [20:0], after BASE when REL = 1. -/
def sramAddr (base x : Nat) : Nat := if x / 2 ^ 31 % 2 = 1 then base + x % 2 ^ 21 else x % 2 ^ 21

/-- The address of an SRAM operand of a length, aligned as asked; none is BAD_OPERAND. -/
def sramOp (base x len align : Nat) : Option Nat :=
  let a := sramAddr base x
  if a + len ≤ sramBytes && a % align = 0 then some a else none

/-! ### HBM and host operands (R104) -/

/-- Whether a run of bytes at an offset in 64-byte units lies in a plot's HBM. -/
def Blk.inHbm (b : Blk) (plot off len : Nat) : Bool := 64 * off + len ≤ (b.plot plot).cfg.hbmSize

/-- The die and stack address of a plot's HBM offset in 64-byte units. -/
def Blk.hbmPlace (b : Blk) (plot off : Nat) : Option (Nat × Nat) := (b.plot plot).cfg.place (64 * off)

/-- The host DMA window of a plot: its base and its bytes; none while it is not VALID (R342). -/
def Blk.dmaWin (b : Blk) (plot : Nat) : Option (Nat × Nat) :=
  let h := (b.plot plot).host
  if h.dmaValid then some (h.dmaBase.toNat, 4096 * h.dmaPages.toNat) else none

/-- The host address of a run of bytes at an offset in 64-byte units of a window; none outside it. -/
def winPlace (w : Option (Nat × Nat)) (off len : Nat) : Option Nat :=
  w.bind fun w => if 64 * off + len ≤ w.2 then some (w.1 + 64 * off) else none

/-- Whether a run of bytes at an offset in 64-byte units lies in a plot's host DMA window (R104, R342). -/
def Blk.inHost (b : Blk) (plot off len : Nat) : Bool := (winPlace (b.dmaWin plot) off len).isSome

/-- The host address of an offset of a plot's window. -/
def Blk.hostPlace (b : Blk) (plot off : Nat) : Nat := (b.plot plot).host.dmaBase.toNat + 64 * off

/-! ### Checks in order -/

/-- A check that passes, or the status and DETAIL that the command completes with. -/
abbrev Chk (α : Type) := Except (Nat × Nat) α

/-- The command goes on where the condition holds, else completes with the status and DETAIL. -/
def must (c : Bool) (st : Nat) (detail : Nat := 0) : Chk Unit := if c then .ok () else .error (st, detail)

/-- Whether a run of bytes of a tile meets a sealed range (R282). -/
def Tile.sealedHit (x : Tile) (a len : Nat) : Bool := x.sealed.any fun r => a < r.1 + r.2 && r.1 < a + len

/-- An SRAM operand: BAD_OPERAND by its place, then STATE, SEALED (R103, R282). -/
def Blk.sramAt (b : Blk) (t base x len align : Nat) : Chk Nat :=
  match sramOp base x len align with
  | none => .error (stBadOperand, 0)
  | some a => if (b.tile t).sealedHit a len then .error (stState, dtSealed) else .ok a

end Sys2Proof.Machine
end

