-- ==== Sys2Proof/WellFormed.lean ====
section
/-! DEFINITION. Which commands are well formed: every number lies in the range that the spec gives its kind on every
member (R8, R14, R15, R23, R25, R93, R101, R110, R160, R317, R344). -/
namespace Sys2Proof

/-- A tile id of a slot owner has 10 bits (R23). -/
def SlotOwner.wf : SlotOwner → Bool
  | .tile t => t < 1024
  | .steward => true
  | .vault => true

/-- Whether the numbers of a command lie in range. -/
def Instr.wf : Instr → Bool
  | .tickMarkerReceive die _ => die < 4
  | .frameLockRegained die => die < 4
  | .sownWindowOpen tile out entry => tile < 1024 && out < 5 && entry < 2048
  | .sownCellArrival tile input _ => tile < 1024 && input < 4
  | .sownLoadStart _ => true
  | .swapFrameWrite _ _ => true
  | .swapArm _ => true
  | .swapDisarm _ => true
  | .sownQuotaWrite _ _ => true
  | .expertEntryWrite _ _ => true
  | .expertDescriptorWrite _ _ => true
  | .expertRouteWrite _ _ => true
  | .expertSelectorWrite _ _ _ => true
  | .expertCheck _ => true
  | .engineNoProgress tile engine => tile < 1024 && engine < 4
  | .hbmRequestUnanswered tile tag => tile < 1024 && tag < 256
  | .xsUncorr tile out => tile < 1024 && out < 4
  | .xsPhyDown tile out => tile < 1024 && out < 4
  | .flitHeadArrival tile subnet input _ => tile < 1024 && subnet < 3 && input < 5
  | .outputArbitration tile subnet out => tile < 1024 && subnet < 3 && out < 5
  | .creditReturn tile subnet input vc => tile < 1024 && subnet < 3 && input < 5 && vc < 4
  | .flitAgeDrop tile subnet input vc => tile < 1024 && subnet < 3 && input < 5 && vc < 4
  | .requestInject tile _ => tile < 1024
  | .requestEject tile subnet => tile < 1024 && subnet < 3
  | .replyDeadline tile subnet => tile < 1024 && subnet < 3
  | .reqTimeout owner slot => owner.wf && slot < 32
  | .slotQuarantineEnd owner slot => owner.wf && slot < 32
  | .replyArrival tile subnet => tile < 1024 && subnet < 3
  | .openCtrlWrite tile _ => tile < 1024
  | .listLaunch plot _ => plot < 256
  | .launchDequeue tile => tile < 1024
  | .commandDispatch tile ctx => tile < 1024 && ctx < 8
  | .listNop tile engine => tile < 1024 && engine < 4
  | .listWait tile engine => tile < 1024 && engine < 4
  | .listSignal tile engine => tile < 1024 && engine < 4
  | .listTick tile engine => tile < 1024 && engine < 4
  | .listLoop tile ctx => tile < 1024 && ctx < 8
  | .listCall tile ctx => tile < 1024 && ctx < 8
  | .listEnd tile ctx => tile < 1024 && ctx < 8
  | .listEvent tile engine => tile < 1024 && engine < 4
  | .moveCopy tile => tile < 1024
  | .moveFill tile => tile < 1024
  | .moveHbmRead tile => tile < 1024
  | .moveHbmWrite tile => tile < 1024
  | .moveHostRead tile => tile < 1024
  | .moveHostWrite tile => tile < 1024
  | .moveSow tile => tile < 1024
  | .moveReap tile => tile < 1024
  | .moveEmit tile => tile < 1024
  | .moveHbmStream tile => tile < 1024
  | .reduceOasis tile => tile < 1024
  | .reduceRelease tile => tile < 1024
  | .reduceAdd tile => tile < 1024
  | .reduceAddSown tile => tile < 1024
  | .reduceScaleAdd tile => tile < 1024
  | .reduceMerge tile => tile < 1024
  | .reduceRound tile => tile < 1024
  | .reduceNarrow tile => tile < 1024
  | .reduceMap tile => tile < 1024
  | .reduceCrc tile => tile < 1024
  | .arrayLoad tile => tile < 1024
  | .arrayMm tile => tile < 1024
  | .arrayTopk tile => tile < 1024
  | .arrayGate tile => tile < 1024
  | .queueSend tile => tile < 1024
  | .queueGet tile => tile < 1024
  | .queuePut tile => tile < 1024
  | .queueCombine tile => tile < 1024
  | .queueBind tile => tile < 1024
  | .queueUnbind tile => tile < 1024
  | .queuePop tile => tile < 1024
  | .queueHandler tile => tile < 1024
  | .commandComplete tile engine => tile < 1024 && engine < 4
  | .statusRecordWrite tile ctx => tile < 1024 && ctx < 8
  | .ctxAbort tile ctx => tile < 1024 && ctx < 8
  | .semWrite tile sem _ => tile < 1024 && sem < 32
  | .stealRequestSend tile engine => tile < 1024 && engine < 4
  | .stealRequestReceive tile => tile < 1024
  | .lendReceive tile engine => tile < 1024 && engine < 4
  | .stolenResultReturn tile _ => tile < 1024
  | .engCtrlWrite tile _ => tile < 1024
  | .msgPacketLand tile => tile < 1024
  | .entryPublish tile queue => tile < 1024 && queue < 16
  | .handlerLaunch tile => tile < 1024
  | .fallbackDrain tile queue => tile < 1024 && queue < 16
  | .assemblyAbandon tile index => tile < 1024 && index < 32
  | .remoteGet tile => tile < 1024
  | .remotePut tile => tile < 1024
  | .combinePacket tile => tile < 1024
  | .queueRdWrite tile queue _ => tile < 1024 && queue < 16
  | .fbPop tile _ => tile < 1024
  | .collDoorbell plot _ => plot < 256
  | .collAccept plot _ => plot < 256
  | .collNoAck plot _ _ _ => plot < 256
  | .collAckReceive tile => tile < 1024
  | .collResendReceive tile => tile < 1024
  | .kernelDoorbell plot _ => plot < 256
  | .kernelBind plot _ => plot < 256
  | .kernelUnbind plot _ => plot < 256
  | .tokenPartArrival tile => tile < 1024
  | .tokenAsmTimeout tile slot => tile < 1024 && slot < 64
  | .khdrReceive tile => tile < 1024
  | .kernelTrainLand tile => tile < 1024
  | .expertOutputArrival tile => tile < 1024
  | .tokenRetTimeout tile slot => tile < 1024 && slot < 64
  | .dfpIngress port _ _ _ => port < 256
  | .msgDfpReceive tile => tile < 1024
  | .egressEnqueue port => port < 256
  | .egressSchedule port _ => port < 256
  | .txUnderrun port _ => port < 256
  | .portUp port => port < 256
  | .portDrain port => port < 256
  | .portDown port => port < 256
  | .portCtrlWrite _ port _ => port < 256
  | .moduleInsert port => port < 256
  | .moduleRemove port => port < 256
  | .svcPress port => port < 256
  | .svcStuck port => port < 256
  | .frontPanelScan _ => true
  | .portLinkUp port => port < 256
  | .portLinkDown port => port < 256
  | .drainComplete port => port < 256
  | .drainLimitExpiry port => port < 256
  | .sieveWrite _ _ => true
  | .lookupWrite _ _ => true
  | .meterWrite _ _ => true
  | .egressQueueWrite _ port _ => port < 256
  | .shaperWrite _ port _ => port < 256
  | .gateWrite _ port _ => port < 256
  | .poolWrite _ port _ => port < 256
  | .pfcReceive port prio _ => port < 256 && prio < 8
  | .combLost comb => comb < 64
  | .adcReading loop _ => loop < 2560
  | .loopConfigWrite _ _ => true
  | .calGo _ _ => true
  | .calDue port => port < 256
  | .calStageEnd port => port < 256
  | .plotBind _ => true
  | .plotBindDone plot => plot < 256
  | .plotRebind _ => true
  | .plotRebindDone plot => plot < 256
  | .plotTeardown _ => true
  | .teardownTilesReleased plot => plot < 256
  | .hbmScrubDone plot range => plot < 256 && range < 256
  | .plotConfigWrite _ sub _ => sub < 256
  | .queueQuotaWrite _ _ => true
  | .hbmRangeWrite _ _ => true
  | .attestReport _ => true
  | .getVersion _ => true
  | .getCapabilities _ => true
  | .negotiateAlgorithms _ => true
  | .getDigests _ => true
  | .getCertificate _ _ _ => true
  | .challenge _ _ => true
  | .getMeasurements _ _ index _ => index < 65536
  | .keyExchange _ => true
  | .finish _ _ => true
  | .heartbeatSpdm _ => true
  | .keyUpdate _ => true
  | .endSession _ => true
  | .spdmUnsupportedRequest _ _ => true
  | .plotClaim _ plot => plot < 256
  | .keySet _ _ _ => true
  | .txPhase _ _ => true
  | .phaseRetire _ _ _ => true
  | .secFlags _ _ => true
  | .phaseHoldEnd plot _ => plot < 256
  | .query _ => true
  | .keyProg _ _ _ _ => true
  | .kSetGo _ _ => true
  | .kSetStop _ _ => true
  | .ideAnswer _ => true
  | .ideManagerWrite _ _ => true
  | .capsuleUnwrap plot _ => plot < 256
  | .rngHealth _ => true
  | .libraryWrite _ _ => true
  | .wearWrite _ _ => true
  | .heartbeatMiss member => member < 32
  | .quorumGroupWrite _ sub _ => sub < 256
  | .rejoin _ _ => true
  | .graftMapWrite _ _ => true
  | .graftHoldEnd plot => plot < 256
  | .clusterActive _ => true
  | .clusterFallow _ => true
  | .clusterDeep _ => true
  | .portPwrWrite _ port _ => port < 256
  | .fallowAll _ => true
  | .wakeAll _ => true
  | .powerStageStart die index => die < 4 && index < 65536
  | .powerStageEnd die index => die < 4 && index < 65536
  | .pwrCtrlWrite _ _ => true
  | .moaFrameReceive _ _ => true
  | .moaRead _ index sub => index < 65536 && sub < 256
  | .moaWrite _ index sub _ => index < 65536 && sub < 256
  | .odRegisterWrite _ index sub _ => index < 65536 && sub < 256
  | .describe _ index sub => index < 65536 && sub < 256
  | .hello _ => true
  | .segWrite _ index sub _ _ => index < 65536 && sub < 256
  | .segRead _ index sub => index < 65536 && sub < 256
  | .segAbort _ => true
  | .segment _ _ _ => true
  | .segAck _ _ => true
  | .segTimeout _ => true
  | .keySlotWrite _ _ _ => true
  | .arpRequest _ => true
  | .neighborSolicitation _ => true
  | .hostRegisterWrite _ _ _ => true
  | .dmaWindowWrite plot _ => plot < 256
  | .eventRingWrite ring _ => ring < 64
  | .consWrite ring _ => ring < 64
  | .irqHoldEnd ring => ring < 64
  | .dmaCompletion tag _ _ => tag < 256
  | .hbmResponse tile tag _ => tile < 1024 && tag < 256
  | .hbmRead tile => tile < 1024
  | .hbmWrite tile => tile < 1024
  | .stream tile => tile < 1024
  | .streamEnd tile index _ => tile < 1024 && index < 64
  | .startupStageDone _ => true
  | .selfTestStart _ => true
  | .selfTestDone cluster _ => cluster < 64
  | .fwImage _ _ _ => true
  | .verify _ => true
  | .activate _ => true
  | .confirm _ => true
  | .erase _ => true
  | .restart _ => true
  | .counterWrite _ _ => true
  | .pmcCfgWrite tile index _ => tile < 1024 && index < 8
  | .rakeKWrite _ _ => true
  | .rakeBaseWrite _ _ => true
  | .histogramClear _ => true
  | .hangThaw _ _ => true
  | .hangBaseWrite _ _ => true
  | .traceCtrlWrite _ _ => true
  | .markerSend _ _ => true
  | .railFault cluster => cluster < 64
  | .linkRetry _ index => index < 65536
  | .linkRetrain _ index _ => index < 65536
  | .dbgAccess tile _ _ _ => tile < 1024
  | .hostRegisterRead _ _ => true
  | .chunkedTransfer _ _ _ _ => true
  | .combLocked comb => comb < 64
  | .frameTick => true
  | .sownLoadDone => true
  | .shadowRetireEnd => true
  | .expertCheckDone => true
  | .capsuleDone => true
  | .rngRestartPass => true
  | .rngWaitTimeout => true
  | .heartbeatSend => true
  | .quorumDfpReceive => true
  | .heartbeat => true
  | .view => true
  | .commit => true
  | .quorumPhase1End => true
  | .quorumPhase2End => true
  | .quorumPhase3End => true
  | .thermalTrip => true
  | .mailboxGo => true
  | .mailboxDone => true
  | .hostRead => true
  | .hostWrite => true
  | .porRelease => true
  | .warmReset => true
  | .pstoreCompaction => true
  | .rakeWriteOut => true
  | .porAssert => true

end Sys2Proof
end

