-- ==== Sys2Proof/Machine/Places.lean ====
section
/-! DEFINITION. Which places a member has, and the gates every command passes. -/
namespace Sys2Proof.Machine

/-- Combs of the member: one for four ports (R246). -/
def Member.combs (m : Member) : Nat := m.ports / 4

/-- A slot owner that the member has. -/
def ownerIn (m : Member) : SlotOwner → Bool
  | .tile t => m.hasTile t
  | .steward => true
  | .vault => true

/-- Whether the member has every place that a command names (R1, R2, R23, R25). -/
def inPlace (m : Member) : Instr → Bool
  | .tickMarkerReceive die _ => die < m.dies
  | .frameLockRegained die => die < m.dies
  | .sownWindowOpen tile _ _ => m.hasTile tile
  | .sownCellArrival tile _ _ => m.hasTile tile
  | .sownLoadStart _ => true
  | .swapFrameWrite _ _ => true
  | .swapArm _ => true
  | .swapDisarm _ => true
  | .sownQuotaWrite _ _ => true
  | .expertEntryWrite _ _ => true
  | .expertDescriptorWrite _ _ => true
  | .expertRouteWrite _ _ => true
  | .expertSelectorWrite _ _ _ => true
  | .expertCheck _ => true
  | .engineNoProgress tile _ => m.hasTile tile
  | .hbmRequestUnanswered tile _ => m.hasTile tile
  | .xsUncorr tile _ => m.hasTile tile
  | .xsPhyDown tile _ => m.hasTile tile
  | .flitHeadArrival tile _ _ _ => m.hasTile tile
  | .outputArbitration tile _ _ => m.hasTile tile
  | .creditReturn tile _ _ _ => m.hasTile tile
  | .flitAgeDrop tile _ _ _ => m.hasTile tile
  | .requestInject tile _ => m.hasTile tile
  | .requestEject tile _ => m.hasTile tile
  | .replyDeadline tile _ => m.hasTile tile
  | .reqTimeout owner _ => ownerIn m owner
  | .slotQuarantineEnd owner _ => ownerIn m owner
  | .replyArrival tile _ => m.hasTile tile
  | .openCtrlWrite _ _ => true
  | .listLaunch _ _ => true
  | .launchDequeue tile => m.hasTile tile
  | .commandDispatch tile _ => m.hasTile tile
  | .listNop tile _ => m.hasTile tile
  | .listWait tile _ => m.hasTile tile
  | .listSignal tile _ => m.hasTile tile
  | .listTick tile _ => m.hasTile tile
  | .listLoop tile _ => m.hasTile tile
  | .listCall tile _ => m.hasTile tile
  | .listEnd tile _ => m.hasTile tile
  | .listEvent tile _ => m.hasTile tile
  | .moveCopy tile => m.hasTile tile
  | .moveFill tile => m.hasTile tile
  | .moveHbmRead tile => m.hasTile tile
  | .moveHbmWrite tile => m.hasTile tile
  | .moveHostRead tile => m.hasTile tile
  | .moveHostWrite tile => m.hasTile tile
  | .moveSow tile => m.hasTile tile
  | .moveReap tile => m.hasTile tile
  | .moveEmit tile => m.hasTile tile
  | .moveHbmStream tile => m.hasTile tile
  | .reduceOasis tile => m.hasTile tile
  | .reduceRelease tile => m.hasTile tile
  | .reduceAdd tile => m.hasTile tile
  | .reduceAddSown tile => m.hasTile tile
  | .reduceScaleAdd tile => m.hasTile tile
  | .reduceMerge tile => m.hasTile tile
  | .reduceRound tile => m.hasTile tile
  | .reduceNarrow tile => m.hasTile tile
  | .reduceMap tile => m.hasTile tile
  | .reduceCrc tile => m.hasTile tile
  | .arrayLoad tile => m.hasTile tile
  | .arrayMm tile => m.hasTile tile
  | .arrayTopk tile => m.hasTile tile
  | .arrayGate tile => m.hasTile tile
  | .queueSend tile => m.hasTile tile
  | .queueGet tile => m.hasTile tile
  | .queuePut tile => m.hasTile tile
  | .queueCombine tile => m.hasTile tile
  | .queueBind tile => m.hasTile tile
  | .queueUnbind tile => m.hasTile tile
  | .queuePop tile => m.hasTile tile
  | .queueHandler tile => m.hasTile tile
  | .commandComplete tile _ => m.hasTile tile
  | .statusRecordWrite tile _ => m.hasTile tile
  | .ctxAbort tile _ => m.hasTile tile
  | .semWrite _ _ _ => true
  | .stealRequestSend tile _ => m.hasTile tile
  | .stealRequestReceive tile => m.hasTile tile
  | .lendReceive tile _ => m.hasTile tile
  | .stolenResultReturn tile _ => m.hasTile tile
  | .engCtrlWrite _ _ => true
  | .msgPacketLand tile => m.hasTile tile
  | .entryPublish tile _ => m.hasTile tile
  | .handlerLaunch tile => m.hasTile tile
  | .fallbackDrain tile _ => m.hasTile tile
  | .assemblyAbandon tile _ => m.hasTile tile
  | .remoteGet tile => m.hasTile tile
  | .remotePut tile => m.hasTile tile
  | .combinePacket tile => m.hasTile tile
  | .queueRdWrite _ _ _ => true
  | .fbPop _ _ => true
  | .collDoorbell _ _ => true
  | .collAccept _ _ => true
  | .collNoAck _ _ _ _ => true
  | .collAckReceive tile => m.hasTile tile
  | .collResendReceive tile => m.hasTile tile
  | .kernelDoorbell _ _ => true
  | .kernelBind _ _ => true
  | .kernelUnbind _ _ => true
  | .tokenPartArrival tile => m.hasTile tile
  | .tokenAsmTimeout tile _ => m.hasTile tile
  | .khdrReceive tile => m.hasTile tile
  | .kernelTrainLand tile => m.hasTile tile
  | .expertOutputArrival tile => m.hasTile tile
  | .tokenRetTimeout tile _ => m.hasTile tile
  | .dfpIngress port _ _ _ => port < m.ports
  | .msgDfpReceive tile => m.hasTile tile
  | .egressEnqueue port => port < m.ports
  | .egressSchedule port _ => port < m.ports
  | .txUnderrun port _ => port < m.ports
  | .portUp port => port < m.ports
  | .portDrain port => port < m.ports
  | .portDown port => port < m.ports
  | .portCtrlWrite _ _ _ => true
  | .moduleInsert _ => true
  | .moduleRemove _ => true
  | .svcPress _ => true
  | .svcStuck _ => true
  | .frontPanelScan _ => true
  | .portLinkUp port => port < m.ports
  | .portLinkDown port => port < m.ports
  | .drainComplete port => port < m.ports
  | .drainLimitExpiry port => port < m.ports
  | .sieveWrite _ _ => true
  | .lookupWrite _ _ => true
  | .meterWrite _ _ => true
  | .egressQueueWrite _ _ _ => true
  | .shaperWrite _ _ _ => true
  | .gateWrite _ _ _ => true
  | .poolWrite _ _ _ => true
  | .pfcReceive port _ _ => port < m.ports
  | .combLost comb => comb < m.combs
  | .adcReading loop _ => loop < 10 * m.ports
  | .loopConfigWrite _ _ => true
  | .calGo _ _ => true
  | .calDue port => port < m.ports
  | .calStageEnd port => port < m.ports
  | .plotBind _ => true
  | .plotBindDone _ => true
  | .plotRebind _ => true
  | .plotRebindDone _ => true
  | .plotTeardown _ => true
  | .teardownTilesReleased _ => true
  | .hbmScrubDone _ _ => true
  | .plotConfigWrite _ _ _ => true
  | .queueQuotaWrite _ _ => true
  | .hbmRangeWrite _ _ => true
  | .attestReport _ => true
  | .getVersion _ => true
  | .getCapabilities _ => true
  | .negotiateAlgorithms _ => true
  | .getDigests _ => true
  | .getCertificate _ _ _ => true
  | .challenge _ _ => true
  | .getMeasurements _ _ _ _ => true
  | .keyExchange _ => true
  | .finish _ _ => true
  | .heartbeatSpdm _ => true
  | .keyUpdate _ => true
  | .endSession _ => true
  | .spdmUnsupportedRequest _ _ => true
  | .plotClaim _ _ => true
  | .keySet _ _ _ => true
  | .txPhase _ _ => true
  | .phaseRetire _ _ _ => true
  | .secFlags _ _ => true
  | .phaseHoldEnd _ _ => true
  | .query _ => true
  | .keyProg _ _ _ _ => true
  | .kSetGo _ _ => true
  | .kSetStop _ _ => true
  | .ideAnswer _ => true
  | .ideManagerWrite _ _ => true
  | .capsuleUnwrap _ _ => true
  | .rngHealth _ => true
  | .libraryWrite _ _ => true
  | .wearWrite _ _ => true
  | .heartbeatMiss _ => true
  | .quorumGroupWrite _ _ _ => true
  | .rejoin _ _ => true
  | .graftMapWrite _ _ => true
  | .graftHoldEnd _ => true
  | .clusterActive _ => true
  | .clusterFallow _ => true
  | .clusterDeep _ => true
  | .portPwrWrite _ _ _ => true
  | .fallowAll _ => true
  | .wakeAll _ => true
  | .powerStageStart die _ => die < m.dies
  | .powerStageEnd die _ => die < m.dies
  | .pwrCtrlWrite _ _ => true
  | .moaFrameReceive _ _ => true
  | .moaRead _ _ _ => true
  | .moaWrite _ _ _ _ => true
  | .odRegisterWrite _ _ _ _ => true
  | .describe _ _ _ => true
  | .hello _ => true
  | .segWrite _ _ _ _ _ => true
  | .segRead _ _ _ => true
  | .segAbort _ => true
  | .segment _ _ _ => true
  | .segAck _ _ => true
  | .segTimeout _ => true
  | .keySlotWrite _ _ _ => true
  | .arpRequest _ => true
  | .neighborSolicitation _ => true
  | .hostRegisterWrite _ _ _ => true
  | .dmaWindowWrite _ _ => true
  | .eventRingWrite _ _ => true
  | .consWrite _ _ => true
  | .irqHoldEnd _ => true
  | .dmaCompletion _ _ _ => true
  | .hbmResponse tile _ _ => m.hasTile tile
  | .hbmRead tile => m.hasTile tile
  | .hbmWrite tile => m.hasTile tile
  | .stream tile => m.hasTile tile
  | .streamEnd tile _ _ => m.hasTile tile
  | .startupStageDone _ => true
  | .selfTestStart _ => true
  | .selfTestDone cluster _ => m.hasCluster cluster
  | .fwImage _ _ _ => true
  | .verify _ => true
  | .activate _ => true
  | .confirm _ => true
  | .erase _ => true
  | .restart _ => true
  | .counterWrite _ _ => true
  | .pmcCfgWrite _ _ _ => true
  | .rakeKWrite _ _ => true
  | .rakeBaseWrite _ _ => true
  | .histogramClear _ => true
  | .hangThaw _ _ => true
  | .hangBaseWrite _ _ => true
  | .traceCtrlWrite _ _ => true
  | .markerSend _ _ => true
  | .railFault cluster => m.hasCluster cluster
  | .linkRetry kindPort index => (if kindPort then index < m.ports else m.hasTile (index / 4))
  | .linkRetrain kindPort index _ => (if kindPort then index < m.ports else m.hasTile (index / 4))
  | .dbgAccess _ _ _ _ => true
  | .hostRegisterRead _ _ => true
  | .chunkedTransfer _ _ _ _ => true
  | .combLocked comb => comb < m.combs
  | .frameTick => true
  | .sownLoadDone => true
  | .shadowRetireEnd => true
  | .expertCheckDone => true
  | .capsuleDone => true
  | .rngRestartPass => true
  | .rngWaitTimeout => true
  | .heartbeatSend => true
  | .quorumDfpReceive => true
  | .heartbeat => true
  | .view => true
  | .commit => true
  | .quorumPhase1End => true
  | .quorumPhase2End => true
  | .quorumPhase3End => true
  | .thermalTrip => true
  | .mailboxGo => true
  | .mailboxDone => true
  | .hostRead => true
  | .hostWrite => true
  | .porRelease => true
  | .warmReset => true
  | .pstoreCompaction => true
  | .rakeWriteOut => true
  | .porAssert => true

/-- An event at a place that the member does not have (R1, R2, R23, R25) faults: the place is not there, and the spec gives the
event no effect. Where the spec does give one, the command acts: the steward answers NO_INDEX to a port that an entry of the
object dictionary names (R320), the page of an invalid tile id is unmapped (R335), the front panel's bits for a port that the
member lacks are ignored (R404), and a debug packet to an invalid id finds no route (R82, R406). -/
def State.at (s : State) (i : Instr) (f : State → Out) : Out :=
  if i.wf && inPlace s.blk.member i then f s else .fault .noSuchUnit

/-- A change of the block by a command of the mesh: nothing happens while the mesh clock does not run. -/
def State.mesh (s : State) (i : Instr) (f : Blk → Blk) : Out :=
  s.at i fun s => if s.live then .next { s with blk := f s.blk } else .next s

/-- A change through the host window, which answers in every stage, tripped or not, but while the block is held in reset. -/
def State.window (s : State) (i : Instr) (f : State → Blk) : Out :=
  s.at i fun s => if s.blk.fw.stage = .held then .next s else .next { s with blk := f s }

/-- A write to the page of a tile: that of an invalid id is unmapped (R335). -/
def State.page (s : State) (i : Instr) (t : Nat) (f : Blk → Blk) : Out :=
  if s.blk.member.hasTile t then s.mesh i f else s.window i fun s => s.blk.countSys evBadAccess

/-- A change on the front panel: the bits of a port that the member lacks are ignored (R404). -/
def State.panel (s : State) (i : Instr) (p : Nat) (f : Blk → Blk) : Out :=
  s.mesh i fun b => if p < b.member.ports then f b else b

/-- A change of the block by the steward, the vault or the host window: nothing happens while no microcode runs. -/
def State.steward (s : State) (i : Instr) (f : Blk → Blk) : Out :=
  s.at i fun s => if s.blk.fw.stage = .done then .next { s with blk := f s.blk } else .next s

/-- A change of the block that the boot ROM serves too: also in RECOVERY (R365). -/
def State.boot (s : State) (i : Instr) (f : Blk → Blk) : Out :=
  s.at i fun s =>
    if s.blk.fw.stage = .done || s.blk.fw.stage = .recovery then .next { s with blk := f s.blk } else .next s

end Sys2Proof.Machine
end

