-- ==== Sys2Proof/Machine/Lists.lean ====
section
/-! DEFINITION. Semaphores, contexts, dispatch, completion, abort and deadlines (R99–R121). -/
namespace Sys2Proof.Machine

/-! ### Semaphores (R101) -/

/-- Adds to a semaphore, for the waits of the next mc on: it saturates at 65,535 with SEM_SAT and one SEM_SATURATED. -/
def Blk.signal (b : Blk) (t plot k n : Nat) : Blk :=
  let v := (b.tile t).sem k + n
  if v ≤ 65535 then b.modTile t fun x => x.semAdd b.clk.mc k v n
  else
    let b := b.modTile t fun x => x.semAdd b.clk.mc k 65535 n
    (b.count t evSemSat (some plot)).raiseP 0x06 plot (some t) k

/-! ### Queues of engines (R99, R100) -/

/-- Every sheaf of a tile. -/
def Tile.allSheaves (x : Tile) : List Sheaf := x.sheaves 0 ++ x.sheaves 1 ++ x.sheaves 2 ++ x.sheaves 3

/-- Changes one sheaf of an engine queue. -/
def Tile.modSheaf (x : Tile) (e sid : Nat) (f : Sheaf → Sheaf) : Tile :=
  x.setSheaves e ((x.sheaves e).map fun s => if s.sid = sid then f s else s)

def Blk.modSheaf (b : Blk) (t e sid : Nat) (f : Sheaf → Sheaf) : Blk := b.modTile t fun x => x.modSheaf e sid f

def Tile.sheaf? (x : Tile) (e sid : Nat) : Option Sheaf := (x.sheaves e).find? fun s => s.sid = sid

/-- Whether an engine has a command in progress that holds back the next: the reduce and array engines finish one command at a
time, which is to complete it; the mover and the queue engine need only that it has issued its last request (R100). -/
def engineBusy (e : Nat) (l : List Sheaf) : Bool :=
  l.any fun x => x.state = .running || ((e = 1 || e = 2) && (x.state = .issued || x.state = .finished))

/-- Whether a finished command is about to abort its list (R115). -/
def Sheaf.aborts (s : Sheaf) : Bool := s.state = .finished && failing s.status.toNat && !kCont s.cmd

/-- Whether the sheaves of an engine before one let it start: none that aborts its list, and for ORDER none at all, since a
command that has completed has left the queue (R100, R114, R115). -/
def mayFollow (earlier : List Sheaf) (s : Sheaf) : Bool :=
  !(earlier.any fun x => x.aborts && x.ctx = s.ctx) && (!kOrder s.cmd || earlier.isEmpty)

/-- Whether a command's semaphore lets it start: the waits of an mc do not see what that mc changes (R101, R105, R121). -/
def Tile.semReady (x : Tile) (mc : Nat) (c : BitVec 256) : Bool :=
  opFunction (kOp c) = fnWait || opFunction (kOp c) = fnSignal || !kWaitEn c || 1 ≤ (x.semMc mc (kWaitSem c)).seen

/-- Whether the engines of a tile run: its cluster is ACTIVE and not under test (R305, R356). -/
def Blk.engineOn (b : Blk) (t : Nat) : Bool := b.cluster (clusterOf t) = .active && !b.clusterTested (clusterOf t)

/-- The sheaf that an engine can start next: one that has come back from a thief first, else the head of those queued (R100, R101,
R125). -/
def Blk.nextStart (b : Blk) (t e : Nat) : Option Sheaf :=
  let l := (b.tile t).sheaves e
  if !b.engineOn t || engineBusy e l then none
  else match l.find? fun s => s.state = .back with
    | some s => some s
    | none =>
      match l.dropWhile fun s => s.state ≠ .queued with
      | [] => none
      | s :: _ =>
        if mayFollow (l.takeWhile fun s => s.state ≠ .queued) s && (b.tile t).semReady b.clk.mc s.cmd then some s else none

/-- The trace word of a command (R380). -/
def traceWord (s : Sheaf) : Nat := kOp s.cmd + at_ 8 12 s.index + at_ 20 3 s.ctx + at_ 24 8 s.plot

/-- A sheaf starts: it takes 1 from its semaphore, but for one that took it when it was lent (R101, R125). -/
def Blk.started (b : Blk) (t : Nat) (s : Sheaf) : Blk :=
  let b := if kWaitEn s.cmd && opFunction (kOp s.cmd) ≠ fnWait && opFunction (kOp s.cmd) ≠ fnSignal && s.state = .queued then
      b.modTile t fun x => x.semTake b.clk.mc (kWaitSem s.cmd) 1 else b
  b.traceCmd t 3 (traceWord s)

/-- What running a sheaf gives: it finishes with a status and DETAIL, issues a number of requests, or cannot start yet. -/
inductive Ran where
  | fin (status detail : Nat)
  | issue (total : Nat)
  | hold
  deriving DecidableEq, Repr

/-- A sheaf finishes with a status and DETAIL. An uncorrectable error raises SRAM_UE with the cell, which a run hands on in the
DETAIL of MEM (R114, R130). -/
def Blk.finished (b : Blk) (t e : Nat) (s : Sheaf) (st d : Nat) : Blk :=
  (if st = stMem then b.raiseP 0x08 s.plot (some t) d else b).modSheaf t e s.sid fun x =>
    { x with state := .finished, status := BitVec.ofNat 8 st, detail := BitVec.ofNat 8 (if st = stMem then 0 else d) }

/-- Runs the next sheaf of an engine when its OP is the one named (R100, R114). -/
def Blk.run (b : Blk) (t e op : Nat) (f : Blk → Sheaf → Blk × Ran) : Blk :=
  match b.nextStart t e with
  | none => b
  | some s =>
    if kOp s.cmd ≠ op then b
    else
      let r := f (b.started t s) s
      match r.2 with
      | .hold => b
      | .fin st d => r.1.finished t e s st d
      | .issue n => r.1.modSheaf t e s.sid fun x => { x with state := if n = 0 then .finished else .running, total := n }

/-! ### Contexts (R110, R115, R116) -/

/-- The first status of 0x01 or above is kept; commands below 0x10 count in DONE (R116). -/
def Ctx.record (c : Ctx) (status detail index engine : Nat) : Ctx :=
  let c := if c.status = 0#8 && status ≠ 0 then
      { c with status := BitVec.ofNat 8 status, stDetail := BitVec.ofNat 8 detail, stIndex := index, stEngine := engine }
    else c
  if failing status then c else { c with done := min 65535 (c.done + 1) }

/-- Bits [31:0] of a status record (R116). -/
def statusWord (status index engine detail : Nat) : Nat := at_ 0 8 status + at_ 8 12 index + at_ 20 2 engine + at_ 24 8 detail

/-- The 16 bytes of a context's status record (R116). -/
def Blk.statusRecord (b : Blk) (c : Ctx) : Bytes :=
  toBytes 16 (statusWord c.status.toNat c.stIndex c.stEngine c.stDetail.toNat + at_ 32 16 c.done + at_ 64 48 b.clk.frame.toNat)

/-- A draining context whose commands have all completed reports (R110). -/
def Tile.settle (x : Tile) (c : Nat) : Tile :=
  if (x.ctx c).state = .draining && !x.allSheaves.any (fun s => s.ctx = c) then x.modCtx c fun k => { k with state := .report }
  else x

/-- What every completion does: semaphore, CMD_DONE, record of the context (R101, R102, R114). -/
def Blk.completeCmd (b : Blk) (t plot ctx index status detail : Nat) (c : BitVec 256) : Blk :=
  let fn := opFunction (kOp c)
  let b := if kSigEn c && !failing status && fn ≠ fnWait && fn ≠ fnSignal then b.signal t plot (kSigSem c) 1 else b
  let b := if kEvent c then
      b.raiseP 0x03 plot (some t) (statusWord status index (opEngine (kOp c)) detail) ctx else b
  b.modTile t fun x => x.modCtx ctx fun k => k.record status detail index (opEngine (kOp c))

/-- A sheaf leaves its queue with its status (R114, R118). -/
def Blk.completeSheaf (b : Blk) (t e : Nat) (s : Sheaf) : Blk :=
  let st := withLate s.late s.status.toNat
  let b := b.modTile t fun x => x.setSheaves e ((x.sheaves e).filter fun y => y.sid ≠ s.sid)
  let b := (b.count t (evCmdDone + e) (some s.plot)).traceCmd t 4 (traceWord s + at_ 32 8 st)
  b.completeCmd t s.plot s.ctx s.index st s.detail.toNat s.cmd

/-- A list aborts: no more dispatch, its commands not started are removed with ABORTED, the context drains (R115). -/
def Blk.abortCtx (b : Blk) (t c : Nat) : Blk :=
  if ((b.tile t).ctx c).state = .idle then b
  else
    let b := b.modTile t fun x => x.modCtx c fun k =>
      { k with state := if k.state = .report then .report else .draining }
    let b := b.each (List.range 4) fun b e =>
      b.each (((b.tile t).sheaves e).filter fun s => s.ctx = c && s.state = .queued) fun b s =>
        b.completeSheaf t e { s with status := BitVec.ofNat 8 stAborted, detail := 0#8 }
    b.modTile t fun x => x.settle c

/-- A completion, and the abort that a failing status brings unless CONT = 1 (R115). -/
def Blk.complete (b : Blk) (t e : Nat) (s : Sheaf) : Blk :=
  let b := b.completeSheaf t e s
  let b := if failing s.status.toNat && !kCont s.cmd then b.abortCtx t s.ctx else b
  b.modTile t fun x => x.settle s.ctx

/-- The first finished sheaf of an engine completes (R114). -/
def Blk.completeNext (b : Blk) (t e : Nat) : Blk :=
  match ((b.tile t).sheaves e).find? fun s => s.state = .finished with
  | some s => b.complete t e s
  | none => b

/-! ### Deadlines (R117, R118) -/

/-- The deadline frame of a command dispatched now, or none for DEADLINE = 0 with DL_REL = 1. -/
def deadlineOf (c : BitVec 256) (launch now : BitVec 48) : Option (BitVec 48) :=
  if kDlRel c then (if kDeadline c = 0 then none else some (launch + BitVec.ofNat 48 (kDeadline c)))
  else
    let d := (kDeadline c + 2 ^ 16 - now.toNat % 2 ^ 16) % 2 ^ 16
    some (if d ≤ 2 ^ 15 then now + BitVec.ofNat 48 d else now - BitVec.ofNat 48 (2 ^ 16 - d))

/-- OP of move.sow. -/
def opSow : Nat := 0x07

/-- A missed sheaf is counted and reported (R118). -/
def Blk.missed (b : Blk) (t plot ctx index : Nat) : Blk :=
  (b.count t evSheafMissed (some plot)).raiseP 0x05 plot (some t) ctx index

/-- Step 3 of a tick for one engine of a tile: what its sheaves become at their deadline (R118, R125). -/
def Blk.missEngine (b : Blk) (t e : Nat) : Blk :=
  b.each (((b.tile t).sheaves e).filter fun s => s.deadline = b.clk.frame) fun b s =>
    let b := b.missed t s.plot s.ctx s.index
    if s.state = .queued && kOp s.cmd ≠ opSow then
      b.completeSheaf t e { s with status := BitVec.ofNat 8 stMissed, detail := 0#8 }
    else if s.state = .lent then
      let b := b.modSheaf t e s.sid fun x => { x with state := .back, late := true, noSteal := true }
      b.modTile t fun x => { x with es := { x.es with lent := x.es.lent.filter fun l => l.sid ≠ s.sid } }
    else b.modSheaf t e s.sid fun x => { x with late := true }

/-- Step 3 of a tick at a tile: every missed sheaf first, then the lists they abort (R115, R118). -/
def Blk.missTile (b : Blk) (t : Nat) : Blk :=
  let hit := (b.tile t).allSheaves.filter fun s =>
    s.deadline = b.clk.frame && s.state = .queued && kOp s.cmd ≠ opSow && !kCont s.cmd
  let b := b.each (List.range 4) fun b e => b.missEngine t e
  let b := b.each hit fun b s => b.abortCtx t s.ctx
  b.each (List.range 8) fun b c => b.modTile t fun x => x.settle c

/-! ### Dispatch (R110, R111) -/

/-- The next command of a context. -/
def Blk.fetchCmd (b : Blk) (t : Nat) (k : Ctx) : BitVec 256 :=
  BitVec.ofNat 256 (ofBytes (b.readSram t (k.cur.list + 32 * k.cur.index) 32))

/-- Whether a context may dispatch. -/
def Ctx.dispatching (k : Ctx) : Bool := k.state = .dispatch || k.state = .stalled

/-- The list commands that act in the context. -/
def inContext (c : BitVec 256) : Bool :=
  cmdOk c && (opFunction (kOp c) = fnLoop || opFunction (kOp c) = fnCall || opFunction (kOp c) = fnEnd)

/-- The list reached its last index: the whole context aborts with LIMIT, whatever CONT (R111). -/
def Blk.limitAbort (b : Blk) (t c : Nat) (cmd : BitVec 256) : Blk :=
  (b.modTile t fun x => x.modCtx c fun k => k.record stLimit 0 k.cur.index (opEngine (kOp cmd))).abortCtx t c

/-- A command is done at dispatch: its status is taken, a failing one aborts unless CONT = 1, else the index moves on. -/
def Blk.dispatchDone (b : Blk) (t c : Nat) (cmd : BitVec 256) (status : Nat) (next : ListFrame → ListFrame) : Blk :=
  let k := (b.tile t).ctx c
  let b := b.completeCmd t k.plot c k.cur.index status 0 cmd
  if failing status && !kCont cmd then b.abortCtx t c
  else b.modTile t fun x => x.modCtx c fun k => { k with state := .dispatch, cur := next k.cur }

/-- A context fetches its next command and places it in its engine's queue (R110, R111, R117). One that BAD_COMMAND or DEADLINE = 0
ends stands there finished (log 158). -/
def Blk.dispatch (b : Blk) (t c : Nat) : Blk :=
  let k := (b.tile t).ctx c
  if !k.dispatching then b
  else
    let cmd := b.fetchCmd t k
    let e := opEngine (kOp cmd)
    if k.cur.limit ≤ k.cur.index + 1 && !(inContext cmd && opFunction (kOp cmd) ≠ fnCall) then b.limitAbort t c cmd
    else if inContext cmd then b
    else if 64 ≤ ((b.tile t).sheaves e).length then b.modTile t fun x => x.modCtx c fun k => { k with state := .stalled }
    else
      let place (b : Blk) (dl : BitVec 48) (st : SheafState) (status : Nat) : Blk :=
        b.modTile t fun x =>
          let s : Sheaf :=
            { sid := x.es.nextSid, cmd := cmd, base := k.cur.base, plot := k.plot, ctx := c, index := k.cur.index,
              deadline := dl, state := st, late := false, issued := 0, total := 0, outst := 0,
              status := BitVec.ofNat 8 status, detail := 0#8, noSteal := false, aux := 0 }
          let x := x.setSheaves e (x.sheaves e ++ [s])
          ({ x with es := { x.es with nextSid := x.es.nextSid + 1 } } : Tile).modCtx c fun k =>
            { k with state := .dispatch, cur := { k.cur with index := k.cur.index + 1 } }
      if !cmdOk cmd then place b (b.clk.frame - 1) .finished stBadCommand
      else if kOp cmd = opSow then place b (b.clk.frame + 1) .queued stOk
      else match deadlineOf cmd k.launch b.clk.frame with
        | none => place b (b.clk.frame - 1) .finished stBadOperand
        | some f =>
          if ahead f b.clk.frame then place b f .queued stOk
          else (b.missed t k.plot c k.cur.index).dispatchDone t c cmd stMissed fun l => { l with index := l.index + 1 }

/-- The context command at a context's next index, when it is of a function and its semaphore lets it start (R101, R105). -/
def Blk.ctxCmd (b : Blk) (t c fn : Nat) : Option (BitVec 256) :=
  let k := (b.tile t).ctx c
  let cmd := b.fetchCmd t k
  if k.dispatching && inContext cmd && opFunction (kOp cmd) = fn && (b.tile t).semReady b.clk.mc cmd then some cmd else none

/-- The semaphore a context command takes as it starts. -/
def Blk.ctxStarted (b : Blk) (t : Nat) (cmd : BitVec 256) : Blk :=
  if kWaitEn cmd then b.modTile t fun x => x.semTake b.clk.mc (kWaitSem cmd) 1 else b

/-- list.loop (R111). -/
def Blk.listLoop (b : Blk) (t c : Nat) : Blk :=
  match b.ctxCmd t c fnLoop with
  | none => b
  | some cmd =>
    let b := b.ctxStarted t cmd
    let k := (b.tile t).ctx c
    let target := kOpa cmd
    let n := kXopt cmd % 4
    let jump : ListFrame → ListFrame := fun l => { l with index := target }
    let pass : ListFrame → ListFrame := fun l => { l with index := l.index + 1 }
    let lastIdx := k.cur.limit ≤ k.cur.index + 1
    if k.cur.index ≤ target then
      if lastIdx then (b.completeCmd t k.plot c k.cur.index stBadOperand 0 cmd).abortCtx t c
      else b.dispatchDone t c cmd stBadOperand pass
    else if kArg cmd = 2 ^ 32 - 1 then b.dispatchDone t c cmd stOk jump
    else
      let ctr := k.loops.getD n { value := 0, loaded := false }
      let v := if ctr.loaded then ctr.value else kArg cmd
      let set (b : Blk) (x : LoopCtr) : Blk := b.modTile t fun y => y.modCtx c fun k => { k with loops := k.loops.put n x }
      if 0 < v then (set b { value := v - 1, loaded := true }).dispatchDone t c cmd stOk jump
      else if lastIdx then (set b { value := v, loaded := false }).limitAbort t c cmd
      else (set b { value := v, loaded := false }).dispatchDone t c cmd stOk pass

/-- list.call (R111): the called list runs one level deeper; at depth 4 it completes with LIMIT. -/
def Blk.listCall (b : Blk) (t c : Nat) : Blk :=
  match b.ctxCmd t c fnCall with
  | none => b
  | some cmd =>
    let k := (b.tile t).ctx c
    if k.cur.limit ≤ k.cur.index + 1 then b
    else
      let b := b.ctxStarted t cmd
      let pass : ListFrame → ListFrame := fun l => { l with index := l.index + 1 }
      if 3 ≤ k.stack.length then b.dispatchDone t c cmd stLimit pass
      else match sramOp k.cur.base (kOpa cmd) 32 32, sramOp k.cur.base (kOpb cmd) 0 1 with
        | some list, some base =>
          let b := b.modTile t fun x => x.modCtx c fun k => { k with stack := pass k.cur :: k.stack }
          b.dispatchDone t c cmd stOk fun _ => { list := list, index := 0, base := base, limit := 4096 }
        | _, _ => b.dispatchDone t c cmd stBadOperand pass

/-- list.end: return to the caller, or the list ends and the context drains (R110, R111). -/
def Blk.listEnd (b : Blk) (t c : Nat) : Blk :=
  match b.ctxCmd t c fnEnd with
  | none => b
  | some cmd =>
    let b := b.ctxStarted t cmd
    let k := (b.tile t).ctx c
    match k.stack with
    | f :: fs =>
      (b.dispatchDone t c cmd stOk fun _ => f).modTile t fun x => x.modCtx c fun k => { k with stack := fs }
    | [] =>
      (b.completeCmd t k.plot c k.cur.index stOk 0 cmd).modTile t fun x =>
        (x.modCtx c fun k => { k with state := .draining }).settle c

/-! ### Launches (R110, R112, R338–R340) -/

/-- Fields of LAUNCH (R339). -/
def lnTile (v : BitVec 128) : Nat := fld v 0 10
def lnList (v : BitVec 128) : Nat := fld v 10 21
def lnBase (v : BitVec 128) : Nat := fld v 32 21
def lnStatus (v : BitVec 128) : Nat := fld v 64 21

/-- RESULT of a launch in the order of R340. -/
def Blk.launchDecide (b : Blk) (p : Nat) (v : BitVec 128) : Nat :=
  let t := lnTile v
  if !b.owns p t then 1
  else if lnList v % 32 ≠ 0 || lnStatus v % 16 ≠ 0 then 2
  else if !b.launchable t then 3
  else if 16 ≤ (b.tile t).es.launchQ.length + b.mcLog.count (.launched t) then 4
  else 0

/-- A write of LAUNCH on a plot page (R338–R340). -/
def Blk.launch (b : Blk) (p : Nat) (v : BitVec 128) : Blk :=
  if p = 0 || !b.bound p then b.countSys evBadAccess
  else
    let r := b.launchDecide p v
    let t := lnTile v
    let b := b.modPlot p fun x => { x with host := { x.host with
      launchResult := r, launchTile := t, accepted := if r = 0 then x.host.accepted + 1 else x.host.accepted } }
    if r = 0 then
      (b.modTile t fun x => { x with es := { x.es with launchQ := x.es.launchQ ++
        [{ plot := p, list := lnList v, base := lnBase v, limit := 4096, statusAt := some (lnStatus v), handler := none }] } }).note
        (.launch p t)
    else if r = 4 then b.count t evLaunchRefused (some p)
    else b

/-- Handler launches that wait enter the launch queue while it has room (R112). -/
def Tile.refillLaunch (x : Tile) : Tile :=
  let n := 16 - x.es.launchQ.length
  { x with es := { x.es with launchQ := x.es.launchQ ++ x.es.handlerWait.take n, handlerWait := x.es.handlerWait.drop n } }

/-- The lowest IDLE context that no collective holds (R110, R180). -/
def Tile.idleCtx (x : Tile) : Option Nat :=
  (List.range 8).find? fun c => (x.ctx c).state = .idle && !(x.ctx c).held

/-- The oldest launch takes an IDLE context, which enters DISPATCH (R110); a cluster that is not ACTIVE, or that leaves ACTIVE, keeps
it waiting (R305, R310). -/
def Blk.launchDequeue (b : Blk) (t : Nat) : Blk :=
  let x := b.tile t
  if !b.launchable t then b
  else match x.es.launchQ, x.idleCtx with
    | l :: ls, some c =>
      (b.note (.launched t)).modTile t fun x =>
        let x := { x with es := { x.es with launchQ := ls } }
        (x.modCtx c fun _ =>
          { Ctx.fresh with state := .dispatch, plot := l.plot, launch := b.clk.frame, statusAt := l.statusAt,
                           handler := l.handler,
                           cur := { list := l.list, index := 0, base := l.base, limit := l.limit } }).refillLaunch
    | _, _ => b

/-! ### Commands -/

def execListLaunch (plot : Nat) (value : BitVec 128) (s : State) : Out := s.mesh (.listLaunch plot value) (·.launch plot value)
def execLaunchDequeue (tile : Nat) (s : State) : Out := s.mesh (.launchDequeue tile) (·.launchDequeue tile)
def execCommandDispatch (tile ctx : Nat) (s : State) : Out := s.mesh (.commandDispatch tile ctx) (·.dispatch tile ctx)
def execListLoop (tile ctx : Nat) (s : State) : Out := s.mesh (.listLoop tile ctx) (·.listLoop tile ctx)
def execListCall (tile ctx : Nat) (s : State) : Out := s.mesh (.listCall tile ctx) (·.listCall tile ctx)
def execListEnd (tile ctx : Nat) (s : State) : Out := s.mesh (.listEnd tile ctx) (·.listEnd tile ctx)

/-- list.nop completes when it starts (R105). -/
def execListNop (tile engine : Nat) (s : State) : Out :=
  s.mesh (.listNop tile engine) (·.run tile engine (64 * engine + fnNop) fun b _ => (b, .fin stOk 0))

/-- list.wait: holds until its semaphore is at least n, then takes n; n from 1 to 65,535 (R105). -/
def runListWait (t : Nat) (b : Blk) (s : Sheaf) : Blk × Ran :=
  let n := kArg s.cmd
  if n = 0 || 65535 < n then (b, .fin stBadOperand 0)
  else if ((b.tile t).semMc b.clk.mc (kWaitSem s.cmd)).seen < n then (b, .hold)
  else (b.modTile t fun x => x.semTake b.clk.mc (kWaitSem s.cmd) n, .fin stOk 0)
def execListWait (tile engine : Nat) (s : State) : Out :=
  s.mesh (.listWait tile engine) (·.run tile engine (64 * engine + fnWait) (runListWait tile))

/-- list.signal adds n to its semaphore (R105). -/
def runListSignal (t : Nat) (b : Blk) (s : Sheaf) : Blk × Ran :=
  let n := kArg s.cmd
  if n = 0 || 65535 < n then (b, .fin stBadOperand 0) else (b.signal t s.plot (kSigSem s.cmd) n, .fin stOk 0)
def execListSignal (tile engine : Nat) (s : State) : Out :=
  s.mesh (.listSignal tile engine) (·.run tile engine (64 * engine + fnSignal) (runListSignal tile))

/-- list.tick starts, and completes when the n-th tick after its start passes (R105): `aux` counts the ticks left. -/
def runListTick (t e : Nat) (b : Blk) (s : Sheaf) : Blk × Ran :=
  let n := kArg s.cmd
  if n = 0 || 65535 < n then (b, .fin stBadOperand 0)
  else (b.modSheaf t e s.sid fun x => { x with aux := n }, .issue 1)
def execListTick (tile engine : Nat) (s : State) : Out :=
  s.mesh (.listTick tile engine) (·.run tile engine (64 * engine + fnTick) (runListTick tile engine))

/-- list.event posts one LIST_EVENT (R105, R350). -/
def runListEvent (t : Nat) (b : Blk) (s : Sheaf) : Blk × Ran :=
  (b.raiseP 0x04 s.plot (some t) (kArg s.cmd) s.ctx, .fin stOk 0)
def execListEvent (tile engine : Nat) (s : State) : Out :=
  s.mesh (.listEvent tile engine) (·.run tile engine (64 * engine + fnEvent) (runListEvent tile))

/-- A tick passes for the list.tick commands that run at a tile (R105). -/
def Tile.tickLists (x : Tile) : Tile :=
  (List.range 4).foldl (fun x e => x.setSheaves e ((x.sheaves e).map fun s =>
    if s.state = .running && opFunction (kOp s.cmd) = fnTick then
      if s.aux ≤ 1 then { s with aux := 0, state := .finished } else { s with aux := s.aux - 1 }
    else s)) x

def execCommandComplete (tile engine : Nat) (s : State) : Out := s.mesh (.commandComplete tile engine) (·.completeNext tile engine)
def execSemWrite (tile sem : Nat) (value : BitVec 16) (s : State) : Out :=
  s.page (.semWrite tile sem value) tile fun b => b.modTile tile fun x => x.semWrite b.clk.mc sem value.toNat

end Sys2Proof.Machine
end

