-- ==== Sys2Proof/Machine/SownPlane.lean ====
section
/-! DEFINITION. Cells, windows, injection, gleaning, landing and the staging exchange (R26–R28, R44–R59). -/
namespace Sys2Proof.Machine

/-! ### The cell header (R26) -/

def cKind (h : BitVec 96) : Nat := fld h 2 2
def cStale (h : BitVec 96) : Bool := flag h 4
def cFirst (h : BitVec 96) : Bool := flag h 5
def cLast (h : BitVec 96) : Bool := flag h 6
def cPlot (h : BitVec 96) : Nat := fld h 8 8
def cFurrow (h : BitVec 96) : Nat := fld h 16 12
def cGen (h : BitVec 96) : Nat := fld h 28 4
def cDst (h : BitVec 96) : Nat := fld h 32 10
def cSrc (h : BitVec 96) : Nat := fld h 42 10
def cIndex (h : BitVec 96) : Nat := fld h 52 24
def cFill (h : BitVec 96) : Nat := fld h 76 6

/-- VER, HCHK and KIND pass (reason 0x10). -/
def cellHdrOk (h : BitVec 96) : Bool := fld h 0 2 = 1 && cKind h ≠ 3 && fld h 88 8 = (crc8 h 88).toNat

/-- The header that the injecting router builds (R26, R27). -/
def cellHdr (c : StagedCell) (stale mcast : Bool) (plot furrow gen dst src : Nat) : BitVec 96 :=
  let x : BitVec 96 := BitVec.ofNat 96
    (1 + at_ 2 2 c.kind + atB 4 stale + atB 5 c.first + atB 6 c.last + atB 7 mcast + at_ 8 8 plot + at_ 16 12 furrow +
      at_ 28 4 gen + at_ 32 10 dst + at_ 42 10 src + at_ 52 24 c.index + at_ 76 6 c.fill)
  BitVec.ofNat 96 (x.toNat + 2 ^ 88 * (crc8 x 88).toNat)

/-- A cell with the bytes past FILL zero (R26). -/
def mkCell (c : StagedCell) (stale mcast : Bool) (plot furrow gen dst src : Nat) : Cell :=
  { hdr := cellHdr c stale mcast plot furrow gen dst src, data := padTo 64 (c.data.take (c.fill + 1)) }

/-! ### Staging (R58, R59) -/

/-- Key of a furrow end. -/
def stageKey (t plot furrow : Nat) (land : Bool) : Nat := 2 * (4096 * (256 * t + plot) + furrow) + bit land

def Blk.staging (b : Blk) (k : Nat) : Staging := b.sown.staging.getD k Staging.fresh
def Blk.setStaging (b : Blk) (k : Nat) (x : Staging) : Blk := { b with sown := { b.sown with staging := b.sown.staging.put k x } }

/-- Cell address of the send buffer of an inject descriptor. -/
def sendBuf (d : BitVec 128) (x : Staging) : Nat := if x.fillA then dBufB d else dBufA d

/-- Cell address of the fill (or receive) buffer. -/
def fillBuf (d : BitVec 128) (x : Staging) : Nat := if x.fillA then dBufA d else dBufB d

/-- Whether a descriptor is inert (R57, R269): its plot does not own the tile, or is not BOUND for the attach modes. -/
def Blk.inert (b : Blk) (t : Nat) (d : BitVec 128) : Bool :=
  if dAttach d then !b.bound (dPlot d) else !b.owns (dPlot d) t

/-- Cells that the queue of a PORT furrow gives a window, in order, across DFPs (R58, R231). -/
def portTake : Nat → List StagedDfp → List StagedCell × List StagedDfp
  | _, [] => ([], [])
  | cap, q :: qs =>
    if cap = 0 then ([], q :: qs)
    else if q.cells.length ≤ cap then
      let r := portTake (cap - q.cells.length) qs
      (q.cells ++ r.1, r.2)
    else (q.cells.take cap, { q with cells := q.cells.drop cap, begun := true } :: qs)

/-- Cells that a descriptor has ready as a window opens, at most cap, and whether they are stale (R54, R58, R398). -/
def Blk.takeCells (b : Blk) (t : Nat) (d : BitVec 128) (cap : Nat) : List StagedCell × Bool × Blk :=
  let k := stageKey t (dPlot d) (dFurrow d) false
  if dMode d = modePort then
    let r := portTake cap (b.sown.portq.getD k [])
    (r.1, false, { b with sown := { b.sown with portq := b.sown.portq.put k r.2 } })
  else if dMode d = modeHbm then
    let r := b.streamTake t (dPlot d) (dFurrow d) (dCells d) cap
    (r.1, false, r.2)
  else
    let x := b.staging k
    if !x.ready then ([], false, b)
    else
      let n := min cap (dCells d - x.sent)
      let cs := (List.range n).map fun j =>
        ({ kind := 0, index := x.sent + j, fill := 63, first := x.sent + j = 0, last := x.sent + j + 1 = dCells d,
           data := b.readSram t ((sendBuf d x + x.sent + j) * 64) 64 } : StagedCell)
      (cs, x.stale, b.setStaging k { x with sent := x.sent + n })

/-! ### Landing (R59, R69, R269) -/

/-- The version that governs a generation: the active one, or the retired shadow (R46, R69). -/
def Blk.versionOf (b : Blk) (gen : BitVec 16) : SownVersion :=
  if b.sown.active.gen = gen then b.sown.active else b.sown.shadow

/-- A cell reaches EJECT of a tile in a window of a generation. -/
def Blk.land (b : Blk) (t : Nat) (gen : BitVec 16) (c : Cell) : Blk :=
  let plot := cPlot c.hdr
  match (b.versionOf gen).find t plot (cFurrow c.hdr) true with
  | none => b.drop t 0x13 none (some plot)
  | some (_, d) =>
    if b.inert t d || (!dAttach d && b.clusterTested (clusterOf t)) then b.drop t 0x14 none (some plot)
    else if dMode d ≠ modePort && dCells d ≤ cIndex c.hdr then b.drop t 0x15 none (some plot)
    else
      let b := b.count t evCellsLanded (some plot)
      if dMode d = modePort then
        if b.member.isPortTile t then
          b.modPort (b.member.portOf t) fun p =>
            { p with eg := { p.eg with rx := p.eg.rx ++ [(cSrc c.hdr, cFurrow c.hdr, plot, c)] },
                     cage := { p.cage with lastCell := b.clk.frame } }
        else b
      else if dMode d = modeHbm then b.streamLand t plot (cFurrow c.hdr) (cIndex c.hdr) c.data (cStale c.hdr)
      else
        let k := stageKey t plot (cFurrow c.hdr) true
        let x := b.staging k
        (b.writeSram t ((fillBuf d x + cIndex c.hdr) * 64) c.data).setStaging k
          { x with recv := x.recv.put (cIndex c.hdr) (cStale c.hdr) }

/-! ### Windows (R45, R50) -/

def Blk.linkCells (b : Blk) (k : Nat) : List Cell := b.sown.links.getD k []

/-- A cell leaves on an output: into the tile at EJECT, else onto the link to the neighbour. -/
def Blk.sendCell (b : Blk) (t o : Nat) (gen : BitVec 16) (c : Cell) : Blk :=
  if o = 4 then b.land t gen c
  else
    let k := b.member.neighbour t o * 4 + opposite o
    { b with sown := { b.sown with links := b.sown.links.put k (b.linkCells k ++ [c]) } }

/-- Injects the cells of a window: ownership and destination checks, then the fence, then the link (R28, R50, R54, R269). -/
def Blk.injectCells (b : Blk) (t o : Nat) (d : BitVec 128) (cs : List StagedCell) (stale : Bool) : Blk :=
  let gen := b.sown.active.gen
  let bad := !b.member.hasTile (dPeer d) || (dMcast d && !sameLine (dPeer d) t)
  b.each cs fun b c =>
    if b.inert t d then b.drop t 0x14 none (some (dPlot d))
    else if bad then b.drop t 0x12 none (some (dPlot d))
    else if b.sownFenced t o then b.count t evFenceDiscard (some (dPlot d))
    else
      (b.count t evCellsInjected (some (dPlot d))).sendCell t o gen
        (mkCell c stale (dMcast d) (dPlot d) (dFurrow d) (gen.toNat % 16) (dPeer d) t)

/-- Other inject descriptors of the tile that may glean a window of an entry, in round-robin order: one pointer per tile, from
index 0 on (R56, log 145). -/
def Blk.gleaners (b : Blk) (t : Nat) (e : BitVec 64) : List (Nat × BitVec 128) :=
  let p := b.sown.gleanPtr.getD t 0
  let l := (b.sown.active.descsOf t).filter fun x =>
    !dLand x.2 && dPlot x.2 = ePlot e && dGroup x.2 = eGroup e && dFurrow x.2 ≠ eFurrow e
  l.filter (fun x => p ≤ x.1) ++ l.filter (fun x => x.1 < p)

/-- The first gleaner with a cell ready fills the window (R56). -/
def Blk.glean (b : Blk) (t o cap : Nat) : List (Nat × BitVec 128) → Blk
  | [] => b
  | x :: xs =>
    let r := b.takeCells t x.2 cap
    if r.1 = [] then b.glean t o cap xs
    else
      let b := r.2.2
      let b := { b with sown := { b.sown with gleanPtr := b.sown.gleanPtr.put t ((x.1 + 1) % 64) } }
      (b.count t evGlean (some (dPlot x.2))).injectCells t o x.2 r.1 r.2.1

/-- What an INJECT window sends: its own furrow's cells, or a gleaned furrow's (R54, R56). -/
def Blk.inject (b : Blk) (t o : Nat) (e : BitVec 64) : Blk :=
  match b.sown.active.find t (ePlot e) (eFurrow e) false with
  | none => b
  | some (_, d) =>
    let r := b.takeCells t d (eCap e)
    if r.1 ≠ [] then r.2.2.injectCells t o d r.1 r.2.1
    else if eGroup e ≠ 0 then b.glean t o (eCap e) (b.gleaners t e)
    else b

/-- An active table entry fails ECHK at use: two frames in a row declare the tile failed (R288). -/
def Blk.echkFail (b : Blk) (t : Nat) : Blk :=
  let x := b.tile t
  let f := b.clk.frame
  let runs := if x.echkFrame = some f then x.echkRuns else if x.echkFrame = some (f - 1) then x.echkRuns + 1 else 1
  let b := b.modTile t fun x => { x with echkFrame := some f, echkRuns := runs }
  if 2 ≤ runs then b.declare fcTile t else b

/-- A router reads its memory: a corrected error is counted, one that cannot be corrected fails the tile (R288, R289; log 53). -/
def Blk.routerMemory (b : Blk) (t : Nat) : Blk :=
  match b.ecc.router.get? t with
  | none => b
  | some true => b.declare fcTile t
  | some false => ({ b with ecc := { b.ecc with router := b.ecc.router.del t } } : Blk).corrected t

/-- The windows of an output that are open: 8 mc from the opening on (R45). -/
def Blk.openWins (b : Blk) (t o : Nat) : List Window :=
  (b.sown.windows.getD (t * 5 + o) []).filter fun w => b.clk.mc < w.opened + 8

/-- The window of entry k of an output opens at the offset of R45, once (R50). Windows still open go on beside it. -/
def Blk.openWindow (b : Blk) (t o k : Nat) : Blk :=
  let e := b.sown.active.entry t o k
  let ws := b.openWins t o
  if b.slots ≤ k || b.clk.offset ≠ windowOffset e k || ws.any (·.opened = b.clk.mc) then b
  else
    let bad := !eChkOk e
    let b := b.routerMemory t
    let w : Window := { entry := e, gen := b.sown.active.gen, bad := bad, opened := b.clk.mc, carried := 0 }
    let b : Blk := { b with sown := { b.sown with windows := b.sown.windows.put (t * 5 + o) (ws ++ [w]) } }
    let b := if o < 4 && eIn e ≠ inIdle then b.count t (evWindowN + o) (some (ePlot e)) else b
    if bad then (b.count t evTblErr (some (ePlot e))).echkFail t
    else if eIn e = inInject && o ≠ 4 then b.inject t o e
    else b

/-- The open windows of a router that take their cells from an input: outputs 0 to 4 (R50). -/
def Blk.takers (b : Blk) (t input : Nat) : List (Nat × Window) :=
  (List.range 5).flatMap fun o =>
    ((b.openWins t o).filter fun w => eIn w.entry = input + 1 && w.carried < eCap w.entry).map fun w => (o, w)

/-- One open window handles an arriving cell (R50). -/
def Blk.windowCell (b : Blk) (t o : Nat) (w : Window) (c : Cell) : Blk :=
  let plot := some (ePlot w.entry)
  let b : Blk := { b with sown := { b.sown with
    windows := b.sown.windows.put (t * 5 + o) ((b.openWins t o).map fun x =>
      if x.opened = w.opened then { x with carried := x.carried + 1 } else x) } }
  if w.bad then b
  else if b.sownFenced t o then b.count t evFenceDiscard plot
  else if !cellHdrOk c.hdr then b.drop t 0x10 none plot
  else if cPlot c.hdr ≠ ePlot w.entry then b.drop t 0x11 none plot
  else if cGen c.hdr ≠ w.gen.toNat % 16 then b.drop t 0x13 none plot
  else b.sendCell t o w.gen c

/-- The oldest cell on a link arrives at a router input, its header bits flipped by the damage mask (R50). -/
def Blk.cellArrives (b : Blk) (t input : Nat) (damage : BitVec 96) : Blk :=
  let k := t * 4 + input
  match b.linkCells k with
  | [] => b
  | c :: cs =>
    let b : Blk := { b with sown := { b.sown with links := b.sown.links.put k cs } }
    let c := { c with hdr := c.hdr ^^^ damage }
    match b.takers t input with
    | [] => b.count t evUnclaimed
    | ws => b.each ws fun b x => b.windowCell t x.1 x.2 c

/-! ### The staging exchange (R58, R59, R69) -/

/-- Whether a version holds a descriptor equal in the fields that make a furrow persist (R69). -/
def persists (v : SownVersion) (t : Nat) (d : BitVec 128) : Bool :=
  (v.descsOf t).any fun x =>
    dPlot x.2 = dPlot d && dFurrow x.2 = dFurrow d && dLand x.2 = dLand d && dMode x.2 = dMode d && dPeer x.2 = dPeer d &&
    dBufA x.2 = dBufA d && dBufB x.2 = dBufB d && dCells x.2 = dCells d

/-- Step 5 for an inject descriptor of MODE REPEAT or IDLE (R57, R58). -/
def Blk.exchangeInject (b : Blk) (t : Nat) (d : BitVec 128) : Blk :=
  let k := stageKey t (dPlot d) (dFurrow d) false
  let x := b.staging k
  let plot := some (dPlot d)
  let b := if x.ready && x.sent < dCells d then b.countN t evStageFlush (dCells d - x.sent) plot else b
  if dCells d ≤ x.filled then
    b.setStaging k { x with fillA := !x.fillA, filled := 0, hasSend := true, ready := true, stale := false, sent := 0 }
  else
    let b := b.count t evStale plot
    if dMode d = 0 && x.hasSend then b.setStaging k { x with ready := true, stale := true, sent := 0 }
    else b.setStaging k { x with ready := false, sent := 0 }

/-- Step 5 for a land descriptor of MODE SRAM (R59). -/
def Blk.exchangeLand (b : Blk) (t : Nat) (d : BitVec 128) : Blk :=
  let k := stageKey t (dPlot d) (dFurrow d) true
  let x := b.staging k
  b.setStaging k { x with fillA := !x.fillA, read := x.recv, recv := [] }

/-- Step 5 for every descriptor of the active generation: a furrow that has just become active takes its first roles, any
other exchanges, an inert one too (R58, R59, log 146). -/
def Blk.exchange (b : Blk) (fresh : Nat → BitVec 128 → Bool) : Blk :=
  b.each b.sown.active.descs fun b x =>
    let t := x.1 / 64
    let d := x.2
    if !dValid d || dAttach d then b
    else if fresh t d then b.setStaging (stageKey t (dPlot d) (dFurrow d) (dLand d)) Staging.fresh
    else if dLand d then b.exchangeLand t d
    else b.exchangeInject t d

end Sys2Proof.Machine
end

