-- ==== Sys2Proof/Machine/Reduce.lean ====
section
/-! DEFINITION. The reduce engine's commands (R107, R132–R148). -/
namespace Sys2Proof.Machine

/-- What a chain of checks gives the engine. -/
def Blk.ranOf (b : Blk) (r : Chk (Blk × Ran)) : Blk × Ran :=
  match r with
  | .ok x => x
  | .error e => (b, .fin e.1 e.2)

/-! ### Operands read through ECC (R130, R137, R141) -/

/-- The errors in the words of a run of SRAM bytes. -/
def Blk.sramErrors (b : Blk) (t a n : Nat) : Tbl Bool :=
  b.ecc.sram.filter fun x => 2 ^ 18 * t + a / 8 ≤ x.1 && x.1 < 2 ^ 18 * t + ceilDiv (a + n) 8

/-- What ECC makes of a read: MEM with the place of the first error it cannot correct, else each corrected error is counted. -/
def Blk.eccRead (b : Blk) (t : Nat) (errs : Tbl Bool) (place : Nat → Nat) : Chk Blk :=
  match errs.find? fun x => x.2 with
  | some x => .error (stMem, place x.1)
  | none => .ok (b.each errs fun b _ => b.corrected t)

/-- An operand's bytes in SRAM; MEM names the cell (R130). -/
def Blk.operand (b : Blk) (t a n : Nat) : Chk (Bytes × Blk) :=
  (b.eccRead t (b.sramErrors t a n) fun w => w % 2 ^ 18 / 8 * 64).map fun b' => (b.readSram t a n, b')

/-- The errors in a run of entries of an oasis. -/
def Blk.fraErrors (b : Blk) (t id first n : Nat) : Tbl Bool :=
  b.ecc.fra.filter fun x => (64 * t + id) * 16384 + first ≤ x.1 && x.1 < (64 * t + id) * 16384 + first + n

/-- Entries that a command reads, adds to or merges into; MEM names the entry and writes none (R141). -/
def Blk.fraOperand (b : Blk) (t id first n : Nat) : Chk Blk :=
  b.eccRead t (b.fraErrors t id first n) fun k => k % 16384

/-- An oasis reserved or released holds no error: its entries are written anew (R107). -/
def Ecc.freshOasis (e : Ecc) (t id : Nat) : Ecc := { e with fra := e.fra.drop fun k => k / 16384 = 64 * t + id }

/-! ### Operands of the reduce engine -/

def kOasis (c : BitVec 256) : Nat := kOpb c % 64
def kFirst (c : BitVec 256) : Nat := kOpb c / 2 ^ 16
def kFurrow (c : BitVec 256) : Nat := kOpa c % 4096

/-- The form of an oasis that has taken its grid. -/
def Oasis.form (o : Oasis) : FraForm := if o.wide then formWide else if o.grid = .int then formInt else formFloat

/-- The grid of a narrow input code. -/
def fmtGrid (c : Nat) : Grid := if fmtNarrowInt c then .int else .float

/-- Room that an oasis takes of the store of 16,384 narrow entries, in blocks of 16 (R107). -/
def oasisRoom (wide : Bool) (n : Nat) : Nat := ceilDiv (if wide then 4 * n else n) 16 * 16

/-- Whether a sheaf adds FRA entries. -/
def isFraSheaf (op : Nat) : Bool := op = 0x43 || op = 0x45

/-- Room that the scratch oasis of a borrowed sheaf takes, from its run until its entries have gone back (R123). -/
def Borrowed.room (r : Borrowed) : Nat :=
  if isFraSheaf (kOp r.cmd) && r.ran then oasisRoom (fmtWide (kInFmt r.cmd)) (kLen r.cmd) else 0

/-- Room in use at a tile, scratch oases included. -/
def Tile.roomUsed (x : Tile) : Nat :=
  (x.oases.map fun o => oasisRoom o.2.wide o.2.size).sum + (x.es.borrowed.map Borrowed.room).sum

/-- The oasis of a command: NO_OASIS where it is not reserved, LIMIT past its end (R107, R120). -/
def Blk.oasisOf (b : Blk) (t : Nat) (c : BitVec 256) (fits : Oasis → Bool) : Chk Oasis :=
  match (b.tile t).oases.get? (kOasis c) with
  | none => .error (stState, dtNoOasis)
  | some o =>
    if !fits o then .error (stState, dtNoOasis)
    else if o.size < kFirst c + kLen c then .error (stLimit, 0)
    else .ok o

/-- Whether an oasis takes addends of an input code (R120, R136). -/
def Oasis.takes (o : Oasis) (fmt : Nat) : Bool :=
  if fmtWide fmt then o.wide else !o.wide && (o.grid = .none || o.grid = fmtGrid fmt)

/-- The oasis with its grid taken by a first addend of a code. -/
def Oasis.gridBy (o : Oasis) (fmt : Nat) : Oasis :=
  if o.wide || fmtWide fmt then o else { o with grid := fmtGrid fmt }

/-- An oasis takes a run of addends from an entry on (R138). -/
def Oasis.addRun (o : Oasis) (first : Nat) (vs : List Val) : Oasis :=
  { o with entries := vs.zipIdx.foldl (fun es x =>
      es.put (first + x.2) ((es.getD (first + x.2) Fra.fresh).add o.form x.1)) o.entries }

/-- Entries whose OVF a change set. -/
def newOvf (before after : Tbl Fra) (first n : Nat) : Nat :=
  ((List.range n).filter fun i =>
    (after.getD (first + i) Fra.fresh).ovf && !(before.getD (first + i) Fra.fresh).ovf).length

/-- Counts of a run of addends: ADDENDS, FRA_RANGE, FRA_INEXACT, FRA_OVF (R154). -/
def Blk.countAdds (b : Blk) (t plot : Nat) (f : FraForm) (vs : List Val) (ovfs : Nat) : Blk :=
  let b := b.countN t evAddends vs.length (some plot)
  let b := b.countN t evFraRange ((vs.map fun v => (addCounts f v).1).sum) (some plot)
  let b := b.countN t evFraInexact ((vs.map fun v => (addCounts f v).2).sum) (some plot)
  b.countN t evFraOvf ovfs (some plot)

/-- Adds a run of values into an oasis and counts it. -/
def Blk.addInto (b : Blk) (t plot id : Nat) (o : Oasis) (fmt first : Nat) (vs : List Val) : Blk :=
  let o := o.gridBy fmt
  let o' := o.addRun first vs
  (b.modTile t fun x => { x with oases := x.oases.put id o' }).countAdds t plot o.form vs
    (newOvf o.entries o'.entries first vs.length)

/-! ### reduce.oasis, reduce.release -/

/-- reduce.oasis: 1 to 4,096 wide or 16,384 narrow entries; it waits for room unless NOWAIT = 1 (R107, R120). -/
def runOasis (t : Nat) (b : Blk) (s : Sheaf) : Blk × Ran :=
  let c := s.cmd
  let id := kOpa c % 64
  let wide := kXopt c % 2 = 1
  b.ranOf do
    must (1 ≤ kLen c && kLen c ≤ if wide then 4096 else 16384) stBadOperand
    must ((b.tile t).oases.get? id).isNone stState dtOasisHeld
    if (b.tile t).roomUsed + oasisRoom wide (kLen c) ≤ 16384 then
      .ok (({ b with ecc := b.ecc.freshOasis t id } : Blk).modTile t fun x =>
        { x with oases := x.oases.put id { wide := wide, size := kLen c, grid := .none, entries := [] } }, .fin stOk 0)
    else if kNowait c then .error (stNoRoom, 0)
    else .ok (b, .hold)
def execReduceOasis (tile : Nat) (s : State) : Out := s.mesh (.reduceOasis tile) (·.run tile 1 0x41 (runOasis tile))

/-- Whether a sheaf adds into an oasis (R107). -/
def addsInto (id : Nat) (s : Sheaf) : Bool := (kOp s.cmd = 0x43 || kOp s.cmd = 0x45) && kOasis s.cmd = id

/-- reduce.release waits while a lent sheaf adds into the oasis (R141). -/
def runRelease (t : Nat) (b : Blk) (s : Sheaf) : Blk × Ran :=
  let id := kOpa s.cmd % 64
  b.ranOf do
    must ((b.tile t).oases.get? id).isSome stState dtNoOasis
    if ((b.tile t).sheaves 1).any (fun x => x.state = .lent && addsInto id x) then .ok (b, .hold)
    else .ok (b.modTile t fun x => { x with oases := x.oases.del id }, .fin stOk 0)
def execReduceRelease (tile : Nat) (s : State) : Out := s.mesh (.reduceRelease tile) (·.run tile 1 0x42 (runRelease tile))

/-! ### Adds and merges -/

/-- The addends of a reduce.add or reduce.scale.add (R134, R148). -/
def addends (c : BitVec 256) (xs : Bytes) : List Val :=
  let vs := decodeRun (kInFmt c) (kLen c) xs
  if kOp c = 0x45 then vs.map fun v => Val.mul (fpBinary32.decode (kArg c)) v else vs

/-! ### A stolen sheaf on the thief's engine (R123) -/

/-- Bytes that a stealable command reads (R124). -/
def readBytes (c : BitVec 256) : Nat :=
  if kOp c = 0x02 then 0
  else if kOp c = 0x01 || kOp c = 0x4A then kLen c
  else runBytes (kInFmt c) (kLen c)

/-- The products of a reduce.map, clamped (R148). -/
def mapVals (c : BitVec 256) (xs : Bytes) : List Val :=
  (decodeRun (kInFmt c) (kLen c) xs).map fun v =>
    clampTo (fpBinary32.decode (kOpc c)) (Val.mul v (fpBinary32.decode (kArg c)))

/-- Whether formats and LEN of a reduce.map are legal (R107, R148). -/
def mapOk (c : BitVec 256) : Bool :=
  fmtOk (kInFmt c) && fmtOk (kOutFmt c) && lenOk (kInFmt c) (kLen c) && lenOk (kOutFmt c) (kLen c) && kRnd c ≤ 4 &&
    fpBinary32.decode (kOpc c) ≠ .nan

/-- The scratch oasis of a stolen add: LEN entries of the form that IN_FMT asks, with the operand added (R123, R136). -/
def scratchOasis (c : BitVec 256) (xs : Bytes) : Oasis :=
  let o : Oasis := { wide := fmtWide (kInFmt c), size := kLen c, grid := .none, entries := [] }
  (o.gridBy (kInFmt c)).addRun 0 (addends c xs)

/-- The entries of an oasis in wire form (R137). -/
def Oasis.wires (o : Oasis) : Bytes :=
  (List.range o.size).flatMap fun i => (o.entries.getD i Fra.fresh).wire o.wide (o.grid = .int)

/-- Whether the operands of a stolen command, absolute in the victim, are legal (R103, R106, R107). -/
def stolenOk (c : BitVec 256) : Bool :=
  let a := kOpa c
  let d := kOpb c
  let n := kLen c
  if kOp c = 0x01 then 1 ≤ n && (a + n ≤ d || d + n ≤ a)
  else if kOp c = 0x02 then n % 4 = 0
  else if kOp c = 0x49 then mapOk c && a % runAlign (kInFmt c) = 0 && d % runAlign (kOutFmt c) = 0
  else if kOp c = 0x4A then d % 4 = 0
  else fmtOk (kInFmt c) && lenOk (kInFmt c) n && a % runAlign (kInFmt c) = 0

/-- What a stolen command gives, from the operand's bytes: the result and what it counts, none for a status of 0x10 or above. -/
def stolenResult (c : BitVec 256) (xs : Bytes) : Option EncRun :=
  let plain : Bytes → EncRun := fun ys => { bytes := ys, nans := 0, sats := 0 }
  let crc := (crc32c xs).toNat
  if !stolenOk c then none
  else if kOp c = 0x01 then some (plain xs)
  else if kOp c = 0x02 then some (plain ((List.range (kLen c / 4)).flatMap fun _ => toBytes 4 (kArg c)))
  else if kOp c = 0x49 then some (encodeRun (kOutFmt c) (kRnd c) (fun _ => 0) (mapVals c xs))
  else if kOp c = 0x4A then (if kXopt c % 2 = 1 && crc ≠ kArg c then none else some (plain (toBytes 4 crc)))
  else some (plain (scratchOasis c xs).wires)

/-- Whether a borrowed sheaf has its operand whole and may run. -/
def Borrowed.runnable (r : Borrowed) : Bool := !r.ran && !r.failed && r.outst = 0 && ceilDiv (readBytes r.cmd) 128 ≤ r.asked

/-- Whether two borrowed sheaves are one. -/
def Borrowed.same (r q : Borrowed) : Bool := r.victim = q.victim && r.lendId = q.lendId

/-- Changes the borrowed sheaf of a victim and a lend id. -/
def Blk.modBorrowed (b : Blk) (t : Nat) (r : Borrowed) : Blk :=
  b.modTile t fun x => { x with es := { x.es with borrowed := x.es.borrowed.map fun q => if r.same q then r else q } }

/-- A borrowed sheaf runs on the thief's engine and counts there; an add waits for scratch room (R123, R154). -/
def Blk.runBorrowed (b : Blk) (t : Nat) (r : Borrowed) : Blk :=
  let c := r.cmd
  let xs := (List.range r.asked).flatMap fun k => r.got.getD k []
  let room := if isFraSheaf (kOp c) then oasisRoom (fmtWide (kInFmt c)) (kLen c) else 0
  if 16384 < (b.tile t).roomUsed + room then b
  else match stolenResult c xs with
    | none => b.modBorrowed t { r with failed := true, got := [] }
    | some e =>
      let b := b.modBorrowed t { r with ran := true, result := e.bytes, got := [] }
      let b := (b.countN t evRoundNan e.nans (some r.plot)).countN t evRoundSat e.sats (some r.plot)
      if isFraSheaf (kOp c) then
        let o := scratchOasis c xs
        b.countAdds t r.plot o.form (addends c xs) (newOvf [] o.entries 0 o.size)
      else b

/-- An engine runs its own next sheaf, and where it has none that can start the oldest borrowed one that has its operand (R123;
log 156). -/
def Blk.runOrSteal (b : Blk) (t e op : Nat) (f : Blk → Sheaf → Blk × Ran) : Blk :=
  if (b.nextStart t e).isSome || !b.engineOn t || engineBusy e ((b.tile t).sheaves e) then b.run t e op f
  else match (b.tile t).es.borrowed.find? fun r => r.engine = e && r.runnable with
    | some r => if kOp r.cmd = op then b.runBorrowed t r else b
    | none => b

/-- reduce.add and reduce.scale.add (R107, R138, R148). -/
def runAdd (t : Nat) (b : Blk) (s : Sheaf) : Blk × Ran :=
  let c := s.cmd
  let fmt := kInFmt c
  b.ranOf do
    must (fmtOk fmt && lenOk fmt (kLen c)) stBadOperand
    let a ← b.sramAt t s.base (kOpa c) (runBytes fmt (kLen c)) (runAlign fmt)
    let o ← b.oasisOf t c (·.takes fmt)
    let (xs, b) ← b.operand t a (runBytes fmt (kLen c))
    let b ← b.fraOperand t (kOasis c) (kFirst c) (kLen c)
    .ok (b.addInto t s.plot (kOasis c) o fmt (kFirst c) (addends c xs), .fin stOk 0)
def execReduceAdd (tile : Nat) (s : State) : Out := s.mesh (.reduceAdd tile) (·.runOrSteal tile 1 0x43 (runAdd tile))
def execReduceScaleAdd (tile : Nat) (s : State) : Out := s.mesh (.reduceScaleAdd tile) (·.runOrSteal tile 1 0x45 (runAdd tile))

/-- A cell of a read buffer: its bytes as landed, zeros where it is missing (R114). -/
def Blk.readCell (b : Blk) (t buf : Nat) (x : Staging) (i : Nat) : Bytes :=
  if (x.read.get? i).isSome then b.readSram t ((buf + i) * 64) 64 else List.replicate 64 0#8

/-- Stale and missing cells among n cells of a read buffer from an index on (R114). -/
def Staging.input (x : Staging) (first n : Nat) : Nat × Nat :=
  let is := List.range n
  ((is.filter fun i => x.read.get? (first + i) = some true).length,
   (is.filter fun i => (x.read.get? (first + i)).isNone).length)

/-- The land descriptor of a furrow with MODE SRAM that a command reads (R106, R120). -/
def Blk.landSram (b : Blk) (t plot furrow : Nat) : Chk (BitVec 128) :=
  match b.sown.active.find t plot furrow true with
  | some (_, d) => if dAttach d then .error (stState, dtNoFurrow) else .ok d
  | none => .error (stState, dtNoFurrow)

/-- The cells that a sown input names (R106): their bytes, status and DETAIL. -/
def Blk.sownInput (b : Blk) (t plot : Nat) (c : BitVec 256) (n : Nat) : Chk ((Bytes × Blk) × Nat × Nat) := do
  let d ← b.landSram t plot (kFurrow c)
  must (kXopt c + n ≤ dCells d) stBadOperand
  let x := b.staging (stageKey t plot (kFurrow c) true)
  let im := x.input (kXopt c) n
  let (_, b') ← b.operand t ((sendBuf d x + kXopt c) * 64) (n * 64)
  .ok (((List.range n).flatMap (fun i => b.readCell t (sendBuf d x) x (kXopt c + i)), b'), inputStatus im.1 im.2)

/-- reduce.add.sown reads the read buffer of a land furrow (R107, R114). -/
def runAddSown (t : Nat) (b : Blk) (s : Sheaf) : Blk × Ran :=
  let c := s.cmd
  let fmt := kInFmt c
  b.ranOf do
    must (fmtOk fmt && lenOk fmt (kLen c)) stBadOperand
    let ((xs, b), st, dt) ← b.sownInput t s.plot c (ceilDiv (runBytes fmt (kLen c)) 64)
    let o ← b.oasisOf t c (·.takes fmt)
    let b ← b.fraOperand t (kOasis c) (kFirst c) (kLen c)
    .ok (b.addInto t s.plot (kOasis c) o fmt (kFirst c) (decodeRun fmt (kLen c) xs), .fin st dt)
def execReduceAddSown (tile : Nat) (s : State) : Out := s.mesh (.reduceAddSown tile) (·.run tile 1 0x44 (runAddSown tile))

/-- An oasis merges a run of wire-form entries (R140). -/
def Oasis.mergeRun (o : Oasis) (first : Nat) (ms : List Fra) : Oasis :=
  { o with entries := ms.zipIdx.foldl (fun es x =>
      es.put (first + x.2) ((es.getD (first + x.2) Fra.fresh).merge o.form x.1)) o.entries }

/-- The wire-form entries of a run. -/
def wireRun (wide : Bool) (n : Nat) (xs : Bytes) : List Bytes :=
  (List.range n).map fun i => (xs.drop (i * fraBytes wide)).take (fraBytes wide)

/-- The grid that a narrow run of entries names: that of its first entry. -/
def runGrid (es : List Bytes) : Grid :=
  match es with
  | [] => .none
  | e :: _ => if wireGrid e then .int else .float

/-- Merges wire entries into an oasis, or NO_OASIS where a narrow grid differs (R140, R141). -/
def Blk.mergeInto (b : Blk) (t plot id : Nat) (o : Oasis) (first : Nat) (es : List Bytes) : Chk Blk := do
  let g := if o.grid = .none then runGrid es else o.grid
  must (o.wide || es.all fun e => wireGrid e = decide (g = .int)) stState dtNoOasis
  let b ← b.fraOperand t id first es.length
  let o := if o.wide then o else { o with grid := g }
  let o' := o.mergeRun first (es.map (Fra.unwire o.wide))
  .ok ((b.modTile t fun x => { x with oases := x.oases.put id o' }).countN t evFraOvf
    (newOvf o.entries o'.entries first es.length) (some plot))

/-- reduce.merge (R107, R140). -/
def runMerge (t : Nat) (b : Blk) (s : Sheaf) : Blk × Ran :=
  let c := s.cmd
  b.ranOf do
    let o ← b.oasisOf t c fun _ => true
    let a ← b.sramAt t s.base (kOpa c) (kLen c * fraBytes o.wide) 1
    let (xs, b) ← b.operand t a (kLen c * fraBytes o.wide)
    let b' ← b.mergeInto t s.plot (kOasis c) o (kFirst c) (wireRun o.wide (kLen c) xs)
    .ok (b', .fin stOk 0)
def execReduceMerge (tile : Nat) (s : State) : Out := s.mesh (.reduceMerge tile) (·.run tile 1 0x46 (runMerge tile))

/-! ### Results -/

/-- Writes an output run and counts ROUND_NAN and ROUND_SAT (R143, R154). -/
def Blk.writeRun (b : Blk) (t plot a : Nat) (r : EncRun) : Blk :=
  ((b.writeSram t a r.bytes).countN t evRoundNan r.nans (some plot)).countN t evRoundSat r.sats (some plot)

/-- The exact results of a run of entries (R142). -/
def Oasis.results (o : Oasis) (first n : Nat) : List Val :=
  (List.range n).map fun i => (o.entries.getD (first + i) Fra.fresh).result o.form

/-- reduce.round takes RND 0 to 4, reduce.narrow 0 to 6 with its seed and counter base (R107, R142–R147). -/
def runRound (t top : Nat) (b : Blk) (s : Sheaf) : Blk × Ran :=
  let c := s.cmd
  let fmt := kOutFmt c
  b.ranOf do
    must (fmtOk fmt && lenOk fmt (kLen c) && kRnd c ≤ top) stBadOperand
    let a ← b.sramAt t s.base (kOpa c) (runBytes fmt (kLen c)) (runAlign fmt)
    let o ← b.oasisOf t c fun _ => true
    let b ← b.fraOperand t (kOasis c) (kFirst c) (kLen c)
    .ok (b.writeRun t s.plot a
      (encodeRun fmt (kRnd c) (srOf (kArg c) (kOpc c)) (o.results (kFirst c) (kLen c))), .fin stOk 0)
def execReduceRound (tile : Nat) (s : State) : Out := s.mesh (.reduceRound tile) (·.run tile 1 0x47 (runRound tile 4))
def execReduceNarrow (tile : Nat) (s : State) : Out := s.mesh (.reduceNarrow tile) (·.run tile 1 0x48 (runRound tile 6))

/-- reduce.map: scale, clip, round once (R107, R148). -/
def runMap (t : Nat) (b : Blk) (s : Sheaf) : Blk × Ran :=
  let c := s.cmd
  let n := kLen c
  b.ranOf do
    must (mapOk c) stBadOperand
    let a ← b.sramAt t s.base (kOpa c) (runBytes (kInFmt c) n) (runAlign (kInFmt c))
    let d ← b.sramAt t s.base (kOpb c) (runBytes (kOutFmt c) n) (runAlign (kOutFmt c))
    let (xs, b) ← b.operand t a (runBytes (kInFmt c) n)
    .ok (b.writeRun t s.plot d (encodeRun (kOutFmt c) (kRnd c) (fun _ => 0) (mapVals c xs)), .fin stOk 0)
def execReduceMap (tile : Nat) (s : State) : Out := s.mesh (.reduceMap tile) (·.runOrSteal tile 1 0x49 (runMap tile))

/-- reduce.crc: CRC-32C of a run of bytes, compared with ARG where XOPT[0] = 1 (R107). -/
def runCrc (t : Nat) (b : Blk) (s : Sheaf) : Blk × Ran :=
  let c := s.cmd
  b.ranOf do
    let a ← b.sramAt t s.base (kOpa c) (kLen c) 1
    let d ← b.sramAt t s.base (kOpb c) 4 4
    let (xs, b) ← b.operand t a (kLen c)
    let r := (crc32c xs).toNat
    .ok (b.writeSram t d (toBytes 4 r), if kXopt c % 2 = 1 && r ≠ kArg c then .fin stCrc 0 else .fin stOk 0)
def execReduceCrc (tile : Nat) (s : State) : Out := s.mesh (.reduceCrc tile) (·.runOrSteal tile 1 0x4A (runCrc tile))

end Sys2Proof.Machine
end

