-- ==== Sys2Proof/Machine/Array.lean ====
section
/-! DEFINITION. The array engine's commands (R108, R149–R152). -/
namespace Sys2Proof.Machine

/-- Codes that the array takes for weights and input vectors (R149). -/
def arrayFmt (c : Nat) : Bool := 1 ≤ c && c ≤ 11

/-- K rounded up to whole groups of a format: 32 for MX, else 16 (R150). -/
def padK (fmt k : Nat) : Nat := if isMx fmt then ceilDiv k 32 * 32 else ceilDiv k 16 * 16

/-- Whether K × N weights fit the weight store (R150). -/
def weightsFit (fmt k n : Nat) : Bool :=
  padK fmt k * (ceilDiv n 16 * 16) * fmtBits fmt ≤ 8 * 262144 && (!isMx fmt || padK fmt k * n / 32 ≤ 16384)

/-- Bytes of the weights in SRAM. -/
def weightBytes (fmt k n : Nat) : Nat := runBytes fmt (padK fmt k * n)

/-- The first K values of a padded vector. -/
def vecOf (fmt k : Nat) (xs : Bytes) : List Val := (decodeRun fmt (padK fmt k) xs).take k

/-- The weights of output j. -/
def Weights.row (w : Weights) (j : Nat) : List Val :=
  let n := runBytes w.fmt (padK w.fmt w.k)
  vecOf w.fmt w.k ((w.data.drop (j * n)).take n)

/-- The N scores of an input vector (R151), as values. -/
def Weights.scores (w : Weights) (v : List Val) : List Val :=
  (List.range w.n).map fun j => scoreOf ((v.zip (w.row j)).map fun p => Val.mul p.1 p.2)

/-- The bits of a binary32 score; every NaN is 0x7FC0_0000 (R151). -/
def scoreBits (v : Val) : Nat := (fpBinary32.encode rndNe 0 v).bits

/-- PINNED while a kernel holds the array (R120). -/
def Blk.unpinned (b : Blk) (t : Nat) : Chk Unit := must (!(b.tile t).pinned) stState dtPinned

/-- array.load (R108, R150). -/
def runLoad (t : Nat) (b : Blk) (s : Sheaf) : Blk × Ran :=
  let c := s.cmd
  let fmt := kInFmt c
  let k := kLen c
  let n := kXopt c
  b.ranOf do
    must (arrayFmt fmt && 1 ≤ k && k ≤ 16384 && 1 ≤ n && n ≤ 4096 && weightsFit fmt k n) stBadOperand
    let a ← b.sramAt t s.base (kOpa c) (weightBytes fmt k n) (runAlign fmt)
    b.unpinned t
    let (xs, b) ← b.operand t a (weightBytes fmt k n)
    let w : Weights := { k := k, n := n, fmt := fmt, data := xs }
    .ok (b.modTile t fun x => { x with weights := some w }, .fin stOk 0)
def execArrayLoad (tile : Nat) (s : State) : Out := s.mesh (.arrayLoad tile) (·.run tile 2 0x81 (runLoad tile))

/-- array.mm: N binary32 scores for each input vector (R108, R151). -/
def runMm (t : Nat) (b : Blk) (s : Sheaf) : Blk × Ran :=
  let c := s.cmd
  let fmt := kInFmt c
  b.ranOf do
    must (arrayFmt fmt) stBadOperand
    b.unpinned t
    match (b.tile t).weights with
    | none => .error (stState, dtNoWeights)
    | some w =>
      let n := runBytes fmt (padK fmt w.k)
      let a ← b.sramAt t s.base (kOpa c) (kLen c * n) (runAlign fmt)
      let d ← b.sramAt t s.base (kOpb c) (kLen c * w.n * 4) 4
      let (xs, b) ← b.operand t a (kLen c * n)
      let out := (List.range (kLen c)).flatMap fun v =>
        (w.scores (vecOf fmt w.k ((xs.drop (v * n)).take n))).flatMap fun x => toBytes 4 (scoreBits x)
      .ok ((b.writeSram t d out).countN t evMacs (kLen c * w.k * w.n / 256) (some s.plot), .fin stOk 0)
def execArrayMm (tile : Nat) (s : State) : Out := s.mesh (.arrayMm tile) (·.run tile 2 0x82 (runMm tile))

/-- Word i of a run of 32-bit words. -/
def word32 (xs : Bytes) (i : Nat) : Nat := ofBytes ((xs.drop (4 * i)).take 4)

/-- array.topk: k entries of index and score (R108, R152). -/
def runTopk (t : Nat) (b : Blk) (s : Sheaf) : Blk × Ran :=
  let c := s.cmd
  let k := kXopt c
  b.ranOf do
    must (1 ≤ k && k ≤ 8 && k ≤ kLen c && kLen c ≤ 4096) stBadOperand
    let a ← b.sramAt t s.base (kOpa c) (4 * kLen c) 4
    let d ← b.sramAt t s.base (kOpb c) (8 * k) 4
    b.unpinned t
    let (xs, b) ← b.operand t a (4 * kLen c)
    let bits := (List.range (kLen c)).map (word32 xs)
    let out := (topk k (bits.map fpBinary32.decode)).flatMap fun i => toBytes 4 i ++ toBytes 4 (bits.getD i 0)
    .ok (b.writeSram t d out, .fin stOk 0)
def execArrayTopk (tile : Nat) (s : State) : Out := s.mesh (.arrayTopk tile) (·.run tile 2 0x83 (runTopk tile))

/-- array.gate: k gate values by RND[2:0] (R108, R206). -/
def runGate (t : Nat) (b : Blk) (s : Sheaf) : Blk × Ran :=
  let c := s.cmd
  let k := kXopt c
  b.ranOf do
    must (1 ≤ k && k ≤ 8 && kRnd c ≤ 3) stBadOperand
    let a ← b.sramAt t s.base (kOpa c) (8 * k) 4
    let d ← b.sramAt t s.base (kOpb c) (4 * k) 4
    b.unpinned t
    let (xs, b) ← b.operand t a (8 * k)
    .ok (b.writeSram t d ((gateBits (kRnd c) ((List.range k).map fun i => word32 xs (2 * i + 1))).flatMap (toBytes 4)),
      .fin stOk 0)
def execArrayGate (tile : Nat) (s : State) : Out := s.mesh (.arrayGate tile) (·.run tile 2 0x84 (runGate tile))

end Sys2Proof.Machine
end

