-- ==== Sys2Proof/Config.lean ====
section
/-! DEFINITION. What the spec leaves to published standards or to chance: uninterpreted constants (log 3, 4). -/
namespace Sys2Proof.Config

/-- SHA-384 (R273, R358), a published standard. Free value: log 3. -/
opaque sha384 : Bytes → Bytes
/-- HMAC-SHA-256 of a key and a message (R325). Free value: log 3. -/
opaque hmac256 : Bytes → Bytes → Bytes
/-- ECDSA P-384 signature by the device's IDENT key over a hash (R274). Free value: log 3. -/
opaque ecdsaSign : Bytes → Bytes
/-- Whether a signature over a hash verifies under netlist key KEY_ID (R358). Free value: log 3. -/
opaque ecdsaVerify : Nat → Bytes → Bytes → Bool
/-- AES-256-GCM: key, nonce, additional data, ciphertext and tag; none when the tag fails (R31, R280). Free value: log 3. -/
opaque gcmOpen : Bytes → Bytes → Bytes → Bytes → Bytes → Option Bytes
/-- AES-256-GCM: key, nonce, additional data and plaintext to ciphertext and tag (R31). Free value: log 3. -/
opaque gcmSeal : Bytes → Bytes → Bytes → Bytes → Bytes × Bytes
/-- The capsule key that one DEVICES entry and EPH yield, or none when the wrap fails (R280). Free value: log 3. -/
opaque capsuleKey : Bytes → Bytes → Bytes → Bytes → Option Bytes
/-- DEVICE_ID of this package (R273). Free value: log 3. -/
opaque deviceId : Bytes
/-- VENDOR_ID of the netlist (R322). Free value: log 4. -/
opaque vendorId : BitVec 32
/-- Random bits of the n-th request since the k-th seeding of the generator, from k and n (R274, R284). Free value: log 4. -/
opaque randomBytes : Nat → Nat → Bytes
/-- The running microcode's response body to an SPDM request, by its code and a session (R275). Free value: log 3. -/
opaque spdmBody : Nat → Nat → Bytes → Bytes
/-- The SPDM or secured message (R328, DSP0277) that carries an answer of the vault: its kind, its code and its body. Free
value: log 3. -/
opaque spdmMessage : Nat → Nat → Bytes → Bytes
/-- Whether one monitor reading of a sweep is better than another (R255). Free value: log 4. -/
opaque betterReading : BitVec 16 → BitVec 16 → Bool
/-- The JEDEC manufacturer code tie-off `jtag_mfr_i` (R406). Free value: log 4. -/
opaque jtagMfr : BitVec 11

end Sys2Proof.Config
end

