-- ==== Sys2Proof/Machine/Dfp.lean ====
section
/-! DEFINITION. The fabric packet, its tables and its frames: header, keys, destination lookup, classes, furrows, cipher and
encapsulation (R29–R39, R224–R231, R243, R278, R279). -/
namespace Sys2Proof.Machine

/-! ### The header (R29) -/

def fVer (h : BitVec 256) : Nat := fld h 0 4
def fType (h : BitVec 256) : Nat := fld h 4 4
def fEnc (h : BitVec 256) : Bool := flag h 8
def fPhase (h : BitVec 256) : Bool := flag h 9
def fRank (h : BitVec 256) : Bool := flag h 10
def fKey (h : BitVec 256) : Nat := fld h 16 16
def fClass (h : BitVec 256) : Nat := fld h 32 6
def fColor (h : BitVec 256) : Nat := fld h 38 2
def fLen (h : BitVec 256) : Nat := fld h 40 6
def fTail (h : BitVec 256) : Nat := fld h 48 6
def fHops (h : BitVec 256) : Nat := fld h 56 8
def fDst (h : BitVec 256) : Nat := fld h 64 32
def fSrc (h : BitVec 256) : Nat := fld h 96 32
def fPktNum (h : BitVec 256) : Nat := fld h 128 64
def fTag (h : BitVec 256) : Nat := fld h 192 32
def fGen (h : BitVec 256) : Nat := fld h 224 16

/-- HCHK: bits [15:0] of the CRC-32C of bytes 0 to 29. -/
def fHchk (h : BitVec 256) : Nat := (crc32c (toBytes 30 h.toNat)).toNat % 2 ^ 16
def fHchkOk (h : BitVec 256) : Bool := fld h 240 16 = fHchk h
def reDfp (h : BitVec 256) : BitVec 256 := setFld h 240 16 (fHchk h)

/-- Payload bytes that a header names (R30). -/
def fBytes (h : BitVec 256) : Nat := 64 * fLen h + fTail h + 1

/-- The header with LEN and TAIL for n payload bytes. -/
def withBytes (h : BitVec 256) (n : Nat) : BitVec 256 := setFld (setFld h 40 6 ((n - 1) / 64)) 48 6 ((n - 1) % 64)

/-- A header that the block writes. -/
def dfpHdr (type key cls hops dst src tag gen bytes : Nat) : BitVec 256 :=
  reDfp (withBytes (BitVec.ofNat 256 (1 + at_ 4 4 type + at_ 16 16 key + at_ 32 6 cls + at_ 56 8 hops + at_ 64 32 dst +
    at_ 96 32 src + at_ 192 32 tag + at_ 224 16 gen)) bytes)

/-- The payload cells of n bytes, the last one padded with zeros (R30). -/
def cellsOfBytes (xs : Bytes) : List Bytes := (List.range (ceilDiv xs.length 64)).map fun i => padTo 64 ((xs.drop (64 * i)).take 64)

/-! ### Keys and coordinates (R36, R39, R229) -/

def svKey (e : BitVec 320) : Nat := fld e 0 16
def svPlot (e : BitVec 320) : Nat := fld e 16 8
def svValid (e : BitVec 320) : Bool := flag e 24
def svPort (e : BitVec 320) (p : Nat) : Bool := flag e (64 + p)

/-- The sieve entry of an active key (R229). -/
def Blk.sieveOf (b : Blk) (key : Nat) : Option (BitVec 320) :=
  (b.traf.sieve.find? fun x => svValid x.2 && svKey x.2 = key).map (·.2)

/-- Whether a key is active and admitted at a port. -/
def Blk.admitted (b : Blk) (key port : Nat) : Bool :=
  match b.sieveOf key with
  | some e => svPort e port
  | none => false

/-- A valid fabric coordinate (R36). -/
def coordOk (c : Nat) : Bool := c / 2 ^ 24 % 256 ≠ 255

/-- The block's own coordinate. -/
def Blk.self (b : Blk) : Nat := b.mgmt.coord.toNat

/-! ### The destination lookup (R230) -/

def lkPrefix (e : BitVec 64) : Nat := fld e 0 32
def lkPlen (e : BitVec 64) : Nat := fld e 32 6
def lkValid (e : BitVec 64) : Bool := flag e 38
def lkKind (e : BitVec 64) : Nat := fld e 40 2
def lkTarget (e : BitVec 64) : Nat := fld e 42 8
def lkHalf (e : BitVec 64) : Bool := flag e 50
def lkPlot (e : BitVec 64) : Nat := fld e 56 8

/-- Whether an entry's prefix matches a coordinate. -/
def lkMatch (e : BitVec 64) (plot dst : Nat) : Bool :=
  lkValid e && lkPlot e = plot && dst / 2 ^ (32 - lkPlen e) = lkPrefix e / 2 ^ (32 - lkPlen e)

/-- The matching entry with the longest prefix. -/
def Blk.lookup (b : Blk) (plot dst : Nat) : Option (BitVec 64) :=
  (b.traf.lookup.filter fun x => lkMatch x.2 plot dst).foldl
    (fun a x => match a with
      | none => some x.2
      | some y => if lkPlen y < lkPlen x.2 then some x.2 else a) none

/-- The ports of the group that a port leads (R219). -/
def Blk.members (b : Blk) (lead : Nat) : List Nat :=
  let n := match (b.port lead).ctrl.bond with
    | 1 => 2
    | 2 => 4
    | _ => 1
  (List.range n).map (lead + ·)

/-- The lead of a port's group. -/
def Blk.leadOf (b : Blk) (p : Nat) : Nat :=
  match (b.port p).ctrl.bond with
  | 1 => p / 2 * 2
  | 2 => p / 4 * 4
  | _ => p

/-- The round-robin pointer of a plot and group; in SPLIT mode the two halves of the members are two groups (R219, R243). -/
def rrKey (plot lead : Nat) (halfB : Bool) : Nat := 65536 * bit halfB + 256 * plot + lead

/-- The next member of a bond after the last one chosen at an ingress port, among those that are UP (R243). -/
def Blk.nextMember (b : Blk) (inPort plot lead : Nat) (halfB : Bool) : Option (Nat × Nat) :=
  let ms := b.members lead
  let i := (b.port inPort).eg.rr.getD (rrKey plot lead halfB) 0
  ((List.range ms.length).map fun k => (i + k) % ms.length).findSome? fun k =>
    let p := lead + k
    if (b.port p).state = .up then some (p, (k + 1) % ms.length) else none

/-- Where a DFP leaves: port, half and whether some target is UP; with the bond pointer moved on (R230, R243). -/
def Blk.egressOf (b : Blk) (inPort plot : Nat) (e : BitVec 64) : Nat × Bool × Bool × Blk :=
  let p := lkTarget e
  if lkKind e = 2 then
    let halfB : Bool := lkHalf e && (b.port p).ctrl.mode = 2
    match b.nextMember inPort plot p halfB with
    | none => (p, lkHalf e, false, b)
    | some (q, next) =>
      (q, lkHalf e, true, b.modPort inPort fun x => { x with eg := { x.eg with rr := x.eg.rr.put (rrKey plot p halfB) next } })
  else (p, lkKind e = 1 && lkHalf e, (b.port p).state = .up, b)

/-- The class entry of a plot: QUEUE and OPEN (R231). -/
def Blk.classOf (b : Blk) (plot cls : Nat) : Nat × Bool :=
  let e := b.traf.classes.getD (64 * plot + cls) (BitVec.ofNat 16 (cls + 64))
  (fld e 0 6, flag e 6)

/-- The egress queue at a port: QUEUE[4:0] plus 32 for pb in SPLIT mode (R231). -/
def Blk.queueAt (b : Blk) (port : Nat) (halfB : Bool) (q : Nat) : Nat :=
  if (b.port port).ctrl.mode = 2 then q % 32 + (if halfB then 32 else 0) else q

/-- The queue of the quorum at a port and half (R293). -/
def Blk.quorumAt (b : Blk) (port : Nat) (halfB : Bool) : Nat :=
  if (b.port port).ctrl.mode = 2 && !halfB then 31 else 63

/-- The egress queue of a DFP: the quorum's for TYPE 5, else the one that its class names (R231, R293). -/
def Blk.queueFor (b : Blk) (port plot : Nat) (halfB : Bool) (h : BitVec 256) : Nat :=
  if fType h = 5 then b.quorumAt port halfB else b.queueAt port halfB (b.classOf plot (fClass h)).1

/-- The PORT inject descriptor of a plot at a tile toward an egress tile with the lowest FURROW (R231). -/
def Blk.portFurrow (b : Blk) (t plot peer : Nat) : Option (BitVec 128) :=
  ((b.sown.active.descsOf t).map (·.2)).foldl
    (fun a d =>
      if dValid d && !dLand d && dMode d = modePort && dPlot d = plot && dPeer d = peer then
        match a with
        | none => some d
        | some e => if dFurrow d < dFurrow e then some d else a
      else a) none

/-! ### Staging on a PORT furrow (R33, R231) -/

/-- The envelope cell's payload (R33). -/
def envelope (h : BitVec 256) (inPort color queue frame : Nat) : Bytes :=
  padTo 64 (toBytes 32 h.toNat ++ toBytes 1 inPort ++ toBytes 1 (color + 4 * queue) ++ toBytes 4 frame)

/-- A train of cells: an optional envelope cell, then the payload cells (R33, R181, R208). -/
def trainCells (env : Option (Nat × Bytes)) (payload : Bytes) : List StagedCell :=
  let cs := cellsOfBytes payload
  let n := cs.length
  let base := if env.isSome then 1 else 0
  let head : List StagedCell := match env with
    | some (kind, xs) => [{ kind := kind, index := 0, fill := 63, first := true, last := false, data := xs }]
    | none => []
  head ++ cs.zipIdx.map fun x =>
    { kind := 0, index := base + x.2, fill := if x.2 + 1 = n then (payload.length - 1) % 64 else 63,
      first := base + x.2 = 0, last := x.2 + 1 = n, data := x.1 }

/-- Stages cells on a PORT furrow. -/
def Blk.stage (b : Blk) (t : Nat) (d : BitVec 128) (egress cls : Nat) (cells : List StagedCell) : Blk :=
  let k := stageKey t (dPlot d) (dFurrow d) false
  { b with sown := { b.sown with portq := b.sown.portq.put k (b.sown.portq.getD k [] ++
      [{ cells := cells, begun := false, plot := dPlot d, egress := egress, cls := cls }]) } }

/-! ### Frames on the wire (R224–R226) -/

/-- n bytes of a number, most significant first. -/
def toBE (n v : Nat) : Bytes := (toBytes n v).reverse
def ofBE (xs : Bytes) : Nat := ofBytes xs.reverse

/-- One's complement sum of 16-bit words, most significant byte first. -/
def onesSum : Bytes → Nat
  | [] => 0
  | [x] => 256 * x.toNat
  | x :: y :: l =>
    let s := 256 * x.toNat + y.toNat + onesSum l
    s % 65536 + s / 65536

/-- The UDP checksum over the IPv6 pseudo-header; 0 is sent as all ones. -/
def udpSum (src dst : Nat) (udp : Bytes) : Nat :=
  let s := onesSum (toBE 16 src ++ toBE 16 dst ++ toBE 4 udp.length ++ toBE 4 17 ++ udp)
  let c := 65535 - (s % 65536 + s / 65536) % 65536
  if c = 0 then 65535 else c

/-- The addresses that a half of a port uses (R217). -/
def Port.addr (p : Port) (halfB : Bool) : PortAddr := if p.ctrl.mode = 2 && halfB then p.addrB else p.addrA

/-- The PCP of a DFP's tag: CLASS[5:3], or that of its pool when a LOSSLESS bit is set (R224, R299). -/
def Port.pcp (p : Port) (cls pool : Nat) : Nat :=
  if p.pools.lossless = 0#3 then cls / 8
  else match pool with
    | 0 => 4
    | 1 => 3
    | 2 => 5
    | 3 => 6
    | _ => 7

/-- The frame of a DFP's bytes (R224, R225, R226). -/
def Port.encap (p : Port) (halfB : Bool) (cls pool : Nat) (dfp : Bytes) : Bytes :=
  let a := p.addr halfB
  let eth := toBE 6 a.peerMac.toNat ++ toBE 6 a.mac.toNat ++
    (if p.ctrl.vlan then toBE 2 0x8100 ++ toBE 2 (8192 * p.pcp cls pool + p.ctrl.vid) else [])
  if p.ctrl.encap then
    let udp := fun sum => toBE 2 (0xC000 + cls) ++ toBE 2 p.ctrl.udpPort.toNat ++ toBE 2 (8 + dfp.length) ++ toBE 2 sum ++ dfp
    let sum := if p.ctrl.udpCsum then udpSum a.ip6.toNat a.peerIp6.toNat (udp 0) else 0
    eth ++ toBE 2 0x86DD ++ toBE 4 (6 * 2 ^ 28 + cls * 4 * 2 ^ 20) ++ toBE 2 (8 + dfp.length) ++ toBE 1 17 ++ toBE 1 64 ++
      toBE 16 a.ip6.toNat ++ toBE 16 a.peerIp6.toNat ++ udp sum
  else eth ++ toBE 2 p.ctrl.ethertype.toNat ++ dfp

/-- What a received frame is: foreign, with a bad checksum, or a DFP (R225, R226, R228). -/
inductive Decap where
  | foreign
  | bad
  | dfp (xs : Bytes)
  deriving DecidableEq, Repr

/-- Whether an IPv6 packet with UDP right behind its header carries a checksum that does not match (R226). -/
def udpBad (r : Bytes) : Bool :=
  let udp := r.drop 40
  let sum := ofBE ((udp.drop 6).take 2)
  (r.headD 0#8).toNat / 16 = 6 && ofBE ((r.drop 6).take 1) = 17 && sum ≠ 0 &&
    sum ≠ udpSum (ofBE ((r.drop 8).take 16)) (ofBE ((r.drop 24).take 16)) (udp.take 6 ++ [0#8, 0#8] ++ udp.drop 8)

/-- Takes the DFP out of a frame: a checksum that does not match counts before a foreign encapsulation (R224–R226, R228). -/
def Port.decap (p : Port) (xs : Bytes) : Decap :=
  let vlan : Bool := ofBE ((xs.drop 12).take 2) = 0x8100
  let n := if vlan then 16 else 12
  let type := ofBE ((xs.drop n).take 2)
  let r := xs.drop (n + 2)
  if p.ctrl.encap && type = 0x86DD && udpBad r then .bad
  else if vlan ≠ p.ctrl.vlan || (vlan && ofBE ((xs.drop 14).take 2) % 4096 ≠ p.ctrl.vid) then .foreign
  else if p.ctrl.encap then
    let udp := r.drop 40
    if type ≠ 0x86DD || (r.headD 0#8).toNat / 16 ≠ 6 || ofBE ((r.drop 6).take 1) ≠ 17 ||
        ofBE ((udp.drop 2).take 2) ≠ p.ctrl.udpPort.toNat then .foreign
    else .dfp (udp.drop 8)
  else if type ≠ p.ctrl.ethertype.toNat then .foreign
  else .dfp r

/-! ### The trailer (R31, R278, R279) -/

/-- The GCM nonce: SRC followed by PKT_NUM. -/
def nonceOf (h : BitVec 256) : Bytes := toBytes 4 (fSrc h) ++ toBytes 8 (fPktNum h)

/-- Whether a phase receives. -/
def PhaseState.receives (p : PhaseState) : Bool := p = .live || p = .retiring

def PlotKeys.phase (k : PlotKeys) (b : Bool) : PhaseState := if b then k.phase1 else k.phase0
def PlotKeys.key (k : PlotKeys) (b : Bool) : Bytes := (if b then k.key1 else k.key0).getD []

/-- Checks the trailer and removes the cipher: the payload in the clear, or none (R31, R279). -/
def PlotKeys.receive (k : PlotKeys) (h : BitVec 256) (body : Bytes) : Option Bytes :=
  let n := fBytes h
  let data := body.take n
  let tr := (body.drop n).take 16
  let aad := toBytes 32 h.toNat
  if fEnc h then Config.gcmOpen (k.key (fPhase h)) (nonceOf h) aad data tr
  else if ofBytes (tr.take 4) = (crc32c (aad ++ data)).toNat then some data
  else none

/-- Payload and trailer of a transmitted DFP under a header that holds ENC, KEY_PHASE and PKT_NUM. -/
def PlotKeys.transmit (k : PlotKeys) (h : BitVec 256) (data : Bytes) : Bytes :=
  let aad := toBytes 32 h.toNat
  if fEnc h then
    let r := Config.gcmSeal (k.key (fPhase h)) (nonceOf h) aad data
    padTo data.length r.1 ++ padTo 16 r.2
  else data ++ padTo 16 (toBytes 4 (crc32c (aad ++ data)).toNat)

end Sys2Proof.Machine
end

