-- ==== Sys2Proof/Machine/Router.lean ====
section
/-! DEFINITION. The open plane's routers: packets, buffers, credits, routes, arbitration, age (R34, R73–R92). -/
namespace Sys2Proof.Machine

/-! ### The head flit (R34) -/

def pSub (h : BitVec 128) : Nat := fld h 2 2
def pLen (h : BitVec 128) : Nat := fld h 4 3
def pEpoch (h : BitVec 128) : Bool := flag h 7
def pVc (h : BitVec 128) : Nat := fld h 8 2
def pDst (h : BitVec 128) : Nat := fld h 10 10
def pSrc (h : BitVec 128) : Nat := fld h 20 10
def pPlot (h : BitVec 128) : Nat := fld h 30 8
def pOp (h : BitVec 128) : Nat := fld h 38 8
def pSlot (h : BitVec 128) : Nat := fld h 46 5
def pErr (h : BitVec 128) : Bool := flag h 51
def pAge (h : BitVec 128) : Nat := fld h 52 12
def pGen (h : BitVec 128) : Nat := fld h 64 16
def pArg (h : BitVec 128) : Nat := fld h 80 32

/-- The header with its check field recomputed. -/
def rehash (h : BitVec 128) : BitVec 128 := setFld h 120 8 (crc8 h 120).toNat

/-- VER, HCHK, SUBNET and LEN pass (reason 0x20). -/
def flitOk (h : BitVec 128) (n : Nat) : Bool :=
  fld h 0 2 = 1 && pSub h = n && pLen h ≤ 4 && fld h 120 8 = (crc8 h 120).toNat

/-- Flits of a packet: 16 payload bytes in the head, 32 in each other flit. -/
def Packet.flits (p : Packet) : Nat := 1 + ceilDiv (p.body.length - 16) 32

/-- A packet with the fields given. The epoch, slot, AGE 0 and check field are filled here (R34). -/
def mkPacket (sub vc : Nat) (epoch : Bool) (dst src plot op slot : Nat) (err : Bool) (gen arg : Nat) (body : Bytes) : Packet :=
  let body := padTo (max 16 (16 + ceilDiv (body.length - 16) 32 * 32)) body
  { hdr := rehash (BitVec.ofNat 128 (1 + at_ 2 2 sub + at_ 4 3 (ceilDiv (body.length - 16) 32) + atB 7 epoch + at_ 8 2 vc +
      at_ 10 10 dst + at_ 20 10 src + at_ 30 8 plot + at_ 38 8 op + at_ 46 5 slot + atB 51 err + at_ 64 16 gen + at_ 80 32 arg)),
    body := body }

/-- Sub-networks: 0 request, 1 reply, 2 admin. -/
def snReq : Nat := 0
def snReply : Nat := 1
def snAdmin : Nat := 2

/-- Epoch bit of the active generation (R63). -/
def Blk.epoch (b : Blk) : Bool := b.sown.active.gen.getLsbD 0

/-! ### Keys -/

def inKey (t n i : Nat) : Nat := (t * 3 + n) * 5 + i
def vcKey (t n i vc : Nat) : Nat := inKey t n i * 4 + vc

def Blk.buf (b : Blk) (k : Nat) : List Held := b.opn.bufs.getD k []
def Blk.setBuf (b : Blk) (k : Nat) (l : List Held) : Blk := { b with opn := { b.opn with bufs := b.opn.bufs.put k l } }
def Blk.arb (b : Blk) (k : Nat) : Arb := b.opn.arbs.getD k Arb.fresh
def Blk.setArb (b : Blk) (k : Nat) (a : Arb) : Blk := { b with opn := { b.opn with arbs := b.opn.arbs.put k a } }
def Blk.ejectBuf (b : Blk) (t n : Nat) : List (Packet × Nat) := b.opn.eject.getD (t * 3 + n) []
def Blk.setEject (b : Blk) (t n : Nat) (l : List (Packet × Nat)) : Blk :=
  { b with opn := { b.opn with eject := b.opn.eject.put (t * 3 + n) l } }
def Blk.usedCredits (b : Blk) (k : Nat) : Nat := b.opn.used.getD k 0
def Blk.setUsed (b : Blk) (k v : Nat) : Blk := { b with opn := { b.opn with used := b.opn.used.put k v } }

/-- Flits of a VC in the INJECT queue of a sub-network (R75): 16 fit. -/
def Blk.injectFill (b : Blk) (t n vc : Nat) : Nat := ((b.buf (vcKey t n 4 vc)).map fun h => h.pkt.flits).sum

/-- Flits of a VC in the EJECT buffer (R75): 16 fit. -/
def Blk.ejectFill (b : Blk) (t n vc : Nat) : Nat :=
  (((b.ejectBuf t n).filter fun x => pVc x.1.hdr = vc).map fun x => x.1.flits).sum

/-- Depth of the input buffer behind an output (R75). -/
def Blk.depth (b : Blk) (t o : Nat) : Nat := if b.member.crossing t o then 26 else 10

/-! ### Credits (R75) -/

/-- Key of the credits that the router upstream of an input holds for it. -/
def Blk.upstream (b : Blk) (t n i vc : Nat) : Nat := vcKey (b.member.neighbour t i) n (opposite i) vc

/-- n credits return to the upstream router at once; INJECT has none. -/
def Blk.creditsBack (b : Blk) (t n i vc k : Nat) : Blk :=
  if i = 4 then b else b.setUsed (b.upstream t n i vc) (b.usedCredits (b.upstream t n i vc) - k)

/-- n flits leave an input buffer: their credits are on the way. -/
def Blk.owe (b : Blk) (t n i vc k : Nat) : Blk :=
  if i = 4 then b
  else { b with opn := { b.opn with owed := b.opn.owed.put (vcKey t n i vc) (b.opn.owed.getD (vcKey t n i vc) 0 + k) } }

/-- One credit that is on the way arrives (R75). -/
def Blk.creditReturn (b : Blk) (t n i vc : Nat) : Blk :=
  let k := vcKey t n i vc
  let w := b.opn.owed.getD k 0
  if w = 0 then b
  else ({ b with opn := { b.opn with owed := b.opn.owed.put k (w - 1) } } : Blk).creditsBack t n i vc 1

/-! ### Routes (R77, R79, R90) -/

/-- The route version an EPOCH bit selects: the active one, or a RETIRED shadow (R77, R90). -/
def Blk.routeVersion (b : Blk) (e : Bool) : Option SownVersion :=
  if b.epoch = e then some b.sown.active
  else if b.sown.state = .retired then some b.sown.shadow
  else none

/-- Output code and next VC of a packet at an input, or none when reason 0x23 drops it (R79). -/
def Blk.routeOf (b : Blk) (t n i : Nat) (p : Packet) : Option (Nat × Nat) :=
  match b.routeVersion (pEpoch p.hdr) with
  | none => none
  | some v =>
    let e := v.route b.member t (pDst p.hdr)
    let vc := pVc p.hdr
    let turn := n ≠ snAdmin && vc / 2 = 0 && rTurn e
    let out := if n = snAdmin then rOutA e else if turn then rOut1 e else if vc / 2 = 0 then rOut0 e else rOut1 e
    let vc := if turn then 2 else vc
    let vc := if (out = 1 || out = 3) && (i = 1 || i = 3) then vc / 2 * 2 else vc
    let vc := if 1 ≤ out && out ≤ 4 && b.member.wraps t (out - 1) then vc / 2 * 2 + 1 else vc
    if !rChkOk e || out = 0 || 5 < out then none else some (out, vc)

/-- A preempting packet leaves the network: it is in flight no longer (R88). -/
def Blk.flightEnd (b : Blk) (n : Nat) (h : BitVec 128) : Blk :=
  if n ≠ snAdmin then b
  else if 0xF0 ≤ pOp h then { b with opn := { b.opn with debugFlight := b.opn.debugFlight - 1 } }
  else if 0xE0 ≤ pOp h then { b with opn := { b.opn with scrubFlight := b.opn.scrubFlight - 1 } }
  else b

/-- A packet dropped at an input: its credits return at once, to the VC on which it was sent (R90; log 140). -/
def Blk.dropAtInput (b : Blk) (t n i : Nat) (was : BitVec 128) (flits reason : Nat) (plot : Option Nat) : Blk :=
  ((b.drop t reason none plot).creditsBack t n i (pVc was) flits).flightEnd n was

/-- A head flit enters an input buffer: flit check, route, next VC (R74, R79, R90). `was` is the header as it was sent. -/
def Blk.enterInput (b : Blk) (t n i : Nat) (was : BitVec 128) (p : Packet) : Blk :=
  if !flitOk p.hdr n then b.dropAtInput t n i was p.flits 0x20 none
  else match b.routeOf t n i p with
    | none => b.dropAtInput t n i was p.flits 0x23 (some (pPlot p.hdr))
    | some (out, nvc) =>
      let k := vcKey t n i (pVc p.hdr)
      b.setBuf k (b.buf k ++ [{ pkt := p, arrived := b.clk.mc, out := out, vc := nvc }])

/-- AGE after a residence at a router (R85). -/
def agedHdr (h : BitVec 128) (residence : Nat) : BitVec 128 :=
  rehash (setFld h 52 12 (min 4095 (pAge h + max 1 (ceilDiv residence 8))))

/-- The oldest packet on a link arrives at the next router's input (R79, R85). -/
def Blk.headArrives (b : Blk) (t n i : Nat) (damage : BitVec 128) : Blk :=
  let k := inKey t n i
  match b.opn.links.getD k [] with
  | [] => b
  | (p, since) :: l =>
    let b : Blk := { b with opn := { b.opn with links := b.opn.links.put k l } }
    b.enterInput t n i p.hdr { p with hdr := agedHdr p.hdr (b.clk.mc - since) ^^^ damage }

/-! ### Arbitration (R85–R89, R92) -/

/-- A candidate: its input and VC, and the packet at the head of that buffer. -/
structure Cand where
  input : Nat
  vc : Nat
  held : Held
  deriving DecidableEq, Repr

/-- Effective age of a waiting packet (R85). -/
def Blk.effAge (b : Blk) (h : Held) : Nat := min 4095 (pAge h.pkt.hdr + ceilDiv (b.clk.mc - h.arrived) 8)

/-- Whether the next VC has credits for the whole packet (R74, R75). -/
def Blk.hasCredits (b : Blk) (t n o : Nat) (h : Held) : Bool :=
  if o = 4 then b.ejectFill t n h.vc + h.pkt.flits ≤ 16
  else b.usedCredits (vcKey t n o h.vc) + h.pkt.flits ≤ b.depth t o

/-- The candidates of an output (R86). -/
def Blk.cands (b : Blk) (t n o : Nat) : List Cand :=
  (List.range 20).filterMap fun j =>
    match b.buf (vcKey t n (j / 4) (j % 4)) with
    | h :: _ => if h.out = o + 1 && b.hasCredits t n o h then some { input := j / 4, vc := j % 4, held := h } else none
    | [] => none

/-- Distance of a candidate's pair from the rotating pointer (R86). -/
def Cand.turn (c : Cand) (ptr : Nat) : Nat := (c.input * 4 + c.vc + 20 - ptr) % 20

/-- The candidate with the largest measure; ties go to the rotating pointer (R86). -/
def bestCand (f : Cand → Nat) (ptr : Nat) : List Cand → Option Cand
  | [] => none
  | c :: cs => match bestCand f ptr cs with
    | none => some c
    | some d => some (if f d < f c || (f c = f d && c.turn ptr < d.turn ptr) then c else d)

/-- A preempting packet (R88). -/
def Cand.preempts (n : Nat) (c : Cand) : Bool := n = snAdmin && 0xE0 ≤ pOp c.held.pkt.hdr

/-- The winner among candidates by R86, and whether it took the Nth grant. -/
def Blk.choose (b : Blk) (t n : Nat) (a : Arb) (cs : List Cand) : Option (Cand × Bool) :=
  match cs.filter (Cand.preempts n) with
  | [] =>
    if a.count + 1 = (b.tile t).openCtrl.grantN then
      (bestCand (fun c => b.clk.mc - c.held.arrived) a.ptr cs).map fun c => (c, true)
    else (bestCand (fun c => b.effAge c.held) a.ptr cs).map fun c => (c, false)
  | pre => (bestCand (fun c => b.effAge c.held) a.ptr pre).map fun c => (c, false)

/-- A packet enters the INJECT queue of its sub-network with the epoch bit of that mc (R34, R93). -/
def Blk.injectPacket (b : Blk) (t n : Nat) (p : Packet) : Blk :=
  let h := rehash (setFld p.hdr 7 1 (bit b.epoch))
  (b.countN t evFlitsInjected p.flits (some (pPlot p.hdr))).enterInput t n 4 h { p with hdr := h }

/-- Whether a reply to a request that entered EJECT at an mc is too late to be sent (R94). -/
def Blk.tooLate (b : Blk) (eject : Nat) : Bool := eject + 4096 < b.clk.mc

/-- Waiting replies enter INJECT, oldest first, while they fit; one that is too late is discarded and the rest wait on (R94). -/
def Blk.drainGo (b : Blk) (t n : Nat) : List (Nat × Packet × Nat) → Blk × List (Nat × Packet × Nat)
  | [] => (b, [])
  | (m, p, e) :: l =>
    if m = n && b.tooLate e then (b.count t evReplyLate (some (pPlot p.hdr))).drainGo t n l
    else if m = n && b.injectFill t n (pVc p.hdr) + p.flits ≤ 16 then (b.injectPacket t n p).drainGo t n l
    else
      let r := if m = n then (b, l) else b.drainGo t n l
      (r.1, (m, p, e) :: r.2)

/-- Replies that wait for room in INJECT enter it (R94). -/
def Blk.drainReplies (b : Blk) (t n : Nat) : Blk :=
  let r := b.drainGo t n (b.tile t).net.replyWait
  r.1.modTile t fun x => { x with net := { x.net with replyWait := r.2 } }

/-- The winner leaves its buffer on the output (R74, R85, R92). -/
def Blk.grant (b : Blk) (t n o : Nat) (c : Cand) : Blk :=
  let p := c.held.pkt
  let f := p.flits
  let b := b.setBuf (vcKey t n c.input c.vc) (b.buf (vcKey t n c.input c.vc)).tail
  if b.openFenced t o then ((b.count t evOpenFence (some (pPlot p.hdr))).creditsBack t n c.input c.vc f).flightEnd n p.hdr
  else
    let b := b.owe t n c.input c.vc f
    let h := rehash (setFld p.hdr 8 2 c.held.vc)
    if o = 4 then
      let h := agedHdr h (b.clk.mc - c.held.arrived + 2)
      let b := b.setEject t n (b.ejectBuf t n ++ [({ p with hdr := h }, b.clk.mc + 2)])
      let b := b.countN t evFlitsEjected f (some (pPlot h))
      b.tracePkt t (pOp h + at_ 8 10 (pSrc h) + at_ 18 5 (pSlot h) + atB 23 (pErr h) + at_ 24 8 (pPlot h) + at_ 32 12 (pAge h))
    else
      let b := b.setUsed (vcKey t n o c.held.vc) (b.usedCredits (vcKey t n o c.held.vc) + f)
      let k := inKey (b.member.neighbour t o) n (opposite o)
      { b with opn := { b.opn with
          links := b.opn.links.put k (b.opn.links.getD k [] ++ [({ p with hdr := h }, c.held.arrived)]) } }

/-- The arbiter of a busy output hints the next winner, in the one mc that R87 gives for it and among the heads of the buffers
but the one that the packet in transmission leaves (log 141). -/
def Blk.hintFor (b : Blk) (t n o : Nat) : Blk :=
  let k := inKey t n o
  let a := b.arb k
  if !(b.tile t).openCtrl.hintEn || a.hintAt ≠ some b.clk.mc then b
  else
    let cs := (b.cands t n o).filter fun c => a.cur ≠ some (c.input, c.vc)
    b.setArb k { a with hintAt := none, hint := (b.choose t n a cs).map fun c => (c.1.input, c.1.vc) }

/-- The winner of a round: a preempting candidate, then the hinted one, then R86 (R86–R89). -/
def Blk.winner (b : Blk) (t n o : Nat) : Option (Cand × Bool) :=
  let a := b.arb (inKey t n o)
  let cs := b.cands t n o
  if cs.any (Cand.preempts n) then b.choose t n a cs
  else match a.hint with
    | none => b.choose t n a cs
    | some (i, vc) => match cs.find? fun c => c.input = i && c.vc = vc with
      | some c => some (c, a.count + 1 = (b.tile t).openCtrl.grantN)
      | none => b.choose t n a cs

/-- An output arbitrates: one that is busy chooses its hint, one that is free grants (R86, R87). -/
def Blk.arbitrate (b : Blk) (t n o : Nat) : Blk :=
  let k := inKey t n o
  let a := b.arb k
  if b.clk.mc < a.busy then b.hintFor t n o
  else match b.winner t n o with
    | none => b
    | some (c, nth) =>
      let pre := c.preempts n
      let lost := (b.cands t n o).length - 1
      let hintEn := (b.tile t).openCtrl.hintEn
      let fenced := b.openFenced t o
      let a := { a with
        count := if pre then a.count else if nth then 0 else a.count + 1,
        ptr := (c.input * 4 + c.vc + 1) % 20, hint := none,
        busy := b.clk.mc + (if fenced then 1 else c.held.pkt.flits + (if hintEn then 0 else 1)),
        hintAt := if fenced then none else some (b.clk.mc + (c.held.pkt.flits - 2)), cur := some (c.input, c.vc) }
      let plot := some (pPlot c.held.pkt.hdr)
      let b := if 0 < lost then b.countN t evArbLost lost else b
      let b := if pre then b.count t evPreempt plot else if nth then b.count t evNthGrant plot else b
      let b := (b.setArb k a).grant t n o c
      let b := if c.input = 4 then b.drainReplies t n else b
      b.hintFor t n o

/-- A hint is withdrawn: arbitration starts after the tail, which leaves one mc empty as without hints (R87, R89; log 141). -/
def Arb.withdraw (a : Arb) (mc i vc : Nat) : Arb :=
  if a.hint = some (i, vc) then { a with hint := none, busy := if mc < a.busy then a.busy + 1 else a.busy } else a

/-- The packet of a buffer with the largest effective age is dropped under reason 0x22 (R89, R90). -/
def Blk.ageDrop (b : Blk) (t n i vc : Nat) : Blk :=
  let k := vcKey t n i vc
  match b.buf k with
  | [] => b
  | l =>
    let top := (l.map b.effAge).foldl max 0
    match l.find? fun h => b.effAge h = top with
    | none => b
    | some h =>
      let b := b.setBuf k (l.erase h)
      let b := if l.head? ≠ some h then b else b.each (List.range 5) fun b o =>
        b.setArb (inKey t n o) ((b.arb (inKey t n o)).withdraw b.clk.mc i vc)
      ((b.drop t 0x22 none (some (pPlot h.pkt.hdr))).creditsBack t n i vc h.pkt.flits).flightEnd n h.pkt.hdr

/-! ### Commands -/

def execFlitHeadArrival (tile subnet input : Nat) (damage : BitVec 128) (s : State) : Out :=
  s.mesh (.flitHeadArrival tile subnet input damage) fun b => if input = 4 then b else b.headArrives tile subnet input damage
def execOutputArbitration (tile subnet out : Nat) (s : State) : Out :=
  s.mesh (.outputArbitration tile subnet out) (·.arbitrate tile subnet out)
def execCreditReturn (tile subnet input vc : Nat) (s : State) : Out :=
  s.mesh (.creditReturn tile subnet input vc) (·.creditReturn tile subnet input vc)
def execFlitAgeDrop (tile subnet input vc : Nat) (s : State) : Out :=
  s.mesh (.flitAgeDrop tile subnet input vc) (·.ageDrop tile subnet input vc)

end Sys2Proof.Machine
end

