-- ==== Sys2Proof/Machine/Requests.lean ====
section
/-! DEFINITION. How a request takes a slot and enters INJECT (R35, R93, R119, R302), and how a target answers (R94, R96). -/
namespace Sys2Proof.Machine

/-! ### Opcodes of the request and reply sub-networks (R156, R208, R397) -/

def rqHandler : Nat := 0x01
def rqQueue : Nat := 0x02
def rqDfp : Nat := 0x03
def rqGet : Nat := 0x10
def rqPut : Nat := 0x11
def rqCombine : Nat := 0x12
def rqHbmRead : Nat := 0x20
def rqHbmWrite : Nat := 0x21
def rqHostRead : Nat := 0x22
def rqHostWrite : Nat := 0x23
def rqStream : Nat := 0x24
def rqSteal : Nat := 0x30
def rqKhdr : Nat := 0x40
def rpAck : Nat := 0x80
def rpData : Nat := 0x81
def rpLend : Nat := 0x82

/-- The reply that a request would receive (R156). -/
def replyOp (op : Nat) : Nat :=
  if op = rqGet || op = rqHbmRead || op = rqHostRead then rpData
  else if op = rqSteal then rpLend
  else rpAck

/-! ### The message word (R157) -/

def mOffset (body : Bytes) : Nat := ofBytes (body.take 16) % 2 ^ 21
def mBytes (body : Bytes) : Nat := ofBytes (body.take 16) / 2 ^ 24 % 2 ^ 21
def mId (body : Bytes) : Nat := ofBytes (body.take 16) / 2 ^ 48 % 2 ^ 16
def mTarget (body : Bytes) : Nat := ofBytes (body.take 16) / 2 ^ 64 % 2 ^ 8
def mFmt (body : Bytes) : Nat := ofBytes (body.take 16) / 2 ^ 72 % 2 ^ 4

/-- The message word in bytes 16 to 31 of the head flit. -/
def msgWord (offset bytes id target fmt : Nat) : Bytes :=
  toBytes 16 (at_ 0 21 offset + at_ 24 21 bytes + at_ 48 16 id + at_ 64 8 target + at_ 72 4 fmt)

/-! ### Requests -/

/-- A request to be sent: its target, opcode, ARG, the generation a command names, its bytes from byte 16 on, whom the reply
serves, and the sender's plot. -/
structure Req where
  dst : Nat
  op : Nat
  arg : Nat
  gen : Option Nat
  body : Bytes
  ref : ReqRef
  plot : Nat
  deriving DecidableEq, Repr

/-- Key of a holder's slots. -/
def slotKey : SlotOwner → Nat
  | .tile t => t
  | .steward => 1024
  | .vault => 1025

/-- The tile whose network a holder's requests enter. -/
def slotTile : SlotOwner → Nat
  | .tile t => t
  | _ => sysTile

def Blk.slot (b : Blk) (k i : Nat) : Slot := b.opn.slots.getD (k * 32 + i) Slot.fresh
def Blk.setSlot (b : Blk) (k i : Nat) (x : Slot) : Blk := { b with opn := { b.opn with slots := b.opn.slots.put (k * 32 + i) x } }

/-- Slots of a holder that a requester has taken and that are not FREE (R119). -/
def Blk.slotsOf (b : Blk) (k : Nat) (who : Requester) : Nat :=
  ((List.range 32).filter fun i => (b.slot k i).state ≠ .free && (b.slot k i).who = who).length

/-- The cap of a requester (R119); those that R119 does not name share the 32 slots. -/
def Blk.slotCap (b : Blk) (k : Nat) : Requester → Nat
  | .mover => (b.tile k).engCtrl.capMover
  | .queue => (b.tile k).engCtrl.capQueue
  | .stealUnit => 4
  | _ => 32

/-- Slots that a requester leaves free at a tile: the 4 that the mover and the queue engine can each always obtain (R119). -/
def Blk.slotsKept (b : Blk) (k : Nat) (who : Requester) : Nat :=
  if 1024 ≤ k then 0
  else (if who = .mover then 0 else 4 - b.slotsOf k .mover) + (if who = .queue then 0 else 4 - b.slotsOf k .queue)

/-- The lowest-numbered FREE slot that the requester's cap allows (R93, R119). -/
def Blk.freeSlot (b : Blk) (k : Nat) (who : Requester) : Option Nat :=
  let free := (List.range 32).filter fun i => (b.slot k i).state = .free
  if b.slotsOf k who < b.slotCap k who && b.slotsKept k who < free.length then free.head? else none

/-- Whether the injecting router of a tile admits a request's target (R35). -/
def Blk.admits (b : Blk) (t : Nat) (who : Requester) (r : Req) : Bool :=
  who = .steward || who = .vault ||
  (b.owns r.plot r.dst && b.member.hasTile r.dst) ||
  (who = .mover && 0x20 ≤ r.op && r.op ≤ 0x27 && (b.member.isHbmTile r.dst || r.dst = sysTile)) ||
  (who = .ingress && r.op = rqDfp && b.member.isPortTile t && b.member.isPortTile r.dst) ||
  (who = .home && r.op = rqKhdr && b.member.isPortTile r.dst)

/-- What becomes of a request offered: sent, no room in INJECT, no slot, or refused under reason 0x21. -/
inductive Sent where
  | sent | noRoom | noSlot | refused
  deriving DecidableEq, Repr

/-- Offers a request (R93, R302): it waits without room or slot, is refused outside the plot, else takes its slot, carries
the placement generation and enters INJECT. -/
def Blk.sendReq (b : Blk) (o : SlotOwner) (who : Requester) (sub vc : Nat) (r : Req) : Blk × Sent :=
  let t := slotTile o
  let gen := r.gen.getD (b.plot r.plot).graft.gen.toNat
  let pkt := fun slot => mkPacket sub vc b.epoch r.dst t r.plot r.op slot false gen r.arg r.body
  if 16 < b.injectFill t sub vc + (pkt 0).flits then (b, .noRoom)
  else match b.freeSlot (slotKey o) who with
    | none => (b, .noSlot)
    | some i =>
      if !b.admits t who r then (b.drop t 0x21 none (some r.plot), .refused)
      else
        let b := b.count t evSlotTaken (some r.plot)
        let b := b.setSlot (slotKey o) i
          { state := .waiting, target := r.dst, injected := b.clk.mc, timeout := 1024 * (b.tile t).openCtrl.reqTimeout,
            who := who, ref := r.ref, plot := r.plot, sealHit := false, win := b.dmaWin r.plot }
        (b.injectPacket t sub (pkt i), .sent)

/-! ### Answers (R94, R96) -/

/-- A reply enters INJECT of its sub-network, or waits for room; one that is too late is discarded (R94). -/
def Blk.reply (b : Blk) (t : Nat) (p : Packet) (eject : Nat) : Blk :=
  let n := pSub p.hdr
  if b.tooLate eject then b.count t evReplyLate (some (pPlot p.hdr))
  else if (b.tile t).net.replyWait.any (fun x => x.1 = n) || 16 < b.injectFill t n (pVc p.hdr) + p.flits then
    b.modTile t fun x => { x with net := { x.net with replyWait := x.net.replyWait ++ [(n, p, eject)] } }
  else b.injectPacket t n p

/-- The reply to a request: on the reply sub-network, or as an admin reply. Its PLACE_GEN is the request's (log 142). -/
def Blk.replyTo (b : Blk) (t : Nat) (q : Packet) (op : Nat) (err : Bool) (arg : Nat) (body : Bytes) : Packet :=
  let h := q.hdr
  let admin := pSub h = snAdmin
  mkPacket (if admin then snAdmin else snReply) (if admin then 2 else 0) b.epoch (pSrc h) t (pPlot h)
    (if admin then pOp h + 0x80 else op) (pSlot h) err (pGen h) arg body

/-- Answers a request (R94). -/
def Blk.answerReq (b : Blk) (t : Nat) (q : Packet × Nat) (arg : Nat) (body : Bytes) : Blk :=
  b.reply t (b.replyTo t q.1 (replyOp (pOp q.1.hdr)) false arg body) q.2

/-- Answers a request with an error code (R96). -/
def Blk.errReq (b : Blk) (t : Nat) (q : Packet × Nat) (code : Nat) : Blk :=
  b.reply t (b.replyTo t q.1 (replyOp (pOp q.1.hdr)) true code []) q.2

/-! ### Packets handed on by REQUEST_EJECT -/

/-- Takes the oldest packet of the inbox that a test admits. -/
def takeFirst {α : Type} (p : α → Bool) : List α → Option (α × List α)
  | [] => none
  | x :: l => if p x then some (x, l) else (takeFirst p l).map fun r => (r.1, x :: r.2)

/-- The oldest packet of a tile's inbox whose opcode the test admits, taken from it. -/
def Blk.takeInbox (b : Blk) (t : Nat) (p : Nat → Bool) : Option ((Packet × Nat) × Blk) :=
  match takeFirst (fun (x : Packet × Nat) => p (pOp x.1.hdr)) (b.tile t).net.inbox with
  | none => none
  | some (q, l) => some (q, b.modTile t fun x => { x with net := { x.net with inbox := l } })

end Sys2Proof.Machine
end

