-- ==== Sys2Proof/Machine/Rings.lean ====
section
/-! DEFINITION. Rings, their entries, publication, fallback and RD (R159–R167, R378). -/
namespace Sys2Proof.Machine

/-! ### Entry headers (R161) -/

def hBytes (h : BitVec 512) : Nat := fld h 64 21
def hVoid (h : BitVec 512) : Bool := flag h 16
def hDone (h : BitVec 512) : Bool := flag h 17
def hSkip (h : BitVec 512) : Bool := flag h 20
def hChkOk (h : BitVec 512) : Bool := fld h 504 8 = (crc8 h 504).toNat

/-- Cells of an entry. -/
def hCells (h : BitVec 512) : Nat := 1 + ceilDiv (hBytes h) 64

/-- HCHK recomputed. -/
def rehead (h : BitVec 512) : BitVec 512 := setFld h 504 8 (crc8 h 504).toNat

/-- The header of a message entry before publication. -/
def msgHeader (seq : Nat) (fallback : Bool) (handler src id bytes arg gen op plot : Nat) : BitVec 512 :=
  rehead (BitVec.ofNat 512 (at_ 0 16 seq + atB 18 fallback + at_ 24 8 handler + at_ 32 10 src + at_ 48 16 id +
    at_ 64 21 bytes + at_ 96 32 arg + at_ 128 16 gen + at_ 192 8 op + at_ 200 8 plot))

/-- A skip header over e cells (R161, R162). -/
def skipHeader (e : Nat) : BitVec 512 := rehead (BitVec.ofNat 512 (2 ^ 20 + at_ 64 21 (64 * (e - 1))))

/-! ### Pointers -/

/-- (a − b) mod 2·SIZE. -/
def Queue.dist (q : Queue) (a c : Nat) : Nat := (a + 2 * q.size - c) % (2 * q.size)

/-- The byte address of the cell at a pointer. -/
def Queue.addr (q : Queue) (ptr : Nat) : Nat := (q.base + ptr % q.size) * 64

/-- A pointer moved on. -/
def Queue.plus (q : Queue) (ptr n : Nat) : Nat := (ptr + n) % (2 * q.size)

/-- The header at a pointer. -/
def Blk.header (b : Blk) (t : Nat) (q : Queue) (ptr : Nat) : BitVec 512 :=
  BitVec.ofNat 512 (ofBytes (b.readSram t (q.addr ptr) 64))

def Blk.putHeader (b : Blk) (t : Nat) (q : Queue) (ptr : Nat) (h : BitVec 512) : Blk :=
  b.writeSram t (q.addr ptr) (toBytes 64 h.toNat)

/-- Changes a queue of a tile. -/
def Blk.modQueue (b : Blk) (t i : Nat) (f : Queue → Queue) : Blk := b.modTile t fun x => x.modQueue i f

/-! ### Reservation (R162) -/

/-- Reserves c cells for a message with the header given by its SEQ; none without room. The pointer of the entry. -/
def Blk.reserve (b : Blk) (t i c : Nat) (handler : Option Handler) (hdr : Nat → BitVec 512) (complete : Bool) : Option (Nat × Blk) :=
  let q := (b.tile t).queue i
  let e := q.size - q.rsv % q.size
  let need := if c ≤ e then c else e + c
  if q.size < q.dist q.rsv q.rd + need then none
  else
    let at' := if c ≤ e then q.rsv else q.plus q.rsv e
    let skip : List OpenEntry := if c ≤ e then [] else [{ ptr := q.rsv, cells := e, complete := true, kind := .skip }]
    let b := if c ≤ e then b else b.putHeader t q q.rsv (skipHeader e)
    let b := b.putHeader t q at' (hdr q.seqNext)
    some (at', b.modQueue t i fun q =>
      { q with seqNext := (q.seqNext + 1) % 65536, rsv := q.plus at' c,
               open_ := q.open_ ++ skip ++ [{ ptr := at', cells := c, complete := complete, kind := .message handler }] })

/-! ### Publication (R163) -/

/-- The bin of a delay (R378). -/
def histBin (d : Nat) : Nat := if d < 16 then 0 else min 15 (Nat.log2 d - 3)

/-- A histogram of a tile takes a delay; bins saturate (R378). -/
def Tile.histAdd (x : Tile) (row d : Nat) : Tile :=
  let k := row * 16 + histBin d
  { x with ob := { x.ob with hist := x.ob.hist.put k (BitVec.ofNat 32 (min (2 ^ 32 - 1) ((x.ob.hist.getD k 0#32).toNat + 1))) } }

/-- Publishes one complete entry: FRAME, LAUNCH and the handler's launch (R112, R161, R163). -/
def Blk.publish (b : Blk) (t i : Nat) (e : OpenEntry) : Blk :=
  let q := (b.tile t).queue i
  let h := b.header t q e.ptr
  let h := setFld h 144 48 b.clk.frame.toNat
  match e.kind with
  | .message handler =>
    let b := b.putHeader t q e.ptr (rehead (if handler.isSome then setFld h 19 1 1 else h))
    let b := (b.modQueue t i fun q => { q with pubs := q.pubs ++ [{ ptr := e.ptr, cells := e.cells, mc := b.clk.mc }] }).count t
      evPublished
    match handler with
    | none => b
    | some hd =>
      let plot := fld h 200 8
      b.modTile t fun x => { x with es := { x.es with handlerWait := x.es.handlerWait ++
        [{ plot := plot, list := hd.list, base := q.addr e.ptr, limit := hd.cmds, statusAt := none,
           handler := some (i, q.addr e.ptr, hd.freeOnEnd) }] } }
  | _ => b.putHeader t q e.ptr (rehead h)

/-- WR advances over the complete entries from WR on. -/
def Blk.publishGo (b : Blk) (t i : Nat) : List OpenEntry → Blk
  | [] => b.modQueue t i fun q => { q with open_ := [] }
  | e :: es =>
    if e.complete then ((b.publish t i e).modQueue t i fun q => { q with wr := q.plus e.ptr e.cells }).publishGo t i es
    else b.modQueue t i fun q => { q with open_ := e :: es }

/-! ### RD (R160, R164) -/

/-- RD moves to a pointer: the published entries it passes leave with their delay (R378). -/
def Blk.rdTo (b : Blk) (t i new : Nat) : Blk :=
  let q := (b.tile t).queue i
  let gone := fun (p : Published) => q.dist q.wr new < q.dist q.wr p.ptr
  let b := b.each (q.pubs.filter gone) fun b p => b.modTile t fun x => x.histAdd i (b.clk.mc - p.mc)
  b.modQueue t i fun q => { q with rd := new, pubs := q.pubs.filter fun p => !gone p }

/-- RD passes every following entry with DONE, SKIP or VOID set; a damaged header stops it (R164). -/
def Blk.rdAdvance (b : Blk) (t i : Nat) : Nat → Blk
  | 0 => b
  | n + 1 =>
    let q := (b.tile t).queue i
    let h := b.header t q q.rd
    if q.rd = q.wr || !hChkOk h then b
    else if hDone h || hSkip h || hVoid h then (b.rdTo t i (q.plus q.rd (hCells h))).rdAdvance t i n
    else b

/-- Whether RD takes a written value (R160). -/
def Queue.rdTakes (q : Queue) (new : Nat) : Bool := new < 2 * q.size && q.dist q.wr new ≤ q.dist q.wr q.rd

/-- RD written by the driver: reservations and pops of this mc come first (R174). -/
def Blk.writeRd (b : Blk) (t i new : Nat) : Blk := b.note (.rd t i new)

/-- A written RD is tested, and taken or counted, as the mc ends (R160, R174). -/
def Blk.rdActs (b : Blk) (t i new : Nat) : Blk :=
  if ((b.tile t).queue i).rdTakes new then b.rdTo t i new else b.count t evQueueRdRefused

/-- RD as it reads: a written value that it can take, else its own (R5, R160). -/
def Blk.rdSeen (b : Blk) (t i : Nat) : Nat :=
  let q := (b.tile t).queue i
  (b.latest fun n => match n with
    | .rd t' i' new => if t' = t ∧ i' = i ∧ q.rdTakes new then some new else none
    | _ => none).getD q.rd

/-- DONE is set in the entry of a handler's message at a byte address, and RD advances where it may (R164, R165). -/
def Blk.setDone (b : Blk) (t i addr : Nat) : Blk :=
  let q := (b.tile t).queue i
  if !q.bound || q.combine || !(q.pubs.any fun p => q.addr p.ptr = addr) then b
  else
    let h := BitVec.ofNat 512 (ofBytes (b.readSram t addr 64))
    let b := b.writeSram t addr (toBytes 64 (rehead (setFld h 17 1 1)).toNat)
    if q.addr q.rd = addr then b.rdAdvance t i (2 * q.size) else b

/-! ### The fallback queue (R166) -/

/-- Whether the fallback holds an entry for a queue. -/
def Tile.fbHolds (x : Tile) (i : Nat) : Bool := x.ms.fallback.any fun f => f.queue = i

/-- The oldest fallback entry of a queue drains into its ring as soon as it finds room (R166). -/
def Blk.fbDrain (b : Blk) (t i : Nat) : Blk :=
  let x := b.tile t
  let q := x.queue i
  if !q.bound || q.combine then b
  else match takeFirst (fun (f : FbEntry) => f.queue = i) x.ms.fallback with
    | none => b
    | some (f, rest) =>
      match b.reserve t i (hCells f.hdr) f.handler (fun seq => rehead (setFld f.hdr 0 16 seq)) true with
      | none => b
      | some (p, b) =>
        let b := b.writeSram t (q.addr p + 64) (f.data.take (hBytes f.hdr))
        (b.modTile t fun x => { x with ms := { x.ms with fallback := rest } }).note (.drained t i)

/-- Whether new messages for a queue go to the fallback: it holds an entry for the queue, or held one in this mc (R166, R174). -/
def Blk.fbFirst (b : Blk) (t i : Nat) : Bool := (b.tile t).fbHolds i || b.noted (.drained t i)

end Sys2Proof.Machine
end

