-- ==== Sys2Proof/Machine/Egress.lean ====
section
/-! DEFINITION. The egress buffer, its queues, scheduling, gates, shapers, numbering and transmission (R237–R244, R299). -/
namespace Sys2Proof.Machine

/-! ### Pools (R299) -/

/-- The pool of a TYPE: 0 TRANSIT, 1 COLL, 2 REQ, 3 REPLY, 4 QUORUM. -/
def poolOf (type : Nat) : Nat := min 4 type

/-- Cells of a pool. -/
def Pools.size (p : Pools) : Nat → Nat
  | 0 => 8192 - 64 - p.req - p.reply - p.coll
  | 1 => p.coll
  | 2 => p.req
  | 3 => p.reply
  | _ => 64

/-- Cells that a DFP reserves: LEN + 2 (R237). -/
def EgDfp.need (d : EgDfp) : Nat := fLen d.hdr + 2

/-- Every DFP that a port's buffer holds, those in transmission included. -/
def Egress.held (e : Egress) : List EgDfp :=
  e.queues.flatMap (fun q => q.2.dfps) ++ (e.tx.map (·.1)).toList ++ (e.txB.map (·.1)).toList

/-- Cells in use of a pool. -/
def Egress.fill (e : Egress) (pool : Nat) : Nat := ((e.held.filter fun d => d.pool = pool).map EgDfp.need).sum

/-- Depth of a queue in cells. -/
def EgQueue.depth (q : EgQueue) : Nat := (q.dfps.map EgDfp.need).sum

/-- LOSSLESS of a pool and its priority: REQ 5, REPLY 6, TRANSIT 4. -/
def Pools.lossy (p : Pools) (pool : Nat) : Bool :=
  match pool with
  | 0 => !flag p.lossless 2
  | 2 => !flag p.lossless 0
  | 3 => !flag p.lossless 1
  | _ => true
def pausePrio : Nat → Nat
  | 0 => 4
  | 2 => 5
  | _ => 6

/-- Pause of a priority at every port: asserted when a lossless pool reaches its size minus HEADROOM, released when all are at
size minus 2 · HEADROOM or below (R299). -/
def Blk.pauseBit (b : Blk) (pool : Nat) : Bool :=
  let ps := b.ports.filter fun p => !p.2.pools.lossy pool
  if ps.any fun p => p.2.pools.size pool - p.2.pools.headroom ≤ p.2.eg.fill pool then true
  else if ps.all fun p => p.2.eg.fill pool ≤ p.2.pools.size pool - 2 * p.2.pools.headroom then false
  else flag b.traf.pauseTx (pausePrio pool)

/-- The pause that the block asserts. -/
def Blk.pause (b : Blk) : Blk :=
  let bits := BitVec.ofNat 8 (atB 4 (b.pauseBit 0) + atB 5 (b.pauseBit 2) + atB 6 (b.pauseBit 3))
  { b with traf := { b.traf with pauseTx := bits } }

/-! ### Reports of a port -/

def Blk.portDrop (b : Blk) (p reason plot : Nat) : Blk := b.drop (b.member.portTile p) reason (some p) (some plot)

def Blk.modEg (b : Blk) (p : Nat) (f : Egress → Egress) : Blk := b.modPort p fun x => { x with eg := f x.eg }

/-! ### Enqueue (R237) -/

/-- Which output a queue of a port serves: pb for queues 32 to 63 in SPLIT mode (R216). -/
def Port.isB (p : Port) (q : Nat) : Bool := p.ctrl.mode = 2 && 32 ≤ q

/-- The later of two 32-bit tags, compared modulo 2^32 (R239). -/
def laterTag (a c : BitVec 32) : BitVec 32 := if (a - c).toNat < 2 ^ 31 then a else c

/-- INC of a queue (R239). -/
def EgQueue.inc (q : EgQueue) : BitVec 32 := BitVec.ofNat 32 (65536 / max 1 q.weight)

/-- A queue takes a DFP at its end; one that was empty takes its finish tag (R239). -/
def EgQueue.push (q : EgQueue) (v : BitVec 32) (d : EgDfp) : EgQueue :=
  let q' := { q with dfps := q.dfps ++ [d], tag := if q.dfps.isEmpty then laterTag v q.tag + q.inc else q.tag }
  { q' with largest := max q.largest q'.depth }

/-- Enqueues a DFP or drops it: 0x5F, 0x5C for a port out of service, 0x58, 0x59 (R221, R237, R269, R299). -/
def Blk.enqueue (b : Blk) (p : Nat) (d : EgDfp) : Blk :=
  let x := b.port p
  let q := b.egQueue p d.queue
  if (b.plot d.plot).state = .teardown then b.portDrop p 0x5F d.plot
  else if !(x.state = .up || x.state = .draining) then b.portDrop p 0x5C d.plot
  else if x.pools.size d.pool < x.eg.fill d.pool + d.need || q.qmax < q.depth + d.need then b.portDrop p 0x58 d.plot
  else if d.color = 1 && q.ylim < q.depth then b.portDrop p 0x59 d.plot
  else (b.modEgQueue p d.queue fun q => q.push (if x.isB d.queue then x.eg.vB else x.eg.v) { d with enq := b.clk.mc }).pause

/-! ### The end of a frame (R31, R32, R224) -/

/-- The keys of a plot as the cipher unit of a port holds them: those of the plots whose keys are admitted there (R20). -/
def Blk.unitKeys (b : Blk) (p plot : Nat) : PlotKeys :=
  let k := (b.plot plot).keys
  if b.traf.sieve.any fun x => svValid x.2 && svPlot x.2 = plot && svPort x.2 p then k
  else { k with phase0 := .empty, phase1 := .empty, key0 := none, key1 := none }

/-- A DFP as it is put on the wire. -/
def Blk.wire (b : Blk) (p : Nat) (d : EgDfp) : Bytes :=
  let x := b.port p
  let data := d.cells.flatten.take (fBytes d.hdr)
  let body := (b.unitKeys p d.plot).transmit d.hdr data
  x.encap (x.isB d.queue) (fClass d.hdr) d.pool (toBytes 32 d.hdr.toNat ++ body)

/-- A frame leaves: whole, or ended with an error (R237, R394). -/
def Blk.emit (b : Blk) (p : Nat) (d : EgDfp) (err : Bool) : Blk :=
  let t := b.member.portTile p
  let xs := b.wire p d
  let b := b.modEg p fun e => { e with sent := e.sent ++ [{ bytes := xs, err := err }] }
  if err then b
  else (b.count t evTxFrames (some d.plot)).countN t evTxBytes (xs.length / 64) (some d.plot)

/-- The DFP in transmission on an output of a port. -/
def Egress.txOf (e : Egress) (halfB : Bool) : Option (EgDfp × Nat) := if halfB then e.txB else e.tx
def Egress.setTx (e : Egress) (halfB : Bool) (v : Option (EgDfp × Nat)) : Egress :=
  if halfB then { e with txB := v } else { e with tx := v }

/-- A transmission that cannot go on ends with an error (R237, R394). -/
def Blk.abortTx (b : Blk) (p : Nat) (halfB : Bool) : Blk :=
  match (b.port p).eg.txOf halfB with
  | none => b
  | some (d, _) => (((b.modEg p fun e => e.setTx halfB none).emit p d true).portDrop p 0x5B d.plot).pause

/-! ### Landed cells (R209, R237) -/

/-- Whether a DFP is the one that a cell of a furrow continues. -/
def EgDfp.takes (d : EgDfp) (src furrow plot : Nat) : Bool :=
  d.src = src && d.furrow = furrow && d.plot = plot && !d.whole && !d.broken

/-- A DFP takes its next payload cell. -/
def EgDfp.addCell (d : EgDfp) (xs : Bytes) : EgDfp :=
  let cs := d.cells ++ [xs]
  { d with cells := cs, whole := cs.length = d.due }

/-- A payload cell of a sown DFP: the next one joins it, a later one or a new envelope shows that one is missing (R237):
before transmission the DFP is discarded, in transmission the frame ends with an error. -/
def Blk.cellFor (b : Blk) (p src furrow plot : Nat) (next : Option (Nat × Bytes)) : Blk :=
  let e := (b.port p).eg
  let tx : Bool → Bool := fun halfB => match e.txOf halfB with
    | some (d, _) => d.takes src furrow plot
    | none => false
  let fits : EgDfp → Bool := fun d => match next with
    | some (i, _) => i = d.cells.length + 1
    | none => false
  let add := fun (d : EgDfp) => match next with
    | some (_, xs) => d.addCell xs
    | none => d
  if tx false || tx true then
    let halfB := !tx false
    match e.txOf halfB with
    | none => b
    | some (d, n) =>
      if fits d then
        let d := add d
        if d.whole then ((b.modEg p fun e => e.setTx halfB none).emit p d false).pause
        else b.modEg p fun e => e.setTx halfB (some (d, n + 1))
      else if next.any (fun x => x.1 ≤ d.cells.length) then b
      else b.abortTx p halfB
  else
    match e.queues.find? fun q => q.2.dfps.any fun d => d.takes src furrow plot with
    | none => b
    | some (q, x) =>
      match x.dfps.find? fun d => d.takes src furrow plot with
      | none => b
      | some d =>
        if fits d then b.modEgQueue p q fun x => { x with dfps := x.dfps.map fun y => if y = d then add y else y }
        else if next.any (fun x => x.1 ≤ d.cells.length) then b
        else ((b.modEgQueue p q fun x => { x with dfps := x.dfps.filter fun y => y ≠ d }).portDrop p 0x5A d.plot).pause

/-- A DFP as an envelope announces it (R33, R237). -/
def ofEnvelope (src furrow plot : Nat) (marker : Bool) (xs : Bytes) : EgDfp :=
  let h : BitVec 256 := BitVec.ofNat 256 (ofBytes (xs.take 32))
  let m := (xs.getD 33 0#8).toNat
  { hdr := h, inPort := (xs.getD 32 0#8).toNat, plot := plot, color := m % 4, queue := m / 4, half := false,
    pool := poolOf (fType h), src := src, furrow := furrow, cells := [], due := fLen h + 1, broken := false, whole := false,
    marker := marker, enq := 0 }

/-- A cell of a train without an envelope (R209): the trains of one furrow are put together and handed on when whole. -/
def KerSt.trainCell (k : KerSt) (src furrow plot : Nat) (c : Cell) : KerSt :=
  let same := fun (x : Train) => x.src = src && x.furrow = furrow && x.plot = plot
  let old := if cFirst c.hdr then [] else ((k.trainAsm.find? same).map (·.data)).getD []
  let tr : Train := { src := src, furrow := furrow, plot := plot, data := old ++ c.data.take (cFill c.hdr + 1) }
  let asm := k.trainAsm.filter fun x => !same x
  if cLast c.hdr then { k with trainAsm := asm, trains := k.trains ++ [tr] } else { k with trainAsm := asm ++ [tr] }

/-- One landed cell of a PORT furrow (R33, R209, R237). -/
def Blk.rxCell (b : Blk) (p src furrow plot : Nat) (c : Cell) : Blk :=
  let t := b.member.portTile p
  if cKind c.hdr = 1 || cKind c.hdr = 2 then
    (b.cellFor p src furrow plot none).enqueue p (ofEnvelope src furrow plot (cKind c.hdr = 2) c.data)
  else if (cIndex c.hdr = 0 && cFirst c.hdr) ||
      (b.tile t).ks.trainAsm.any (fun x => x.src = src && x.furrow = furrow && x.plot = plot) then
    b.modTile t fun x => { x with ks := x.ks.trainCell src furrow plot c }
  else b.cellFor p src furrow plot (some (cIndex c.hdr, c.data))

/-- Every landed cell of a port is taken, in order. -/
def Blk.egressEnqueue (b : Blk) (p : Nat) : Blk :=
  let cells := (b.port p).eg.rx
  b.each cells (fun b x => b.rxCell p x.1 x.2.1 x.2.2.1 x.2.2.2) |>.modEg p fun e => { e with rx := e.rx.drop cells.length }

/-! ### Shapers and gates (R240–R242) -/

/-- TOKENS now: RATE each mc, at most BURST · 2^16; kept while SHAPE_EN = 0 (R240, R241). -/
def EgQueue.tokensNow (q : EgQueue) (mc : Nat) : Int :=
  if q.shapeEn then min (2 ^ 16 * q.burst) (q.tokens + q.rate * (mc - q.tokensAt)) else q.tokens

/-- The end of the merged interval of a queue's gates that holds an offset, up to the end of the frame. -/
def gateReach (gates : List Gate) (q : Nat) : Nat → Nat → Nat
  | 0, u => u
  | n + 1, u =>
    match gates.find? fun g => g.valid && flag g.qmask q && g.start ≤ u && u < g.stop with
    | some g => gateReach gates q n g.stop
    | none => u

/-- Whether a gated queue may start a packet (R242). -/
def Blk.gateOpen (b : Blk) (p q : Nat) : Bool :=
  let t := b.clk.offset
  t + (b.port p).ctrl.windbreak < min (8 * b.slots) (gateReach ((b.port p).eg.gates.map (·.2)) q 17 t)

/-! ### Scheduling (R239, R243) -/

/-- PKT_NUM key of a plot and its transmit phase at the lead of a port's group. -/
def pktKey (plot : Nat) (phase : Bool) : Nat := plot * 2 + bit phase

def Blk.pktCount (b : Blk) (p plot : Nat) : Nat :=
  (b.port (b.leadOf p)).eg.pktNum.getD (pktKey plot (b.plot plot).keys.tx) 0

/-- Whether a member of the group with a higher number has taken a PKT_NUM of the count in this mc: the values of one mc go in
ascending port order, so a lower one starts in a later mc (R243, log 168). -/
def Blk.outOfTurn (b : Blk) (p plot : Nat) : Bool :=
  let lead := b.leadOf p
  let key := pktKey plot (b.plot plot).keys.tx
  b.mcLog.any fun n => match n with
    | .started l k q => l = lead && k = key && p < q
    | _ => false

/-- Whether a head DFP may start: present as far as it must be, its pool not paused, its count not ended, its transmit
phase able to encipher (R226, R232, R237, R243, R278, R299). -/
def Blk.startable (b : Blk) (p : Nat) (d : EgDfp) : Bool :=
  let x := b.port p
  let k := b.unitKeys p d.plot
  (d.whole || (!d.cells.isEmpty && !x.ctrl.udpCsum)) &&
  !((d.pool = 0 || d.pool = 2 || d.pool = 3) && flag x.pools.pfcRx (pausePrio d.pool)) &&
  b.pktCount p d.plot < 2 ^ 56 - 1 && (!k.sec.txEnc || (k.phase k.tx).receives)

/-- Whether a queue can send now. -/
def Blk.canSend (b : Blk) (p q : Nat) (halfB : Bool) : Bool :=
  let x := b.port p
  let e := b.egQueue p q
  let quorum := quorumQueue x.ctrl.mode q
  x.isB q = halfB &&
  (match e.dfps with
   | [] => false
   | d :: _ => b.startable p d && !b.outOfTurn p d.plot) &&
  (quorum || ((!e.gated || b.gateOpen p q) && (!e.shapeEn || 0 ≤ e.tokensNow b.clk.mc)))

/-- Priority of a queue; the quorum's queues have 3 (R293). -/
def Blk.prioOf (b : Blk) (p q : Nat) : Nat :=
  if quorumQueue (b.port p).ctrl.mode q then 3 else (b.egQueue p q).prio

/-- The queue served next: highest PRIO, then lowest finish tag, then lowest number (R239). -/
def Blk.pick (b : Blk) (p : Nat) (halfB : Bool) : Option Nat :=
  ((List.range 64).filter fun q => b.canSend p q halfB).foldl
    (fun a q => match a with
      | none => some q
      | some c =>
        let x := b.egQueue p q
        let y := b.egQueue p c
        if b.prioOf p c < b.prioOf p q then some q
        else if b.prioOf p q < b.prioOf p c then a
        else if y.tag ≠ x.tag && laterTag y.tag x.tag = y.tag then some q else a) none

/-- The header as it leaves: VER, reserved fields zero, color, key phase, packet number (R29, R31, R235, R243, R279). -/
def Blk.txHdr (b : Blk) (p : Nat) (d : EgDfp) : BitVec 256 :=
  let k := (b.plot d.plot).keys
  let h := setFld (setFld (setFld (setFld d.hdr 0 4 1) 11 5 0) 46 2 0) 54 2 0
  let h := setFld h 38 2 d.color
  let h := if k.sec.txEnc then setFld (setFld h 8 1 1) 9 1 (bit k.tx) else setFld h 8 1 0
  reDfp (setFld h 128 64 (2 ^ 56 * b.leadOf p + b.pktCount p d.plot))

/-- A member takes the next PKT_NUM; at 2^56 − 1 the group stops and says so once (R243). -/
def Blk.takePktNum (b : Blk) (p plot : Nat) : Blk :=
  let lead := b.leadOf p
  let phase := (b.plot plot).keys.tx
  let n := b.pktCount p plot + 1
  let b := b.modEg lead fun e => { e with pktNum := e.pktNum.put (pktKey plot phase) n }
  if n = 2 ^ 56 - 1 then
    (b.modEg lead fun e => { e with pktEnd := e.pktEnd ++ [pktKey plot phase] }).raiseS 0x45 plot (some (b.member.portTile lead))
      lead (bit phase)
  else b

/-- The head DFP of a queue starts on its output (R239, R240, R243, R244, R380). -/
def Blk.txStart (b : Blk) (p q : Nat) (halfB : Bool) : Blk :=
  match (b.egQueue p q).dfps with
  | [] => b
  | d :: ds =>
    let t := b.member.portTile p
    let v := (b.egQueue p q).tag
    let d := { d with hdr := b.txHdr p d }
    let b := (b.takePktNum p d.plot).note (.started (b.leadOf p) (pktKey d.plot (b.plot d.plot).keys.tx) p)
    let b := b.modEgQueue p q fun x =>
      { x with dfps := ds, tag := if ds.isEmpty then x.tag else x.tag + x.inc,
               tokens := x.tokensNow b.clk.mc - (if x.shapeEn then 2 ^ 16 else 0), tokensAt := b.clk.mc }
    let b := b.modEg p fun e => if halfB then { e with vB := v } else { e with v := v }
    let b := b.modTile t fun x => x.histAdd (16 + q) (b.clk.mc - d.enq)
    let b := if d.marker then
        b.traceMark t 1 (ofBytes (d.cells.flatten.take 4) + 2 ^ 32 * fDst d.hdr) else b
    if d.whole then (b.emit p d false).pause else b.modEg p fun e => e.setTx halfB (some (d, d.cells.length))

/-- A free output of a port that is not OFF picks the next queue (R216, R239). -/
def Blk.egressSchedule (b : Blk) (p : Nat) (halfB : Bool) : Blk :=
  let x := b.port p
  if !(x.state = .up || x.state = .draining) || x.ctrl.mode = 0 || (x.eg.txOf halfB).isSome || (halfB && x.ctrl.mode ≠ 2) then b
  else match b.pick p halfB with
    | none => b
    | some q => b.txStart p q halfB

def execEgressEnqueue (port : Nat) (s : State) : Out := s.mesh (.egressEnqueue port) (·.egressEnqueue port)
def execEgressSchedule (port : Nat) (halfB : Bool) (s : State) : Out :=
  s.mesh (.egressSchedule port halfB) (·.egressSchedule port halfB)
def execTxUnderrun (port : Nat) (halfB : Bool) (s : State) : Out := s.mesh (.txUnderrun port halfB) (·.abortTx port halfB)

/-! ### Discards (R221, R268) -/

/-- Every queued DFP of a port that a test admits is discarded under a reason. -/
def Blk.discard (b : Blk) (p reason : Nat) (test : Nat → EgDfp → Bool) : Blk :=
  (b.each (b.port p).eg.queues fun b x =>
    let gone := x.2.dfps.filter (test x.1)
    let b := b.modEgQueue p x.1 fun y => { y with dfps := y.dfps.filter fun d => !test x.1 d }
    b.each gone fun b d => b.portDrop p reason d.plot).pause

/-- A pause received on a priority (R299). -/
def Blk.pfcReceive (b : Blk) (p prio : Nat) (on : Bool) : Blk :=
  if prio = 4 || prio = 5 || prio = 6 then
    let m := BitVec.ofNat 8 (2 ^ prio)
    b.modPort p fun x => { x with pools := { x.pools with pfcRx := if on then x.pools.pfcRx ||| m else x.pools.pfcRx &&& ~~~m } }
  else b
def execPfcReceive (port prio : Nat) (pause : Bool) (s : State) : Out :=
  s.mesh (.pfcReceive port prio pause) (·.pfcReceive port prio pause)

end Sys2Proof.Machine
end

