-- ==== Sys2Proof/Machine/Mover.lean ====
section
/-! DEFINITION. The mover's commands but for move.emit (R106, R396–R398). -/
namespace Sys2Proof.Machine

/-! ### Copies inside the tile -/

/-- move.copy: 1 to 1,572,864 bytes between regions that do not overlap (R106). -/
def runCopy (t : Nat) (b : Blk) (s : Sheaf) : Blk × Ran :=
  let c := s.cmd
  let n := kLen c
  b.ranOf do
    must (1 ≤ n && n ≤ sramBytes) stBadOperand
    let a ← b.sramAt t s.base (kOpa c) n 1
    let d ← b.sramAt t s.base (kOpb c) n 1
    must (a + n ≤ d || d + n ≤ a) stBadOperand
    let (xs, b) ← b.operand t a n
    .ok (b.writeSram t d xs, .fin stOk 0)
def execMoveCopy (tile : Nat) (s : State) : Out := s.mesh (.moveCopy tile) (·.runOrSteal tile 0 0x01 (runCopy tile))

/-- move.fill: a 32-bit pattern repeated (R106). -/
def runFill (t : Nat) (b : Blk) (s : Sheaf) : Blk × Ran :=
  let c := s.cmd
  let n := kLen c
  b.ranOf do
    must (n % 4 = 0) stBadOperand
    let d ← b.sramAt t s.base (kOpb c) n 1
    .ok (b.writeSram t d ((List.range (n / 4)).flatMap fun _ => toBytes 4 (kArg c)), .fin stOk 0)
def execMoveFill (tile : Nat) (s : State) : Out := s.mesh (.moveFill tile) (·.runOrSteal tile 0 0x02 (runFill tile))

/-! ### HBM and host transfers -/

/-- The requests of an HBM transfer: offset and units, two units where one quarter serves both, else one (R396, R397). -/
def Blk.hbmParts (b : Blk) (plot : Nat) : Nat → Nat → Nat → List (Nat × Nat)
  | 0, _, _ => []
  | f + 1, off, u =>
    if u = 0 then []
    else
      let two : Bool := 2 ≤ u && (match b.hbmPlace plot off, b.hbmPlace plot (off + 1) with
        | some x, some y => x.1 = y.1 && quarterOfAddr x.2 = quarterOfAddr y.2
        | _, _ => false)
      let n := if two then 2 else 1
      (off, n) :: b.hbmParts plot f (off + n) (u - n)

/-- The requests of a host transfer. -/
def hostParts : Nat → Nat → Nat → List (Nat × Nat)
  | 0, _, _ => []
  | f + 1, off, u => if u = 0 then [] else (off, min 2 u) :: hostParts f (off + min 2 u) (u - min 2 u)

/-- Whether an OP of the mover goes to the host, and whether it writes. -/
def toHost (op : Nat) : Bool := op = 0x05 || op = 0x06
def isWriteOp (op : Nat) : Bool := op = 0x04 || op = 0x06

/-- The requests of a mover transfer. -/
def Blk.moveParts (b : Blk) (s : Sheaf) : List (Nat × Nat) :=
  let u := kLen s.cmd / 64
  if toHost (kOp s.cmd) then hostParts u (kOpc s.cmd) u else b.hbmParts s.plot u (kOpc s.cmd) u

/-- move.hbm.read, move.hbm.write, move.host.read and move.host.write start (R103, R104, R106). -/
def runTransfer (t : Nat) (b : Blk) (s : Sheaf) : Blk × Ran :=
  let c := s.cmd
  let n := kLen c
  b.ranOf do
    must (n % 64 = 0 && n ≤ 1048576) stBadOperand
    let a ← b.sramAt t s.base (kOpa c) n 64
    must (if toHost (kOp c) then b.inHost s.plot (kOpc c) n else b.inHbm s.plot (kOpc c) n) stPlot
    let (_, b) ← b.operand t a (if isWriteOp (kOp c) then n else 0)
    .ok (b, .issue (b.moveParts s).length)
def execMoveHbmRead (tile : Nat) (s : State) : Out := s.mesh (.moveHbmRead tile) (·.run tile 0 0x03 (runTransfer tile))
def execMoveHbmWrite (tile : Nat) (s : State) : Out := s.mesh (.moveHbmWrite tile) (·.run tile 0 0x04 (runTransfer tile))
def execMoveHostRead (tile : Nat) (s : State) : Out := s.mesh (.moveHostRead tile) (·.run tile 0 0x05 (runTransfer tile))
def execMoveHostWrite (tile : Nat) (s : State) : Out := s.mesh (.moveHostWrite tile) (·.run tile 0 0x06 (runTransfer tile))

/-- The tile that takes an HBM request at an offset: the attach tile of its quarter (R396, R397). -/
def Blk.hbmTarget (b : Blk) (plot off : Nat) : Nat :=
  match b.hbmPlace plot off with
  | some x => b.member.attachOf x.1 (quarterOfAddr x.2)
  | none => (b.member.hbmTiles).headD 0

/-- Request k of a mover command (R397, R398). -/
def Blk.moverReq (b : Blk) (t : Nat) (s : Sheaf) : Option Req :=
  let c := s.cmd
  let ref := ReqRef.sheaf 0 s.sid s.issued
  if kOp c = 0x0A then
    some { dst := kOpb c % 1024, op := rqStream, arg := 0, gen := none, ref := ref, plot := s.plot,
           body := toBytes 4 (kOpc c) ++ toBytes 4 (kLen c) ++ toBytes 2 (kFurrow c) ++ toBytes 1 (kXopt c % 2) ++
             toBytes 1 0 ++ toBytes 4 (kArg c) }
  else
    match (b.moveParts s)[s.issued]? with
    | none => none
    | some (off, n) =>
      let host := toHost (kOp c)
      let data := if isWriteOp (kOp c) then
          b.readSram t (sramAddr s.base (kOpa c) + (off - kOpc c) * 64) (n * 64) else []
      some { dst := if host then sysTile else b.hbmTarget s.plot off,
             op := if kOp c = 0x03 then rqHbmRead else if kOp c = 0x04 then rqHbmWrite
               else if kOp c = 0x05 then rqHostRead else rqHostWrite,
             arg := off, gen := none, body := toBytes 1 (n - 1) ++ List.replicate 15 0#8 ++ data, ref := ref, plot := s.plot }

/-- Where the data of read request k go: the SRAM address and bytes. -/
def Blk.moverDest (b : Blk) (s : Sheaf) (k : Nat) : Option (Nat × Nat) :=
  match (b.moveParts s)[k]? with
  | none => none
  | some (off, n) => some (sramAddr s.base (kOpa s.cmd) + (off - kOpc s.cmd) * 64, n * 64)

/-- move.hbm.stream starts: 1 to 16,777,216 cells, to an HBM attach tile or a tile of the plot (R104, R106). -/
def runHbmStream (t : Nat) (b : Blk) (s : Sheaf) : Blk × Ran :=
  let c := s.cmd
  let dst := kOpb c % 1024
  if !(b.member.isHbmTile dst || (b.owns s.plot dst && b.member.hasTile dst)) then
    (b.drop t 0x21 none (some s.plot), .fin stPlot 0)
  else b.ranOf do
    must (1 ≤ kLen c && kLen c ≤ 16777216) stBadOperand
    must (b.inHbm s.plot (kOpc c) (kLen c * 64)) stPlot
    .ok (b, .issue 1)
def execMoveHbmStream (tile : Nat) (s : State) : Out := s.mesh (.moveHbmStream tile) (·.run tile 0 0x0A (runHbmStream tile))

/-! ### Sown buffers -/

/-- The inject descriptor of a furrow with MODE REPEAT or IDLE (R106, R120). -/
def Blk.injectSram (b : Blk) (t plot furrow : Nat) : Chk (BitVec 128) :=
  match b.sown.active.find t plot furrow false with
  | some (_, d) => if dAttach d then .error (stState, dtNoFurrow) else .ok d
  | none => .error (stState, dtNoFurrow)

/-- move.sow writes cells to the fill buffer (R58, R106, R120). -/
def runSow (t : Nat) (b : Blk) (s : Sheaf) : Blk × Ran :=
  let c := s.cmd
  let n := kLen c
  b.ranOf do
    let a ← b.sramAt t s.base (kOpb c) (n * 64) 64
    let d ← b.injectSram t s.plot (kFurrow c)
    must (kXopt c + n ≤ dCells d) stBadOperand
    let k := stageKey t s.plot (kFurrow c) false
    let x := b.staging k
    must (x.filled + n ≤ dCells d) stState dtFillFull
    let (xs, b) ← b.operand t a (n * 64)
    .ok ((b.writeSram t ((fillBuf d x + kXopt c) * 64) xs).setStaging k { x with filled := x.filled + n },
      .fin stOk 0)
def execMoveSow (tile : Nat) (s : State) : Out := s.mesh (.moveSow tile) (·.run tile 0 0x07 (runSow tile))

/-- move.reap copies cells of the read buffer; a missing cell reads as zeros (R106, R114). -/
def runReap (t : Nat) (b : Blk) (s : Sheaf) : Blk × Ran :=
  let c := s.cmd
  b.ranOf do
    let d ← b.sramAt t s.base (kOpb c) (kLen c * 64) 64
    let ((xs, b), st, dt) ← b.sownInput t s.plot c (kLen c)
    .ok (b.writeSram t d xs, .fin st dt)
def execMoveReap (tile : Nat) (s : State) : Out := s.mesh (.moveReap tile) (·.run tile 0 0x08 (runReap tile))

end Sys2Proof.Machine
end

