-- ==== Sys2Proof/Machine/Queues.lean ====
section
/-! DEFINITION. The queue engine's commands, publication, fallback, status records and RD (R109, R157–R173). -/
namespace Sys2Proof.Machine

/-! ### Messages and remote accesses -/

/-- Whether a tile-id operand names a tile of the plot (R104). -/
def Blk.inPlot (b : Blk) (plot t : Nat) : Bool := b.owns plot t && b.member.hasTile t

/-- A queue-engine command with a tile-id operand: PLOT and reason 0x21 for a tile outside the plot (R104), else its checks. -/
def Blk.toTile (b : Blk) (t : Nat) (s : Sheaf) (r : Chk (Blk × Ran)) : Blk × Ran :=
  if b.inPlot s.plot (kOpa s.cmd % 1024) then b.ranOf r else (b.drop t 0x21 none (some s.plot), .fin stPlot 0)

/-- Packets of 128 bytes for a run. -/
def parts128 (n : Nat) : Nat := ceilDiv n 128

/-- queue.send takes the next MSG_ID and sends ⌈LEN/128⌉ packets, one where LEN = 0 (R109, R158). -/
def runSend (t : Nat) (b : Blk) (s : Sheaf) : Blk × Ran :=
  let c := s.cmd
  let op := kXopt c % 256
  if 0xE0 ≤ op then (b, .fin stOpcode 0)
  else b.toTile t s do
    must ((op = rqHandler || op = rqQueue) && kLen c ≤ sramBytes) stBadOperand
    let a ← b.sramAt t s.base (kOpb c) (kLen c) 1
    let (_, b) ← b.operand t a (kLen c)
    let id := (b.tile t).ms.msgId
    let b := b.modTile t fun x => { x with ms := { x.ms with msgId := (x.ms.msgId + 1) % 65536 } }
    .ok (b.modSheaf t 3 s.sid fun x => { x with aux := id }, .issue (max 1 (parts128 (kLen c))))
def execQueueSend (tile : Nat) (s : State) : Out := s.mesh (.queueSend tile) (·.run tile 3 0xC1 (runSend tile))

/-- queue.get: at most 1,048,576 bytes from a remote tile (R109). -/
def runGet (t : Nat) (b : Blk) (s : Sheaf) : Blk × Ran :=
  let c := s.cmd
  b.toTile t s do
    must (kLen c ≤ 1048576 && (sramOp s.base (kOpb c) (kLen c) 1).isSome) stBadOperand
    let _ ← b.sramAt t s.base (kOpc c) (kLen c) 1
    .ok (b, .issue (parts128 (kLen c)))
def execQueueGet (tile : Nat) (s : State) : Out := s.mesh (.queueGet tile) (·.run tile 3 0xC2 (runGet tile))

/-- queue.put: at most 1,048,576 bytes to a remote tile (R109). -/
def runPut (t : Nat) (b : Blk) (s : Sheaf) : Blk × Ran :=
  let c := s.cmd
  b.toTile t s do
    must (kLen c ≤ 1048576 && (sramOp s.base (kOpc c) (kLen c) 1).isSome) stBadOperand
    let a ← b.sramAt t s.base (kOpb c) (kLen c) 1
    let (_, b) ← b.operand t a (kLen c)
    .ok (b, .issue (parts128 (kLen c)))
def execQueuePut (tile : Nat) (s : State) : Out := s.mesh (.queuePut tile) (·.run tile 3 0xC3 (runPut tile))

/-- Elements in a COMBINE packet (R157). -/
def combineElems (fmt : Nat) : Nat := 128 / (fmtBits fmt / 8)

/-- queue.combine: elements of a scalar format to a combining queue from index ARG on (R109, R171). -/
def runCombine (t : Nat) (b : Blk) (s : Sheaf) : Blk × Ran :=
  let c := s.cmd
  let fmt := kInFmt c
  b.toTile t s do
    must (fmtOk fmt && !isMx fmt) stBadOperand
    let a ← b.sramAt t s.base (kOpb c) (runBytes fmt (kLen c)) (runAlign fmt)
    let (_, b) ← b.operand t a (runBytes fmt (kLen c))
    .ok (b, .issue (ceilDiv (kLen c) (combineElems fmt)))
def execQueueCombine (tile : Nat) (s : State) : Out := s.mesh (.queueCombine tile) (·.run tile 3 0xC4 (runCombine tile))

/-- Request k of a queue-engine command (R157, R158). -/
def Blk.queueReq (b : Blk) (t : Nat) (s : Sheaf) : Req :=
  let c := s.cmd
  let k := s.issued
  let dst := kOpa c % 1024
  let ref := ReqRef.sheaf 3 s.sid k
  let id := (b.tile t).ms.msgId
  let n := min 128 (kLen c - 128 * k)
  let data := fun a => b.readSram t (sramAddr s.base a + 128 * k) n
  if kOp c = 0xC1 then
    { dst := dst, op := kXopt c % 256, arg := kArg c, gen := some (kOpc c % 65536), ref := ref, plot := s.plot,
      body := msgWord (128 * k) (kLen c) s.aux (kXopt c / 256) 0 ++ data (kOpb c) }
  else if kOp c = 0xC2 then
    { dst := dst, op := rqGet, arg := sramAddr s.base (kOpb c) + 128 * k, gen := none, ref := ref, plot := s.plot,
      body := msgWord 0 n id 0 0 }
  else if kOp c = 0xC3 then
    { dst := dst, op := rqPut, arg := sramAddr s.base (kOpc c) + 128 * k, gen := none, ref := ref, plot := s.plot,
      body := msgWord 0 n id 0 0 ++ data (kOpb c) }
  else
    let fmt := kInFmt c
    let m := combineElems fmt
    let w := fmtBits fmt / 8
    let n := min m (kLen c - m * k)
    { dst := dst, op := rqCombine, arg := kArg c + m * k, gen := none, ref := ref, plot := s.plot,
      body := msgWord 0 (n * w) id (kXopt c % 16) fmt ++ b.readSram t (sramAddr s.base (kOpb c) + m * k * w) (n * w) }

/-! ### Binding -/

/-- Queues that a plot has bound on all its tiles (R172). -/
def Blk.boundQueues (b : Blk) (plot : Nat) : Nat :=
  (b.tiles.map fun x => if b.owns plot x.1 then (x.2.ms.queues.filter fun q => q.2.bound).length else 0).sum

/-- The region of a COMBINE queue in its reset form (R137, R159). -/
def resetRegion (wide : Bool) (n : Nat) : Bytes := (List.range n).flatMap fun _ => Fra.fresh.wire wide false

/-- queue.bind in RING or COMBINE mode (R159, R172). -/
def runBind (t : Nat) (b : Blk) (s : Sheaf) : Blk × Ran :=
  let c := s.cmd
  let x := kXopt c
  let i := x % 16
  let combine : Bool := x / 16 % 2 = 1
  let wide : Bool := x / 32 % 2 = 1
  let n := kLen c
  b.ranOf do
    must (if combine then n % fraBytes wide = 0 && n / fraBytes wide ≤ 24576
      else x / 32 % 128 = 0 && n % 64 = 0 && 256 ≤ n && n ≤ sramBytes) stBadOperand
    let a ← b.sramAt t s.base (kOpa c) n 64
    must (!((b.tile t).queue i).bound) stState dtBound
    must (b.boundQueues s.plot < (b.plot s.plot).cfg.queueQuota) stState dtQuota
    let q := { Queue.fresh with bound := true, base := a / 64 }
    if combine then
      .ok ((b.writeSram t a (resetRegion wide (n / fraBytes wide))).modQueue t i fun _ =>
        { q with size := n / fraBytes wide, combine := true, wide := wide, sem := x / 64 % 32,
                 semEn := x / 2048 % 2 = 1, expect := kArg c }, .fin stOk 0)
    else .ok (b.modQueue t i fun _ => { q with size := n / 64 }, .fin stOk 0)
def execQueueBind (tile : Nat) (s : State) : Out := s.mesh (.queueBind tile) (·.run tile 3 0xC5 (runBind tile))

/-- Message entries that an unbind drops: published and not passed, or complete and not yet published (R173). -/
def Queue.dropped (q : Queue) : Nat :=
  q.pubs.length + (q.open_.filter fun e => match e.kind with | .message _ => true | _ => false).length

/-- queue.unbind waits for the open assemblies of the queue (R173). -/
def runUnbind (t : Nat) (b : Blk) (s : Sheaf) : Blk × Ran :=
  let i := kXopt s.cmd % 16
  let q := (b.tile t).queue i
  b.ranOf do
    must q.bound stState dtNotBound
    if (b.tile t).ms.asms.any (fun a => a.2.queue = i) then .ok (b, .hold)
    else .ok ((b.modQueue t i fun _ => Queue.fresh).countN t evUnbindDiscard q.dropped (some s.plot), .fin stOk 0)
def execQueueUnbind (tile : Nat) (s : State) : Out := s.mesh (.queueUnbind tile) (·.run tile 3 0xC6 (runUnbind tile))

/-- The entry that a pop takes, at RD: none while the queue is empty, BAD_ENTRY by HCHK (R164). -/
def Blk.popFind (b : Blk) (t : Nat) (q : Queue) : Chk (Option Nat) :=
  if q.rd = q.wr then .ok none
  else if hChkOk (b.header t q q.rd) then .ok (some q.rd)
  else .error (stState, dtBadEntry)

/-- RD passes over the skip and VOID entries that stand at it, up to a damaged header (R164). -/
def Blk.passVoid (b : Blk) (t i : Nat) : Nat → Blk
  | 0 => b
  | n + 1 =>
    let q := (b.tile t).queue i
    let h := b.header t q q.rd
    if q.rd = q.wr || !hChkOk h || !(hSkip h || hVoid h) then b
    else (b.rdTo t i (q.plus q.rd (hCells h))).passVoid t i n

/-- A pop that its engine may start passes over skip and VOID entries, also where it then waits for an entry (R164). -/
def Blk.popPass (b : Blk) (t : Nat) : Blk :=
  match b.nextStart t 3 with
  | none => b
  | some s =>
    let i := kXopt s.cmd % 16
    let q := (b.tile t).queue i
    if kOp s.cmd = 0xC7 && (b.sramAt t s.base (kOpa s.cmd) (kLen s.cmd) 64).isOk && q.bound && !q.combine then
      b.passVoid t i (2 * q.size)
    else b

/-- The bytes of an entry, header first. -/
def Blk.entryBytes (b : Blk) (t : Nat) (q : Queue) (p n : Nat) : Bytes := b.readSram t (q.addr p) n

/-- queue.pop (R164). -/
def runPop (t : Nat) (b : Blk) (s : Sheaf) : Blk × Ran :=
  let c := s.cmd
  let i := kXopt c % 16
  let q := (b.tile t).queue i
  b.ranOf do
    let d ← b.sramAt t s.base (kOpa c) (kLen c) 64
    must q.bound stState dtNotBound
    must (!q.combine) stState dtMode
    match ← b.popFind t q with
    | none => .ok (b, .hold)
    | some p =>
      let h := b.header t q p
      let n := 64 + hBytes h
      must (kLen c = 0 || n ≤ kLen c) stLimit
      let b := if kLen c = 0 then b else b.writeSram t d (b.entryBytes t q p n)
      .ok ((b.rdTo t i (q.plus p (hCells h))).rdAdvance t i (2 * q.size), .fin stOk 0)
def execQueuePop (tile : Nat) (s : State) : Out := s.mesh (.queuePop tile) fun b => (b.popPass tile).run tile 3 0xC7 (runPop tile)

/-- A handler number takes its entry as the mc ends: what lands in this mc uses the one before (R112, R174). -/
def Blk.handlerActs (b : Blk) (t n : Nat) (h : Handler) : Blk :=
  b.modTile t fun y => { y with ms := { y.ms with handlers := y.ms.handlers.put n h } }

/-- queue.handler writes or clears a handler entry (R112, R120, R165). -/
def runHandler (t : Nat) (b : Blk) (s : Sheaf) : Blk × Ran :=
  let c := s.cmd
  let x := kXopt c
  let a := sramAddr s.base (kOpa c)
  b.ranOf do
    must (kLen c ≤ 4096 && (kLen c = 0 || a % 32 = 0)) stBadOperand
    must (kLen c = 0 || a + 32 * kLen c ≤ sramBytes) stState dtBound
    let h : Handler :=
      if kLen c = 0 then Handler.fresh
      else { list := a, valid := true, freeOnEnd := x / 4096 % 2 = 1, queue := x / 256 % 16, cmds := kLen c }
    .ok (b.note (.handler t (x % 256) h), .fin stOk 0)
def execQueueHandler (tile : Nat) (s : State) : Out := s.mesh (.queueHandler tile) (·.run tile 3 0xC8 (runHandler tile))

/-! ### The life of an entry -/

/-- WR advances over the complete entries of a queue (R163). -/
def Blk.publishNow (b : Blk) (t i : Nat) : Blk := b.publishGo t i ((b.tile t).queue i).open_
def execEntryPublish (tile queue : Nat) (s : State) : Out := s.mesh (.entryPublish tile queue) (·.publishNow tile queue)

/-- The oldest waiting handler launch enters the launch queue where it has room (R112). -/
def Tile.handlerLaunch (x : Tile) : Tile :=
  match x.es.handlerWait with
  | [] => x
  | l :: ls =>
    if 16 ≤ x.es.launchQ.length then x
    else { x with es := { x.es with launchQ := x.es.launchQ ++ [l], handlerWait := ls } }
def execHandlerLaunch (tile : Nat) (s : State) : Out := s.mesh (.handlerLaunch tile) (·.modTile tile Tile.handlerLaunch)

def execFallbackDrain (tile queue : Nat) (s : State) : Out := s.mesh (.fallbackDrain tile queue) (·.fbDrain tile queue)

/-- The time of an assembly has run out: a packet that lands in this mc comes first (R169, R174). -/
def Blk.abandon (b : Blk) (t i : Nat) : Blk := b.note (.abandon t i)

/-- An assembly in which no packet has landed in this mc either is abandoned: its entry becomes VOID (R169, R174). -/
def Blk.abandonActs (b : Blk) (t i : Nat) : Blk :=
  match (b.tile t).ms.asms.get? i with
  | none => b
  | some a =>
    if a.last = b.clk.mc then b else
    let b := b.modTile t fun x => { x with ms := { x.ms with asms := x.ms.asms.del i } }
    let q := (b.tile t).queue a.queue
    let h := b.header t q a.ptr
    let plot := fld h 200 8
    let b := (b.putHeader t q a.ptr (rehead (setFld h 16 1 1))).modQueue t a.queue fun q =>
      { q with open_ := q.open_.map fun e => if e.ptr = a.ptr then { e with complete := true, kind := .void } else e }
    (b.count t evMsgAbandon (some plot)).raiseP 0x09 plot (some t) a.src a.msgId a.queue
def execAssemblyAbandon (tile index : Nat) (s : State) : Out := s.mesh (.assemblyAbandon tile index) (·.abandon tile index)

def execQueueRdWrite (tile queue : Nat) (value : BitVec 16) (s : State) : Out :=
  s.page (.queueRdWrite tile queue value) tile (·.writeRd tile queue value.toNat)

/-- FB_POP asks for the oldest fallback entry to be removed, behind a drain of this mc (R167, R174). -/
def Blk.fbPop (b : Blk) (t : Nat) (value : BitVec 32) : Blk := if flag value 0 then b.note (.fbPop t) else b

/-- The oldest fallback entry is removed as the mc ends (R167, R174). -/
def Blk.fbPopActs (b : Blk) (t : Nat) : Blk :=
  b.modTile t fun x => { x with ms := { x.ms with fallback := x.ms.fallback.drop 1 } }
def execFbPop (tile : Nat) (value : BitVec 32) (s : State) : Out := s.page (.fbPop tile value) tile (·.fbPop tile value)

/-- A context that has drained reports: its status record is written, or DONE set in its message's entry; it is IDLE (R110,
R112, R116, R165). -/
def Blk.statusWrite (b : Blk) (t c : Nat) : Blk :=
  let k := (b.tile t).ctx c
  if k.state ≠ .report then b
  else
    let b := match k.statusAt with
      | some a => b.writeSram t a (b.statusRecord k)
      | none => b
    let b := match k.handler with
      | some (i, a, true) => b.setDone t i a
      | _ => b
    b.modTile t fun x => x.modCtx c fun k => { Ctx.fresh with held := k.held }
def execStatusRecordWrite (tile ctx : Nat) (s : State) : Out := s.mesh (.statusRecordWrite tile ctx) (·.statusWrite tile ctx)

end Sys2Proof.Machine
end

