-- ==== Sys2Proof/Machine/Net.lean ====
section
/-! DEFINITION. Requests injected and ejected, messages, remote accesses and combining at the target (R93–R98, R156–R171,
R302, R356). -/
namespace Sys2Proof.Machine

/-! ### Requests of a command (R114, R119, R158) -/

/-- Whether a sheaf is a command whose requests are being issued. -/
def issuing (s : Sheaf) : Bool := s.state = .running && opFunction (kOp s.cmd) < 0x38

/-- The first error of a command is kept; no further request is sent (R158). -/
def Sheaf.fail (s : Sheaf) (st detail : Nat) : Sheaf :=
  let s := { s with total := s.issued }
  if s.status = 0#8 then { s with status := BitVec.ofNat 8 st, detail := BitVec.ofNat 8 detail } else s

/-- A command whose requests have all been issued waits for its replies, or has finished (R118). -/
def Sheaf.settle (s : Sheaf) : Sheaf :=
  if s.total ≤ s.issued then { s with state := if s.outst = 0 then .finished else .issued } else s

/-- A request of a command has been sent. -/
def Sheaf.sentOne (s : Sheaf) : Sheaf := { s with issued := s.issued + 1, outst := s.outst + 1 }.settle

/-- What a request's fate does to its command: NO_SLOT under NOWAIT, PLOT for one refused at once (R35, R119). -/
def Sheaf.afterSend (s : Sheaf) : Sent → Sheaf
  | .sent => s.sentOne
  | .noRoom => s
  | .noSlot => if kNowait s.cmd then (s.fail stNoSlot 0).settle else s
  | .refused => (s.fail stPlot 0).settle

/-- The next request of the command that an engine is issuing. A send waits for the ACK of its first packet (R158). -/
def Blk.injectEngine (b : Blk) (t e : Nat) (who : Requester) (req : Sheaf → Option Req) : Blk :=
  match ((b.tile t).sheaves e).find? issuing with
  | none => b
  | some s =>
    if kOp s.cmd = 0xC1 && s.issued = 1 && 0 < s.outst then b
    else match req s with
      | none => b
      | some r =>
        let x := b.sendReq (.tile t) who snReq 0 r
        x.1.modSheaf t e s.sid fun y => y.afterSend x.2

/-- The next packet of the oldest open-path DFP (R158, R232). -/
def Blk.injectDfp (b : Blk) (t : Nat) : Blk :=
  match (b.tile t).net.dfpOut with
  | [] => b
  | d :: ds =>
    let n := d.data.length
    if d.failed || (d.issued = 1 && 0 < d.outst) || max 1 (parts128 n) ≤ d.issued then b
    else
      let k := d.issued
      let r : Req :=
        { dst := d.target, op := rqDfp, arg := d.queue, gen := none, ref := .dfp, plot := d.plot,
          body := msgWord (128 * k) n d.msgId 0 0 ++ (d.data.drop (128 * k)).take 128 }
      let x := b.sendReq (.tile t) .ingress snReq 0 r
      if x.2 = .sent then
        x.1.modTile t fun y => { y with net := { y.net with dfpOut := { d with issued := k + 1, outst := d.outst + 1 } :: ds } }
      else x.1

/-- The oldest KHDR (R208). -/
def Blk.injectKhdr (b : Blk) (t : Nat) : Blk :=
  match (b.tile t).net.khdrOut with
  | [] => b
  | k :: ks =>
    let r : Req :=
      { dst := k.target, op := rqKhdr, arg := k.tag.toNat, gen := none, ref := .khdr k.slot k.rank (k.tag.toNat / 2 ^ 16), plot := k.plot,
        body := k.body }
    let x := b.sendReq (.tile t) .home snReq 0 r
    if x.2 = .sent then x.1.modTile t fun y => { y with net := { y.net with khdrOut := ks } } else x.1

/-- An admin request of the steward or the vault to a tile (R88, R93; opcodes: log 14). -/
def Blk.injectAdmin (b : Blk) (o : SlotOwner) (who : Requester) (op dst : Nat) : Blk :=
  (b.sendReq o who snAdmin 0
    { dst := dst, op := op, arg := 0, gen := none, body := List.replicate 16 0#8, ref := .admin, plot := 0 }).1

/-- A quorum DFP that waits for the admin sub-network is sent: outward from the system tile to a port tile, or inward (R13, log 14). -/
def Blk.injectQuorum (b : Blk) (x : Bool × Nat × Bytes) (rest : List (Bool × Nat × Bytes)) : Blk :=
  let o : SlotOwner := if x.1 then .steward else .tile x.2.1
  let r : Req :=
    { dst := if x.1 then x.2.1 else sysTile, op := if x.1 then 0x03 else 0x04, arg := 0, gen := none,
      body := List.replicate 16 0#8 ++ x.2.2, ref := .admin, plot := 0 }
  let y := b.sendReq o .steward snAdmin 0 r
  if y.2 = .sent then { y.1 with quorum := { y.1.quorum with net := rest } } else y.1

/-- A quorum message from its payload cell. -/
def QMsg.ofBytes (xs : Bytes) : QMsg :=
  let at_ (i n : Nat) : Nat := Sys2Proof.Machine.ofBytes ((xs.drop i).take n)
  { kind := at_ 0 1, sender := at_ 1 1, pass := at_ 2 1, round := BitVec.ofNat 32 (at_ 4 4), set := BitVec.ofNat 32 (at_ 8 4),
    group := BitVec.ofNat 32 (at_ 12 4) }

/-- A quorum DFP that has crossed the admin sub-network: it enters the queue of its port, or the steward takes it (R293). -/
def Blk.quorumEject (b : Blk) (t op : Nat) (body : Bytes) : Blk :=
  let h : BitVec 256 := BitVec.ofNat 256 (ofBytes ((body.drop 1).take 32))
  let p := b.member.portOf t
  let halfB : Bool := (body.headD 0#8).toNat = 1
  if op = 0x04 then { b with quorum := { b.quorum with rawIn := b.quorum.rawIn ++ [QMsg.ofBytes (body.drop 33)] } }
  else b.enqueue p
    { hdr := h, inPort := 0, plot := 0, color := 0, queue := b.quorumAt p halfB, half := halfB, pool := poolOf 5, src := sysTile,
      furrow := 0, cells := cellsOfBytes (body.drop 33), due := 1, broken := false, whole := true, marker := false,
      enq := b.clk.mc }

/-- A preempting packet: at most 8 of a source in flight (R88); it takes no slot and gets no reply (log 143). -/
def Blk.injectPreempt (b : Blk) (op flight dst : Nat) (up : Blk → Blk) (arg : Nat := 0) (body : Bytes := []) : Blk :=
  let p := mkPacket snAdmin 0 b.epoch dst sysTile 0 op 0 false 0 arg body
  if 8 ≤ flight || 16 < b.injectFill sysTile snAdmin 0 + p.flits then b else (up b).injectPacket sysTile snAdmin p

/-- Whether the debug port may not reach a tile: a sealed range, or NO_DEBUG of its plot (R282). -/
def Blk.debugRefused (b : Blk) (t : Nat) : Bool :=
  !(b.tile t).sealed.isEmpty || (b.ownerOf t).any fun p => (b.plot p).keys.sec.noDebug

/-- A debug-port packet to a tile: OPCODE 0xF1 writes its SRAM, 0xF0 reads it (R88, R282, R406). ARG holds the byte address in
[20:0] and the number of bytes from bit 21 on (log 14). -/
def Blk.debugAccess (b : Blk) (t : Nat) (write : Bool) (addr : Nat) (data : Bytes) : Blk :=
  if b.debugRefused t || 64 < data.length || sramBytes < addr + data.length then b
  else b.injectPreempt (if write then 0xF1 else 0xF0) b.opn.debugFlight t
    (fun b => { b with opn := { b.opn with debugFlight := b.opn.debugFlight + 1 } }) (addr % 2 ^ 21 + 2 ^ 21 * data.length) data
def execDbgAccess (tile : Nat) (write : Bool) (addr : Nat) (data : Bytes) (s : State) : Out :=
  s.mesh (.dbgAccess tile write addr data) (·.debugAccess tile write addr data)

/-! ### Requests ejected (R94, R302, R356) -/

/-- Whether the attach logic of a tile takes a request (R35, R397). -/
def Blk.attachTakes (b : Blk) (t op : Nat) : Bool :=
  (0x20 ≤ op && op ≤ 0x27 && (b.member.isHbmTile t || t = sysTile)) ||
  ((op = rqDfp || op = rqKhdr) && b.member.isPortTile t)

/-- Requests that a graft forwards (R302). -/
def graftForwards (op : Nat) : Bool := op = rqHandler || op = rqQueue || op = rqPut || op = rqCombine

/-- Opcodes that some unit of the target takes (R156). -/
def opTaken (op : Nat) : Bool :=
  op = rqHandler || op = rqQueue || op = rqGet || op = rqPut || op = rqCombine || op = rqSteal

/-- A packet re-routed to the new tile with the current generation (R302). It enters the network again, so VC is 0b00 (R76); EPOCH
and AGE go on (log 144). -/
def regraft (h : BitVec 128) (dst gen : Nat) : BitVec 128 := rehash (setFld (setFld (setFld h 10 10 dst) 64 16 gen) 8 2 0)

/-- A tile takes a request. -/
def Blk.toInbox (b : Blk) (t : Nat) (q : Packet × Nat) : Blk :=
  b.modTile t fun x => { x with net := { x.net with inbox := x.net.inbox ++ [q] } }

/-- A request that has left EJECT is decided: attach logic, self-test, placement, reason 0x24, opcode (R269, R302, R356). -/
def Blk.ejected (b : Blk) (t : Nat) (q : Packet × Nat) : Blk :=
  let h := q.1.hdr
  let op := pOp h
  let g := (b.plot (pPlot h)).graft
  let c := g.gen.toNat
  let m := g.map.getD t 0#16
  if b.attachTakes t op then b.toInbox t q
  else if b.clusterTested (clusterOf t) then b.errReq t q erSelfTest
  else if !b.owns (pPlot h) t then
    if g.holding && flag g.old t && pGen h = (c + 65535) % 65536 then
      if graftForwards op then
        if flag m 10 then
          let p : Packet := { q.1 with hdr := regraft h (fld m 0 10) c }
          (b.count t evGraftFwd (some (pPlot h))).enterInput t snReq 4 p.hdr p
        else b.drop t 0x24 none (some (pPlot h))
      else (b.count t evGraftRefused (some (pPlot h))).errReq t q erPlacement
    else b.drop t 0x24 none (some (pPlot h))
  else if pGen h ≠ c then b.errReq t q erPlacement
  else if !opTaken op then b.errReq t q erState
  else b.toInbox t q

/-- A scrubber write-back rewrites the words of a tile whose error can be corrected (R88, R130; log 53). -/
def Ecc.scrubbed (e : Ecc) (t : Nat) : Ecc := { e with sram := e.sram.filter fun x => x.2 || x.1 / 2 ^ 18 ≠ t }

/-- An admin request: a preempting packet ends its flight (log 143), any other is answered (R88, R94, R356). -/
def Blk.ejectedAdmin (b : Blk) (t : Nat) (q : Packet × Nat) : Blk :=
  let op := pOp q.1.hdr
  let b := b.flightEnd snAdmin q.1.hdr
  if 0xF0 ≤ op then
    if op = 0xF1 && !b.debugRefused t then b.writeSram t (pArg q.1.hdr % 2 ^ 21) (q.1.body.take (pArg q.1.hdr / 2 ^ 21)) else b
  else if 0xE0 ≤ op then { b with ecc := b.ecc.scrubbed t }
  else if op = 0x03 || op = 0x04 then (b.quorumEject t op (q.1.body.drop 16)).answerReq t q 0 []
  else if b.clusterTested (clusterOf t) then b.errReq t q erSelfTest
  else b.answerReq t q 0 []

/-- Whether a packet in an EJECT buffer is a request (R72, R83). -/
def isRequest (n : Nat) (p : Packet) : Bool := n = snReq || (n = snAdmin && pVc p.hdr < 2)

/-- Whether a request that a graft sends on would find no room in INJECT (R75, R302). -/
def Blk.graftWaits (b : Blk) (t : Nat) (p : Packet) : Bool :=
  let g := (b.plot (pPlot p.hdr)).graft
  g.holding && flag g.old t && !b.owns (pPlot p.hdr) t && graftForwards (pOp p.hdr) && 16 < b.injectFill t snReq 0 + p.flits

/-- The oldest request in an EJECT buffer enters the tile. One that goes on to its graft tile waits for room. -/
def Blk.requestEject (b : Blk) (t n : Nat) : Blk :=
  match takeFirst (fun (x : Packet × Nat) => isRequest n x.1) (b.ejectBuf t n) with
  | none => b
  | some (q, rest) =>
    if n = snReq && b.graftWaits t q.1 then b
    else if n = snReq then (b.setEject t n rest).ejected t q else (b.setEject t n rest).ejectedAdmin t q
def execRequestEject (tile subnet : Nat) (s : State) : Out := s.mesh (.requestEject tile subnet) (·.requestEject tile subnet)

/-- The oldest waiting reply of a sub-network is later than R94 allows: it is discarded. -/
def Blk.replyLate (b : Blk) (t n : Nat) : Blk :=
  match takeFirst (fun (x : Nat × Packet × Nat) => x.1 = n) (b.tile t).net.replyWait with
  | none => b
  | some (_, rest) => (b.modTile t fun x => { x with net := { x.net with replyWait := rest } }).count t evReplyLate
def execReplyDeadline (tile subnet : Nat) (s : State) : Out := s.mesh (.replyDeadline tile subnet) (·.replyLate tile subnet)

/-! ### Where a message lands (R168, R169) -/

/-- Bytes of message data in a packet. -/
def msgData (bytes offset : Nat) : Nat := min 128 (bytes - offset)

/-- The lowest free assembly entry of 32 (R169). -/
def Tile.freeAsm (x : Tile) : Option Nat := (List.range 32).find? fun i => (x.ms.asms.get? i).isNone

/-- A request that would read or write a sealed range: it does nothing and is answered with STATE, and its initiator learns of the
seal (R282, log 169). -/
def Blk.errSealed (b : Blk) (t : Nat) (q : Packet × Nat) : Blk :=
  let k := slotKey (.tile (pSrc q.1.hdr))
  let i := pSlot q.1.hdr
  (b.setSlot k i { b.slot k i with sealHit := true }).errReq t q erState

/-- A packet at OFFSET 0 (R168). -/
def Blk.landFirst (b : Blk) (t : Nat) (q : Packet × Nat) : Blk :=
  let h := q.1.hdr
  let body := q.1.body
  let plot := pPlot h
  let bytes := mBytes body
  let x := b.tile t
  let handler : Option Handler := if pOp h = rqHandler then some (x.handlerOf (mTarget body)) else none
  let i := match handler with
    | some hd => hd.queue
    | none => mTarget body % 16
  let qu := x.queue i
  let cells := 1 + ceilDiv bytes 64
  let hdr := fun (fb : Bool) seq =>
    msgHeader seq fb (if pOp h = rqHandler then mTarget body else 0) (pSrc h) (mId body) bytes (pArg h) (pGen h) (pOp h) plot
  let data := (body.drop 16).take (msgData bytes 0)
  let ack := fun (b : Blk) (p : Nat) =>
    let b := b.writeSram t (qu.addr p + 64) data
    b.answerReq t q (fld (b.header t qu p) 0 16) []
  let busy := fun (b : Blk) => (b.count t evMsgBusy (some plot)).errReq t q erBusy
  let fallback := fun (b : Blk) =>
    if bytes ≤ 128 && x.ms.fallback.length < 8 then
      let f : FbEntry := { queue := i, handler := handler, hdr := hdr true 0, data := padTo 128 data }
      ((b.modTile t fun x => { x with ms := { x.ms with fallback := x.ms.fallback ++ [f] } }).count t evMsgFallback
        (some plot)).answerReq t q (2 ^ 16) []
    else busy b
  if handler.any fun hd => !hd.valid then b.errReq t q erNoHandler
  else if qu.bound && qu.combine then b.errReq t q erState
  else if qu.bound && 64 * (qu.size - 1) < bytes then (b.count t evMsgTooBig (some plot)).errReq t q erState
  else if !qu.bound || b.fbFirst t i then fallback b
  else match b.reserve t i cells handler (hdr false) (bytes ≤ 128) with
    | none => fallback b
    | some (p, b') =>
      if x.sealedHit (qu.addr p) (64 * cells) then b.errSealed t q
      else if bytes ≤ 128 then ack b' p
      else match x.freeAsm with
        | none => busy b
        | some k =>
          let a : Assembly :=
            { src := pSrc h, msgId := mId body, queue := i, ptr := p, cells := cells, left := bytes - msgData bytes 0,
              last := b.clk.mc }
          ack (b'.modTile t fun x => { x with ms := { x.ms with asms := x.ms.asms.put k a } }) p

/-- A packet at a later OFFSET lands in its assembly (R168, R169). -/
def Blk.landLater (b : Blk) (t : Nat) (q : Packet × Nat) : Blk :=
  let h := q.1.hdr
  let body := q.1.body
  let bytes := mBytes body
  match (b.tile t).ms.asms.find? fun a => a.2.src = pSrc h && a.2.msgId = mId body with
  | none => (b.count t evMsgOrphan (some (pPlot h))).errReq t q erBusy
  | some (k, a) =>
    let qu := (b.tile t).queue a.queue
    let n := msgData bytes (mOffset body)
    if (b.tile t).sealedHit (qu.addr a.ptr + 64 + mOffset body) n then b.errSealed t q else
    let b := b.writeSram t (qu.addr a.ptr + 64 + mOffset body) ((body.drop 16).take n)
    let b := if a.left ≤ n then
        (b.modTile t fun x => { x with ms := { x.ms with asms := x.ms.asms.del k } }).modQueue t a.queue fun qu =>
          { qu with open_ := qu.open_.map fun e => if e.ptr = a.ptr then { e with complete := true } else e }
      else b.modTile t fun x =>
        { x with ms := { x.ms with asms := x.ms.asms.put k { a with left := a.left - n, last := b.clk.mc } } }
    b.answerReq t q (fld (b.header t qu a.ptr) 0 16) []

/-- The oldest message packet of a tile lands. -/
def Blk.msgLand (b : Blk) (t : Nat) : Blk :=
  match b.takeInbox t fun op => op = rqHandler || op = rqQueue with
  | none => b
  | some (q, b) =>
    if mOffset q.1.body = 0 then b.landFirst t q else b.landLater t q
def execMsgPacketLand (tile : Nat) (s : State) : Out := s.mesh (.msgPacketLand tile) (·.msgLand tile)

/-! ### Remote reads and writes, combining (R156, R163, R171) -/

/-- Whether a remote access names 1 to 128 bytes of SRAM (R157). -/
def remoteOk (a n : Nat) : Bool := 1 ≤ n && n ≤ 128 && a + n ≤ sramBytes

/-- The oldest GET is answered with its bytes. -/
def Blk.remoteGet (b : Blk) (t : Nat) : Blk :=
  match b.takeInbox t (· = rqGet) with
  | none => b
  | some (q, b) =>
    let n := mBytes q.1.body
    let a := pArg q.1.hdr
    if !remoteOk a n then b.errReq t q erState
    else if (b.tile t).sealedHit a n then b.errSealed t q
    else match b.operand t a n with
      | .ok (xs, b) => b.answerReq t q (n - 1) xs
      | .error e => (b.raiseP 0x08 (pPlot q.1.hdr) (some t) e.2).errReq t q erState
def execRemoteGet (tile : Nat) (s : State) : Out := s.mesh (.remoteGet tile) (·.remoteGet tile)

/-- The oldest PUT writes its bytes and is acknowledged. -/
def Blk.remotePut (b : Blk) (t : Nat) : Blk :=
  match b.takeInbox t (· = rqPut) with
  | none => b
  | some (q, b) =>
    let n := mBytes q.1.body
    let a := pArg q.1.hdr
    if !remoteOk a n then b.errReq t q erState
    else if (b.tile t).sealedHit a n then b.errSealed t q
    else (b.writeSram t a ((q.1.body.drop 16).take n)).answerReq t q 0 []
def execRemotePut (tile : Nat) (s : State) : Out := s.mesh (.remotePut tile) (·.remotePut tile)

/-- Whether a queue in COMBINE mode takes a format (R171). -/
def Queue.takes (q : Queue) (fmt : Nat) : Bool :=
  fmtOk fmt && !isMx fmt && (if fmtWide fmt then q.wide else !q.wide && (q.grid = .none || q.grid = fmtGrid fmt))

/-- Adds elements into the entries of a combining region from an index on (R171). -/
def Blk.combineInto (b : Blk) (t : Nat) (q : Queue) (fmt first : Nat) (vs : List Val) : Blk :=
  let n := fraBytes q.wide
  let f := if q.wide then formWide else if fmtGrid fmt = .int then formInt else formFloat
  vs.zipIdx.foldl (fun b x =>
    let a := q.base * 64 + (first + x.2) * n
    let e := Fra.unwire q.wide (b.readSram t a n)
    let e' := e.add f x.1
    let b := b.writeSram t a (e'.wire q.wide (!q.wide && fmtGrid fmt = .int))
    if e'.ovf && !e.ovf then b.count t evFraOvf else b) b

/-- The oldest COMBINE is checked and added (R171). -/
def Blk.combine (b : Blk) (t : Nat) : Blk :=
  match b.takeInbox t (· = rqCombine) with
  | none => b
  | some (p, b) =>
    let i := mTarget p.1.body % 16
    let q := (b.tile t).queue i
    let fmt := mFmt p.1.body
    let plot := pPlot p.1.hdr
    let first := pArg p.1.hdr
    let n := mBytes p.1.body / (fmtBits fmt / 8)
    if !q.bound || !q.combine || !q.takes fmt then b.errReq t p erState
    else if q.size < first + n then (b.count t evCombineRange (some plot)).errReq t p erState
    else if (b.tile t).sealedHit (q.base * 64 + first * fraBytes q.wide) (n * fraBytes q.wide) then b.errSealed t p
    else
      let vs := decodeRun fmt n (p.1.body.drop 16)
      let f := if q.wide then formWide else if fmtGrid fmt = .int then formInt else formFloat
      let b := (b.combineInto t q fmt first vs).countAdds t plot f vs 0
      let c := (q.contrib + n) % 2 ^ 32
      let d := (q.expect + 2 ^ 32 - q.contrib) % 2 ^ 32
      let hit := q.semEn && q.expect ≠ 0 && 1 ≤ d && d ≤ n
      let b := b.modQueue t i fun q => { q with contrib := c, grid := if q.wide then q.grid else fmtGrid fmt }
      let b := if hit then b.signal t plot q.sem 1 else b
      b.answerReq t p 0 []
def execCombinePacket (tile : Nat) (s : State) : Out := s.mesh (.combinePacket tile) (·.combine tile)

/-! ### Controls (R98, R126) -/

/-- A write of OPEN_CTRL (R98). -/
def Tile.writeOpenCtrl (x : Tile) (v : BitVec 128) : Tile :=
  { x with openCtrl :=
    { grantN := min 32 (max 4 (fld v 0 6)), hintEn := flag v 6, reqTimeout := max 1 (fld v 8 7) } }
def execOpenCtrlWrite (tile : Nat) (value : BitVec 128) (s : State) : Out :=
  s.page (.openCtrlWrite tile value) tile (·.modTile tile fun x => x.writeOpenCtrl value)

/-- A write of ENG_CTRL (R126). -/
def Tile.writeEngCtrl (x : Tile) (v : BitVec 128) : Tile :=
  { x with engCtrl :=
    { stealEn := flag v 0, ringLen := min 8 (fld v 1 4), margin := fld v 8 12, capMover := min 24 (max 8 (fld v 20 5)),
      capQueue := min 24 (max 8 (fld v 25 5)), stealRing := BitVec.ofNat 80 (fld v 32 80) } }
def execEngCtrlWrite (tile : Nat) (value : BitVec 128) (s : State) : Out :=
  s.page (.engCtrlWrite tile value) tile (·.modTile tile fun x => x.writeEngCtrl value)

end Sys2Proof.Machine
end

