-- ==== Sys2Proof/Machine/Attach.lean ====
section
/-! DEFINITION. The attach logic of the HBM attach tiles and of the system tile: mover transfers and streams (R288,
R396–R399). -/
namespace Sys2Proof.Machine

/-- Units of a transfer: byte 16 of the head flit plus 1 (R397). -/
def unitsOf (p : Packet) : Nat := (p.body.headD 0#8).toNat % 2 + 1

/-- Number of a 64-byte cell among those of its quarter, in ascending stack address (R396). -/
def cellRank (a : Nat) : Nat := 64 * (a / 16384) + a / 64 % 64

/-- Whether a write stream of a plot has yet to write a cell (R398). -/
def HbmAttach.pending (h : HbmAttach) (plot a n : Nat) : Bool :=
  h.streams.any fun x =>
    x.2.write && x.2.plot = plot && (List.range n).any fun i =>
      let r := cellRank (a + 64 * i)
      cellRank x.2.next ≤ r && r < cellRank x.2.next + x.2.left

/-- The lowest free tag of 256 of an attach tile. -/
def HbmAttach.freeTag (h : HbmAttach) : Option Nat := (List.range 256).find? fun i => (h.reqs.get? i).isNone

/-- The quarter of an attach tile as a fault resource: 4 · die + quarter. -/
def Blk.hbmRes (b : Blk) (t : Nat) : Nat := 4 * b.member.dieOf t + b.member.quarterOf t

/-- Whether a plot's ranges serve transfers: it is bound, moving, or stopping its work. A transfer that reaches the attach later
would meet the scrub (R270, log 155). -/
def Plot.serves (x : Plot) : Bool := x.state = .bound || x.state = .rebinding || x.state = .teardown

/-- The ranges through which a transfer is translated: those before the last cut for one that was in flight then (R272). -/
def Blk.rangesFor (b : Blk) (p : Packet) : PlotCfg :=
  let x := b.plot (pPlot p.hdr)
  let s := b.slot (pSrc p.hdr) (pSlot p.hdr)
  match x.hbmCut with
  | some m => if s.state = .waiting && s.plot = pPlot p.hdr && s.injected ≤ m then { x.cfg with hbm := x.hbmOld } else x.cfg
  | none => x.cfg

/-- Whether a transfer's place is the sender's and this tile's: the stack address of its first unit (R263, R396, R397). -/
def Blk.hbmAddr (b : Blk) (t : Nat) (p : Packet) : Option Nat :=
  let n := unitsOf p
  let c := b.rangesFor p
  if !(b.plot (pPlot p.hdr)).serves || c.hbmSize < 64 * pArg p.hdr + n * 64 then none
  else match c.place (64 * pArg p.hdr) with
    | none => none
    | some (d, a) => if d = b.member.dieOf t && quarterOfAddr a = b.member.quarterOf t then some a else none

/-- A transfer whose place is the tile's is given to the controller under a tag; a write takes effect now. -/
def Blk.hbmGive (b : Blk) (t op : Nat) (q : Packet × Nat) (a tag : Nat) : Blk :=
  let b := if op = rqHbmWrite then b.writeHbm (b.member.dieOf t) a ((q.1.body.drop 16).take (unitsOf q.1 * 64)) else b
  b.modHbm t fun h =>
    { h with reqs := h.reqs.put tag { pkt := q.1, plot := pPlot q.1.hdr, addr := a, write := op = rqHbmWrite } }

/-- What the attach logic does with a transfer (R263, R288, R397): `b'` is the block with it taken from the inbox. -/
def Blk.hbmServe (b b' : Blk) (t op : Nat) (q : Packet × Nat) : Blk :=
  match b.hbmAddr t q.1, (b.hbmAt t).freeTag with
  | none, _ => b'.errReq t q erState
  | some _, none => b
  | some a, some tag =>
    if b.fault.failed.contains (fcHbm, b.hbmRes t) then b'.errReq t q erState
    else if op ≠ rqHbmWrite && (b.hbmAt t).pending (pPlot q.1.hdr) a (unitsOf q.1) then b
    else b'.hbmGive t op q a tag

/-- The oldest HBM_READ or HBM_WRITE of an attach tile is given to the controller under a free tag; a place outside the plot
or a failed quarter is answered STATE (R288, R397). -/
def Blk.hbmTake (b : Blk) (t op : Nat) : Blk :=
  if !b.member.isHbmTile t then b
  else match b.takeInbox t (· = op) with
    | none => b
    | some (q, b') => b.hbmServe b' t op q
def execHbmRead (tile : Nat) (s : State) : Out := s.mesh (.hbmRead tile) (·.hbmTake tile rqHbmRead)
def execHbmWrite (tile : Nat) (s : State) : Out := s.mesh (.hbmWrite tile) (·.hbmTake tile rqHbmWrite)

/-- An uncorrectable error of a quarter: at 4 addresses within 256 fr the quarter is declared failed (R288). -/
def Blk.hbmError (b : Blk) (t a : Nat) : Blk :=
  let r := b.hbmRes t
  let recent := (b.fault.hbmErr.getD r []).filter fun x => (b.clk.frame - x.2).toNat < 256 && x.1 ≠ a
  let l := (a, b.clk.frame) :: recent
  let b : Blk := { b with fault := { b.fault with hbmErr := b.fault.hbmErr.put r l } }
  if 4 ≤ l.length then b.declare fcHbm r else b

/-- A response of the HBM controller (R396, R397). -/
def Blk.hbmRespond (b : Blk) (t tag : Nat) (err : Bool) : Blk :=
  match (b.hbmAt t).reqs.get? tag with
  | none => b
  | some r =>
    let b := b.modHbm t fun h => { h with reqs := h.reqs.del tag }
    let q := (r.pkt, b.clk.mc)
    if err then (b.hbmError t r.addr).errReq t q erState
    else if r.write then b.answerReq t q 0 []
    else
      let n := unitsOf r.pkt * 64
      b.answerReq t q (n - 1) (b.readHbm (b.member.dieOf t) r.addr n)
def execHbmResponse (tile tag : Nat) (err : Bool) (s : State) : Out :=
  s.mesh (.hbmResponse tile tag err) (·.hbmRespond tile tag err)

/-- A request unanswered for 65,536 mc fails the quarter; every request to it is answered STATE (R288). -/
def Blk.hbmUnanswered (b : Blk) (t tag : Nat) : Blk :=
  match (b.hbmAt t).reqs.get? tag with
  | none => b
  | some _ =>
    let rs := (b.hbmAt t).reqs
    let b := b.modHbm t fun h => { h with reqs := [] }
    let b := b.declare fcHbm (b.hbmRes t)
    b.each rs fun b x => b.errReq t (x.2.pkt, b.clk.mc) erState
def execHbmRequestUnanswered (tile tag : Nat) (s : State) : Out :=
  s.mesh (.hbmRequestUnanswered tile tag) (·.hbmUnanswered tile tag)

/-! ### Host transfers (R397, R399) -/

/-- The lowest free DMA tag of 256. -/
def HostIf.freeTag (h : HostIf) : Option Nat := (List.range 256).find? fun i => (h.dma.get? i).isNone

/-- The window that a host request uses: that of its plot when it was issued, but none once the plot is SCRUBBING or FREE (R270,
R342, log 155). -/
def Blk.issuedWin (b : Blk) (p : Packet) : Option (Nat × Nat) :=
  let x := b.slot (slotKey (.tile (pSrc p.hdr))) (pSlot p.hdr)
  match (b.plot (pPlot p.hdr)).state with
  | .free => none
  | .scrubbing => none
  | _ => if x.state = .waiting && x.plot = pPlot p.hdr then x.win else b.dmaWin (pPlot p.hdr)

/-- The oldest HOST_READ or HOST_WRITE at the system tile goes out under a free DMA tag. -/
def Blk.hostTake (b : Blk) (op : Nat) : Blk :=
  match b.takeInbox sysTile (· = op) with
  | none => b
  | some (q, b') =>
    let n := unitsOf q.1 * 64
    match winPlace (b.issuedWin q.1) (pArg q.1.hdr) n, b.host.freeTag with
    | none, _ => b'.errReq sysTile q erState
    | some _, none => b
    | some a, some tag =>
        if op = rqHostWrite then
          let b' := b'.writeHost a ((q.1.body.drop 16).take n)
          { b' with host := { b'.host with dma := b'.host.dma.put tag (.write q.1) } }
        else { b' with host := { b'.host with dma := b'.host.dma.put tag (.read q.1) } }
def execHostRead (s : State) : Out := s.mesh .hostRead (·.hostTake rqHostRead)
def execHostWrite (s : State) : Out := s.mesh .hostWrite (·.hostTake rqHostWrite)

/-- A DMA read completes with its data, or a write is acknowledged (R399). -/
def Blk.dmaComplete (b : Blk) (tag : Nat) (data : Bytes) (err : Bool) : Blk :=
  match b.host.dma.get? tag with
  | none => b
  | some r =>
    let b : Blk := { b with host := { b.host with dma := b.host.dma.del tag } }
    match r with
    | .write p => if err then b.errReq sysTile (p, b.clk.mc) erState else b.answerReq sysTile (p, b.clk.mc) 0 []
    | .read p =>
      let n := unitsOf p * 64
      if err then b.errReq sysTile (p, b.clk.mc) erState else b.answerReq sysTile (p, b.clk.mc) (n - 1) (padTo n data)
def execDmaCompletion (tag : Nat) (data : Bytes) (err : Bool) (s : State) : Out :=
  s.mesh (.dmaCompletion tag data err) (·.dmaComplete tag data err)

/-! ### Streams (R398) -/

/-- Fields of a STREAM request. -/
def sOffset (p : Packet) : Nat := ofBytes (p.body.take 4)
def sCells (p : Packet) : Nat := ofBytes ((p.body.drop 4).take 4)
def sFurrow (p : Packet) : Nat := ofBytes ((p.body.drop 8).take 2) % 4096
def sWrite (p : Packet) : Bool := ofBytes ((p.body.drop 10).take 1) % 2 = 1
def sFirst (p : Packet) : Nat := ofBytes ((p.body.drop 12).take 4)

/-- FIRST as a frame: the one at or after now with these low bits, as a distance from now (R398). -/
def firstAhead (now : BitVec 48) (first : Nat) : Nat := (first + 2 ^ 32 - now.toNat % 2 ^ 32) % 2 ^ 32

/-- The stack address of the last of n cells of a quarter from an address on. -/
def lastCell (a n : Nat) : Nat :=
  let r := cellRank a + n - 1
  16384 * (r / 64) + 4096 * (a / 4096 % 4) + 64 * (r % 64)

/-- Whether a stream lies in this quarter and in the plot's range on this die. -/
def Blk.streamFits (b : Blk) (t plot off cells : Nat) : Option Nat :=
  match b.hbmPlace plot off with
  | none => none
  | some (d, a) =>
    let r := (b.plot plot).cfg.range d
    if d = b.member.dieOf t && quarterOfAddr a = b.member.quarterOf t && lastCell a cells + 64 ≤ granule * (r.1 + r.2) then some a
    else none

/-- The descriptor of MODE HBM that a stream needs. -/
def Blk.hbmDesc (b : Blk) (t plot furrow : Nat) (write : Bool) : Bool :=
  match b.sown.active.find t plot furrow write with
  | some (_, d) => dMode d = modeHbm
  | none => false

/-- Whether a STREAM request can open: a STREAM, at an attach tile, for an HBM descriptor of the tile on which no stream is
open, with FIRST 2 to 65,536 frames ahead (R397, R398). -/
def Blk.streamAsked (b : Blk) (t : Nat) (p : Packet) : Bool :=
  pOp p.hdr = rqStream && b.member.isHbmTile t && b.hbmDesc t (pPlot p.hdr) (sFurrow p) (sWrite p) &&
    !((b.hbmAt t).streams.any fun x => x.2.plot = pPlot p.hdr && x.2.furrow = sFurrow p) &&
    2 ≤ firstAhead b.clk.frame (sFirst p) && firstAhead b.clk.frame (sFirst p) ≤ 65536

/-- The lowest free entry of the 64 for streams. -/
def HbmAttach.freeStream (h : HbmAttach) : Option Nat := (List.range 64).find? fun i => (h.streams.get? i).isNone

/-- The stream that a request opens at a stack address. -/
def Blk.streamNew (b : Blk) (p : Packet) (a : Nat) : HbmStream :=
  { plot := pPlot p.hdr, furrow := sFurrow p, write := sWrite p, next := a, left := sCells p,
    first := b.clk.frame + BitVec.ofNat 48 (firstAhead b.clk.frame (sFirst p)), sentThis := 0, landed := [] }

/-- A STREAM request taken from the inbox is decided: STATE, BUSY with 64 streams open, or an ACK. -/
def Blk.streamDecide (b : Blk) (t : Nat) (q : Packet × Nat) : Blk :=
  if pOp q.1.hdr ≠ rqStream || !b.member.isHbmTile t then b.errReq t q erState
  else match (b.hbmAt t).freeStream with
    | none => b.errReq t q erBusy
    | some i =>
      match b.streamFits t (pPlot q.1.hdr) (sOffset q.1) (sCells q.1) with
      | none => b.errReq t q erState
      | some a =>
        if b.streamAsked t q.1 then
          (b.modHbm t fun h => { h with streams := h.streams.put i (b.streamNew q.1 a) }).answerReq t q 0 []
        else b.errReq t q erState

/-- The oldest STREAM request of an attach tile is decided; any reserved transfer is answered STATE (R397, R398). -/
def Blk.streamOpen (b : Blk) (t : Nat) : Blk :=
  match b.takeInbox t fun op => 0x24 ≤ op && op ≤ 0x27 with
  | none => b
  | some (q, b) => b.streamDecide t q
def execStream (tile : Nat) (s : State) : Out := s.mesh (.stream tile) (·.streamOpen tile)

/-- A stream ends: on a read error early, else once its length has gone (R398). -/
def Blk.streamEnd (b : Blk) (t i : Nat) (readError : Bool) : Blk :=
  match (b.hbmAt t).streams.get? i with
  | none => b
  | some s =>
    if readError then (if s.write then b else (b.hbmError t s.next).streamStop t i)
    else if s.left = 0 then b.modHbm t fun h => { h with streams := h.streams.del i }
    else b
def execStreamEnd (tile index : Nat) (readError : Bool) (s : State) : Out :=
  s.mesh (.streamEnd tile index readError) (·.streamEnd tile index readError)

end Sys2Proof.Machine
end

