-- ==== Sys2Proof/Machine/Steward.lean ====
section
/-! DEFINITION. How the steward takes a request on a channel: levels, selectors, abort codes, the answer (R317–R319, R332). -/
namespace Sys2Proof.Machine

/-! ### Abort codes (R332) -/

def abNone : Nat := 0x00
def abNoIndex : Nat := 0x01
def abNoSub : Nat := 0x02
def abAccess : Nat := 0x03
def abLevel : Nat := 0x04
def abLength : Nat := 0x05
def abType : Nat := 0x06
def abRange : Nat := 0x07
def abState : Nat := 0x08
def abBusy : Nat := 0x09
def abBoot : Nat := 0x0A
def abSeq : Nat := 0x0B
def abNoOp : Nat := 0x0C
def abTooBig : Nat := 0x0D
def abCrc : Nat := 0x0E
def abTimeout : Nat := 0x0F
def abCancelled : Nat := 0x10
def abHardware : Nat := 0x11

/-- What a write of an entry does: the block after it, and the abort code. -/
abbrev Od := Blk × Nat

/-- The write is accepted. -/
def Od.ok (b : Blk) : Od := (b, abNone)

/-- The write is refused and changes nothing. -/
def Od.no (b : Blk) (a : Nat) : Od := (b, a)

/-- The selectors of a channel (R318). -/
def Blk.sels (b : Blk) : Channel → Sels
  | .mailbox => b.mgmt.selsM
  | .slot0 => b.mgmt.sels0
  | .slot1 => b.mgmt.sels1

/-- A change of a channel's selectors. -/
def Blk.modSels (b : Blk) (ch : Channel) (f : Sels → Sels) : Blk :=
  match ch with
  | .mailbox => { b with mgmt := { b.mgmt with selsM := f b.mgmt.selsM } }
  | .slot0 => { b with mgmt := { b.mgmt with sels0 := f b.mgmt.sels0 } }
  | .slot1 => { b with mgmt := { b.mgmt with sels1 := f b.mgmt.sels1 } }

/-- The key slot of a channel (R317). -/
def Blk.keySlot (b : Blk) : Channel → KeySlot
  | .slot1 => b.mgmt.slot1
  | _ => b.mgmt.slot0

/-- Whether a channel carries requests: MAILBOX always, a slot while it is VALID (R317, R326). -/
def Blk.open_ (b : Blk) (ch : Channel) : Bool := ch = .mailbox || (b.mgmt.mgmtEn && (b.keySlot ch).valid)

/-- Whether a channel acts at the expert level (R317). -/
def Blk.expert (b : Blk) (ch : Channel) : Bool := ch = .mailbox || (b.keySlot ch).expert

/-- The answer is kept (R324): a failed request carries no payload. -/
def Blk.answer (b : Blk) (abort : Nat) (payload : Bytes := []) : Blk :=
  { b with mgmt := { b.mgmt with resp := { abort := BitVec.ofNat 8 abort, payload := if abort = 0 then payload else [] } } }

/-- Writes one entry on a channel: LEVEL for a basic channel on an expert entry, else the entry's own rule (R317, R319). -/
def Blk.odDo (b : Blk) (ch : Channel) (expert : Bool) (f : Blk → Od) : Blk :=
  if expert && !b.expert ch then b.answer abLevel else (f b).1.answer (f b).2

/-- A request on a channel: the steward runs it once start-up has ended and the channel carries requests; the boot ROM in
RECOVERY serves the mailbox only, with NO_INDEX (R353, R365). -/
def State.od (s : State) (i : Instr) (ch : Channel) (expert : Bool) (f : Blk → Od) : Out :=
  s.at i fun s =>
    if s.blk.fw.stage = .done && s.blk.open_ ch then .next { s with blk := s.blk.odDo ch expert f }
    else if s.blk.fw.stage = .recovery && ch = .mailbox then .next { s with blk := s.blk.answer abNoIndex }
    else .next s

/-- A write of an entry of port p, at index 0x2400 + p: NO_INDEX for a port that the member lacks (R320). -/
def State.odPort (s : State) (i : Instr) (ch : Channel) (expert : Bool) (port : Nat) (f : Blk → Od) : Out :=
  s.od i ch (expert && port < s.blk.member.ports) fun b => if port < b.member.ports then f b else Od.no b abNoIndex

/-- A request that the boot ROM serves in RECOVERY too (R365). -/
def State.odFw (s : State) (i : Instr) (ch : Channel) (f : Blk → Od) : Out :=
  s.at i fun s =>
    if (s.blk.fw.stage = .done && s.blk.open_ ch) || (s.blk.fw.stage = .recovery && ch = .mailbox) then
      .next { s with blk := s.blk.odDo ch false f }
    else .next s

/-- The tile that a per-tile entry addresses on a channel (R318); none while its cluster is under self-test (R356). -/
def Blk.selTile (b : Blk) (ch : Channel) : Option Nat :=
  if b.clusterTested (clusterOf (b.sels ch).tile) then none else some (b.sels ch).tile

/-- A write of a per-tile entry (R356). -/
def Blk.odTile (b : Blk) (ch : Channel) (f : Nat → Blk → Od) : Od :=
  match b.selTile ch with
  | some t => f t b
  | none => Od.no b abState

end Sys2Proof.Machine
end

