-- ==== Sys2Proof/Machine/Optics.lean ====
section
/-! DEFINITION. The optics: loops, locks, lane moves, sweeps and calibrations (R246–R260). -/
namespace Sys2Proof.Machine

/-! ### Loop configurations (R253) -/

def lpEn (c : BitVec 128) : Bool := flag c 0
def lpInteg (c : BitVec 128) : Nat := fld c 1 4
def lpTau (c : BitVec 128) : Nat := fld c 5 4
def lpKp (c : BitVec 128) : Nat := fld c 16 12
def lpKi (c : BitVec 128) : Nat := fld c 28 12
def lpKff (c : BitVec 128) : Int := toSigned12 (fld c 40 12)
where toSigned12 (x : Nat) : Int := if x < 2048 then x else (x : Int) - 4096
def lpErrLim (c : BitVec 128) : Nat := fld c 52 12
def lpSetpt (c : BitVec 128) : Nat := fld c 64 16
def lpBase (c : BitVec 128) : Nat := fld c 80 16
def lpMin (c : BitVec 128) : Nat := fld c 96 16
def lpMax (c : BitVec 128) : Nat := fld c 112 16

/-- Loop ids of a port's channel and of a port (R246). -/
def loopsOfCh (p ch : Nat) : List Nat := [10 * p + 2 * ch, 10 * p + 2 * ch + 1]
def loopsOfPort (p : Nat) : List Nat := (List.range 10).map (10 * p + ·)

/-- Whether the comb that feeds a port is locked (R247). -/
def Blk.combOk (b : Blk) (p : Nat) : Bool := b.optics.combs.getD (p / 4) true

/-- H of a port tile under the active generation (R250). -/
def Blk.heat (b : Blk) (p : Nat) : Nat :=
  let t := b.member.portTile p
  let n := (b.sown.active.listed.filter fun x => x.1 = t && eIn x.2.2.2 ≠ inIdle).length
  1024 * n / (5 * b.slots)

/-! ### Locks (R251, R258, R259) -/

/-- Channels of a port whose two loops are locked. -/
def Blk.lockMask (b : Blk) (p : Nat) : Nat :=
  ((List.range 5).map fun ch => if (loopsOfCh p ch).all fun l => (b.loop l).locked then 2 ^ ch else 0).sum

/-- Channels locked at a port. -/
def OptPort.lockedCount (o : OptPort) : Nat := ((List.range 5).filter fun ch => flag o.lockedCh ch).length

/-- The channel of a lane, and the lane of a channel (R254). -/
def OptPort.chanOf (o : OptPort) (lane : Nat) : Nat := fld o.laneMap (3 * lane) 3
def OptPort.laneOf (o : OptPort) (ch : Nat) : Option Nat := (List.range 4).find? fun n => o.chanOf n = ch

/-- Whether a calibration of one channel has begun. -/
def OptPort.calRuns (o : OptPort) : Bool := !o.acquiring && (o.stage = .sweep || o.stage = .fine || o.stage = .verify ||
  (o.stage = .move && o.frames ≠ 0))

/-- The values that a channel had before its calibration come back (R255, R259). -/
def Blk.restoreCh (b : Blk) (p ch : Nat) : Blk :=
  b.each (loopsOfCh p ch) fun b l =>
    match (b.optPort p).saved.get? (l % 10) with
    | none => b
    | some (sp, base) => b.modLoop l fun x => { x with cfg := setFld (setFld x.cfg 64 16 sp.toNat) 80 16 base.toNat }

/-- A calibration ends without success (R255, R259). -/
def Blk.calAbort (b : Blk) (p : Nat) : Blk :=
  let ch := (b.optPort p).calCh
  ((b.restoreCh p ch).modOptPort p fun o =>
    { o with stage := .idle, asked := false, frames := 0, saved := [], best := [] }).raiseS 0x57 0
      (some (b.member.portTile p)) p ch

/-- A lane move is ordered; it takes effect at the next tick (R248, R405). -/
def Blk.orderMove (b : Blk) (p lane ch : Nat) : Blk :=
  let b := b.modOptPort p fun o => { o with moves := o.moves ++ [(lane, ch)] }
  { b with optics := { b.optics with laneOut := b.optics.laneOut ++ [(p, lane, ch)] } }

/-- A calibration gives way to a lane that lost its channel: the lane moves to the calibrated channel once that has locked (R259).
The calibrated channel is the spare meanwhile, unless its own lane has not left it yet (log 170). -/
def Blk.calYield (b : Blk) (p lane : Nat) : Blk :=
  let o := b.optPort p
  (b.calAbort p).modOptPort p fun x =>
    { x with restore := some (lane, o.calCh), spare := if (o.laneOf o.calCh).isNone then o.calCh else o.spare }

/-- A channel that carries a lane has become unlocked (R258, R259). Before a port's lanes are acquired no lane moves. -/
def Blk.carrierLost (b : Blk) (p ch : Nat) : Blk :=
  let o := b.optPort p
  let noSpare := b.raiseS 0x55 0 (some (b.member.portTile p)) p ch
  match o.laneOf ch with
  | none => b
  | some lane =>
    if o.acquiring && !o.resume then b
    else if o.calRuns then b.calYield p lane
    else if o.restore.isNone && o.moves.isEmpty && flag o.lockedCh o.spare && o.spare ≠ ch then
      (b.orderMove p lane o.spare).raiseS 0x54 0 (some (b.member.portTile p)) p ch
    else noSpare

/-- The lock of a port's channels is taken again from its loops: events, wear, and lanes that lost their channel, in rising
channel order (R251, R258, R289). -/
def Blk.relock (b : Blk) (p : Nat) : Blk :=
  let old := (b.optPort p).lockedCh
  let now := BitVec.ofNat 5 (b.lockMask p)
  let t := b.member.portTile p
  let b := b.modOptPort p fun o => { o with lockedCh := now }
  let changed := (List.range 5).filter fun ch => flag old ch != flag now ch
  let b := b.each changed fun b ch =>
    if flag now ch then b.raiseS 0x50 0 (some t) p ch
    else ((b.raiseS 0x51 0 (some t) p ch).count t evLinkRetrain).addWear 2 p 256
  b.each (changed.filter fun ch => !flag now ch) fun b ch => b.carrierLost p ch

/-- Loops become unlocked without a reading: opened for a sweep, or their comb is lost. -/
def Blk.unlockLoops (b : Blk) (ls : List Nat) : Blk :=
  b.each ls fun b l => b.modLoop l fun x => { x with locked := false, goodRuns := 0, badRuns := 0 }

/-! ### One tick of the loops (R249–R251) -/

/-- The readings averaged: the mean of the last n, if there is one. -/
def meanOf (l : List (BitVec 16)) (n : Nat) : Option Nat :=
  let xs := l.take n
  if xs.isEmpty then none else some ((xs.map (·.toNat)).sum / xs.length)

/-- The reading of the frame that ends joins the past ones, unless the frame is excluded. -/
def Loop.takeReading (x : Loop) (excluded : Bool) : Loop :=
  { x with now := [], past := if excluded then x.past else (x.now ++ x.past).take 512 }

def clampI (lo hi v : Int) : Int := max lo (min hi v)

/-- One running loop: error, integral, feed-forward, DAC code and lock (R249, R251). -/
def Loop.step (x : Loop) (h hRef : Nat) (combOk : Bool) : Loop × Bool :=
  match meanOf x.past (2 ^ lpInteg x.cfg) with
  | none => (x, false)
  | some rd =>
    let e : Int := (lpSetpt x.cfg : Int) - rd
    let i := clampI (-(2 ^ 31)) (2 ^ 31 - 1) (x.i + lpKi x.cfg * e)
    let ff := x.ff + (lpKff x.cfg * ((h : Int) - hRef) * 16 - x.ff) / 2 ^ lpTau x.cfg
    let dac := clampI (lpMin x.cfg) (lpMax x.cfg) (lpBase x.cfg + (lpKp x.cfg * e + i + ff) / 2 ^ 8)
    let good := e.natAbs ≤ lpErrLim x.cfg
    let rail := dac = lpMin x.cfg || dac = lpMax x.cfg
    let goodRuns := if good then x.goodRuns + 1 else 0
    let badRuns := if good then 0 else x.badRuns + 1
    let railRuns := if rail then x.railRuns + 1 else 0
    let locked := combOk && badRuns < 8 && railRuns < 8 && (x.locked || 16 ≤ goodRuns)
    ({ x with e := e, i := i, ff := ff, dac := BitVec.ofNat 16 dac.toNat, goodRuns := goodRuns, badRuns := badRuns,
              railRuns := railRuns, locked := locked },
     railRuns = 8)

/-- Whether a loop is open: its channel is swept or held (R255, R257). -/
def OptPort.opens (o : OptPort) (ch : Nat) : Bool :=
  (o.stage = .sweep || o.stage = .fine) && (o.acquiring || o.calCh = ch)

/-- The code of a sweep's step k (R255): 64 steps across DAC_MIN to DAC_MAX. -/
def sweepCode (c : BitVec 128) (k : Nat) : BitVec 16 :=
  BitVec.ofNat 16 (lpMin c + (lpMax c - lpMin c) * min k 63 / 63)

/-- The DAC code of a loop, as it is put out at this tick (R405). -/
def Blk.dacPut (b : Blk) (l : Nat) (code : BitVec 16) : Blk :=
  let b := b.modLoop l fun x => { x with dac := code }
  { b with optics := { b.optics with dacOut := b.optics.dacOut ++ [(l, code)] } }

/-- The loops that a port's sweep or hold acts on. -/
def OptPort.calLoops (o : OptPort) (p : Nat) : List Nat := if o.acquiring then loopsOfPort p else loopsOfCh p o.calCh

/-- Whether a reading of a sweep is the best so far (R255). -/
def OptPort.bestSoFar (o : OptPort) (l : Nat) (rd : BitVec 16) : Bool :=
  match o.best.get? (l % 10) with
  | none => true
  | some x => Config.betterReading rd x.2

/-- A reading of a sweep is kept if it is the best so far (R255). -/
def Blk.sweepRead (b : Blk) (p l : Nat) : Blk :=
  match (b.loop l).past.head? with
  | none => b
  | some rd =>
    if (b.optPort p).bestSoFar l rd then
      b.modOptPort p fun o => { o with best := o.best.put (l % 10) ((b.loop l).dac, rd) }
    else b

/-- A port's sweep at a tick: even frames settle, odd ones are read; a step with an excluded frame is repeated. -/
def Blk.sweepTick (b : Blk) (p : Nat) (excluded : Bool) : Blk :=
  let o := b.optPort p
  let ls := o.calLoops p
  let n := o.frames
  let b := if !excluded && n % 2 = 1 then b.each ls fun b l => b.sweepRead p l else b
  let n' := if excluded then n / 2 * 2 else n + 1
  let b := b.modOptPort p fun o => { o with frames := n' }
  b.each ls fun b l => b.dacPut l (sweepCode (b.loop l).cfg (n' / 2))

/-- Lane moves ordered at the last tick take effect; outside a calibration the channel left becomes the spare (R248, R258). -/
def OptPort.applyMoves (o : OptPort) : OptPort :=
  o.moves.foldl
    (fun o m =>
      let from_ := o.chanOf m.1
      { o with laneMap := setFld o.laneMap (3 * m.1) 3 m.2, spare := if o.calRuns then o.spare else from_ })
    { o with moves := [] }

/-- Frames that a channel has been locked, up to 16. -/
def OptPort.lockedFor (o : OptPort) (ch : Nat) : Nat := o.since.getD ch 0

/-- A calibration that is due begins when the spare has been locked for 16 frames, else is deferred (R255, R259). -/
def Blk.calBegin (b : Blk) (p : Nat) : Blk :=
  let o := b.optPort p
  if 16 ≤ o.lockedFor o.spare then
    let saved := (loopsOfCh p o.calCh).map fun l =>
      (l % 10, (BitVec.ofNat 16 (lpSetpt (b.loop l).cfg), BitVec.ofNat 16 (lpBase (b.loop l).cfg)))
    let b := b.modOptPort p fun o => { o with stage := .move, frames := 1, asked := false, saved := saved, best := [] }
    match o.laneOf o.calCh with
    | some lane => b.orderMove p lane o.spare
    | none => b
  else if o.stage = .deferred then b
  else (b.modOptPort p fun o => { o with stage := .deferred }).raiseS 0x58 0 (some (b.member.portTile p)) p o.calCh

/-- Whether a calibration asked for may begin: nothing else runs at the port, and no lane waits to move (R255, R259). -/
def OptPort.mayBegin (o : OptPort) : Bool :=
  o.asked && (o.stage = .idle || o.stage = .deferred) && o.restore.isNone && o.moves.isEmpty

/-- Ports that are calibrating a channel now. -/
def Blk.calibrating (b : Blk) : Nat := (b.optics.ports.filter fun x => x.2.calRuns).length

/-- Ordered lane moves are made, and every loop takes this frame's reading (R249, R255). -/
def Blk.opticReadings (b : Blk) (excluded : Bool) (p : Nat) : Blk :=
  (b.modOptPort p OptPort.applyMoves).each (loopsOfPort p) fun b l => b.modLoop l fun x => x.takeReading excluded

/-- One enabled loop makes its step; an edge raises its event (R249–R251). -/
def Blk.opticStep (b : Blk) (h hRef : Nat) (comb : Bool) (p l : Nat) : Blk :=
  let r := (b.loop l).step h hRef comb
  let b := (b.modLoop l fun _ => r.1).dacPut l r.1.dac
  if r.2 then b.raiseS 0x52 0 (some (b.member.portTile p)) p (l % 10 / 2) l else b

/-- Every enabled loop that no calibration has opened makes its step. -/
def Blk.opticSteps (b : Blk) (p : Nat) : Blk :=
  let o := b.optPort p
  let h := b.heat p
  let ok := b.combOk p
  b.each ((loopsOfPort p).filter fun l => lpEn (b.loop l).cfg && !o.opens (l % 10 / 2)) fun b l => b.opticStep h o.hRef ok p l

/-- A calibration's stage counts the frame (R255). -/
def Blk.opticCount (b : Blk) (excluded : Bool) (p : Nat) : Blk :=
  let o := b.optPort p
  if o.stage = .sweep then b.sweepTick p excluded
  else if o.stage = .fine || o.stage = .verify then
    b.modOptPort p fun o => { o with frames := if excluded && o.stage = .fine then o.frames else o.frames + 1 }
  else b

/-- H of the frame that begins, and the frames that each channel has been locked. -/
def OptPort.frameOf (o : OptPort) (h : Nat) : OptPort :=
  { o with hEnded := o.hNow, hNow := h,
           since := (List.range 5).foldl (fun s ch => if flag o.lockedCh ch then s.put ch (min 16 (s.getD ch 0 + 1)) else s.del ch) o.since }

/-- The lane that waits for a calibrated channel moves there once it has locked (R259). -/
def Blk.opticRestore (b : Blk) (p : Nat) : Blk :=
  let h := b.heat p
  let b := b.modOptPort p fun o => o.frameOf h
  let o := b.optPort p
  match o.restore with
  | some (lane, ch) =>
    if flag o.lockedCh ch then (b.orderMove p lane ch).modOptPort p fun x => { x with restore := none } else b
  | none => b

/-- One port at step 7 (R249–R259). -/
def Blk.opticPort (b : Blk) (excluded : Bool) (p : Nat) : Blk :=
  if !(b.port p).cage.present || (b.port p).pwr = .fallow then b
  else
    let b := ((((b.opticReadings excluded p).opticSteps p).opticCount excluded p).relock p).opticRestore p
    if (b.optPort p).mayBegin && b.calibrating < b.optics.calMax then b.calBegin p else b

/-- Step 7 of the tick that ends frame f: every port in order. The frame that a swap began is excluded. -/
def Blk.opticsTick (b : Blk) (ended : BitVec 48) : Blk :=
  let b : Blk := { b with optics := { b.optics with dacOut := [], laneOut := [] } }
  let excluded := ended ≠ 0#48 && b.sown.lastSwap = ended
  b.each (List.range b.member.ports) fun b p => b.opticPort excluded p

/-! ### Stages (R255, R257) -/

/-- The loops of a sweep are opened and their first code is put out. No frame before counts towards a rail (R251). -/
def Blk.sweepBegin (b : Blk) (p : Nat) : Blk :=
  let b := b.modOptPort p fun o => { o with stage := .sweep, frames := 0, best := [] }
  let ls := (b.optPort p).calLoops p
  let b := (b.unlockLoops ls).each ls fun b l =>
    (b.dacPut l (sweepCode (b.loop l).cfg 0)).modLoop l fun x => { x with railRuns := 0 }
  b.relock p

/-- All ten loops of a port acquire at once; channel 4 starts as the spare (R257). -/
def Blk.acquire (b : Blk) (p : Nat) : Blk :=
  (b.modOptPort p fun o => { o with acquiring := true, resume := false, spare := 4, laneMap := 0x688#12, moves := [],
                                    restore := none, asked := false, saved := [] }).sweepBegin p

/-- An acquisition ends: with four channels locked, or tried again once, then given up (R257). -/
def Blk.acquireEnd (b : Blk) (p : Nat) : Blk :=
  let o := b.optPort p
  if 4 ≤ o.lockedCount then
    b.modOptPort p fun o => { o with stage := .idle, acquiring := false, resume := false, acqFails := 0, frames := 0 }
  else if o.resume then b.acquire p
  else if o.acqFails = 0 then (b.modOptPort p fun o => { o with acqFails := 1 }).acquire p
  else (b.modOptPort p fun o => { o with stage := .idle, acquiring := false, acqFails := 0, frames := 0 }).raiseS 0x59 0
    (some (b.member.portTile p)) p

/-- The end of FINE: SETPT, DAC_BASE and H_REF are written (R255). H_REF is the H of the last frame of FINE (R254, log 171). -/
def Blk.fineEnd (b : Blk) (p : Nat) : Blk :=
  let b := b.each ((b.optPort p).calLoops p) fun b l => b.modLoop l fun x =>
    let c := setFld x.cfg 80 16 x.dac.toNat
    { x with cfg := match meanOf x.past 512 with
        | some rd => setFld c 64 16 rd
        | none => c }
  b.modOptPort p fun o => { o with stage := .verify, frames := 0, hRef := o.hEnded }

/-- The end of VERIFY of one channel: it is the spare from now on (R255). -/
def Blk.verifyEnd (b : Blk) (p : Nat) : Blk :=
  let o := b.optPort p
  let f := b.clk.frame
  let done := fun (o : OptPort) => { o with spare := o.calCh, lastCh := o.calCh, lastEnd := f }
  if flag o.lockedCh o.calCh then
    (b.modOptPort p fun o => { done o with stage := .idle, frames := 0, saved := [], best := [], since := o.since.put o.calCh 16 }).raiseS
      0x56 0 (some (b.member.portTile p)) p o.calCh
  else (b.calAbort p).modOptPort p done

/-- The stage in progress at a port ends (R255, R257). -/
def Blk.calStageEnd (b : Blk) (p : Nat) : Blk :=
  let o := b.optPort p
  match o.stage with
  | .idle => b
  | .deferred => b
  | .move => if o.frames = 0 then b else b.sweepBegin p
  | .sweep =>
    let b := b.each (o.calLoops p) fun b l =>
      let code := ((o.best.get? (l % 10)).map (·.1)).getD (b.loop l).dac
      (b.dacPut l code).modLoop l fun x => { x with past := [], now := [] }
    b.modOptPort p fun o => { o with stage := .fine, frames := 0 }
  | .fine => b.fineEnd p
  | .verify => if o.acquiring then b.acquireEnd p else b.verifyEnd p

/-! ### The commands -/

/-- The comb that feeds four ports is lost: every loop of theirs counts as unlocked (R247). -/
def Blk.combLost (b : Blk) (c : Nat) : Blk :=
  if !b.optics.combs.getD c true then b
  else
    let ps := (List.range 4).map (4 * c + ·)
    let b : Blk := { b with optics := { b.optics with combs := b.optics.combs.put c false } }
    (b.raiseS 0x53 0 none c).each ps fun b p => (b.unlockLoops (loopsOfPort p)).relock p
def execCombLost (comb : Nat) (s : State) : Out := s.mesh (.combLost comb) (·.combLost comb)

/-- The comb is locked again; its loops lock by their readings. -/
def Blk.combLocked (b : Blk) (c : Nat) : Blk := { b with optics := { b.optics with combs := b.optics.combs.put c true } }
def execCombLocked (comb : Nat) (s : State) : Out := s.mesh (.combLocked comb) (·.combLocked comb)

/-- A monitor reading: it belongs to the frame in progress (R405). -/
def Blk.adcReading (b : Blk) (l : Nat) (code : BitVec 16) : Blk :=
  b.modLoop l fun x => { x with last := code, now := [code] }
def execAdcReading (loop : Nat) (code : BitVec 16) (s : State) : Out := s.mesh (.adcReading loop code) (·.adcReading loop code)

/-- The loop's bits that a write sets. -/
def loopMask : BitVec 128 := ~~~BitVec.ofNat 128 (127 * 2 ^ 9)

/-- A write of a loop's configuration: refused for a loop of a channel under calibration, and with DAC_MIN above DAC_MAX
(R253, R259). -/
def Blk.writeLoop (b : Blk) (l : Nat) (v : BitVec 128) : Od :=
  let o := b.optPort (l / 10)
  if o.calRuns && o.calCh = l % 10 / 2 then Od.no b abState
  else if lpMax v < lpMin v then Od.no b abRange
  else Od.ok (b.modLoop l fun x => { x with cfg := setFld v 1 4 (min 9 (lpInteg v)) &&& loopMask })
def execLoopConfigWrite (ch : Channel) (value : BitVec 128) (s : State) : Out :=
  s.od (.loopConfigWrite ch value) ch true fun b => b.writeLoop (b.sels ch).loop value

/-- A write of OPT_PORT: CAL_AUTO and the request CAL_GO of CAL_CH (R254). A basic channel changes CAL_AUTO only (R260). -/
def Blk.writeOptPort (b : Blk) (expert : Bool) (p : Nat) (v : BitVec 64) : Od :=
  let o := b.optPort p
  let ch := fld v 16 3
  let go := flag v 19
  if (go || ch ≠ 0) && !expert then Od.no b abLevel
  else if 4 < ch then Od.no b abRange
  else if go && o.stage ≠ .idle then Od.no b abState
  else Od.ok (b.modOptPort p fun o =>
    { o with calAuto := flag v 15, asked := o.asked || go, calCh := if go then ch else o.calCh })
def execCalGo (ch : Channel) (value : BitVec 64) (s : State) : Out :=
  s.od (.calGo ch value) ch false fun b => b.writeOptPort (b.expert ch) (b.sels ch).optPort value

/-- The next channel of a port's rotation: rising, wrapping from 4 to 0, the spare skipped (R256). -/
def OptPort.nextCh (o : OptPort) : Nat :=
  let c := (o.lastCh + 1) % 5
  if c = o.spare then (c + 1) % 5 else c

/-- A port's calibration is due (R256). -/
def Blk.calDue (b : Blk) (p : Nat) : Blk :=
  let o := b.optPort p
  if o.calAuto && o.stage = .idle && !o.asked && (b.port p).cage.present then
    b.modOptPort p fun o => { o with asked := true, calCh := o.nextCh }
  else b
def execCalDue (port : Nat) (s : State) : Out := s.mesh (.calDue port) (·.calDue port)

/-- The module is gone: the loops stop and hold their codes; a calibration is aborted (R257, R259). -/
def Blk.opticsGone (b : Blk) (p : Nat) : Blk :=
  let o := b.optPort p
  let b := if o.calRuns || o.stage = .move || o.stage = .deferred then b.calAbort p else b
  b.modOptPort p fun o => { o with stage := .idle, acquiring := false, resume := false, asked := false, moves := [],
                                   restore := none, acqFails := 0 }

/-- The optics of a port return to ON: locked channels verify; with fewer than four locked the port acquires (R307). A calibration
that FALLOW stopped is aborted (log 170). -/
def Blk.opticsOn (b : Blk) (p : Nat) : Blk :=
  if !(b.port p).cage.present then b
  else if (b.optPort p).lockedCount < 4 then b.acquire p
  else
    let b := if (b.optPort p).calRuns then (b.calAbort p).modOptPort p fun o =>
        { o with spare := if (o.laneOf o.calCh).isNone then o.calCh else o.spare } else b
    b.modOptPort p fun o => { o with stage := .verify, acquiring := true, resume := true, frames := 0 }

end Sys2Proof.Machine
end

