-- ==== Sys2Proof/Machine/Forward.lean ====
section
/-! DEFINITION. How a DFP crosses the block to its egress port: over the open plane or on a PORT furrow (R33, R231, R232). -/
namespace Sys2Proof.Machine

/-- A DFP offered to the open plane as an MSG_DFP message of the tile (R158, R232). -/
def Blk.sendOpen (b : Blk) (t plot target queue : Nat) (data : Bytes) : Blk :=
  let id := (b.tile t).ms.msgId
  let d : DfpSend :=
    { target := target, queue := queue, plot := plot, data := data, issued := 0, outst := 0, msgId := id, failed := false }
  b.modTile t fun x =>
    { x with ms := { x.ms with msgId := (x.ms.msgId + 1) % 65536 }, net := { x.net with dfpOut := x.net.dfpOut ++ [d] } }

/-- KIND of a DFP's envelope: 2 for a marker (R33, R382). -/
def envKind (h : BitVec 256) : Nat := if fType h = 4 then 2 else 1

/-- A DFP leaves a tile for an egress port, with its color and queue: as a message when OPEN is set, else on the plot's PORT
furrow toward the egress tile with the lowest FURROW; none where the plot has none (R231). -/
def Blk.forward (b : Blk) (t plot inPort : Nat) (h : BitVec 256) (color : Nat) (payload : Bytes) (p queue : Nat)
    (open_ : Bool) : Option Blk :=
  let peer := b.member.portTile p
  let env := envelope h inPort color queue (b.clk.frame.toNat % 2 ^ 32)
  if open_ then some (b.sendOpen t plot peer queue (env ++ payload))
  else (b.portFurrow t plot peer).map fun d => b.stage t d p (fClass h) (trainCells (some (envKind h, env)) payload)

end Sys2Proof.Machine
end

