-- ==== Sys2Proof/Machine/Suspect.lean ====
section
/-! DEFINITION. The quorum group: its table, its messages, suspicions and the joining of a round (R293–R296). -/
namespace Sys2Proof.Machine

def qmCoord (e : BitVec 64) : Nat := fld e 0 32
def qmPort (e : BitVec 64) : Nat := fld e 32 8
def qmValid (e : BitVec 64) : Bool := flag e 40

def Quorum.member (q : Quorum) (m : Nat) : BitVec 64 := q.members.getD m 0#64

/-- The VALID members. -/
def Quorum.valid (q : Quorum) : List Nat := (List.range 32).filter fun m => qmValid (q.member m)

/-- The members that take part in rounds: VALID and not in FAILED (R295). -/
def Quorum.live (q : Quorum) : List Nat := q.valid.filter fun m => !flag q.failed m

/-- A bitmap of members. -/
def bitmap (l : List Nat) : BitVec 32 := l.foldl (fun a m => a ||| BitVec.ofNat 32 (2 ^ m)) 0#32

/-- GROUP_ID: CRC-32C of the group table, the 32 member entries in order, 8 bytes each (R293). -/
def Quorum.groupId (q : Quorum) : BitVec 32 := crc32c ((List.range 32).flatMap fun m => toBytes 8 (q.member m).toNat)

/-- The payload cell of a quorum DFP (R293). -/
def QMsg.bytes (x : QMsg) : Bytes :=
  padTo 64 (toBytes 1 x.kind ++ toBytes 1 x.sender ++ toBytes 1 x.pass ++ [0#8] ++ toBytes 4 x.round.toNat ++
    toBytes 4 x.set.toNat ++ toBytes 4 x.group.toNat)

/-- A TYPE 5 DFP of plot 0 is handed to the admin sub-network, which takes it from the system tile to the tile of the port that
the lookup names (R13, R36, R230, R293, log 14). It goes nowhere without a lookup entry and an egress port that is UP. -/
def Blk.quorumOut (b : Blk) (h : BitVec 256) (payload : Bytes) : Blk :=
  match b.lookup 0 (fDst h) with
  | none => b
  | some e =>
    if lkKind e = 3 then b
    else
      let (p, halfB, up, b) := b.egressOf 0 0 e
      let x := (true, b.member.portTile p, toBytes 1 (bit halfB) ++ toBytes 32 h.toNat ++ payload)
      if up then { b with quorum := { b.quorum with net := b.quorum.net ++ [x] } } else b

/-- A message is sent to a member as a TYPE 5 DFP of plot 0 from the system tile (R36, R293). -/
def Blk.qSend (b : Blk) (m : Nat) (x : QMsg) : Blk :=
  let h := dfpHdr 5 0xFFFF 63 4 (qmCoord (b.quorum.member m)) b.self x.round.toNat 0 64
  let b : Blk := { b with quorum := { b.quorum with out := b.quorum.out ++ [(m, x)] } }
  b.quorumOut h x.bytes

/-- A message to each of a list of members, this one left out; `out` holds the messages of the last sending. -/
def Blk.qSendAll (b : Blk) (dest : List Nat) (kind pass : Nat) (round set : BitVec 32) : Blk :=
  let x : QMsg := { kind := kind, sender := b.quorum.self, pass := pass, round := round, set := set, group := b.quorum.groupId }
  let b : Blk := { b with quorum := { b.quorum with out := [] } }
  b.each (dest.filter fun m => m ≠ b.quorum.self) fun b m => b.qSend m x

/-- A heartbeat is sent to every VALID member (R293, R295). -/
def Blk.heartbeatSend (b : Blk) : Blk :=
  if b.quorum.en && !b.quorum.selfOut then b.qSendAll b.quorum.valid 1 0 b.quorum.maxRound 0#32 else b

/-- The larger of two round numbers. -/
def maxRoundOf (a c : BitVec 32) : BitVec 32 := if a.toNat < c.toNat then c else a

/-- This member joins a round: it sends its VIEW (R296). -/
def Blk.qJoin (b : Blk) (r s : BitVec 32) : Blk :=
  let v := s ||| b.quorum.held
  let rd : Round :=
    { number := r, v := v, views := [(b.quorum.self, v)], commit1 := [], commit2 := [], f := 0#32, phase := 1 }
  let b : Blk := { b with quorum := { b.quorum with round := r, maxRound := maxRoundOf b.quorum.maxRound r, cur := some rd } }
  b.qSendAll b.quorum.live 2 0 r v

/-- A suspicion of a member: it starts a round, or is held while one runs (R295, R296, R298). -/
def Blk.suspect (b : Blk) (m : Nat) : Blk :=
  let q := b.quorum
  if !q.en || q.selfOut || !qmValid (q.member m) || flag q.failed m || m = q.self then b
  else
    let b : Blk := { b with quorum := { q with held := q.held ||| BitVec.ofNat 32 (2 ^ m) } }
    if q.cur.isSome then b else b.qJoin (q.maxRound + 1) 0#32

/-- A port has left UP other than through DRAIN: every member that it faces is suspected (R295). -/
def Blk.suspectPort (b : Blk) (p : Nat) : Blk :=
  b.each (b.quorum.valid.filter fun m => qmPort (b.quorum.member m) = p) fun b m => b.suspect m

/-- A suspicion no longer holds. -/
def Blk.unsuspect (b : Blk) (m : Nat) : Blk :=
  { b with quorum := { b.quorum with held := b.quorum.held &&& ~~~BitVec.ofNat 32 (2 ^ m) } }

def execHeartbeatSend (s : State) : Out := s.mesh .heartbeatSend (·.heartbeatSend)
def execHeartbeatMiss (member : Nat) (s : State) : Out := s.mesh (.heartbeatMiss member) (·.suspect member)

end Sys2Proof.Machine
end

