-- ==== Sys2Proof/Machine/Ports.lean ====
section
/-! DEFINITION. Ports: states, bonds, cages and the front panel (R216–R223, R257, R307, R404). -/
namespace Sys2Proof.Machine

/-- The number of a state (R220). -/
def PortState.code : PortState → Nat
  | .absent => 0
  | .down => 1
  | .up => 2
  | .draining => 3
  | .safe => 4

/-- What an LED shows (R220, R404): off, on, a slow blink of 1 Hz or a fast blink of 4 Hz. -/
inductive Led where
  | off | on | slow | fast
  deriving DecidableEq, Repr

/-- The LED of a port (R220). -/
def Port.led (p : Port) : Led :=
  match p.state with
  | .absent => .off
  | .down => .slow
  | .up => .on
  | .draining => .fast
  | .safe => .off

/-! ### Bonds (R219) -/

/-- Whether a port's group has formed: every member exists, lies in the lead's row and has the port's MODE and BOND. -/
def Blk.bondFormed (b : Blk) (p : Nat) : Bool :=
  let c := (b.port p).ctrl
  let row := b.member.width / 2
  (b.members (b.leadOf p)).all fun q =>
    q < b.member.ports && q / row = p / row && (b.port q).ctrl.mode = c.mode && (b.port q).ctrl.bond = c.bond

/-- One BOND_MISMATCH for a group that has ceased to be formed, or has not formed (R219): the group that a port leads. A group
without a member is no mismatch. -/
def Blk.bondCheck (b : Blk) (lead : Nat) : Blk :=
  let ms := ((List.range 4).map (lead + ·)).filter fun q => (b.port q).ctrl.bond ≠ 0 && b.leadOf q = lead
  if ms.all b.bondFormed then b.modPort lead fun x => { x with bondFault := false }
  else if (b.port lead).bondFault then b
  else (b.modPort lead fun x => { x with bondFault := true }).raiseS 0x42 0 (some (b.member.portTile lead)) lead

/-! ### State changes (R221) -/

/-- A port takes a state; each change raises one PORT_STATE. -/
def Blk.portTo (b : Blk) (p : Nat) (s : PortState) : Blk :=
  let old := (b.port p).state
  if old = s then b
  else
    let b := b.modPort p fun x => { x with state := s, cage := { x.cage with autoPend := x.cage.autoPend && s = .down } }
    let b := b.raiseS 0x40 0 (some (b.member.portTile p)) p (old.code + 256 * s.code)
    if s = .up then
      b.each (b.quorum.valid.filter fun m => qmPort (b.quorum.member m) = p) fun b m => b.unsuspect m
    else b

/-- The transitions of a port's die. -/
def Blk.portQueue (b : Blk) (p : Nat) : List Transition :=
  b.power.queues.getD (b.member.dieOf (b.member.portTile p)) []

/-- Whether a transition of a port to FALLOW is queued or in progress. -/
def Blk.portFalling (b : Blk) (p : Nat) : Bool := (b.portQueue p).any fun t => t.unit = .port p .fallow

/-- Whether a port can enter UP from its state (R219, R221, R257, R307); one on its way to FALLOW cannot (log 178). -/
def Blk.canUp (b : Blk) (p : Nat) : Bool :=
  let x := b.port p
  x.pwr = .on && !b.portFalling p && x.cage.link &&
  match x.state with
  | .down => x.ctrl.mode ≠ 0 && b.bondFormed p && 4 ≤ (b.optPort p).lockedCount
  | .safe => x.ctrl.bond = 0 || b.bondFormed p
  | _ => false

/-- AUTO_UP after an insertion (R221). -/
def Blk.autoUp (b : Blk) (p : Nat) : Blk :=
  let x := b.port p
  if x.state = .down && x.ctrl.autoUp && x.cage.autoPend && b.canUp p then b.portTo p .up else b

/-- Both outputs' frames in transmission end with an error (R221, R394). -/
def Blk.abortBoth (b : Blk) (p : Nat) : Blk := (b.abortTx p false).abortTx p true

/-- A port leaves service: queued DFPs go under 0x5C, and members that it faces are suspected unless it leaves by DRAIN. -/
def Blk.portLeave (b : Blk) (p : Nat) (dest : PortState) : Blk :=
  let wasUp : Bool := (b.port p).state = .up
  let b := (b.portTo p dest).discard p 0x5C fun _ _ => true
  if wasUp then b.suspectPort p else b

/-- A port's FALLOW that was accepted in this mc is withdrawn and refused (R313). -/
def Blk.unfallow (b : Blk) (p : Nat) : Blk :=
  if b.noted (.portFallow p) then
    let d := b.member.dieOf (b.member.portTile p)
    let l := (b.portQueue p).filter fun t => t.unit ≠ .port p .fallow
    { b.countSys evPwrRefused with power := { b.power with queues := b.power.queues.put d l } }
  else b

/-- Command UP (R217, R221, R307). It is decided before a FALLOW of the port in the same mc (R313). -/
def Blk.portUp (b : Blk) (p : Nat) : Od :=
  if (b.unfallow p).canUp p then Od.ok ((b.unfallow p).portTo p .up)
  else if (b.port p).pwr = .fallow || b.portFalling p then Od.no b abState
  else Od.ok b

/-- Command DRAIN, and a press in UP. -/
def Blk.portDrain (b : Blk) (p : Nat) : Blk := if (b.port p).state = .up then b.portTo p .draining else b

/-- Command DOWN. -/
def Blk.portDown (b : Blk) (p : Nat) : Blk :=
  match (b.port p).state with
  | .absent => b
  | .down => b
  | _ => b.portLeave p .down

/-- A host command has reached a port in this mc (R223). -/
def Blk.portCmd (p : Nat) (r : Od) : Od := (r.1.note (.portCmd p), r.2)

def execPortUp (port : Nat) (s : State) : Out :=
  s.steward (.portUp port) fun b => (Blk.portCmd port (b.portUp port)).1.answer (b.portUp port).2
def execPortDrain (port : Nat) (s : State) : Out := s.steward (.portDrain port) fun b => (b.portDrain port).note (.portCmd port)
def execPortDown (port : Nat) (s : State) : Out := s.steward (.portDown port) fun b => (b.portDown port).note (.portCmd port)

/-- Module presence asserted: ABSENT to DOWN, and the loops acquire when the port is ON (R221, R257, R307). A pressed button is
ignored until it reads released (R223). -/
def Blk.moduleInsert (b : Blk) (p : Nat) : Blk :=
  if (b.port p).state ≠ .absent then b
  else
    let b := b.modPort p fun x =>
      { x with cage := { x.cage with present := true, autoPend := true, btnIgnore := x.cage.btnIgnore || x.cage.button } }
    let b := (b.portTo p .down).unlockLoops (loopsOfPort p)
    if (b.port p).pwr = .on then (b.modOptPort p fun o => { o with acqFails := 0 }).acquire p else b.relock p

/-- Whether a draining port changes to SAFE now: its egress buffer is empty and no cell has arrived for 2 frames (R221). -/
def Blk.drained (b : Blk) (p : Nat) : Bool :=
  let x := b.port p
  x.state = .draining && x.eg.held.isEmpty && x.eg.rx.isEmpty && 2 ≤ (b.clk.frame - x.cage.lastCell).toNat

/-- Module presence deasserted: any state to ABSENT; PORT_REMOVED says whether that was unsafe (R221, R257, R259). A change to SAFE
in the same mc makes it safe (R223). -/
def Blk.moduleRemove (b : Blk) (p : Nat) : Blk :=
  let old := (b.port p).state
  if old = .absent then b
  else
    let safe : Bool := old = .safe || old = .down || b.drained p
    let b := b.modPort p fun x => { x with cage := { x.cage with present := false } }
    let b := ((b.abortBoth p).portLeave p .absent).raiseS 0x41 0 (some (b.member.portTile p)) p
      (old.code + (if safe then 0 else 2 ^ 16))
    b.opticsGone p

def execModuleInsert (port : Nat) (s : State) : Out := s.panel (.moduleInsert port) port (·.moduleInsert port)
def execModuleRemove (port : Nat) (s : State) : Out := s.panel (.moduleRemove port) port (·.moduleRemove port)

/-- A press of the service button is decided as the mc ends, when it is known whether a host command met it (R222, R223, R307). -/
def Blk.svcPress (b : Blk) (p : Nat) : Blk :=
  let x := b.port p
  if x.pwr = .fallow || x.cage.btnIgnore then b else b.note (.press p)

/-- A press acts: nothing where a host command reached the port in the same mc (R222, R223). -/
def Blk.pressActs (b : Blk) (p : Nat) : Blk :=
  if b.noted (.portCmd p) then b
  else match (b.port p).state with
    | .up => b.portDrain p
    | .safe => if (b.port p).cage.present && b.canUp p then b.portTo p .up else b
    | _ => b
def execSvcPress (port : Nat) (s : State) : Out := s.panel (.svcPress port) port (·.svcPress port)

/-- The button has been held for 60 s: one SVC_STUCK, and no press until it has read released (R222). -/
def Blk.svcStuck (b : Blk) (p : Nat) : Blk :=
  if (b.port p).cage.stuckSent then b
  else (b.modPort p fun x => { x with cage := { x.cage with stuckSent := true, btnIgnore := true } }).raiseS 0x44 0
    (some (b.member.portTile p)) p
def execSvcStuck (port : Nat) (s : State) : Out := s.panel (.svcStuck port) port (·.svcStuck port)

/-! ### The front panel (R222, R223, R404) -/

/-- Samples after which a level counts: one scan a ms, 20 ms. -/
def stableScans : Nat := 20

/-- The first scan after reset that reads a button pressed (R222). -/
def Blk.firstScan (b : Blk) (p : Nat) (pressed : Bool) : Blk :=
  if (b.port p).cage.scanned then b
  else
    let b := b.modPort p fun x => { x with cage := { x.cage with scanned := true } }
    if pressed then
      (b.modPort p fun x => { x with cage := { x.cage with button := true, btnIgnore := true } }).raiseS 0x43 0
        (some (b.member.portTile p)) p
    else b

/-- A presence sample. -/
def Blk.scanPresence (b : Blk) (p : Nat) (level : Bool) : Blk :=
  let c := (b.port p).cage
  if level = c.present then b.modPort p fun x => { x with cage := { x.cage with presentRuns := 0 } }
  else if c.presentRuns + 1 < stableScans then
    b.modPort p fun x => { x with cage := { x.cage with presentRuns := c.presentRuns + 1 } }
  else
    let b := b.modPort p fun x => { x with cage := { x.cage with presentRuns := 0 } }
    if level then b.moduleInsert p else b.moduleRemove p

/-- A button sample. -/
def Blk.scanButton (b : Blk) (p : Nat) (level : Bool) : Blk :=
  let c := (b.port p).cage
  if level = c.button then b.modPort p fun x => { x with cage := { x.cage with buttonRuns := 0 } }
  else if c.buttonRuns + 1 < stableScans then
    b.modPort p fun x => { x with cage := { x.cage with buttonRuns := c.buttonRuns + 1 } }
  else if level then
    (b.modPort p fun x => { x with cage := { x.cage with button := true, buttonRuns := 0 } }).svcPress p
  else
    b.modPort p fun x => { x with cage := { x.cage with button := false, buttonRuns := 0, btnIgnore := false, stuckSent := false } }

/-- One scan of the chain: presence first, then the button, port by port; bits of absent ports are ignored. -/
def Blk.frontPanel (b : Blk) (bits : BitVec 512) : Blk :=
  b.each (List.range b.member.ports) fun b p =>
    let pressed := flag bits (2 * p + 1)
    ((b.firstScan p pressed).scanPresence p (flag bits (2 * p))).scanButton p pressed
def execFrontPanelScan (bits : BitVec 512) (s : State) : Out := s.mesh (.frontPanelScan bits) (·.frontPanel bits)

/-! ### Link and drain (R221, R288, R394) -/

/-- The MAC reports link. -/
def Blk.portLinkUp (b : Blk) (p : Nat) : Blk :=
  ((b.modPort p fun x => { x with cage := { x.cage with link := true } }).undeclare fcPort p).autoUp p

/-- The MAC reports link down: the port leaves service, open frames end, the fault is declared. -/
def Blk.portLinkDown (b : Blk) (p : Nat) : Blk :=
  if !(b.port p).cage.link then b
  else
    let b := (b.modPort p fun x => { x with cage := { x.cage with link := false } }).abortBoth p
    let b := if (b.port p).state = .up || (b.port p).state = .draining then b.portLeave p .down else b
    b.declare fcPort p

def execPortLinkUp (port : Nat) (s : State) : Out := s.mesh (.portLinkUp port) (·.portLinkUp port)
def execPortLinkDown (port : Nat) (s : State) : Out := s.mesh (.portLinkDown port) (·.portLinkDown port)

/-- The buffer of a draining port is empty and no cell has arrived for 2 frames. -/
def Blk.drainComplete (b : Blk) (p : Nat) : Blk := if b.drained p then b.portTo p .safe else b

/-- DRAIN_LIMIT expires in this mc: what is still queued as the mc ends is discarded, so the last DFP may leave (R223). -/
def Blk.drainExpiry (b : Blk) (p : Nat) : Blk := if (b.port p).state = .draining then b.note (.expiry p) else b

/-- The limit acts: SAFE, the queued DFPs discarded (R221). -/
def Blk.expiryActs (b : Blk) (p : Nat) : Blk :=
  if (b.port p).state = .draining then (b.discard p 0x5D fun _ _ => true).portTo p .safe else b

def execDrainComplete (port : Nat) (s : State) : Out := s.mesh (.drainComplete port) (·.drainComplete port)
def execDrainLimitExpiry (port : Nat) (s : State) : Out := s.mesh (.drainLimitExpiry port) (·.drainExpiry port)

/-- A stage of the optics ends; a port whose fourth channel locked may enter UP (R255, R257). -/
def execCalStageEnd (port : Nat) (s : State) : Out :=
  s.mesh (.calStageEnd port) fun b => (b.calStageEnd port).autoUp port

/-! ### PORT_CTRL (R217, R218, R245) -/

/-- The fields that a write of PORT_CTRL sets. -/
def PortCtrl.of (v : BitVec 128) : PortCtrl :=
  { mode := fld v 0 2, bond := fld v 2 2, encap := flag v 4, vlan := flag v 5, udpCsum := flag v 6, autoUp := flag v 7,
    passPeer := fld v 8 8, pass := flag v 16, passPlot := fld v 17 8, passQueue := fld v 25 6,
    ethertype := BitVec.ofNat 16 (fld v 32 16), udpPort := BitVec.ofNat 16 (fld v 48 16), vid := fld v 64 12,
    windbreak := fld v 76 8, drainLimit := max 1 (fld v 88 8) }

/-- PORT_CTRL as it reads. -/
def Port.ctrlWord (p : Port) : BitVec 128 :=
  let c := p.ctrl
  BitVec.ofNat 128 (at_ 0 2 c.mode + at_ 2 2 c.bond + atB 4 c.encap + atB 5 c.vlan + atB 6 c.udpCsum + atB 7 c.autoUp +
    at_ 8 8 c.passPeer + atB 16 c.pass + at_ 17 8 c.passPlot + at_ 25 6 c.passQueue + at_ 32 16 c.ethertype.toNat +
    at_ 48 16 c.udpPort.toNat + at_ 64 12 c.vid + at_ 76 8 c.windbreak + at_ 84 3 p.state.code + at_ 88 8 c.drainLimit)

/-- Whether a write changes a field that R218 holds to ABSENT, DOWN and SAFE. -/
def PortCtrl.moves (c n : PortCtrl) : Bool :=
  c.mode ≠ n.mode || c.bond ≠ n.bond || c.encap ≠ n.encap || c.pass ≠ n.pass || c.passPeer ≠ n.passPeer || c.passPlot ≠ n.passPlot

/-- Whether a write changes an expert field (R245). -/
def PortCtrl.expertMoves (c n : PortCtrl) : Bool :=
  c.windbreak ≠ n.windbreak || c.drainLimit ≠ n.drainLimit || c.pass ≠ n.pass || c.passPeer ≠ n.passPeer ||
  c.passPlot ≠ n.passPlot || c.passQueue ≠ n.passQueue

/-- Whether a port is out of service: ABSENT, DOWN or SAFE. -/
def Port.idle (p : Port) : Bool := p.state = .absent || p.state = .down || p.state = .safe

/-- A write of PORT_CTRL (R217–R219, R245). -/
def Blk.writePortCtrl (b : Blk) (expert : Bool) (p : Nat) (v : BitVec 128) : Od :=
  let x := b.port p
  let n := PortCtrl.of v
  if x.ctrl.expertMoves n && !expert then Od.no b abLevel
  else if n.mode = 3 || n.bond = 3 || (n.encap && n.udpPort = 0#16) then Od.no b abRange
  else if x.ctrl.moves n && !x.idle then Od.no b abState
  else
    let b := b.modPort p fun x => { x with ctrl := n }
    let group := (List.range 4).map (p / 4 * 4 + ·)
    let b := b.each group fun b q => b.bondCheck q
    Od.ok (b.each group fun b q => b.autoUp q)
def execPortCtrlWrite (ch : Channel) (port : Nat) (value : BitVec 128) (s : State) : Out :=
  s.odPort (.portCtrlWrite ch port value) ch false port fun b => b.writePortCtrl (b.expert ch) port value

/-- A write of FACING (R300). -/
def Blk.writeFacing (b : Blk) (p v : Nat) : Od := Od.ok (b.modPort p fun x => { x with facing := v % 2 = 1 })

end Sys2Proof.Machine
end

