-- ==== Sys2Proof/Machine/Traffic.lean ====
section
/-! DEFINITION. The traffic tables and registers: sieve, lookup, classes, meters, egress queues, shapers, gates and pools
(R229–R242, R293, R299). -/
namespace Sys2Proof.Machine

/-! ### Sieve and lookup (R229, R230) -/

/-- Bits of a sieve entry that a write sets. -/
def sieveMask : BitVec 320 := BitVec.ofNat 320 (2 ^ 320 - 2 ^ 64 + 2 ^ 25 - 1)

/-- A write of a sieve entry; the plot it names must be BOUND (R229, R262). -/
def Blk.writeSieve (b : Blk) (slot : Nat) (v : BitVec 320) : Od :=
  let e := v &&& sieveMask
  let k := svKey e
  if !b.bound (svPlot e) then Od.no b abState
  else if svValid e && (k = 0 || (k = 0xFFFF && svPlot e ≠ 0)) then Od.no b abRange
  else if svValid e && b.traf.sieve.any fun x => x.1 ≠ slot && svValid x.2 && svKey x.2 = k then Od.no b abState
  else Od.ok { b with traf := { b.traf with sieve := b.traf.sieve.put slot e } }
def execSieveWrite (ch : Channel) (value : BitVec 320) (s : State) : Out :=
  s.od (.sieveWrite ch value) ch false fun b => b.writeSieve (b.sels ch).sieve value

/-- Bits of a lookup entry that a write sets. -/
def lookupMask : BitVec 64 := BitVec.ofNat 64 (2 ^ 64 - 1 - 2 ^ 39 - 31 * 2 ^ 51)

/-- A write of a lookup entry; the plot it names must be BOUND (R230, R262). -/
def Blk.writeLookup (b : Blk) (i : Nat) (v : BitVec 64) : Od :=
  let e := v &&& lookupMask
  if !b.bound (lkPlot e) then Od.no b abState
  else if 32 < lkPlen e || lkPrefix e % 2 ^ (32 - lkPlen e) ≠ 0 then Od.no b abRange
  else if lkValid e && b.traf.lookup.any fun x =>
      x.1 ≠ i && lkValid x.2 && lkPlot x.2 = lkPlot e && lkPrefix x.2 = lkPrefix e && lkPlen x.2 = lkPlen e then
    Od.no b abState
  else Od.ok { b with traf := { b.traf with lookup := b.traf.lookup.put i e } }
def execLookupWrite (ch : Channel) (value : BitVec 64) (s : State) : Out :=
  s.od (.lookupWrite ch value) ch false fun b => b.writeLookup (b.sels ch).lookup value

/-- A write of a class entry (R231). -/
def Blk.writeClass (b : Blk) (i : Nat) (v : BitVec 16) : Od :=
  Od.ok { b with traf := { b.traf with classes := b.traf.classes.put i (v &&& 0x7F#16) } }

/-! ### Meters (R234–R236) -/

def mtPort (c : BitVec 256) : Nat := fld c 0 8
def mtPlot (c : BitVec 256) : Nat := fld c 8 8
def mtValid (c : BitVec 256) : Bool := flag c 16
def mtAware (c : BitVec 256) : Bool := flag c 17
def mtRedMark (c : BitVec 256) : Bool := flag c 18
def mtCir (c : BitVec 256) : Nat := fld c 32 32
def mtPir (c : BitVec 256) : Nat := fld c 64 32
def mtCbs (c : BitVec 256) : Nat := fld c 96 24
def mtPbs (c : BitVec 256) : Nat := fld c 120 24
def mtMask (c : BitVec 256) : Nat := fld c 144 64

def Blk.meter (b : Blk) (i : Nat) : Meter := b.traf.meters.getD i Meter.fresh

/-- The buckets as they stand now, in units of 2^-16 byte (R235). -/
def Meter.now (x : Meter) (mc : Nat) : Meter :=
  { x with tc := min (x.tc + mtCir x.cfg * (mc - x.at_)) (2 ^ 16 * mtCbs x.cfg),
           tp := min (x.tp + mtPir x.cfg * (mc - x.at_)) (2 ^ 16 * mtPbs x.cfg), at_ := mc }

/-- The configuration of a meter as last written: a write of this mc takes effect in the next (R236). -/
def Blk.meterCfg (b : Blk) (i : Nat) : BitVec 256 :=
  (b.latest fun n => match n with
    | .meter j w => if j = i then some w else none
    | _ => none).getD (b.meter i).cfg

/-- The meters that are or will be configured. -/
def Blk.meterIds (b : Blk) : List Nat :=
  b.traf.meters.map (·.1) ++ b.mcLog.filterMap fun n => match n with
    | .meter j _ => some j
    | _ => none

/-- Bits of a meter that a write sets. -/
def meterMask : BitVec 256 := BitVec.ofNat 256 (2 ^ 208 - 2 ^ 32 + 2 ^ 19 - 1)

/-- Whether two VALID meters cover one (PORT, PLOT, CLASS). -/
def metersMeet (a c : BitVec 256) : Bool :=
  mtValid a && mtValid c && mtPort a = mtPort c && mtPlot a = mtPlot c && mtMask a &&& mtMask c ≠ 0

/-- The configuration that a write leaves: reserved bits 0, CBS and PBS at least 4,144 (R234). -/
def meterWord (v : BitVec 256) : BitVec 256 :=
  let v := v &&& meterMask
  setFld (setFld v 96 24 (max 4144 (mtCbs v))) 120 24 (max 4144 (mtPbs v))

/-- A meter under a new configuration: full buckets as it becomes VALID, else no more than the bursts (R234). -/
def Meter.rewrite (old : Meter) (c : BitVec 256) (mc : Nat) : Meter :=
  let full := mtValid c && !mtValid old.cfg
  { cfg := c, tc := if full then 2 ^ 16 * mtCbs c else min old.tc (2 ^ 16 * mtCbs c),
    tp := if full then 2 ^ 16 * mtPbs c else min old.tp (2 ^ 16 * mtPbs c), at_ := mc }

/-- A write of a meter is decided at once and takes effect in the next mc (R234, R236). -/
def Blk.writeMeter (b : Blk) (i : Nat) (v : BitVec 256) : Od :=
  if mtPir (meterWord v) < mtCir (meterWord v) then Od.no b abRange
  else if b.meterIds.any fun j => j ≠ i && metersMeet (b.meterCfg j) (meterWord v) then Od.no b abState
  else Od.ok (b.note (.meter i (meterWord v)))

/-- A written configuration of a meter takes effect as the mc ends. -/
def Blk.meterTakes (b : Blk) (i : Nat) (w : BitVec 256) : Blk :=
  { b with traf := { b.traf with meters := b.traf.meters.put i (((b.meter i).now b.clk.mc).rewrite w b.clk.mc) } }
def execMeterWrite (ch : Channel) (value : BitVec 256) (s : State) : Out :=
  s.od (.meterWrite ch value) ch true fun b => b.writeMeter (b.sels ch).meter value

/-- RFC 2698 as R235 writes it: color, and the meter after it. Colors: 0 green, 1 yellow, 2 red. -/
def Meter.color (x : Meter) (mc c bytes : Nat) : Nat × Meter :=
  let x := x.now mc
  let n := 2 ^ 16 * bytes
  let c := if mtAware x.cfg then c else 0
  if c = 2 || x.tp < n then (2, x)
  else if c = 1 || x.tc < n then (1, { x with tp := x.tp - n })
  else (0, { x with tp := x.tp - n, tc := x.tc - n })

/-- The meter that covers a DFP. -/
def Blk.meterOf (b : Blk) (port plot cls : Nat) : Option (Nat × Meter) :=
  b.traf.meters.find? fun x =>
    mtValid x.2.cfg && mtPort x.2.cfg = port && mtPlot x.2.cfg = plot && (mtMask x.2.cfg).testBit cls

/-! ### Egress queues, shapers, gates and pools (R238–R242, R293, R299) -/

/-- SHAPE_EN, and RATE and BURST, of a queue as last written: they take effect as the mc ends (R241). -/
def Blk.shapeEnOf (b : Blk) (p q : Nat) : Bool :=
  (b.latest fun n => match n with
    | .shapeEn p' q' on => if p' = p ∧ q' = q then some on else none
    | _ => none).getD (b.egQueue p q).shapeEn
def Blk.shaperOf (b : Blk) (p q : Nat) : Nat × Nat :=
  (b.latest fun n => match n with
    | .shaper p' q' r c => if p' = p ∧ q' = q then some (r, c) else none
    | _ => none).getD ((b.egQueue p q).rate, (b.egQueue p q).burst)

/-- A written SHAPE_EN takes effect: the tokens stay, and an enable sets them to BURST (R238, R241). -/
def EgQueue.setShape (x : EgQueue) (mc : Nat) (on : Bool) : EgQueue :=
  { x with shapeEn := on, tokens := if on && !x.shapeEn then 2 ^ 16 * x.burst else x.tokensNow mc, tokensAt := mc }

/-- A written shaper takes effect: the debt, or what the new BURST allows of the tokens, stays (R240, R241). -/
def EgQueue.setShaper (x : EgQueue) (mc rate burst : Nat) : EgQueue :=
  { x with rate := rate, burst := burst, tokens := min (2 ^ 16 * burst) (x.tokensNow mc), tokensAt := mc }

/-- A write of a queue's configuration (R238, R241, R293). -/
def Blk.writeEgQueue (b : Blk) (p q : Nat) (v : BitVec 64) : Od :=
  let x := b.egQueue p q
  let prio := fld v 12 2
  let gated := flag v 14
  let shape := flag v 15
  let owner := fld v 52 8
  let fixed := quorumQueue (b.port p).ctrl.mode q
  if fixed && (owner ≠ x.owner || prio ≠ x.prio || gated ≠ x.gated || shape) then Od.no b abState
  else if 8192 < fld v 24 14 then Od.no b abRange
  else
    Od.ok ((b.modEgQueue p q fun x =>
      { x with weight := max 1 (fld v 0 12), prio := prio, gated := gated, qmax := fld v 24 14, ylim := fld v 38 14,
               owner := owner }).note (.shapeEn p q shape))
def execEgressQueueWrite (ch : Channel) (port : Nat) (value : BitVec 64) (s : State) : Out :=
  s.odPort (.egressQueueWrite ch port value) ch true port fun b => b.writeEgQueue port ((b.sels ch).portQueue.getD port 0) value

/-- A write of a shaper (R240, R241). -/
def Blk.writeShaper (b : Blk) (p q : Nat) (v : BitVec 64) : Od :=
  Od.ok (b.note (.shaper p q (fld v 0 24) (max 1 (fld v 32 16))))
def execShaperWrite (ch : Channel) (port : Nat) (value : BitVec 64) (s : State) : Out :=
  s.odPort (.shaperWrite ch port value) ch true port fun b => b.writeShaper port ((b.sels ch).portQueue.getD port 0) value

def Gate.of (v : BitVec 128) : Gate :=
  { start := fld v 0 14, stop := fld v 16 14, valid := flag v 30, qmask := BitVec.ofNat 64 (fld v 32 64) }

/-- A write of a gate entry: it takes effect at step 6 of the next tick (R242). -/
def Blk.writeGate (b : Blk) (p i : Nat) (v : BitVec 128) : Od :=
  let g := Gate.of v
  if g.stop ≤ g.start then Od.no b abRange
  else Od.ok (b.modEg p fun e => { e with gatesPend := e.gatesPend.put i g })
def execGateWrite (ch : Channel) (port : Nat) (value : BitVec 128) (s : State) : Out :=
  s.odPort (.gateWrite ch port value) ch true port fun b => b.writeGate port ((b.sels ch).portGate.getD port 0) value

/-- A write of the pools (R299). -/
def Blk.writePools (b : Blk) (p : Nat) (v : BitVec 64) : Od :=
  let x := b.port p
  let req := fld v 0 14
  let reply := fld v 14 14
  let coll := fld v 28 14
  let lossless := BitVec.ofNat 3 (fld v 56 3)
  if !x.idle then Od.no b abState
  else if 8192 - 64 < req + reply + coll + 1024 then Od.no b abRange
  else if lossless ≠ 0#3 && !x.ctrl.vlan then Od.no b abRange
  else
    let pools := { x.pools with req := req, reply := reply, coll := coll, headroom := fld v 42 14, lossless := lossless }
    Od.ok (b.modPort p fun x => { x with pools := pools }).pause
def execPoolWrite (ch : Channel) (port : Nat) (value : BitVec 64) (s : State) : Out :=
  s.odPort (.poolWrite ch port value) ch true port fun b => b.writePools port value

end Sys2Proof.Machine
end

