-- ==== Sys2Proof/Machine/Emit.lean ====
section
/-! DEFINITION. move.emit: a tile sends a DFP from its SRAM (R106, R120). -/
namespace Sys2Proof.Machine

/-- A port tile's half-port that is in service and admits a key of the plot (R120). -/
def Blk.emitPort (b : Blk) (t plot key : Nat) (halfB : Bool) : Chk Nat := do
  let p := b.member.portOf t
  must (b.member.isPortTile t) stState dtNoPort
  must ((b.port p).state = .up && (!halfB || (b.port p).ctrl.mode = 2)) stState dtNoPort
  must (b.admitted key p && ((b.sieveOf key).map svPlot).getD 256 = plot) stState dtNoPort
  .ok p

/-- A DFP of the tile goes to the egress queue that its CLASS names. -/
def Blk.emitDfp (b : Blk) (t plot p : Nat) (halfB : Bool) (h : BitVec 256) (cells : List Bytes) : Blk :=
  b.enqueue p
    { hdr := h, inPort := p, plot := plot, color := fColor h, queue := b.queueAt p halfB (b.classOf plot (fClass h)).1,
      half := halfB, pool := poolOf (fType h), src := t, furrow := 0, cells := cells, due := cells.length, broken := false,
      whole := true, marker := false, enq := 0 }

/-- move.emit hands a DFP to the egress queue that the template's CLASS names; LEN is the command's (R32, R106). -/
def runEmit (t : Nat) (b : Blk) (s : Sheaf) : Blk × Ran :=
  let c := s.cmd
  let n := kLen c
  let halfB : Bool := kXopt c % 2 = 1
  b.ranOf do
    must (1 ≤ n && n ≤ 64) stBadOperand
    let a ← b.sramAt t s.base (kOpa c) (n * 64) 64
    let ha ← b.sramAt t s.base (kOpb c) 32 64
    let (hs, b) ← b.operand t ha 32
    let h : BitVec 256 := BitVec.ofNat 256 (ofBytes hs)
    let p ← b.emitPort t s.plot (fKey h) halfB
    let (xs, b) ← b.operand t a (n * 64)
    let cells := (List.range n).map fun i => (xs.drop (64 * i)).take 64
    .ok (b.emitDfp t s.plot p halfB (setFld h 40 6 (n - 1)) cells, .fin stOk 0)
def execMoveEmit (tile : Nat) (s : State) : Out := s.mesh (.moveEmit tile) (·.run tile 0 0x09 (runEmit tile))

end Sys2Proof.Machine
end

