-- ==== Sys2Proof/Machine/CollDesc.lean ====
section
/-! DEFINITION. Doorbells, collective descriptors and their checks (R176–R182, R338, R341). -/
namespace Sys2Proof.Machine

/-! ### Doorbells (R338, R341) -/

/-- A doorbell write enters the plot's queue of 16; a page of a plot not BOUND, and plot 0's, ignores it. An entry read in this mc
still counts (R336). -/
def Blk.doorbell (b : Blk) (p : Nat) (kernel : Bool) (off : BitVec 32) : Blk :=
  if !b.bound p || p = 0 then b.countSys evBadAccess
  else if 16 ≤ (b.plot p).host.doorbells.length + b.mcLog.count (.fetched p) then
    (b.modPlot p fun x => { x with host := { x.host with dbFull := true } }).note (.set (.dbFull p))
  else b.modPlot p fun x => { x with host := { x.host with doorbells := x.host.doorbells ++ [(kernel, off)] } }

/-- The head doorbell of a plot, if it is of one kind, taken from the queue: descriptors are decided in queue order. -/
def Blk.takeDoorbell (b : Blk) (p : Nat) (kernel : Bool) : Option (BitVec 32 × Blk) :=
  match (b.plot p).host.doorbells with
  | (k, off) :: rest =>
    if k = kernel then some (off, (b.modPlot p fun x => { x with host := { x.host with doorbells := rest } }).note (.fetched p)) else none
  | [] => none

/-- The bytes of a descriptor that lie in the plot's host DMA window (R176, R199, R342). -/
def Blk.fetched (b : Blk) (p : Nat) (off : BitVec 32) (desc : Bytes) : Bytes :=
  let h := (b.plot p).host
  if h.dmaValid then desc.take (4096 * h.dmaPages.toNat - 64 * off.toNat) else []

def execCollDoorbell (plot : Nat) (offset : BitVec 32) (s : State) : Out :=
  s.mesh (.collDoorbell plot offset) (·.doorbell plot false offset)
def execKernelDoorbell (plot : Nat) (offset : BitVec 32) (s : State) : Out :=
  s.mesh (.kernelDoorbell plot offset) (·.doorbell plot true offset)

/-! ### Sizes (R181) -/

/-- Bytes of n elements, whole blocks for MX. -/
def collBytes (fmt n : Nat) : Nat := if isMx fmt then ceilDiv n 32 * blockBytes fmt else n * (fmtBits fmt / 8)

namespace Coll

def count (c : Coll) : Nat := c.parts.length
/-- Elements of a chunk, and chunks. -/
def chunkLen (c : Coll) : Nat := c.count * c.piece
def chunks (c : Coll) : Nat := ceilDiv c.elements c.chunkLen
/-- Data cells of a piece. -/
def cells (c : Coll) (fmt : Nat) : Nat := ceilDiv (collBytes fmt c.piece) 64
/-- The format of the results. -/
def finFmt (c : Coll) : Nat := if c.up then c.retFmt else c.outFmt
def inCells (c : Coll) : Nat := 1 + c.cells c.inFmt
def outCells (c : Coll) : Nat := 1 + max (c.cells c.outFmt) (c.cells c.finFmt)
def finCells (c : Coll) : Nat := 1 + c.cells c.finFmt
/-- Real elements of piece i of a chunk. -/
def real (c : Coll) (chunk i : Nat) : Nat := min c.piece (c.elements - (chunk * c.chunkLen + i * c.piece))
def part (c : Coll) (j : Nat) : Part :=
  c.parts.getD j { tile := 0, src := 0, dst := 0, upTile := 0, srcAddr := 0, dstAddr := 0, coord := 0#32, inBuf := 0,
                   outBuf := 0, ctx := 0 }
def indices (c : Coll) : List Nat := List.range c.count
/-- SRAM addresses of piece i in the buffers of a chunk: one collective cell, then the data. -/
def inSlot (c : Coll) (j chunk i : Nat) : Nat := (c.part j).inBuf + (chunk % 8 * c.count + i) * c.inCells * 64
def outSlot (c : Coll) (j chunk i : Nat) : Nat := (c.part j).outBuf + (chunk % 8 * c.count + i) * c.outCells * 64
/-- Furrows (R181). -/
def fScatter (c : Coll) (i j : Nat) : Nat := c.furrowBase + c.count * i + j
def fGatherA (c : Coll) (i : Nat) : Nat := c.fScatter i i
def fUp (c : Coll) (i : Nat) : Nat := c.furrowBase + c.count * c.count + i
def fRet (c : Coll) (i : Nat) : Nat := c.furrowBase + c.count * c.count + c.count + i
def fGatherB (c : Coll) (i : Nat) : Nat := c.furrowBase + c.count * c.count + 2 * c.count + i

end Coll

/-! ### The descriptor (R178, R179) -/

/-- A participant entry of 32 bytes. -/
def partOf (e : BitVec 256) : Part :=
  { tile := fld e 0 10, src := fld e 10 2, dst := fld e 12 2, upTile := fld e 16 10, srcAddr := fld e 32 32,
    dstAddr := fld e 64 32, coord := BitVec.ofNat 32 (fld e 96 32), inBuf := fld e 128 21, outBuf := fld e 160 21, ctx := 0 }

/-- The collective that a descriptor describes. -/
def collOf (h : BitVec 512) (parts : List Part) (now : BitVec 48) : Coll :=
  { step := BitVec.ofNat 32 (fld h 32 32), exact := !flag h 13, up := flag h 14, inFmt := fld h 16 4, outFmt := fld h 20 4,
    retFmt := fld h 24 4, rnd := fld h 28 3, elements := fld h 64 32, piece := fld h 96 15, furrowBase := fld h 112 12,
    startFrame := BitVec.ofNat 48 (fld h 128 48), upWait := fld h 176 8, srSeed := BitVec.ofNat 32 (fld h 192 32),
    srCtr := BitVec.ofNat 32 (fld h 224 32), pkey := BitVec.ofNat 16 (fld h 256 16), cls := fld h 272 6,
    upDst := BitVec.ofNat 32 (fld h 288 32), record := fld h 320 32, parts := parts, nextNew := 0, rerun := [], runs := [],
    done := 0, defers := 0, reruns := 0, repairs := 0, first := now, inb := [], outb := [], upIn := [], marks := [] }

def srcPort : Nat := 0
def srcHbm : Nat := 1
def srcSram : Nat := 2

/-- BAD_DESC (R180): codes, ranges and the fields of the other mode. -/
def collBad (h : BitVec 512) (c : Coll) (len : Nat) : Bool :=
  fld h 0 8 ≠ 1 || c.count < 2 || 16 < c.count || len ≠ 64 + 32 * c.count || !fmtOk c.inFmt || !fmtOk c.outFmt ||
  c.piece % 32 ≠ 0 || c.piece = 0 || c.elements = 0 || c.rnd = 7 || c.parts.any (fun p => p.src = 3 || p.dst = 3) ||
  (if c.up then !fmtOk c.retFmt || c.upWait = 0
   else c.retFmt ≠ 0 || c.upWait ≠ 0 || c.upDst ≠ 0#32 || c.parts.any fun p => p.upTile ≠ 0)

/-- LIMIT (R180). -/
def collLimit (c : Coll) : Bool :=
  (if fmtWide c.inFmt then 4096 else 16384) < c.piece ||
  4096 < c.furrowBase + c.count * c.count + 3 * c.count ||
  ((c.rnd = 5 || c.rnd = 6) && 2 ^ 32 < c.chunks * c.chunkLen)

/-- Whether a source or destination lies in the tile's SRAM, the plot's HBM region, or at the tile's port. -/
def Blk.collPlace (b : Blk) (plot kind addr len : Nat) (t : Nat) : Bool :=
  if kind = srcPort then b.member.isPortTile t
  else if kind = srcHbm then b.inHbm plot addr len
  else addr + len ≤ sramBytes

/-- PLOT (R180). -/
def Blk.collPlot (b : Blk) (plot : Nat) (c : Coll) : Bool :=
  (c.parts.map (·.tile)).eraseDups.length ≠ c.count || !b.inHost plot c.record 64 ||
  c.parts.any fun p =>
    !(b.owns plot p.tile && b.member.hasTile p.tile) ||
    !b.collPlace plot p.src p.srcAddr (collBytes c.inFmt c.elements) p.tile ||
    !b.collPlace plot p.dst p.dstAddr (collBytes c.finFmt c.elements) p.tile ||
    p.inBuf % 64 ≠ 0 || p.outBuf % 64 ≠ 0 ||
    sramBytes < p.inBuf + 8 * c.count * c.inCells * 64 || sramBytes < p.outBuf + 8 * c.count * c.outCells * 64

/-- Whether the active generation holds a descriptor with a mode, CELLS and, where it matters, PEER. -/
def Blk.hasDesc (b : Blk) (plot t furrow : Nat) (land : Bool) (mode : Nat) (cells : Option Nat) (peer : Option Nat) : Bool :=
  match b.sown.active.find t plot furrow land with
  | some (_, d) => dMode d = mode && cells.all (fun n => dCells d = n) && peer.all (fun p => dPeer d = p)
  | none => false

/-- The all-gather furrows of owner i on which participant j lands (R181). -/
def Blk.gathers (b : Blk) (plot : Nat) (c : Coll) (i j : Nat) : List Nat :=
  [c.fGatherA i, c.fGatherB i].filter fun f =>
    b.hasDesc plot (c.part j).tile f true 0 (some c.finCells) (some (c.part i).tile)

/-- Whether a furrow starts at its owner and runs one way along one row or one column to its tiles (R181). -/
def oneWay (t : Nat) (us : List Nat) : Bool :=
  us.all (fun u => u / 32 = t / 32 && t < u) || us.all (fun u => u / 32 = t / 32 && u < t) ||
  us.all (fun u => u % 32 = t % 32 && t < u) || us.all (fun u => u % 32 = t % 32 && u < t)

/-- The tiles that one all-gather furrow of owner i serves. -/
def Blk.gatherTiles (b : Blk) (plot : Nat) (c : Coll) (i f : Nat) : List Nat :=
  (c.indices.filter fun j => j ≠ i && b.gathers plot c i j = [f]).map fun j => (c.part j).tile

/-- Whether every furrow of R181 is there, and each participant lands exactly one train of each other owner. -/
def Blk.collFurrows (b : Blk) (plot : Nat) (c : Coll) : Bool :=
  c.indices.all fun i =>
    let ti := (c.part i).tile
    let inj : Nat → Bool := fun f => b.hasDesc plot ti f false 1 (some c.finCells) none
    oneWay ti (b.gatherTiles plot c i (c.fGatherA i)) && oneWay ti (b.gatherTiles plot c i (c.fGatherB i)) &&
    (c.indices.all fun j =>
      j = i ||
      (b.hasDesc plot (c.part j).tile (c.fScatter i j) false 1 (some c.inCells) (some ti) &&
       b.hasDesc plot ti (c.fScatter i j) true 0 (some c.inCells) (some (c.part j).tile) &&
       (b.gathers plot c i j).length = 1 && (b.gathers plot c i j).all inj)) &&
    (!c.up ||
      (let u := (c.part i).upTile
       b.hasDesc plot ti (c.fUp i) false 1 (some (1 + c.cells c.outFmt)) (some u) &&
       b.hasDesc plot u (c.fUp i) true 2 (some (1 + c.cells c.outFmt)) none &&
       b.hasDesc plot u (c.fRet i) false 2 (some c.finCells) none &&
       b.hasDesc plot ti (c.fRet i) true 0 (some c.finCells) none))

/-- Collectives that a tile takes part in. -/
def Blk.collsAt (b : Blk) (t : Nat) : Nat :=
  (b.plots.map fun p => (p.2.colls.filter fun c => c.parts.any fun x => x.tile = t).length).sum

/-- NO_ROOM (R180). -/
def Blk.collNoRoom (b : Blk) (c : Coll) : Bool :=
  c.parts.any fun p =>
    let x := b.tile p.tile
    16384 < x.roomUsed + oasisRoom (fmtWide c.inFmt) c.piece || 4 ≤ b.collsAt p.tile || x.idleCtx.isNone

/-- START (R180). -/
def collStart (now start : BitVec 48) : Bool :=
  let d := (start - now).toNat
  !(4 ≤ d && d ≤ 65536)

/-- Whether a STEP names a collective of the plot that runs, or ended in this mc (R180, R197). -/
def Blk.stepTaken (b : Blk) (plot : Nat) (step : BitVec 32) : Bool :=
  ((b.plot plot).colls.any fun x => x.step = step) || (b.plot plot).collEnded.any fun x => x.1 = step && x.2 = b.clk.mc

/-- The decision on a descriptor, in table order (R180). -/
def Blk.collDecideDesc (b : Blk) (plot : Nat) (h : BitVec 512) (c : Coll) (len : Nat) : Nat :=
  if collBad h c len then 0x01
  else if collLimit c then 0x02
  else if b.collPlot plot c then 0x03
  else if !b.collFurrows plot c then 0x04
  else if b.collNoRoom c then 0x05
  else if collStart b.clk.frame c.startFrame then 0x06
  else if b.stepTaken plot c.step then 0x07
  else if c.parts.any fun p => !b.launchable p.tile then 0x08
  else 0x00

/-! ### The completion record (R196) -/

/-- Writes the record to RECORD and posts COLL_DONE. -/
def Blk.collRecord (b : Blk) (plot : Nat) (c : Coll) (status cause chunks : Nat) : Blk :=
  let w := at_ 0 32 c.step.toNat + at_ 32 8 status + at_ 40 8 cause + at_ 64 32 chunks + at_ 96 32 c.done +
    at_ 128 32 c.defers + at_ 160 32 c.reruns + at_ 192 32 c.repairs + at_ 256 48 c.first.toNat + at_ 304 48 b.clk.frame.toNat
  let b := if b.inHost plot c.record 64 then b.writeHost (b.hostPlace plot c.record) (toBytes 64 w) else b
  b.raiseP 0x0A plot none c.step.toNat (status + 256 * cause)

/-- The oasis number under which a participant's entries are set aside: past the 64 that lists name. -/
def Part.oasis (p : Part) : Nat := 64 + p.ctx

/-- A participant sets aside PIECE entries and one list context (R180). -/
def Blk.collHold (b : Blk) (plot : Nat) (c : Coll) (p : Part) : Blk × Part :=
  let ctx := ((b.tile p.tile).idleCtx).getD 0
  let p := { p with ctx := ctx }
  (b.modTile p.tile fun x =>
    { (x.modCtx ctx fun k => { k with held := true, plot := plot }) with
      oases := x.oases.put p.oasis { wide := fmtWide c.inFmt, size := c.piece, grid := .none, entries := [] } }, p)

/-- The descriptor at the head of the doorbell queue has been read and is decided (R180). A doorbell that points outside the
window gives no descriptor and ends there (log 165). -/
def Blk.collAccept (b : Blk) (plot : Nat) (desc : Bytes) : Blk :=
  match b.takeDoorbell plot false with
  | none => b
  | some (off, b) =>
    let desc := b.fetched plot off desc
    if desc.length < 64 then b else
    let h : BitVec 512 := BitVec.ofNat 512 (ofBytes (desc.take 64))
    let parts := (List.range (fld h 8 5)).map fun j => partOf (BitVec.ofNat 256 (ofBytes ((desc.drop (64 + 32 * j)).take 32)))
    let c := collOf h parts b.clk.frame
    let code := b.collDecideDesc plot h c desc.length
    if code ≠ 0 then b.collRecord plot c 4 code (if c.chunkLen = 0 then 0 else c.chunks)
    else
      let r := parts.foldl (fun (a : Blk × List Part) p =>
        let x := a.1.collHold plot c p
        (x.1, a.2 ++ [x.2])) (b, [])
      r.1.modPlot plot fun x => { x with colls := x.colls ++ [{ c with parts := r.2 }] }
def execCollAccept (plot : Nat) (desc : Bytes) (s : State) : Out := s.mesh (.collAccept plot desc) (·.collAccept plot desc)

end Sys2Proof.Machine
end

