-- ==== Sys2Proof/Machine/Coll.lean ====
section
/-! DEFINITION. Collectives: contributions, the frame pipeline, repair, decisions, acknowledgement and the end
(R182–R197). The sequencer's commands take effect at the tick of their frame. -/
namespace Sys2Proof.Machine

/-! ### The collective cell (R182) -/

def flNotReady : Nat := 1
def flDefer : Nat := 2
def flFail : Nat := 4
def flResult : Nat := 8
def flAck : Nat := 16
def flResend : Nat := 32
def flAbort : Nat := 64
def flLast : Nat := 128

/-- A collective cell. -/
def collCell (step : BitVec 32) (chunk i j flags fmt offset count : Nat) (dcrc : BitVec 32) : Bytes :=
  toBytes 64 (at_ 0 32 step.toNat + at_ 32 32 chunk + at_ 64 4 i + at_ 68 4 j + at_ 72 8 flags + at_ 80 4 fmt +
    at_ 88 14 offset + at_ 104 15 count + at_ 128 32 dcrc.toNat)

/-- The fields of a collective cell. -/
structure CollHdr where
  step : BitVec 32
  chunk : Nat
  piece : Nat
  part : Nat
  flags : Nat
  offset : Nat
  count : Nat
  dcrc : BitVec 32
  deriving DecidableEq, Repr

def collHdr (xs : Bytes) : CollHdr :=
  let h : BitVec 256 := BitVec.ofNat 256 (ofBytes (xs.take 32))
  { step := BitVec.ofNat 32 (fld h 0 32), chunk := fld h 32 32, piece := fld h 64 4, part := fld h 68 4, flags := fld h 72 8,
    offset := fld h 88 14, count := fld h 104 15, dcrc := BitVec.ofNat 32 (fld h 128 32) }

/-- Whether a flag of FLAGS is set; m is its weight. -/
def hasFlag (flags m : Nat) : Bool := flags / m % 2 = 1

/-! ### A collective in its plot -/

def Blk.coll? (b : Blk) (plot : Nat) (step : BitVec 32) : Option Coll := (b.plot plot).colls.find? fun c => c.step = step

def Blk.setColl (b : Blk) (plot : Nat) (c : Coll) : Blk :=
  b.modPlot plot fun x => { x with colls := x.colls.map fun y => if y.step = c.step then c else y }

/-- Everything that a collective holds is released (R196). -/
def Blk.collRelease (b : Blk) (plot : Nat) (c : Coll) : Blk :=
  let b := b.each c.parts fun b p => b.modTile p.tile fun x =>
    { (x.modCtx p.ctx fun _ => Ctx.fresh) with oases := x.oases.del p.oasis }
  b.modPlot plot fun x => { x with
    colls := x.colls.filter fun y => y.step ≠ c.step
    collEnded := (c.step, b.clk.mc) :: x.collEnded.filter fun y => y.2 = b.clk.mc }

/-- The template of a collective DFP (R193, R194). -/
def Blk.collDfp (b : Blk) (plot : Nat) (c : Coll) (dst bytes : Nat) : BitVec 256 :=
  dfpHdr 1 c.pkey.toNat c.cls 8 dst b.self c.step.toNat (b.plot plot).graft.gen.toNat bytes

/-- A participant emits a DFP from its own port, or names the status that stops it. -/
def Blk.collEmit (b : Blk) (plot : Nat) (c : Coll) (t dst : Nat) (payload : Bytes) : Chk Blk := do
  let p ← b.emitPort t plot c.pkey.toNat false
  .ok (b.emitDfp t plot p false (b.collDfp plot c dst payload.length) (cellsOfBytes payload))

/-- A collective ends (R190, R196): PORT endpoints hear ABORT unless it is complete; the record is written. -/
def Blk.collEnd (b : Blk) (plot : Nat) (c : Coll) (status cause : Nat) : Blk :=
  let b := if status = 0 then b
    else b.each c.parts fun b p =>
      if p.dst ≠ srcPort then b
      else match b.collEmit plot c p.tile p.coord.toNat (collCell c.step 0 0 0 flAbort c.finFmt 0 0 0#32) with
        | .ok b => b
        | .error _ => b
  (b.collRelease plot c).collRecord plot c status cause c.chunks

/-- Every collective of a plot that a test admits ends. -/
def Blk.collEndIf (b : Blk) (plot status cause : Nat) (p : Coll → Bool) : Blk :=
  b.each ((b.plot plot).colls.filter p) fun b c => b.collEnd plot c status cause

/-! ### Contributions (R191, R192, R194) -/

def Coll.inBufOf (c : Coll) (j chunk : Nat) : Option InBuf := c.inb.get? (j * 8 + chunk % 8)
def Coll.outBufOf (c : Coll) (j chunk : Nat) : Option OutBuf :=
  match c.outb.get? (j * 8 + chunk % 8) with
  | some o => if o.chunk = chunk then some o else none
  | none => none

/-- The participant of a tile with a PORT end (R191). -/
def Coll.portPart (c : Coll) (t : Nat) : Option Nat :=
  c.indices.find? fun j => (c.part j).tile = t && ((c.part j).src = srcPort || (c.part j).dst = srcPort)

/-- Whether a collective of the plot takes a TYPE 1 DFP at a tile (reason 0x30): its PORT participant, or the UP_TILE of a
return. -/
def Blk.collAt (b : Blk) (plot tag t : Nat) : Option Coll :=
  (b.coll? plot (BitVec.ofNat 32 tag)).bind fun c =>
    if (c.portPart t).isSome || (c.up && c.parts.any fun p => p.upTile = t) then some c else none

/-- Bytes at an element offset of a piece. -/
def offsetBytes (fmt off : Nat) : Nat := collBytes fmt off

/-- Whether the landed runs of a piece cover its first n bytes. -/
def covers (runs : List (Nat × Nat × Nat)) (n : Nat) : Nat → Nat → Bool
  | 0, p => n ≤ p
  | f + 1, p =>
    n ≤ p || (match runs.find? fun x => x.2.1 ≤ p && p < x.2.1 + x.2.2 with
      | some x => covers runs n f (x.2.1 + x.2.2)
      | none => false)

/-- A contribution lands at a participant, or names the reason of its drop (R191, R192). -/
def Blk.collLand (b : Blk) (plot : Nat) (c : Coll) (j : Nat) (payload : Bytes) : Except Nat Blk :=
  let h := collHdr payload
  let t := (c.part j).tile
  let buf := (c.inBufOf j h.chunk).getD { chunk := h.chunk, pieces := [], landed := [], lastMc := 0 }
  let data := payload.drop 64
  let at_ := offsetBytes c.inFmt h.offset
  if c.chunks ≤ h.chunk || c.count ≤ h.piece || buf.chunk ≠ h.chunk || buf.pieces.contains h.piece ||
      (h.chunk < c.nextNew && !c.rerun.contains h.chunk && !c.runs.any fun x => x.chunk = h.chunk) ||
      c.cells c.inFmt * 64 < at_ + data.length || (c.part j).src ≠ srcPort then .error 0x31
  else
    let slot := c.inSlot j h.chunk h.piece
    let b := b.writeSram t (slot + 64 + at_) data
    let n := collBytes c.inFmt (c.real h.chunk h.piece)
    let set := fun (x : InBuf) (b : Blk) => b.setColl plot { c with inb := c.inb.put (j * 8 + h.chunk % 8) x }
    let landed := buf.landed ++ [(h.piece, at_, data.length)]
    let mine := landed.filter fun l => l.1 = h.piece
    if !hasFlag h.flags flLast then .ok (set { buf with landed := landed } b)
    else if covers mine n mine.length 0 && crc32c (b.readSram t (slot + 64) n) = h.dcrc then
      let cell := collCell c.step h.chunk h.piece j 0 c.inFmt 0 (c.real h.chunk h.piece) h.dcrc
      let b := (b.writeSram t slot cell).zeroSram t (slot + 64 + n) (c.cells c.inFmt * 64 - n)
      .ok (set { buf with pieces := buf.pieces ++ [h.piece], landed := landed.filter (fun l => l.1 ≠ h.piece), lastMc := b.clk.mc } b)
    else .error 0x32

/-- The landed DFPs of a contribution's piece that failed reason 0x32 are discarded. -/
def Blk.collUnland (b : Blk) (plot : Nat) (c : Coll) (j : Nat) (payload : Bytes) : Blk :=
  let h := collHdr payload
  match c.inBufOf j h.chunk with
  | none => b
  | some x =>
    b.setColl plot { c with inb := c.inb.put (j * 8 + h.chunk % 8) { x with landed := x.landed.filter fun l => l.1 ≠ h.piece } }

/-- The landed DFPs of a return's piece that failed reason 0x32 are discarded. -/
def Blk.collUnreturn (b : Blk) (plot : Nat) (c : Coll) (payload : Bytes) : Blk :=
  let h := collHdr payload
  b.setColl plot { c with upIn := c.upIn.filter fun u => u.ready || u.chunk ≠ h.chunk || u.piece ≠ h.piece }

/-- A return of the upper tier lands at UP_TILE: once its last DFP matches DCRC the train is staged toward the owner (R194). -/
def Blk.collReturn (b : Blk) (plot : Nat) (c : Coll) (t : Nat) (payload : Bytes) : Except Nat Blk :=
  let h := collHdr payload
  let data := payload.drop 64
  let at_ := offsetBytes c.retFmt h.offset
  let same : UpPiece → Bool := fun u => u.chunk = h.chunk && u.piece = h.piece
  let old := (c.upIn.find? same).getD { chunk := h.chunk, piece := h.piece, got := [], ready := false }
  if c.chunks ≤ h.chunk || c.count ≤ h.piece || (c.part h.piece).upTile ≠ t || old.ready ||
      c.cells c.retFmt * 64 < at_ + data.length then .error 0x31
  else
    let u := { old with got := old.got.put at_ data }
    let n := collBytes c.retFmt (c.real h.chunk h.piece)
    let bytes := (u.got.flatMap (·.2)).take n
    let keep := fun (u : UpPiece) => { c with upIn := (c.upIn.filter fun x => !same x) ++ [u] }
    if !hasFlag h.flags flLast then .ok (b.setColl plot (keep u))
    else if bytes.length = n && crc32c bytes = h.dcrc then
      match b.sown.active.find t plot (c.fRet h.piece) false with
      | none => .error 0x31
      | some (_, d) =>
        let cell := collCell c.step h.chunk h.piece h.piece flResult c.retFmt 0 (c.real h.chunk h.piece) h.dcrc
        let train := cell ++ padTo (c.cells c.retFmt * 64) bytes
        .ok ((b.setColl plot (keep { u with got := [] })).stage t d 0 c.cls (trainCells none train))
    else .error 0x32

/-! ### Trains on the plot's furrows (R181, R183) -/

/-- Fills a MODE IDLE furrow with a whole train; none where the furrow does not take it. -/
def Blk.sowTrain (b : Blk) (plot t furrow : Nat) (train : Bytes) : Option Blk :=
  match b.injectSram t plot furrow with
  | .error _ => none
  | .ok d =>
    let n := ceilDiv train.length 64
    let k := stageKey t plot furrow false
    let x := b.staging k
    if dCells d ≠ n || x.filled ≠ 0 then none
    else some ((b.writeSram t (fillBuf d x * 64) (padTo (64 * n) train)).setStaging k { x with filled := n })

/-- A train in the read buffer of a land furrow: its bytes, and whether every cell is there and fresh. -/
def Blk.readTrain (b : Blk) (plot t furrow n : Nat) : Bytes × Bool :=
  match b.landSram t plot furrow with
  | .error _ => ([], false)
  | .ok d =>
    let x := b.staging (stageKey t plot furrow true)
    let m := x.input 0 n
    ((List.range n).flatMap fun i => b.readCell t (sendBuf d x) x i, m.1 = 0 && m.2 = 0)

/-- Whether the collective cell of a train has landed. -/
def Blk.cellLanded (b : Blk) (plot t furrow : Nat) : Bool := ((b.staging (stageKey t plot furrow true)).read.get? 0).isSome

/-- Whether a train's data match the DCRC of its collective cell. -/
def trainOk (fmt : Nat) (train : Bytes) (real : Nat) : Bool :=
  crc32c ((train.drop 64).take (collBytes fmt real)) = (collHdr train).dcrc

/-! ### Frame r − 1: readiness and the reduce-scatter trains (R184) -/

/-- Whether participant j is ready for a chunk at a tick: its contribution lies complete in its input buffer, its output buffer is
free, and no run of the chunk eight away needs the input buffer. What lands in the tick's own mc is too late (R184, R197). -/
def Coll.readyFor (c : Coll) (now j chunk : Nat) : Bool :=
  (c.outb.get? (j * 8 + chunk % 8)).isNone && (c.runs.all fun x => x.chunk = chunk || x.chunk % 8 ≠ chunk % 8) &&
  ((c.part j).src = srcSram ||
    match c.inBufOf j chunk with
    | none => (c.part j).src = srcPort && c.indices.all fun i => c.real chunk i = 0
    | some x => x.chunk = chunk && (x.lastMc < now || (c.part j).src = srcHbm) &&
        c.indices.all fun i => c.real chunk i = 0 || x.pieces.contains i)

/-- Whether sheaves that stood in a tile's mover or reduce queue when the sequencer dispatched there still hold its commands back, or
its engines do not run (R99, R100, R183). -/
def Blk.seqHeld (b : Blk) (t mark : Nat) (moverOnly : Bool) : Bool :=
  let x := b.tile t
  !b.engineOn t ||
  (x.sheaves 0).any (fun s => s.sid < mark && (s.state = .queued || s.state = .back || s.state = .running)) ||
  (!moverOnly && (x.sheaves 1).any fun s => s.sid < mark && s.state ≠ .lent)

/-- An HBM or SRAM contribution of a chunk is brought to the input buffer, piece by piece with its collective cell. -/
def Blk.collFetch (b : Blk) (plot : Nat) (c : Coll) (j chunk : Nat) : Blk :=
  let p := c.part j
  b.each c.indices fun b i =>
    let real := c.real chunk i
    let n := collBytes c.inFmt real
    let off := collBytes c.inFmt (chunk * c.chunkLen + i * c.piece)
    let slot := c.inSlot j chunk i
    let data := if p.src = srcHbm then b.readPlotHbm plot (64 * p.srcAddr + off) n else b.readSram p.tile (p.srcAddr + off) n
    b.writeSram p.tile slot (collCell c.step chunk i j 0 c.inFmt 0 real (crc32c data) ++ padTo (c.cells c.inFmt * 64) data)

/-- The trains of a chunk are sown by every participant. A participant that is not ready sows them with NOT_READY. -/
def Blk.collSow (b : Blk) (plot : Nat) (c : Coll) (chunk : Nat) (r : BitVec 48) : Chk (Blk × Coll) :=
  let notReady := c.indices.filter fun j => !c.readyFor b.clk.mc j chunk
  let b := b.each c.indices fun b j => if notReady.contains j || (c.part j).src ≠ srcSram then b else b.collFetch plot c j chunk
  let out := c.indices.foldl (fun (o : Tbl OutBuf) j =>
    if notReady.contains j then o else o.put (j * 8 + chunk % 8) { chunk := chunk, decided := false, acked := none }) c.outb
  let run : ChunkRun := { chunk := chunk, r := r, notReady := notReady, flags := [], repairs := [], sent := [] }
  let c := { c with outb := out, runs := c.runs ++ [run] }
  let pairs := c.indices.flatMap fun j => (c.indices.filter (· ≠ j)).map fun i => (j, i)
  let b := pairs.foldl (fun (a : Option Blk) x => a.bind fun b =>
    let t := (c.part x.1).tile
    let train := b.readSram t (c.inSlot x.1 chunk x.2) (c.inCells * 64)
    let real := c.real chunk x.2
    let bad := notReady.contains x.1
    let dcrc := if bad then crc32c ((train.drop 64).take (collBytes c.inFmt real)) else (collHdr train).dcrc
    let cell := collCell c.step chunk x.2 x.1 (if bad then flNotReady else 0) c.inFmt 0 real dcrc
    b.sowTrain plot t (c.fScatter x.2 x.1) (cell ++ train.drop 64)) (some b)
  match b with
  | some b => .ok (b, c)
  | none => .error (stState, dtFillFull)

/-! ### Frame r + 1: the owners (R185, R186) -/

/-- Sows an owner's all-gather train on each furrow that some participant lands. -/
def Blk.collGather (b : Blk) (plot : Nat) (c : Coll) (i : Nat) (train : Bytes) : Option Blk :=
  let fs := ((c.indices.filter (· ≠ i)).flatMap fun j => b.gathers plot c i j).eraseDups
  fs.foldl (fun (a : Option Blk) f => a.bind fun b => b.sowTrain plot (c.part i).tile f train) (some b)

/-- A train that carries only an owner's status: its data cells are zero, and DCRC is theirs (R182). -/
def Coll.statusTrain (c : Coll) (chunk i flags : Nat) : Bytes :=
  let real := c.real chunk i
  collCell c.step chunk i i flags c.finFmt 0 real (crc32c (List.replicate (collBytes c.finFmt real) 0#8)) ++
    List.replicate (c.cells c.finFmt * 64) 0#8

/-- What participant j knows of owner i is set. -/
def ChunkRun.know (x : ChunkRun) (j i flags : Nat) : ChunkRun := { x with flags := x.flags.put (16 * j + i) (BitVec.ofNat 8 flags) }

/-- An owner sets DEFER or FAIL for a chunk (R185). In UP mode its all-gather train follows later (R194). -/
def Blk.collStatus (b : Blk) (plot : Nat) (c : Coll) (run : ChunkRun) (i flags : Nat) : Chk (Blk × ChunkRun) :=
  let run := run.know i i flags
  if c.up then .ok (b, run)
  else match b.collGather plot c i (c.statusTrain run.chunk i flags) with
    | some b => .ok (b, run)
    | none => .error (stState, dtFillFull)

/-- The bytes of a repaired train. -/
def Repair.bytes (x : Repair) : Bytes := x.got.flatMap (·.2)

/-- The data of participant j's contribution to owner i: its own, a repaired train, or the landed one. -/
def Blk.collInput (b : Blk) (plot : Nat) (c : Coll) (run : ChunkRun) (i j : Nat) : Bytes :=
  let t := (c.part i).tile
  if j = i then b.readSram t (c.inSlot i run.chunk i) (c.inCells * 64)
  else match run.repairs.find? fun x => x.part = j && x.owner = i && !x.gather with
    | some x => x.bytes
    | none => (b.readTrain plot t (c.fScatter i j) c.inCells).1

/-- The values of a piece of n elements: those past the real ones are +0 (R181). -/
def padVals (real n : Nat) (vs : List Val) : List Val := vs.take real ++ List.replicate (n - real) (Val.zero false)

/-- An owner adds all contributions into its fresh oasis, rounds once and sows the result (R185, R194, R195). -/
def Blk.collResult (b : Blk) (plot : Nat) (c : Coll) (run : ChunkRun) (i : Nat) : Chk (Blk × ChunkRun) :=
  let p := c.part i
  let t := p.tile
  let real := c.real run.chunk i
  let fresh : Oasis := { wide := fmtWide c.inFmt, size := c.piece, grid := .none, entries := [] }
  let b := b.modTile t fun x => { x with oases := x.oases.put p.oasis fresh }
  let b := b.each c.indices fun b j =>
    let o := ((b.tile t).oases.get? p.oasis).getD fresh
    b.addInto t plot p.oasis o c.inFmt 0 (padVals real c.piece (decodeRun c.inFmt c.piece ((b.collInput plot c run i j).drop 64)))
  let o := ((b.tile t).oases.get? p.oasis).getD fresh
  let base := (c.srCtr.toNat + run.chunk * c.chunkLen + i * c.piece) % 2 ^ 32
  let enc := encodeRun c.outFmt c.rnd (srOf c.srSeed.toNat base) (o.results 0 c.piece)
  let slot := c.outSlot i run.chunk i
  let b := b.writeRun t plot (slot + 64) enc
  let n := collBytes c.outFmt real
  let data := padTo (c.cells c.outFmt * 64) (b.readSram t (slot + 64) n)
  let train := collCell c.step run.chunk i i flResult c.outFmt 0 real (crc32c (data.take n)) ++ data
  let b := b.writeSram t slot train
  if c.up then
    match b.sowTrain plot t (c.fUp i) train with
    | some b => .ok (b, run)
    | none => .error (stState, dtFillFull)
  else match b.collGather plot c i train with
    | some b => .ok (b, run.know i i flResult)
    | none => .error (stState, dtFillFull)

/-- A repair begins: the tile asks for the train in parts of 128 bytes (R186). -/
def Blk.collRepair (b : Blk) (plot : Nat) (c : Coll) (run : ChunkRun) (by_ part owner : Nat) (gather : Bool) : Blk × ChunkRun :=
  let t := (c.part by_).tile
  let src := if gather then owner else part
  let addr := if gather then c.outSlot owner run.chunk owner else c.inSlot part run.chunk owner
  let n := (if gather then c.finCells else c.inCells) * 64
  let k := ceilDiv n 128
  let gets := (List.range k).map fun i =>
    ({ target := (c.part src).tile, plot := plot, addr := addr + 128 * i, bytes := min 128 (n - 128 * i),
       ref := .repair plot c.step run.chunk (if gather then by_ + 16 else part) owner i } : GetSend)
  (b.modTile t fun x => { x with net := { x.net with getOut := x.net.getOut ++ gets } },
   { run with repairs := run.repairs ++ [{ by_ := by_, part := part, owner := owner, gather := gather, parts := k, got := [],
                                           failed := false }] })

/-- The tick of r + 1 at one owner (R185). -/
def Blk.collOwner (b : Blk) (plot : Nat) (c : Coll) (run : ChunkRun) (i : Nat) : Chk (Blk × ChunkRun) :=
  let t := (c.part i).tile
  let others := c.indices.filter (· ≠ i)
  let train := fun j => b.readTrain plot t (c.fScatter i j) c.inCells
  let deferred := run.notReady.contains i ||
    others.any fun j => b.cellLanded plot t (c.fScatter i j) && hasFlag (collHdr (train j).1).flags flNotReady
  let damaged := others.filter fun j => !(train j).2 || !trainOk c.inFmt (train j).1 (c.real run.chunk i)
  if deferred then b.collStatus plot c run i flDefer
  else if damaged.isEmpty then b.collResult plot c run i
  else if c.exact then
    .ok (damaged.foldl (fun (a : Blk × ChunkRun) j => a.1.collRepair plot c a.2 i j i false) (b, run))
  else b.collStatus plot c run i flFail

/-- Owners whose repairs have not completed by the end of frame r + 1 set FAIL (R185, R197). -/
def Blk.collLastCall (b : Blk) (plot : Nat) (c : Coll) (run : ChunkRun) : Chk (Blk × ChunkRun) :=
  let late := c.indices.filter fun i =>
    (run.flags.get? (16 * i + i)).isNone && run.repairs.any fun x => x.owner = i && !x.gather && (x.failed || x.got.length < x.parts)
  late.foldl (fun (a : Chk (Blk × ChunkRun)) i => do
    let x ← a
    x.1.collStatus plot c x.2 i flFail) (.ok (b, run))

/-! ### UP mode (R194) -/

/-- Elements of a DFP of at most 63 data cells that end on a cell boundary: for MX whole blocks that do (R182, R193). -/
def dfpElements (fmt : Nat) : Nat :=
  if isMx fmt then
    let u := 64 / Nat.gcd 64 (blockBytes fmt)
    63 * 64 / (u * blockBytes fmt) * u * 32
  else 63 * 64 * 8 / fmtBits fmt

/-- A piece leaves as TYPE 1 DFPs of at most 63 data cells; the one that sets LAST carries the DCRC that came with the piece (R189,
R193, R194). -/
def Blk.collEmitPiece (b : Blk) (plot : Nat) (c : Coll) (t dst chunk i fmt : Nat) (crc : BitVec 32) (data : Bytes) : Chk Blk :=
  let real := c.real chunk i
  let step := dfpElements fmt
  let k := ceilDiv real step
  (List.range k).foldl (fun (a : Chk Blk) q => do
    let b ← a
    let last : Bool := q + 1 = k
    let cnt := min step (real - q * step)
    let cell := collCell c.step chunk i i (flResult + if last then flLast else 0) fmt (q * step) cnt (if last then crc else 0#32)
    let from_ := collBytes fmt (q * step)
    b.collEmit plot c t dst (cell ++ (data.drop from_).take (collBytes fmt (q * step + cnt) - from_))) (.ok b)

/-- The upward trains of a collective that its UP_TILEs hold are sent. -/
def Blk.collUpSend (b : Blk) (plot : Nat) (c : Coll) : Chk Blk :=
  c.indices.foldl (fun (a : Chk Blk) i => do
    let b ← a
    let u := (c.part i).upTile
    let mine : Train → Bool := fun x => x.plot = plot && x.furrow = c.fUp i && x.src = (c.part i).tile
    let trains := (b.tile u).ks.trains.filter mine
    let b := b.modTile u fun x => { x with ks := { x.ks with trains := x.ks.trains.filter fun y => !mine y } }
    trains.foldl (fun (a : Chk Blk) x => do
      let b ← a
      let h := collHdr x.data
      b.collEmitPiece plot c u c.upDst.toNat h.chunk i c.outFmt h.dcrc (x.data.drop 64)) (.ok b)) (.ok b)

/-- Returns that the owners' land furrows hold now are kept (R194). -/
def Blk.collTakeReturns (b : Blk) (plot : Nat) (c : Coll) : Blk × Coll :=
  c.indices.foldl (fun (a : Blk × Coll) i =>
    let t := (a.2.part i).tile
    let x := a.1.readTrain plot t (a.2.fRet i) a.2.finCells
    let h := collHdr x.1
    if !x.2 || h.step ≠ c.step || h.piece ≠ i || !trainOk a.2.retFmt x.1 (a.2.real h.chunk i) then a
    else
      let b := a.1.writeSram t (a.2.outSlot i h.chunk i) x.1
      (b, { a.2 with upIn := a.2.upIn.map fun u => if u.chunk = h.chunk && u.piece = i then { u with ready := true } else u }))
    (b, c)

/-- The furrows of an owner's all-gather train exchange in the tick that sows it, so that the train crosses in the frame that begins
(R183, R194; log 162). -/
def Blk.collSendNow (b : Blk) (plot : Nat) (c : Coll) (i : Nat) : Blk :=
  let t := (c.part i).tile
  b.each [c.fGatherA i, c.fGatherB i] fun b f =>
    match b.sown.active.find t plot f false with
    | some (_, d) => if (b.staging (stageKey t plot f false)).filled = dCells d then b.exchangeInject t d else b
    | none => b

/-- The owners' all-gather trains of UP mode: a return that is incomplete sets FAIL. -/
def Blk.collUpGather (b : Blk) (plot : Nat) (c : Coll) (run : ChunkRun) : Chk (Blk × ChunkRun) :=
  c.indices.foldl (fun (a : Chk (Blk × ChunkRun)) i => do
    let x ← a
    let t := (c.part i).tile
    let known := x.2.flags.get? (16 * i + i)
    let back := c.upIn.any fun u => u.chunk = run.chunk && u.piece = i && u.ready
    let flags := match known with
      | some f => f.toNat
      | none => if back || c.real run.chunk i = 0 then flResult else flFail
    let train := if flags = flResult then x.1.readSram t (c.outSlot i run.chunk i) (c.finCells * 64)
      else c.statusTrain run.chunk i flags
    match x.1.collGather plot c i train with
    | some b => .ok (b.collSendNow plot c i, x.2.know i i flags)
    | none => .error (stState, dtFillFull)) (.ok (b, run))

/-! ### Frame r + 3: reaping and the output (R186, R193) -/

/-- The bytes of n elements that are real, as places and lengths: of a last MX block that is not full its elements and its scale
(R135, R181). -/
def realRuns (fmt n : Nat) : List (Nat × Nat) :=
  if isMx fmt && n % 32 ≠ 0 then
    let a := n / 32 * blockBytes fmt
    let e := 4 * fmtBits fmt
    [(0, a + ceilDiv (n % 32 * fmtBits fmt) 8), (a + e, blockBytes fmt - e)]
  else [(0, collBytes fmt n)]

/-- A piece's bytes are written to DST in HBM or SRAM, its padding not (R181, R193). -/
def Blk.collWrite (b : Blk) (plot : Nat) (p : Part) (fmt n off : Nat) (data : Bytes) : Blk :=
  b.each (realRuns fmt n) fun b x =>
    let xs := (data.drop x.1).take x.2
    if p.dst = srcHbm then b.writePlotHbm plot (64 * p.dstAddr + off + x.1) xs
    else b.writeSram p.tile (p.dstAddr + off + x.1) xs

/-- Participant j puts a chunk out once it knows RESULT of every owner. -/
def Blk.collOut (b : Blk) (plot : Nat) (c : Coll) (run : ChunkRun) (j : Nat) : Chk (Blk × ChunkRun) :=
  let p := c.part j
  let all := c.indices.all fun i => (run.flags.get? (16 * j + i)).any fun f => hasFlag f.toNat flResult
  if !all || run.sent.contains j then .ok (b, run)
  else
    let run := { run with sent := run.sent ++ [j] }
    let fmt := c.finFmt
    c.indices.foldl (fun (a : Chk (Blk × ChunkRun)) i => do
      let x ← a
      let real := c.real run.chunk i
      let n := collBytes fmt real
      let off := collBytes fmt (run.chunk * c.chunkLen + i * c.piece)
      let train := x.1.readSram p.tile (c.outSlot j run.chunk i) (64 + n)
      if real = 0 then .ok x
      else if p.dst = srcPort then
        match x.1.collEmitPiece plot c p.tile p.coord.toNat run.chunk i fmt (collHdr train).dcrc (train.drop 64) with
        | .ok b => .ok (b, x.2)
        | .error e => .error e
      else .ok (x.1.collWrite plot p fmt real off (train.drop 64), x.2)) (.ok (b, run))

/-- Participant j reaps the all-gather train of owner i into OUT_BUF, or begins its repair. -/
def Blk.collReapOne (b : Blk) (plot : Nat) (c : Coll) (run : ChunkRun) (j i : Nat) : Blk × ChunkRun :=
  let t := (c.part j).tile
  let f := (b.gathers plot c i j).headD 0
  let x := b.readTrain plot t f c.finCells
  let flags := (collHdr x.1).flags
  let here := b.cellLanded plot t f
  let good := here && (!hasFlag flags flResult || (x.2 && trainOk c.finFmt x.1 (c.real run.chunk i)))
  if good then (b.writeSram t (c.outSlot j run.chunk i) x.1, run.know j i flags)
  else if c.exact then b.collRepair plot c run j i i true
  else (b, run)

/-- The tick of r + 3 (R183). -/
def Blk.collReap (b : Blk) (plot : Nat) (c : Coll) (run : ChunkRun) : Chk (Blk × ChunkRun) :=
  let pairs := c.indices.flatMap fun j => (c.indices.filter (· ≠ j)).map fun i => (j, i)
  let x := pairs.foldl (fun (a : Blk × ChunkRun) p => a.1.collReapOne plot c a.2 p.1 p.2) (b, run)
  c.indices.foldl (fun (a : Chk (Blk × ChunkRun)) j => do
    let y ← a
    y.1.collOut plot c y.2 j) (.ok x)

/-! ### The decision tick (R187, R188) -/

/-- Frames by which the later stages of UP mode are moved (R194). -/
def Coll.shift (c : Coll) : Nat := if c.up then c.upWait else 0

/-- What the decision of a chunk is: 0 complete, 1 rerun after DEFER, 2 rerun after FAIL, 3 ABORTED with DAMAGE, 4 LOCKSTEP. -/
def Coll.decision (c : Coll) (run : ChunkRun) : Nat :=
  let known := c.indices.all fun j => c.indices.all fun i => (run.flags.get? (16 * j + i)).isSome
  let anyF : Nat → Bool := fun m => c.indices.any fun j => c.indices.any fun i =>
    (run.flags.get? (16 * j + i)).any fun f => hasFlag f.toNat m
  if !known then (if c.exact then 4 else 3)
  else if anyF flFail then (if c.exact then 2 else 3)
  else if anyF flDefer then 1
  else 0

/-- Whether a participant's output buffer waits for an acknowledgement (R188, R193). -/
def Coll.needsAck (c : Coll) (j : Nat) : Bool := c.exact && (c.part j).dst = srcPort

/-- Decides a chunk. -/
def Blk.collDecide (b : Blk) (plot : Nat) (c : Coll) (run : ChunkRun) : Blk :=
  let d := c.decision run
  let c := { c with runs := c.runs.filter fun x => x.chunk ≠ run.chunk }
  let keys := c.indices.map fun j => j * 8 + run.chunk % 8
  let countAll := fun (b : Blk) ev => b.each c.parts fun b p => b.count p.tile ev (some plot)
  let freed := keys.foldl (fun (o : Tbl OutBuf) k => if (o.get? k).any fun x => x.chunk = run.chunk then o.del k else o) c.outb
  match d with
  | 0 =>
    let outb := c.indices.foldl (fun (o : Tbl OutBuf) j =>
      let k := j * 8 + run.chunk % 8
      match o.get? k with
      | none => o
      | some x => if c.needsAck j && x.acked.isNone then o.put k { x with decided := true } else o.del k) c.outb
    let inb := keys.foldl (fun (o : Tbl InBuf) k => o.del k) c.inb
    b.setColl plot { c with done := c.done + 1, outb := outb, inb := inb,
                            upIn := c.upIn.filter fun u => u.chunk ≠ run.chunk }
  | 1 => countAll (b.setColl plot { c with rerun := c.rerun ++ [run.chunk], defers := c.defers + 1, outb := freed,
                                           upIn := c.upIn.filter fun u => u.chunk ≠ run.chunk }) evCollDefer
  | 2 => countAll (b.setColl plot { c with rerun := c.rerun ++ [run.chunk], reruns := c.reruns + 1, outb := freed,
                                           upIn := c.upIn.filter fun u => u.chunk ≠ run.chunk }) evCollRerun
  | 3 => b.collEnd plot c 1 0x10
  | _ => b.collEnd plot c 2 0x11

/-- The chunk that runs next: the head of the rerun queue, else the lowest that has never run (R187). -/
def Coll.choose (c : Coll) : Option (Nat × Coll) :=
  match c.rerun with
  | x :: rest => some (x, { c with rerun := rest })
  | [] => if c.nextNew < c.chunks then some (c.nextNew, { c with nextNew := c.nextNew + 1 }) else none

/-! ### The tick (R183) -/

/-- A change of one run of a collective; a failing command ends the collective with LATE. -/
def Blk.collRun (b : Blk) (plot : Nat) (step : BitVec 32) (r : BitVec 48)
    (f : Blk → Coll → ChunkRun → Chk (Blk × ChunkRun)) : Blk :=
  match b.coll? plot step with
  | none => b
  | some c =>
    match c.runs.find? fun x => x.r = r with
    | none => b
    | some run =>
      match f b c run with
      | .error _ => b.collEnd plot c 2 0x12
      | .ok (b, run') =>
        match b.coll? plot step with
        | none => b
        | some c => b.setColl plot { c with runs := c.runs.map fun x => if x.r = r then run' else x }

/-- Every owner of a run in turn. -/
def Blk.collOwners (b : Blk) (plot : Nat) (c : Coll) (run : ChunkRun) : Chk (Blk × ChunkRun) :=
  c.indices.foldl (fun (a : Chk (Blk × ChunkRun)) i => do
    let x ← a
    x.1.collOwner plot c x.2 i) (.ok (b, run))

/-- The HBM contributions whose move.hbm.read was dispatched at the tick before are complete, unless the mover could not come to it
(R184). -/
def Blk.collArrived (b : Blk) (plot : Nat) (c : Coll) : Blk × Coll :=
  c.indices.foldl (fun (a : Blk × Coll) j =>
    let p := a.2.part j
    if p.src ≠ srcHbm || a.1.seqHeld p.tile (a.2.marks.getD j 0) true then a
    else a.2.inb.foldl (fun (a : Blk × Coll) y =>
      if y.1 / 8 = j && y.2.pieces.isEmpty then
        (a.1.collFetch plot a.2 j y.2.chunk, { a.2 with inb := a.2.inb.put y.1 { y.2 with pieces := a.2.indices } })
      else a) a) (b, c)

/-- The chunk that the next slot would take is fetched from HBM into the input buffers that are free (R184). -/
def Coll.prefetch (c : Coll) (chunk : Nat) : Coll :=
  { c with inb := c.indices.foldl (fun (o : Tbl InBuf) j =>
      if (c.part j).src = srcHbm && (o.get? (j * 8 + chunk % 8)).isNone then
        o.put (j * 8 + chunk % 8) { chunk := chunk, pieces := [], landed := [], lastMc := 0 }
      else o) c.inb }

/-- The sequencer has dispatched this tick's commands behind the sheaves that stand in the queues now (R183). -/
def Blk.collMark (b : Blk) (c : Coll) : Coll :=
  { c with marks := c.indices.map fun j => (j, (b.tile (c.part j).tile).es.nextSid) }

/-- The chunk for the next frame's slot is chosen and sown; the one for the slot after is fetched. -/
def Blk.collNext (b : Blk) (plot : Nat) (step : BitVec 32) : Blk :=
  match b.coll? plot step with
  | none => b
  | some c =>
    let then_ := fun (b : Blk) (c : Coll) =>
      let c := match if ahead c.startFrame (b.clk.frame + 2) then none else c.choose with
        | some (chunk, _) => c.prefetch chunk
        | none => c
      b.setColl plot (b.collMark c)
    if ahead c.startFrame (b.clk.frame + 1) then then_ b c
    else match c.choose with
      | none => then_ b c
      | some (chunk, c) =>
        match b.collSow plot c chunk (b.clk.frame + 1) with
        | .error _ => b.collEnd plot c 2 0x12
        | .ok (b, c) => then_ b c

/-- Whether the sequencer had commands for a run in the frame that ends (R183, R194). -/
def Coll.hadCommands (c : Coll) (now : BitVec 48) (run : ChunkRun) : Bool :=
  [0, 2, 4 + c.shift].any (fun n => run.r = now - BitVec.ofNat 48 n) || (c.up && run.r = now - BitVec.ofNat 48 (3 + c.upWait))

/-- Sequencer commands that could not start in their frame miss their tick: the collective ends with LATE (R183, R190). Output
buffers acknowledged in an earlier mc are free (R193, R197). -/
def Blk.collLate (b : Blk) (plot : Nat) (step : BitVec 32) : Blk :=
  match b.coll? plot step with
  | none => b
  | some c =>
    if c.runs.any (c.hadCommands b.clk.frame) &&
        c.indices.any fun j => b.seqHeld (c.part j).tile (c.marks.getD j 0) false then b.collEnd plot c 2 0x12
    else
      let c := { c with outb := c.outb.filter fun x => !(x.2.decided && x.2.acked.any (· < b.clk.mc)) }
      let r := b.collArrived plot c
      r.1.setColl plot r.2

/-- The ends that a tick brings: a furrow withdrawn, or everything complete (R190, R196). -/
def Blk.collFinish (b : Blk) (plot : Nat) (step : BitVec 32) : Blk :=
  match b.coll? plot step with
  | none => b
  | some c =>
    if c.done = c.chunks && c.runs.isEmpty && c.outb.isEmpty then b.collEnd plot c 0 0
    else if !b.collFurrows plot c then b.collEnd plot c 2 0x13
    else b

/-- The upward part of a tick. -/
def Blk.collUpTick (b : Blk) (plot : Nat) (step : BitVec 32) : Blk :=
  match b.coll? plot step with
  | none => b
  | some c =>
    if !c.up then b
    else
      let (b, c) := b.collTakeReturns plot c
      let b := b.setColl plot c
      match b.collUpSend plot c with
      | .ok b => b
      | .error _ => b.collEnd plot c 2 0x12

/-- A collective's work after step 5 of a tick (R183, R187, R196). -/
def Blk.collTickOne (b : Blk) (plot : Nat) (step : BitVec 32) (shift upWait : Nat) (up : Bool) : Blk :=
  let f := b.clk.frame
  let back := fun (n : Nat) => f - BitVec.ofNat 48 n
  let b := (b.collLate plot step).collUpTick plot step
  let b := match b.coll? plot step with
    | none => b
    | some c => match c.runs.find? fun (x : ChunkRun) => x.r = back (4 + shift) with
      | none => b
      | some run => b.collDecide plot c run
  let b := b.collRun plot step (back (3 + shift)) (·.collReap plot)
  let b := if up then b.collRun plot step (back (2 + upWait)) (·.collUpGather plot) else b
  let b := b.collRun plot step (back 1) (·.collOwners plot)
  (b.collNext plot step).collFinish plot step

/-- Every running collective of the block, as its plot and STEP. -/
def Blk.allColls (b : Blk) : List (Nat × Coll) := b.plots.flatMap fun p => p.2.colls.map fun c => (p.1, c)

/-- The collectives' part of a tick, after step 5. -/
def Blk.collTick (b : Blk) : Blk :=
  b.each b.allColls fun b x => b.collTickOne x.1 x.2.step x.2.shift x.2.upWait x.2.up

/-- Before step 5: repairs of frame r + 1 that have not completed are too late (R185, R197). -/
def Blk.collBefore (b : Blk) : Blk :=
  b.each b.allColls fun b x => b.collRun x.1 x.2.step (b.clk.frame - 2) (·.collLastCall x.1)

/-! ### Repairs that come back (R186) -/

/-- A part of a repaired train has come, or an error in its place, in the frame that the repair has (R185, R186, R197). Once every part is there the train is checked: an owner then
decides, a participant puts the chunk out. -/
def Blk.collPart (b : Blk) (plot : Nat) (step : BitVec 32) (chunk part owner k : Nat) (data : Option Bytes) : Blk :=
  match b.coll? plot step with
  | none => b
  | some c =>
    let gather : Bool := 16 ≤ part
    let mine : Repair → Bool := fun x => x.owner = owner && x.gather = gather && (if gather then x.by_ = part - 16 else x.part = part)
    match c.runs.find? fun x => x.chunk = chunk with
    | none => b
    | some run =>
      match run.repairs.find? mine with
      | none => b
      | some rp => if b.clk.due || b.clk.frame ≠ run.r + BitVec.ofNat 48 (if gather then 3 + c.shift else 1) then b else
        let rp := match data with
          | none => { rp with failed := true }
          | some xs => { rp with got := rp.got.put k xs }
        let run := { run with repairs := run.repairs.map fun x => if mine x then rp else x }
        let c := { c with runs := c.runs.map fun x => if x.chunk = chunk then run else x }
        let b := b.setColl plot c
        let fmt := if gather then c.finFmt else c.inFmt
        if rp.failed || rp.got.length < rp.parts then b
        else if !trainOk fmt rp.bytes (c.real chunk owner) then
          b.setColl plot { c with runs := c.runs.map fun x =>
            if x.chunk = chunk then { x with repairs := x.repairs.map fun y => if mine y then { y with failed := true } else y }
            else x }
        else
          let t := (c.part rp.by_).tile
          let c := { c with repairs := c.repairs + 1 }
          let b := (b.setColl plot c).count t evCollRepair (some plot)
          if gather then
            let b := b.writeSram t (c.outSlot rp.by_ chunk owner) rp.bytes
            b.collRun plot step run.r fun b c run =>
              b.collOut plot c (run.know rp.by_ owner (collHdr rp.bytes).flags) rp.by_
          else if run.repairs.all fun x => x.owner ≠ owner || x.gather || (!x.failed && x.parts ≤ x.got.length) then
            b.collRun plot step run.r fun b c run => b.collResult plot c run owner
          else b

/-! ### Acknowledgements (R193, R197) -/

/-- The oldest DFP of a kind that waits at a tile. -/
def Blk.takeColl (b : Blk) (t m : Nat) : Option ((Nat × Dfp) × Blk) :=
  match takeFirst (fun (x : Nat × Dfp) => hasFlag (collHdr x.2.payload).flags m) (b.tile t).ks.collIn with
  | none => none
  | some (d, rest) => some (d, b.modTile t fun x => { x with ks := { x.ks with collIn := rest } })

/-- Whether a participant's output buffer holds a chunk's results: from its OUT frame on until the mc of its ACK has passed (R193,
R197). -/
def Coll.holds (c : Coll) (now j : Nat) (o : OutBuf) : Bool :=
  if o.decided then o.acked.all fun m => m = now else c.runs.any fun x => x.chunk = o.chunk && x.sent.contains j

/-- The participant at a tile whose output buffer holds the chunk of a DFP. -/
def Blk.heldChunk (b : Blk) (t : Nat) (d : Nat × Dfp) : Option (Coll × Nat × OutBuf) :=
  (b.coll? d.1 (collHdr d.2.payload).step).bind fun c =>
    (c.portPart t).bind fun j => ((c.outBufOf j (collHdr d.2.payload).chunk).filter (c.holds b.clk.mc j)).map fun o => (c, j, o)

/-- An ACK arrives: the buffer is free once its chunk has been decided and the mc has passed; a chunk not held is dropped under
0x31 (R193, R197). -/
def Blk.collAck (b : Blk) (t : Nat) : Blk :=
  match b.takeColl t flAck with
  | none => b
  | some (d, b) =>
    match b.heldChunk t d with
    | none => b.drop t 0x31 (some (b.member.portOf t)) (some d.1)
    | some (c, j, o) =>
      let k := j * 8 + o.chunk % 8
      b.setColl d.1 { c with outb := c.outb.put k { o with acked := some b.clk.mc } }
def execCollAckReceive (tile : Nat) (s : State) : Out := s.mesh (.collAckReceive tile) (·.collAck tile)

/-- A RESEND arrives: the participant emits the held chunk again. -/
def Blk.collResend (b : Blk) (t : Nat) : Blk :=
  match b.takeColl t flResend with
  | none => b
  | some (d, b) =>
    match b.heldChunk t d with
    | none => b.drop t 0x31 (some (b.member.portOf t)) (some d.1)
    | some (c, j, o) =>
      let p := c.part j
      let r := c.indices.foldl (fun (a : Chk Blk) i => do
        let b ← a
        let train := b.readSram p.tile (c.outSlot j o.chunk i) (64 + collBytes c.finFmt (c.real o.chunk i))
        b.collEmitPiece d.1 c p.tile p.coord.toNat o.chunk i c.finFmt (collHdr train).dcrc (train.drop 64)) (.ok b)
      match r with
      | .ok b => b
      | .error _ => b.collEnd d.1 c 2 0x12
def execCollResendReceive (tile : Nat) (s : State) : Out := s.mesh (.collResendReceive tile) (·.collResend tile)

/-- No ACK for a chunk within 4,096 frames of its decision (R190). -/
def Blk.collNoAck (b : Blk) (plot : Nat) (step : BitVec 32) (part chunk : Nat) : Blk :=
  match b.coll? plot step with
  | none => b
  | some c =>
    if c.needsAck part && (c.outBufOf part chunk).any fun o => o.decided && o.acked.isNone then b.collEnd plot c 2 0x15 else b
def execCollNoAck (plot : Nat) (step : BitVec 32) (part chunk : Nat) (s : State) : Out :=
  s.mesh (.collNoAck plot step part chunk) (·.collNoAck plot step part chunk)

/-- An abort of a list context: one that a collective holds ends the collective (R115, R190). -/
def Blk.ctxAbort (b : Blk) (t ctx : Nat) : Blk :=
  match b.allColls.find? fun x => x.2.parts.any fun p => p.tile = t && p.ctx = ctx with
  | some x => b.collEnd x.1 x.2 3 0x17
  | none => b.abortCtx t ctx
def execCtxAbort (tile ctx : Nat) (s : State) : Out := s.mesh (.ctxAbort tile ctx) (·.ctxAbort tile ctx)

end Sys2Proof.Machine
end

