-- ==== Sys2Proof/Machine/Observe.lean ====
section
/-! DEFINITION. Observation: counters, programmable counters, the rake, histograms, hang rings, trace control and markers
(R371–R385). -/
namespace Sys2Proof.Machine

def Blk.modOb (b : Blk) (t : Nat) (f : TileObs → TileObs) : Blk := b.modTile t fun x => { x with ob := f x.ob }

/-! ### Fixed counters (R372) -/

/-- A write of `OD 0x2800.02`; RANGE where the event has no fixed counter. What the counter took in the same mc is added to the
written value (R336, R384). -/
def Blk.writeCounter (e : Nat) (v : BitVec 32) (t : Nat) (b : Blk) : Od :=
  if hasFixed e then Od.ok (b.modOb t fun o => { o with ctr := o.ctr.put e (v + BitVec.ofNat 32 (o.adds.getD e 0)) })
  else Od.no b abRange
def execCounterWrite (ch : Channel) (value : BitVec 32) (s : State) : Out :=
  s.od (.counterWrite ch value) ch false fun b => b.odTile ch (Blk.writeCounter (b.sels ch).evsel value)

/-- Overflow bits that were set in this mc. -/
def TileObs.newOvf (o : TileObs) : BitVec 1024 := BitVec.ofNat 1024 (((o.wraps.filter (· < 1024)).eraseDups.map (2 ^ ·)).sum)

/-- A write of the overflow bits: each 1 clears its bit, but for one set in the same mc (R336, R384). -/
def Blk.clearOvf (v : BitVec 1024) (t : Nat) (b : Blk) : Od :=
  Od.ok (b.modOb t fun o => { o with ovf := (o.ovf &&& ~~~v) ||| o.newOvf })

/-! ### Programmable counters (R373) -/

def TileObs.pmc (o : TileObs) (i : Nat) : Pmc := o.pmcs.getD i Pmc.fresh
def TileObs.modPmc (o : TileObs) (i : Nat) (f : Pmc → Pmc) : TileObs := { o with pmcs := o.pmcs.put i (f (o.pmc i)) }

/-- Fields of PMC_CFG that a write stages until the next tick. -/
def pmcMask : BitVec 64 := 0x00FF0FFF#64

/-- A write of PMC_CFG_i: 1 in OVF clears it at once unless it was set in this mc, the fields wait for the tick (R336, R373). -/
def Pmc.write (x : Pmc) (wrapped : Bool) (v : BitVec 64) : Pmc :=
  { x with pending := some (v &&& pmcMask), cfg := if flag v 24 && !wrapped then setFld x.cfg 24 1 0 else x.cfg }

/-- PMC_CFG_i as it reads: the fields last written, and OVF (R5). -/
def Pmc.word (x : Pmc) : BitVec 64 := setFld (x.pending.getD x.cfg) 24 1 (fld x.cfg 24 1)

/-- A staged configuration takes effect at step 2 of a tick. -/
def Pmc.tick (x : Pmc) : Pmc :=
  match x.pending with
  | some v => { x with pending := none, cfg := BitVec.ofNat 64 (v.toNat + atB 24 (flag x.cfg 24)) }
  | none => x

/-- A write of PMC_CFG_i of a tile; nothing for i of 8 or more. -/
def Blk.writePmc (b : Blk) (t i : Nat) (v : BitVec 64) : Blk :=
  if i < 8 then b.modOb t fun o => o.modPmc i fun x => x.write (o.wraps.contains (1024 + i)) v else b
def execPmcCfgWrite (tile index : Nat) (value : BitVec 64) (s : State) : Out :=
  s.page (.pmcCfgWrite tile index value) tile (·.writePmc tile index value)

/-- PMC_VAL: eight values of 48 bits, 8 bytes each. -/
def TileObs.pmcVals (o : TileObs) : Bytes := (List.range 8).flatMap fun i => toBytes 8 (o.pmc i).value

/-- A write of PMC_VAL sets all eight values; what each took in the same mc is added (R336, R384). -/
def TileObs.setPmcVals (o : TileObs) (xs : Bytes) : TileObs :=
  (List.range 8).foldl (fun o i => o.modPmc i fun x =>
    { x with value := (ofBytes ((xs.drop (8 * i)).take 6) + o.adds.getD (1024 + i) 0) % 2 ^ 48 }) o

/-! ### The rake (R374–R376) -/

/-- A write of RAKE_K: 0 or 10 to 24; rakes are counted from the write that leaves 0. -/
def Blk.writeRakeK (b : Blk) (v : Nat) : Od :=
  if v ≠ 0 && (v < 10 || 24 < v) then Od.no b abRange
  else Od.ok { b with obs := { b.obs with rakeK := v, rakeSeq := if b.obs.rakeK = 0 then 0 else b.obs.rakeSeq } }
def execRakeKWrite (ch : Channel) (value : BitVec 8) (s : State) : Out :=
  s.od (.rakeKWrite ch value) ch false (·.writeRakeK value.toNat)

/-- A write of RAKE_BASE. -/
def Blk.writeRakeBase (b : Blk) (v : BitVec 64) : Od :=
  if fld v 0 12 ≠ 0 then Od.no b abRange
  else if b.obs.rakeK ≠ 0 then Od.no b abState
  else Od.ok { b with obs := { b.obs with rakeBase := v } }
def execRakeBaseWrite (ch : Channel) (value : BitVec 64) (s : State) : Out :=
  s.od (.rakeBaseWrite ch value) ch false (·.writeRakeBase value)

/-- Bytes of a rake buffer (R375). -/
def rakeBuffer : Nat := 12587008

/-- The 64 bytes of a histogram row. -/
def TileObs.histRow (o : TileObs) (row : Nat) : Bytes :=
  (List.range 16).flatMap fun i => toBytes 4 (o.hist.getD (row * 16 + i) 0#32).toNat

/-- A programmable counter in a rake block: value, OVF, EVENT. -/
def Pmc.rake (x : Pmc) : Nat := at_ 0 48 x.value + at_ 48 1 (fld x.cfg 24 1) + at_ 49 10 (fld x.cfg 0 10)

/-- The block of a tile in a rake buffer (R375). -/
def Blk.rakeBlock (b : Blk) (t : Nat) : Bytes :=
  let o := (b.tile t).ob
  let p := b.member.portOf t
  let port := b.member.isPortTile t
  let ctrs := toBytes 4 t ++ (List.range 1023).flatMap fun e => toBytes 4 (o.ctr.getD (e + 1) 0#32).toNat
  let pmcs := (List.range 8).flatMap fun i => toBytes 8 (o.pmc i).rake
  let eg := if port then
      (List.range 64).flatMap fun q => toBytes 4 (at_ 0 16 (b.egQueue p q).depth + at_ 16 16 (b.egQueue p q).largest)
    else []
  padTo 0x1000 ctrs ++ padTo 0x40 (toBytes 8 b.clk.mc) ++ padTo 0x40 pmcs ++ padTo 0x380 (toBytes 128 o.ovf.toNat) ++
    padTo 0x400 ((List.range 16).flatMap o.histRow) ++
    padTo 0x1000 (if port then (List.range 64).flatMap fun q => o.histRow (16 + q) else []) ++ padTo 0x800 eg

/-- The header page of a rake buffer, DONE as given. -/
def Blk.rakeHeader (b : Blk) (seq done : Nat) : Bytes :=
  padTo 4096 (toBytes 4 0x52414B45 ++ toBytes 4 seq ++ toBytes 6 b.clk.frame.toNat ++ toBytes 2 b.sown.active.gen.toNat ++
    toBytes 2 b.slots ++ toBytes 1 b.obs.rakeK ++ [0#8] ++ toBytes 4 b.member.tileCount ++ List.replicate 36 0#8 ++ toBytes 4 done)

/-- Where a rake's buffer lies. -/
def Blk.rakeAt (b : Blk) (seq : Nat) : Nat := b.obs.rakeBase.toNat + rakeBuffer * (seq % 2)

/-- Every largest-depth register of the egress queues starts again from the depth (R374). -/
def Port.resetLargest (x : Port) : Port :=
  { x with eg := { x.eg with queues := x.eg.queues.mapV fun _ q => { q with largest := q.depth } } }

/-- A rake latch in the tick that begins a frame: `last` holds what stood at the end of the last mc of the frame before (R384).
Skipped while a write-out runs. -/
def Blk.rakeLatch (b last : Blk) : Blk :=
  if b.obs.rakeK = 0 || b.clk.frame.toNat % 2 ^ b.obs.rakeK ≠ 0 then b
  else if b.obs.rake.isSome then (b.countSys evRakeSkip).raiseS 0x81 0 none b.clk.frame.toNat
  else
    let seq := b.obs.rakeSeq
    let base := b.rakeAt seq
    let image := (base, b.rakeHeader seq seq) :: b.member.tiles.map fun t => (base + (4096 + 12288 * t), last.rakeBlock t)
    let b := b.writeHost (base + 60) (toBytes 4 0xFFFFFFFF)
    { b with obs := { b.obs with rake := some (seq, image), rakeSeq := seq + 1 },
             ports := b.ports.mapV fun _ x => x.resetLargest }

/-- The write-out of a rake ends: every tile block, then the header with DONE, then RAKE_DONE (R376). -/
def Blk.rakeWriteOut (b : Blk) : Blk :=
  match b.obs.rake with
  | none => b
  | some (seq, image) =>
    let b := b.each (image.drop 1 ++ image.take 1) fun b x => b.writeHost x.1 x.2
    ({ b with obs := { b.obs with rake := none } } : Blk).raiseS 0x80 0 none seq
def execRakeWriteOut (s : State) : Out := s.mesh .rakeWriteOut (·.rakeWriteOut)

/-! ### Histograms (R378) -/

/-- A write of `OD 0x2806.03`: 1 clears the bins of the tile at the next tick. -/
def Blk.clearHist (v : Nat) (t : Nat) (b : Blk) : Od :=
  if v ≠ 1 then Od.no b abRange else Od.ok (b.modOb t fun o => { o with histClear := true })
def execHistogramClear (ch : Channel) (s : State) : Out :=
  s.od (.histogramClear ch) ch false fun b => b.odTile ch (Blk.clearHist 1)

/-- Step 2 of a tick at a tile, after the rake latch: staged counters and cleared histograms (R373, R378). -/
def TileObs.tick (o : TileObs) : TileObs :=
  { o with pmcs := o.pmcs.mapV fun _ x => x.tick, hist := if o.histClear then [] else o.hist, histClear := false }

/-! ### Hang rings (R379) -/

/-- A write of `OD 0x2804.03`: 1 in bit 0 thaws the ring, but for a freeze of the same mc (R336). -/
def Blk.thaw (v : BitVec 8) (t : Nat) (b : Blk) : Od :=
  Od.ok (if flag v 0 && !b.noted (.set (.frozen t)) then b.modOb t fun o => { o with frozen := false } else b)
def execHangThaw (ch : Channel) (value : BitVec 8) (s : State) : Out :=
  s.od (.hangThaw ch value) ch true fun b => b.odTile ch (Blk.thaw value)

/-- A write of HANG_BASE. -/
def Blk.writeHangBase (b : Blk) (v : BitVec 64) : Od :=
  if fld v 0 12 ≠ 0 then Od.no b abRange else Od.ok { b with obs := { b.obs with hangBase := v } }
def execHangBaseWrite (ch : Channel) (value : BitVec 64) (s : State) : Out :=
  s.od (.hangBaseWrite ch value) ch true (·.writeHangBase value)

/-! ### Trace (R381) -/

/-- The system tile writes TICK. -/
def Blk.traceTick (b : Blk) : Blk :=
  if flag b.obs.traceCtrl 0 then b.trace sysTile 6 (b.clk.frame.toNat + 2 ^ 48 * b.slots) else b

/-- A write of TRACE_CTRL; the enable writes TICK. -/
def Blk.writeTraceCtrl (b : Blk) (v : BitVec 8) : Od :=
  let on : Bool := flag v 0 && !flag b.obs.traceCtrl 0
  let b : Blk := { b with obs := { b.obs with traceCtrl := v &&& 0x0F#8 } }
  Od.ok (if on then b.traceTick else b)
def execTraceCtrlWrite (ch : Channel) (value : BitVec 8) (s : State) : Out :=
  s.od (.traceCtrlWrite ch value) ch true (·.writeTraceCtrl value)

/-- The trace unit takes the oldest records of one tile, as many as the budget allows. -/
def Blk.gatherTile (b : Blk) (t budget : Nat) : Blk × Nat :=
  let l := (b.tile t).ob.trace.reverse
  if l.isEmpty || budget = 0 then (b, budget)
  else
    let b := b.modOb t fun o => { o with trace := (l.drop budget).reverse }
    ({ b with obs := { b.obs with traceOut := b.obs.traceOut ++ l.take budget } }, budget - l.length)

/-- What the trace unit gathers in a frame: 4 GB/s are 2 bytes an mc, S records a frame. -/
def Blk.traceGather (b : Blk) : Blk :=
  (b.member.tiles.foldl (fun x t => x.1.gatherTile t x.2) (({ b with obs := { b.obs with traceOut := [] } } : Blk), b.slots)).1

/-! ### Markers (R382) -/

/-- The marker DFP: TYPE 4, plot 0, CLASS 63, a 4-byte payload with MARK_ID. HOPS is the field's reset value. -/
def Blk.marker (b : Blk) (p mark dst : Nat) : EgDfp :=
  let h := dfpHdr 4 0xFFFF 63 8 dst b.self 0 0 4
  { hdr := h, inPort := p, plot := 0, color := 0, queue := 63, half := (b.port p).isB 63, pool := poolOf 4,
    src := b.member.portTile p, furrow := 0, cells := cellsOfBytes (toBytes 4 mark), due := 1, broken := false, whole := true,
    marker := true, enq := 0 }

/-- A write of `OD 0x2803.01`: port, MARK_ID and DST. -/
def Blk.markerSend (b : Blk) (xs : Bytes) : Od :=
  let p := ofBytes (xs.take 1)
  if b.member.ports ≤ p then Od.no b abRange
  else if (b.port p).state ≠ .up then Od.no b abState
  else Od.ok (b.enqueue p (b.marker p (ofBytes ((xs.drop 4).take 4)) (ofBytes ((xs.drop 8).take 4))))
def execMarkerSend (ch : Channel) (value : Bytes) (s : State) : Out :=
  s.od (.markerSend ch value) ch true (·.markerSend value)

end Sys2Proof.Machine
end

