-- ==== Sys2Proof/Machine/Idle.lean ====
section
/-! DEFINITION. Transitions that wait for power and how they are counted (R308, R310). -/
namespace Sys2Proof.Machine

/-- What a transition changes: a cluster or a port (R308). -/
def PowerUnit.id : PowerUnit → Nat
  | .cluster c _ => c
  | .selfTest c _ => c
  | .port p _ => 0x100 + p

/-- Whether a transition's next stage is ready: none of it runs, and no earlier transition of the unit is queued (R310). -/
def readyAtIndex (l : List Transition) (i : Nat) : Bool :=
  match l[i]? with
  | none => false
  | some t => !t.running && t.ended < t.stages && (l.take i).all fun u => u.unit.id ≠ t.unit.id

/-- Stages of a die that are ready and wait (R310). -/
def Blk.readyStages (b : Blk) (d : Nat) : Nat :=
  let l := b.power.queues.getD d []
  ((List.range l.length).filter (readyAtIndex l)).length

/-- PWR_PACED of every die takes its waiting stages (R310). -/
def Blk.countPaced (b : Blk) : Blk :=
  b.each (List.range b.member.dies) fun b d =>
    if b.readyStages d = 0 then b else b.countN (dieCorner d) evPwrPaced (b.readyStages d)

end Sys2Proof.Machine
end

