-- ==== Sys2Proof/Machine/Flash.lean ====
section
/-! DEFINITION. Flash: images, the directory, the rollback count and the persistent store (R357–R368). -/
namespace Sys2Proof.Machine

/-! ### Images (R358) -/

/-- The header of an image: MAGIC, VER, SVN, KEY_ID, VERSION, LENGTH. -/
def imgMagic (m : Mem) : Nat := ofBytes (m.read 0 4)
def imgVer (m : Mem) : Nat := ofBytes (m.read 4 2)
def imgSvn (m : Mem) : Nat := ofBytes (m.read 6 1)
def imgKey (m : Mem) : Nat := ofBytes (m.read 7 1) % 4
def imgVersion (m : Mem) : Nat := ofBytes (m.read 8 4)
def imgLength (m : Mem) : Nat := ofBytes (m.read 12 4)

/-- Whether a header is one of an image. -/
def imgHeaderOk (m : Mem) : Bool :=
  imgMagic m = 0x4657494D && imgVer m = 1 && imgSvn m ≤ 64 && imgLength m % 64 = 0 && 64 ≤ imgLength m &&
    imgLength m ≤ 4193792 && (m.read 64 352).all (· = 0#8)

/-- The header and body of an image, which FW_MEAS covers. -/
def imgBytes (m : Mem) : Bytes := m.read 0 (512 + imgLength m)

/-- The result of VERIFY: 0 OK, 1 HEADER, 2 SIGNATURE, 3 HASH, 4 ROLLBACK (R358, R361). -/
def imgVerify (m : Mem) (rollback : Nat) : Nat :=
  if !imgHeaderOk m then 1
  else if !Config.ecdsaVerify (imgKey m) (Config.sha384 (m.read 0 416)) (m.read 416 96) then 2
  else if padTo 48 (Config.sha384 (m.read 512 (imgLength m))) ≠ m.read 16 48 then 3
  else if imgSvn m < rollback then 4
  else 0

/-- The image of a slot: false A, true B. -/
def Firmware.slot (f : Firmware) (s : Bool) : Mem := if s then f.slotB else f.slotA
def Firmware.slotState (f : Firmware) (s : Bool) : FwSlotState := if s then f.stateB else f.stateA
def Firmware.setSlot (f : Firmware) (s : Bool) (m : Mem) (st : FwSlotState) : Firmware :=
  if s then { f with slotB := m, stateB := st } else { f with slotA := m, stateA := st }

/-! ### The directory (R359) -/

/-- Whether copy 1 governs. -/
def Firmware.dirSel (f : Firmware) : Bool := f.dir1.valid && (!f.dir0.valid || f.dir0.seq.toNat < f.dir1.seq.toNat)

/-- The governing record, if a copy is valid. -/
def Firmware.dir (f : Firmware) : Option DirCopy :=
  if f.dirSel then some f.dir1 else if f.dir0.valid then some f.dir0 else none

/-- Writes a record to the copy that does not govern, with SEQ one higher. -/
def Firmware.writeDir (f : Firmware) (active trial tried : Bool) : Firmware :=
  let seq := match f.dir with
    | some d => d.seq + 1
    | none => 1#32
  let r : DirCopy := { valid := true, seq := seq, active := active, trial := trial, tried := tried }
  if f.dirSel || !f.dir0.valid then { f with dir0 := r } else { f with dir1 := r }

/-- The slot that a request may change: not the running one; slot A in RECOVERY (R361, R365). -/
def Firmware.inactive (f : Firmware) : Bool := if f.stage = .recovery then false else !f.running

/-! ### The rollback count (R363) -/

/-- The count rises to an SVN, step by step, with ROLLBACK_STEP each and ROLLBACK_END once. -/
def Blk.raiseRollback (b : Blk) (svn : Nat) : Blk :=
  let n := b.fw.rollback
  let b := b.each ((List.range (svn - n)).map fun i => n + 1 + i) fun b k =>
    { b.raiseS 0x74 0 none k with fw := { b.fw with rollback := k } }
  if b.fw.rollback = 64 && !b.fw.endRaised then { b.raiseS 0x75 0 none with fw := { b.fw with endRaised := true } } else b

/-! ### The persistent store (R366, R367). The KEY of each stored entry is the model's own. -/

def psMgmt (sub : Nat) : Nat := 0x1100 + sub
def psKeySlot (slot : Bool) : Nat := if slot then 0x1202 else 0x1201
def psJournal : Nat := 0x1203
def psBoot : Nat := 0x1002
def psCoord : Nat := 0x2001
def psPwr : Nat := 0x2700
def psIde : Nat := 0x3201

/-- Bytes of a sector that records may fill: its first 8 count erases. -/
def sectorRoom : Nat := 65528

/-- Bytes of a record. -/
def PsRec.size (r : PsRec) : Nat := 16 + r.data.length

/-- The governing record of a KEY: the highest RSEQ among those whose CRC matches. -/
def Firmware.governs (f : Firmware) (key : Nat) : Option PsRec :=
  (f.records.filter fun r => r.key = key && r.good).foldl
    (fun a r => match a with
      | none => some r
      | some x => if x.rseq < r.rseq then some r else a) none

/-- The data stored under a KEY. -/
def Firmware.stored (f : Firmware) (key : Nat) : Option Bytes := (f.governs key).map (·.data)

/-- Every governing record. -/
def Firmware.governing (f : Firmware) : List PsRec :=
  f.records.filter fun r => (f.governs r.key).any fun g => g.rseq = r.rseq && r.good

/-- Whether the write sector has no room for the largest record. -/
def Firmware.full (f : Firmware) : Bool := sectorRoom < f.used.getD f.writeSector 0 + 1040

/-- Sectors that can receive a compaction: erased and below the erase limit. -/
def Firmware.targets (f : Firmware) : List Nat :=
  (List.range 16).filter fun s => s ≠ f.writeSector && f.used.getD s 0 = 0 && f.erases.getD s 0 < 100000

/-- The target with the fewest erases. -/
def Firmware.target (f : Firmware) : Option Nat :=
  f.targets.foldl
    (fun a s => match a with
      | none => some s
      | some x => if f.erases.getD s 0 < f.erases.getD x 0 then some s else a) none

/-- A compaction: the governing records move to the target, and every other sector that held records is erased; with no target
the store is worn (R367). -/
def Blk.compact (b : Blk) : Blk :=
  let f := b.fw
  match f.target with
  | none => if f.worn then b else { b.raiseS 0x77 0 none with fw := { f with worn := true } }
  | some s =>
    let keep := f.governing.map fun r => { r with sector := s }
    let old := (List.range 16).filter fun k => k ≠ s && f.used.getD k 0 ≠ 0
    let erases := old.foldl (fun (e : Tbl Nat) k => e.put k (e.getD k 0 + 1)) f.erases
    let f := { f with records := keep, writeSector := s, used := [(s, (keep.map PsRec.size).sum)], erases := erases }
    match old.find? fun k => erases.getD k 0 = 90000 with
    | some k =>
      if f.wearRaised then { b with fw := f }
      else { b.raiseS 0x76 0 none k 90000 with fw := { f with wearRaised := true } }
    | none => { b with fw := f }

/-- Stores an entry: none when the store is read-only or the flash is stopped (R367, R368). -/
def Blk.store (b : Blk) (key : Nat) (data : Bytes) : Option Blk :=
  if b.fw.worn || b.fw.flashStop then none
  else
    let b := if b.fw.full then b.compact else b
    let f := b.fw
    if f.worn then none
    else
      let rseq := (f.records.map (·.rseq)).foldl max 0 + 1
      let r : PsRec := { key := key, rseq := rseq, data := data, good := true, sector := f.writeSector }
      some { b with fw := { f with records := f.records ++ [r],
                                   used := f.used.put f.writeSector (f.used.getD f.writeSector 0 + r.size) } }

/-- A write of a stored entry: refused with STATE when it cannot be stored. -/
def Blk.storeThen (b : Blk) (key : Nat) (data : Bytes) (f : Blk → Blk) : Od :=
  match b.store key data with
  | some b => Od.ok (f b)
  | none => Od.no b abState

def execPstoreCompaction (s : State) : Out :=
  s.steward .pstoreCompaction fun b => if b.fw.full && !b.fw.flashStop then b.compact else b

end Sys2Proof.Machine
end

