-- ==== Sys2Proof/Machine/Sown.lean ====
section
/-! DEFINITION. The commands of the sown plane: frame lock, windows and cells, loads, swaps, quotas, expert writes
(R42, R50, R61–R72, R410, R411), and the crossing attach (R288, R395). -/
namespace Sys2Proof.Machine

/-! ### Frame lock (R42) -/

/-- Crossing outputs to and from a die: tile and output. -/
def crossingsOf (m : Member) (die : Nat) : List (Nat × Nat) :=
  m.tiles.flatMap fun t => (List.range 4).filterMap fun o =>
    if m.crossing t o && (m.dieOf t = die || m.dieOf (m.neighbour t o) = die) then some (t, o) else none

/-- An armed swap is cancelled for LOCK. Where the image is an alternate, its fault has failed to arm: it is reported, and no
alternate is in progress any more (R71, R292). -/
def Blk.lockCancel (b : Blk) : Blk :=
  let b := b.swapCancel rsLock .ready
  match b.fault.current with
  | none => b
  | some f =>
    let b := b.tellFault f foLoadFail
    { b with fault := { b.fault with current := none } }

/-- A die loses frame lock: event, fences on its crossing outputs, an armed swap cancelled (R42, R71). -/
def Blk.lockLost (b : Blk) (die : Nat) : Blk :=
  let b := b.modDie die fun _ => { locked := false, zeros := 0, clearFence := false }
  let b := b.raiseS 0x24 0 none b.sown.active.gen.toNat die
  let b := b.each (crossingsOf b.member die) fun b x => b.fence x.1 (2 ^ x.2)
  (if b.sown.state = .armed then b.lockCancel else b).declare fcDie die

/-- The tick marker of die 0 reaches a die (R42). Die 0, and a member without crossing links, takes none (R2). -/
def Blk.tickMarker (b : Blk) (die diff : Nat) : Blk :=
  if b.member ≠ .dx1024 || die = 0 then b
  else if 0 < diff then
    if (b.die die).locked then b.lockLost die else b.modDie die fun x => { x with zeros := 0 }
  else if (b.die die).locked then b
  else b.modDie die fun x => { x with zeros := x.zeros + 1 }

/-- After 16 frames with a difference of 0 the die is back in lock; its fence clears at the next tick (R42). -/
def Blk.lockRegained (b : Blk) (die : Nat) : Blk :=
  if (b.die die).locked || (b.die die).zeros < 16 then b
  else
    let b := b.modDie die fun _ => { locked := true, zeros := 0, clearFence := true }
    (b.raiseS 0x25 0 none b.sown.active.gen.toNat die).undeclare fcDie die

def execTickMarkerReceive (die diff : Nat) (s : State) : Out := s.mesh (.tickMarkerReceive die diff) (·.tickMarker die diff)
def execFrameLockRegained (die : Nat) (s : State) : Out := s.mesh (.frameLockRegained die) (·.lockRegained die)

/-! ### Windows and cells -/

def execSownWindowOpen (tile out entry : Nat) (s : State) : Out :=
  s.mesh (.sownWindowOpen tile out entry) (·.openWindow tile out entry)
def execSownCellArrival (tile input : Nat) (damage : BitVec 96) (s : State) : Out :=
  s.mesh (.sownCellArrival tile input damage) (·.cellArrives tile input damage)

/-! ### The crossing attach (R288, R395) -/

/-- One uncorrectable error of a router's link, on die or crossing; 4 in one frame declare the link failed (R288). -/
def Blk.linkError (b : Blk) (t o : Nat) : Blk :=
  let k := t * 4 + o
  let n := b.fault.linkErr.getD k 0 + 1
  let b : Blk := { b with fault := { b.fault with linkErr := b.fault.linkErr.put k n } }
  if 4 ≤ n then b.declare fcLink k else b

/-- A crossing PHY is down: the link fails, and its reverse is fenced with it (R288, R292's worked example). -/
def Blk.phyDown (b : Blk) (t o : Nat) : Blk :=
  if !b.member.crossing t o then b
  else (b.fence (b.member.neighbour t o) (bothPlanes (opposite o))).declare fcLink (t * 4 + o)

def execXsUncorr (tile out : Nat) (s : State) : Out := s.mesh (.xsUncorr tile out) (·.linkError tile out)
def execXsPhyDown (tile out : Nat) (s : State) : Out := s.mesh (.xsPhyDown tile out) (·.phyDown tile out)

/-- An engine's head command made no progress for 2^20 mc: the tile has failed (R288). -/
def execEngineNoProgress (tile engine : Nat) (s : State) : Out :=
  s.mesh (.engineNoProgress tile engine) (·.declare fcTile tile)

/-! ### Loading (R52, R66) -/

/-- Whether a transfer is open on an entry on any channel (R331). -/
def Blk.transferOn (b : Blk) (index sub : Nat) : Bool :=
  [b.mgmt.xferM, b.mgmt.xfer0, b.mgmt.xfer1].any fun x => x.any fun t => t.index = index && t.sub = sub

/-- 1 is written to `OD 0x2200.04`: the load of the staged images starts (R64, R66, R331). -/
def Blk.loadStart (b : Blk) : Od :=
  if b.transferOn 0x2200 0x09 || b.transferOn 0x2202 0x01 then Od.no b abState
  else match b.sown.state with
    | .free | .ready | .invalid =>
      Od.ok { b with sown := { b.sown with state := .loading, expert := false, busy := true } }
    | _ => Od.no b abState

/-- SOWN_LOAD_FAIL (R52). -/
def Blk.loadFailed (b : Blk) (f : LoadFail) : Blk := b.raiseS 0x23 0 none b.sown.shadow.gen.toNat f.kind f.tile f.out

/-- The shadow takes the outcome of its checks (R52, R64). -/
def Blk.shadowDone (b : Blk) (r : Option LoadFail) : Blk :=
  let b : Blk := { b with sown := { b.sown with
    state := if r.isNone then .ready else .invalid, expert := false, busy := false } }
  match r with
  | none => b
  | some f => b.loadFailed f

/-! ### Arming (R61, R66, R410) -/

/-- Whether a version keeps the quota of every plot on every output (R61). -/
def Blk.quotaOk (b : Blk) (v : SownVersion) : Bool :=
  v.listed.all fun x =>
    !SownVersion.owned x.2.2.2 ||
      256 * v.share x.1 x.2.1 (ePlot x.2.2.2) ≤ (b.plot (ePlot x.2.2.2)).cfg.sownQuota * v.slots

/-- Whether active entry S − 1 and shadow entry 0 of every output keep R47. -/
def Blk.seamOk (b : Blk) : Bool :=
  b.sown.shadow.outputs.all fun x =>
    lagOk (b.sown.active.entry x.1 x.2 (b.slots - 1)) (b.sown.shadow.entry x.1 x.2 0)

/-- The first condition of R66 that refuses an arming for a frame. -/
def Blk.armRefusal (b : Blk) (f : BitVec 48) : Option Nat :=
  let spaced := b.sown.lastSwap + 256
  if b.sown.state ≠ .ready then some rsNotReady
  else if (List.range b.member.dies).any (fun d => !(b.die d).locked) then some rsLock
  else if ahead spaced f then some rsSpacing
  else if !ahead f b.clk.frame || b.mcUntil f < 256 then some rsTooLate
  else if 2 ^ 32 < (f - b.clk.frame).toNat then some rsTooFar
  else if b.sown.shadow.gen ≠ b.sown.active.gen + 1 then some rsGen
  else if !b.quotaOk b.sown.shadow then some rsQuota
  else if !b.seamOk then some rsSeam
  else none

/-- The abort code of a reason (R410). -/
def armAbort (r : Nat) : Nat := if r = rsSpacing || r = rsTooLate || r = rsTooFar then abRange else abState

/-- The shadow is armed for the swap frame (R66). -/
def Blk.armed (b : Blk) : Blk := { b with sown := { b.sown with state := .armed } }

/-- 1 is written to `OD 0x2200.06` (R66). -/
def Blk.arm (b : Blk) : Od :=
  match b.armRefusal b.sown.swapFrame with
  | some r => (b.swapRefused r, armAbort r)
  | none => Od.ok b.armed

/-- 0 is written to `OD 0x2200.06` (R66). -/
def Blk.disarm (b : Blk) : Od :=
  if b.sown.state ≠ .armed then Od.ok b
  else if b.mcUntil b.sown.swapFrame < 256 then (b.swapRefused rsTooLate, abState)
  else Od.ok { b with sown := { b.sown with state := .ready } }

/-- The first frame that R66 permits for an alternate: a tick 256 mc away or more, and SPACING. -/
def Blk.firstSwapFrame (b : Blk) : BitVec 48 :=
  let f := b.clk.frame + BitVec.ofNat 48 (ceilDiv (256 + b.clk.offset) b.frameLen)
  if ahead (b.sown.lastSwap + 256) f then b.sown.lastSwap + 256 else f

/-- An alternate has passed its checks: the steward arms it (R71, R292). -/
def Blk.armAlternate (b : Blk) (f : Failover) : Blk :=
  let g := b.firstSwapFrame
  let late := ahead g (b.clk.frame + BitVec.ofNat 48 (ceilDiv (256 + b.clk.offset) b.frameLen))
  match b.armRefusal g with
  | some r => { ((b.swapRefused r).tellFault f foLoadFail) with
      fault := { (((b.swapRefused r).tellFault f foLoadFail)).fault with current := none } }
  | none =>
    let b : Blk := { b.armed with sown := { b.armed.sown with swapFrame := g } }
    if late then
      let b := b.tellFault f foDeferred
      { b with fault := { b.fault with current := some { f with told := true } } }
    else b

/-- The load ends (R52, R66, R292). -/
def Blk.loadDone (b : Blk) : Blk :=
  if b.sown.state ≠ .loading || b.sown.expert || !b.sown.busy then b
  else
    let off := match b.fault.current with
      | some f => lImage (b.fault.library.getD f.entry 0#64)
      | none => 0
    let alt := b.fault.current.isSome
    let r := loadImage b alt off (if alt then altRouteOff b off else 2 ^ 26)
    let b := ({ b with sown := { b.sown with shadow := r.1 } } : Blk).shadowDone r.2
    match b.fault.current with
    | none => b
    | some f =>
      if r.2.isSome then
        let b := b.tellFault f foLoadFail
        { b with fault := { b.fault with current := none } }
      else b.armAlternate f

def execSownLoadStart (ch : Channel) (s : State) : Out := s.od (.sownLoadStart ch) ch false (·.loadStart)
def execSownLoadDone (s : State) : Out := s.mesh .sownLoadDone (·.loadDone)

/-- `OD 0x2200.05`: refused while ARMED (R66). A value that is no frame count is out of range (log 149). -/
def Blk.writeSwapFrame (b : Blk) (f : BitVec 64) : Od :=
  if b.sown.state = .armed then Od.no b abState
  else if 2 ^ 48 ≤ f.toNat then Od.no b abRange
  else Od.ok { b with sown := { b.sown with swapFrame := BitVec.ofNat 48 f.toNat } }

def execSwapFrameWrite (ch : Channel) (frame : BitVec 64) (s : State) : Out :=
  s.od (.swapFrameWrite ch frame) ch false (·.writeSwapFrame frame)
def execSwapArm (ch : Channel) (s : State) : Out := s.od (.swapArm ch) ch false (·.arm)
def execSwapDisarm (ch : Channel) (s : State) : Out := s.od (.swapDisarm ch) ch false (·.disarm)

/-- 256 frames after a swap the shadow is FREE; a fault that waited is then met (R68, R71). -/
def Blk.retireEnd (b : Blk) : Blk :=
  if b.sown.state ≠ .retired then b
  else
    let b : Blk := { b with sown := { b.sown with state := .free } }
    match b.fault.waiting with
    | [] => b
    | f :: fs => ({ b with fault := { b.fault with waiting := fs } } : Blk).startFailover f

def execShadowRetireEnd (s : State) : Out := s.mesh .shadowRetireEnd (·.retireEnd)

/-! ### Quotas (R61, R62) -/

/-- The first output, in ascending index, on which a plot's share of the active generation exceeds its quota (R62). -/
def Blk.firstExcess (b : Blk) (p : Nat) : Option Nat :=
  ((b.sown.active.outputs.filter fun x =>
    (b.plot p).cfg.sownQuota * b.slots < 256 * b.sown.active.share x.1 x.2 p).map fun x => outIndex x.1 x.2).head?

/-- A write of `OD 0x3100.05` (R61, R62). -/
def Blk.writeSownQuota (b : Blk) (p q : Nat) : Od :=
  if 256 < q then Od.no b abRange
  else
    let b := b.modPlot p fun x => { x with cfg := { x.cfg with sownQuota := q } }
    let b := match b.firstExcess p with
      | some o => b.raiseS 0x12 p none 0 o
      | none => b
    Od.ok (if b.sown.state = .armed && !b.quotaOk b.sown.shadow then b.swapCancel rsQuota .ready else b)

def execSownQuotaWrite (ch : Channel) (quota : BitVec 16) (s : State) : Out :=
  s.od (.sownQuotaWrite ch quota) ch false fun b => b.writeSownQuota (b.sels ch).plot quota.toNat

/-! ### Expert writes (R411) -/

/-- What an expert write finds: the shadow ready to be amended, or none when it is refused (R64, R411). -/
def Blk.expertBegin (b : Blk) : Option Blk :=
  match b.sown.state with
  | .free | .invalid =>
    some { b with sown := { b.sown with
      shadow := { b.sown.active with gen := b.sown.active.gen + 1, altOf := 0xFFFF#16 },
      state := .loading, expert := true, busy := false } }
  | .ready => some { b with sown := { b.sown with state := .loading, expert := true, busy := false } }
  | .loading => if b.sown.expert then some b else none
  | _ => none

/-- A write of the shadow by an expert (R411). -/
def Blk.expertWrite (b : Blk) (f : SownVersion → SownVersion) : Od :=
  match b.expertBegin with
  | none => Od.no b abState
  | some b => Od.ok { b with sown := { b.sown with shadow := f b.sown.shadow } }

/-- Key of a table entry named by the selector of `OD 0x2201.01`. -/
def entryKey (sel : BitVec 32) : Nat := 2048 * (5 * fld sel 0 10 + fld sel 10 3) + fld sel 16 11

/-- Key of a descriptor named by `OD 0x2201.03`. -/
def descKey (sel : BitVec 32) : Nat := 64 * fld sel 0 10 + fld sel 16 6

/-- Key of a route entry named by `OD 0x2202.03`. -/
def routeKey (sel : BitVec 32) : Nat := 1024 * fld sel 0 10 + fld sel 16 10

def Blk.writeEntry (b : Blk) (ch : Channel) (e : BitVec 64) : Od :=
  b.expertWrite fun v => { v with entries := v.entries.put (entryKey (b.sels ch).entry) (e &&& entryMask) }
def Blk.writeDesc (b : Blk) (ch : Channel) (d : BitVec 128) : Od :=
  b.expertWrite fun v => { v with descs := v.descs.put (descKey (b.sels ch).desc) (d &&& descMask) }
def Blk.writeRoute (b : Blk) (ch : Channel) (e : BitVec 32) : Od :=
  b.expertWrite fun v => { v with routes := v.routes.put (routeKey (b.sels ch).route) (e &&& routeMask) }

def execExpertEntryWrite (ch : Channel) (entry : BitVec 64) (s : State) : Out :=
  s.od (.expertEntryWrite ch entry) ch true (·.writeEntry ch entry)
def execExpertDescriptorWrite (ch : Channel) (desc : BitVec 128) (s : State) : Out :=
  s.od (.expertDescriptorWrite ch desc) ch true (·.writeDesc ch desc)
def execExpertRouteWrite (ch : Channel) (entry : BitVec 32) (s : State) : Out :=
  s.od (.expertRouteWrite ch entry) ch true (·.writeRoute ch entry)

/-- A selector write: RANGE leaves the selector unchanged (R411). -/
def Blk.writeExpertSel (b : Blk) (ch : Channel) (sel : ExpertSel) (v : BitVec 32) : Od :=
  if !b.member.hasTile (fld v 0 10) then Od.no b abRange
  else match sel with
    | .entry =>
      if 4 < fld v 10 3 || b.sown.shadow.slots ≤ fld v 16 11 then Od.no b abRange
      else Od.ok (b.modSels ch fun x => { x with entry := v &&& 0x07FF1FFF#32 })
    | .descriptor => Od.ok (b.modSels ch fun x => { x with desc := v &&& 0x003F03FF#32 })
    | .route => Od.ok (b.modSels ch fun x => { x with route := v &&& 0x03FF03FF#32 })

def execExpertSelectorWrite (ch : Channel) (sel : ExpertSel) (value : BitVec 32) (s : State) : Out :=
  s.od (.expertSelectorWrite ch sel value) ch true (·.writeExpertSel ch sel value)

/-- 1 is written to `OD 0x2201.05`: the check of the whole shadow starts (R411). No check runs beside an image load, nor of a
shadow that a swap holds (log 150). -/
def Blk.expertCheck (b : Blk) : Od :=
  match b.sown.state with
  | .loading => if b.sown.expert then Od.ok { b with sown := { b.sown with busy := true } } else Od.no b abState
  | .free | .ready | .invalid => Od.ok { b with sown := { b.sown with state := .loading, expert := true, busy := true } }
  | .armed | .retired => Od.no b abState

/-- The check ends (R411). -/
def Blk.expertCheckEnd (b : Blk) : Blk :=
  if b.sown.state = .loading && b.sown.expert && b.sown.busy then b.shadowDone (versionFail b.member b.sown.shadow) else b

def execExpertCheck (ch : Channel) (s : State) : Out := s.od (.expertCheck ch) ch true (·.expertCheck)
def execExpertCheckDone (s : State) : Out := s.mesh .expertCheckDone (·.expertCheckEnd)

end Sys2Proof.Machine
end

