-- ==== Sys2Proof/Machine/Transfer.lean ====
section
/-! DEFINITION. Segmented transfers: the four DOMAIN entries, their segments and how a transfer ends (R329–R331, R361, R362). -/
namespace Sys2Proof.Machine

/-- The transfer of a channel (R329). -/
def Blk.xfer (b : Blk) : Channel → Option Transfer
  | .mailbox => b.mgmt.xferM
  | .slot0 => b.mgmt.xfer0
  | .slot1 => b.mgmt.xfer1

def Blk.setXfer (b : Blk) (ch : Channel) (x : Option Transfer) : Blk :=
  match ch with
  | .mailbox => { b with mgmt := { b.mgmt with xferM := x } }
  | .slot0 => { b with mgmt := { b.mgmt with xfer0 := x } }
  | .slot1 => { b with mgmt := { b.mgmt with xfer1 := x } }

/-- The DOMAIN entries: STAGE, SOWING_IMAGE, the route image, FW_IMAGE. -/
def isDomain (index sub : Nat) : Bool :=
  (index = 0x1400 && sub = 0x02) || (index = 0x2200 && sub = 0x09) || (index = 0x2202 && sub = 0x01) ||
    (index = 0x4000 && sub = 0x02)

/-- The largest object. -/
def objectMax : Nat := 67108864

/-- Bytes of plot 0's staging region (R322). -/
def stagingBytes : Nat := granule * 32

/-- Bytes that the staged alternate at an offset takes: the sowing image and its route image (R291). -/
def Blk.alternateEnd (b : Blk) (off : Nat) : Nat :=
  let r := altRouteOff b off
  let rh := routeHeader b r
  if fld rh 0 32 = 0x524F5554 then r + fld rh 64 32 else off + fld (imageHeader b off) 96 32

/-- Whether a range of the staging region meets the image of a VALID library entry (R331). -/
def Blk.meetsLibrary (b : Blk) (lo n : Nat) : Bool :=
  b.fault.library.any fun x => lValid x.2 && lo < b.alternateEnd (lImage x.2) && lImage x.2 < lo + n

/-- Whether firmware may be written: no trial runs, no firmware transfer is open, the flash is not stopped (R362). -/
def Blk.fwWritable (b : Blk) : Bool := !b.fw.trialRun && !b.transferOn 0x4000 0x02 && !b.fw.flashStop

/-- SEG_WRITE on a DOMAIN entry opens a transfer (R330, R331). -/
def Blk.domainOpen (b : Blk) (ch : Channel) (index sub total : Nat) (xcrc : BitVec 32) : Od :=
  let base := if index = 0x1400 then (b.sels ch).stage.toNat * 64 else if index = 0x2202 then objectMax else 0
  let open_ : Od := Od.ok (b.setXfer ch (some
    { index := index, sub := sub, write := true, total := total, xcrc := xcrc, base := base, next := 0, data := [] }))
  if total = 0 || objectMax < total then Od.no b abTooBig
  else if (b.xfer ch).isSome || b.transferOn index sub then Od.no b abBusy
  else if index = 0x1400 then
    if stagingBytes < base + total then Od.no b abRange else if b.meetsLibrary base total then Od.no b abState else open_
  else if index = 0x4000 then
    if 4194304 < total then Od.no b abRange
    else if !b.fwWritable then Od.no b abState
    else
      let b := open_.1
      Od.ok { b with fw := b.fw.setSlot b.fw.inactive [] .partial_ }
  else if b.sown.state = .loading || b.sown.state = .armed then Od.no b abState
  else open_

/-- Bytes of segment k of an object. -/
def segBytes (total k : Nat) : Nat := min 1024 (total - 1024 * k)

/-- A segment is written to its target as it arrives. -/
def Blk.segTarget (b : Blk) (x : Transfer) (data : Bytes) : Blk :=
  if x.index = 0x4000 then
    let s := b.fw.inactive
    { b with fw := b.fw.setSlot s ((b.fw.slot s).write (1024 * x.next) data) .partial_ }
  else b.writeHbm 0 (x.base + 1024 * x.next) data

/-- SEG_ACK that the steward sends: the in-order count and an abort code. -/
def Blk.sendAck (b : Blk) (n abort : Nat) : Blk := { b with mgmt := { b.mgmt with segAck := (n, BitVec.ofNat 8 abort) } }

/-- What a whole object does: a firmware slot is WRITTEN, a route image is staged (R81, R361). -/
def Blk.objectDone (b : Blk) (x : Transfer) (ok : Bool) : Blk :=
  if x.index = 0x4000 then
    let s := b.fw.inactive
    let b := if ok then { b with fw := b.fw.setSlot s (b.fw.slot s) .written } else b
    b.raiseS 0x72 0 none 0 (if ok then 0 else abCrc)
  else if x.index = 0x2202 && ok then { b with mgmt := { b.mgmt with routeStaged := true } }
  else b

/-- A segment of a write transfer (R330, R331). -/
def Blk.segment (b : Blk) (ch : Channel) (segno : Nat) (data : Bytes) : Blk :=
  match b.xfer ch with
  | none => b.countSys evMoaSegOoo
  | some x =>
    if !x.write || segno ≠ x.next || data.length ≠ segBytes x.total segno then (b.countSys evMoaSegOoo).sendAck x.next abNone
    else
      let b := b.segTarget x data
      let y := { x with next := x.next + 1, data := x.data ++ data }
      if y.data.length < x.total then (b.setXfer ch (some y)).sendAck y.next abNone
      else
        let ok : Bool := crc32c y.data = x.xcrc
        ((b.setXfer ch none).objectDone x ok).sendAck y.next (if ok then abNone else abCrc)
def execSegment (ch : Channel) (segno : Nat) (data : Bytes) (s : State) : Out :=
  s.boot (.segment ch segno data) (·.segment ch segno data)

/-- The segments of a read from one on, at most 16. -/
def Transfer.window (x : Transfer) (k : Nat) : List Bytes :=
  ((List.range 16).filter fun i => 1024 * (k + i) < x.total).map fun i => (x.data.drop (1024 * (k + i))).take 1024

/-- SEG_ACK of the manager: the next segment it wants; past the last one the read has ended (R330). -/
def Blk.segAck (b : Blk) (ch : Channel) (segno : Nat) : Blk :=
  match b.xfer ch with
  | none => b
  | some x =>
    if x.write then b
    else
      let out := x.window segno
      let b := { b with mgmt := { b.mgmt with segOut := out } }
      b.setXfer ch (if out.isEmpty then none else some { x with next := segno })
def execSegAck (ch : Channel) (segno : Nat) (s : State) : Out := s.boot (.segAck ch segno) (·.segAck ch segno)

/-- A transfer closes with a code. -/
def Blk.closeXfer (b : Blk) (ch : Channel) (abort : Nat) : Blk :=
  match b.xfer ch with
  | none => b
  | some x => (b.setXfer ch none).sendAck x.next abort
def execSegTimeout (ch : Channel) (s : State) : Out := s.boot (.segTimeout ch) (·.closeXfer ch abTimeout)

/-- SEG_ABORT of the manager (R331). -/
def Blk.segAbort (b : Blk) (ch : Channel) : Od :=
  if (b.xfer ch).isSome then (b.closeXfer ch abCancelled, abCancelled) else Od.no b abState
def execSegAbort (ch : Channel) (s : State) : Out := s.odFw (.segAbort ch) ch fun b => b.segAbort ch

end Sys2Proof.Machine
end

