-- ==== Sys2Proof/Machine/Startup.lean ====
section
/-! DEFINITION. Resets, the stages of start-up, self-test results and firmware commands (R273, R283, R284, R312, R352–R365,
R388). -/
namespace Sys2Proof.Machine

/-! ### Resets (R312, R364, R388) -/

/-- What a slot reads as after a start: only the download state outlives it (R364). -/
def FwSlotState.restarted : FwSlotState → FwSlotState
  | .verified => .written
  | .bad => .written
  | s => s

/-- The firmware's part that a reset keeps: flash and OTP. -/
def Firmware.restarted (f : Firmware) (stage : BootStage) : Firmware :=
  { f with
    stage := stage
    stateA := f.stateA.restarted
    stateB := f.stateB.restarted
    running := false
    trialRun := false
    verifyRes := 0
    restartDue := false
    flashStop := false }

/-- The block after a reset. Events raised before it have been posted. -/
def Blk.restarted (b : Blk) (stage : BootStage) : Blk :=
  Blk.after b.member b.meshKhz (b.vault.seeds + 1) (b.fw.restarted stage) b.postEvents.host.mem

/-- Power-on reset is asserted: the block is held in reset, and TRIP_LATCH clears (R312, R388). -/
def execPorAssert (s : State) : Out :=
  s.at .porAssert fun s => .next (s.anew { tripped := false, latch := false } (s.blk.restarted .held))

/-- A warm reset: TRIPPED ends, TRIP_LATCH and OTP survive (R312, R388). -/
def execWarmReset (s : State) : Out :=
  s.at .warmReset fun s =>
    if s.blk.fw.stage = .held then .next s
    else .next (s.anew { s.trip with tripped := false } (s.blk.restarted (.stage 1)))

/-- RESTART: 1 asks for a warm reset, which follows the response, in the next step without a command (R361). -/
def Blk.restart (b : Blk) (v : Nat) : Od :=
  if v ≠ 1 then Od.no b abRange else Od.ok { b with fw := { b.fw with restartDue := true } }
def execRestart (ch : Channel) (s : State) : Out := s.odFw (.restart ch) ch fun b => b.restart 1

/-! ### Choosing an image (R360) -/

/-- Whether the image of a slot passes verification. -/
def Firmware.bootable (f : Firmware) (s : Bool) : Bool := imgVerify (f.slot s) f.rollback = 0

/-- The slot booted, whether FW_REVERTED is raised, and the directory writes made on the way; none boots in RECOVERY. -/
def Firmware.choose (f : Firmware) : Option (Bool × Bool × Firmware) :=
  match f.dir with
  | none =>
    if f.bootable false then some (false, false, f.writeDir false false false)
    else if f.bootable true then some (true, false, f.writeDir true false false)
    else none
  | some d =>
    if d.trial && !d.tried then
      let g := f.writeDir d.active true true
      if f.bootable d.active then some (d.active, false, g)
      else if f.bootable (!d.active) then some (!d.active, true, g.writeDir (!d.active) false true)
      else none
    else
      let a := if d.trial then !d.active else d.active
      let g := if d.trial then f.writeDir a false true else f
      if f.bootable a then some (a, d.trial, g)
      else if f.bootable (!a) then some (!a, true, g)
      else none

/-- A trial that begins is TRIED before its slot is verified (R360). -/
def Firmware.tryTrial (f : Firmware) : Firmware :=
  match f.dir with
  | none => f
  | some d => if d.trial && !d.tried then f.writeDir d.active true true else f

/-- Stage 3 ends: the chosen image runs, and the rollback count rises to its SVN unless it is on trial; else RECOVERY (R360). -/
def Blk.bootImage (b : Blk) : Blk :=
  match b.fw.choose with
  | none => { b with fw := { b.fw.tryTrial with stage := .recovery }, host := { b.host with busy := false } }
  | some (s, reverted, f) =>
    let trial : Bool := (f.dir.map (·.trial)).getD false && (f.dir.map (·.active)) = some s
    let b := { b with
      fw := { f with running := s, trialRun := trial, stage := .stage 4 },
      mgmt := { b.mgmt with fwVersion := BitVec.ofNat 32 (imgVersion (f.slot s)) } }
    let b := if reverted then b.raiseS 0x73 0 none (if s then 1 else 0) else b
    if trial then b else b.raiseRollback (imgSvn (b.fw.slot s))

/-- Stage 3 of a tripped block: the image is chosen, but no directory copy and no OTP step is written (R368, R408). -/
def Blk.bootTripped (b : Blk) : Blk :=
  match b.fw.choose with
  | none => { b with fw := { b.fw with stage := .recovery }, host := { b.host with busy := false } }
  | some (s, reverted, f) =>
    let trial : Bool := (f.dir.map (·.trial)).getD false && (f.dir.map (·.active)) = some s
    let b := { b with
      fw := { b.fw with running := s, trialRun := trial, stage := .stage 4 },
      mgmt := { b.mgmt with fwVersion := BitVec.ofNat 32 (imgVersion (f.slot s)) } }
    if reverted then b.raiseS 0x73 0 none (if s then 1 else 0) else b

/-! ### Stage 4: the store is replayed (R283, R352, R366) -/

/-- A key slot as its 34 bytes give it (R325). -/
def KeySlot.of (xs : Bytes) : KeySlot :=
  { key := padTo 32 xs, expert := (xs.getD 32 0#8) = 1#8, valid := (xs.getD 33 0#8) = 1#8 }

/-- The management entries as the store holds them. -/
def Mgmt.replay (m : Mgmt) (f : Firmware) : Mgmt :=
  let num := fun (key : Nat) (d : Nat) => match f.stored key with
    | some xs => ofBytes xs
    | none => d
  { m with
    mgmtEn := num (psMgmt 1) 1 = 1
    mac := BitVec.ofNat 48 (num (psMgmt 2) 0)
    ip4 := BitVec.ofNat 32 (num (psMgmt 3) 0)
    ip6 := BitVec.ofNat 128 (num (psMgmt 4) 0)
    udp := BitVec.ofNat 16 (num (psMgmt 5) 51200)
    slot0 := ((f.stored (psKeySlot false)).map KeySlot.of).getD KeySlot.fresh
    slot1 := ((f.stored (psKeySlot true)).map KeySlot.of).getD KeySlot.fresh
    coord := BitVec.ofNat 32 (num psCoord 0) }

/-- PWR_CTRL as its register lays it down; values below their least are stored as the least (R309). -/
def Power.ofCtrl (p : Power) (v : Nat) : Power :=
  let slew := fun (d : Nat) => max 30 (v / 2 ^ (8 * d) % 256)
  { p with slew0 := slew 0, slew1 := slew 1, slew2 := slew 2, slew3 := slew 3, paceWin := max 500 (v / 2 ^ 32 % 2 ^ 16) }

/-- The value of PWR_CTRL. -/
def Power.ctrl (p : Power) : Nat :=
  at_ 0 8 p.slew0 + at_ 8 8 p.slew1 + at_ 16 8 p.slew2 + at_ 24 8 p.slew3 + at_ 32 16 p.paceWin

/-- A journalled key update whose slot was not rewritten is carried out (R283). -/
def Blk.replayJournal (b : Blk) : Blk :=
  if !b.fw.keyJournal then b
  else match b.fw.stored psJournal with
    | none => { b with fw := { b.fw with keyJournal := false } }
    | some xs =>
      let slot : Bool := xs.headD 0#8 = 1#8
      match b.store (psKeySlot slot) (xs.drop 1) with
      | some b => { b with fw := { b.fw with keyJournal := false } }
      | none => b

/-- Stage 4 ends: bad records are skipped and named, the journal replayed, BOOT raised, stored entries take their values. -/
def Blk.replay (b : Blk) : Blk :=
  let bad := b.fw.records.filter fun r => !r.good
  let b := b.each bad fun b r => b.raiseS 0x78 0 none r.key
  let b := { b with fw := { b.fw with records := b.fw.records.filter (·.good) } }
  let b := if b.fw.keyJournal then b.replayJournal.raiseS 0x63 0 none else b
  let boot := ((b.fw.stored psBoot).map ofBytes).getD 0
  let b := (b.store psBoot (toBytes 4 (boot + 1))).getD b
  { b with
    mgmt := { b.mgmt.replay b.fw with boot := BitVec.ofNat 32 (((b.fw.stored psBoot).map ofBytes).getD 0) },
    power := match b.fw.stored psPwr with
      | some xs => b.power.ofCtrl (ofBytes xs)
      | none => b.power,
    vault := { b.vault with ideMgr := padTo 48 ((b.fw.stored psIde).getD []) } }

/-! ### The stages (R352) -/

/-- The random bits of the next request. -/
def Blk.random (b : Blk) : Bytes := Config.randomBytes b.vault.seeds b.vault.draws

/-- The generator has served a request; it is seeded again after every 2^20 (R284). -/
def Blk.draw (b : Blk) : Blk :=
  let v := b.vault
  { b with vault := if v.draws + 1 = 2 ^ 20 then { v with seeds := v.seeds + 1, draws := 0 } else { v with draws := v.draws + 1 } }

/-- BOOT: 16 random bytes, or zeros when the source is dead (R274, R285). -/
def Blk.bootDraw (b : Blk) : Blk :=
  if b.vault.rng = .dead then { b with vault := { b.vault with bootBytes := List.replicate 16 0#8 } }
  else
    let xs := padTo 16 b.random
    { b.draw with vault := { b.draw.vault with rng := .ok, bootBytes := xs } }

/-- Whether the source's start-up test has still to pass after a failure: BOOT waits, and stage 1 with it (R285, log 172). -/
def Blk.seedWaits (b : Blk) : Bool := b.vault.rng = .restarting && !b.vault.rngFails.isEmpty

/-- Stage 1 ends: the identity is derived or missing, the source has passed its start-up test, and BOOT is drawn (R273, R274, R284,
R285). -/
def Blk.identify (b : Blk) : Blk :=
  let b := b.bootDraw
  let b := { b with vault := { b.vault with identity := b.fw.seedGood } }
  if b.fw.seedGood then b else b.raiseS 0x60 0 none

/-- Clusters of the member. -/
def Member.clusters (m : Member) : List Nat := (List.range 64).filter m.hasCluster

/-- A stage ends and the next begins; stage 6 ends when no cluster is under test (R352–R354). -/
def Blk.stageDone (b : Blk) (flashOk : Bool) : Blk :=
  let dest := fun (b : Blk) (n : Nat) => { b with fw := { b.fw with stage := .stage n } }
  match b.fw.stage with
  | .stage 1 => if b.seedWaits then b else dest b.identify 2
  | .stage 2 =>
    if flashOk then dest b 3 else { b.raiseS 0x79 0 none with fw := { b.fw with stage := .flashFail } }
  | .stage 3 => b.bootImage
  | .stage 4 => dest b.replay 5
  | .stage 5 => { dest b 6 with power := { b.power with testing := b.member.clusters } }
  | .stage 6 => if b.power.testing.isEmpty then dest b 7 else b
  | .stage 7 =>
    let b := { b with fw := { b.fw with stage := .done }, host := { b.host with busy := false } }
    b.raiseS 0x70 0 none b.mgmt.boot.toNat (if b.fw.running then 1 else 0) b.mgmt.fwVersion.toNat
  | _ => b
/-- A stage ends on a tripped block: only stages 1 to 3 run (R408). -/
def Blk.stageTripped (b : Blk) (flashOk : Bool) : Blk :=
  match b.fw.stage with
  | .stage 1 => b.stageDone flashOk
  | .stage 2 => b.stageDone flashOk
  | .stage 3 => b.bootTripped
  | _ => b
def execStartupStageDone (flashOk : Bool) (s : State) : Out :=
  s.at (.startupStageDone flashOk) fun s =>
    if s.trip.tripped then .next { s with blk := s.blk.stageTripped flashOk } else .next { s with blk := s.blk.stageDone flashOk }

/-! ### Self-test (R354, R355) -/

/-- Every tile of a cluster reads zero after its test. -/
def Blk.testedZero (b : Blk) (c : Nat) : Blk :=
  b.each (clusterTiles c) fun b t =>
    (b.modTile t fun x => { x with oases := [], weights := none, sealed := [] }).zeroSram t 0 sramBytes

/-- A cluster's test ends with a result; at run time its end is one more stage of the die's queue. -/
def Blk.selfTestDone (b : Blk) (c : Nat) (result : Nat) : Blk :=
  if !b.clusterTested c then b
  else
    let p := b.power
    let bit := BitVec.ofNat 64 (2 ^ c)
    let p := { p with testing := p.testing.filter (· ≠ c), stResult := p.stResult.put c (BitVec.ofNat 8 result),
                      stFailed := if result = 0 then p.stFailed &&& ~~~bit else p.stFailed ||| bit }
    let d := b.member.dieOfCluster c
    let p := if b.fw.stage = .done then
        { p with queues := p.queues.put d (p.queues.getD d [] ++
            [{ unit := .selfTest c false, ended := 0, stages := 1, running := false, readyAt := b.clk.mc, waited := 0, step := 30 }]) }
      else p
    let b := ({ b with power := p }).testedZero c
    let b := b.raiseS 0x71 0 none c result
    if result = 0 then b else b.declare fcCluster c
def execSelfTestDone (cluster : Nat) (result : BitVec 8) (s : State) : Out :=
  s.mesh (.selfTestDone cluster result) (·.selfTestDone cluster result.toNat)

/-- ST_CMD: the selected cluster is tested once the first stage of its transition has run (R355). -/
def Blk.selfTestStart (b : Blk) (c v : Nat) : Od :=
  if v ≠ 1 then Od.no b abRange
  else if b.cluster c ≠ .fallow || !b.member.hasCluster c || b.clusterMoving c || b.clusterTested c ||
      (clusterTiles c).any (fun t => (b.ownerOf t).isSome) then Od.no b abState
  else
    let d := b.member.dieOfCluster c
    let p := b.power
    Od.ok { b with power := { p with queues := p.queues.put d (p.queues.getD d [] ++
      [{ unit := .selfTest c true, ended := 0, stages := 1, running := false, readyAt := b.clk.mc, waited := 0, step := 30 }]) } }
def execSelfTestStart (ch : Channel) (s : State) : Out :=
  s.od (.selfTestStart ch) ch true fun b => b.selfTestStart (b.sels ch).stCluster 1

/-! ### Firmware commands (R361, R362, R365) -/

/-- The event of a firmware command. -/
def Blk.fwStage (b : Blk) (cmd result : Nat) : Blk := b.raiseS 0x72 0 none cmd result

/-- VERIFY: the inactive slot becomes VERIFIED or BAD. -/
def Blk.fwVerify (b : Blk) : Od :=
  let s := b.fw.inactive
  let st := b.fw.slotState s
  if !(st = .written || st = .verified || st = .bad) then Od.no b abState
  else
    let r := imgVerify (b.fw.slot s) b.fw.rollback
    let f := b.fw.setSlot s (b.fw.slot s) (if r = 0 then .verified else .bad)
    Od.ok (({ b with fw := { f with verifyRes := r } }).fwStage 1 r)

/-- ACTIVATE: the directory names the inactive slot, on trial; in RECOVERY not on trial. -/
def Blk.fwActivate (b : Blk) : Od :=
  let s := b.fw.inactive
  if b.fw.slotState s ≠ .verified || b.fw.trialRun || b.fw.flashStop then Od.no b abState
  else Od.ok (({ b with fw := b.fw.writeDir s (b.fw.stage ≠ BootStage.recovery) false }).fwStage 2 0)

/-- CONFIRM: the trial ends and the rollback count rises to the running SVN. -/
def Blk.fwConfirm (b : Blk) : Od :=
  if !b.fw.trialRun || b.fw.flashStop then Od.no b abState
  else
    let b := { b with fw := { b.fw.writeDir b.fw.running false true with trialRun := false } }
    Od.ok ((b.raiseRollback (imgSvn (b.fw.slot b.fw.running))).fwStage 3 0)

/-- ERASE: the inactive slot is EMPTY. -/
def Blk.fwErase (b : Blk) : Od :=
  if !b.fwWritable then Od.no b abState
  else Od.ok (({ b with fw := b.fw.setSlot b.fw.inactive [] .empty }).fwStage 4 0)

/-- A write of FW_CMD. -/
def Blk.fwCmd (b : Blk) (v : Nat) : Od :=
  match v with
  | 1 => b.fwVerify
  | 2 => b.fwActivate
  | 3 => b.fwConfirm
  | 4 => b.fwErase
  | _ => Od.no b abRange
def execVerify (ch : Channel) (s : State) : Out := s.odFw (.verify ch) ch fun b => b.fwCmd 1
def execActivate (ch : Channel) (s : State) : Out := s.odFw (.activate ch) ch fun b => b.fwCmd 2
def execConfirm (ch : Channel) (s : State) : Out := s.odFw (.confirm ch) ch fun b => b.fwCmd 3
def execErase (ch : Channel) (s : State) : Out := s.odFw (.erase ch) ch fun b => b.fwCmd 4
def execFwImage (ch : Channel) (total : Nat) (xcrc : BitVec 32) (s : State) : Out :=
  s.odFw (.fwImage ch total xcrc) ch fun b => b.domainOpen ch 0x4000 0x02 total xcrc

end Sys2Proof.Machine
end

