-- ==== Sys2Proof/Machine/Power.lean ====
section
/-! DEFINITION. Power: cluster and port transitions, pacing, the block commands and the thermal trip (R305–R314, R368). -/
namespace Sys2Proof.Machine

/-! ### Transitions (R308, R310) -/

/-- Queues a transition of a die. -/
def Blk.queueUnit (b : Blk) (d : Nat) (u : PowerUnit) (stages step : Nat) : Blk :=
  let p := b.power
  let t : Transition := { unit := u, ended := 0, stages := stages, running := false, readyAt := b.clk.mc, waited := 0, step := step }
  { b with power := { p with queues := p.queues.put d (p.queues.getD d [] ++ [t]) } }

/-- The die of a port: that of its port tile. -/
def Member.dieOfPort (m : Member) (p : Nat) : Nat := m.dieOf (m.portTile p)

/-- Whether a transition of a port is queued or in progress. -/
def Blk.portMoving (b : Blk) (p : Nat) : Bool := (b.portQueue p).any fun t => t.unit.id = 0x100 + p

/-- PWR as it reads: as last written, from the acceptance of a transition on (R5, R307). -/
def Blk.pwrSeen (b : Blk) (p : Nat) : PortPwr :=
  if b.portFalling p then .fallow else if b.portMoving p then .on else (b.port p).pwr

/-- Queues what takes a cluster to a state: DEEP to ACTIVE goes by FALLOW. -/
def Blk.queueCluster (b : Blk) (c : Nat) (dest : ClusterState) : Blk :=
  let d := b.member.dieOfCluster c
  match b.cluster c, dest with
  | .deep, .fallow => b.queueUnit d (.cluster c .fallow) 4 10
  | .deep, .active => (b.queueUnit d (.cluster c .fallow) 4 10).queueUnit d (.cluster c .active) 4 15
  | .fallow, .deep => b.queueUnit d (.cluster c .deep) 4 10
  | .fallow, .active => b.queueUnit d (.cluster c .active) 4 15
  | .active, .fallow => b.queueUnit d (.cluster c .fallow) 4 15
  | _, _ => b

/-- SLEW0 to SLEW3 and PACE_WIN. -/
def Power.slews (p : Power) : List Nat := [p.slew0, p.slew1, p.slew2, p.slew3, p.paceWin]

/-- The slews that stages of this mc are tested against: those before a write of this mc (R309, R313). -/
def Blk.slews (b : Blk) : List Nat :=
  (b.mcLog.findSome? fun n => match n with
    | .slews l => some l
    | _ => none).getD b.power.slews

/-- The slew of a die's rail, and the window. -/
def Blk.slew (b : Blk) (d : Nat) : Nat := b.slews.getD (min d 3) 0
def Blk.paceWin (b : Blk) : Nat := b.slews.getD 4 0

/-- Starts of a die that lie in the window. -/
def Blk.recent (b : Blk) (d : Nat) : List (Nat × Nat) :=
  (b.power.starts.getD d []).filter fun s => b.clk.mc - s.1 < b.paceWin

/-- A stage starts when it is ready and its step fits the window (R310). The rail of a DX-16 is that of die 0 (log 174). -/
def Blk.stageStart (b : Blk) (d i : Nat) : Blk :=
  let p := b.power
  let l := p.queues.getD d []
  match l[i]? with
  | none => b
  | some t =>
    let recent := b.recent d
    if !readyAtIndex l i || b.slew d < (recent.map (·.2)).sum + t.step then b
    else
      let t := { t with running := true, waited := t.waited + (b.clk.mc - t.readyAt) }
      { b with power := { p with queues := p.queues.put d (l.set i t), starts := p.starts.put d (recent ++ [(b.clk.mc, t.step)]) } }
def execPowerStageStart (die index : Nat) (s : State) : Out :=
  s.mesh (.powerStageStart die index) (·.stageStart die index)

/-- Accumulators, weights and SRAM of a cluster are gone (R305) or zeroed (R308). -/
def Blk.clusterZero (b : Blk) (c : Nat) : Blk :=
  b.each (clusterTiles c) fun b t => (b.modTile t fun x => { x with oases := [], weights := none }).zeroSram t 0 sramBytes

def ClusterState.code : ClusterState → Nat
  | .active => 0
  | .fallow => 1
  | .deep => 2

/-- A transition has ended: the unit is in its new state, with one PWR_STATE event (R305, R307, R314, R354). -/
def Blk.unitDone (b : Blk) (t : Transition) : Blk :=
  match t.unit with
  | .cluster c dest =>
    let old := b.cluster c
    let b := { b with power := { b.power with clusters := b.power.clusters.put c dest } }
    let b := if dest = .deep || (old = .deep && dest = .fallow) then b.clusterZero c else b
    b.raiseS 0x68 0 none c (old.code + 256 * dest.code) t.waited
  | .port p dest =>
    let b := b.modPort p fun x => { x with pwr := dest }
    let on : Bool := dest = .on
    let b := b.raiseS 0x68 0 none (0x100 + p) (if on then 1 else 256) t.waited
    if on then b.opticsOn p else b
  | .selfTest c start =>
    if start then { b with power := { b.power with testing := b.power.testing ++ [c] } } else b

/-- The transitions behind one that has ended: the unit's next is ready from now on. -/
def readyNow (l : List Transition) (u mc : Nat) : List Transition :=
  l.map fun t => if t.unit.id = u then { t with readyAt := mc } else t

/-- A running stage ends; the last one ends the transition (R310). -/
def Blk.stageEnd (b : Blk) (d i : Nat) : Blk :=
  let p := b.power
  let l := p.queues.getD d []
  match l[i]? with
  | none => b
  | some t =>
    if !t.running then b
    else if t.ended + 1 < t.stages then
      let t := { t with running := false, ended := t.ended + 1, readyAt := b.clk.mc }
      { b with power := { p with queues := p.queues.put d (l.set i t) } }
    else ({ b with power := { p with queues := p.queues.put d (readyNow (l.eraseIdx i) t.unit.id b.clk.mc) } }).unitDone t
def execPowerStageEnd (die index : Nat) (s : State) : Out := s.mesh (.powerStageEnd die index) (·.stageEnd die index)

/-! ### Cluster commands (R306, R355) -/

/-- A refused power command (R314). -/
def Blk.pwrRefuse (b : Blk) : Od := Od.no (b.countSys evPwrRefused) abState

/-- Whether a tile keeps its cluster from FALLOW: a context not IDLE, a bound kernel, a running collective. -/
def Blk.tileBusy (b : Blk) (t : Nat) : Bool :=
  (b.tile t).es.ctxs.any (fun c => c.2.state ≠ .idle) || !(b.tile t).ks.kernels.isEmpty ||
    b.plots.any fun p => p.2.colls.any fun c => c.parts.any fun x => x.tile = t

/-- Whether a cluster may become FALLOW. -/
def Blk.mayFallow (b : Blk) (c : Nat) : Bool :=
  !b.clusterTested c && !b.clusterMoving c && !(clusterTiles c).any b.tileBusy

/-- Whether a cluster command is refused (R306, R355, R356). -/
def Blk.clusterRefused (b : Blk) (c : Nat) (dest : ClusterState) : Bool :=
  !b.member.hasCluster c || b.clusterMoving c || b.clusterTested c ||
    match dest with
    | .fallow => !b.mayFallow c
    | .deep => b.cluster c ≠ .fallow || (clusterTiles c).any fun t => (b.ownerOf t).isSome
    | .active => b.cluster c = .active || flag b.power.stFailed c

/-- The launches of this mc in a cluster whose FALLOW is accepted are refused with CLUSTER (R313, R340). -/
def Blk.unlaunch (b : Blk) (c : Nat) : Blk :=
  let ls := b.mcLog.filterMap fun n => match n with
    | .launch p t => if clusterOf t = c then some (p, t) else none
    | _ => none
  b.each ls fun b x =>
    (b.modTile x.2 fun y => { y with es := { y.es with
      launchQ := (y.es.launchQ.reverse.eraseP fun l => l.plot = x.1 && l.handler.isNone).reverse } }).modPlot x.1 fun y =>
        { y with host := { y.host with accepted := y.host.accepted - 1, launchResult := 3, launchTile := x.2 } }

/-- FALLOW of an ACTIVE cluster is accepted. -/
def Blk.fallowCluster (b : Blk) (c : Nat) : Blk := (b.unlaunch c).queueCluster c .fallow

/-- A cluster command. -/
def Blk.clusterCmd (b : Blk) (c : Nat) (dest : ClusterState) : Od :=
  if b.clusterRefused c dest then b.pwrRefuse
  else Od.ok (if dest = .fallow then b.fallowCluster c else b.queueCluster c dest)
def execClusterActive (ch : Channel) (s : State) : Out :=
  s.od (.clusterActive ch) ch true fun b => b.clusterCmd (b.sels ch).cluster .active
def execClusterFallow (ch : Channel) (s : State) : Out :=
  s.od (.clusterFallow ch) ch true fun b => b.clusterCmd (b.sels ch).cluster .fallow
def execClusterDeep (ch : Channel) (s : State) : Out :=
  s.od (.clusterDeep ch) ch true fun b => b.clusterCmd (b.sels ch).cluster .deep

/-- A write of `OD 0x2700.03`. -/
def Blk.writeClusterCmd (b : Blk) (c v : Nat) : Od :=
  match v with
  | 0 => b.clusterCmd c .active
  | 1 => b.clusterCmd c .fallow
  | 2 => b.clusterCmd c .deep
  | _ => Od.no b abRange

/-! ### Ports and block commands (R307, R311) -/

/-- Whether a port may become FALLOW: ABSENT, DOWN or SAFE. -/
def Blk.portMayFallow (b : Blk) (p : Nat) : Bool := (b.port p).idle && (b.port p).pwr = .on && !b.portMoving p

/-- Queues a port's transition. -/
def Blk.queuePort (b : Blk) (p : Nat) (dest : PortPwr) : Blk := b.queueUnit (b.member.dieOfPort p) (.port p dest) 1 10

/-- A port's FALLOW is accepted. -/
def Blk.fallowPort (b : Blk) (p : Nat) : Blk := (b.queuePort p .fallow).note (.portFallow p)

/-- A write of PWR of a port. One under transition refuses it, as a cluster does (log 178). -/
def Blk.writePortPwr (b : Blk) (p : Nat) (fallow : Bool) : Od :=
  if fallow && !(b.port p).idle || b.portMoving p then b.pwrRefuse
  else if ((b.port p).pwr = .fallow) = fallow then Od.ok b
  else if fallow then Od.ok (b.fallowPort p)
  else Od.ok (b.queuePort p .on)
def execPortPwrWrite (ch : Channel) (port : Nat) (fallow : Bool) (s : State) : Out :=
  s.odPort (.portPwrWrite ch port fallow) ch false port fun b => b.writePortPwr port fallow

/-- FALLOW_ALL: refused whole when an ACTIVE cluster that is not already moving may not become FALLOW. -/
def Blk.fallowAll (b : Blk) : Od :=
  let cs := b.member.clusters.filter fun c => b.cluster c = .active && !b.clusterMoving c
  if cs.any fun c => !b.mayFallow c then b.pwrRefuse
  else
    let b := b.each cs fun b c => b.fallowCluster c
    Od.ok (b.each ((List.range b.member.ports).filter b.portMayFallow) fun b p => b.fallowPort p)

/-- WAKE_ALL: every cluster that may, to ACTIVE; every port to ON. -/
def Blk.wakeAll (b : Blk) : Od :=
  let b := b.each (b.member.clusters.filter fun c => !b.clusterRefused c .active) fun b c => b.queueCluster c .active
  Od.ok (b.each ((List.range b.member.ports).filter fun p => (b.port p).pwr = .fallow && !b.portMoving p) fun b p =>
    b.queuePort p .on)

/-- A write of `OD 0x2700.05`. -/
def Blk.writeBlockCmd (b : Blk) (v : Nat) : Od :=
  match v with
  | 1 => b.fallowAll
  | 2 => b.wakeAll
  | _ => Od.no b abRange
def execFallowAll (ch : Channel) (s : State) : Out := s.od (.fallowAll ch) ch false fun b => b.writeBlockCmd 1
def execWakeAll (ch : Channel) (s : State) : Out := s.od (.wakeAll ch) ch false fun b => b.writeBlockCmd 2

/-- A write of PWR_CTRL, which the store keeps; stages of this mc are tested against the old values (R309, R313, R366). -/
def Blk.writePwrCtrl (b : Blk) (v : BitVec 64) : Od :=
  let p := b.power.ofCtrl v.toNat
  b.storeThen psPwr (toBytes 8 p.ctrl) fun b => { (b.note (.slews b.power.slews)) with power := p }
def execPwrCtrlWrite (ch : Channel) (value : BitVec 64) (s : State) : Out :=
  s.od (.pwrCtrlWrite ch value) ch true fun b => b.writePwrCtrl value

/-! ### The thermal trip (R312, R368) -/

/-- A firmware transfer in progress is closed with CANCELLED; its slot stays PARTIAL. -/
def Blk.cancelFw (b : Blk) : Blk :=
  b.each [Channel.mailbox, .slot0, .slot1] fun b ch =>
    if (b.xfer ch).any fun x => x.index = 0x4000 then b.closeXfer ch abCancelled else b

/-- What the trip does to the block: frames end with an error, queued transitions go, nothing is kept in SRAM, accumulators
or HBM, no flash write starts any more. -/
def Blk.trip (b : Blk) : Blk :=
  let b := (b.each (List.range b.member.ports) fun b p => b.abortBoth p).cancelFw
  let b := b.raiseS 0x69 0 none
  let b := { b with
    power := { b.power with queues := [], testing := [] },
    fw := { b.fw with flashStop := true }, sram := [], hbm := [], ecc := Ecc.fresh }
  { b with tiles := b.tiles.mapV fun _ x => { x with oases := [], weights := none } }

/-- A trip while power-on reset is held stands until its release (R407, R408, log 18). -/
def execThermalTrip (s : State) : Out :=
  s.at .thermalTrip fun s =>
    if s.trip.tripped then .next s
    else .next { s with trip := { tripped := true, latch := true }, blk := if s.blk.fw.stage = .held then s.blk else s.blk.trip }

/-- Power-on reset is released: stage 1 starts, TRIPPED if a trip stands (R388, R408, log 18). -/
def execPorRelease (s : State) : Out :=
  s.at .porRelease fun s =>
    if s.blk.fw.stage = .held then
      let b := s.blk.restarted (.stage 1)
      .next (s.anew s.trip (if s.trip.tripped then b.trip else b))
    else .next s

end Sys2Proof.Machine
end

