-- ==== Sys2Proof/Machine/Quorum.lean ====
section
/-! DEFINITION. The quorum group: messages received, the phases of a round, its outcomes and the group table (R293–R298). -/
namespace Sys2Proof.Machine

/-! ### Messages received (R293, R295, R298) -/

/-- Every correct quorum DFP of a VALID member lifts the suspicion of its sender. -/
def Blk.quorumCheck (b : Blk) (x : QMsg) : Blk :=
  let q := b.quorum
  let bad := b.countSys evQuorumBad
  if !(1 ≤ x.kind && x.kind ≤ 3) then bad
  else if x.group ≠ q.groupId then bad.raiseS 0x35 0 (some sysTile) x.round.toNat 0 x.sender
  else if 32 ≤ x.sender || !qmValid (q.member x.sender) || flag q.failed x.sender then bad
  else if !q.en || q.selfOut then b
  else ({ b with quorum := { q with good := q.good ++ [x] } }).unsuspect x.sender

/-- The oldest quorum DFP at the system tile is checked. -/
def Blk.quorumReceive (b : Blk) : Blk :=
  match b.quorum.rawIn with
  | [] => b
  | x :: rest => ({ b with quorum := { b.quorum with rawIn := rest } }).quorumCheck x
def execQuorumDfpReceive (s : State) : Out := s.mesh .quorumDfpReceive (·.quorumReceive)

/-- The oldest checked message of a kind, taken. -/
def Blk.takeGood (b : Blk) (kind : Nat) : Option (QMsg × Blk) :=
  match takeFirst (fun (x : QMsg) => x.kind = kind) b.quorum.good with
  | none => none
  | some (x, rest) => some (x, { b with quorum := { b.quorum with good := rest } })

/-- A HEARTBEAT carries the highest round its sender has seen. -/
def Blk.heartbeat (b : Blk) : Blk :=
  match b.takeGood 1 with
  | none => b
  | some (x, b) => { b with quorum := { b.quorum with maxRound := maxRoundOf b.quorum.maxRound x.round } }
def execHeartbeat (s : State) : Out := s.mesh .heartbeat (·.heartbeat)

/-- A message of a later round abandons this one and joins that (R296). -/
def Blk.joinFor (b : Blk) (x : QMsg) : Blk := if b.quorum.round.toNat < x.round.toNat then b.qJoin x.round x.set else b

/-- A change of the running round, if it is the one that a message names. -/
def Blk.inRound (b : Blk) (r : BitVec 32) (f : Round → Round) : Blk :=
  match b.quorum.cur with
  | some rd => if rd.number = r then { b with quorum := { b.quorum with cur := some (f rd) } } else b
  | none => b

/-- A VIEW (R296). -/
def Blk.view (b : Blk) : Blk :=
  match b.takeGood 2 with
  | none => b
  | some (x, b) => (b.joinFor x).inRound x.round fun rd => { rd with views := rd.views.put x.sender x.set }
def execView (s : State) : Out := s.mesh .view (·.view)

/-- A COMMIT (R296). -/
def Blk.commit (b : Blk) : Blk :=
  match b.takeGood 3 with
  | none => b
  | some (x, b) => (b.joinFor x).inRound x.round fun rd =>
      if x.pass = 2 then { rd with commit2 := rd.commit2.put x.sender x.set } else { rd with commit1 := rd.commit1.put x.sender x.set }
def execCommit (s : State) : Out := s.mesh .commit (·.commit)

/-! ### Outcomes (R297) -/

/-- Q: more than half of the VALID members (R294). -/
def Quorum.need (q : Quorum) : Nat := q.valid.length / 2 + 1

/-- Whether enough members not in f, this one included, committed f. -/
def Quorum.decides (q : Quorum) (commits : Tbl (BitVec 32)) (f : BitVec 32) : Bool :=
  q.need ≤ (q.live.filter fun m => !flag f m && commits.get? m = some f).length

/-- The union of the sets that a table holds. -/
def unionOf (t : Tbl (BitVec 32)) : BitVec 32 := t.foldl (fun a x => a ||| x.2) 0#32

/-- The members that have sent nothing into a table. -/
def Quorum.silent (q : Quorum) (t : Tbl (BitVec 32)) : BitVec 32 := bitmap (q.live.filter fun m => (t.get? m).isNone)

/-- Members of a set. -/
def setMembers (f : BitVec 32) : List Nat := (List.range 32).filter fun m => flag f m

/-- A round ends with its event: 0 decided, 1 decided with self in f, 2 no quorum. -/
def Blk.roundEnd (b : Blk) (rd : Round) (outcome : Nat) : Blk :=
  ({ b with quorum := { b.quorum with cur := none } }).raiseS 0x32 0 none rd.number.toNat outcome rd.f.toNat

/-- Every collective with an endpoint at one of some coordinates ends with PEER_LOST. -/
def Blk.peersLost (b : Blk) (at_ : Nat → Bool) : Blk :=
  b.each b.plots fun b x => b.collEndIf x.1 2 0x16 fun c =>
    (c.up && at_ c.upDst.toNat) || c.parts.any fun p => (p.src = srcPort || p.dst = srcPort) && at_ p.coord.toNat

/-- The ports that face the members of a list go DOWN. -/
def Blk.membersDown (b : Blk) (ms : List Nat) : Blk :=
  b.each (ms.filter fun m => qmPort (b.quorum.member m) < b.member.ports) fun b m => b.portDown (qmPort (b.quorum.member m))

/-- Whether a member has an alternate that can be used (R292). -/
def Blk.peerAlternate (b : Blk) (m : Nat) : Bool :=
  b.fault.library.any fun x => b.usable x.2 && some (lKind x.2) = resKind fcPeer && lRes x.2 = m

/-- A failed member is declared: the lowest with an alternate takes it; any other is only reported. -/
def Blk.declarePeers (b : Blk) (ms : List Nat) : Blk :=
  let first := ms.find? b.peerAlternate
  let b := match first with
    | some m => b.declare fcPeer m
    | none => b
  b.each (ms.filter fun m => some m ≠ first && !b.fault.failed.contains (fcPeer, m)) fun b m =>
    ({ b with fault := { b.fault with failed := b.fault.failed ++ [(fcPeer, m)] } } : Blk).faultEvent
      { cls := fcPeer, resource := m, entry := 0, frame := b.clk.frame, offset := b.clk.offset, told := false } foNoAlt

/-- A held suspicion starts the next round when this one has ended (R298). -/
def Blk.nextRound (b : Blk) : Blk :=
  if (setMembers b.quorum.held).isEmpty then b else b.qJoin (b.quorum.maxRound + 1) 0#32

/-- A round decides f (R297). -/
def Blk.decide_ (b : Blk) (rd : Round) : Blk :=
  let ms := setMembers rd.f
  let q := b.quorum
  if flag rd.f q.self then
    let b := (b.roundEnd rd 1).raiseS 0x34 0 none rd.number.toNat 1 rd.f.toNat
    let b : Blk := { b with quorum := { b.quorum with selfOut := true } }
    (b.membersDown q.valid).peersLost fun _ => true
  else
    let coords := ms.map fun m => qmCoord (q.member m)
    let b := b.roundEnd rd 0
    let b : Blk := { b with quorum := { b.quorum with failed := b.quorum.failed ||| rd.f, held := b.quorum.held &&& ~~~rd.f } }
    (((b.membersDown ms).declarePeers ms).peersLost fun c => coords.contains c).nextRound

/-- A round ends without a quorum: nothing is fenced. -/
def Blk.noQuorum (b : Blk) (rd : Round) : Blk := (b.roundEnd rd 2).raiseS 0x33 0 none rd.number.toNat 2 rd.f.toNat

/-! ### The phases (R296) -/

/-- The failed set of a phase is committed and sent. -/
def Blk.sendCommit (b : Blk) (rd : Round) (pass : Nat) : Blk :=
  let self := b.quorum.self
  let rd := if pass = 2 then { rd with commit2 := rd.commit2.put self rd.f, phase := 3 }
    else { rd with commit1 := rd.commit1.put self rd.f, phase := 2 }
  let b : Blk := { b with quorum := { b.quorum with cur := some rd } }
  b.qSendAll b.quorum.live 3 pass rd.number rd.f

/-- PHASE after the join. -/
def Blk.phase1End (b : Blk) : Blk :=
  match b.quorum.cur with
  | none => b
  | some rd =>
    if rd.phase ≠ 1 then b
    else b.sendCommit { rd with f := unionOf rd.views ||| rd.v ||| b.quorum.silent rd.views } 1
def execQuorumPhase1End (s : State) : Out := s.mesh .quorumPhase1End (·.phase1End)

/-- Twice PHASE after the join: decided, or a second pass with everything heard. -/
def Blk.phase2End (b : Blk) : Blk :=
  match b.quorum.cur with
  | none => b
  | some rd =>
    if rd.phase ≠ 2 then b
    else if b.quorum.decides rd.commit1 rd.f then b.decide_ rd
    else
      let heard := unionOf rd.commit1 ||| unionOf rd.commit2
      let silent := b.quorum.silent rd.commit1 &&& b.quorum.silent rd.commit2
      b.sendCommit { rd with f := rd.f ||| heard ||| silent } 2
def execQuorumPhase2End (s : State) : Out := s.mesh .quorumPhase2End (·.phase2End)

/-- Three times PHASE after the join. -/
def Blk.phase3End (b : Blk) : Blk :=
  match b.quorum.cur with
  | none => b
  | some rd =>
    if rd.phase ≠ 3 then b
    else if b.quorum.decides rd.commit2 rd.f then b.decide_ rd else b.noQuorum rd
def execQuorumPhase3End (s : State) : Out := s.mesh .quorumPhase3End (·.phase3End)

/-! ### The group table (R294, R298, R304) -/

/-- A write of QUORUM_EN: cleared during a round, the round is abandoned; set again, the block is in again. -/
def Blk.writeQuorumEn (b : Blk) (v : Nat) : Od :=
  let q := b.quorum
  if 1 < v then Od.no b abRange
  else if v = 0 then
    let b : Blk := { b with quorum := { q with en := false, cur := none, held := 0#32 } }
    Od.ok (match q.cur with
      | some rd => b.raiseS 0x33 0 none rd.number.toNat 2 rd.f.toNat
      | none => b)
  else Od.ok { b with quorum := { q with en := true, selfOut := q.selfOut && q.en } }

/-- REJOIN clears members from FAILED; no fault of theirs stands any longer, so a later decision meets them anew (R294, R297). -/
def Blk.rejoined (b : Blk) (v : BitVec 32) : Blk :=
  let b : Blk := { b with quorum := { b.quorum with failed := b.quorum.failed &&& ~~~v } }
  b.each (setMembers v) fun b m => b.undeclare fcPeer m

/-- A write of an entry of the group table on a channel. -/
def Blk.writeGroup (b : Blk) (ch : Channel) (sub v : Nat) : Od :=
  let q := b.quorum
  let set := fun (q : Quorum) => Od.ok { b with quorum := q }
  if 0x02 ≤ sub && sub ≤ 0x07 && q.cur.isSome then Od.no b abState
  else match sub with
    | 0x01 => b.writeQuorumEn v
    | 0x02 => if v < 32 && qmCoord (q.member v) = b.self then set { q with self := v } else Od.no b abRange
    | 0x03 => if 10 ≤ v && v ≤ 500 then set { q with hbInterval := v } else Od.no b abRange
    | 0x04 => if 2 ≤ v && v ≤ 16 then set { q with hbMiss := v } else Od.no b abRange
    | 0x05 => if 100 ≤ v && v ≤ 400 then set { q with phase := v } else Od.no b abRange
    | 0x06 => if v < 32 then Od.ok (b.modSels ch fun s => { s with member := v }) else Od.no b abRange
    | 0x07 => set { q with members := q.members.put (b.sels ch).member (BitVec.ofNat 64 (v % 2 ^ 41)) }
    | 0x0A => Od.ok (b.rejoined (BitVec.ofNat 32 v))
    | _ => Od.no b abNoSub
def execQuorumGroupWrite (ch : Channel) (sub : Nat) (value : BitVec 64) (s : State) : Out :=
  s.od (.quorumGroupWrite ch sub value) ch (0x02 ≤ sub && sub ≤ 0x07) fun b => b.writeGroup ch sub value.toNat
def execRejoin (ch : Channel) (bitmap : BitVec 32) (s : State) : Out :=
  s.od (.rejoin ch bitmap) ch false fun b => b.writeGroup ch 0x0A bitmap.toNat

end Sys2Proof.Machine
end

