-- ==== Sys2Proof/Machine/Capsule.lean ====
section
/-! DEFINITION. Weight capsules: their form and how an unwrap begins (R280, R281). -/
namespace Sys2Proof.Machine

/-- Bytes of a plot's HBM from an offset in 64-byte units, cell by cell; none past the plot's ranges. -/
def Blk.plotHbm (b : Blk) (p off : Nat) (n : Nat) : Option Bytes :=
  if b.inHbm p off n then
    ((List.range (ceilDiv n 64)).mapM fun i => (b.hbmPlace p (off + i)).map fun x => b.readHbm x.1 x.2 64).map fun l => l.flatten.take n
  else none

def cpOk : Nat := 0
def cpFormat : Nat := 1
def cpNotListed : Nat := 2
def cpOwner : Nat := 3
def cpTag : Nat := 4
def cpPlace : Nat := 5
def cpBusy : Nat := 6
def cpNoIdentity : Nat := 7

/-- Fields of the 256-byte header; FLAGS [7:1] are Reserved (0), ignored as R6 says. -/
def cpDevices (h : Bytes) : Nat := ofBytes ((h.drop 6).take 1)
def cpFlags (h : Bytes) : Nat := ofBytes ((h.drop 7).take 1) % 2
def cpId (h : Bytes) : Bytes := (h.drop 8).take 8
def cpLength (h : Bytes) : Nat := ofBytes ((h.drop 160).take 4)

/-- Whether a header is as R280 lays it down. -/
def cpForm (h : Bytes) : Bool :=
  ofBytes (h.take 4) = 0x43415053 && ofBytes ((h.drop 4).take 2) = 1 && 1 ≤ cpDevices h && cpDevices h ≤ 16 &&
    cpLength h % 64 = 0 && 64 ≤ cpLength h && cpLength h ≤ 1048576 && ((h.drop 176).take 80).all (· = 0#8)

/-- Header, entries, ciphertext and tag of a capsule. -/
def Blk.capsule (b : Blk) (c : CapReq) : Option (Bytes × Bytes × Bytes × Bytes) :=
  match b.plotHbm c.plot c.offset 256 with
  | none => none
  | some h =>
    let n := 64 * min 16 (cpDevices h)
    let len := min 1048576 (cpLength h)
    (b.plotHbm c.plot c.offset (256 + n + len + 16)).map fun xs =>
      (h, (xs.drop 256).take n, (xs.drop (256 + n)).take len, xs.drop (256 + n + len))

/-- This device's entry. -/
def cpEntry (h entries : Bytes) : Option Bytes :=
  ((List.range (cpDevices h)).map fun i => (entries.drop (64 * i)).take 64).find? fun e => e.take 16 = (padTo 48 Config.deviceId).take 16

/-- What the checks before deciphering give, and LENGTH. -/
def Blk.capVerdict (b : Blk) (c : CapReq) : Nat × Nat :=
  if !b.vault.identity then (cpNoIdentity, 0)
  else match b.capsule c with
    | none => (cpFormat, 0)
    | some (h, es, _, _) =>
      let owner := (b.plot c.plot).cfg.owner
      if !cpForm h then (cpFormat, 0)
      else if (cpEntry h es).isNone then (cpNotListed, 0)
      else if (h.drop 16).take 48 ≠ owner || owner.all (· = 0#8) then (cpOwner, 0)
      else if !b.owns c.plot c.tile || c.sram % 64 ≠ 0 || sramBytes < c.sram + cpLength h || 8 ≤ (b.tile c.tile).sealed.length then
        (cpPlace, 0)
      else (cpOk, cpLength h)

/-- The request at the head of the queue begins: its target is sealed from now on. -/
def Blk.capBegin (b : Blk) : Blk :=
  match b.vault.capQ with
  | [] => b
  | c :: rest =>
    let r := b.capVerdict c
    let b : Blk := { b with vault := { b.vault with capQ := { c with verdict := r.1, len := r.2 } :: rest } }
    if r.1 = cpOk then b.modTile c.tile fun x => { x with sealed := x.sealed ++ [(c.sram, r.2)] } else b

end Sys2Proof.Machine
end

