-- ==== Sys2Proof/Machine/Kernels.lean ====
section
/-! DEFINITION. In-fabric kernels: binding, tokens, gating, dispatch, combining, closing and MAP (R199–R215). -/
namespace Sys2Proof.Machine

/-! ### Descriptors and places (R200, R201) -/

/-- Key of a kernel at its HOME. -/
def kernelKey (cls : Nat) (map : Bool) : Nat := cls + 64 * (if map then 1 else 0)

/-- The kernel that a descriptor describes. -/
def kernelOf (h : BitVec 512) (plot : Nat) : Kernel :=
  { plot := plot, dispatch := fld h 9 2 = 0, cls := fld h 12 6, outClass := fld h 18 6, missZero := flag h 11,
    tokFmt := fld h 36 4, wFmt := fld h 40 4, retFmt := fld h 44 4, outFmt := fld h 48 4, rnd := fld h 52 3,
    gateMode := fld h 56 3, topk := fld h 60 4, k := fld h 64 15, n := fld h 80 13, tokSlots := fld h 96 6 + 1,
    retWait := fld h 104 8, pkey := BitVec.ofNat 16 (fld h 112 16), wAddr := fld h 128 21, expAddr := fld h 160 21,
    tokBuf := fld h 192 21, scale := BitVec.ofNat 32 (fld h 224 32), clip := BitVec.ofNat 32 (fld h 256 32),
    loaded := false, unbinding := false, serial := 0, tokens := [] }

namespace Kernel

/-- Bytes of a token, of an expert output and of a combined token; their parts of 4,096 bytes (R203). -/
def tokBytes (x : Kernel) : Nat := collBytes x.tokFmt x.k
def retBytes (x : Kernel) : Nat := collBytes x.retFmt x.k
def outBytes (x : Kernel) : Nat := collBytes x.outFmt x.k
def key (x : Kernel) : Nat := kernelKey x.cls (!x.dispatch)
/-- Bytes of a token buffer. -/
def bufBytes (x : Kernel) : Nat := 64 * ceilDiv x.tokBytes 64
def form (x : Kernel) : FraForm := if fmtWide x.retFmt then formWide else formFloat
/-- Accumulator entries that a DISPATCH kernel sets aside (R201). -/
def accEntries (x : Kernel) : Nat := x.tokSlots * padK x.retFmt x.k
/-- The oasis number under which they are set aside: past those of lists and collectives. -/
def oasis (x : Kernel) : Nat := 128 + x.cls

end Kernel

/-- Parts of a number of bytes, and the size of one. -/
def partsOf (n : Nat) : Nat := ceilDiv n 4096
def partSize (n p : Nat) : Nat := min 4096 (n - 4096 * p)

/-- Formats of expert outputs (R200). -/
def retFmtOk (c : Nat) : Bool := fmtOk c && !fmtNarrowInt c

/-- Bits of the descriptor that are Reserved (R200). -/
def kernelReserved (h : BitVec 512) : Bool :=
  fld h 34 2 ≠ 0 || flag h 55 || flag h 59 || flag h 79 || fld h 93 3 ≠ 0 || fld h 102 2 ≠ 0 || fld h 149 11 ≠ 0 ||
  fld h 181 11 ≠ 0 || fld h 213 11 ≠ 0 || fld h 288 224 ≠ 0

/-- BAD_DESC (R201): a reserved field that is not zero is one (log 166). -/
def kernelBad (h : BitVec 512) (x : Kernel) : Bool :=
  kernelReserved h || 1 < fld h 9 2 || !fmtOk x.tokFmt || !fmtOk x.outFmt || 4 < x.rnd ||
  if x.dispatch then
    !arrayFmt x.tokFmt || !arrayFmt x.wFmt || !retFmtOk x.retFmt || 3 < x.gateMode || x.topk < 1 || 8 < x.topk ||
    x.n < x.topk || x.k < 1 || 16384 < x.k || x.n < 1 || 4096 < x.n || x.retWait = 0 || x.tokBuf % 64 ≠ 0
  else fpBinary32.decode x.clip.toNat = .nan

/-- LIMIT (R201). -/
def Blk.kernelLimit (b : Blk) (t : Nat) (x : Kernel) : Bool :=
  x.dispatch &&
  (!weightsFit x.wFmt x.k x.n || ((isMx x.tokFmt || isMx x.retFmt) && x.k % 32 ≠ 0) || 32768 < x.tokBytes ||
   32768 < x.retBytes || 16384 < (b.tile t).roomUsed + oasisRoom (fmtWide x.retFmt) x.accEntries)

/-- Whether two ranges meet. -/
def rangesMeet (a n c m : Nat) : Bool := a < c + m && c < a + n

/-- PLOT (R201). -/
def Blk.kernelPlot (b : Blk) (plot t : Nat) (x : Kernel) : Bool :=
  let w := weightBytes x.wFmt x.k x.n
  let e := 8 * x.n
  let s := x.tokSlots * x.bufBytes
  !(b.owns plot t && b.member.isPortTile t) ||
  (x.dispatch &&
    (sramBytes < x.wAddr + w || sramBytes < x.expAddr + e || sramBytes < x.tokBuf + s ||
     rangesMeet x.wAddr w x.expAddr e || rangesMeet x.wAddr w x.tokBuf s || rangesMeet x.expAddr e x.tokBuf s))

/-- TAKEN (R201). -/
def Blk.kernelTaken (b : Blk) (t : Nat) (x : Kernel) : Bool :=
  let ks := (b.tile t).ks.kernels
  (ks.any fun y => y.2.cls = x.cls) || 8 ≤ ks.length || (x.dispatch && ks.any fun y => y.2.dispatch)

/-- The decision on a BIND, in table order (R201). -/
def Blk.kernelDecide (b : Blk) (plot t : Nat) (h : BitVec 512) (x : Kernel) : Nat :=
  if fld h 0 8 ≠ 1 || kernelBad h x then 0x01
  else if b.kernelLimit t x then 0x02
  else if b.kernelPlot plot t x then 0x03
  else if b.kernelTaken t x then 0x04
  else if x.dispatch && !((b.tile t).sheaves 2).isEmpty then 0x05
  else if !b.engineOn t then 0x06
  else 0x00

/-- KER_BIND (R201). -/
def Blk.kerBind (b : Blk) (plot t cls status : Nat) : Blk :=
  b.raiseP 0x0B plot (some t) (t + 2 ^ 10 * cls + 2 ^ 16 * status)

def Blk.modKs (b : Blk) (t : Nat) (f : KerSt → KerSt) : Blk := b.modTile t fun x => { x with ks := f x.ks }
def Blk.setKernel (b : Blk) (t : Nat) (x : Kernel) : Blk := b.modKs t fun k => { k with kernels := k.kernels.put x.key x }

/-- A BIND (R201): a DISPATCH kernel sets its entries aside, loads its weights and pins the array. -/
def Blk.bindKernel (b : Blk) (plot : Nat) (h : BitVec 512) : Blk :=
  let x := kernelOf h plot
  let t := fld h 24 10
  let code := b.kernelDecide plot t h x
  if code ≠ 0 then b.kerBind plot t x.cls code
  else
    let b := if x.dispatch then
        b.modTile t fun y =>
          { y with
            oases := y.oases.put x.oasis { wide := fmtWide x.retFmt, size := x.accEntries, grid := .none, entries := [] },
            weights := some { k := x.k, n := x.n, fmt := x.wFmt, data := b.readSram t x.wAddr (weightBytes x.wFmt x.k x.n) },
            pinned := true }
      else b
    (b.setKernel t { x with loaded := !x.dispatch }).kerBind plot t x.cls 0

/-- Everything that a kernel holds is released (R202). -/
def Blk.kernelFree (b : Blk) (t : Nat) (x : Kernel) : Blk :=
  let b := b.modKs t fun k => { k with kernels := k.kernels.del x.key }
  if x.dispatch then b.modTile t fun y => { y with oases := y.oases.del x.oasis, weights := none, pinned := false } else b

/-- An unbinding kernel with no open token is gone: UNBOUND (R202). -/
def Blk.kernelSettle (b : Blk) (t : Nat) (x : Kernel) : Blk :=
  if x.unbinding && x.tokens.isEmpty then (b.kernelFree t x).kerBind x.plot t x.cls 0x07 else b.setKernel t x

/-- An UNBIND (R200, R202): only VER, OP, HOME and CLASS are read. -/
def Blk.unbindKernel (b : Blk) (plot : Nat) (h : BitVec 512) : Blk :=
  let t := fld h 24 10
  let cls := fld h 12 6
  if fld h 0 8 ≠ 1 then b.kerBind plot t cls 0x01
  else match (b.tile t).ks.kernels.find? fun y => y.2.cls = cls && y.2.plot = plot with
    | none => b.kerBind plot t cls 0x08
    | some (_, x) => b.kernelSettle t { x with unbinding := true }

/-- The kernel descriptor at the head of the doorbell queue has been read (R199): OP says what it asks (R200). A doorbell that
points outside the window gives no descriptor and ends there (log 165). -/
def Blk.kernelDesc (b : Blk) (plot : Nat) (desc : Bytes) : Blk :=
  match b.takeDoorbell plot true with
  | none => b
  | some (off, b) =>
    let desc := b.fetched plot off desc
    let h : BitVec 512 := BitVec.ofNat 512 (ofBytes (desc.take 64))
    if desc.length < 64 then b
    else if flag h 8 then b.unbindKernel plot h
    else b.bindKernel plot h

/-- A kernel descriptor read for a BIND is taken; its OP decides (R200). -/
def Blk.kernelBind (b : Blk) (plot : Nat) (desc : Bytes) : Blk := b.kernelDesc plot desc
def execKernelBind (plot : Nat) (desc : Bytes) (s : State) : Out := s.mesh (.kernelBind plot desc) (·.kernelBind plot desc)

/-- A kernel descriptor read for an UNBIND is taken; its OP decides (R200). -/
def Blk.kernelUnbind (b : Blk) (plot : Nat) (desc : Bytes) : Blk := b.kernelDesc plot desc
def execKernelUnbind (plot : Nat) (desc : Bytes) (s : State) : Out := s.mesh (.kernelUnbind plot desc) (·.kernelUnbind plot desc)

/-- A kernel takes tokens from the tick after its load (R201). -/
def KerSt.tick (k : KerSt) : KerSt := { k with kernels := k.kernels.mapV fun _ x => { x with loaded := true } }

/-! ### Routes out of HOME (R208, R212) -/

/-- The egress of a coordinate as for forwarding: port and half, or none (R208). -/
def Blk.kerRoute (b : Blk) (t plot dst : Nat) : Option (Nat × Bool × Blk) :=
  match b.lookup plot dst with
  | none => none
  | some e =>
    if lkKind e = 3 then none
    else
      let (p, halfB, up, b) := b.egressOf (b.member.portOf t) plot e
      if up then some (p, halfB, b) else none

/-- The parts of some bytes as DFPs, put in the queue of the tile's own port. -/
def Blk.emitParts (b : Blk) (t plot p : Nat) (halfB : Bool) (hdr : Nat → Nat → BitVec 256) (data : Bytes) : Blk :=
  b.each (List.range (partsOf data.length)) fun b i =>
    let xs := (data.drop (4096 * i)).take 4096
    b.emitDfp t plot p halfB (hdr i xs.length) (cellsOfBytes xs)

/-- The header of a copy's part i (R209). -/
def Blk.copyHdr (b : Blk) (plot dst key cls tag i bytes : Nat) : BitVec 256 :=
  dfpHdr 2 key cls 8 dst b.self (tag + 2 ^ 9 * i) (b.plot plot).graft.gen.toNat bytes

/-- TAG of part 0 of a copy (R203). -/
def copyTag (slot rank serial : Nat) : Nat := at_ 0 6 slot + at_ 6 3 rank + at_ 16 16 serial

/-- The payload of a KHDR (R208). -/
def khdrBody (dst key cls bytes : Nat) : Bytes :=
  let last := bytes - 4096 * (partsOf bytes - 1)
  toBytes 4 dst ++ toBytes 2 key ++ toBytes 1 cls ++ toBytes 1 (partsOf bytes) ++ toBytes 1 ((last - 1) / 64) ++
    toBytes 1 ((last - 1) % 64) ++ List.replicate 6 0#8

/-- HOME stages a train toward an egress port: a copy, or a combined token with its header (log 89). -/
def Blk.sent (b : Blk) (t plot p : Nat) (hdr : Option (BitVec 256)) : Blk :=
  b.modKs (b.member.portTile p) fun k => { k with due := k.due ++ [{ src := t, plot := plot, hdr := hdr }] }

/-- One rank's copy leaves: a KHDR and its train, or straight to the queue of HOME's own port; none without a route (R208). -/
def Blk.sendCopy (b : Blk) (t : Nat) (x : Kernel) (slot rank dst : Nat) (tok : Token) (data : Bytes) : Option Blk :=
  match b.kerRoute t x.plot dst with
  | none => none
  | some (p, halfB, b) =>
    let tag := copyTag slot rank tok.serial
    let key := x.pkey.toNat
    if b.member.portTile p = t then
      some (b.emitParts t x.plot p halfB (b.copyHdr x.plot dst key x.outClass tag) data)
    else match b.portFurrow t x.plot (b.member.portTile p) with
      | none => none
      | some d =>
        let k : KhdrSend :=
          { target := b.member.portTile p, plot := x.plot, tag := BitVec.ofNat 32 tag,
            body := khdrBody dst key x.outClass data.length, cls := x.cls, slot := slot, rank := rank }
        let b := b.modTile t fun y => { y with net := { y.net with khdrOut := y.net.khdrOut ++ [k] } }
        some ((b.sent t x.plot p none).stage t d p x.outClass (trainCells none data))

/-! ### Closing (R211, R212) -/

/-- Parts of a rank taken. -/
def Token.takenOf (tok : Token) (rank : Nat) : Nat := (tok.outs.filter fun o => o.1 / 8 = rank).length

/-- Ranks that are missing, or not taken whole. -/
def Token.lacking (tok : Token) (parts : Nat) : List Nat :=
  (List.range 8).filter fun r => tok.missing.contains r || (tok.ranks.contains r && tok.takenOf r < parts)

/-- The combined token, rounded once (R211). -/
def Kernel.combined (x : Kernel) (tok : Token) : Bytes × Nat × Nat :=
  let n := if isMx x.outFmt then ceilDiv x.k 32 * 32 else x.k
  let e := encodeRun x.outFmt x.rnd (fun _ => 0)
    ((List.range n).map fun i => if i < x.k then (tok.acc.getD i Fra.fresh).result x.form else .zero false)
  (e.bytes, e.nans, e.sats)

/-- The header of part i of a combined token: TAG carries PART (R203, R212). -/
def returnHdr (h : BitVec 256) (i bytes : Nat) : BitVec 256 := reDfp (withBytes (setFld h 192 32 (fTag h + i)) bytes)

/-- The combined token leaves toward its origin, or is discarded with cause ROUTE (R212). Its train carries no envelope (R33). -/
def Blk.tokenEmit (b : Blk) (t : Nat) (x : Kernel) (tok : Token) : Blk :=
  let r := x.combined tok
  let b := (b.countN t evRoundNan r.2.1 (some x.plot)).countN t evRoundSat r.2.2 (some x.plot)
  let dst := tok.src.toNat
  let noRoute := b.raiseP 0x0C x.plot (some t) (tok.token.toNat / 8) 3
  let hdr := dfpHdr 3 x.pkey.toNat x.outClass 8 dst b.self (tok.token.toNat / 8 * 8) (b.plot x.plot).graft.gen.toNat r.1.length
  match b.kerRoute t x.plot dst with
  | none => noRoute
  | some (p, halfB, b) =>
    let b' :=
      if b.member.portTile p = t then some (b.emitParts t x.plot p halfB (returnHdr hdr) r.1)
      else (b.portFurrow t x.plot (b.member.portTile p)).map fun d =>
        (b.sent t x.plot p (some hdr)).stage t d p x.outClass (trainCells none r.1)
    match b' with
    | some b => b.count t evKerTokens (some x.plot)
    | none => noRoute

/-- A token closes (R211). -/
def Blk.tokenClose (b : Blk) (t : Nat) (x : Kernel) (slot : Nat) (tok : Token) : Blk :=
  let miss := tok.lacking (partsOf x.retBytes)
  let x := { x with tokens := x.tokens.del slot }
  let b := if miss.isEmpty then b
    else (b.countN t evKerMiss miss.length (some x.plot)).raiseP 0x0C x.plot (some t) (tok.token.toNat / 8) 2
      ((miss.map (2 ^ ·)).sum)
  let b := if miss.isEmpty || x.missZero then b.tokenEmit t x tok else b
  b.kernelSettle t x

/-- A token is kept, or closes when every part of every dispatched rank has been added (R211). A rank that was dispatched and
lost keeps it open until RET_WAIT ends (log 166). -/
def Blk.tokenKeep (b : Blk) (t : Nat) (x : Kernel) (slot : Nat) (tok : Token) : Blk :=
  if tok.gated && tok.ranks.all fun r => tok.takenOf r = partsOf x.retBytes then
    b.tokenClose t x slot tok
  else b.setKernel t { x with tokens := x.tokens.put slot tok }

/-! ### Gating and dispatch (R206–R208) -/

/-- Whether a gate value is finite and nonzero. -/
def gateLive (g : Nat) : Bool :=
  match fpBinary32.decode g with
  | .fin m _ => m ≠ 0
  | _ => false

/-- A whole token is scored, ranked, gated and dispatched. -/
def Blk.tokenGate (b : Blk) (t : Nat) (x : Kernel) (slot : Nat) (tok : Token) : Blk :=
  let data := b.readSram t (x.tokBuf + slot * x.bufBytes) x.tokBytes
  let w := ((b.tile t).weights).getD { k := 0, n := 0, fmt := 0, data := [] }
  let bits := (w.scores (vecOf x.tokFmt x.k data)).map scoreBits
  let sel := topk x.topk (bits.map fpBinary32.decode)
  let gates := gateBits x.gateMode (sel.map fun i => bits.getD i 0)
  let b := b.countN t evMacs (x.k * x.n / 256) (some x.plot)
  let tok := { tok with gated := true, gates := gates.map (BitVec.ofNat 32) }
  let r := (sel.zip gates).zipIdx.foldl
    (fun (a : Blk × Token) e =>
      let rank := e.2
      if !gateLive e.1.2 then (a.1.count t evKerSkip (some x.plot), a.2)
      else
        let ent := ofBytes (a.1.readSram t (x.expAddr + 8 * e.1.1) 8)
        if ent / 2 ^ 32 % 2 = 0 then (a.1, { a.2 with missing := a.2.missing ++ [rank] })
        else
          let tok := { a.2 with ranks := a.2.ranks ++ [rank] }
          match a.1.sendCopy t x slot rank (ent % 2 ^ 32) a.2 data with
          | some b => (b, tok)
          | none => (a.1, { tok with missing := tok.missing ++ [rank] })) (b, tok)
  r.1.tokenKeep t x slot r.2

/-! ### Tokens arrive (R204, R205) -/

/-- The DISPATCH kernel at a tile. -/
def Blk.dispatchAt (b : Blk) (t : Nat) : Option Kernel := ((b.tile t).ks.kernels.find? fun y => y.2.dispatch).map (·.2)

/-- The lowest free slot of a kernel. -/
def Kernel.freeSlot (x : Kernel) : Option Nat := (List.range x.tokSlots).find? fun i => (x.tokens.get? i).isNone

/-- The plot of a DFP's key. -/
def Blk.plotOfKey (b : Blk) (h : BitVec 256) : Nat := ((b.sieveOf (fKey h)).map svPlot).getD 0

/-- A part of a token lands in its slot's buffer; the last one gates the token. -/
def Blk.tokenLand (b : Blk) (t : Nat) (x : Kernel) (slot : Nat) (tok : Token) (part : Nat) (data : Bytes) : Blk :=
  let b := b.writeSram t (x.tokBuf + slot * x.bufBytes + 4096 * part) data
  let tok := { tok with landed := if tok.landed.contains part then tok.landed else tok.landed ++ [part] }
  if tok.landed.length = partsOf x.tokBytes && !tok.gated then b.tokenGate t x slot tok
  else b.setKernel t { x with tokens := x.tokens.put slot tok }

/-- The oldest TYPE 2 DFP that arrived at HOME is decided: reasons 0x40, 0x41, 0x42 (R204, R205). -/
def Blk.tokenPart (b : Blk) (t : Nat) : Blk :=
  match (b.tile t).ks.tokenIn with
  | [] => b
  | d :: rest =>
    let b := b.modKs t fun k => { k with tokenIn := rest }
    let plot := b.plotOfKey d.hdr
    let port := b.member.portOf t
    let tag := fTag d.hdr
    let part := tag % 8
    match b.dispatchAt t with
    | none => b.drop t 0x40 (some port) (some plot)
    | some x =>
      let src := BitVec.ofNat 32 (fSrc d.hdr)
      let open_ := x.tokens.find? fun y => y.2.src = src && y.2.token.toNat / 8 = tag / 8 && !y.2.gated
      if x.plot ≠ plot || x.cls ≠ fClass d.hdr || !x.loaded || (x.unbinding && open_.isNone) then
        b.drop t 0x40 (some port) (some plot)
      else if partsOf x.tokBytes ≤ part || d.payload.length ≠ partSize x.tokBytes part then b.drop t 0x41 (some port) (some plot)
      else
        match open_ with
        | some (slot, tok) => b.tokenLand t x slot tok part d.payload
        | none =>
          match x.freeSlot with
          | none => b.drop t 0x42 (some port) (some plot)
          | some slot =>
            let tok : Token :=
              { src := src, token := BitVec.ofNat 32 tag, serial := x.serial, landed := [], gated := false, gates := [],
                ranks := [], missing := [], outs := [], acc := [] }
            b.tokenLand t { x with serial := (x.serial + 1) % 2 ^ 16 } slot tok part d.payload
def execTokenPartArrival (tile : Nat) (s : State) : Out := s.mesh (.tokenPartArrival tile) (·.tokenPart tile)

/-- A slot whose token is not whole by the second tick after it opened is discarded (R205). -/
def Blk.tokenAsm (b : Blk) (t slot : Nat) : Blk :=
  match b.dispatchAt t with
  | none => b
  | some x =>
    match x.tokens.get? slot with
    | none => b
    | some tok =>
      if tok.gated then b
      else ((b.count t 0x15B (some x.plot)).raiseP 0x0C x.plot (some t) (tok.token.toNat / 8) 1).kernelSettle t
        { x with tokens := x.tokens.del slot }
def execTokenAsmTimeout (tile slot : Nat) (s : State) : Out := s.mesh (.tokenAsmTimeout tile slot) (·.tokenAsm tile slot)

/-- RET_WAIT of a dispatched token ends: it closes (R211). -/
def Blk.tokenRet (b : Blk) (t slot : Nat) : Blk :=
  match b.dispatchAt t with
  | none => b
  | some x =>
    match x.tokens.get? slot with
    | none => b
    | some tok => if tok.gated then b.tokenClose t x slot tok else b
def execTokenRetTimeout (tile slot : Nat) (s : State) : Out := s.mesh (.tokenRetTimeout tile slot) (·.tokenRet tile slot)

/-- A rank of an open token becomes missing: its KHDR was not accepted (R208, R209). -/
def Blk.rankLost (b : Blk) (t slot rank serial : Nat) : Blk :=
  match b.dispatchAt t with
  | none => b
  | some x =>
    match x.tokens.get? slot with
    | none => b
    | some tok =>
      if tok.serial ≠ serial || !tok.ranks.contains rank || tok.missing.contains rank then b
      else b.tokenKeep t x slot { tok with missing := tok.missing ++ [rank] }

/-! ### Expert outputs (R204, R210) -/

/-- Bytes of the smallest whole unit of a format: an element, or an MX block, and its elements. -/
def unitBytes (fmt : Nat) : Nat := if isMx fmt then blockBytes fmt else fmtBits fmt / 8
def unitElems (fmt : Nat) : Nat := if isMx fmt then 32 else 1

/-- Units of a rank's output that a newly taken part completes. -/
def newUnits (fmt bytes : Nat) (has : Nat → Bool) (part : Nat) : List Nat :=
  let u := unitBytes fmt
  (List.range (bytes / u)).filter fun q =>
    let a := q * u / 4096
    let z := (q * u + u - 1) / 4096
    a ≤ part && part ≤ z && (List.range (z + 1 - a)).all fun i => has (a + i)

/-- The values that a newly taken part adds, with their element numbers. -/
def Token.newValues (tok : Token) (fmt bytes rank part : Nat) : List (Nat × Val) :=
  let flat := (List.range (partsOf bytes)).flatMap fun p => padTo (partSize bytes p) (tok.outs.getD (8 * rank + p) [])
  let u := unitBytes fmt
  let e := unitElems fmt
  (newUnits fmt bytes (fun p => (tok.outs.get? (8 * rank + p)).isSome) part).flatMap fun q =>
    (decodeRun fmt e ((flat.drop (q * u)).take u)).zipIdx.map fun v => (q * e + v.2, v.1)

/-- A part of an expert output is added: g · x into each entry (R210). -/
def Blk.expertAdd (b : Blk) (t : Nat) (x : Kernel) (slot : Nat) (tok : Token) (rank part : Nat) (data : Bytes) : Blk :=
  let tok := { tok with outs := tok.outs.put (8 * rank + part) data }
  let g := fpBinary32.decode (tok.gates.getD rank 0#32).toNat
  let vs := ((tok.newValues x.retFmt x.retBytes rank part).filter fun v => v.1 < x.k).map fun v => (v.1, Val.mul g v.2)
  let acc := vs.foldl (fun (a : Tbl Fra) v => a.put v.1 ((a.getD v.1 Fra.fresh).add x.form v.2)) tok.acc
  let ovfs := (acc.filter fun e => e.2.ovf && !(tok.acc.getD e.1 Fra.fresh).ovf).length
  (b.countAdds t x.plot x.form (vs.map (·.2)) ovfs).tokenKeep t x slot { tok with acc := acc }

/-- The oldest TYPE 3 DFP that arrived at HOME is decided: reasons 0x40, 0x41, 0x43 (R204). -/
def Blk.expertOut (b : Blk) (t : Nat) : Blk :=
  match (b.tile t).ks.expertIn with
  | [] => b
  | d :: rest =>
    let b := b.modKs t fun k => { k with expertIn := rest }
    let plot := b.plotOfKey d.hdr
    let port := b.member.portOf t
    let tag := fTag d.hdr
    let slot := tag % 64
    let rank := tag / 64 % 8
    let part := tag / 512 % 8
    match b.dispatchAt t with
    | none => b.drop t 0x40 (some port) (some plot)
    | some x =>
      if x.plot ≠ plot then b.drop t 0x40 (some port) (some plot)
      else if partsOf x.retBytes ≤ part || d.payload.length ≠ partSize x.retBytes part then b.drop t 0x41 (some port) (some plot)
      else match x.tokens.get? slot with
        | none => b.drop t 0x43 (some port) (some plot)
        | some tok =>
          if tok.serial ≠ tag / 2 ^ 16 || tag / 2 ^ 12 % 16 ≠ 0 || !tok.ranks.contains rank ||
              tok.missing.contains rank || (tok.outs.get? (8 * rank + part)).isSome then b.drop t 0x43 (some port) (some plot)
          else b.expertAdd t x slot tok rank part d.payload
def execExpertOutputArrival (tile : Nat) (s : State) : Out := s.mesh (.expertOutputArrival tile) (·.expertOut tile)

/-! ### KHDRs and trains at the egress tile (R208, R209) -/

/-- The oldest KHDR request is taken: 64 entries, then BUSY (R209). -/
def Blk.khdrTake (b : Blk) (t : Nat) : Blk :=
  match b.takeInbox t (· = rqKhdr) with
  | none => b
  | some (q, b) =>
    let full : Bool := 64 ≤ ((b.tile t).ks.khdrs.filter fun k => !k.refused).length
    let k : Khdr :=
      { src := pSrc q.1.hdr, plot := pPlot q.1.hdr, tag := BitVec.ofNat 32 (pArg q.1.hdr), body := q.1.body.take 16,
        refused := full }
    let b := b.modKs t fun s => { s with khdrs := s.khdrs ++ [k] }
    if full then b.errReq t q erBusy else b.answerReq t q 0 []
def execKhdrReceive (tile : Nat) (s : State) : Out := s.mesh (.khdrReceive tile) (·.khdrTake tile)

/-- Whether a landed train is the upward train of a collective (R181). -/
def Blk.isUpTrain (b : Blk) (t : Nat) (x : Train) : Bool :=
  (b.plot x.plot).colls.any fun c => c.up && c.indices.any fun i =>
    (c.part i).upTile = t && (c.part i).tile = x.src && c.fUp i = x.furrow

/-- The parts of a matched train leave as TYPE 2 DFPs (R209). -/
def Blk.trainSend (b : Blk) (t : Nat) (k : Khdr) (x : Train) : Blk :=
  let w := fun (i n : Nat) => ofBytes ((k.body.drop i).take n)
  let n := w 7 1
  let bytes := 4096 * (n - 1) + 64 * w 8 1 + w 9 1 + 1
  let p := b.member.portOf t
  b.emitParts t x.plot p false (b.copyHdr x.plot (w 0 4) (w 4 2) (w 6 1 % 64) k.tag.toNat) (padTo bytes x.data)

/-- A landed copy is matched to the oldest KHDR of its sender, and discarded where there is none or it was answered BUSY (R209). -/
def Blk.copyTrain (b : Blk) (t : Nat) (x : Train) : Blk :=
  match takeFirst (fun (k : Khdr) => k.src = x.src && k.plot = x.plot) (b.tile t).ks.khdrs with
  | none => b.count t evKerNoHdr (some x.plot)
  | some (k, ks) =>
    let b := b.modKs t fun s => { s with khdrs := ks }
    if k.refused then b.count t evKerNoHdr (some x.plot) else b.trainSend t k x

/-- The oldest kernel train at an egress tile: a combined token leaves under its own header, a copy under its KHDR's (R33, R209,
R212). -/
def Blk.kernelTrain (b : Blk) (t : Nat) : Blk :=
  match takeFirst (fun x => !b.isUpTrain t x) (b.tile t).ks.trains with
  | none => b
  | some (x, rest) =>
    let b := b.modKs t fun k => { k with trains := rest }
    match takeFirst (fun (d : DueTrain) => d.src = x.src && d.plot = x.plot) (b.tile t).ks.due with
    | none => b.copyTrain t x
    | some (d, ds) =>
      let b := b.modKs t fun k => { k with due := ds }
      match d.hdr with
      | none => b.copyTrain t x
      | some h => b.emitParts t x.plot (b.member.portOf t) false (returnHdr h) (padTo (fBytes h) x.data)
def execKernelTrainLand (tile : Nat) (s : State) : Out := s.mesh (.kernelTrainLand tile) (·.kernelTrain tile)

/-! ### MAP kernels (R213) -/

/-- The MAP kernel that takes a DFP of a plot and class at a tile. -/
def Blk.mapAt (b : Blk) (t plot cls : Nat) : Option Kernel :=
  ((b.tile t).ks.kernels.find? fun y => !y.2.dispatch && y.2.plot = plot && y.2.cls = cls).map (·.2)

/-- The mapped payload; none for reason 0x44. -/
def Kernel.mapBytes (x : Kernel) (xs : Bytes) : Option EncRun :=
  let u := unitBytes x.tokFmt
  let n := xs.length / u * unitElems x.tokFmt
  if xs.length % u ≠ 0 || (isMx x.outFmt && n % 32 ≠ 0) || 4096 < collBytes x.outFmt n then none
  else
    some (encodeRun x.outFmt x.rnd (fun _ => 0) ((decodeRun x.tokFmt n xs).map fun v =>
      clampTo (fpBinary32.decode x.clip.toNat) (Val.mul v (fpBinary32.decode x.scale.toNat))))

end Sys2Proof.Machine
end

