-- ==== Sys2Proof/Machine/Ingress.lean ====
section
/-! DEFINITION. A received frame at its port tile: the checks in order, the meter, and where the DFP goes (R38, R40, R191,
R207, R228–R236, R269, R300, R302, R382); and a DFP that arrives over the open plane (R232). -/
namespace Sys2Proof.Machine

/-- The fate of a frame under the checks of its port: dropped under a reason, or a DFP with its payload. -/
abbrev Checked (α : Type) := Except Nat α

/-- A check of R40. -/
def need (p : Bool) (reason : Nat) : Checked Unit := if p then .ok () else .error reason

/-- The checks of the frame, the header, the sieve, the trailer and HOPS (R40, R228, R233, R269). -/
def Blk.checkFrame (b : Blk) (p : Nat) (frame : Bytes) (good : Bool) : Checked (BitVec 256 × Bytes) := do
  let x := b.port p
  let d := x.decap frame
  need (good && d ≠ .bad) 0x51
  let xs ← match d with
    | .dfp xs => .ok xs
    | _ => .error 0x50
  need (x.state = .up) 0x52
  let h : BitVec 256 := BitVec.ofNat 256 (ofBytes (xs.take 32))
  need (32 ≤ xs.length && xs.length = 48 + fBytes h) 0x01
  need (fVer h = 1 && fHchkOk h) 0x02
  need (fType h < 6 && fColor h ≠ 3) 0x03
  let plot := b.plotOfKey h
  need (b.admitted (fKey h) p && (!x.ctrl.pass || plot = x.ctrl.passPlot)) 0x04
  let k := (b.plot plot).keys
  need (fEnc h || !k.sec.requireEnc) 0x60
  need (!fEnc h || (k.phase (fPhase h)).receives) 0x61
  let data ← match k.receive h (xs.drop 32) with
    | some data => .ok data
    | none => .error 0x05
  need (0 < fHops h) 0x06
  .ok (h, data)

/-- The rank table's coordinate for a rank (R37); RANK_BASE is a byte offset of the plot's HBM. -/
def Blk.rankOf (b : Blk) (plot r : Nat) : Option Nat :=
  let c := (b.plot plot).cfg
  if c.rankCount.toNat ≤ r then none
  else match c.place (c.rankBase.toNat + 8 * r) with
    | none => none
    | some (d, a) =>
      let e := ofBytes (b.readHbm d a 8)
      if e / 2 ^ 32 % 2 = 1 then some (e % 2 ^ 32) else none

/-- The address checks: rank, coordinate, placement generation (R37, R38, R40, R302). -/
def Blk.checkAddr (b : Blk) (plot : Nat) (h : BitVec 256) : Checked (BitVec 256) := do
  need (!fRank h || (b.plot plot).cfg.recovery) 0x07
  let h ← if fRank h then
      match b.rankOf plot (fDst h % 2 ^ 17) with
      | some c => .ok (setFld (setFld h 64 32 c) 10 1 0)
      | none => .error 0x08
    else .ok h
  need (coordOk (fDst h) && (fDst h = b.self || (b.lookup plot (fDst h)).isSome)) 0x09
  need (!(fDst h = b.self && 1 ≤ fType h && fType h ≤ 3) || fGen h = (b.plot plot).graft.gen.toNat) 0x63
  .ok h

/-- The meter of an arrival: its buckets are charged and the color given (R234, R235). -/
def Blk.meterDfp (b : Blk) (p plot : Nat) (h : BitVec 256) : Blk × Checked Nat :=
  match b.meterOf p plot (fClass h) with
  | none => (b, .ok (fColor h))
  | some (i, m) =>
    let r := m.color b.clk.mc (fColor h) (48 + fBytes h)
    let b := { b with traf := { b.traf with meters := b.traf.meters.put i r.2 } }
    (b, if r.1 = 2 && !flag m.cfg 18 then .error 0x57 else .ok r.1)

/-- A collective DFP to the block's own coordinate (R191, R192, R194). In UP mode RESULT marks a return. -/
def Blk.collIngress (b : Blk) (p plot : Nat) (h : BitVec 256) (data : Bytes) : Blk :=
  let t := b.member.portTile p
  let c := collHdr data
  match b.collAt plot (fTag h) t with
  | none => b.portDrop p 0x30 plot
  | some k =>
    if hasFlag c.flags flAck || hasFlag c.flags flResend then
      b.modTile t fun x => { x with ks := { x.ks with collIn := x.ks.collIn ++ [(plot, { hdr := h, payload := data })] } }
    else
      match if k.up && hasFlag c.flags flResult then none else k.portPart t with
      | some j =>
        match b.collLand plot k j data with
        | .ok b => b
        | .error r => (if r = 0x32 then b.collUnland plot k j data else b).portDrop p r plot
      | none =>
        match b.collReturn plot k t data with
        | .ok b => b
        | .error r => (if r = 0x32 then b.collUnreturn plot k data else b).portDrop p r plot

/-- A DFP to the block's own coordinate or to a LOCAL entry is consumed by its type (R36, R191, R205, R207, R293, R382). One of
TYPE 1 to 3 with another DST is dealt with as TYPE 0 (R191, R204). -/
def Blk.consume (b : Blk) (p plot : Nat) (h : BitVec 256) (data : Bytes) : Blk :=
  let t := b.member.portTile p
  let d : Dfp := { hdr := h, payload := data }
  match if fDst h ≠ b.self && fType h ≤ 3 then 0 else fType h with
  | 1 => b.collIngress p plot h data
  | 2 => b.modKs t fun k => { k with tokenIn := k.tokenIn ++ [d] }
  | 3 => b.modKs t fun k => { k with expertIn := k.expertIn ++ [d] }
  | 5 => { b with quorum := { b.quorum with net := b.quorum.net ++ [(false, t, toBytes 1 0 ++ toBytes 32 h.toNat ++ data)] } }
  | _ => b

/-- The payload of a forwarded DFP after its MAP kernel, if one takes it (R213). -/
def Blk.mapDfp (b : Blk) (p plot : Nat) (h : BitVec 256) (data : Bytes) : Checked (BitVec 256 × Bytes × Blk) :=
  let t := b.member.portTile p
  if fType h ≠ 0 then .ok (h, data, b)
  else match b.mapAt t plot (fClass h) with
    | none => .ok (h, data, b)
    | some x => match x.mapBytes data with
      | none => .error 0x44
      | some r =>
        .ok (withBytes h r.bytes.length, r.bytes,
          (b.countN t evRoundNan r.nans (some plot)).countN t evRoundSat r.sats (some plot))

/-- The header of a forwarded DFP: ENC 0, HOPS one less (R33). -/
def hopHdr (h : BitVec 256) : BitVec 256 := reDfp (setFld (setFld h 8 1 0) 56 8 (fHops h - 1))

/-- The checks of a forwarded DFP's way out: its egress port, queue and whether it goes over the open plane (R228, R300). -/
def Blk.wayOut (b : Blk) (p plot : Nat) (h : BitVec 256) (e : BitVec 64) : Checked (Nat × Nat × Bool × Blk) := do
  let (q, halfB, up, b) := b.egressOf p plot e
  let op := (b.classOf plot (fClass h)).2
  let queue := b.queueFor q plot halfB h
  need (b.admitted (fKey h) q) 0x53
  need (op || (b.portFurrow (b.member.portTile p) plot (b.member.portTile q)).isSome) 0x54
  need up 0x55
  need (!((b.port p).facing && (b.port q).facing)) 0x62
  need ((b.egQueue q queue).owner = plot) 0x56
  .ok (q, queue, op, b)

/-- A DFP for another coordinate is checked, metered, mapped and staged toward its egress port (R228–R231). -/
def Blk.transit (b : Blk) (p plot : Nat) (h : BitVec 256) (data : Bytes) : Blk :=
  let t := b.member.portTile p
  match b.lookup plot (fDst h) with
  | none => b.portDrop p 0x09 plot
  | some e =>
    match b.wayOut p plot h e with
    | .error r => b.portDrop p r plot
    | .ok (q, queue, op, b') =>
      match b'.meterDfp p plot h with
      | (b', .error r) => b'.portDrop p r plot
      | (b', .ok color) =>
        match b'.mapDfp p plot h data with
        | .error r => b'.portDrop p r plot
        | .ok (h', data', b') => (b'.forward t plot p (hopHdr h') color data' q queue op).getD (b'.portDrop p 0x54 plot)

/-- A DFP of a port in pass-through: reasons 0x54, 0x55 and 0x62, then its MAP kernel (R213, R228, R233, R300). -/
def Blk.passDfp (b : Blk) (p plot : Nat) (h : BitVec 256) (data : Bytes) : Blk :=
  let t := b.member.portTile p
  let c := (b.port p).ctrl
  if (b.portFurrow t plot (b.member.portTile c.passPeer)).isNone then b.portDrop p 0x54 plot
  else if !((b.port c.passPeer).state = .up) then b.portDrop p 0x55 plot
  else if (b.port p).facing && (b.port c.passPeer).facing then b.portDrop p 0x62 plot
  else match b.mapDfp p plot h data with
    | .error r => b.portDrop p r plot
    | .ok (h, data, b) =>
      (b.forward t plot p (hopHdr h) (fColor h) data c.passPeer c.passQueue false).getD (b.portDrop p 0x54 plot)

/-- Where a DFP that has passed every check of the frame goes. -/
def Blk.route (b : Blk) (p plot : Nat) (h : BitVec 256) (data : Bytes) : Blk :=
  if (b.port p).ctrl.pass then b.passDfp p plot h data
  else match b.checkAddr plot h with
    | .error r => b.portDrop p r plot
    | .ok h =>
      let local_ : Bool := fDst h = b.self || ((b.lookup plot (fDst h)).map lkKind).getD 0 = 3
      if local_ then
        match b.meterDfp p plot h with
        | (b, .error r) => b.portDrop p r plot
        | (b, .ok _) => b.consume p plot h data
      else b.transit p plot h data

/-- A frame received whole at an output of a port; a marker that passes its checks is traced (R228, R382). -/
def Blk.dfpIngress (b : Blk) (p : Nat) (halfB : Bool) (frame : Bytes) (good : Bool) : Blk :=
  let x := b.port p
  let t := b.member.portTile p
  if x.ctrl.mode = 0 || (halfB && x.ctrl.mode ≠ 2) then b
  else
    let b := (b.count t evRxFrames).countN t evRxBytes (frame.length / 64)
    match b.checkFrame p frame good with
    | .error r =>
      let key := match x.decap frame with
        | .dfp xs => ((b.sieveOf (ofBytes ((xs.drop 2).take 2))).map svPlot).getD 0
        | _ => 0
      b.portDrop p r (if r = 0x04 || r = 0x60 || r = 0x61 || r = 0x05 || r = 0x06 then key else 0)
    | .ok (h, data) =>
      let plot := b.plotOfKey h
      let b := if fType h = 4 && (x.ctrl.pass || (b.checkAddr plot h).isOk) then
          b.traceMark t 2 (ofBytes (data.take 4) + 2 ^ 32 * fSrc h) else b
      b.route p plot h data
def execDfpIngress (port : Nat) (halfB : Bool) (frame : Bytes) (good : Bool) (s : State) : Out :=
  s.mesh (.dfpIngress port halfB frame good) (·.dfpIngress port halfB frame good)

/-! ### DFPs over the open plane (R232) -/

/-- A DFP of the open path as its envelope announces it. It is known in its queue by its sender and, in place of a furrow,
2^16 + MSG_ID. -/
def DfpAsm.dfp (a : DfpAsm) : EgDfp :=
  let d := ofEnvelope a.src (65536 + a.msgId) a.plot false a.got
  { d with queue := a.queue, marker := fType d.hdr = 4 }

/-- An open-path DFP is whole: it becomes eligible in its queue (R232). -/
def Blk.asmWhole (b : Blk) (p : Nat) (a : DfpAsm) : Blk :=
  let fill : EgDfp → EgDfp := fun d =>
    if d.takes a.src (65536 + a.msgId) a.plot then { d with cells := cellsOfBytes (a.got.drop 64), whole := true } else d
  b.modEgQueue p a.queue fun q => { q with dfps := q.dfps.map fill }

/-- Whether the egress buffer has room for a whole open-path DFP (R232, R237). -/
def Blk.roomFor (b : Blk) (p : Nat) (d : EgDfp) : Bool :=
  (b.port p).eg.fill d.pool + d.need ≤ (b.port p).pools.size d.pool

/-- The oldest MSG_DFP packet of a port tile joins its DFP (R232). The first one carries the envelope: it takes an assembly entry
and its DFP is enqueued, or it is answered BUSY (R237). -/
def Blk.msgDfp (b : Blk) (t : Nat) : Blk :=
  if !b.member.isPortTile t then b
  else match b.takeInbox t (· = rqDfp) with
    | none => b
    | some (q, b) =>
      let p := b.member.portOf t
      let b := b.modPort p fun x => { x with cage := { x.cage with lastCell := b.clk.frame } }
      let h := q.1.hdr
      let off := mOffset q.1.body
      let due := mBytes q.1.body
      let data := (q.1.body.drop 16).take (min 128 (due - off))
      let id := mId q.1.body
      let same : DfpAsm → Bool := fun a => a.src = pSrc h && a.msgId = id
      let asm := (b.port p).eg.asm
      let go := fun (b : Blk) (a : DfpAsm) =>
        let rest := asm.filter fun x => !same x
        let b := b.answerReq t q 0 []
        if a.due ≤ a.got.length then (b.modEg p fun e => { e with asm := rest }).asmWhole p a
        else b.modEg p fun e => { e with asm := rest ++ [a] }
      if off = 0 then
        let a : DfpAsm := { src := pSrc h, msgId := id, plot := pPlot h, queue := pArg h % 64, due := due, got := data }
        if (16 ≤ asm.length && !asm.any same) || !b.roomFor p a.dfp then b.errReq t q erBusy
        else go (b.enqueue p a.dfp) a
      else match asm.find? same with
        | none => b.errReq t q erBusy
        | some a => go b { a with got := a.got ++ data }
def execMsgDfpReceive (tile : Nat) (s : State) : Out := s.mesh (.msgDfpReceive tile) (·.msgDfp tile)

end Sys2Proof.Machine
end

