-- ==== Sys2Proof/Machine/Steal.lean ====
section
/-! DEFINITION. Stealing (R119, R122–R125). -/
namespace Sys2Proof.Machine

/-! ### What can be stolen (R122, R124) -/

/-- Opcodes that can be stolen. -/
def stealable (op : Nat) : Bool := op = 0x01 || op = 0x02 || op = 0x43 || op = 0x45 || op = 0x49 || op = 0x4A

/-- Bytes that a stealable command writes back. -/
def writeBytes (c : BitVec 256) : Nat :=
  if kOp c = 0x01 || kOp c = 0x02 then kLen c
  else if kOp c = 0x4A then 4
  else if kOp c = 0x49 then runBytes (kOutFmt c) (kLen c)
  else kLen c * fraBytes (fmtWide (kInFmt c))

/-- Cells of a command: those of its input, or of its output for a fill. -/
def cellsOf (c : BitVec 256) : Nat := ceilDiv (if kOp c = 0x02 then writeBytes c else readBytes c) 64

/-- Hops of the default path between two tiles; a crossing hop counts as 4 (R123). -/
def hopsFrom (m : Member) (d : Nat) : Nat → Nat → Nat
  | 0, _ => 0
  | n + 1, t =>
    let o := m.defaultOut t d
    if t = d || o = 0 || o = outEject then 0
    else (if m.crossing t (o - 1) then 4 else 1) + hopsFrom m d n (m.neighbour t (o - 1))

/-- Whether a plot has stealing enabled at a tile. -/
def Blk.stealOn (b : Blk) (t plot : Nat) : Bool := (b.plot plot).cfg.stealEn && (b.tile t).engCtrl.stealEn

/-! ### The thief asks (R123) -/

/-- Free accumulator room of a tile in narrow entries. -/
def Tile.freeRoom (x : Tile) : Nat := 16384 - x.roomUsed

/-- The next ring entry after the last tried that names another tile of the plot, and the entries skipped. -/
def Blk.nextVictim (b : Blk) (t plot : Nat) : Nat → Nat → Nat → Option (Nat × Nat) × Nat
  | 0, _, skips => (none, skips)
  | n + 1, i, skips =>
    let c := (b.tile t).engCtrl
    let i := (i + 1) % max 1 c.ringLen
    let v := fld c.stealRing (10 * i) 10
    if b.inPlot plot v && v ≠ t then (some (i, v), skips) else b.nextVictim t plot n i (skips + 1)

/-- The payload of a STEAL request: engine kind, hops, free entries, margin (layout: the model's own). -/
def stealBody (e hops free margin : Nat) : Bytes := toBytes 16 (at_ 0 8 e + at_ 8 16 hops + at_ 24 32 free + at_ 56 16 margin)

/-- An engine idle for 64 mc asks the next tile of its ring (R123). -/
def Blk.stealSend (b : Blk) (t e : Nat) : Blk :=
  let x := b.tile t
  let u := x.stealUnit e
  match b.ownerOf t with
  | none => b
  | some plot =>
    let free := ((List.range 32).filter fun i => (b.slot t i).state = .free).length
    if !(e = 0 || e = 1) || !b.stealOn t plot || !(x.sheaves e).isEmpty || u.inFlight || x.engCtrl.ringLen = 0 || free < 4 then b
    else
      let r := b.nextVictim t plot x.engCtrl.ringLen u.tried 0
      let b := b.countN t evStealSkip r.2 (some plot)
      match r.1 with
      | none => b
      | some (i, v) =>
        let req : Req :=
          { dst := v, op := rqSteal, arg := 0, gen := none, ref := .steal e, plot := plot,
            body := stealBody e (hopsFrom b.member v 64 t) x.freeRoom x.engCtrl.margin }
        let y := b.sendReq (.tile t) .stealUnit snReq 0 req
        if y.2 = .sent then y.1.modTile t fun x => x.modSteal e fun u => { u with tried := i, inFlight := true } else y.1
def execStealRequestSend (tile engine : Nat) (s : State) : Out := s.mesh (.stealRequestSend tile engine) (·.stealSend tile engine)

/-! ### The victim lends (R123–R125) -/

/-- The candidates of an engine, youngest first. -/
def Tile.candidates (x : Tile) (e plot : Nat) : List Sheaf :=
  ((x.sheaves e).filter fun s =>
    s.state = .queued && kSteal s.cmd && stealable (kOp s.cmd) && !s.noSteal && s.plot = plot).reverse

/-- Whether a sheaf can start now, as being lent counts as its start: its semaphore, and for ORDER no earlier sheaf (R101, R125). -/
def Tile.lendable (x : Tile) (mc e : Nat) (s : Sheaf) : Bool :=
  x.semReady mc s.cmd && mayFollow ((x.sheaves e).takeWhile fun y => y.sid ≠ s.sid) s

/-- A sheaf is lent: it starts, and takes its semaphore (R101, R125). -/
def Tile.lendOne (x : Tile) (mc e : Nat) (s : Sheaf) : Tile :=
  let x := if kWaitEn s.cmd then x.semTake mc (kWaitSem s.cmd) 1 else x
  x.modSheaf e s.sid fun y => { y with state := .lent }

/-- Whether the thief's prediction p, in mc from now, admits a sheaf (R124), and the cost it adds. -/
def lendCost (e : Nat) (c : BitVec 256) : Nat :=
  ceilDiv (readBytes c + writeBytes c) 28 + ceilDiv (cellsOf c) 2 + (if e = 1 then 6 else 4)
def Blk.admitsLend (b : Blk) (e free margin p : Nat) (s : Sheaf) : Bool :=
  ahead s.deadline b.clk.frame && p + lendCost e s.cmd + margin ≤ b.mcUntil s.deadline &&
    (!isFraSheaf (kOp s.cmd) || oasisRoom (fmtWide (kInFmt s.cmd)) (kLen s.cmd) ≤ free)

/-- The candidates that the victim lends, at most so many, and the tile after (R123–R125). -/
def Blk.lendList (b : Blk) (e free margin : Nat) : Nat → Nat → Tile → List Sheaf → Tile × List Sheaf
  | _, _, x, [] => (x, [])
  | limit, p, x, s :: l =>
    if limit = 0 then (x, [])
    else if x.lendable b.clk.mc e s && b.admitsLend e free margin p s then
      let r := b.lendList e free margin (limit - 1) (p + lendCost e s.cmd) (x.lendOne b.clk.mc e s) l
      (r.1, s :: r.2)
    else b.lendList e free margin limit p x l

/-- A lent command as the thief gets it: OPA and OPB that name SRAM absolute in the victim (R103, R123; log 156). -/
def lentCmd (s : Sheaf) : BitVec 256 :=
  let a := setFld s.cmd 64 32 (sramAddr s.base (kOpa s.cmd))
  if isFraSheaf (kOp s.cmd) then a else setFld a 96 32 (sramAddr s.base (kOpb s.cmd))

/-- The lend reply: a header of lend ids and the count, then the commands (layout: log 156). -/
def lendBody (ids : List Nat) (cmds : List (BitVec 256)) : Bytes :=
  padTo 8 (ids.flatMap (toBytes 2)) ++ toBytes 8 ids.length ++ cmds.flatMap fun c => toBytes 32 c.toNat

/-- The oldest STEAL request of a tile is answered with the sheaves it may have (R123, R124). -/
def Blk.stealReceive (b : Blk) (t : Nat) : Blk :=
  match b.takeInbox t (· = rqSteal) with
  | none => b
  | some (q, b) =>
    let v := ofBytes (q.1.body.take 16)
    let e := v % 256
    let plot := pPlot q.1.hdr
    let cs := if b.stealOn t plot && e < 2 then (b.tile t).candidates e plot else []
    let r := b.lendList e (v / 2 ^ 24 % 2 ^ 32) (v / 2 ^ 56 % 2 ^ 16) (min 4 (cs.length / 2))
      (2 * (3 * (v / 256 % 65536) + 16)) (b.tile t) cs
    let first := r.1.es.nextLend
    let ids := (List.range r.2.length).map fun i => (first + i) % 65536
    let b := b.setTile t { r.1 with es := { r.1.es with
          nextLend := (first + r.2.length) % 65536,
          lent := r.1.es.lent ++ (r.2.zip ids).map fun y => { lendId := y.2, engine := e, sid := y.1.sid, thief := pSrc q.1.hdr } } }
    b.answerReq t q 0 (lendBody ids (r.2.map lentCmd))
def execStealRequestReceive (tile : Nat) (s : State) : Out := s.mesh (.stealRequestReceive tile) (·.stealReceive tile)

/-- Sheaf i of a LEND reply, as the thief keeps it. -/
def borrowedOf (p : Packet) (e i : Nat) : Borrowed :=
  { victim := pSrc p.hdr, lendId := ofBytes ((p.body.drop (2 * i)).take 2), engine := e,
    cmd := BitVec.ofNat 256 (ofBytes ((p.body.drop (16 + 32 * i)).take 32)), plot := pPlot p.hdr, asked := 0, outst := 0, got := [],
    ran := false, result := [], put := 0, failed := false }

/-- The thief takes a LEND reply (R123). -/
def Blk.lendTake (b : Blk) (t e : Nat) : Blk :=
  match ((b.tile t).stealUnit e).lend with
  | none => b
  | some p =>
    let n := ofBytes ((p.body.drop 8).take 8)
    let b := b.modTile t fun x => x.modSteal e fun u => { u with lend := none, inFlight := false }
    if n = 0 then b.count t evStealEmpty (some (pPlot p.hdr))
    else b.modTile t fun x => { x with es := { x.es with
      borrowed := x.es.borrowed ++ (List.range (min 4 n)).map (borrowedOf p e) } }
def execLendReceive (tile engine : Nat) (s : State) : Out := s.mesh (.lendReceive tile engine) (·.lendTake tile engine)

/-! ### The thief reads and writes at the victim (R119, R123) -/

/-- Whether a result goes back as bytes, not as accumulator entries. -/
def Borrowed.bytesBack (r : Borrowed) : Bool := r.ran && !isFraSheaf (kOp r.cmd)

/-- The next remote read or write of a borrowed sheaf: part k of its operand, then of its result. -/
def Borrowed.next (r : Borrowed) (id : Nat) : Option Req :=
  let get := r.asked
  let put := r.put
  if r.failed then none
  else if !r.ran then
    if get < ceilDiv (readBytes r.cmd) 128 then
      some { dst := r.victim, op := rqGet, arg := kOpa r.cmd + 128 * get, gen := none, plot := r.plot,
             ref := .stolen r.victim r.lendId false get,
             body := msgWord 0 (min 128 (readBytes r.cmd - 128 * get)) id 0 0 }
    else none
  else if r.bytesBack && 128 * put < r.result.length then
    let data := (r.result.drop (128 * put)).take 128
    some { dst := r.victim, op := rqPut, arg := kOpb r.cmd + 128 * put, gen := none, plot := r.plot,
           ref := .stolen r.victim r.lendId true put, body := msgWord 0 data.length id 0 0 ++ data }
  else none

/-- A borrowed sheaf has sent a read or a write. -/
def Borrowed.sentOne (r : Borrowed) : Borrowed :=
  if r.ran then { r with put := r.put + 1, outst := r.outst + 1 } else { r with asked := r.asked + 1, outst := r.outst + 1 }

/-- The steal unit offers the next read or write of the oldest borrowed sheaf that has one (R119). -/
def Blk.injectStolen (b : Blk) (t : Nat) : Blk :=
  let id := (b.tile t).ms.msgId
  match (b.tile t).es.borrowed.find? fun r => (r.next id).isSome with
  | none => b
  | some r => match r.next id with
    | none => b
    | some q =>
      let x := b.sendReq (.tile t) .stealUnit snReq 0 q
      match x.2 with
      | .sent => x.1.modBorrowed t r.sentOne
      | .refused => x.1.modBorrowed t { r with failed := true }
      | _ => x.1

/-- A read or write of a borrowed sheaf is answered; an error makes the sheaf the victim's again (R125). -/
def Blk.stolenAnswer (b : Blk) (t victim id : Nat) (put : Bool) (k : Nat) (a : Except Nat Bytes) : Blk :=
  match (b.tile t).es.borrowed.find? fun r => r.victim = victim && r.lendId = id with
  | none => b
  | some r =>
    let r := { r with outst := r.outst - 1 }
    b.modBorrowed t (match a with
      | .error _ => { r with failed := true }
      | .ok xs => if put then r else { r with got := r.got.put k xs })

/-! ### The result returns (R123, R125, R141) -/

/-- Whether a borrowed sheaf can be returned: failed, or run with every byte written back. -/
def Borrowed.done (r : Borrowed) : Bool :=
  r.outst = 0 && (r.failed || (r.ran && (!r.bytesBack || r.result.length ≤ 128 * r.put)))

/-- The victim takes back a sheaf to run it itself at the head of its queue, no longer stealable (R125). -/
def Blk.takeBack (b : Blk) (v e sid : Nat) : Blk :=
  b.modSheaf v e sid fun x => { x with state := .back, noSteal := true }

/-- What a returned sheaf still does at the victim: the entries of an add merge into the oasis it names, which may be gone (R123,
R141). -/
def Blk.mergeStolen (b : Blk) (v : Nat) (s : Sheaf) (xs : Bytes) : Chk Blk := do
  if isFraSheaf (kOp s.cmd) then
    let o ← b.oasisOf v s.cmd (·.takes (kInFmt s.cmd))
    b.mergeInto v s.plot (kOasis s.cmd) o (kFirst s.cmd) (wireRun o.wide (kLen s.cmd) xs)
  else .ok b

/-- The victim takes a returned result (R125, R141). -/
def Blk.applyStolen (b : Blk) (thief v : Nat) (r : Borrowed) (s : Sheaf) : Blk :=
  if r.failed then b.takeBack v r.engine s.sid
  else match b.mergeStolen v s r.result with
    | .error e => b.finished v r.engine s e.1 e.2
    | .ok b' => ((b'.finished v r.engine s stOk 0).count thief evStealGot (some s.plot)).count v evStealGiven (some s.plot)

/-- A thief returns the whole result of a lent sheaf (R123, R125). -/
def Blk.stolenReturn (b : Blk) (t id : Nat) : Blk :=
  match (b.tile t).es.borrowed.find? fun x => x.lendId = id && x.done with
  | none => b
  | some r =>
    let b := b.modTile t fun x => { x with es := { x.es with borrowed := x.es.borrowed.filter fun y => !r.same y } }
    match (b.tile r.victim).es.lent.find? fun l => l.lendId = id && l.thief = t with
    | none => b.count r.victim evStealLate (some r.plot)
    | some l =>
      let b := b.modTile r.victim fun x => { x with es := { x.es with lent := x.es.lent.filter fun y => y ≠ l } }
      match (b.tile r.victim).sheaf? l.engine l.sid with
      | none => b
      | some s => b.applyStolen t r.victim r s
def execStolenResultReturn (tile lendId : Nat) (s : State) : Out :=
  s.mesh (.stolenResultReturn tile lendId) (·.stolenReturn tile lendId)

end Sys2Proof.Machine
end

