-- ==== Sys2Proof/Machine/Replies.lean ====
section
/-! DEFINITION. Replies and timeouts at the initiator: what each does to the slot and to whom it serves (R35, R93, R95, R97,
R114, R186, R208, R232, R302, R397). -/
namespace Sys2Proof.Machine

/-- What a slot's request has come to: an error code, or the bytes of a reply. -/
abbrev Answer := Except Nat Bytes

/-- The bytes of a DATA reply: ARG holds their number minus 1 (R156). -/
def dataOf (p : Packet) : Bytes := p.body.take (pArg p.hdr + 1)

/-- The answer that a real reply holds. -/
def answerOf (p : Packet) : Answer := if pErr p.hdr then .error (errCode (pArg p.hdr % 256)) else .ok (dataOf p)

/-- The model's own code for an answer STATE that its target gave for a seal: it never goes on the wire (R96, R282). -/
def erSealed : Nat := 0x100

/-- The status of a command whose request failed: STATE with SEALED (R282), TIMEOUT, PLOT, MEM for a move.hbm.read or move.hbm.write that an HBM attach tile
answered with STATE, else REMOTE with the code (R106, R114, R397). -/
def failStatus (atHbm : Bool) (code : Nat) : Nat × Nat :=
  if code = erSealed then (stState, dtSealed)
  else if code = erTimeout then (stTimeout, 0)
  else if code = erPlot then (stPlot, 0)
  else if atHbm && code = erState then (stMem, 0)
  else (stRemote, code)

/-- Where the bytes of request k of a command go: SRAM address and count (R106, R107). -/
def Blk.readDest (b : Blk) (e k : Nat) (s : Sheaf) : Option (Nat × Nat) :=
  if e = 0 && (kOp s.cmd = 0x03 || kOp s.cmd = 0x05) then b.moverDest s k
  else if e = 3 && kOp s.cmd = 0xC2 then some (sramAddr s.base (kOpc s.cmd) + 128 * k, min 128 (kLen s.cmd - 128 * k))
  else none

/-- A request of a command is answered. -/
def Blk.sheafAnswer (b : Blk) (t e sid k target : Nat) (a : Answer) : Blk :=
  match (b.tile t).sheaf? e sid with
  | none => b
  | some s =>
    let back := fun (s : Sheaf) => { s with outst := s.outst - 1 }
    match a with
    | .error c =>
      let st := failStatus ((kOp s.cmd = 0x03 || kOp s.cmd = 0x04) && b.member.isHbmTile target) c
      b.modSheaf t e sid fun s => ((back s).fail st.1 st.2).settle
    | .ok xs =>
      let b := match b.readDest e k s with
        | some (d, n) => b.writeSram t d (padTo n xs)
        | none => b
      b.modSheaf t e sid fun s => (back s).settle

/-- A packet of the oldest open-path DFP is answered; a refusal drops the DFP under reason 0x5E (R232). -/
def Blk.dfpAnswer (b : Blk) (t : Nat) (a : Answer) : Blk :=
  match (b.tile t).net.dfpOut with
  | [] => b
  | d :: ds =>
    let bad : Bool := !a.isOk
    let port := if b.member.isPortTile t then some (b.member.portOf t) else none
    let b := if bad && !d.failed then b.drop t 0x5E port (some d.plot) else b
    let d := { d with outst := d.outst - 1, failed := d.failed || bad }
    let whole : Bool := d.outst = 0 && (d.failed || max 1 (parts128 d.data.length) ≤ d.issued)
    b.modTile t fun x => { x with net := { x.net with dfpOut := if whole then ds else d :: ds } }

/-- Hands an answer to whom the slot serves. -/
def Blk.serve (b : Blk) (t target : Nat) (ref : ReqRef) (a : Answer) (p : Option Packet) : Blk :=
  match ref with
  | .sheaf e sid k => b.sheafAnswer t e sid k target a
  | .steal e => b.modTile t fun x => x.modSteal e fun u =>
      if a.isOk then { u with lend := p } else { u with inFlight := false }
  | .stolen v id put k => b.stolenAnswer t v id put k a
  | .dfp => b.dfpAnswer t a
  | .khdr slot rank serial => if a.isOk then b else b.rankLost t slot rank serial
  | .repair plot step chunk part owner k => b.collPart plot step chunk part owner k a.toOption
  | .admin => b

/-! ### Requests offered (R93) -/

/-- The oldest GET of a collective's repairs (R186). One that the router refuses is answered at once (R40). -/
def Blk.injectGet (b : Blk) (t : Nat) : Blk :=
  match (b.tile t).net.getOut with
  | [] => b
  | g :: gs =>
    let r : Req :=
      { dst := g.target, op := rqGet, arg := g.addr, gen := none, ref := g.ref, plot := g.plot,
        body := msgWord 0 g.bytes (b.tile t).ms.msgId 0 0 }
    let x := b.sendReq (.tile t) .queue snReq 0 r
    let pop := fun (b : Blk) => b.modTile t fun y => { y with net := { y.net with getOut := gs } }
    match x.2 with
    | .sent => pop x.1
    | .refused => (pop x.1).serve t g.target g.ref (.error erPlot) none
    | _ => x.1

/-- A request is offered by one requester (R93). -/
def Blk.requestInject (b : Blk) (t : Nat) : Requester → Blk
  | .mover => b.injectEngine t 0 .mover (b.moverReq t)
  | .queue =>
    if ((b.tile t).sheaves 3).any issuing then b.injectEngine t 3 .queue fun s => some (b.queueReq t s) else b.injectGet t
  | .stealUnit => b.injectStolen t
  | .ingress => b.injectDfp t
  | .home => b.injectKhdr t
  | .steward =>
    match takeFirst (fun (x : Bool × Nat × Bytes) => x.2.1 = t) b.quorum.net with
    | some (x, rest) => b.injectQuorum x rest
    | none => b.injectAdmin .steward .steward 0x01 t
  | .vault => b.injectAdmin .vault .vault 0x02 t
  | .scrubber => b.injectPreempt 0xE0 b.opn.scrubFlight t fun b =>
      { b with opn := { b.opn with scrubFlight := b.opn.scrubFlight + 1 } }
  | .debug => if b.debugRefused t then b else b.injectPreempt 0xF0 b.opn.debugFlight t fun b =>
      { b with opn := { b.opn with debugFlight := b.opn.debugFlight + 1 } }
def execRequestInject (tile : Nat) (who : Requester) (s : State) : Out :=
  s.mesh (.requestInject tile who) (·.requestInject tile who)

/-- Whose slots a reply names: an admin reply is the steward's or the vault's, but for one to a quorum DFP that a port tile sent
inward (R93; opcodes: log 14). -/
def replyOwner (t n : Nat) (p : Packet) : SlotOwner :=
  if n ≠ snAdmin || pOp p.hdr = 0x84 then .tile t else if pOp p.hdr = 0x82 then .vault else .steward

/-- Whether a reply comes from where the slot expects it: the recorded target, or its image in the graft map during the hold
(R97, R302). -/
def Blk.fromTarget (b : Blk) (x : Slot) (src : Nat) : Bool :=
  let g := (b.plot x.plot).graft
  let m := g.map.getD x.target 0#16
  src = x.target || (g.holding && flag m 10 && fld m 0 10 = src)

/-- The oldest reply in an EJECT buffer meets its slot (R97, R356). -/
def Blk.replyArrival (b : Blk) (t n : Nat) : Blk :=
  match takeFirst (fun (x : Packet × Nat) => !isRequest n x.1) (b.ejectBuf t n) with
  | none => b
  | some (q, rest) =>
    let p := q.1
    let b := b.setEject t n rest
    let o := replyOwner t n p
    let x := b.slot (slotKey o) (pSlot p.hdr)
    if b.clusterTested (clusterOf t) || x.state ≠ .waiting || !b.fromTarget x (pSrc p.hdr) then
      b.count t evLateReply (some (pPlot p.hdr))
    else (b.setSlot (slotKey o) (pSlot p.hdr) Slot.fresh).serve t x.target x.ref
      (if x.sealHit && pErr p.hdr then .error erSealed else answerOf p) (some p)
def execReplyArrival (tile subnet : Nat) (s : State) : Out :=
  s.mesh (.replyArrival tile subnet) (·.replyArrival tile subnet)

/-- T_reply in mc (R95). -/
def tReply : Nat := 69632

/-- The timer of a WAITING slot expires: a synthesized error reply is delivered (R95). -/
def Blk.reqTimeout (b : Blk) (o : SlotOwner) (i : Nat) : Blk :=
  let k := slotKey o
  let t := slotTile o
  let x := b.slot k i
  if x.state ≠ .waiting then b
  else
    let b := (b.count t evReqTimeout (some x.plot)).raiseP 0x07 x.plot (some t) i x.target
    let b := b.setSlot k i (if tReply ≤ x.timeout then Slot.fresh else { x with state := .quarantine })
    b.serve t x.target x.ref (.error erTimeout) none
def execReqTimeout (owner : SlotOwner) (slot : Nat) (s : State) : Out :=
  s.mesh (.reqTimeout owner slot) (·.reqTimeout owner slot)

/-- T_reply has passed since injection: a quarantined slot is FREE (R95). -/
def Blk.quarantineEnd (b : Blk) (o : SlotOwner) (i : Nat) : Blk :=
  if (b.slot (slotKey o) i).state = .quarantine then b.setSlot (slotKey o) i Slot.fresh else b
def execSlotQuarantineEnd (owner : SlotOwner) (slot : Nat) (s : State) : Out :=
  s.mesh (.slotQuarantineEnd owner slot) (·.quarantineEnd owner slot)

end Sys2Proof.Machine
end

