-- ==== Sys2Proof/Machine/Plots.lean ====
section
/-! DEFINITION. Plots: configuration, bind, rebind, teardown, scrubs and the placement generation (R262–R272, R301). -/
namespace Sys2Proof.Machine

/-! ### States and maps -/

/-- The value of a plot state (R264). -/
def PlotState.code : PlotState → Nat
  | .free => 0
  | .binding => 1
  | .bound => 2
  | .rebinding => 3
  | .teardown => 4
  | .scrubbing => 5

/-- A plot changes state, with its event (R264). -/
def Blk.plotTo (b : Blk) (p : Nat) (s : PlotState) : Blk :=
  (b.modPlot p fun x => { x with state := s }).raiseS 0x10 p none ((b.plot p).state.code + 256 * s.code)

/-- The tiles of a map, rising. -/
def tilesOf (m : BitVec 1024) : List Nat := (List.range 1024).filter fun t => flag m t

/-! ### Checks of a bind (R265) -/

def rsDone : Nat := 0x00
def rsState : Nat := 0x01
def rsTiles : Nat := 0x02
def rsHbm : Nat := 0x03
def rsQueueQuota : Nat := 0x04
def rsCluster : Nat := 0x05
def rsIdentity : Nat := 0x06

/-- Whole granules of a die's stack. -/
def dieGranules : Nat := hbmBytes / granule

/-- Whether two runs meet. -/
def runsMeet (a n c m : Nat) : Bool := 0 < n && 0 < m && a < c + m && c < a + n

/-- Whether a run of granules of a die is free of every other plot that is not FREE, and of every scrub (R265). -/
def Blk.hbmFree (b : Blk) (p d base n : Nat) : Bool :=
  b.plots.all fun x =>
    (x.1 = p || x.2.state = .free || !runsMeet (x.2.cfg.range d).1 (x.2.cfg.range d).2 base n) &&
    !x.2.scrubs.any fun s => s.1 = d && runsMeet s.2.1 s.2.2 base n

/-- Whether a range may be a plot's (R265 reason 0x03). -/
def Blk.hbmOk (b : Blk) (p d base n : Nat) : Bool :=
  n = 0 || (d < b.member.dies && base + n ≤ dieGranules && b.hbmFree p d base n)

/-- Whether a plot may have a map of tiles (R265 reason 0x02). -/
def Blk.tilesOk (b : Blk) (p : Nat) (m : BitVec 1024) : Bool :=
  let ts := tilesOf m
  !ts.isEmpty && ts.all fun t =>
    b.member.hasTile t && t ≠ sysTile && (b.ownerOf t = none || b.ownerOf t = some p) && !(b.tile t).zeroing

/-- A bind or rebind is checked in the order of the table (R265, R267). -/
def Blk.bindCheck (b : Blk) (p : Nat) (m : BitVec 1024) (from_ : PlotState) : Nat :=
  let x := b.plot p
  if p = 0 || x.state ≠ from_ then rsState
  else if !b.tilesOk p m then rsTiles
  else if !(List.range 4).all fun d => b.hbmOk p d (x.cfg.range d).1 (x.cfg.range d).2 then rsHbm
  else if 16 * (tilesOf m).length < x.cfg.queueQuota then rsQueueQuota
  else if (tilesOf m).any fun t => b.cluster (clusterOf t) ≠ .active || b.clusterTested (clusterOf t) then rsCluster
  else if x.cfg.owner.any (· ≠ 0#8) && !b.vault.identity then rsIdentity
  else rsDone

/-! ### Zeroing (R266) -/

/-- The tile's part of zeroing: accumulators, weights, semaphores, queues, handlers, fallback, assemblies, contexts, seals. -/
def Tile.zeroed (x : Tile) : Tile :=
  { x with
    es := { EngSt.fresh with nextSid := x.es.nextSid, nextLend := x.es.nextLend }
    net := { x.net with inbox := [], khdrOut := [], getOut := [], dfpOut := x.net.dfpOut.filter fun d => d.outst = 0 }
    ms := { MsgSt.fresh with msgId := x.ms.msgId }
    oases := []
    weights := none
    pinned := false
    sealed := []
    zeroing := false }

/-- A tile is zeroed: with it its SRAM and its request slots (R266). -/
def Blk.zeroTile (b : Blk) (t : Nat) : Blk :=
  let b := (b.modTile t Tile.zeroed).zeroSram t 0 sramBytes
  { b with opn := { b.opn with slots := b.opn.slots.drop fun k => k / 32 = t } }

/-- Tiles of a map are being zeroed. -/
def Blk.zeroStart (b : Blk) (ts : List Nat) : Blk :=
  b.each ts fun b t => b.modTile t fun x => { x with zeroing := true }

/-! ### Work stops (R267, R268, R270) -/

/-- Every list of a plot on a tile is aborted, and what has started completes ABORTED (R268 step 2). -/
def Blk.stopTile (b : Blk) (p t : Nat) : Blk :=
  let b := b.each (b.tile t).es.ctxs fun b x => if x.2.plot = p then b.abortCtx t x.1 else b
  let b := b.each (List.range 4) fun b e =>
    b.each ((b.tile t).sheaves e) fun b s =>
      if s.plot = p then b.complete t e { s with status := BitVec.ofNat 8 stAborted, detail := 0#8 } else b
  b.modTile t fun x => { x with es := { x.es with launchQ := x.es.launchQ.filter fun l => l.plot ≠ p } }

/-- DFPs staged at ingress and not begun are discarded and counted (R270). -/
def Blk.unstage (b : Blk) (p : Nat) : Blk :=
  b.each b.sown.portq fun b x =>
    let gone := x.2.filter fun d => d.plot = p && !d.begun
    let n := (gone.map fun d => d.cells.length).sum
    if n = 0 then b
    else
      let b := b.countN (x.1 / 2 / 4096 / 256) evStageFlush n (some p)
      { b with sown := { b.sown with portq := b.sown.portq.put x.1 (x.2.filter fun d => !(d.plot = p && !d.begun)) } }

/-- DFPs of a plot in egress queues, not begun, are discarded (R270). -/
def Blk.dropQueued (b : Blk) (p : Nat) : Blk :=
  b.each (List.range b.member.ports) fun b o => b.discard o 0x5F fun q d => (b.egQueue o q).owner = p || d.plot = p

/-- The egress queues that a plot owns are flushed and have no owner (R268 step 4; log 163). -/
def Blk.flushEgress (b : Blk) (p : Nat) : Blk :=
  b.each (List.range b.member.ports) fun b o =>
    let b := b.discard o 0x5F fun q d => (b.egQueue o q).owner = p || d.plot = p
    b.modEg o fun e => { e with queues := e.queues.mapV fun _ q => if q.owner = p then { q with owner := 0 } else q }

/-- The kernels of a plot are unbound without emission (R202, R268 step 1). -/
def Blk.unbindKernels (b : Blk) (p : Nat) : Blk :=
  b.each b.tiles fun b x =>
    b.each (x.2.ks.kernels.filter fun k => k.2.plot = p) fun b k => (b.kernelFree x.1 k.2).kerBind p x.1 k.2.cls 0x07

/-- A plot's collectives end and send their ABORT, behind which no DFP of the plot is queued any more (R190, R268, R270; log 163). -/
def Blk.endColls (b : Blk) (p collStatus collCause : Nat) : Blk := (b.dropQueued p).collEndIf p collStatus collCause fun _ => true

/-- Steps 2 and 3 of R268 for every tile that a plot owns, its streams and its capsule requests. -/
def Blk.stopWork (b : Blk) (p collStatus collCause : Nat) : Blk :=
  let b := b.endColls p collStatus collCause
  let b := b.each (tilesOf (b.plot p).owned) fun b t => b.stopTile p t
  let b := (b.unstage p).streamStopIf fun _ s => s.plot = p
  let head : Bool := b.vault.capQ.head?.any fun c => c.plot = p
  let b : Blk := { b with vault := { b.vault with
    capQ := b.vault.capQ.filter fun c => c.plot ≠ p
    sessions := b.vault.sessions.mapV fun _ s => if s.claim = some p then { s with claim := none } else s } }
  if head then b.capBegin else b

/-! ### BIND, REBIND, TEARDOWN (R266–R268) -/

/-- The next bind serial goes to a plot. -/
def Blk.takeSerial (b : Blk) (p : Nat) : Blk :=
  { b.modPlot p fun x => { x with bindSerial := b.bindCount + 1 } with bindCount := b.bindCount + 1 }

/-- A command's result (R263 entry .0C). -/
def Blk.plotResult (b : Blk) (p r : Nat) : Blk := b.modPlot p fun x => { x with result := BitVec.ofNat 8 r }

/-- COMMAND BIND (R265, R266): the map goes to the routers, the keys are empty, zeroing starts. -/
def Blk.bind_ (b : Blk) (p : Nat) : Blk :=
  let r := b.bindCheck p (b.plot p).cfg.tiles .free
  let b := b.plotResult p r
  if r ≠ rsDone then b
  else
    let m := (b.plot p).cfg.tiles
    let b := (b.plotTo p .binding).modPlot p fun x =>
      { x with owned := m, keys := PlotKeys.fresh, graft := { x.graft with gen := 0#16, holding := false } }
    (b.zeroStart (tilesOf m)).takeSerial p
def Blk.bindDone (b : Blk) (p : Nat) : Blk :=
  if (b.plot p).state = .binding then (b.each (tilesOf (b.plot p).owned) Blk.zeroTile).plotTo p .bound else b

/-- COMMAND REBIND (R265, R267, R301): a second one ends the hold at once. -/
def Blk.rebind (b : Blk) (p : Nat) : Blk :=
  let next := (b.plot p).cfg.tilesNext
  let r := b.bindCheck p next .bound
  let b := b.plotResult p r
  if r ≠ rsDone then b
  else
    let b := b.plotTo p .rebinding
    let b := b.stopWork p 2 0x14
    let b := (b.unbindKernels p).modPlot p fun x => { x with graft := { x.graft with holding := false }, moving := next }
    b.zeroStart ((tilesOf next).filter fun t => !b.owns p t)

/-- Sealed ranges do not survive a rebind: those of a tile that stays are zeroed (R267, R282). -/
def Blk.unsealTile (b : Blk) (t : Nat) : Blk :=
  (b.each (b.tile t).sealed fun b r => b.zeroSram t r.1 r.2).modTile t fun x => { x with sealed := [] }

/-- A REBIND completes (R267, R301): leaving and joining tiles are zeroed, the plot is BOUND with the next generation on the
map that was checked. -/
def Blk.rebindDone (b : Blk) (p : Nat) : Blk :=
  let x := b.plot p
  if x.state ≠ .rebinding then b
  else
    let next := x.moving
    let old := tilesOf x.owned
    let b := b.flushEgress p
    let b := b.each (old.filter fun t => !flag next t) Blk.zeroTile
    let b := b.each ((tilesOf next).filter fun t => !flag x.owned t) Blk.zeroTile
    let b := b.each (old.filter fun t => flag next t) Blk.unsealTile
    let b := b.modPlot p fun x =>
      { x with owned := next, cfg := { x.cfg with tiles := next },
               graft := { x.graft with gen := x.graft.gen + 1, holding := true, old := x.owned },
               keys := { x.keys with sealedFlag := false } }
    (b.takeSerial p).plotTo p .bound

/-- A sieve entry is made invalid (R268 step 1). -/
def Blk.dropKeys (b : Blk) (p : Nat) : Blk :=
  { b with traf := { b.traf with sieve := b.traf.sieve.mapV fun _ e => if svPlot e = p then setFld e 24 1 0 else e } }

/-- COMMAND TEARDOWN (R268 steps 1 to 3). The collectives end while the plot's sieve entries still stand, so that ABORT goes out. -/
def Blk.teardown (b : Blk) (p : Nat) : Blk :=
  if p = 0 || (b.plot p).state ≠ .bound then b.plotResult p rsState
  else
    let b := ((b.plotResult p rsDone).endColls p 3 0x17).plotTo p .teardown
    let b := ((b.dropKeys p).unbindKernels p).stopWork p 3 0x17
    b.modPlot p fun x => { x with host := { x.host with doorbells := [] }, graft := { x.graft with holding := false } }

/-- The last scrub of a plot in SCRUBBING has ended: it is FREE (R268 step 7). -/
def Blk.scrubCheck (b : Blk) (p : Nat) : Blk :=
  if (b.plot p).state = .scrubbing && (b.plot p).scrubs.isEmpty then (b.plotTo p .free).raiseS 0x11 p none else b

/-- Whether work of a plot is still open that R270 lets finish before its tiles, keys and ranges go: a host DMA write not yet
accepted, a frame in transmission, an HBM transfer given to a controller. -/
def Blk.plotOpen (b : Blk) (p : Nat) : Bool :=
  (b.host.dma.any fun x => match x.2 with
    | .write k => pPlot k.hdr = p
    | .read _ => false) ||
  (b.ports.any fun x => x.2.eg.tx.any (fun d => d.1.plot = p) || x.2.eg.txB.any fun d => d.1.plot = p) ||
  b.hbma.any fun h => h.2.reqs.any fun r => r.2.plot = p

/-- Steps 4 to 7 of R268: egress queues flushed, keys erased, tiles zeroed and released, the host window unmapped, scrubs started; they wait for what
R270 lets finish (log 155). -/
def Blk.released (b : Blk) (p : Nat) : Blk :=
  let x := b.plot p
  if x.state ≠ .teardown || b.plotOpen p then b
  else
    let b := b.each (tilesOf x.owned) Blk.zeroTile |>.flushEgress p
    let ranges := ((List.range 4).map fun d => (d, (x.cfg.range d).1, (x.cfg.range d).2)).filter fun r => 0 < r.2.2
    let b := b.modPlot p fun x =>
      { x with owned := 0#1024, keys := PlotKeys.fresh, scrubs := x.scrubs ++ ranges,
               host := { x.host with dmaValid := false }, hbmCut := none }
    (b.plotTo p .scrubbing).scrubCheck p

/-- Whether a transfer of a plot that was in flight at the last cut is still open on a die: a request with its slot, one given to
the controller, or a stream (R270, R272). -/
def Blk.cutOpen (b : Blk) (p d : Nat) : Bool :=
  (b.plot p).hbmCut.any (fun m => b.opn.slots.any fun s =>
    s.2.state = .waiting && s.2.plot = p && s.2.who = .mover && s.2.injected ≤ m && b.member.isHbmTile s.2.target &&
      b.member.dieOf s.2.target = d) ||
  b.hbma.any fun h => b.member.dieOf h.1 = d &&
    ((h.2.reqs.any fun r => r.2.plot = p) || h.2.streams.any fun s => s.2.plot = p)

/-- The scrub of one range has ended: its bytes are zero and it is free (R271). No scrub starts before the transfers that were in
flight have completed (R270, R272). -/
def Blk.scrubDone (b : Blk) (p i : Nat) : Blk :=
  match (b.plot p).scrubs[i]? with
  | none => b
  | some (d, base, n) =>
    if b.cutOpen p d then b else
    let b := { b with hbm := b.hbm.zero (2 ^ 36 * d + granule * base) (granule * n) }
    (b.modPlot p fun x => { x with scrubs := x.scrubs.eraseIdx i }).scrubCheck p

/-- A write of COMMAND (R263): the plot selected by the channel. -/
def Blk.plotCommand (b : Blk) (p v : Nat) : Od :=
  if p = 0 then Od.no (b.plotResult 0 rsState) abState
  else match v with
    | 1 => let c := b.bind_ p
           (c, if (c.plot p).result = 0#8 then abNone else abState)
    | 2 => let c := b.rebind p
           (c, if (c.plot p).result = 0#8 then abNone else abState)
    | 3 => let c := b.teardown p
           (c, if (c.plot p).result = 0#8 then abNone else abState)
    | _ => Od.no b abRange
def execPlotBind (ch : Channel) (s : State) : Out :=
  s.od (.plotBind ch) ch false fun b => b.plotCommand (b.sels ch).plot 1
def execPlotRebind (ch : Channel) (s : State) : Out :=
  s.od (.plotRebind ch) ch false fun b => b.plotCommand (b.sels ch).plot 2
def execPlotTeardown (ch : Channel) (s : State) : Out :=
  s.od (.plotTeardown ch) ch false fun b => b.plotCommand (b.sels ch).plot 3
def execPlotBindDone (plot : Nat) (s : State) : Out := s.mesh (.plotBindDone plot) (·.bindDone plot)
def execPlotRebindDone (plot : Nat) (s : State) : Out := s.mesh (.plotRebindDone plot) (·.rebindDone plot)
def execTeardownTilesReleased (plot : Nat) (s : State) : Out := s.mesh (.teardownTilesReleased plot) (·.released plot)
def execHbmScrubDone (plot range : Nat) (s : State) : Out := s.mesh (.hbmScrubDone plot range) (·.scrubDone plot range)

/-! ### Configuration and quotas (R263, R272) -/

/-- A write of QUEUE_QUOTA, at most 16 queues per tile of the member (R1, R263): a cut below the bound queues of a BOUND plot is told (R272). -/
def Blk.writeQueueQuota (b : Blk) (p q : Nat) : Od :=
  if 16 * b.member.tileCount < q then Od.no b abRange
  else
    let whole : Bool := b.bound p && q < b.boundQueues p
    let b := b.modPlot p fun x => { x with cfg := { x.cfg with queueQuota := q } }
    Od.ok (if whole then b.raiseS 0x12 p none 1 0 else b)
def execQueueQuotaWrite (ch : Channel) (quota : BitVec 16) (s : State) : Out :=
  s.od (.queueQuotaWrite ch quota) ch false fun b => b.writeQueueQuota (b.sels ch).plot quota.toNat

/-- Bits of HBM that a write sets. -/
def hbmMask : BitVec 128 := BitVec.ofNat 128 (0x03FF03FF * (1 + 2 ^ 32 + 2 ^ 64 + 2 ^ 96))

/-- Range d of a value written to HBM. -/
def rangeOf (v : BitVec 128) (d : Nat) : Nat × Nat := (fld v (32 * d) 10, fld v (32 * d + 16) 10)

/-- Whether run (c, m) lies in run (a, n). -/
def runIn (a n c m : Nat) : Bool := m = 0 || (a ≤ c && c + m ≤ a + n)

/-- What a change of one range does: the code that refuses it, or the runs that are scrubbed (R272). -/
def Blk.rangeChange (b : Blk) (p d : Nat) (old new : Nat × Nat) : Except Nat (List (Nat × Nat × Nat)) :=
  if old = new || (old.2 = 0 && new.2 = 0) then .ok []
  else if runIn old.1 old.2 new.1 new.2 then
    if (b.plot p).scrubs.any fun s => s.1 = d then .error abState
    else if new.2 = 0 then .ok [(d, old.1, old.2)]
    else .ok (((d, old.1, new.1 - old.1) :: [(d, new.1 + new.2, old.1 + old.2 - (new.1 + new.2))]).filter fun r => 0 < r.2.2)
  else if runIn new.1 new.2 old.1 old.2 && b.hbmOk p d new.1 new.2 then .ok []
  else .error abRange

/-- A write of HBM: free in FREE, grown or cut in BOUND (R263, R272). -/
def Blk.writeHbmRange (b : Blk) (p : Nat) (v : BitVec 128) : Od :=
  let v := v &&& hbmMask
  let x := b.plot p
  let set := fun (b : Blk) => b.modPlot p fun x => { x with cfg := { x.cfg with hbm := v } }
  if p = 0 then Od.no b abState
  else if x.state = .free then Od.ok (set b)
  else if x.state ≠ .bound then Od.no b abState
  else
    match (List.range 4).mapM fun d => b.rangeChange p d (x.cfg.range d) (rangeOf v d) with
    | .error a => Od.no b a
    | .ok gone =>
      let b := (set b).modPlot p fun y =>
        if gone.flatten.isEmpty then y
        else { y with scrubs := y.scrubs ++ gone.flatten, hbmOld := x.cfg.hbm, hbmCut := some b.clk.mc }
      Od.ok (b.each gone.zipIdx fun b g => if g.1.isEmpty then b else b.raiseS 0x12 p none 2 g.2)
def execHbmRangeWrite (ch : Channel) (value : BitVec 128) (s : State) : Out :=
  s.od (.hbmRangeWrite ch value) ch false fun b => b.writeHbmRange (b.sels ch).plot value

/-- A write of another configuration entry, by sub-index (R263, R287). ADDR_MODE is 0 SERVICE, 1 RECOVERY (log 154). -/
def Blk.writePlotCfg (b : Blk) (p sub : Nat) (xs : Bytes) : Od :=
  let v := ofBytes xs
  let c := (b.plot p).cfg
  let set := fun (c : PlotCfg) => b.modPlot p fun x => { x with cfg := c }
  let free : Bool := (b.plot p).state = .free
  match sub with
  | 0x03 => if xs.length ≠ 128 then Od.no b abLength else if !free then Od.no b abState
            else Od.ok (set { c with tiles := BitVec.ofNat 1024 v })
  | 0x04 => if xs.length ≠ 1 then Od.no b abLength else if 1 < v then Od.no b abRange
            else Od.ok (set { c with recovery := v = 1 })
  | 0x06 => if xs.length ≠ 1 then Od.no b abLength else if 1 < v then Od.no b abRange
            else Od.ok ((set { c with stealEn := v = 1 }).each ((List.range 1024).filter (b.owns p)) fun b t =>
              b.modTile t fun x => { x with engCtrl := { x.engCtrl with stealEn := v = 1 } })
  | 0x09 => if xs.length ≠ 48 then Od.no b abLength else if !free then Od.no b abState else Od.ok (set { c with owner := xs })
  | 0x0B => if xs.length ≠ 128 then Od.no b abLength else Od.ok (set { c with tilesNext := BitVec.ofNat 1024 v })
  | 0x10 => if xs.length ≠ 4 then Od.no b abLength else Od.ok (set { c with rankBase := BitVec.ofNat 32 v })
  | 0x11 => if xs.length ≠ 4 then Od.no b abLength else if 131072 < v then Od.no b abRange
            else Od.ok (set { c with rankCount := BitVec.ofNat 32 v })
  | _ => Od.no b abNoSub
def execPlotConfigWrite (ch : Channel) (sub : Nat) (value : Bytes) (s : State) : Out :=
  s.od (.plotConfigWrite ch sub value) ch (sub = 0x10 || sub = 0x11) fun b => b.writePlotCfg (b.sels ch).plot sub value

/-! ### The graft map (R301) -/

/-- A write of the map entry of an old tile: only while the plot is BOUND. -/
def Blk.writeGraftMap (b : Blk) (p old : Nat) (v : BitVec 16) : Od :=
  if !b.bound p then Od.no b abState
  else Od.ok (b.modPlot p fun x => { x with graft := { x.graft with map := x.graft.map.put old (v &&& 0x7FF#16) } })
def execGraftMapWrite (ch : Channel) (value : BitVec 16) (s : State) : Out :=
  s.od (.graftMapWrite ch value) ch true fun b => b.writeGraftMap (b.sels ch).plot (b.sels ch).graft value

/-- A write of GRAFT_HOLD, 256 to 65,535 frames. -/
def Blk.writeGraftHold (b : Blk) (p v : Nat) : Od :=
  if v < 256 || 65535 < v then Od.no b abRange
  else Od.ok (b.modPlot p fun x => { x with graft := { x.graft with hold := v } })

def execGraftHoldEnd (plot : Nat) (s : State) : Out :=
  s.mesh (.graftHoldEnd plot) fun b => b.modPlot plot fun x => { x with graft := { x.graft with holding := false } }

end Sys2Proof.Machine
end

