-- ==== Sys2Proof/Machine/Spdm.lean ====
section
/-! DEFINITION. The vault's reports and SPDM requests, the random source and the tenant's keys (R273–R279, R284, R285, R328).
Bodies of standard responses, hashes and signatures are uninterpreted (log 3); request, response and error codes are those of
SPDM 1.3 (PRESUMED). -/
namespace Sys2Proof.Machine

/-! ### Reports (R274) -/

/-- SEC of a plot as `OD 0x3100.0D` reads (R263). -/
def PhaseState.code : PhaseState → Nat
  | .empty => 0
  | .live => 1
  | .retiring => 2
  | .retired => 3

def PlotKeys.word (k : PlotKeys) : Nat :=
  at_ 0 2 k.phase0.code + at_ 2 2 k.phase1.code + atB 4 k.tx + atB 5 k.sec.txEnc + atB 6 k.sec.requireEnc + atB 7 k.sec.noDebug +
    atB 8 k.sealedFlag

/-- FW_MEAS: the SHA-384 of the running image. -/
def Firmware.meas (f : Firmware) : Bytes := padTo 48 (Config.sha384 (imgBytes (f.slot f.running)))

/-- Bytes 0 to 351 of a report. -/
def Blk.reportBody (b : Blk) (p : Nat) (nonce : Bytes) : Bytes :=
  let x := b.plot p
  toBytes 4 0x41545354 ++ toBytes 2 1 ++ toBytes 1 b.member.code ++ toBytes 1 p ++ padTo 48 Config.deviceId ++ b.fw.meas ++
    toBytes 1 b.fw.rollback ++ toBytes 1 x.state.code ++ toBytes 2 x.keys.word ++ toBytes 4 x.bindSerial.toNat ++
    padTo 48 x.cfg.owner ++ padTo 48 (Config.sha384 (toBytes 128 x.cfg.tiles.toNat ++ toBytes 16 x.cfg.hbm.toNat)) ++
    padTo 32 nonce ++ toBytes 8 b.clk.frame.toNat ++ padTo 48 x.keys.capsules ++ padTo 16 b.vault.bootBytes ++
    List.replicate 40 0#8

/-- A report of 448 bytes. -/
def Blk.report (b : Blk) (p : Nat) (nonce : Bytes) : Bytes :=
  let body := b.reportBody p nonce
  body ++ padTo 96 (Config.ecdsaSign (Config.sha384 body))

/-- Number of a channel. -/
def chNum : Channel → Nat
  | .mailbox => 0
  | .slot0 => 1
  | .slot1 => 2

/-- A read of `OD 0x3200.02`: the report that this channel asked for; refused without an identity (R273, R274). -/
def Blk.attest (b : Blk) (ch : Channel) : Except Nat Bytes :=
  if !b.vault.identity then .error abState
  else
    let r := b.vault.reportReq.getD (chNum ch) (0, [])
    .ok (b.report r.1 r.2)
def execAttestReport (ch : Channel) (s : State) : Out :=
  s.at (.attestReport ch) fun s =>
    if s.blk.fw.stage = .done && s.blk.open_ ch then
      .next { s with blk := match s.blk.attest ch with
        | .ok xs => s.blk.answer abNone xs
        | .error a => s.blk.answer a }
    else .next s

/-! ### Responses -/

def spBusy : Nat := 0x03
def spUnexpected : Nat := 0x04
def spUnspecified : Nat := 0x05
def spUnsupported : Nat := 0x07
def spSessionLimit : Nat := 0x0A

/-- The vault answers. -/
def Blk.vaultSay (b : Blk) (kind code : Nat) (body : Bytes) : Blk :=
  { b with vault := { b.vault with reply := { kind := kind, code := BitVec.ofNat 8 code, body := body } } }

/-- A response with the body that the standard gives it. -/
def Blk.spdmOk (b : Blk) (code session : Nat) (args : Bytes := []) : Blk := b.vaultSay 0 code (Config.spdmBody code session args)

/-- An ERROR response. -/
def Blk.spdmErr (b : Blk) (code : Nat) : Blk := b.vaultSay 1 code []

/-- How far a channel has negotiated: 1 version, 2 capabilities, 3 algorithms. -/
def Blk.negotiated (b : Blk) (ch : Channel) : Nat := b.vault.negotiated.getD (chNum ch) 0
def Blk.setNegotiated (b : Blk) (ch : Channel) (n : Nat) : Blk :=
  { b with vault := { b.vault with negotiated := b.vault.negotiated.put (chNum ch) n } }

/-- A request that needs the negotiation before it. -/
def Blk.negotiatedAt (b : Blk) (ch : Channel) (n : Nat) (f : Blk → Blk) : Blk :=
  if n ≤ b.negotiated ch then f b else b.spdmErr spUnexpected

def execGetVersion (ch : Channel) (s : State) : Out :=
  s.steward (.getVersion ch) fun b => (b.setNegotiated ch 1).spdmOk 0x04 0
def execGetCapabilities (ch : Channel) (s : State) : Out :=
  s.steward (.getCapabilities ch) fun b => b.negotiatedAt ch 1 fun b => (b.setNegotiated ch 2).spdmOk 0x61 0
def execNegotiateAlgorithms (ch : Channel) (s : State) : Out :=
  s.steward (.negotiateAlgorithms ch) fun b => b.negotiatedAt ch 2 fun b => (b.setNegotiated ch 3).spdmOk 0x63 0
def execGetDigests (ch : Channel) (s : State) : Out :=
  s.steward (.getDigests ch) fun b => b.negotiatedAt ch 3 fun b => b.vaultSay 0 0x01 (padTo 48 (Config.sha384 b.fw.cert))

/-- A portion of the certificate chain of slot 0: its length, the bytes that remain, and the portion. -/
def Blk.certificate (b : Blk) (offset len : Nat) : Blk :=
  let xs := (b.fw.cert.drop offset).take len
  b.vaultSay 0 0x02 (toBytes 2 xs.length ++ toBytes 2 (b.fw.cert.length - offset - xs.length) ++ xs)
def execGetCertificate (ch : Channel) (offset len : Nat) (s : State) : Out :=
  s.steward (.getCertificate ch offset len) fun b => b.negotiatedAt ch 3 fun b => b.certificate offset len

/-! ### Sessions (R275, R276) -/

def Blk.session? (b : Blk) (i : Nat) : Option Session := b.vault.sessions.get? i
def Blk.setSession (b : Blk) (i : Nat) (x : Session) : Blk :=
  { b with vault := { b.vault with sessions := b.vault.sessions.put i x } }

/-- A session id that is not in use. -/
def Blk.freeSession (b : Blk) : Option Nat := (List.range 8).find? fun i => (b.session? i).isNone

/-- KEY_EXCHANGE with random bits at hand: the ninth session is refused. -/
def Blk.keyExchange (b : Blk) (ch : Channel) : Blk :=
  if !b.vault.identity then b.spdmErr spUnspecified
  else match b.freeSession with
    | none => b.spdmErr spSessionLimit
    | some i =>
      (b.draw.setSession i { ch := ch, established := false, mutualHash := none, claim := none }).spdmOk 0x64 i b.random

/-- A CHALLENGE answered. -/
def Blk.challenged (b : Blk) (nonce : Bytes) : Blk :=
  if !b.vault.identity then b.spdmErr spUnspecified
  else b.draw.spdmOk 0x03 0 (nonce ++ b.random)

/-- Measurements answered: index 0x80 is the report of the claimed plot, or of plot 0, and needs no random bits (R274, R284). -/
def Blk.measured (b : Blk) (session : Option Nat) (index : Nat) (nonce : Bytes) : Blk :=
  let claim := ((session.bind b.session?).bind (·.claim)).getD 0
  if !b.vault.identity then b.spdmErr spUnspecified
  else if index = 0x80 then b.vaultSay 0 0x60 (b.report claim nonce)
  else b.draw.spdmOk 0x60 (session.getD 0) (toBytes 1 index ++ nonce ++ b.random)

/-- Runs a request that has random bits. -/
def Blk.vaultRun (b : Blk) (ch : Channel) : VaultJob → Blk
  | .keyExchange => b.keyExchange ch
  | .challenge nonce => b.challenged nonce
  | .measurements session index nonce => b.measured session index nonce

/-- A request that needs random bits: served, made to wait, or failed (R285). -/
def Blk.needRandom (b : Blk) (ch : Channel) (j : VaultJob) : Blk :=
  match b.vault.rng with
  | .ok => b.vaultRun ch j
  | .restarting => { b with vault := { b.vault with rngWait := b.vault.rngWait ++ [(ch, j)] } }
  | .dead => b.spdmErr spBusy

def execChallenge (ch : Channel) (nonce : Bytes) (s : State) : Out :=
  s.steward (.challenge ch nonce) fun b => b.negotiatedAt ch 3 fun b => b.needRandom ch (.challenge nonce)
def execGetMeasurements (ch : Channel) (session : Option Nat) (index : Nat) (nonce : Bytes) (s : State) : Out :=
  s.steward (.getMeasurements ch session index nonce) fun b =>
    b.negotiatedAt ch 3 fun b =>
      if index = 0x80 then b.measured session index nonce else b.needRandom ch (.measurements session index nonce)
def execKeyExchange (ch : Channel) (s : State) : Out :=
  s.steward (.keyExchange ch) fun b => b.negotiatedAt ch 3 fun b => b.needRandom ch .keyExchange

/-- A request within a session. -/
def Blk.inSession (b : Blk) (i : Nat) (f : Session → Blk) : Blk :=
  match b.session? i with
  | some x => if x.established then f x else b.spdmErr spUnexpected
  | none => b.spdmErr spUnexpected

/-- FINISH: the session is established; with a requester key it is mutually authenticated. -/
def Blk.finishSession (b : Blk) (i : Nat) (key : Option Bytes) : Blk :=
  match b.session? i with
  | none => b.spdmErr spUnexpected
  | some x =>
    if x.established then b.spdmErr spUnexpected
    else (b.setSession i { x with established := true, mutualHash := key.map fun k => padTo 48 (Config.sha384 k) }).spdmOk 0x65 i
def execFinish (session : Nat) (mutualKey : Option Bytes) (s : State) : Out :=
  s.steward (.finish session mutualKey) fun b => b.finishSession session mutualKey
def execHeartbeatSpdm (session : Nat) (s : State) : Out :=
  s.steward (.heartbeatSpdm session) fun b => b.inSession session fun _ => b.spdmOk 0x68 session
def execKeyUpdate (session : Nat) (s : State) : Out :=
  s.steward (.keyUpdate session) fun b => b.inSession session fun _ => b.spdmOk 0x69 session

/-- END_SESSION: its claim ends with it (R276). -/
def Blk.endSession (b : Blk) (i : Nat) : Blk :=
  b.inSession i fun _ =>
    ({ b with vault := { b.vault with sessions := b.vault.sessions.del i } }).spdmOk 0x6C i
def execEndSession (session : Nat) (s : State) : Out := s.steward (.endSession session) (·.endSession session)
def execSpdmUnsupportedRequest (ch : Channel) (code : BitVec 8) (s : State) : Out :=
  s.steward (.spdmUnsupportedRequest ch code) fun b => b.spdmErr spUnsupported

/-- A chunk of a larger message; the first one begins it anew. -/
def Blk.chunkIn (b : Blk) (first : Bool) (part : Bytes) : Blk :=
  { b with vault := { b.vault with chunk := (if first then [] else b.vault.chunk) ++ part } }
def execChunkedTransfer (ch : Channel) (first last : Bool) (part : Bytes) (s : State) : Out :=
  s.steward (.chunkedTransfer ch first last part) fun b =>
    (b.chunkIn first part).spdmOk 0x05 (if last then 1 else 0) part

/-! ### The random source (R284, R285) -/

/-- The span of three failures: 1 s at the mesh clock in use (R4, R285). -/
def Blk.rngSpan (b : Blk) : Nat := b.mcOf 1000000000

/-- Every waiting request fails. -/
def Blk.failWaiting (b : Blk) : Blk :=
  if b.vault.rngWait.isEmpty then b
  else { b.spdmErr spBusy with vault := { (b.spdmErr spBusy).vault with rngWait := [] } }

/-- A health test fails: the source restarts, or is dead at the third failure within 1 s. -/
def Blk.rngHealth (b : Blk) (test : BitVec 32) : Blk :=
  let v := b.vault
  let fails := (v.rngFails ++ [b.clk.mc]).filter fun m => b.clk.mc - m < b.rngSpan
  let b := b.raiseS 0x61 0 none test.toNat
  if v.rng = .dead then b
  else if 3 ≤ fails.length then
    ({ b with vault := { b.vault with rng := .dead, rngFails := fails } }).failWaiting.raiseS 0x62 0 none
  else { b with vault := { b.vault with rng := .restarting, rngFails := fails } }

/-- The restart passes: waiting requests are served in arrival order. -/
def Blk.rngRestart (b : Blk) : Blk :=
  if b.vault.rng ≠ .restarting then b
  else
    let wait := b.vault.rngWait
    let b : Blk := { b with vault := { b.vault with rng := .ok, rngWait := [] } }
    b.each wait fun b w => b.vaultRun w.1 w.2

/-- The oldest waiting request has waited 10 ms: it fails. -/
def Blk.rngTimeout (b : Blk) : Blk :=
  match b.vault.rngWait with
  | [] => b
  | _ :: rest => { b.spdmErr spBusy with vault := { (b.spdmErr spBusy).vault with rngWait := rest } }

/-- An event of the vault: it acts in every stage but reset. -/
def State.vaultEvent (s : State) (i : Instr) (f : Blk → Blk) : Out :=
  s.at i fun s => if s.blk.fw.stage = .held then .next s else .next { s with blk := f s.blk }
def execRngHealth (test : BitVec 32) (s : State) : Out := s.vaultEvent (.rngHealth test) (·.rngHealth test)
def execRngRestartPass (s : State) : Out := s.vaultEvent .rngRestartPass (·.rngRestart)
def execRngWaitTimeout (s : State) : Out := s.vaultEvent .rngWaitTimeout (·.rngTimeout)

/-! ### Vendor requests (R276, R278, R328) -/

def vrOk : Nat := 0x00
def vrNotOwner : Nat := 0x01
def vrState : Nat := 0x02
def vrFormat : Nat := 0x03

/-- The result of a vendor request. -/
def Blk.vendor (b : Blk) (result : Nat) : Blk := b.vaultSay 2 result []

/-- A vendor request: only in a mutually authenticated session. -/
def Blk.inMutual (b : Blk) (i : Nat) (f : Session → Bytes → Blk) : Blk :=
  match b.session? i with
  | some x => match x.mutualHash with
    | some h => if x.established then f x h else b.vendor vrState
    | none => b.vendor vrState
  | none => b.vendor vrState

/-- PLOT_CLAIM (R276). -/
def Blk.plotClaim (b : Blk) (i p : Nat) : Blk :=
  b.inMutual i fun x h =>
    if b.bound p && h = (b.plot p).cfg.owner && h.any (· ≠ 0#8) then (b.setSession i { x with claim := some p }).vendor vrOk
    else b.vendor vrNotOwner
def execPlotClaim (session plot : Nat) (s : State) : Out := s.steward (.plotClaim session plot) (·.plotClaim session plot)

/-- A request that needs a claim. -/
def Blk.inClaim (b : Blk) (i : Nat) (f : Nat → Blk) : Blk :=
  b.inMutual i fun x _ => match x.claim with
    | some p => f p
    | none => b.vendor vrState

def Blk.modKeys (b : Blk) (p : Nat) (f : PlotKeys → PlotKeys) : Blk := b.modPlot p fun x => { x with keys := f x.keys }

/-- A phase with its state and key. -/
def PlotKeys.setPhase (k : PlotKeys) (ph : Bool) (s : PhaseState) (key : Option Bytes) : PlotKeys :=
  if ph then { k with phase1 := s, key1 := key } else { k with phase0 := s, key0 := key }

/-- The key that a phase holds. -/
def PlotKeys.keyOf (k : PlotKeys) (ph : Bool) : Option Bytes := if ph then k.key1 else k.key0

/-- Every PKT_NUM counter of a plot under a phase is 0 (R278). -/
def Blk.zeroPktNum (b : Blk) (p : Nat) (ph : Bool) : Blk :=
  let k := pktKey p ph
  b.each (List.range b.member.ports) fun b o => b.modEg o fun e =>
    { e with pktNum := e.pktNum.del k, pktEnd := e.pktEnd.filter (· ≠ k) }

/-- KEY_SET: the phase must be EMPTY or RETIRED and becomes LIVE. -/
def Blk.keySet (b : Blk) (i : Nat) (ph : Bool) (key : Bytes) : Blk :=
  b.inClaim i fun p =>
    let k := (b.plot p).keys
    if key.length ≠ 32 then b.vendor vrFormat
    else if k.phase ph = .live || k.phase ph = .retiring then b.vendor vrState
    else ((b.modKeys p fun k => k.setPhase ph .live (some key)).zeroPktNum p ph).vendor vrOk
def execKeySet (session : Nat) (phase : Bool) (key : Bytes) (s : State) : Out :=
  s.steward (.keySet session phase key) (·.keySet session phase key)

/-- TX_PHASE to a LIVE phase takes effect after the next tick. -/
def Blk.txPhase (b : Blk) (i : Nat) (ph : Bool) : Blk :=
  b.inClaim i fun p =>
    if (b.plot p).keys.phase ph = .live then (b.modKeys p fun k => { k with txNext := some ph }).vendor vrOk
    else b.vendor vrState
def execTxPhase (session : Nat) (phase : Bool) (s : State) : Out := s.steward (.txPhase session phase) (·.txPhase session phase)

/-- PHASE_RETIRE of a LIVE phase that does not transmit. -/
def Blk.phaseRetire (b : Blk) (i : Nat) (ph : Bool) (hold : Nat) : Blk :=
  b.inClaim i fun p =>
    let k := (b.plot p).keys
    if hold = 0 || 65535 < hold then b.vendor vrFormat
    else if k.phase ph ≠ .live || k.tx = ph || k.txNext = some ph then b.vendor vrState
    else (b.modKeys p fun k => k.setPhase ph .retiring (k.keyOf ph)).vendor vrOk
def execPhaseRetire (session : Nat) (phase : Bool) (hold : Nat) (s : State) : Out :=
  s.steward (.phaseRetire session phase hold) (·.phaseRetire session phase hold)

/-- The hold of a RETIRING phase ends: its key is erased. -/
def Blk.phaseHoldEnd (b : Blk) (p : Nat) (ph : Bool) : Blk :=
  if (b.plot p).keys.phase ph = .retiring then b.modKeys p fun k => k.setPhase ph .retired none else b
def execPhaseHoldEnd (plot : Nat) (phase : Bool) (s : State) : Out :=
  s.vaultEvent (.phaseHoldEnd plot phase) (·.phaseHoldEnd plot phase)

/-- The flags that a SEC_FLAGS request asks for: NO_DEBUG, once set, stays. -/
def PlotKeys.flagsFor (k : PlotKeys) (v : BitVec 8) : SecFlags :=
  { txEnc := flag v 0, requireEnc := flag v 1,
    noDebug := flag v 2 || k.sec.noDebug || (k.secNext.map (·.noDebug)).getD false }

/-- SEC_FLAGS: in force after the next tick. -/
def Blk.secFlags (b : Blk) (i : Nat) (v : BitVec 8) : Blk :=
  b.inClaim i fun p => (b.modKeys p fun k => { k with secNext := some (k.flagsFor v) }).vendor vrOk
def execSecFlags (session : Nat) (flags : BitVec 8) (s : State) : Out :=
  s.steward (.secFlags session flags) (·.secFlags session flags)

/-- At a tick the phases and flags that wait take effect (R276, R278). -/
def PlotKeys.tick (k : PlotKeys) : PlotKeys :=
  { k with tx := k.txNext.getD k.tx, txNext := none, sec := k.secNext.getD k.sec, secNext := none }

end Sys2Proof.Machine
end

