-- ==== Sys2Proof/Machine/Vault.lean ====
section
/-! DEFINITION. The vault's link keys and weight capsules (R277, R280–R282, R400). -/
namespace Sys2Proof.Machine

/-! ### Link encryption (R277, R400) -/

/-- Whether a session may carry IDE key management: mutual, no claim, its key is the IDE manager's. -/
def Blk.ideManager (b : Blk) (i : Nat) : Bool :=
  match b.session? i with
  | some x => x.established && x.claim.isNone && b.vault.ideMgr.any (· ≠ 0#8) && x.mutualHash = some b.vault.ideMgr
  | none => false

/-- The IDE_KM error reply. -/
def Blk.ideErr (b : Blk) : Blk := b.vaultSay 4 0 []

/-- A message of IDE key management. -/
def Blk.inIde (b : Blk) (i : Nat) (f : Blk → Blk) : Blk := if b.ideManager i then f b else b.ideErr

/-- The state of a key set. -/
def Blk.ideState (b : Blk) (k : IdeKeyId) : IdeState := ((b.vault.ide.find? fun x => x.1 = k).map (·.2)).getD .empty
def Blk.setIde (b : Blk) (k : IdeKeyId) (s : IdeState) : Blk :=
  { b with vault := { b.vault with ide := b.vault.ide.filter (fun x => x.1 ≠ k) ++ (if s = .empty then [] else [(k, s)]) } }

/-- Whether a stream is one of the three that the vault supports. -/
def Blk.ideStream (b : Blk) (k : IdeKeyId) : Bool :=
  let l := (b.vault.ide.map fun x => x.1.stream).eraseDups
  l.contains k.stream || l.length < 3

/-- A command goes out on the key port, which carries one at a time. -/
def Blk.idePut (b : Blk) (c : IdeCmd) : Blk :=
  if b.vault.idePort.isSome then b.spdmErr spBusy else { b with vault := { b.vault with idePort := some c } }

def execQuery (session : Nat) (s : State) : Out :=
  s.steward (.query session) fun b => b.inIde session fun b => b.vaultSay 3 1 (Config.spdmBody 1 session [])
def execKeyProg (session : Nat) (id : IdeKeyId) (key : BitVec 256) (iv : BitVec 64) (s : State) : Out :=
  s.steward (.keyProg session id key iv) fun b => b.inIde session fun b =>
    if b.ideStream id then b.idePut { cmd := 0, id := id, key := key, iv := iv } else b.ideErr
def execKSetGo (session : Nat) (id : IdeKeyId) (s : State) : Out :=
  s.steward (.kSetGo session id) fun b => b.inIde session fun b =>
    if b.ideState id = .empty then b.ideErr else b.idePut { cmd := 1, id := id, key := 0#256, iv := 0#64 }
def execKSetStop (session : Nat) (id : IdeKeyId) (s : State) : Out :=
  s.steward (.kSetStop session id) fun b => b.inIde session fun b =>
    if b.ideState id = .empty then b.ideErr else b.idePut { cmd := 2, id := id, key := 0#256, iv := 0#64 }

/-- The engine answers: key and IV leave the port, and on an acknowledgement the set takes its state. -/
def Blk.ideAnswer (b : Blk) (ack : Bool) : Blk :=
  match b.vault.idePort with
  | none => b
  | some c =>
    let b : Blk := { b with vault := { b.vault with idePort := none } }
    if ack then (b.setIde c.id (match c.cmd with
        | 0 => .programmed
        | 1 => .active
        | _ => .empty)).vaultSay 3 (c.cmd + 2) []
    else b.ideErr
def execIdeAnswer (ack : Bool) (s : State) : Out := s.vaultEvent (.ideAnswer ack) (·.ideAnswer ack)

/-- A write of IDE_MANAGER: on the mailbox, with no key set programmed, kept in the store. -/
def Blk.writeIdeManager (b : Blk) (ch : Channel) (xs : Bytes) : Od :=
  if xs.length ≠ 48 then Od.no b abLength
  else if ch ≠ .mailbox || !b.vault.ide.isEmpty then Od.no b abState
  else b.storeThen psIde xs fun b => { b with vault := { b.vault with ideMgr := xs } }
def execIdeManagerWrite (ch : Channel) (value : Bytes) (s : State) : Out :=
  s.od (.ideManagerWrite ch value) ch true fun b => b.writeIdeManager ch value

/-! ### Capsules end (R281) -/

/-- The event that ends a request. -/
def Blk.capEvent (b : Blk) (p result : Nat) (id : Bytes) : Blk :=
  b.raiseP 0x0D p none result (ofBytes (id.take 4)) (ofBytes ((id.drop 4).take 4))

/-- A write of CAPSULE_DB (R281, R338, R341): one unwrap at a time, four more queued. -/
def Blk.capsuleUnwrap (b : Blk) (p : Nat) (v : BitVec 128) : Blk :=
  if !b.bound p || p = 0 then b.countSys evBadAccess
  else if 5 ≤ b.vault.capQ.length then b.capEvent p cpBusy []
  else
    let c : CapReq := { plot := p, offset := fld v 0 32, tile := fld v 32 10, sram := fld v 64 21, verdict := 0, len := 0 }
    let idle := b.vault.capQ.isEmpty
    let b : Blk := { b with vault := { b.vault with capQ := b.vault.capQ ++ [c] } }
    if idle then b.capBegin else b
def execCapsuleUnwrap (plot : Nat) (value : BitVec 128) (s : State) : Out :=
  s.mesh (.capsuleUnwrap plot value) (·.capsuleUnwrap plot value)

/-- A target's range is unsealed. -/
def Blk.unseal (b : Blk) (c : CapReq) : Blk :=
  b.modTile c.tile fun x => { x with sealed := x.sealed.filter (· ≠ (c.sram, c.len)) }

/-- The capsule deciphers: the range is written, stays sealed under NOEXPORT, and joins CAPSULES; a bad key or tag zeroes and
unseals it. -/
def Blk.capOpen (b : Blk) (c : CapReq) : Blk × Nat × Bytes :=
  match b.capsule c with
  | none => ((b.zeroSram c.tile c.sram c.len).unseal c, cpTag, [])
  | some (h, es, ct, tag) =>
    let owner := (b.plot c.plot).cfg.owner
    let key := (cpEntry h es).bind fun e => Config.capsuleKey e ((h.drop 64).take 96) (cpId h) owner
    match key.bind fun k => Config.gcmOpen k ((h.drop 164).take 12) (h ++ es) ct tag with
    | none => ((b.zeroSram c.tile c.sram c.len).unseal c, cpTag, cpId h)
    | some data =>
      let b := b.writeSram c.tile c.sram (padTo c.len data)
      let b := b.modKeys c.plot fun k => { k with capsules := padTo 48 (Config.sha384 (k.capsules ++ cpId h)) }
      if cpFlags h = 1 then (b.modKeys c.plot fun k => { k with sealedFlag := true }, cpOk, cpId h) else (b.unseal c, cpOk, cpId h)

/-- The unwrap in progress ends, and the next begins. -/
def Blk.capsuleDone (b : Blk) : Blk :=
  match b.vault.capQ with
  | [] => b
  | c :: rest =>
    let b : Blk := { b with vault := { b.vault with capQ := rest } }
    let r := if c.verdict = cpOk then b.capOpen c
      else (b, c.verdict, ((b.plotHbm c.plot c.offset 256).map cpId).getD [])
    (r.1.capEvent c.plot r.2.1 r.2.2).capBegin
def execCapsuleDone (s : State) : Out := s.mesh .capsuleDone (·.capsuleDone)

end Sys2Proof.Machine
end

