-- ==== Sys2Proof/Machine/Wear.lean ====
section
/-! DEFINITION. Wear entries, the failover library's entries, and what links and rails report (R288–R291). -/
namespace Sys2Proof.Machine

/-! ### Wear entries (R290) -/

/-- Whether a wear selector names a tile, a link or a port that the member has (R1, R290, R320). -/
def wearSelOk (m : Member) (v : Nat) : Bool :=
  match v / 2 ^ 14 % 4 with
  | 0 => m.hasTile (v % 4096)
  | 1 => m.hasTile (v % 4096 / 4)
  | 2 => decide (v % 4096 < m.ports)
  | _ => false

/-- A write of `OD 0x2601.02`: 1 in bit 32 clears WARN unless it was set in the same mc (R336), the score is read-only. -/
def Blk.writeWear (b : Blk) (sel : BitVec 16) (v : BitVec 64) : Od :=
  let k := fld sel 14 2
  let i := fld sel 0 12
  let x := b.wearOf k i
  Od.ok (if flag v 32 && !b.noted (.set (.wearWarn (4096 * k + i))) then { b with fault := { b.fault with wear := b.fault.wear.put (4096 * k + i) (x.1, false, x.2.2) } } else b)
def execWearWrite (ch : Channel) (value : BitVec 64) (s : State) : Out :=
  s.od (.wearWrite ch value) ch false fun b => b.writeWear (b.sels ch).wear value

/-- A write of a threshold or of DECAY, by subindex of `OD 0x2600`. -/
def Blk.writeWearCfg (b : Blk) (sub v : Nat) : Od :=
  match sub with
  | 1 => Od.ok { b with fault := { b.fault with thTile := BitVec.ofNat 32 v } }
  | 2 => Od.ok { b with fault := { b.fault with thLink := BitVec.ofNat 32 v } }
  | 3 => Od.ok { b with fault := { b.fault with thPort := BitVec.ofNat 32 v } }
  | _ => if v < 8 || 24 < v then Od.no b abRange else Od.ok { b with fault := { b.fault with decay := v } }

/-! ### The failover library (R291) -/

/-- Entries and descriptors that an image at an offset loads into a tile. -/
def Blk.imageLoad (b : Blk) (off t : Nat) : Nat :=
  let h := imageHeader b off
  (((sections b off (fld h 96 32) (fld h 128 32) 32).filter fun x => x.tile = t).map (·.count)).sum

/-- Whether the image at an offset may stand in a VALID entry. -/
def Blk.alternateOk (b : Blk) (off : Nat) : Bool :=
  let h := imageHeader b off
  fld h 0 32 = 0x534F574E && fld h 60 2 = b.member.code && flag h 62 && fld h 64 16 ≠ 0xFFFF &&
    b.member.tiles.all fun t => b.imageLoad off t ≤ 256

/-- A write of a library entry; GEN takes the image header's. -/
def Blk.writeLibrary (b : Blk) (i : Nat) (v : BitVec 64) : Od :=
  if 3 < lKind v || (lValid v && !b.alternateOk (lImage v)) then Od.no b abRange
  else Od.ok { b with fault := { b.fault with
    library := b.fault.library.put i (setFld v 48 16 (fld (imageHeader b (lImage v)) 32 16)) } }
def execLibraryWrite (ch : Channel) (value : BitVec 64) (s : State) : Out :=
  s.od (.libraryWrite ch value) ch true fun b => b.writeLibrary (b.sels ch).library value

/-! ### Reports of the surroundings (R288, R289) -/

/-- A rail fault declares its cluster failed. -/
def execRailFault (cluster : Nat) (s : State) : Out := s.mesh (.railFault cluster) (·.declare fcCluster cluster)

/-- Where a retry or retraining is counted: the port tile or the sending tile; none for a link that does not cross dies. -/
def Blk.retryTile (b : Blk) (port : Bool) (i : Nat) : Option Nat :=
  if port then some (b.member.portTile i) else if b.member.crossing (i / 4) (i % 4) then some (i / 4) else none

/-- A link-level retry: counted, 8 of wear. -/
def Blk.linkRetry (b : Blk) (port : Bool) (i : Nat) : Blk :=
  match b.retryTile port i with
  | none => b
  | some t => (b.count t evLinkRetry).addWear (if port then 2 else 1) i 8
def execLinkRetry (kindPort : Bool) (index : Nat) (s : State) : Out :=
  s.mesh (.linkRetry kindPort index) (·.linkRetry kindPort index)

/-- A retraining: counted, 256 of wear; one that fails declares the link failed, on die or crossing (R288). -/
def Blk.linkRetrain (b : Blk) (port : Bool) (i : Nat) (failed : Bool) : Blk :=
  let b := match b.retryTile port i with
    | none => b
    | some t => (b.count t evLinkRetrain).addWear (if port then 2 else 1) i 256
  if failed && !port then b.declare fcLink i else b
def execLinkRetrain (kindPort : Bool) (index : Nat) (failed : Bool) (s : State) : Out :=
  s.mesh (.linkRetrain kindPort index failed) (·.linkRetrain kindPort index failed)

end Sys2Proof.Machine
end

