-- ==== Sys2Proof/Machine/Entries.lean ====
section
/-! DEFINITION. The object dictionary: which entries there are (R315, R316, R320–R322) and the registers that they and the host
window return. -/
namespace Sys2Proof.Machine

/-! ### Entries (R315, R316) -/

/-- An entry: subindex, TYPE, ACCESS, LEVEL, READ_BOTH, INSTANCE and SIZE of R316. -/
structure Ent where
  sub : Nat
  type : Nat
  access : Nat
  expert : Bool
  both : Bool
  inst : Nat
  size : Nat
  deriving DecidableEq, Repr

def tyBits : Nat := 5
def tyBytes : Nat := 6
def tyDomain : Nat := 7
def acRO : Nat := 0
def acRW : Nat := 1
def acWO : Nat := 2
def acHS : Nat := 6
def acConst : Nat := 7
def inTile : Nat := 1
def inPort : Nat := 2
def inPlot : Nat := 3
def inOwn : Nat := 4

/-- TYPE of an unsigned number of n bytes. -/
def tyU (n : Nat) : Nat := if n = 1 then 1 else if n = 2 then 2 else if n = 4 then 3 else 4

/-- A number, a field map and a run of bytes at the basic level, and the same at the expert level. -/
def enU (sub n access : Nat) (inst : Nat := 0) : Ent := ⟨sub, tyU n, access, false, false, inst, n⟩
def enB (sub n access : Nat) (inst : Nat := 0) : Ent := ⟨sub, tyBits, access, false, false, inst, n⟩
def enY (sub n access : Nat) (inst : Nat := 0) : Ent := ⟨sub, tyBytes, access, false, false, inst, n⟩
def Ent.ex (e : Ent) : Ent := { e with expert := true }
def Ent.exRead (e : Ent) : Ent := { e with expert := true, both := true }

/-- The entries of each port (R217, R238, R240, R242, R299, R300, R307, R245, R304). -/
def entsPort : List Ent :=
  [enB 0x01 16 acRW inPort, enY 0x02 6 acRW inPort, enY 0x03 16 acRW inPort, enY 0x04 6 acRW inPort, enY 0x05 16 acRW inPort,
   enY 0x06 6 acRW inPort, enY 0x07 16 acRW inPort, enY 0x08 6 acRW inPort, enY 0x09 16 acRW inPort, enU 0x0A 1 acWO inPort,
   (enU 0x0B 1 acRW inPort).ex, (enB 0x0C 8 acRW inPort).ex, enU 0x0D 1 acRW inPort, (enU 0x10 1 acRW inPort).ex,
   (enB 0x11 8 acRW inPort).ex, (enB 0x12 8 acRW inPort).ex, (enB 0x13 16 acRO inPort).ex, (enU 0x20 1 acRW inPort).ex,
   (enB 0x21 16 acRW inPort).ex]

/-- The entries of the message queues of a tile (R160, R165, R167, R175). -/
def entsQueue : List Ent :=
  ((List.range 16).map fun q => (enB (0x01 + q) 24 acRW inTile).exRead) ++
  [(enB 0x11 4 acRO inTile).ex, (enY 0x12 192 acRO inTile).ex, (enU 0x13 4 acWO inTile).ex] ++
  ((List.range 16).map fun q => enY (0x21 + q) 64 acRO inTile) ++
  [(enU 0x40 1 acRW).ex, (enB 0x41 8 acRO inTile).ex]

/-- The entries of a plot (R263, R287, R301, R304). -/
def entsPlot : List Ent :=
  [enU 0x01 2 acRW, enU 0x02 1 acRO inPlot, enB 0x03 128 acRW inPlot, enU 0x04 1 acRW inPlot, enU 0x05 2 acRW inPlot,
   enU 0x06 1 acRW inPlot, enU 0x07 2 acRW inPlot, enB 0x08 16 acRW inPlot, enY 0x09 48 acRW inPlot, enU 0x0A 1 acWO inPlot,
   enB 0x0B 128 acRW inPlot, enU 0x0C 1 acRO inPlot, (enB 0x0D 2 acRO inPlot).ex, enU 0x0E 4 acRO inPlot,
   (enU 0x10 4 acRW inPlot).ex, (enU 0x11 4 acRW inPlot).ex, enU 0x12 2 acRO inPlot, enU 0x13 2 acRW inPlot,
   (enU 0x14 2 acRW).ex, (enB 0x15 2 acRW inPlot).ex]

/-- The entries of an index (R320) but for subindex 0; none where the member lacks the index. -/
def entsAt (m : Member) (index : Nat) : List Ent :=
  if 0x2400 ≤ index && index < 0x2400 + m.ports then entsPort
  else match index with
    | 0x1000 => [enU 0x01 1 acConst, enU 0x02 4 acRO, enU 0x03 4 acRO, enY 0x04 48 acRO, enU 0x05 4 acConst]
    | 0x1100 => [enU 0x01 1 acRW, enY 0x02 6 acRW, enU 0x03 4 acRW, enY 0x04 16 acRW, enU 0x05 2 acRW]
    | 0x1200 => [(enY 0x01 34 acWO).ex, (enY 0x02 34 acWO).ex, enB 0x03 1 acRO]
    | 0x1400 => [(enU 0x01 4 acRW).ex, (⟨0x02, tyDomain, acWO, true, false, inOwn, 0⟩ : Ent)]
    | 0x2000 => [enU 0x01 2 acRW, enU 0x02 8 acRO]
    | 0x2001 => [enU 0x01 4 acRW]
    | 0x2200 => [enU 0x01 2 acRO, enU 0x02 2 acRO, enU 0x03 1 acRO, enU 0x04 1 acWO, enU 0x05 8 acRW, enU 0x06 1 acRW,
        enU 0x07 8 acRO, enU 0x08 2 acRO, ⟨0x09, tyDomain, acWO, false, false, 0, 0⟩]
    | 0x2201 => [(enU 0x01 4 acRW).ex, (enU 0x02 8 acRW inOwn).ex, (enU 0x03 4 acRW).ex, (enY 0x04 16 acRW inOwn).ex,
        (enU 0x05 1 acWO).ex, (enU 0x06 8 acRO inOwn).ex, (enY 0x07 16 acRO inOwn).ex, (enB 0x08 2 acRO inOwn).ex]
    | 0x2202 => [⟨0x01, tyDomain, acWO, false, false, 0, 0⟩, (enU 0x03 4 acRW).ex, (enU 0x04 4 acRW inOwn).ex]
    | 0x2203 => [(enB 0x01 16 acRW inTile).ex]
    | 0x2204 => [(enB 0x01 16 acRW inTile).ex, (enB 0x02 16 acRO inTile).exRead]
    | 0x2205 => entsQueue
    | 0x2206 => [(enY 0x01 24576 acRO inTile).ex]
    | 0x2207 => [(enY 0x01 1024 acRO inTile).ex, (enU 0x02 2 acRO inTile).ex]
    | 0x2301 => [(enU 0x01 2 acRW).ex, (enB 0x02 32 acRW inOwn).ex, (enB 0x03 16 acRO inOwn).ex]
    | 0x2302 => [enU 0x01 2 acRW, enB 0x02 40 acRW inOwn]
    | 0x2303 => [enU 0x01 2 acRW, enB 0x02 8 acRW inOwn]
    | 0x2304 => [enU 0x01 2 acRW, enB 0x02 2 acRW inOwn]
    | 0x2500 => [(enU 0x01 1 acRW).ex, enU 0x02 2 acRW]
    | 0x2501 => [(enU 0x01 2 acRW).ex, (enB 0x02 16 acRW inOwn).ex, (enB 0x03 16 acRO inOwn).ex]
    | 0x2502 => [enU 0x01 2 acRW, enB 0x02 8 acRW inOwn]
    | 0x2600 => [enU 0x01 4 acRW, enU 0x02 4 acRW, enU 0x03 4 acRW, enU 0x04 1 acRW]
    | 0x2601 => [enU 0x01 2 acRW, enB 0x02 8 acHS inOwn]
    | 0x2602 => [(enU 0x01 1 acRW).ex, (enB 0x02 8 acRW inOwn).ex]
    | 0x2610 => [enU 0x01 1 acRW, (enU 0x02 1 acRW).ex, (enU 0x03 2 acRW).ex, (enU 0x04 1 acRW).ex, (enU 0x05 2 acRW).ex,
        (enU 0x06 1 acRW).ex, (enB 0x07 8 acRW inOwn).ex, enU 0x08 4 acRO, (enU 0x09 4 acRO).ex, enU 0x0A 4 acWO]
    | 0x2700 => [(enB 0x01 8 acRW).ex, (enU 0x02 1 acRW).ex, (enU 0x03 1 acWO inOwn).ex, enB 0x04 16 acRO, enU 0x05 1 acWO,
        enB 0x06 2 acRO]
    | 0x2800 => [enU 0x01 2 acRW, enU 0x02 4 acRW inTile, enB 0x03 128 acHS inTile]
    | 0x2801 => [enU 0x01 1 acRW, enU 0x02 8 acRW]
    | 0x2802 => (enU 0x01 8 acRO inTile).ex :: ((List.range 8).map fun i => (enB (0x02 + i) 8 acRW inTile).ex) ++
        [(enY 0x0A 64 acRW inTile).ex]
    | 0x2803 => [(enY 0x01 12 acWO).ex]
    | 0x2804 => [(enU 0x01 1 acRW).ex, (enY 0x02 32 acRO inTile).ex, (enB 0x03 1 acHS inTile).ex, (enU 0x04 8 acRW).ex]
    | 0x2805 => [(enB 0x01 1 acRW).ex, (enB 0x02 128 acRW).ex]
    | 0x2806 => [enU 0x01 1 acRW, enY 0x02 64 acRO inTile, enU 0x03 1 acWO inTile]
    | 0x3100 => entsPlot
    | 0x3200 => [enY 0x01 33 acRW, enY 0x02 448 acRO]
    | 0x3201 => [(enY 0x01 48 acRW).ex]
    | 0x4000 => [enB 0x01 2 acRO, ⟨0x02, tyDomain, acWO, false, false, 0, 0⟩, enU 0x03 1 acWO, enU 0x04 1 acRO, enY 0x05 10 acRO,
        enU 0x06 1 acWO]
    | 0x4010 => [(enU 0x01 1 acRW).ex, (enU 0x02 1 acWO inOwn).ex, (enU 0x03 1 acRO inOwn).ex, (enB 0x04 8 acRO).exRead]
    | 0x4020 => [(enB 0x01 8 acRO).exRead]
    | _ => []

/-- Subindex 0 of an index (R315). -/
def entZero : Ent := enU 0x00 1 acConst

/-- The highest subindex in use at an index. -/
def maxSub (m : Member) (index : Nat) : Nat := ((entsAt m index).map (·.sub)).foldl max 0

/-- An entry by its address: NO_INDEX or NO_SUB where there is none; the boot ROM has index 0x4000 only (R320, R332, R365). -/
def Blk.entry? (b : Blk) (index sub : Nat) : Except Nat Ent :=
  let l := entsAt b.member index
  if l.isEmpty || (b.fw.stage = .recovery && index ≠ 0x4000) then .error abNoIndex
  else if sub = 0 then .ok entZero
  else match l.find? fun e => e.sub = sub with
    | some e => .ok e
    | none => .error abNoSub

/-- The 4 bytes of DESCRIBE (R316). -/
def Ent.describe (e : Ent) : Bytes :=
  toBytes 4 (at_ 0 4 e.type + at_ 4 3 e.access + atB 7 e.expert + atB 8 e.both + at_ 9 3 e.inst + at_ 16 16 e.size)

/-! ### Registers of a tile -/

/-- The low w bits of an integer. -/
def intBits (w : Nat) (x : Int) : Nat := (x % (2 ^ w : Int)).toNat

def SlotState.code : SlotState → Nat
  | .free => 0
  | .waiting => 1
  | .quarantine => 2

def CtxState.code : CtxState → Nat
  | .idle => 0
  | .dispatch => 1
  | .stalled => 2
  | .draining => 3
  | .report => 4

def ShadowState.code : ShadowState → Nat
  | .free => 0
  | .loading => 1
  | .ready => 2
  | .armed => 3
  | .retired => 4
  | .invalid => 5

def CalStage.code : CalStage → Nat
  | .idle => 0
  | .move => 1
  | .sweep => 2
  | .fine => 3
  | .verify => 4
  | .deferred => 5

/-- OPEN_CTRL (R98). -/
def Blk.openCtrlWord (b : Blk) (t : Nat) : Nat :=
  let c := (b.tile t).openCtrl
  at_ 0 6 c.grantN + atB 6 c.hintEn + at_ 8 7 c.reqTimeout +
    ((List.range 32).map fun i => at_ (16 + 2 * i) 2 (b.slot t i).state.code).sum

/-- ENG_CTRL (R126). -/
def EngCtrl.word (c : EngCtrl) : Nat :=
  atB 0 c.stealEn + at_ 1 4 c.ringLen + at_ 8 12 c.margin + at_ 20 5 c.capMover + at_ 25 5 c.capQueue + at_ 32 80 c.stealRing.toNat

/-- Whether a command not started waits on its semaphore, list.wait on the n it takes (R101, R105). -/
def Tile.semWaits (x : Tile) (mc : Nat) (c : BitVec 256) : Bool :=
  if opFunction (kOp c) = fnWait then (x.semMc mc (kWaitSem c)).seen < kArg c else !x.semReady mc c

/-- Whether the head command of an engine waits on a semaphore, a slot or oasis room (R126). -/
def Blk.headWaits (b : Blk) (t e : Nat) : Bool :=
  match (b.tile t).sheaves e with
  | [] => false
  | s :: _ =>
    (s.state = .queued && (b.tile t).semWaits b.clk.mc s.cmd) ||
    (s.state = .running && s.issued < s.total && (b.freeSlot t (if e = 3 then .queue else .mover)).isNone) ||
    (s.state = .queued && kOp s.cmd = 0x41 && (runOasis t b s).2 = .hold)

/-- ENG_STATE: 32 bits an engine, occupancy in [6:0], OP of the head in [15:8], waiting in [16] (R126). -/
def Blk.engState (b : Blk) (t : Nat) : Nat :=
  ((List.range 4).map fun e =>
    let l := (b.tile t).sheaves e
    at_ (32 * e) 7 l.length + at_ (32 * e + 8) 8 ((l.head?.map fun s => kOp s.cmd).getD 0) + atB (32 * e + 16) (b.headWaits t e)).sum

/-- QUEUE_CTRL, with RD as it reads (R160). -/
def Tile.queueCtrl (x : Tile) (i rd : Nat) : Nat :=
  let q := x.queue i
  at_ 0 15 q.base + atB 15 q.bound + at_ 16 15 q.size + atB 31 q.combine + at_ 32 16 q.wr + at_ 48 16 q.rsv + at_ 64 16 rd +
    at_ 80 16 q.seqNext + at_ 96 4 (x.ms.fallback.filter fun f => f.queue = i).length + atB 100 q.wide + at_ 101 5 q.sem +
    atB 106 q.semEn + at_ 128 32 q.contrib + at_ 160 32 q.expect

/-- The header at RD of a queue (R160). -/
def Blk.queueHead (b : Blk) (t i : Nat) : Bytes :=
  let q := (b.tile t).queue i
  if q.rd = q.wr then List.replicate 64 0#8 else toBytes 64 (b.header t q q.rd).toNat

/-- FB_STATUS and FB_HEAD (R167). -/
def Tile.fbStatus (x : Tile) : Nat := at_ 0 4 x.ms.fallback.length + at_ 4 4 ((x.ms.fallback.head?.map (·.queue)).getD 0)
def Tile.fbHead (x : Tile) : Bytes :=
  match x.ms.fallback with
  | [] => List.replicate 192 0#8
  | f :: _ => padTo 192 (toBytes 64 f.hdr.toNat ++ f.data)

/-- A handler entry (R165). -/
def Handler.word (h : Handler) : Nat :=
  at_ 0 21 h.list + atB 21 h.valid + atB 22 h.freeOnEnd + at_ 24 4 h.queue + at_ 32 13 h.cmds

/-- The running collectives of the plot that owns a tile: STEP, next new chunk and length of the rerun queue of each; a
tile takes part in 4 at most, so a plot runs 2,048 at most (R180, R198). -/
def Blk.collView (b : Blk) (t : Nat) : Bytes :=
  let p := (b.ownerOf t).getD 0
  padTo 24576 ((b.plot p).colls.flatMap fun c => toBytes 4 c.step.toNat ++ toBytes 4 c.nextNew ++ toBytes 4 c.rerun.length)

/-- The open slots of the kernels bound at a tile: SERIAL, dispatched ranks and parts taken, 16 bytes each (R215). -/
def Tile.kernelView (x : Tile) : Bytes :=
  padTo 1024 (x.ks.kernels.flatMap fun k => k.2.tokens.flatMap fun s =>
    toBytes 4 s.2.serial ++ toBytes 4 ((s.2.ranks.map (2 ^ ·)).sum) ++ toBytes 8 ((s.2.outs.map fun o => 2 ^ (o.1 % 64)).sum))

/-- CTX_i of a tile page (R337). -/
def Tile.ctxWord (x : Tile) (i : Nat) : Nat := (x.ctx i).state.code

/-! ### Registers of a port, of the optics and of the fault logic -/

def EgQueue.word (q : EgQueue) : Nat :=
  at_ 0 12 q.weight + at_ 12 2 q.prio + atB 14 q.gated + atB 15 q.shapeEn + at_ 24 14 q.qmax + at_ 38 14 q.ylim + at_ 52 8 q.owner
def EgQueue.shaper (q : EgQueue) : Nat := at_ 0 24 q.rate + at_ 32 16 q.burst

/-- State of an egress queue: TOKENS, depth in cells, head finish tag (R238). -/
def EgQueue.stateWord (q : EgQueue) (mc : Nat) : Nat :=
  intBits 64 (q.tokensNow mc) + at_ 64 16 q.depth + at_ 96 32 q.tag.toNat

def Gate.word (g : Gate) : Nat := at_ 0 14 g.start + at_ 16 14 g.stop + atB 30 g.valid + at_ 32 64 g.qmask.toNat
def Pools.word (p : Pools) : Nat :=
  at_ 0 14 p.req + at_ 14 14 p.reply + at_ 28 14 p.coll + at_ 42 14 p.headroom + at_ 56 3 p.lossless.toNat

/-- State of a loop: DAC code, last reading, e, I, FF and lock (R253). -/
def Loop.word (x : Loop) : Nat :=
  x.dac.toNat + at_ 16 16 x.last.toNat + 2 ^ 32 * intBits 32 x.e + 2 ^ 64 * intBits 32 x.i + 2 ^ 96 * intBits 31 x.ff + atB 127 x.locked

/-- OPT_PORT (R254). -/
def OptPort.word (o : OptPort) : Nat :=
  at_ 0 3 o.spare + at_ 3 12 o.laneMap.toNat + atB 15 o.calAuto + at_ 20 3 o.stage.code + at_ 32 11 o.hRef + at_ 48 5 o.lockedCh.toNat

/-- WEAR of a selected resource (R290). -/
def Blk.wearWord (b : Blk) (sel : BitVec 16) : Nat :=
  let x := b.wearOf (fld sel 14 2) (fld sel 0 12)
  x.1.toNat + atB 32 x.2.1

/-- State of every cluster, and of the block with TRIP_LATCH (R311). -/
def Blk.clusterWord (b : Blk) : Nat := (b.member.clusters.map fun c => at_ (2 * c) 2 (b.cluster c).code).sum
def Blk.blockState (b : Blk) (trip : Trip) : Nat :=
  let idle := b.member.clusters.all (fun c => b.cluster c ≠ .active) &&
    (List.range b.member.ports).all fun p => (b.port p).pwr = .fallow
  (if trip.tripped then 2 else if idle then 1 else 0) + atB 8 trip.latch

/-! ### Firmware (R361, R370) -/

def FwSlotState.code : FwSlotState → Nat
  | .empty => 0
  | .partial_ => 1
  | .written => 2
  | .verified => 3
  | .bad => 4

def Firmware.stateWord (f : Firmware) : Nat :=
  atB 0 f.running + atB 1 ((f.dir.map (·.active)).getD false) + atB 2 ((f.dir.map (·.trial)).getD false) +
    at_ 3 3 (f.slotState f.inactive).code + at_ 8 8 f.verifyRes

/-- VERSION and SVN of a slot; zeros for one that fails HEADER. -/
def Firmware.slotInfo (f : Firmware) (s : Bool) : Bytes :=
  if imgHeaderOk (f.slot s) then toBytes 4 (imgVersion (f.slot s)) ++ toBytes 1 (imgSvn (f.slot s)) else List.replicate 5 0#8

def Firmware.storeWord (f : Firmware) : Nat :=
  at_ 0 16 f.governing.length + at_ 16 20 ((f.erases.map (·.2)).foldl max 0) + atB 36 f.worn

end Sys2Proof.Machine
end

