-- ==== Sys2Proof/Machine/Dictionary.lean ====
section
/-! DEFINITION. Reads and writes of every dictionary entry, and the requests READ, WRITE, DESCRIBE, SEG_WRITE, SEG_READ and HELLO
(R317–R331). An entry's own row and a write of it by address run one operation. -/
namespace Sys2Proof.Machine

/-! ### Reads -/

/-- Device, management, staging and time base entries (R322). -/
def Blk.readBase (b : Blk) (ch : Channel) (index sub : Nat) : Bytes :=
  let m := b.mgmt
  match index, sub with
  | 0x1000, 0x01 => toBytes 1 b.member.code
  | 0x1000, 0x02 => toBytes 4 m.boot.toNat
  | 0x1000, 0x03 => toBytes 4 m.fwVersion.toNat
  | 0x1000, 0x04 => padTo 48 Config.deviceId
  | 0x1000, 0x05 => toBytes 4 Config.vendorId.toNat
  | 0x1100, 0x01 => toBytes 1 (bit m.mgmtEn)
  | 0x1100, 0x02 => toBytes 6 m.mac.toNat
  | 0x1100, 0x03 => toBytes 4 m.ip4.toNat
  | 0x1100, 0x04 => toBytes 16 m.ip6.toNat
  | 0x1100, 0x05 => toBytes 2 m.udp.toNat
  | 0x1200, 0x03 => toBytes 1 (atB 0 m.slot0.valid + atB 1 m.slot0.expert + atB 2 m.slot1.valid + atB 3 m.slot1.expert)
  | 0x1400, 0x01 => toBytes 4 (b.sels ch).stage.toNat
  | 0x2000, 0x01 => toBytes 2 (b.sels ch).tile
  | 0x2000, 0x02 => toBytes 8 b.clk.frame.toNat
  | 0x2001, 0x01 => toBytes 4 m.coord.toNat
  | _, _ => []

/-- Entries of the sown plane and of the routes (R72, R411). -/
def Blk.readSown (b : Blk) (ch : Channel) (index sub : Nat) : Bytes :=
  let s := b.sown
  let x := b.sels ch
  match index, sub with
  | 0x2200, 0x01 => toBytes 2 s.active.gen.toNat
  | 0x2200, 0x02 => toBytes 2 s.shadow.gen.toNat
  | 0x2200, 0x03 => toBytes 1 s.state.code
  | 0x2200, 0x05 => toBytes 8 s.swapFrame.toNat
  | 0x2200, 0x06 => toBytes 1 (bit (s.state = .armed))
  | 0x2200, 0x07 => toBytes 8 s.lastSwap.toNat
  | 0x2200, 0x08 => toBytes 2 s.active.slots
  | 0x2201, 0x01 => toBytes 4 x.entry.toNat
  | 0x2201, 0x02 => toBytes 8 (s.shadow.entries.getD (entryKey x.entry) 0#64).toNat
  | 0x2201, 0x03 => toBytes 4 x.desc.toNat
  | 0x2201, 0x04 => toBytes 16 (s.shadow.descs.getD (descKey x.desc) 0#128).toNat
  | 0x2201, 0x06 => toBytes 8 (s.active.entries.getD (entryKey x.entry) 0#64).toNat
  | 0x2201, 0x07 => toBytes 16 (s.active.descs.getD (descKey x.desc) 0#128).toNat
  | 0x2201, 0x08 => toBytes 2 (b.fences (fld x.entry 0 10)).toNat
  | 0x2202, 0x03 => toBytes 4 x.route.toNat
  | 0x2202, 0x04 => toBytes 4 (s.shadow.route b.member (fld x.route 0 10) (fld x.route 16 10)).toNat
  | _, _ => []

/-- Entries of the selected tile: controls, queues, handlers, collectives and kernels. -/
def Blk.readTile (b : Blk) (ch : Channel) (t index sub : Nat) : Bytes :=
  let x := b.tile t
  match index, sub with
  | 0x2203, _ => toBytes 16 (b.openCtrlWord t)
  | 0x2204, 0x01 => toBytes 16 x.engCtrl.word
  | 0x2204, _ => toBytes 16 (b.engState t)
  | 0x2205, 0x11 => toBytes 4 x.fbStatus
  | 0x2205, 0x12 => x.fbHead
  | 0x2205, 0x40 => toBytes 1 (b.sels ch).handler
  | 0x2205, 0x41 => toBytes 8 (x.handlerOf (b.sels ch).handler).word
  | 0x2205, s => if s ≤ 0x10 then toBytes 24 (x.queueCtrl (s - 1) (b.rdSeen t (s - 1))) else b.queueHead t (s - 0x21)
  | 0x2206, _ => b.collView t
  | 0x2207, 0x01 => x.kernelView
  | 0x2207, _ => toBytes 2 (x.ks.khdrs.filter fun k => !k.refused).length
  | _, _ => []

/-- Entries of meters, sieve, lookup and classes (R229–R231, R234). -/
def Blk.readTraffic (b : Blk) (ch : Channel) (index sub : Nat) : Bytes :=
  let x := b.sels ch
  let f := b.traf
  match index, sub with
  | 0x2301, 0x01 => toBytes 2 x.meter
  | 0x2301, 0x02 => toBytes 32 (b.meterCfg x.meter).toNat
  | 0x2301, _ => toBytes 16 (((b.meter x.meter).now b.clk.mc).tc + 2 ^ 64 * ((b.meter x.meter).now b.clk.mc).tp)
  | 0x2302, 0x01 => toBytes 2 x.sieve
  | 0x2302, _ => toBytes 40 (f.sieve.getD x.sieve 0#320).toNat
  | 0x2303, 0x01 => toBytes 2 x.lookup
  | 0x2303, _ => toBytes 8 (f.lookup.getD x.lookup 0#64).toNat
  | 0x2304, 0x01 => toBytes 2 x.cls
  | _, _ => toBytes 2 (f.classes.getD x.cls (BitVec.ofNat 16 (x.cls % 64 + 64))).toNat

/-- Entries of a port (R217, R238, R242, R299, R300, R307). -/
def Blk.readPort (b : Blk) (ch : Channel) (p sub : Nat) : Bytes :=
  let x := b.port p
  let i := (b.sels ch).portQueue.getD p 0
  let g := (b.sels ch).portGate.getD p 0
  let q := { b.egQueue p i with shapeEn := b.shapeEnOf p i, rate := (b.shaperOf p i).1, burst := (b.shaperOf p i).2 }
  match sub with
  | 0x01 => toBytes 16 x.ctrlWord.toNat
  | 0x02 => toBytes 6 x.addrA.mac.toNat
  | 0x03 => toBytes 16 x.addrA.ip6.toNat
  | 0x04 => toBytes 6 x.addrA.peerMac.toNat
  | 0x05 => toBytes 16 x.addrA.peerIp6.toNat
  | 0x06 => toBytes 6 x.addrB.mac.toNat
  | 0x07 => toBytes 16 x.addrB.ip6.toNat
  | 0x08 => toBytes 6 x.addrB.peerMac.toNat
  | 0x09 => toBytes 16 x.addrB.peerIp6.toNat
  | 0x0B => toBytes 1 (bit x.facing)
  | 0x0C => toBytes 8 x.pools.word
  | 0x0D => toBytes 1 (bit (b.pwrSeen p = .fallow))
  | 0x10 => toBytes 1 i
  | 0x11 => toBytes 8 q.word
  | 0x12 => toBytes 8 q.shaper
  | 0x13 => toBytes 16 ((b.egQueue p i).stateWord b.clk.mc)
  | 0x20 => toBytes 1 g
  | 0x21 => toBytes 16 (x.eg.gatesPend.getD g (x.eg.gates.getD g Gate.fresh)).word
  | _ => []

/-- Entries of the optics, of wear, library and quorum, and of power (R253, R254, R290–R294, R309–R311). -/
def Blk.readPlant (b : Blk) (trip : Trip) (ch : Channel) (index sub : Nat) : Bytes :=
  let x := b.sels ch
  let q := b.quorum
  match index, sub with
  | 0x2500, 0x01 => toBytes 1 b.optics.calMax
  | 0x2500, _ => toBytes 2 b.optics.calInterval
  | 0x2501, 0x01 => toBytes 2 x.loop
  | 0x2501, 0x02 => toBytes 16 (b.loop x.loop).cfg.toNat
  | 0x2501, _ => toBytes 16 (b.loop x.loop).word
  | 0x2502, 0x01 => toBytes 2 x.optPort
  | 0x2502, _ => toBytes 8 (b.optPort x.optPort).word
  | 0x2600, 0x01 => toBytes 4 b.fault.thTile.toNat
  | 0x2600, 0x02 => toBytes 4 b.fault.thLink.toNat
  | 0x2600, 0x03 => toBytes 4 b.fault.thPort.toNat
  | 0x2600, _ => toBytes 1 b.fault.decay
  | 0x2601, 0x01 => toBytes 2 x.wear.toNat
  | 0x2601, _ => toBytes 8 (b.wearWord x.wear)
  | 0x2602, 0x01 => toBytes 1 x.library
  | 0x2602, _ => toBytes 8 (b.fault.library.getD x.library 0#64).toNat
  | 0x2610, 0x01 => toBytes 1 (bit q.en)
  | 0x2610, 0x02 => toBytes 1 q.self
  | 0x2610, 0x03 => toBytes 2 q.hbInterval
  | 0x2610, 0x04 => toBytes 1 q.hbMiss
  | 0x2610, 0x05 => toBytes 2 q.phase
  | 0x2610, 0x06 => toBytes 1 x.member
  | 0x2610, 0x07 => toBytes 8 (q.member x.member).toNat
  | 0x2610, 0x08 => toBytes 4 q.failed.toNat
  | 0x2610, 0x09 => toBytes 4 q.round.toNat
  | 0x2700, 0x01 => toBytes 8 b.power.ctrl
  | 0x2700, 0x02 => toBytes 1 x.cluster
  | 0x2700, 0x04 => toBytes 16 b.clusterWord
  | 0x2700, 0x06 => toBytes 2 (b.blockState trip)
  | _, _ => []

/-- Entries of observation (R371–R381). -/
def Blk.readObs (b : Blk) (ch : Channel) (t index sub : Nat) : Bytes :=
  let x := b.sels ch
  let o := (b.tile t).ob
  match index, sub with
  | 0x2800, 0x01 => toBytes 2 x.evsel
  | 0x2800, 0x02 => toBytes 4 (if hasFixed x.evsel then (o.ctr.getD x.evsel 0#32).toNat else 0)
  | 0x2800, _ => toBytes 128 o.ovf.toNat
  | 0x2801, 0x01 => toBytes 1 b.obs.rakeK
  | 0x2801, _ => toBytes 8 b.obs.rakeBase.toNat
  | 0x2802, 0x01 => toBytes 8 b.clk.mc
  | 0x2802, 0x0A => o.pmcVals
  | 0x2802, s => toBytes 8 (o.pmc (s - 2)).word.toNat
  | 0x2804, 0x01 => toBytes 1 x.hang
  | 0x2804, 0x02 => ((o.hang[x.hang]?).map fun e => e.bytes 0 0).getD (List.replicate 32 0#8)
  | 0x2804, 0x03 => toBytes 1 (bit o.frozen)
  | 0x2804, _ => toBytes 8 b.obs.hangBase.toNat
  | 0x2805, 0x01 => toBytes 1 b.obs.traceCtrl.toNat
  | 0x2805, _ => toBytes 128 b.obs.traceTiles.toNat
  | 0x2806, 0x01 => toBytes 1 x.histQ
  | 0x2806, 0x02 => o.histRow x.histQ
  | _, _ => []

/-- Entries of the selected plot (R263, R301). -/
def Blk.readPlot (b : Blk) (ch : Channel) (sub : Nat) : Bytes :=
  let x := b.plot (b.sels ch).plot
  match sub with
  | 0x01 => toBytes 2 (b.sels ch).plot
  | 0x02 => toBytes 1 x.state.code
  | 0x03 => toBytes 128 x.cfg.tiles.toNat
  | 0x04 => toBytes 1 (bit x.cfg.recovery)
  | 0x05 => toBytes 2 x.cfg.sownQuota
  | 0x06 => toBytes 1 (bit x.cfg.stealEn)
  | 0x07 => toBytes 2 x.cfg.queueQuota
  | 0x08 => toBytes 16 x.cfg.hbm.toNat
  | 0x09 => padTo 48 x.cfg.owner
  | 0x0B => toBytes 128 x.cfg.tilesNext.toNat
  | 0x0C => toBytes 1 x.result.toNat
  | 0x0D => toBytes 2 x.keys.word
  | 0x0E => toBytes 4 x.bindSerial.toNat
  | 0x10 => toBytes 4 x.cfg.rankBase.toNat
  | 0x11 => toBytes 4 x.cfg.rankCount.toNat
  | 0x12 => toBytes 2 x.graft.gen.toNat
  | 0x13 => toBytes 2 x.graft.hold
  | 0x14 => toBytes 2 (b.sels ch).graft
  | 0x15 => toBytes 2 (x.graft.map.getD (b.sels ch).graft 0#16).toNat
  | _ => []

/-- Entries of firmware, self-test and the store (R361, R370). -/
def Blk.readFw (b : Blk) (ch : Channel) (index sub : Nat) : Bytes :=
  match index, sub with
  | 0x4000, 0x01 => toBytes 2 b.fw.stateWord
  | 0x4000, 0x04 => toBytes 1 b.fw.rollback
  | 0x4000, 0x05 => b.fw.slotInfo false ++ b.fw.slotInfo true
  | 0x4010, 0x01 => toBytes 1 (b.sels ch).stCluster
  | 0x4010, 0x03 => toBytes 1 (b.power.stResult.getD (b.sels ch).stCluster 0#8).toNat
  | 0x4010, 0x04 => toBytes 8 b.power.stFailed.toNat
  | 0x4020, _ => toBytes 8 b.fw.storeWord
  | _, _ => []

/-- What a read takes an entry from: an RO entry, and STATE of PORT_CTRL and W of WEAR, as they stood when the mc began, each channel
seeing its own selectors; any other field as it is (R333, R336). -/
def Blk.roOf (b was : Blk) (ro : Bool) (index sub : Nat) : Blk :=
  if ro && index / 0x100 ≠ 0x32 then { was with mgmt := b.mgmt }
  else if index / 0x100 = 0x24 && sub = 1 then b.modPort (index % 0x100) fun x => { x with state := (was.port (index % 0x100)).state }
  else if index = 0x2601 then { b with fault := { b.fault with wear := b.fault.wear.mapV fun k x =>
    ((was.fault.wear.getD k (0#32, false, false)).1, x.2.1, x.2.2) } }
  else b

/-- Whether the store that holds an entry has an uncorrectable error there: router memory behind the tables, SRAM behind a queue's
head (R332, log 53). -/
def Blk.entryDamaged (b : Blk) (ch : Channel) (index sub : Nat) : Bool :=
  let x := b.sels ch
  let router := fun t => b.ecc.router.get? t = some true
  if index = 0x2201 then
    ((sub = 0x02 || sub = 0x06) && router (fld x.entry 0 10)) || ((sub = 0x04 || sub = 0x07) && router (fld x.desc 0 10))
  else if index = 0x2202 then sub = 0x04 && router (fld x.route 0 10)
  else if index = 0x2205 && 0x21 ≤ sub && sub ≤ 0x30 then
    let q := (b.tile x.tile).queue (sub - 0x21)
    q.rd ≠ q.wr && (b.sramErrors x.tile (q.addr q.rd) 64).any (·.2)
  else false

/-- What a single-frame read of an entry returns: a WO entry reads as zeros, a DOMAIN is refused, a tile under test too
(R317, R319, R329, R332, R356). -/
def Blk.odRead (b : Blk) (seen : Seen) (ch : Channel) (index sub : Nat) : Except Nat Bytes :=
  match b.entry? index sub with
  | .error a => .error a
  | .ok e =>
    let b := b.roOf seen.was (e.access = acRO) index sub
    let t := (b.sels ch).tile
    if sub = 0 then .ok (toBytes 1 (maxSub b.member index))
    else if e.expert && !e.both && !b.expert ch then .error abLevel
    else if e.type = tyDomain then .error abType
    else if e.inst = inTile && (b.selTile ch).isNone then .error abState
    else if e.access = acWO then .ok (List.replicate e.size 0#8)
    else if b.entryDamaged ch index sub then .error abHardware
    else if index < 0x2200 then .ok (b.readBase ch index sub)
    else if index < 0x2203 then .ok (b.readSown ch index sub)
    else if index < 0x2300 then .ok (b.readTile ch t index sub)
    else if index < 0x2400 then .ok (b.readTraffic ch index sub)
    else if index < 0x2500 then .ok (b.readPort ch (index - 0x2400) sub)
    else if index < 0x2800 then .ok (b.readPlant seen.trip ch index sub)
    else if index < 0x3000 then .ok (b.readObs ch t index sub)
    else if index = 0x3100 then .ok (b.readPlot ch sub)
    else if index = 0x3200 then
      if sub = 0x02 then b.attest ch
      else .ok (toBytes 1 (b.vault.reportReq.getD (chNum ch) (0, [])).1 ++ padTo 32 (b.vault.reportReq.getD (chNum ch) (0, [])).2)
    else if index = 0x3201 then .ok (padTo 48 b.vault.ideMgr)
    else .ok (b.readFw ch index sub)

/-! ### Key slots (R283, R325) -/

/-- The channel of a key slot. -/
def slotCh (slot : Bool) : Channel := if slot then .slot1 else .slot0

/-- A key slot takes its 34 bytes; an open transfer of its channel closes (R331). -/
def Blk.setKeySlot (b : Blk) (slot : Bool) (xs : Bytes) : Blk :=
  let b := b.closeXfer (slotCh slot) abCancelled
  if slot then { b with mgmt := { b.mgmt with slot1 := KeySlot.of xs } } else { b with mgmt := { b.mgmt with slot0 := KeySlot.of xs } }

/-- A write of a key slot: never of the one that authenticates it, journalled first (R283, R325). -/
def Blk.writeKeySlot (b : Blk) (ch : Channel) (slot : Bool) (xs : Bytes) : Od :=
  if xs.length ≠ 34 then Od.no b abLength
  else if ch = slotCh slot then Od.no b abState
  else if 1 < (xs.getD 32 0#8).toNat || 1 < (xs.getD 33 0#8).toNat then Od.no b abRange
  else b.replayJournal.storeThen psJournal (BitVec.ofNat 8 (bit slot) :: xs) fun b =>
    { b.setKeySlot slot xs with fw := { (b.setKeySlot slot xs).fw with keyJournal := true } }
def execKeySlotWrite (ch : Channel) (slot : Bool) (value : Bytes) (s : State) : Out :=
  s.od (.keySlotWrite ch slot value) ch true fun b => b.writeKeySlot ch slot value

/-! ### Writes -/

/-- A write of the management attach entries, which the store keeps (R322, R366). -/
def Blk.writeMgmt (b : Blk) (sub : Nat) (xs : Bytes) : Od :=
  let v := ofBytes xs
  let set := fun (f : Mgmt → Mgmt) => b.storeThen (psMgmt sub) xs fun b => { b with mgmt := f b.mgmt }
  match sub with
  | 0x01 => if 1 < v then Od.no b abRange else set fun m => { m with mgmtEn := v = 1 }
  | 0x02 => set fun m => { m with mac := BitVec.ofNat 48 v }
  | 0x03 => set fun m => { m with ip4 := BitVec.ofNat 32 v }
  | 0x04 => set fun m => { m with ip6 := BitVec.ofNat 128 v }
  | _ => if v = 0 then Od.no b abRange else set fun m => { m with udp := BitVec.ofNat 16 v }

/-- A write of a selector: RANGE outside its range leaves it unchanged (R318, R321). -/
def Blk.writeSel (b : Blk) (ch : Channel) (ok : Bool) (f : Sels → Sels) : Od :=
  if ok then Od.ok (b.modSels ch f) else Od.no b abRange

/-- The selectors that are entries of their own (R318, R321). -/
def Blk.writeSelector (b : Blk) (ch : Channel) (index v : Nat) : Od :=
  let m := b.member
  match index with
  | 0x1400 => b.writeSel ch true fun x => { x with stage := BitVec.ofNat 32 v }
  | 0x2000 => b.writeSel ch (m.hasTile v) fun x => { x with tile := v }
  | 0x2205 => b.writeSel ch true fun x => { x with handler := v }
  | 0x2301 => b.writeSel ch (v < 16384) fun x => { x with meter := v }
  | 0x2302 => b.writeSel ch (v < 4096) fun x => { x with sieve := v }
  | 0x2303 => b.writeSel ch true fun x => { x with lookup := v }
  | 0x2304 => b.writeSel ch (v < 16384) fun x => { x with cls := v }
  | 0x2501 => b.writeSel ch (v < 10 * m.ports) fun x => { x with loop := v }
  | 0x2502 => b.writeSel ch (v < m.ports) fun x => { x with optPort := v }
  | 0x2601 => b.writeSel ch (wearSelOk b.member v) fun x => { x with wear := BitVec.ofNat 16 v &&& 0xCFFF#16 }
  | 0x2602 => b.writeSel ch (v < 64) fun x => { x with library := v }
  | 0x2700 => b.writeSel ch (m.hasCluster v && v < 64) fun x => { x with cluster := v }
  | 0x2800 => b.writeSel ch (v < 1024) fun x => { x with evsel := v }
  | 0x2804 => b.writeSel ch (v < 64) fun x => { x with hang := v }
  | 0x2806 => b.writeSel ch (v < 80) fun x => { x with histQ := v }
  | 0x3100 => b.writeSel ch (v < 256) fun x => { x with plot := v }
  | _ => b.writeSel ch (m.hasCluster v && v < 64) fun x => { x with stCluster := v }

/-- A write of an entry of the sown plane or of the routes (R66, R411). -/
def Blk.writeSown (b : Blk) (ch : Channel) (index sub v : Nat) : Od :=
  match index, sub with
  | 0x2200, 0x04 => if v = 1 then b.loadStart else Od.no b abRange
  | 0x2200, 0x05 => b.writeSwapFrame (BitVec.ofNat 64 v)
  | 0x2200, _ => if v = 1 then b.arm else if v = 0 then b.disarm else Od.no b abRange
  | 0x2201, 0x01 => b.writeExpertSel ch .entry (BitVec.ofNat 32 v)
  | 0x2201, 0x02 => b.writeEntry ch (BitVec.ofNat 64 v)
  | 0x2201, 0x03 => b.writeExpertSel ch .descriptor (BitVec.ofNat 32 v)
  | 0x2201, 0x04 => b.writeDesc ch (BitVec.ofNat 128 v)
  | 0x2201, _ => if v = 1 then b.expertCheck else Od.no b abRange
  | _, 0x03 => b.writeExpertSel ch .route (BitVec.ofNat 32 v)
  | _, _ => b.writeRoute ch (BitVec.ofNat 32 v)

/-- A write of an entry of the selected tile. -/
def Blk.writeTile (index sub v t : Nat) (b : Blk) : Od :=
  match index, sub with
  | 0x2203, _ => Od.ok (b.modTile t fun x => x.writeOpenCtrl (BitVec.ofNat 128 v))
  | 0x2204, _ => Od.ok (b.modTile t fun x => x.writeEngCtrl (BitVec.ofNat 128 v))
  | 0x2205, 0x13 => Od.ok (b.fbPop t (BitVec.ofNat 32 v))
  | 0x2205, _ => Od.ok (b.writeRd t (sub - 1) (v / 2 ^ 64 % 2 ^ 16))
  | 0x2800, 0x03 => Blk.clearOvf (BitVec.ofNat 1024 v) t b
  | 0x2802, 0x0A => Od.ok (b.modOb t fun o => o.setPmcVals (toBytes 64 v))
  | 0x2802, _ => Od.ok (b.writePmc t (sub - 2) (BitVec.ofNat 64 v))
  | 0x2804, _ => Blk.thaw (BitVec.ofNat 8 v) t b
  | _, _ => Blk.clearHist v t b

/-- A write of meters, sieve, lookup or classes. -/
def Blk.writeTraffic (b : Blk) (ch : Channel) (index v : Nat) : Od :=
  match index with
  | 0x2301 => b.writeMeter (b.sels ch).meter (BitVec.ofNat 256 v)
  | 0x2302 => b.writeSieve (b.sels ch).sieve (BitVec.ofNat 320 v)
  | 0x2303 => b.writeLookup (b.sels ch).lookup (BitVec.ofNat 64 v)
  | _ => b.writeClass (b.sels ch).cls (BitVec.ofNat 16 v)

/-- A host command of a port (R217). -/
def Blk.portCommand (b : Blk) (p v : Nat) : Od :=
  match v with
  | 1 => Blk.portCmd p (b.portUp p)
  | 2 => Blk.portCmd p (Od.ok (b.portDrain p))
  | 3 => Blk.portCmd p (Od.ok (b.portDown p))
  | _ => Od.no b abRange

/-- An address of a port, by its place in the entries .02 to .05 or .06 to .09 (R217). -/
def PortAddr.set (a : PortAddr) (i v : Nat) : PortAddr :=
  match i with
  | 0 => { a with mac := BitVec.ofNat 48 v }
  | 1 => { a with ip6 := BitVec.ofNat 128 v }
  | 2 => { a with peerMac := BitVec.ofNat 48 v }
  | _ => { a with peerIp6 := BitVec.ofNat 128 v }

/-- A write of an entry of a port. -/
def Blk.writePort (b : Blk) (ch : Channel) (p sub v : Nat) : Od :=
  let q := (b.sels ch).portQueue.getD p 0
  match sub with
  | 0x01 => b.writePortCtrl (b.expert ch) p (BitVec.ofNat 128 v)
  | 0x0A => b.portCommand p v
  | 0x0B => if 1 < v then Od.no b abRange else b.writeFacing p v
  | 0x0C => b.writePools p (BitVec.ofNat 64 v)
  | 0x0D => if 1 < v then Od.no b abRange else b.writePortPwr p (v = 1)
  | 0x10 => b.writeSel ch (v < 64) fun x => { x with portQueue := x.portQueue.put p v }
  | 0x11 => b.writeEgQueue p q (BitVec.ofNat 64 v)
  | 0x12 => b.writeShaper p q (BitVec.ofNat 64 v)
  | 0x20 => b.writeSel ch (v < 16) fun x => { x with portGate := x.portGate.put p v }
  | 0x21 => b.writeGate p ((b.sels ch).portGate.getD p 0) (BitVec.ofNat 128 v)
  | s =>
    if s < 0x06 then Od.ok (b.modPort p fun x => { x with addrA := x.addrA.set (s - 0x02) v })
    else Od.ok (b.modPort p fun x => { x with addrB := x.addrB.set (s - 0x06) v })

/-- A write of CAL_MAX or CAL_INTERVAL (R254). -/
def Blk.writeCal (b : Blk) (sub v : Nat) : Od :=
  if sub = 0x01 then
    if v < 1 || 64 < v then Od.no b abRange else Od.ok { b with optics := { b.optics with calMax := v } }
  else if v < 1 || 3600 < v then Od.no b abRange else Od.ok { b with optics := { b.optics with calInterval := v } }

/-- A write of an entry of the optics, of wear, library and quorum, or of power. -/
def Blk.writePlant (b : Blk) (ch : Channel) (index sub v : Nat) : Od :=
  let x := b.sels ch
  match index, sub with
  | 0x2500, _ => b.writeCal sub v
  | 0x2501, _ => b.writeLoop x.loop (BitVec.ofNat 128 v)
  | 0x2502, _ => b.writeOptPort (b.expert ch) x.optPort (BitVec.ofNat 64 v)
  | 0x2600, _ => b.writeWearCfg sub v
  | 0x2601, _ => b.writeWear x.wear (BitVec.ofNat 64 v)
  | 0x2602, _ => b.writeLibrary x.library (BitVec.ofNat 64 v)
  | 0x2610, _ => b.writeGroup ch sub v
  | 0x2700, 0x01 => b.writePwrCtrl (BitVec.ofNat 64 v)
  | 0x2700, 0x03 => b.writeClusterCmd x.cluster v
  | _, _ => b.writeBlockCmd v

/-- A write of an entry of observation that is not one of a tile. -/
def Blk.writeObs (b : Blk) (index sub : Nat) (xs : Bytes) : Od :=
  let v := ofBytes xs
  match index, sub with
  | 0x2801, 0x01 => b.writeRakeK v
  | 0x2801, _ => b.writeRakeBase (BitVec.ofNat 64 v)
  | 0x2803, _ => b.markerSend xs
  | 0x2804, _ => b.writeHangBase (BitVec.ofNat 64 v)
  | 0x2805, 0x01 => b.writeTraceCtrl (BitVec.ofNat 8 v)
  | _, _ => Od.ok { b with obs := { b.obs with traceTiles := BitVec.ofNat 1024 v } }

/-- A write of an entry of the selected plot. -/
def Blk.writePlot (b : Blk) (ch : Channel) (sub : Nat) (xs : Bytes) : Od :=
  let p := (b.sels ch).plot
  let v := ofBytes xs
  match sub with
  | 0x05 => b.writeSownQuota p v
  | 0x07 => b.writeQueueQuota p v
  | 0x08 => b.writeHbmRange p (BitVec.ofNat 128 v)
  | 0x0A => b.plotCommand p v
  | 0x13 => b.writeGraftHold p v
  | 0x14 => b.writeSel ch (b.member.hasTile v) fun x => { x with graft := v }
  | 0x15 => b.writeGraftMap p (b.sels ch).graft (BitVec.ofNat 16 v)
  | _ => b.writePlotCfg p sub xs

/-- A report request: plot and nonce, kept for the channel (R274, R318). -/
def Blk.writeReport (b : Blk) (ch : Channel) (xs : Bytes) : Od :=
  Od.ok { b with vault := { b.vault with reportReq := b.vault.reportReq.put (chNum ch) (ofBytes (xs.take 1), xs.drop 1) } }

/-- A write of an entry of firmware or self-test. -/
def Blk.writeFw (b : Blk) (ch : Channel) (index sub v : Nat) : Od :=
  match index, sub with
  | 0x4000, 0x03 => b.fwCmd v
  | 0x4000, _ => b.restart v
  | _, _ => b.selfTestStart (b.sels ch).stCluster v

/-- Whether an entry is a selector that `writeSelector` sets. -/
def isSelector (index sub : Nat) : Bool :=
  (sub = 0x01 && [0x1400, 0x2000, 0x2301, 0x2302, 0x2303, 0x2304, 0x2501, 0x2502, 0x2601, 0x2602, 0x2800, 0x2804, 0x2806, 0x3100,
    0x4010].contains index) || (index = 0x2205 && sub = 0x40) || (index = 0x2700 && sub = 0x02)

/-- The write of an entry that exists and may be written, with bytes of its size. -/
def Blk.odStore (b : Blk) (ch : Channel) (index sub : Nat) (xs : Bytes) : Od :=
  let v := ofBytes xs
  let tile : Bool := (0x2203 ≤ index && index < 0x2300) || index = 0x2802 || (index = 0x2800 && sub = 0x03) ||
    (index = 0x2804 && sub = 0x03) || (index = 0x2806 && sub = 0x03)
  if isSelector index sub then b.writeSelector ch index v
  else if tile then b.odTile ch (Blk.writeTile index sub v)
  else if index = 0x2800 then b.odTile ch (Blk.writeCounter (b.sels ch).evsel (BitVec.ofNat 32 v))
  else if index = 0x1100 then b.writeMgmt sub xs
  else if index = 0x1200 then b.writeKeySlot ch (sub = 0x02) xs
  else if index = 0x2001 then
    b.storeThen psCoord xs fun b => { b with mgmt := { b.mgmt with coord := BitVec.ofNat 32 v } }
  else if index < 0x2203 then b.writeSown ch index sub v
  else if index < 0x2400 then b.writeTraffic ch index v
  else if index < 0x2500 then b.writePort ch (index - 0x2400) sub v
  else if index < 0x2800 then b.writePlant ch index sub v
  else if index < 0x3000 then b.writeObs index sub xs
  else if index = 0x3100 then b.writePlot ch sub xs
  else if index = 0x3200 then b.writeReport ch xs
  else if index = 0x3201 then b.writeIdeManager ch xs
  else b.writeFw ch index sub v

/-- A single-frame write of an entry (R317, R319, R329, R332). -/
def Blk.odWrite (b : Blk) (ch : Channel) (index sub : Nat) (xs : Bytes) : Od :=
  match b.entry? index sub with
  | .error a => Od.no b a
  | .ok e =>
    if e.access = acRO || e.access = acConst then Od.no b abAccess
    else if e.expert && !b.expert ch then Od.no b abLevel
    else if e.type = tyDomain then Od.no b abType
    else if xs.length ≠ e.size then Od.no b abLength
    else b.odStore ch index sub xs

/-! ### Requests -/

/-- A request that any channel may carry, and the mailbox in RECOVERY (R317, R365); it is told of the trip and of
the block as the mc began (R311, R333). -/
def State.request (s : State) (i : Instr) (ch : Channel) (f : Seen → Blk → Blk) : Out :=
  s.at i fun s =>
    if (s.blk.fw.stage = .done && s.blk.open_ ch) || (s.blk.fw.stage = .recovery && ch = .mailbox) then
      .next { s with blk := f s.seen s.blk }
    else .next s

/-- An accepted or refused write is answered. -/
def Blk.odAnswer (r : Od) : Blk := r.1.answer r.2

/-- READ. -/
def Blk.doRead (b : Blk) (seen : Seen) (ch : Channel) (index sub : Nat) : Blk :=
  match b.odRead seen ch index sub with
  | .ok xs => b.answer abNone xs
  | .error a => b.answer a

/-- DESCRIBE. -/
def Blk.doDescribe (b : Blk) (index sub : Nat) : Blk :=
  match b.entry? index sub with
  | .ok e => b.answer abNone e.describe
  | .error a => b.answer a

/-- HELLO: MEMBER and FW_VERSION (R326). -/
def Blk.doHello (b : Blk) : Blk := b.answer abNone (toBytes 1 b.member.code ++ toBytes 4 b.mgmt.fwVersion.toNat)

/-- SEG_WRITE: TYPE for an entry that is no DOMAIN, LEVEL on an expert one (R317, R329). -/
def Blk.doSegWrite (b : Blk) (ch : Channel) (index sub total : Nat) (xcrc : BitVec 32) : Od :=
  match b.entry? index sub with
  | .error a => Od.no b a
  | .ok e =>
    if e.expert && !b.expert ch then Od.no b abLevel
    else if e.type ≠ tyDomain then Od.no b abType
    else b.domainOpen ch index sub total xcrc

/-- SEG_READ: every DOMAIN is write-only, so the object read is empty. -/
def Blk.doSegRead (b : Blk) (ch : Channel) (index sub : Nat) : Od :=
  match b.entry? index sub with
  | .error a => Od.no b a
  | .ok e =>
    if e.expert && !b.expert ch then Od.no b abLevel
    else if e.type ≠ tyDomain then Od.no b abType
    else if (b.xfer ch).isSome || b.transferOn index sub then Od.no b abBusy
    else Od.ok (b.setXfer ch (some
      { index := index, sub := sub, write := false, total := 0, xcrc := crc32c [], base := 0, next := 0, data := [] }))

def execMoaRead (ch : Channel) (index sub : Nat) (s : State) : Out :=
  s.request (.moaRead ch index sub) ch fun seen b => b.doRead seen ch index sub
def execMoaWrite (ch : Channel) (index sub : Nat) (payload : Bytes) (s : State) : Out :=
  s.request (.moaWrite ch index sub payload) ch fun _ b => Blk.odAnswer (b.odWrite ch index sub payload)
def execOdRegisterWrite (ch : Channel) (index sub : Nat) (payload : Bytes) (s : State) : Out :=
  s.request (.odRegisterWrite ch index sub payload) ch fun _ b => Blk.odAnswer (b.odWrite ch index sub payload)
def execDescribe (ch : Channel) (index sub : Nat) (s : State) : Out :=
  s.request (.describe ch index sub) ch fun _ b => b.doDescribe index sub
def execSegWrite (ch : Channel) (index sub total : Nat) (xcrc : BitVec 32) (s : State) : Out :=
  s.request (.segWrite ch index sub total xcrc) ch fun _ b => Blk.odAnswer (b.doSegWrite ch index sub total xcrc)
def execSegRead (ch : Channel) (index sub : Nat) (s : State) : Out :=
  s.request (.segRead ch index sub) ch fun _ b => Blk.odAnswer (b.doSegRead ch index sub)

/-- HELLO needs no key: a slot's channel answers it while MGMT_EN = 1. -/
def execHello (ch : Channel) (s : State) : Out :=
  s.at (.hello ch) fun s =>
    if s.blk.fw.stage = .done && (ch = .mailbox || s.blk.mgmt.mgmtEn) || (s.blk.fw.stage = .recovery && ch = .mailbox) then
      .next { s with blk := s.blk.doHello }
    else .next s

end Sys2Proof.Machine
end

