-- ==== Sys2Proof/Machine/Moa.lean ====
section
/-! DEFINITION. MOA frames over UDP: addresses, tags, the SEQ window, requests, responses and segments; ARP and neighbour
solicitations (R323–R328, R401). -/
namespace Sys2Proof.Machine

/-! ### The MOA header (R324) -/

def mhMagic (h : BitVec 256) : Nat := fld h 0 16
def mhVer (h : BitVec 256) : Nat := fld h 16 4
def mhKind (h : BitVec 256) : Nat := fld h 20 4
def mhOp (h : BitVec 256) : Nat := fld h 24 8
def mhSlot (h : BitVec 256) : Bool := flag h 32
def mhAuth (h : BitVec 256) : Bool := flag h 33
def mhSub (h : BitVec 256) : Nat := fld h 40 8
def mhIndex (h : BitVec 256) : Nat := fld h 48 16
def mhBoot (h : BitVec 256) : Nat := fld h 64 32
def mhSeq (h : BitVec 256) : Nat := fld h 96 32
def mhLen (h : BitVec 256) : Nat := fld h 128 16
def mhSegno (h : BitVec 256) : Nat := fld h 144 16
def mhTotal (h : BitVec 256) : Nat := fld h 176 32
def mhXcrc (h : BitVec 256) : BitVec 32 := BitVec.ofNat 32 (fld h 208 32)

def mkRequest : Nat := 0
def mkResponse : Nat := 1
def mkSegment : Nat := 2
def mkSegAck : Nat := 3
def mkSpdm : Nat := 4

/-- The header of an MOA frame's bytes. -/
def moaHdr (xs : Bytes) : BitVec 256 := BitVec.ofNat 256 (ofBytes (padTo 32 xs))

/-- Whether MAGIC, VER, KIND and length hold. -/
def moaOk (xs : Bytes) : Bool :=
  let h := moaHdr xs
  32 ≤ xs.length && mhMagic h = 0x4D4F && mhVer h = 1 && mhKind h ≤ 4 && mhKind h ≠ mkResponse && mhLen h ≤ 1024 &&
    xs.length = 32 + mhLen h + (if mhAuth h then 16 else 0)

/-- The payload of a frame. -/
def moaPayload (xs : Bytes) : Bytes := (xs.drop 32).take (mhLen (moaHdr xs))

/-- The tag of a header and payload under a key (R325). -/
def moaTag (key xs : Bytes) : Bytes := padTo 16 (Config.hmac256 key xs)

/-- Whether a frame's tag is that of a key. -/
def moaTagOk (key xs : Bytes) : Bool :=
  let n := 32 + mhLen (moaHdr xs)
  (xs.drop n).take 16 = moaTag key (xs.take n)

/-! ### Answers -/

/-- A frame that answers one: KIND, ABORT, SEGNO, TOTAL, XCRC and payload; SEQ, OP, SLOT, INDEX and SUB are echoed, and BOOT is
the current one over UDP and echoed on the mailbox (R324, R327). -/
def Blk.moaFrame (b : Blk) (h : BitVec 256) (boot kind abort segno total xcrc : Nat) (payload : Bytes) : Bytes :=
  let w := 0x4D4F + at_ 16 4 1 + at_ 20 4 kind + at_ 24 8 (mhOp h) + atB 32 (mhSlot h) + atB 33 (mhAuth h) + at_ 40 8 (mhSub h) +
    at_ 48 16 (mhIndex h) + at_ 64 32 boot + at_ 96 32 (mhSeq h) + at_ 128 16 payload.length + at_ 144 16 segno + at_ 160 8 abort +
    at_ 176 32 total + at_ 208 32 xcrc
  let xs := toBytes 32 w ++ payload
  if mhAuth h then xs ++ moaTag (if mhSlot h then b.mgmt.slot1.key else b.mgmt.slot0.key) xs else xs

/-- The response to a request from the steward's last answer. -/
def Blk.moaResponse (b : Blk) (ch : Channel) (h : BitVec 256) (boot : Nat) : Bytes :=
  let r := b.mgmt.resp
  let x := if mhOp h = 0x05 && r.abort = 0#8 then b.xfer ch else none
  b.moaFrame h boot mkResponse r.abort.toNat 0 ((x.map (·.total)).getD 0) ((x.map (·.xcrc.toNat)).getD 0) r.payload

/-! ### What a frame does -/

/-- A REQUEST is carried out on a channel; the answer stays in `resp` (R319, R324). -/
def Blk.moaRequest (b : Blk) (seen : Seen) (ch : Channel) (xs : Bytes) : Blk :=
  let h := moaHdr xs
  let i := mhIndex h
  let s := mhSub h
  match mhOp h with
  | 0x01 => b.doRead seen ch i s
  | 0x02 => Blk.odAnswer (b.odWrite ch i s (moaPayload xs))
  | 0x03 => b.doDescribe i s
  | 0x04 => Blk.odAnswer (b.doSegWrite ch i s (mhTotal h) (mhXcrc h))
  | 0x05 => Blk.odAnswer (b.doSegRead ch i s)
  | 0x06 => Blk.odAnswer (b.segAbort ch)
  | 0x07 => b.doHello
  | _ => b.answer abNoOp

/-- A frame that is to be executed, and the frames that answer it. -/
def Blk.moaExec (b : Blk) (seen : Seen) (ch : Channel) (boot : Nat) (xs : Bytes) : Blk × List Bytes :=
  let h := moaHdr xs
  if mhKind h = mkSegment then
    let b := b.segment ch (mhSegno h) (moaPayload xs)
    (b, [b.moaFrame h boot mkSegAck b.mgmt.segAck.2.toNat b.mgmt.segAck.1 0 0 []])
  else if mhKind h = mkSegAck then
    let b := b.segAck ch (mhSegno h)
    (b, b.mgmt.segOut.zipIdx.map fun x => b.moaFrame h boot mkSegment 0 (mhSegno h + x.2) 0 0 x.1)
  else
    let b := b.moaRequest seen ch xs
    (b, [b.moaResponse ch h boot])

/-! ### The SEQ window (R326) -/

def Blk.seqRec (b : Blk) (slot : Bool) : SeqRec := if slot then b.mgmt.seq1 else b.mgmt.seq0
def Blk.setSeqRec (b : Blk) (slot : Bool) (r : SeqRec) : Blk :=
  if slot then { b with mgmt := { b.mgmt with seq1 := r } } else { b with mgmt := { b.mgmt with seq0 := r } }

/-- Whether a SEQ is new: above H, or in H − 63 to H and not yet taken. -/
def SeqRec.fresh_ (r : SeqRec) (n : Nat) : Bool :=
  !r.any || r.h.toNat < n || (r.h.toNat ≤ n + 63 && !r.taken.contains n)

/-- A SEQ is taken: H rises, and the record keeps H − 63 to H. -/
def SeqRec.take (r : SeqRec) (n : Nat) : SeqRec :=
  let h := if r.any then max r.h.toNat n else n
  { r with h := BitVec.ofNat 32 h, any := true, taken := (n :: r.taken).filter fun k => h ≤ k + 63 }

/-- The responses to the last eight SEQ values are held, newest first. -/
def SeqRec.hold (r : SeqRec) (n : Nat) (frames : List Bytes) : SeqRec :=
  let keep : List Nat := ((r.replies.map fun (x : Nat × Bytes) => x.1).eraseDups).take 7
  { r with replies := frames.map (fun f => (n, f)) ++ r.replies.filter (fun x => keep.contains x.1) }

/-- The responses held for a SEQ. -/
def SeqRec.held (r : SeqRec) (n : Nat) : List Bytes := (r.replies.filter fun x => x.1 = n).map (·.2)

/-- MOA_AUTH_FAIL at most once per second (R4, R326). -/
def Blk.authFail (b : Blk) (slot : Bool) : Blk :=
  let b := b.countSys evMoaAuthFail
  if b.mgmt.authFailAt.any fun m => b.clk.mc - m < b.mcOf 1000000000 then b
  else { b.raiseS 0x64 0 none (bit slot) with mgmt := { (b.raiseS 0x64 0 none (bit slot)).mgmt with authFailAt := some b.clk.mc } }

/-- A frame whose MOA form holds is authenticated, sorted by SEQ and executed; the frames that answer it (R326, R367). It is checked
against the key that stood when the mc began (R333). -/
def Blk.moaReceive (b : Blk) (seen : Seen) (xs : Bytes) : Blk × List Bytes :=
  let h := moaHdr xs
  let slot := mhSlot h
  let ch := slotCh slot
  let boot := b.mgmt.boot.toNat
  if !moaOk xs || !b.mgmt.mgmtEn then (b.countSys evMoaBad, [])
  else if mhKind h = mkRequest && mhOp h = 0x07 then
    let b := b.doHello
    (b, [b.moaResponse ch (setFld h 33 1 0) boot])
  else if b.fw.worn || mhKind h = mkSpdm then (b, [])
  else if !mhAuth h || !(seen.was.keySlot ch).valid || !moaTagOk (seen.was.keySlot ch).key xs then (b.authFail slot, [])
  else if mhBoot h ≠ boot then
    let b := b.answer abBoot
    (b, [b.moaResponse ch h boot])
  else
    let r := b.seqRec slot
    let n := mhSeq h
    if r.fresh_ n then
      let x := (b.setSeqRec slot (r.take n)).moaExec seen ch boot xs
      (x.1.setSeqRec slot ((x.1.seqRec slot).hold n x.2), x.2)
    else if !(r.held n).isEmpty then (b, r.held n)
    else
      let b := b.answer abSeq
      (b, [b.moaResponse ch h boot])

/-! ### Ethernet, IP and UDP (R323) -/

/-- The checksum of a pseudo-header and a UDP datagram; 0 is sent as all ones. -/
def pseudoSum (pseudo udp : Bytes) : Nat :=
  let s := onesSum (pseudo ++ udp)
  let c := 65535 - (s % 65536 + s / 65536) % 65536
  if c = 0 then 65535 else c

/-- The pseudo-header of addresses of 4 or 16 bytes and n bytes of UDP. -/
def pseudo (src dst : Bytes) (n : Nat) : Bytes :=
  if src.length = 4 then src ++ dst ++ toBE 2 17 ++ toBE 2 n else src ++ dst ++ toBE 4 n ++ toBE 4 17

/-- What a frame addressed to MOA holds: MAC, IP addresses and ports of the sender, and the UDP payload. -/
structure MoaIn where
  mac : Bytes
  src : Bytes
  dst : Bytes
  port : Nat
  body : Bytes
  sumOk : Bool
  deriving DecidableEq, Repr

/-- The UDP part of a frame to this block's addresses: none for another port. -/
def Blk.moaUdp (b : Blk) (mac src dst udp : Bytes) : Option MoaIn :=
  let n := ofBE ((udp.drop 4).take 2)
  let d := udp.take n
  let sum := ofBE ((udp.drop 6).take 2)
  if udp.length < 8 || n < 8 || udp.length < n || ofBE ((udp.drop 2).take 2) ≠ b.mgmt.udp.toNat then none
  else some
    { mac := mac, src := src, dst := dst, port := ofBE (udp.take 2), body := d.drop 8,
      sumOk := sum = 0 || sum = pseudoSum (pseudo src dst n) (d.take 6 ++ [0#8, 0#8] ++ d.drop 8) }

/-- A frame to this block's MAC, to its IPv4 or IPv6 address and its UDP port; none for any other (R323). -/
def Blk.moaFor (b : Blk) (xs : Bytes) : Option MoaIn :=
  let mac := (xs.drop 6).take 6
  let ip := xs.drop 14
  if xs.take 6 ≠ toBE 6 b.mgmt.mac.toNat then none
  else if ofBE ((xs.drop 12).take 2) = 0x0800 then
    if b.mgmt.ip4 = 0#32 || ip.take 1 ≠ [0x45#8] || ofBE ((ip.drop 6).take 2) % 16384 ≠ 0 || (ip.drop 9).take 1 ≠ [17#8] ||
        (ip.drop 16).take 4 ≠ toBE 4 b.mgmt.ip4.toNat then none
    else b.moaUdp mac ((ip.drop 12).take 4) ((ip.drop 16).take 4) (ip.drop 20)
  else if ofBE ((xs.drop 12).take 2) = 0x86DD then
    if b.mgmt.ip6 = 0#128 || (ip.headD 0#8).toNat / 16 ≠ 6 || (ip.drop 6).take 1 ≠ [17#8] ||
        (ip.drop 24).take 16 ≠ toBE 16 b.mgmt.ip6.toNat then none
    else b.moaUdp mac ((ip.drop 8).take 16) ((ip.drop 24).take 16) (ip.drop 40)
  else none

/-- The frame that carries a UDP payload back to the sender of one. -/
def Blk.moaOut (b : Blk) (x : MoaIn) (body : Bytes) : Bytes :=
  let n := 8 + body.length
  let udp := fun sum => toBE 2 b.mgmt.udp.toNat ++ toBE 2 x.port ++ toBE 2 n ++ toBE 2 sum ++ body
  let sum := pseudoSum (pseudo x.dst x.src n) (udp 0)
  let eth := x.mac ++ toBE 6 b.mgmt.mac.toNat
  if x.src.length = 4 then
    let ip := fun c => [0x45#8, 0#8] ++ toBE 2 (20 + n) ++ toBE 4 0 ++ [64#8, 17#8] ++ toBE 2 c ++ x.dst ++ x.src
    let s := onesSum (ip 0)
    eth ++ toBE 2 0x0800 ++ ip (65535 - (s % 65536 + s / 65536) % 65536) ++ udp sum
  else eth ++ toBE 2 0x86DD ++ toBE 4 (6 * 2 ^ 28) ++ toBE 2 n ++ [17#8, 64#8] ++ x.dst ++ x.src ++ udp sum

/-- Frames given to the management MAC. -/
def Blk.mgmtSend (b : Blk) (frames : List Bytes) : Blk := { b with mgmt := { b.mgmt with txFrames := frames } }

/-- A frame from the management MAC (R323, R326, R401). -/
def Blk.moaArrives (b : Blk) (seen : Seen) (frame : Bytes) (good : Bool) : Blk :=
  if !good then b
  else match b.moaFor frame with
    | none => b.countSys evMoaForeign
    | some x =>
      if !x.sumOk then b
      else
        let r := b.moaReceive seen x.body
        r.1.mgmtSend (r.2.map (r.1.moaOut x))
def execMoaFrameReceive (frame : Bytes) (good : Bool) (s : State) : Out :=
  s.at (.moaFrameReceive frame good) fun s =>
    if s.blk.fw.stage = .done then .next { s with blk := s.blk.moaArrives s.seen frame good } else .next s

/-! ### ARP and neighbour solicitations (R323) -/

/-- The answer names this block's MAC and the address asked for: an ARP reply or a neighbour advertisement. -/
def Blk.addressReply (b : Blk) (ip : Bytes) : Bytes := toBE 6 b.mgmt.mac.toNat ++ ip

/-- An ARP request is answered for the block's own IPv4 address only. -/
def execArpRequest (ip : BitVec 32) (s : State) : Out :=
  s.steward (.arpRequest ip) fun b =>
    if b.mgmt.ip4 ≠ 0#32 && ip = b.mgmt.ip4 then b.mgmtSend [b.addressReply (toBE 4 ip.toNat)] else b

/-- A neighbour solicitation is answered for the block's own IPv6 address only. -/
def execNeighborSolicitation (ip : BitVec 128) (s : State) : Out :=
  s.steward (.neighborSolicitation ip) fun b =>
    if b.mgmt.ip6 ≠ 0#128 && ip = b.mgmt.ip6 then b.mgmtSend [b.addressReply (toBE 16 ip.toNat)] else b

end Sys2Proof.Machine
end

