-- ==== Sys2Proof/Machine/Tick.lean ====
section
/-! DEFINITION. The frame tick with its ordered steps (R41), the swap (R67, R69), and what one mc without a command does
(log 12). -/
namespace Sys2Proof.Machine

/-! ### Step 1: the frame count, frame lock (R42, R43) -/

/-- Whether a crossing link or its reverse has been declared failed. -/
def Blk.linkFailed (b : Blk) (t o : Nat) : Bool :=
  b.fault.failed.contains (fcLink, t * 4 + o) ||
    b.fault.failed.contains (fcLink, b.member.neighbour t o * 4 + opposite o)

/-- The fences of a die back in lock are lifted, but for links that have failed or lead to a die still out of lock. -/
def Blk.lockFences (b : Blk) (die : Nat) : Blk :=
  if !(b.die die).clearFence then b
  else
    let free := fun (t : Nat) => (b.die (b.member.dieOf t)).locked
    let b := b.each ((crossingsOf b.member die).filter fun x =>
      free x.1 && free (b.member.neighbour x.1 x.2) && !b.linkFailed x.1 x.2) fun b x => b.unfence x.1 (2 ^ x.2)
    b.modDie die fun x => { x with clearFence := false }

/-- The frame count advances and the offset returns to 0. -/
def Blk.frameOn (b : Blk) : Blk :=
  let b : Blk := { b with clk := { b.clk with frame := b.clk.frame + 1, offset := 0, due := false }, fault := { b.fault with linkErr := [] } }
  b.each (List.range b.member.dies) fun b d => b.lockFences d

/-! ### Step 4: the swap (R67, R69–R71) -/

/-- The outputs that a packet takes from a tile to a destination, with their tiles; `leg` 1 behind a turn tile (R79, R82). -/
def SownVersion.path (v : SownVersion) (m : Member) (admin : Bool) (d : Nat) : Nat → Nat → Nat → List (Nat × Nat)
  | 0, _, _ => []
  | fuel + 1, leg, t =>
    let e := v.route m t d
    let leg := if !admin && rTurn e then 1 else leg
    let out := if admin then rOutA e else if leg = 0 then rOut0 e else rOut1 e
    if out = 0 || 5 < out then []
    else if out = outEject then [(t, 4)]
    else (t, out - 1) :: v.path m admin d fuel leg (m.neighbour t (out - 1))

/-- Whether a version uses one of some outputs: an entry there that is not IDLE, or the route of a packet between two tiles that
have not failed themselves (R70). -/
def SownVersion.uses (v : SownVersion) (m : Member) (failed : List Nat) (outs : List (Nat × Nat)) : Bool :=
  (v.listed.any fun x => outs.contains (x.1, x.2.1) && eIn x.2.2.2 ≠ inIdle) ||
    let ts := m.tiles.filter fun t => !failed.contains t
    ts.any fun s => ts.any fun d =>
      (v.path m false d 256 0 s ++ v.path m true d 256 0 s).any fun x => outs.contains x

/-- The tiles and outputs behind a fence mask of R411. -/
def maskOuts (x : Nat × Nat) : List (Nat × Nat) :=
  ((List.range 5).filter fun o => x.2.testBit o || x.2.testBit (5 + o)).map fun o => (x.1, o)

/-- The tiles that have failed, alone or with their cluster (R288). -/
def Blk.failedTiles (b : Blk) : List Nat :=
  b.fault.failed.flatMap fun r =>
    if r.1 = fcTile then [r.2] else if r.1 = fcCluster then clusterTiles r.2 else []

/-- The fences of a failed resource, with the reverse of a crossing link, which is fenced with it (R288, R292). -/
def Blk.resourceMasks (b : Blk) (r : Nat × Nat) : List (Nat × Nat) :=
  resourceFences r.1 r.2 ++
    (if r.1 = fcLink && b.member.crossing (r.2 / 4) (r.2 % 4) then
      [(b.member.neighbour (r.2 / 4) (r.2 % 4), bothPlanes (opposite (r.2 % 4)))] else [])

/-- The fences that the new generation leaves standing: those of the failed resources that it does not avoid, and those of a
crossing output beside a die out of lock (R42, R70). -/
def Blk.keptFences (b : Blk) : Tbl (BitVec 16) :=
  let failed := b.failedTiles
  let kept := (b.fault.failed.filter fun r =>
    b.sown.active.uses b.member failed ((b.resourceMasks r).flatMap maskOuts)).flatMap b.resourceMasks
  let locks := (b.member.tiles.flatMap fun t => (List.range 4).map fun o => (t, o)).filterMap fun x =>
    if b.member.crossing x.1 x.2 &&
        !((b.die (b.member.dieOf x.1)).locked && (b.die (b.member.dieOf (b.member.neighbour x.1 x.2))).locked) then
      some (x.1, 2 ^ x.2) else none
  (kept ++ locks).foldl (fun f x => f.put x.1 (f.getD x.1 0#16 ||| BitVec.ofNat 16 x.2)) []

/-- The fences of resources that the new generation avoids are lifted (R70). -/
def Blk.swapFences (b : Blk) : Blk :=
  if b.sown.fences.all (fun x => x.2 = 0#16) then b
  else
    let k := b.keptFences
    { b with sown := { b.sown with fences := b.sown.fences.mapV fun t f => f &&& k.getD t 0#16 } }

/-- The alternate that a fault asked for is active (R292). -/
def Blk.failoverDone (b : Blk) : Blk :=
  match b.fault.current with
  | none => b
  | some f =>
    let b := b.tellFault f foFailover
    { b with fault := { b.fault with current := none } }

/-- Cells of a furrow are discarded: counted, and one STAGE_FLUSH names the furrow when there were any (R69). -/
def Blk.flushed (b : Blk) (t plot furrow n : Nat) : Blk :=
  if n = 0 then b else (b.countN t evStageFlush n (some plot)).raiseP 0x0E plot (some t) furrow n

/-- The mover's command in progress, if it is a move.sow on a furrow, completes with STATE, NO_FURROW (R69, R121). -/
def Blk.sowLost (b : Blk) (t plot furrow : Nat) : Blk :=
  match ((b.tile t).sheaves 0).find? fun s => s.state ≠ .finished with
  | none => b
  | some s =>
    if kOp s.cmd = opSow && s.plot = plot && kFurrow s.cmd = furrow then
      b.modSheaf t 0 s.sid fun x =>
        { x with state := .finished, status := BitVec.ofNat 8 stState, detail := BitVec.ofNat 8 dtNoFurrow }
    else b

/-- The queue that a withdrawn PORT furrow held: what has not begun is looked up again, the rest is discarded (R69). -/
def Blk.portLost (b : Blk) (q : List StagedDfp) (t : Nat) (d : BitVec 128) : Blk :=
  let go := fun (x : Blk × Nat) (s : StagedDfp) =>
    match if s.begun then none else b.portFurrow t s.plot (dPeer d) with
    | some e => (x.1.stage t e s.egress s.cls s.cells, x.2)
    | none => (x.1, x.2 + s.cells.length)
  let r := q.foldl go (b, 0)
  r.1.flushed t (dPlot d) (dFurrow d) r.2

/-- A withdrawn furrow end (R69, R398); `held` are the queues of the PORT furrows before the swap. -/
def Blk.withdraw (b : Blk) (held : Tbl (List StagedDfp)) (t : Nat) (d : BitVec 128) : Blk :=
  let k := stageKey t (dPlot d) (dFurrow d) (dLand d)
  if dMode d = modeHbm then
    b.streamStopIf fun u s => u = t && s.plot = dPlot d && s.furrow = dFurrow d && s.write = dLand d
  else if dMode d = modePort then if dLand d then b else b.portLost (held.getD k []) t d
  else if dLand d then b
  else
    let n := (b.staging k).filled
    let b : Blk := { b with sown := { b.sown with staging := b.sown.staging.del k } }
    (b.flushed t (dPlot d) (dFurrow d) n).sowLost t (dPlot d) (dFurrow d)

/-- The furrow ends of the generation before that do not persist, with their tiles. -/
def Blk.withdrawn (b : Blk) (old : SownVersion) : List (Nat × BitVec 128) :=
  (old.descs.filter fun x =>
    (old.find (x.1 / 64) (dPlot x.2) (dFurrow x.2) (dLand x.2)).any (·.1 = x.1 % 64) &&
      dValid x.2 && !persists b.sown.active (x.1 / 64) x.2).map fun x => (x.1 / 64, x.2)

/-- Every furrow of the generation before that does not persist is withdrawn. The queues of all withdrawn PORT furrows are taken
before any of their DFPs is looked up again. -/
def Blk.withdrawAll (b : Blk) (old : SownVersion) : Blk :=
  let ends := b.withdrawn old
  let held := b.sown.portq
  let lost := (ends.filter fun x => dMode x.2 = modePort && !dLand x.2).map fun x => stageKey x.1 (dPlot x.2) (dFurrow x.2) false
  let b : Blk := { b with sown := { b.sown with portq := held.drop fun k => lost.contains k } }
  b.each ends fun b x => b.withdraw held x.1 x.2

/-- The tables exchange; the shadow is RETIRED, and SWAP_DONE is raised (R67). -/
def Blk.swap (b : Blk) : Blk :=
  let old := b.sown.active
  let b : Blk := { b with sown := { b.sown with
    active := b.sown.shadow, shadow := old, state := .retired, expert := false, busy := false, lastSwap := b.clk.frame } }
  let b := b.raiseS 0x20 0 none b.sown.active.gen.toNat
  let b := (b.withdrawAll old).swapFences.failoverDone
  if b.slots = old.slots then b else b.traceTick

/-- Whether a swap is armed for the frame that begins. -/
def Blk.swapDue (b : Blk) : Bool := b.sown.state = .armed && b.sown.swapFrame = b.clk.frame

/-! ### Steps 2, 3, 5 and 6 -/

/-- Step 2: the rake, then staged counters and cleared histograms (R373, R374, R378). -/
def Blk.tickCounters (b last : Blk) : Blk :=
  let b := b.rakeLatch last
  { b with tiles := b.tiles.mapV fun _ x => { x with ob := x.ob.tick } }

/-- Step 3: missed sheaves (R118), and the ticks that list.tick waits for (R105). -/
def Blk.tickSheaves (b : Blk) : Blk :=
  let b := b.each (b.tiles.map fun (x : Nat × Tile) => x.1) fun b t => b.missTile t
  { b with tiles := b.tiles.mapV fun _ x => x.tickLists }

/-- Step 5: every staging exchange and HBM stream, with the collectives' part of the tick (R58, R59, R183–R196, R398). -/
def Blk.tickStaging (b : Blk) (fresh : Nat → BitVec 128 → Bool) : Blk :=
  let b := (b.collBefore.exchange fresh).streamTick.collTick
  { b with tiles := b.tiles.mapV (fun _ x => { x with ks := x.ks.tick }),
           plots := b.plots.mapV fun _ x => { x with keys := x.keys.tick } }

/-- Gate entries written since the last tick take effect (R242). -/
def Egress.tick (e : Egress) : Egress :=
  { e with gates := e.gatesPend.foldl (fun g x => g.put x.1 x.2) e.gates, gatesPend := [] }

/-- Step 6. -/
def Blk.tickPorts (b : Blk) : Blk := { b with ports := b.ports.mapV fun _ x => { x with eg := x.eg.tick } }

/-- What follows the steps: wear decays (R289), the trace unit gathers and TICK is written (R381). -/
def Blk.tickEnd (b : Blk) : Blk :=
  let b := if b.clk.frame.toNat % 2 ^ b.fault.decay = 0 then b.decayWear else b
  let b := b.traceGather
  if b.clk.frame.toNat % 65536 = 0 then b.traceTick else b

/-- The frame tick (R41); `last` is the block as the last mc of the frame before left it. -/
def Blk.frameTick (b last : Blk) : Blk :=
  let ended := b.clk.frame
  let b := (b.frameOn.tickCounters last).tickSheaves
  let old := b.sown.active
  let due := b.swapDue
  let b := if due then b.swap else b
  let b := (b.tickStaging fun t d => due && !persists old t d).tickPorts
  (b.opticsTick ended).tickEnd
def execFrameTick (s : State) : Out := s.mesh .frameTick (·.frameTick s.was)

/-! ### One mc without a command (log 12) -/

/-- Event number of pause asserted, and of a command that runs on the mover (R371). -/
def evPauseMc : Nat := 0x177
def evRunMc : Nat := 0x12A

/-- Counts of one mc at a tile: engines with a command running (R371). -/
def Tile.countRun (x : Tile) : Tile :=
  { x with ob := (List.range 4).foldl (fun o e =>
    match (x.sheaves e).find? fun s => s.state = .running with
    | some s => o.count (evRunMc + e) 1 (some s.plot)
    | none => o) x.ob }

/-- Counts of one mc: waiting power stages, running engines, pause at every port. -/
def Blk.countMc (b : Blk) : Blk :=
  let b := b.countPaced
  let b : Blk := { b with tiles := b.tiles.mapV fun _ x => x.countRun }
  if b.traf.pauseTx = 0#8 then b
  else b.each (List.range b.member.ports) fun b p => b.count (b.member.portTile p) evPauseMc

/-- What was put off to the end of the mc acts (R174, R223, R236, R241). -/
def Blk.noteActs (b : Blk) : McNote → Blk
  | .press p => b.pressActs p
  | .expiry p => b.expiryActs p
  | .meter i w => b.meterTakes i w
  | .shaper p q r c => b.modEgQueue p q fun x => x.setShaper b.clk.mc r c
  | .shapeEn p q on => b.modEgQueue p q fun x => x.setShape b.clk.mc on
  | .rd t q v => b.rdActs t q v
  | .fbPop t => b.fbPopActs t
  | .abandon t i => b.abandonActs t i
  | .handler t n h => b.handlerActs t n h
  | _ => b

/-- The mc ends: what was put off to its end acts, and its events are posted (R346). -/
def Blk.endMc (b : Blk) : Blk := (b.each b.mcLog fun b n => b.noteActs n).postEvents

/-- Nothing of the mc is left to look back on. -/
def Blk.forget (b : Blk) : Blk :=
  { b with mcLog := [], tiles := b.tiles.mapV fun _ x => { x with ob := { x.ob with adds := [], wraps := [] } } }

/-- The next mc begins: nothing of the last one is looked back on but CONS writes, whose OVERFLOW records follow now (R336, R347). -/
def Blk.nextMc (b : Blk) : Blk :=
  let rings := b.mcLog.filterMap fun n => match n with
    | .cons r => some r
    | _ => none
  let b : Blk := { b.forget with clk := b.clk.advance b.frameLen }
  b.each rings fun b r => b.ringOverflow r

/-- One idle mc of a running block: the clock advances. A journalled key update is carried out once the steward has nothing
else to do (R283). -/
def Blk.idleMc (b : Blk) : Blk :=
  let b := b.countMc
  let b := if b.fw.stage = .done then b.replayJournal else b
  b.endMc.nextMc

/-- The warm reset that an accepted RESTART asks for, once its response is out (R361, R388). -/
def Blk.idleRestart (b : Blk) : Blk :=
  (if b.fw.stage = .done then b.replayJournal else b).restarted (.stage 1)

/-- One step without a command: the warm reset of an accepted RESTART, or one mc; no time passes while the mesh clock does not
run, but events raised are posted (R352, R361, R372). -/
def idle (s : State) : State :=
  if s.blk.fw.restartDue then s.anew { s.trip with tripped := false } s.blk.idleRestart
  else if s.live then { s with blk := s.blk.idleMc, was := s.blk.idleMc }
  else { s with blk := s.blk.endMc.forget, was := s.blk.endMc.forget }

end Sys2Proof.Machine
end

