-- ==== Sys2Proof/Machine/Window.lean ====
section
/-! DEFINITION. The host register window: its map, accesses, DMA windows, event rings and the mailbox (R334–R348, R373). -/
namespace Sys2Proof.Machine

/-! ### DMA windows (R342) -/

/-- A write of a plot's DMA window. -/
def Blk.writeDma (b : Blk) (p : Nat) (v : BitVec 128) : Blk :=
  let st := (b.plot p).state
  if (st ≠ .free && st ≠ .bound) || fld v 0 12 ≠ 0 then b.countSys evBadAccess
  else b.modPlot p fun x => { x with host := { x.host with
    dmaBase := BitVec.ofNat 64 (fld v 0 64), dmaPages := BitVec.ofNat 32 (fld v 64 32), dmaValid := flag v 96 } }
def execDmaWindowWrite (plot : Nat) (value : BitVec 128) (s : State) : Out :=
  s.window (.dmaWindowWrite plot value) fun s => s.blk.writeDma plot value

/-! ### Event rings (R344, R347, R348) -/

/-- The register of a ring. -/
def Ring.word (x : Ring) : Nat :=
  x.base.toNat + at_ 64 5 x.sizeLog2 + atB 69 x.enable + atB 70 x.irqEn + at_ 72 8 x.owner.toNat + at_ 80 16 x.mask.toNat +
    at_ 96 32 x.prod.toNat + at_ 128 32 x.cons.toNat + at_ 160 32 x.lost.toNat + atB 192 x.ovf + at_ 208 8 x.irqHold

/-- A write of CONS. The OVERFLOW record that room calls for follows in the mc after (R347). -/
def Blk.writeCons (b : Blk) (r : Nat) (v : BitVec 32) : Blk :=
  let x := b.ring r
  if (x.prod - v).toNat ≤ (x.prod - x.cons).toNat then (b.modRing r fun x => { x with cons := v }).note (.cons r)
  else b.countSys evBadAccess
def execConsWrite (ring : Nat) (value : BitVec 32) (s : State) : Out :=
  s.window (.consWrite ring value) fun s => s.blk.writeCons ring value

/-- BASE, SIZE_LOG2 and OWNER as a write gives them; fixed while ENABLE is 1, and BASE must lie on 4 KiB. -/
def Blk.ringPlace (b : Blk) (r : Nat) (v : BitVec 512) : Blk :=
  let x := b.ring r
  let base := BitVec.ofNat 64 (fld v 0 64)
  let size := min 20 (max 6 (fld v 64 5))
  let owner := if r = 0 then 0#8 else BitVec.ofNat 8 (fld v 72 8)
  if x.enable then
    if base = x.base && size = x.sizeLog2 && owner = x.owner then b else b.countSys evBadAccess
  else
    let b := b.modRing r fun x => { x with sizeLog2 := size, owner := owner }
    if fld v 0 12 ≠ 0 then b.countSys evBadAccess else b.modRing r fun x => { x with base := base }

/-- Ring 0 is enabled for the first time: the start buffer is posted, and what it lost is counted (R353). -/
def Blk.ringOpens (b : Blk) : Blk :=
  let lost := b.host.startLost
  let early := b.host.startBuf
  let b := b.modRing 0 fun x => { x with lost := BitVec.ofNat 32 (min lost (2 ^ 32 - 1)), ovf := x.ovf || 0 < lost }
  let b : Blk := { b with host := { b.host with ringOpen := true, startBuf := [], startLost := 0 } }
  b.each early fun b e => b.ringPost 0 e

/-- A write of a ring's register. -/
def Blk.writeRing (b : Blk) (r : Nat) (v : BitVec 512) : Blk :=
  let on : Bool := flag v 69 && !(b.ring r).enable
  let b := (b.ringPlace r v).modRing r fun x =>
    { x with irqEn := flag v 70, mask := BitVec.ofNat 16 (fld v 80 16), ovf := x.ovf && (!flag v 192 || b.noted (.set (.ringOvf r))), irqHold := fld v 208 8 }
  if on then
    let b := b.modRing r fun x => { x with enable := true, prod := 0#32, cons := 0#32, lost := 0#32, pendLoss := 0 }
    if r = 0 && !b.host.ringOpen then b.ringOpens else b
  else
    let b := b.modRing r fun x => { x with enable := flag v 69 }
    if (b.ring r).cons = BitVec.ofNat 32 (fld v 128 32) then b else b.writeCons r (BitVec.ofNat 32 (fld v 128 32))
def execEventRingWrite (ring : Nat) (value : BitVec 512) (s : State) : Out :=
  s.window (.eventRingWrite ring value) fun s => s.blk.writeRing ring value

/-- The tick that ends a hold signals what was held (R348). -/
def Blk.irqHoldEnd (b : Blk) (r : Nat) : Blk :=
  let x := b.ring r
  if x.irqEn && x.wrote && !(x.lastIrq.any fun f => (b.clk.frame - f).toNat < x.irqHold) then b.ringIrq r else b
def execIrqHoldEnd (ring : Nat) (s : State) : Out := s.window (.irqHoldEnd ring) fun s => s.blk.irqHoldEnd ring

/-! ### The mailbox (R327, R343) -/

/-- The frame in the request buffer: its length is the header's and the payload's. -/
def Blk.mboxFrame (b : Blk) : Bytes := b.host.reqBuf.read 0 (32 + mhLen (moaHdr (b.host.reqBuf.read 0 32)))

/-- A response is written into the response buffer. -/
def Blk.mboxRespond (b : Blk) (xs : Bytes) : Blk :=
  { b with host := { b.host with rspBuf := Mem.write [] 0 (xs.take 2048) } }

/-- The steward takes the frame: a bad one is dropped, an SPDM frame waits for the vault, any other is carried out. -/
def Blk.mboxTake (b : Blk) (seen : Seen) : Blk :=
  let xs := setAuth0 b.mboxFrame
  let b : Blk := { b with host := { b.host with go := false } }
  if !moaOk xs then
    let b := b.countSys evMoaBad
    { b with host := { b.host with busy := false } }
  else if mhKind (moaHdr xs) = mkSpdm then b
  else
    let r := b.moaExec seen .mailbox (mhBoot (moaHdr xs)) xs
    r.1.mboxRespond (r.2.headD [])
where
  /-- AUTH reads as 0 on the mailbox. -/
  setAuth0 (xs : Bytes) : Bytes := toBytes 32 (setFld (moaHdr xs) 33 1 0).toNat ++ xs.drop 32

/-- A write of 1 to GO. A response that was written in this mc still counts as BUSY (R336, R343). -/
def Blk.mailboxGo (b : Blk) (seen : Seen) : Blk :=
  if b.host.busy || b.noted (.set .mboxDone) then b.countSys evMboxRefused
  else ({ b with host := { b.host with go := true, busy := true } } : Blk).mboxTake seen
def execMailboxGo (s : State) : Out := s.window .mailboxGo fun s => s.blk.mailboxGo s.seen

/-- The response is complete: DONE and MBOX_DONE; an SPDM frame carries the vault's answer (R328). -/
def Blk.mailboxDone (b : Blk) : Blk :=
  if !b.host.busy then b
  else
    let h := moaHdr (b.host.reqBuf.read 0 32)
    let r := b.vault.reply
    let b := if mhKind h = mkSpdm then
        b.mboxRespond (b.moaFrame (setFld h 33 1 0) (mhBoot h) mkSpdm 0 0 0 0 (Config.spdmMessage r.kind r.code.toNat r.body))
      else b
    (({ b with host := { b.host with busy := false, done := true } } : Blk).note (.set .mboxDone)).raiseS 0x0F 0 (some sysTile)
def execMailboxDone (s : State) : Out := s.boot .mailboxDone (·.mailboxDone)

/-! ### The map (R334, R337, R338, R373) -/

/-- A register of the window. -/
inductive WinReg where
  | info (i : Nat) | bootStage | mbox | counter (i : Nat) | ring (r : Nat) | dma (p : Nat) | reqBuf (o : Nat) | rspBuf (o : Nat)
  | openCtrl (t : Nat) | engCtrl (t : Nat) | engState (t : Nat) | ctx (t i : Nat) | sem (t k : Nat) | queueCtrl (t q : Nat)
  | cycle (t : Nat) | pmcCfg (t i : Nat) | pmcVal (t : Nat)
  | launch (p : Nat) | launchResult (p : Nat) | collDb (p : Nat) | kernelDb (p : Nat) | capsuleDb (p : Nat) | plotInfo (p : Nat)
  deriving DecidableEq, Repr

/-- A register with its first offset and its size. -/
abbrev Slot3 := WinReg × Nat × Nat

/-- A register of a tile page, by the offset in the page. -/
def tileReg (t at0 o : Nat) : Option Slot3 :=
  if o < 0x10 then some (.openCtrl t, at0, 16)
  else if o < 0x20 then some (.engCtrl t, at0 + 0x10, 16)
  else if o < 0x30 then some (.engState t, at0 + 0x20, 16)
  else if o < 0x40 then none
  else if o < 0x80 then some (.ctx t ((o - 0x40) / 8), at0 + o / 8 * 8, 8)
  else if o < 0x100 then some (.sem t ((o - 0x80) / 4), at0 + o / 4 * 4, 4)
  else if o < 0x300 then
    if o % 32 < 24 then some (.queueCtrl t ((o - 0x100) / 32), at0 + o / 32 * 32, 24) else none
  else if o < 0x308 then some (.cycle t, at0 + 0x300, 8)
  else if o < 0x340 then none
  else if o < 0x380 then some (.pmcCfg t ((o - 0x340) / 8), at0 + o / 8 * 8, 8)
  else if o < 0x3C0 then some (.pmcVal t, at0 + 0x380, 64)
  else none

/-- A register of a plot page, by the offset in the page. -/
def plotReg (p at0 o : Nat) : Option Slot3 :=
  if o < 0x10 then some (.launch p, at0, 16)
  else if o < 0x18 then some (.launchResult p, at0 + 0x10, 8)
  else if 0x20 ≤ o && o < 0x24 then some (.collDb p, at0 + 0x20, 4)
  else if 0x28 ≤ o && o < 0x2C then some (.kernelDb p, at0 + 0x28, 4)
  else if 0x30 ≤ o && o < 0x40 then some (.capsuleDb p, at0 + 0x30, 16)
  else if 0x40 ≤ o && o < 0x48 then some (.plotInfo p, at0 + 0x40, 8)
  else none

/-- The register at an offset; none where it is reserved or unmapped (R335). -/
def regAt (m : Member) (o : Nat) : Option Slot3 :=
  if o < 0x10 then some (.info (o / 4), o / 4 * 4, 4)
  else if 0x80 ≤ o && o < 0x84 then some (.bootStage, 0x80, 4)
  else if 0x100 ≤ o && o < 0x104 then some (.mbox, 0x100, 4)
  else if 0x200 ≤ o && o < 0x210 then some (.counter ((o - 0x200) / 4), o / 4 * 4, 4)
  else if 0x1000 ≤ o && o < 0x2000 then some (.ring ((o - 0x1000) / 64), o / 64 * 64, 64)
  else if 0x2000 ≤ o && o < 0x3000 then some (.dma ((o - 0x2000) / 16), o / 16 * 16, 16)
  else if 0x4000 ≤ o && o < 0x4800 then some (.reqBuf (o / 8 * 8 - 0x4000), o / 8 * 8, 8)
  else if 0x4800 ≤ o && o < 0x5000 then some (.rspBuf (o / 8 * 8 - 0x4800), o / 8 * 8, 8)
  else if 0x100000 ≤ o && o < 0x500000 then
    if m.hasTile ((o - 0x100000) / 4096) then tileReg ((o - 0x100000) / 4096) (4096 * (o / 4096)) (o % 4096) else none
  else if 0x800000 ≤ o && o < 0x1800000 then plotReg ((o - 0x800000) / 65536) (65536 * (o / 65536)) (o % 65536)
  else none

/-! ### What the registers hold -/

/-- BOOT_STAGE (R353). -/
def BootStage.code : BootStage → Nat
  | .held => 0
  | .stage n => n
  | .done => 8
  | .recovery => 0x10
  | .flashFail => 0x11

/-- LAUNCH_RESULT (R340). -/
def PlotHost.resultWord (h : PlotHost) : Nat :=
  at_ 0 8 h.launchResult + at_ 8 10 h.launchTile + atB 18 h.dbFull + at_ 32 16 h.accepted.toNat

/-- What a register reads as; a WO register reads 0. -/
def Blk.winWord (b : Blk) : WinReg → Nat
  | .info 0 => b.member.code
  | .info 1 => 0x2000000
  | .info 2 => 4096
  | .info _ => 65536
  | .bootStage => b.fw.stage.code
  | .mbox => atB 0 b.host.go + atB 1 b.host.busy + atB 2 b.host.done
  | .counter i =>
    ((b.tile sysTile).ob.ctr.getD ([evBadAccess, evNoRing, evMasked, evMboxRefused].getD i 0) 0#32).toNat
  | .ring r => (b.ring r).word
  | .dma p =>
    let h := (b.plot p).host
    h.dmaBase.toNat + at_ 64 32 h.dmaPages.toNat + atB 96 h.dmaValid
  | .reqBuf o => ofBytes (b.host.reqBuf.read o 8)
  | .rspBuf o => ofBytes (b.host.rspBuf.read o 8)
  | .openCtrl t => b.openCtrlWord t
  | .engCtrl t => (b.tile t).engCtrl.word
  | .engState t => b.engState t
  | .ctx t i => (b.tile t).ctxWord i
  | .sem t k => (b.tile t).sem k
  | .queueCtrl t q => (b.tile t).queueCtrl q (b.rdSeen t q)
  | .cycle _ => b.clk.mc % 2 ^ 64
  | .pmcCfg t i => ((b.tile t).ob.pmc i).word.toNat
  | .pmcVal t => ofBytes (b.tile t).ob.pmcVals
  | .launchResult p => (b.plot p).host.resultWord
  | .plotInfo p => at_ 0 3 (b.plot p).state.code + at_ 32 32 (b.plot p).bindSerial.toNat
  | .launch _ | .collDb _ | .kernelDb _ | .capsuleDb _ => 0

/-- What the bytes that a write leaves out count as: what they read as, bits that a 1 would clear as 0. -/
def Blk.winKeep (b : Blk) (r : WinReg) : Nat :=
  match r with
  | .ring k => ({ b.ring k with ovf := false } : Ring).word
  | .mbox | .ctx _ _ | .launchResult _ => 0
  | .pmcCfg t i => (setFld ((b.tile t).ob.pmc i).word 24 1 0).toNat
  | r => b.winWord r

/-- A register takes a value; tile pages and plot pages act while the mesh clock runs. RO registers ignore writes. -/
def Blk.winStore (b : Blk) (s : State) (r : WinReg) (v : Nat) : Blk :=
  match r with
  | .mbox =>
    let b : Blk := if v / 4 % 2 = 1 && !b.noted (.set .mboxDone) then { b with host := { b.host with done := false } } else b
    if v % 2 = 1 then b.mailboxGo s.seen else b
  | .ring k => b.writeRing k (BitVec.ofNat 512 v)
  | .dma p => b.writeDma p (BitVec.ofNat 128 v)
  | .reqBuf o =>
    if b.host.busy then b.countSys evBadAccess
    else { b with host := { b.host with reqBuf := b.host.reqBuf.write o (toBytes 8 v) } }
  | .info _ | .bootStage | .counter _ | .rspBuf _ | .engState _ | .cycle _ | .plotInfo _ => b
  | .openCtrl t => if s.live then b.modTile t fun x => x.writeOpenCtrl (BitVec.ofNat 128 v) else b
  | .engCtrl t => if s.live then b.modTile t fun x => x.writeEngCtrl (BitVec.ofNat 128 v) else b
  | .ctx t i => if s.live && v / 8 % 2 = 1 then b.ctxAbort t i else b
  | .sem t k => if s.live then b.modTile t fun x => x.semWrite b.clk.mc k (v % 2 ^ 16) else b
  | .queueCtrl t q => if s.live then b.writeRd t q (v / 2 ^ 64 % 2 ^ 16) else b
  | .pmcCfg t i => if s.live then b.writePmc t i (BitVec.ofNat 64 v) else b
  | .pmcVal t => if s.live then b.modOb t fun o => o.setPmcVals (toBytes 64 v) else b
  | .launch p => if s.live then b.launch p (BitVec.ofNat 128 v) else b
  | .launchResult p =>
    if v / 2 ^ 18 % 2 = 1 && !b.noted (.set (.dbFull p)) then
      b.modPlot p fun x => { x with host := { x.host with dbFull := false } }
    else b
  | .collDb p => if s.live then b.doorbell p false (BitVec.ofNat 32 v) else b
  | .kernelDb p => if s.live then b.doorbell p true (BitVec.ofNat 32 v) else b
  | .capsuleDb p => if s.live then b.capsuleUnwrap p (BitVec.ofNat 128 v) else b

/-! ### Accesses (R335) -/

/-- What a read takes a register from: its RO fields as they stood when the mc began (R333, R336). -/
def Blk.winSeen (b was : Blk) : WinReg → Nat
  | .mbox => atB 0 b.host.go + atB 1 was.host.busy + atB 2 b.host.done
  | .ring r => ({ b.ring r with prod := (was.ring r).prod, lost := (was.ring r).lost } : Ring).word
  | .launchResult p => ({ (was.plot p).host with dbFull := (b.plot p).host.dbFull } : PlotHost).resultWord
  | .queueCtrl t q => (was.tile t).queueCtrl q (b.rdSeen t q)
  | .bootStage => was.winWord .bootStage
  | .counter i => was.winWord (.counter i)
  | .rspBuf o => was.winWord (.rspBuf o)
  | .engState t => was.winWord (.engState t)
  | .ctx t i => was.winWord (.ctx t i)
  | .cycle t => was.winWord (.cycle t)
  | .plotInfo p => was.winWord (.plotInfo p)
  | r => b.winWord r

/-- A read of n bytes within a register; the lowest bytes of a wide register latch it. -/
def Blk.winRead1 (b was : Blk) (off n : Nat) : Blk × Nat :=
  match regAt b.member off with
  | none => (b.countSys evBadAccess, 0)
  | some (r, lo, size) =>
    let now := toBytes size (b.winSeen was r)
    let part := fun (xs : Bytes) => ofBytes ((xs.drop (off - lo)).take n)
    if size ≤ 8 then (b, part now)
    else if off < lo + 8 then
      let b : Blk := if off = lo then { b with host := { b.host with latch := b.host.latch.put lo now } } else b
      (b, part (b.host.latch.getD lo now))
    else (b, part (b.host.latch.getD lo now))

/-- Whether an access of 8 bytes falls into two registers. -/
def splits (m : Member) (off n : Nat) : Bool :=
  n = 8 && match regAt m off with
    | none => false
    | some (_, lo, size) => lo + size < off + 8

/-- Whether an access is one of 4 or 8 bytes, aligned to its size. -/
def aligned (off n : Nat) : Bool := (n = 4 || n = 8) && off % n = 0

/-- A read through the window: the block after it, and the value. -/
def Blk.winRead (b was : Blk) (off n : Nat) : Blk × Nat :=
  if !aligned off n then (b.countSys evBadAccess, 0)
  else if splits b.member off n then
    let x := b.winRead1 was off 4
    let y := x.1.winRead1 was (off + 4) 4
    (y.1, x.2 + 2 ^ 32 * y.2)
  else b.winRead1 was off n
def execHostRegisterRead (offset size : Nat) (s : State) : Out :=
  s.window (.hostRegisterRead offset size) fun s =>
    let r := s.blk.winRead s.was offset size
    { r.1 with host := { r.1.host with readData := BitVec.ofNat 64 r.2 } }

/-- The bytes of a register as a write leaves them: held or written ones, else what they keep. -/
def winMerge (held : Tbl Byte) (keep : Bytes) (lo : Nat) : Bytes := keep.zipIdx.map fun x => held.getD (lo + x.2) x.1

/-- A write of n bytes within a register; a wide one takes effect with its highest bytes. -/
def Blk.winWrite1 (b : Blk) (s : State) (off n v : Nat) : Blk :=
  match regAt b.member off with
  | none => b.countSys evBadAccess
  | some (r, lo, size) =>
    let held := (toBytes n v).zipIdx.foldl (fun (h : Tbl Byte) x => h.put (off + x.2) x.1) (if size ≤ 8 then [] else b.host.held)
    let full := ofBytes (winMerge held (toBytes size (b.winKeep r)) lo)
    if size ≤ 8 then b.winStore s r full
    else if off + n = lo + size then
      let b : Blk := { b with host := { b.host with held := held.drop fun k => lo ≤ k && k < lo + size } }
      b.winStore s r full
    else { b with host := { b.host with held := held } }

/-- A write through the window. -/
def Blk.winWrite (b : Blk) (s : State) (off n : Nat) (v : Nat) : Blk :=
  if !aligned off n then b.countSys evBadAccess
  else if splits b.member off n then (b.winWrite1 s off 4 (v % 2 ^ 32)).winWrite1 s (off + 4) 4 (v / 2 ^ 32)
  else b.winWrite1 s off n v
def execHostRegisterWrite (offset size : Nat) (data : BitVec 64) (s : State) : Out :=
  s.window (.hostRegisterWrite offset size data) fun s => s.blk.winWrite s offset size (data.toNat % 2 ^ (8 * size))

end Sys2Proof.Machine
end

