-- ==== Sys2Proof/Machine/Dispatch.lean ====
section
/-! DEFINITION. The meaning of every command: one arm per constructor. -/
namespace Sys2Proof.Machine

def exec (i : Instr) (s : State) : Host.Outcome State Fault Refusal :=
  match i with
  | .tickMarkerReceive die diff => Sys2Proof.Machine.execTickMarkerReceive die diff s
  | .frameLockRegained die => Sys2Proof.Machine.execFrameLockRegained die s
  | .sownWindowOpen tile out entry => Sys2Proof.Machine.execSownWindowOpen tile out entry s
  | .sownCellArrival tile input damage => Sys2Proof.Machine.execSownCellArrival tile input damage s
  | .sownLoadStart ch => Sys2Proof.Machine.execSownLoadStart ch s
  | .swapFrameWrite ch frame => Sys2Proof.Machine.execSwapFrameWrite ch frame s
  | .swapArm ch => Sys2Proof.Machine.execSwapArm ch s
  | .swapDisarm ch => Sys2Proof.Machine.execSwapDisarm ch s
  | .sownQuotaWrite ch quota => Sys2Proof.Machine.execSownQuotaWrite ch quota s
  | .expertEntryWrite ch entry => Sys2Proof.Machine.execExpertEntryWrite ch entry s
  | .expertDescriptorWrite ch desc => Sys2Proof.Machine.execExpertDescriptorWrite ch desc s
  | .expertRouteWrite ch entry => Sys2Proof.Machine.execExpertRouteWrite ch entry s
  | .expertSelectorWrite ch sel value => Sys2Proof.Machine.execExpertSelectorWrite ch sel value s
  | .expertCheck ch => Sys2Proof.Machine.execExpertCheck ch s
  | .engineNoProgress tile engine => Sys2Proof.Machine.execEngineNoProgress tile engine s
  | .hbmRequestUnanswered tile tag => Sys2Proof.Machine.execHbmRequestUnanswered tile tag s
  | .xsUncorr tile out => Sys2Proof.Machine.execXsUncorr tile out s
  | .xsPhyDown tile out => Sys2Proof.Machine.execXsPhyDown tile out s
  | .flitHeadArrival tile subnet input damage => Sys2Proof.Machine.execFlitHeadArrival tile subnet input damage s
  | .outputArbitration tile subnet out => Sys2Proof.Machine.execOutputArbitration tile subnet out s
  | .creditReturn tile subnet input vc => Sys2Proof.Machine.execCreditReturn tile subnet input vc s
  | .flitAgeDrop tile subnet input vc => Sys2Proof.Machine.execFlitAgeDrop tile subnet input vc s
  | .requestInject tile who => Sys2Proof.Machine.execRequestInject tile who s
  | .requestEject tile subnet => Sys2Proof.Machine.execRequestEject tile subnet s
  | .replyDeadline tile subnet => Sys2Proof.Machine.execReplyDeadline tile subnet s
  | .reqTimeout owner slot => Sys2Proof.Machine.execReqTimeout owner slot s
  | .slotQuarantineEnd owner slot => Sys2Proof.Machine.execSlotQuarantineEnd owner slot s
  | .replyArrival tile subnet => Sys2Proof.Machine.execReplyArrival tile subnet s
  | .openCtrlWrite tile value => Sys2Proof.Machine.execOpenCtrlWrite tile value s
  | .listLaunch plot value => Sys2Proof.Machine.execListLaunch plot value s
  | .launchDequeue tile => Sys2Proof.Machine.execLaunchDequeue tile s
  | .commandDispatch tile ctx => Sys2Proof.Machine.execCommandDispatch tile ctx s
  | .listNop tile engine => Sys2Proof.Machine.execListNop tile engine s
  | .listWait tile engine => Sys2Proof.Machine.execListWait tile engine s
  | .listSignal tile engine => Sys2Proof.Machine.execListSignal tile engine s
  | .listTick tile engine => Sys2Proof.Machine.execListTick tile engine s
  | .listLoop tile ctx => Sys2Proof.Machine.execListLoop tile ctx s
  | .listCall tile ctx => Sys2Proof.Machine.execListCall tile ctx s
  | .listEnd tile ctx => Sys2Proof.Machine.execListEnd tile ctx s
  | .listEvent tile engine => Sys2Proof.Machine.execListEvent tile engine s
  | .moveCopy tile => Sys2Proof.Machine.execMoveCopy tile s
  | .moveFill tile => Sys2Proof.Machine.execMoveFill tile s
  | .moveHbmRead tile => Sys2Proof.Machine.execMoveHbmRead tile s
  | .moveHbmWrite tile => Sys2Proof.Machine.execMoveHbmWrite tile s
  | .moveHostRead tile => Sys2Proof.Machine.execMoveHostRead tile s
  | .moveHostWrite tile => Sys2Proof.Machine.execMoveHostWrite tile s
  | .moveSow tile => Sys2Proof.Machine.execMoveSow tile s
  | .moveReap tile => Sys2Proof.Machine.execMoveReap tile s
  | .moveEmit tile => Sys2Proof.Machine.execMoveEmit tile s
  | .moveHbmStream tile => Sys2Proof.Machine.execMoveHbmStream tile s
  | .reduceOasis tile => Sys2Proof.Machine.execReduceOasis tile s
  | .reduceRelease tile => Sys2Proof.Machine.execReduceRelease tile s
  | .reduceAdd tile => Sys2Proof.Machine.execReduceAdd tile s
  | .reduceAddSown tile => Sys2Proof.Machine.execReduceAddSown tile s
  | .reduceScaleAdd tile => Sys2Proof.Machine.execReduceScaleAdd tile s
  | .reduceMerge tile => Sys2Proof.Machine.execReduceMerge tile s
  | .reduceRound tile => Sys2Proof.Machine.execReduceRound tile s
  | .reduceNarrow tile => Sys2Proof.Machine.execReduceNarrow tile s
  | .reduceMap tile => Sys2Proof.Machine.execReduceMap tile s
  | .reduceCrc tile => Sys2Proof.Machine.execReduceCrc tile s
  | .arrayLoad tile => Sys2Proof.Machine.execArrayLoad tile s
  | .arrayMm tile => Sys2Proof.Machine.execArrayMm tile s
  | .arrayTopk tile => Sys2Proof.Machine.execArrayTopk tile s
  | .arrayGate tile => Sys2Proof.Machine.execArrayGate tile s
  | .queueSend tile => Sys2Proof.Machine.execQueueSend tile s
  | .queueGet tile => Sys2Proof.Machine.execQueueGet tile s
  | .queuePut tile => Sys2Proof.Machine.execQueuePut tile s
  | .queueCombine tile => Sys2Proof.Machine.execQueueCombine tile s
  | .queueBind tile => Sys2Proof.Machine.execQueueBind tile s
  | .queueUnbind tile => Sys2Proof.Machine.execQueueUnbind tile s
  | .queuePop tile => Sys2Proof.Machine.execQueuePop tile s
  | .queueHandler tile => Sys2Proof.Machine.execQueueHandler tile s
  | .commandComplete tile engine => Sys2Proof.Machine.execCommandComplete tile engine s
  | .statusRecordWrite tile ctx => Sys2Proof.Machine.execStatusRecordWrite tile ctx s
  | .ctxAbort tile ctx => Sys2Proof.Machine.execCtxAbort tile ctx s
  | .semWrite tile sem value => Sys2Proof.Machine.execSemWrite tile sem value s
  | .stealRequestSend tile engine => Sys2Proof.Machine.execStealRequestSend tile engine s
  | .stealRequestReceive tile => Sys2Proof.Machine.execStealRequestReceive tile s
  | .lendReceive tile engine => Sys2Proof.Machine.execLendReceive tile engine s
  | .stolenResultReturn tile lendId => Sys2Proof.Machine.execStolenResultReturn tile lendId s
  | .engCtrlWrite tile value => Sys2Proof.Machine.execEngCtrlWrite tile value s
  | .msgPacketLand tile => Sys2Proof.Machine.execMsgPacketLand tile s
  | .entryPublish tile queue => Sys2Proof.Machine.execEntryPublish tile queue s
  | .handlerLaunch tile => Sys2Proof.Machine.execHandlerLaunch tile s
  | .fallbackDrain tile queue => Sys2Proof.Machine.execFallbackDrain tile queue s
  | .assemblyAbandon tile index => Sys2Proof.Machine.execAssemblyAbandon tile index s
  | .remoteGet tile => Sys2Proof.Machine.execRemoteGet tile s
  | .remotePut tile => Sys2Proof.Machine.execRemotePut tile s
  | .combinePacket tile => Sys2Proof.Machine.execCombinePacket tile s
  | .queueRdWrite tile queue value => Sys2Proof.Machine.execQueueRdWrite tile queue value s
  | .fbPop tile value => Sys2Proof.Machine.execFbPop tile value s
  | .collDoorbell plot offset => Sys2Proof.Machine.execCollDoorbell plot offset s
  | .collAccept plot desc => Sys2Proof.Machine.execCollAccept plot desc s
  | .collNoAck plot step part chunk => Sys2Proof.Machine.execCollNoAck plot step part chunk s
  | .collAckReceive tile => Sys2Proof.Machine.execCollAckReceive tile s
  | .collResendReceive tile => Sys2Proof.Machine.execCollResendReceive tile s
  | .kernelDoorbell plot offset => Sys2Proof.Machine.execKernelDoorbell plot offset s
  | .kernelBind plot desc => Sys2Proof.Machine.execKernelBind plot desc s
  | .kernelUnbind plot desc => Sys2Proof.Machine.execKernelUnbind plot desc s
  | .tokenPartArrival tile => Sys2Proof.Machine.execTokenPartArrival tile s
  | .tokenAsmTimeout tile slot => Sys2Proof.Machine.execTokenAsmTimeout tile slot s
  | .khdrReceive tile => Sys2Proof.Machine.execKhdrReceive tile s
  | .kernelTrainLand tile => Sys2Proof.Machine.execKernelTrainLand tile s
  | .expertOutputArrival tile => Sys2Proof.Machine.execExpertOutputArrival tile s
  | .tokenRetTimeout tile slot => Sys2Proof.Machine.execTokenRetTimeout tile slot s
  | .dfpIngress port halfB frame good => Sys2Proof.Machine.execDfpIngress port halfB frame good s
  | .msgDfpReceive tile => Sys2Proof.Machine.execMsgDfpReceive tile s
  | .egressEnqueue port => Sys2Proof.Machine.execEgressEnqueue port s
  | .egressSchedule port halfB => Sys2Proof.Machine.execEgressSchedule port halfB s
  | .txUnderrun port halfB => Sys2Proof.Machine.execTxUnderrun port halfB s
  | .portUp port => Sys2Proof.Machine.execPortUp port s
  | .portDrain port => Sys2Proof.Machine.execPortDrain port s
  | .portDown port => Sys2Proof.Machine.execPortDown port s
  | .portCtrlWrite ch port value => Sys2Proof.Machine.execPortCtrlWrite ch port value s
  | .moduleInsert port => Sys2Proof.Machine.execModuleInsert port s
  | .moduleRemove port => Sys2Proof.Machine.execModuleRemove port s
  | .svcPress port => Sys2Proof.Machine.execSvcPress port s
  | .svcStuck port => Sys2Proof.Machine.execSvcStuck port s
  | .frontPanelScan bits => Sys2Proof.Machine.execFrontPanelScan bits s
  | .portLinkUp port => Sys2Proof.Machine.execPortLinkUp port s
  | .portLinkDown port => Sys2Proof.Machine.execPortLinkDown port s
  | .drainComplete port => Sys2Proof.Machine.execDrainComplete port s
  | .drainLimitExpiry port => Sys2Proof.Machine.execDrainLimitExpiry port s
  | .sieveWrite ch value => Sys2Proof.Machine.execSieveWrite ch value s
  | .lookupWrite ch value => Sys2Proof.Machine.execLookupWrite ch value s
  | .meterWrite ch value => Sys2Proof.Machine.execMeterWrite ch value s
  | .egressQueueWrite ch port value => Sys2Proof.Machine.execEgressQueueWrite ch port value s
  | .shaperWrite ch port value => Sys2Proof.Machine.execShaperWrite ch port value s
  | .gateWrite ch port value => Sys2Proof.Machine.execGateWrite ch port value s
  | .poolWrite ch port value => Sys2Proof.Machine.execPoolWrite ch port value s
  | .pfcReceive port prio pause => Sys2Proof.Machine.execPfcReceive port prio pause s
  | .combLost comb => Sys2Proof.Machine.execCombLost comb s
  | .adcReading loop code => Sys2Proof.Machine.execAdcReading loop code s
  | .loopConfigWrite ch value => Sys2Proof.Machine.execLoopConfigWrite ch value s
  | .calGo ch value => Sys2Proof.Machine.execCalGo ch value s
  | .calDue port => Sys2Proof.Machine.execCalDue port s
  | .calStageEnd port => Sys2Proof.Machine.execCalStageEnd port s
  | .plotBind ch => Sys2Proof.Machine.execPlotBind ch s
  | .plotBindDone plot => Sys2Proof.Machine.execPlotBindDone plot s
  | .plotRebind ch => Sys2Proof.Machine.execPlotRebind ch s
  | .plotRebindDone plot => Sys2Proof.Machine.execPlotRebindDone plot s
  | .plotTeardown ch => Sys2Proof.Machine.execPlotTeardown ch s
  | .teardownTilesReleased plot => Sys2Proof.Machine.execTeardownTilesReleased plot s
  | .hbmScrubDone plot range => Sys2Proof.Machine.execHbmScrubDone plot range s
  | .plotConfigWrite ch sub value => Sys2Proof.Machine.execPlotConfigWrite ch sub value s
  | .queueQuotaWrite ch quota => Sys2Proof.Machine.execQueueQuotaWrite ch quota s
  | .hbmRangeWrite ch value => Sys2Proof.Machine.execHbmRangeWrite ch value s
  | .attestReport ch => Sys2Proof.Machine.execAttestReport ch s
  | .getVersion ch => Sys2Proof.Machine.execGetVersion ch s
  | .getCapabilities ch => Sys2Proof.Machine.execGetCapabilities ch s
  | .negotiateAlgorithms ch => Sys2Proof.Machine.execNegotiateAlgorithms ch s
  | .getDigests ch => Sys2Proof.Machine.execGetDigests ch s
  | .getCertificate ch offset len => Sys2Proof.Machine.execGetCertificate ch offset len s
  | .challenge ch nonce => Sys2Proof.Machine.execChallenge ch nonce s
  | .getMeasurements ch session index nonce => Sys2Proof.Machine.execGetMeasurements ch session index nonce s
  | .keyExchange ch => Sys2Proof.Machine.execKeyExchange ch s
  | .finish session mutualKey => Sys2Proof.Machine.execFinish session mutualKey s
  | .heartbeatSpdm session => Sys2Proof.Machine.execHeartbeatSpdm session s
  | .keyUpdate session => Sys2Proof.Machine.execKeyUpdate session s
  | .endSession session => Sys2Proof.Machine.execEndSession session s
  | .spdmUnsupportedRequest ch code => Sys2Proof.Machine.execSpdmUnsupportedRequest ch code s
  | .plotClaim session plot => Sys2Proof.Machine.execPlotClaim session plot s
  | .keySet session phase key => Sys2Proof.Machine.execKeySet session phase key s
  | .txPhase session phase => Sys2Proof.Machine.execTxPhase session phase s
  | .phaseRetire session phase hold => Sys2Proof.Machine.execPhaseRetire session phase hold s
  | .secFlags session flags => Sys2Proof.Machine.execSecFlags session flags s
  | .phaseHoldEnd plot phase => Sys2Proof.Machine.execPhaseHoldEnd plot phase s
  | .query session => Sys2Proof.Machine.execQuery session s
  | .keyProg session id key iv => Sys2Proof.Machine.execKeyProg session id key iv s
  | .kSetGo session id => Sys2Proof.Machine.execKSetGo session id s
  | .kSetStop session id => Sys2Proof.Machine.execKSetStop session id s
  | .ideAnswer ack => Sys2Proof.Machine.execIdeAnswer ack s
  | .ideManagerWrite ch value => Sys2Proof.Machine.execIdeManagerWrite ch value s
  | .capsuleUnwrap plot value => Sys2Proof.Machine.execCapsuleUnwrap plot value s
  | .rngHealth test => Sys2Proof.Machine.execRngHealth test s
  | .libraryWrite ch value => Sys2Proof.Machine.execLibraryWrite ch value s
  | .wearWrite ch value => Sys2Proof.Machine.execWearWrite ch value s
  | .heartbeatMiss member => Sys2Proof.Machine.execHeartbeatMiss member s
  | .quorumGroupWrite ch sub value => Sys2Proof.Machine.execQuorumGroupWrite ch sub value s
  | .rejoin ch bitmap => Sys2Proof.Machine.execRejoin ch bitmap s
  | .graftMapWrite ch value => Sys2Proof.Machine.execGraftMapWrite ch value s
  | .graftHoldEnd plot => Sys2Proof.Machine.execGraftHoldEnd plot s
  | .clusterActive ch => Sys2Proof.Machine.execClusterActive ch s
  | .clusterFallow ch => Sys2Proof.Machine.execClusterFallow ch s
  | .clusterDeep ch => Sys2Proof.Machine.execClusterDeep ch s
  | .portPwrWrite ch port fallow => Sys2Proof.Machine.execPortPwrWrite ch port fallow s
  | .fallowAll ch => Sys2Proof.Machine.execFallowAll ch s
  | .wakeAll ch => Sys2Proof.Machine.execWakeAll ch s
  | .powerStageStart die index => Sys2Proof.Machine.execPowerStageStart die index s
  | .powerStageEnd die index => Sys2Proof.Machine.execPowerStageEnd die index s
  | .pwrCtrlWrite ch value => Sys2Proof.Machine.execPwrCtrlWrite ch value s
  | .moaFrameReceive frame forUs => Sys2Proof.Machine.execMoaFrameReceive frame forUs s
  | .moaRead ch index sub => Sys2Proof.Machine.execMoaRead ch index sub s
  | .moaWrite ch index sub payload => Sys2Proof.Machine.execMoaWrite ch index sub payload s
  | .odRegisterWrite ch index sub payload => Sys2Proof.Machine.execOdRegisterWrite ch index sub payload s
  | .describe ch index sub => Sys2Proof.Machine.execDescribe ch index sub s
  | .hello ch => Sys2Proof.Machine.execHello ch s
  | .segWrite ch index sub total xcrc => Sys2Proof.Machine.execSegWrite ch index sub total xcrc s
  | .segRead ch index sub => Sys2Proof.Machine.execSegRead ch index sub s
  | .segAbort ch => Sys2Proof.Machine.execSegAbort ch s
  | .segment ch segno data => Sys2Proof.Machine.execSegment ch segno data s
  | .segAck ch segno => Sys2Proof.Machine.execSegAck ch segno s
  | .segTimeout ch => Sys2Proof.Machine.execSegTimeout ch s
  | .keySlotWrite ch slot value => Sys2Proof.Machine.execKeySlotWrite ch slot value s
  | .arpRequest ip => Sys2Proof.Machine.execArpRequest ip s
  | .neighborSolicitation ip => Sys2Proof.Machine.execNeighborSolicitation ip s
  | .hostRegisterWrite offset size data => Sys2Proof.Machine.execHostRegisterWrite offset size data s
  | .dmaWindowWrite plot value => Sys2Proof.Machine.execDmaWindowWrite plot value s
  | .eventRingWrite ring value => Sys2Proof.Machine.execEventRingWrite ring value s
  | .consWrite ring value => Sys2Proof.Machine.execConsWrite ring value s
  | .irqHoldEnd ring => Sys2Proof.Machine.execIrqHoldEnd ring s
  | .dmaCompletion tag data err => Sys2Proof.Machine.execDmaCompletion tag data err s
  | .hbmResponse tile tag err => Sys2Proof.Machine.execHbmResponse tile tag err s
  | .hbmRead tile => Sys2Proof.Machine.execHbmRead tile s
  | .hbmWrite tile => Sys2Proof.Machine.execHbmWrite tile s
  | .stream tile => Sys2Proof.Machine.execStream tile s
  | .streamEnd tile index readError => Sys2Proof.Machine.execStreamEnd tile index readError s
  | .startupStageDone flashOk => Sys2Proof.Machine.execStartupStageDone flashOk s
  | .selfTestStart ch => Sys2Proof.Machine.execSelfTestStart ch s
  | .selfTestDone cluster result => Sys2Proof.Machine.execSelfTestDone cluster result s
  | .fwImage ch total xcrc => Sys2Proof.Machine.execFwImage ch total xcrc s
  | .verify ch => Sys2Proof.Machine.execVerify ch s
  | .activate ch => Sys2Proof.Machine.execActivate ch s
  | .confirm ch => Sys2Proof.Machine.execConfirm ch s
  | .erase ch => Sys2Proof.Machine.execErase ch s
  | .restart ch => Sys2Proof.Machine.execRestart ch s
  | .counterWrite ch value => Sys2Proof.Machine.execCounterWrite ch value s
  | .pmcCfgWrite tile index value => Sys2Proof.Machine.execPmcCfgWrite tile index value s
  | .rakeKWrite ch value => Sys2Proof.Machine.execRakeKWrite ch value s
  | .rakeBaseWrite ch value => Sys2Proof.Machine.execRakeBaseWrite ch value s
  | .histogramClear ch => Sys2Proof.Machine.execHistogramClear ch s
  | .hangThaw ch value => Sys2Proof.Machine.execHangThaw ch value s
  | .hangBaseWrite ch value => Sys2Proof.Machine.execHangBaseWrite ch value s
  | .traceCtrlWrite ch value => Sys2Proof.Machine.execTraceCtrlWrite ch value s
  | .markerSend ch value => Sys2Proof.Machine.execMarkerSend ch value s
  | .railFault cluster => Sys2Proof.Machine.execRailFault cluster s
  | .linkRetry kindPort index => Sys2Proof.Machine.execLinkRetry kindPort index s
  | .linkRetrain kindPort index failed => Sys2Proof.Machine.execLinkRetrain kindPort index failed s
  | .dbgAccess tile write addr data => Sys2Proof.Machine.execDbgAccess tile write addr data s
  | .hostRegisterRead offset size => Sys2Proof.Machine.execHostRegisterRead offset size s
  | .chunkedTransfer ch first last part => Sys2Proof.Machine.execChunkedTransfer ch first last part s
  | .combLocked comb => Sys2Proof.Machine.execCombLocked comb s
  | .frameTick => Sys2Proof.Machine.execFrameTick s
  | .sownLoadDone => Sys2Proof.Machine.execSownLoadDone s
  | .shadowRetireEnd => Sys2Proof.Machine.execShadowRetireEnd s
  | .expertCheckDone => Sys2Proof.Machine.execExpertCheckDone s
  | .capsuleDone => Sys2Proof.Machine.execCapsuleDone s
  | .rngRestartPass => Sys2Proof.Machine.execRngRestartPass s
  | .rngWaitTimeout => Sys2Proof.Machine.execRngWaitTimeout s
  | .heartbeatSend => Sys2Proof.Machine.execHeartbeatSend s
  | .quorumDfpReceive => Sys2Proof.Machine.execQuorumDfpReceive s
  | .heartbeat => Sys2Proof.Machine.execHeartbeat s
  | .view => Sys2Proof.Machine.execView s
  | .commit => Sys2Proof.Machine.execCommit s
  | .quorumPhase1End => Sys2Proof.Machine.execQuorumPhase1End s
  | .quorumPhase2End => Sys2Proof.Machine.execQuorumPhase2End s
  | .quorumPhase3End => Sys2Proof.Machine.execQuorumPhase3End s
  | .thermalTrip => Sys2Proof.Machine.execThermalTrip s
  | .mailboxGo => Sys2Proof.Machine.execMailboxGo s
  | .mailboxDone => Sys2Proof.Machine.execMailboxDone s
  | .hostRead => Sys2Proof.Machine.execHostRead s
  | .hostWrite => Sys2Proof.Machine.execHostWrite s
  | .porRelease => Sys2Proof.Machine.execPorRelease s
  | .warmReset => Sys2Proof.Machine.execWarmReset s
  | .pstoreCompaction => Sys2Proof.Machine.execPstoreCompaction s
  | .rakeWriteOut => Sys2Proof.Machine.execRakeWriteOut s
  | .porAssert => Sys2Proof.Machine.execPorAssert s

end Sys2Proof.Machine
end

