-- ==== Sys2Proof/Safety.lean ====
section
/-! DEFINITION. What counts as a safe run: the terms that the statements use. -/
namespace Sys2Proof.Safety

open Sys2Proof.Machine

/-! ### When a command acts -/

/-- A command whose numbers lie in range and name a place that the member has. -/
abbrev Named (s : State) (c : Instr) : Prop := c.wf = true ∧ inPlace s.blk.member c = true

/-- A command of the mesh acts: it names a place, and the mesh clock runs (R352, R312). -/
abbrev Ready (s : State) (c : Instr) : Prop := Named s c ∧ s.live = true

/-- A request to the steward is served: its microcode runs (R352). -/
abbrev Served (s : State) (c : Instr) : Prop := Named s c ∧ s.blk.fw.stage = .done

/-- A request on an open channel, at its level, is served (R324, R325). -/
abbrev Asked (s : State) (c : Instr) (ch : Channel) (expert : Bool) : Prop :=
  Served s c ∧ s.blk.open_ ch = true ∧ (expert = true → s.blk.expert ch = true)

/-- A command of the host window or of the vault acts: the block is out of reset. -/
abbrev Up (s : State) (c : Instr) : Prop := Named s c ∧ s.blk.fw.stage ≠ .held

/-- The state with a changed block; queue and trip latch stand. -/
abbrev become (s : State) (b : Blk) : Host.Outcome State Fault Refusal := .next { s with blk := b }

/-! ### Engines -/

/-- A sheaf of an OP is the next that an engine can start (R100, R101). -/
abbrev Starts (s : State) (t e op : Nat) (x : Sheaf) : Prop := s.blk.nextStart t e = some x ∧ kOp x.cmd = op

/-- The block with a sheaf that has finished with a status and DETAIL; MEM raises SRAM_UE (R114, R130). -/
abbrev ends (b : Blk) (t e : Nat) (x : Sheaf) (st : Nat) (detail : Nat := 0) : Blk := b.finished t e x st detail

/-- The block with a sheaf that is to issue n requests, or is finished where it has none. -/
abbrev issues (b : Blk) (t e : Nat) (x : Sheaf) (n : Nat) : Blk :=
  b.modSheaf t e x.sid fun y => { y with state := if n = 0 then .finished else .running, total := n }

/-- A run of SRAM bytes reads with no error that ECC cannot correct; b' has the corrected ones counted (R130). -/
abbrev Reads (b : Blk) (t a n : Nat) (b' : Blk) : Prop := b.operand t a n = .ok (b.readSram t a n, b')

/-! ### Invariants -/

/-- A tripped block has its latch set (R312). -/
def TripLatched (s : State) : Prop := s.trip.tripped = true → s.trip.latch = true

/-- The memories of the host window in canonical form. -/
def HostOk (h : HostIf) : Prop := Mem.wf h.mem = true ∧ Mem.wf h.reqBuf = true ∧ Mem.wf h.rspBuf = true

/-- The flash slots in canonical form. -/
def FwOk (f : Firmware) : Prop := Mem.wf f.slotA = true ∧ Mem.wf f.slotB = true

/-- Every byte memory of the block in canonical form: addresses strictly rising, no entry that reads as an unlisted one. -/
def MemOk (b : Blk) : Prop := Mem.wf b.sram = true ∧ Mem.wf b.hbm = true ∧ HostOk b.host ∧ FwOk b.fw

end Sys2Proof.Safety
end

