-- ==== Sys2Proof/Certificates/Slice0/Obligations.lean ====
section
/-! DEFINITION. The statements for the provers: what the commands do, family by family, what every step keeps, and reset. -/
section
open Sys2Proof Sys2Proof.Machine Sys2Proof.Safety

/-- R101, R105, R121: the list commands that run in an engine. A list.nop finishes OK; list.wait takes n from its semaphore once the
waits of the mc see n in it, and until then holds; list.signal adds n, and at 65,535 the semaphore stops with SEM_SAT and
SEM_SATURATED; list.tick starts and waits for its n-th tick; list.event posts LIST_EVENT. An n of 0 or above 65,535 completes
with BAD_OPERAND. -/
def Obligations.ListEngineCommands : Prop :=
  ∀ (s : State) (t e : Nat) (x : Sheaf),
    let b := s.blk.started t x
    let n := kArg x.cmd
    let i := kWaitSem x.cmd
    let j := kSigSem x.cmd
    let legal := 0 < n ∧ n ≤ 65535
    (Ready s (.listNop t e) → Starts s t e (64 * e + fnNop) x →
      exec (.listNop t e) s = become s (ends b t e x stOk)) ∧
    (Ready s (.listWait t e) → Starts s t e (64 * e + fnWait) x →
      (legal → n ≤ ((b.tile t).semMc b.clk.mc i).seen →
        exec (.listWait t e) s = become s (ends (b.modTile t fun y =>
          (y.setSem i (y.sem i - n)).setSemMc i { y.semMc b.clk.mc i with seen := (y.semMc b.clk.mc i).seen - n }) t e x stOk)) ∧
      (legal → ((b.tile t).semMc b.clk.mc i).seen < n → exec (.listWait t e) s = become s s.blk) ∧
      (¬legal → exec (.listWait t e) s = become s (ends b t e x stBadOperand))) ∧
    (Ready s (.listSignal t e) → Starts s t e (64 * e + fnSignal) x →
      let v := (b.tile t).sem j + n
      let add := fun v => b.modTile t fun y =>
        (y.setSem j v).setSemMc j { y.semMc b.clk.mc j with added := (y.semMc b.clk.mc j).added + n }
      (legal → v ≤ 65535 → exec (.listSignal t e) s = become s (ends (add v) t e x stOk)) ∧
      (legal → 65535 < v → exec (.listSignal t e) s = become s
        (ends (((add 65535).count t evSemSat (some x.plot)).raiseP 0x06 x.plot (some t) j) t e x stOk)) ∧
      (¬legal → exec (.listSignal t e) s = become s (ends b t e x stBadOperand))) ∧
    (Ready s (.listTick t e) → Starts s t e (64 * e + fnTick) x →
      (legal → exec (.listTick t e) s = become s (issues (b.modSheaf t e x.sid fun y => { y with aux := n }) t e x 1)) ∧
      (¬legal → exec (.listTick t e) s = become s (ends b t e x stBadOperand))) ∧
    (Ready s (.listEvent t e) → Starts s t e (64 * e + fnEvent) x →
      exec (.listEvent t e) s = become s (ends (b.raiseP 0x04 x.plot (some t) n x.ctx) t e x stOk))

/-- R110, R111: the list commands that act in a context. list.loop jumps back and counts down, or passes on when its counter
is 0 (a counter of all ones in ARG never ends); list.call goes to another list and keeps its way back; list.end returns to
the caller, or the context drains.
The model's choices: log 34, 39. -/
def Obligations.ListContextCommands : Prop :=
  ∀ (s : State) (t c : Nat) (cmd : BitVec 256),
    let b := s.blk.ctxStarted t cmd
    let k := (b.tile t).ctx c
    let ctr := k.loops.getD (kXopt cmd % 4) { value := 0, loaded := false }
    let left := if ctr.loaded then ctr.value else kArg cmd
    let keep := fun (v : Nat) (l : Bool) => b.modTile t fun y =>
      y.modCtx c fun k => { k with loops := k.loops.put (kXopt cmd % 4) { value := v, loaded := l } }
    (Ready s (.listLoop t c) → s.blk.ctxCmd t c fnLoop = some cmd → kOpa cmd < k.cur.index →
      (kArg cmd = 2 ^ 32 - 1 →
        exec (.listLoop t c) s = become s (b.dispatchDone t c cmd stOk fun l => { l with index := kOpa cmd })) ∧
      (kArg cmd ≠ 2 ^ 32 - 1 → 0 < left →
        exec (.listLoop t c) s = become s
          ((keep (left - 1) true).dispatchDone t c cmd stOk fun l => { l with index := kOpa cmd })) ∧
      (kArg cmd ≠ 2 ^ 32 - 1 → left = 0 → k.cur.index + 1 < k.cur.limit →
        exec (.listLoop t c) s = become s
          ((keep 0 false).dispatchDone t c cmd stOk fun l => { l with index := l.index + 1 }))) ∧
    (∀ list base, Ready s (.listCall t c) → s.blk.ctxCmd t c fnCall = some cmd → k.cur.index + 1 < k.cur.limit →
      k.stack.length < 3 → sramOp k.cur.base (kOpa cmd) 32 32 = some list → sramOp k.cur.base (kOpb cmd) 0 1 = some base →
      exec (.listCall t c) s = become s
        ((b.modTile t fun y => y.modCtx c fun k => { k with stack := { k.cur with index := k.cur.index + 1 } :: k.stack })
          |>.dispatchDone t c cmd stOk fun _ => { list := list, index := 0, base := base, limit := 4096 })) ∧
    (Ready s (.listEnd t c) → s.blk.ctxCmd t c fnEnd = some cmd →
      (∀ f fs, k.stack = f :: fs →
        exec (.listEnd t c) s = become s
          ((b.dispatchDone t c cmd stOk fun _ => f).modTile t fun y => y.modCtx c fun k => { k with stack := fs })) ∧
      (k.stack = [] →
        exec (.listEnd t c) s = become s
          ((b.completeCmd t k.plot c k.cur.index stOk 0 cmd).modTile t fun y =>
            (y.modCtx c fun k => { k with state := .draining }).settle c)))

/-- R101, R110–R112, R114, R117, R338–R340: a context's next command goes to the end of its engine's queue, with the deadline of the
first frame that its DEADLINE names; a launch that passes its checks waits in the tile's queue, one that fails a check answers with
its RESULT, counted where the queue is full; the oldest launch takes the lowest IDLE context, which dispatches from index 0; the
first finished sheaf completes; a write sets a semaphore, the signals of its mc added, and one to the page of an invalid tile is
counted in HOST_BAD_ACCESS.
The model's choices: log 34, 36, 139, 175. -/
def Obligations.DispatchAndLaunch : Prop :=
  (∀ (s : State) (t c : Nat) (f : BitVec 48),
      let k := (s.blk.tile t).ctx c
      let cmd := s.blk.fetchCmd t k
      let e := opEngine (kOp cmd)
      Ready s (.commandDispatch t c) → k.dispatching = true → k.cur.index + 1 < k.cur.limit → inContext cmd = false →
      ((s.blk.tile t).sheaves e).length < 64 → cmdOk cmd = true → kOp cmd ≠ opSow →
      deadlineOf cmd k.launch s.blk.clk.frame = some f → ahead f s.blk.clk.frame = true →
      ∃ b, exec (.commandDispatch t c) s = become s b ∧
        (b.tile t).sheaves e = (s.blk.tile t).sheaves e ++
          [{ sid := (s.blk.tile t).es.nextSid, cmd := cmd, base := k.cur.base, plot := k.plot, ctx := c, index := k.cur.index,
             deadline := f, state := .queued, late := false, issued := 0, total := 0, outst := 0, status := 0#8,
             detail := 0#8, noSteal := false, aux := 0 }] ∧
        (b.tile t).ctx c = { k with state := .dispatch, cur := { k.cur with index := k.cur.index + 1 } } ∧
        (∀ u, u ≠ t → b.tile u = s.blk.tile u) ∧ { b with tiles := s.blk.tiles } = s.blk) ∧
  (∀ (s : State) (t p : Nat),
      (∀ v, Ready s (.listLaunch p v) → p ≠ 0 → s.blk.bound p = true →
        let r := s.blk.launchDecide p v
        (r = 0 → exec (.listLaunch p v) s = become s
          (((s.blk.modPlot p fun x => { x with host := { x.host with
              launchResult := 0, launchTile := lnTile v, accepted := x.host.accepted + 1 } }).modTile (lnTile v) fun x =>
            { x with es := { x.es with launchQ := x.es.launchQ ++
              [{ plot := p, list := lnList v, base := lnBase v, limit := 4096, statusAt := some (lnStatus v),
                 handler := none }] } }).note (.launch p (lnTile v)))) ∧
        (r ≠ 0 →
          let b := s.blk.modPlot p fun x => { x with host := { x.host with launchResult := r, launchTile := lnTile v } }
          exec (.listLaunch p v) s = become s (if r = 4 then b.count (lnTile v) evLaunchRefused (some p) else b))) ∧
      (∀ l ls c, Ready s (.launchDequeue t) → s.blk.launchable t = true → (s.blk.tile t).es.launchQ = l :: ls →
        (s.blk.tile t).idleCtx = some c →
        exec (.launchDequeue t) s = become s ((s.blk.note (.launched t)).modTile t fun x =>
          (({ x with es := { x.es with launchQ := ls } } : Tile).modCtx c fun _ =>
            { Ctx.fresh with state := .dispatch, plot := l.plot, launch := s.blk.clk.frame, statusAt := l.statusAt,
                             handler := l.handler,
                             cur := { list := l.list, index := 0, base := l.base, limit := l.limit } }).refillLaunch)) ∧
      (∀ e x, Ready s (.commandComplete t e) → ((s.blk.tile t).sheaves e).find? (fun y => y.state = .finished) = some x →
        exec (.commandComplete t e) s = become s (s.blk.complete t e x)) ∧
      (∀ k v, Ready s (.semWrite t k v) →
        (s.blk.member.hasTile t = true → exec (.semWrite t k v) s = become s (s.blk.modTile t fun x =>
          let r := x.semMc s.blk.clk.mc k
          (x.setSem k (min 65535 (v.toNat + r.added))).setSemMc k r)) ∧
        (s.blk.member.hasTile t = false → exec (.semWrite t k v) s = become s (s.blk.countSys evBadAccess))))

/-- R106: move.copy copies LEN bytes between regions of SRAM that do not overlap; move.fill repeats a 32-bit pattern. An operand that
ECC cannot correct is MEM, and nothing is written (R130).
The model's choices: log 46, 47, 48. -/
def Obligations.MoveInsideTile : Prop :=
  ∀ (s : State) (t : Nat) (x : Sheaf) (a d : Nat),
    let c := x.cmd
    let b := s.blk.started t x
    (Ready s (.moveCopy t) → Starts s t 0 0x01 x → 1 ≤ kLen c → kLen c ≤ sramBytes →
      b.sramAt t x.base (kOpa c) (kLen c) 1 = .ok a → b.sramAt t x.base (kOpb c) (kLen c) 1 = .ok d →
      (a + kLen c ≤ d ∨ d + kLen c ≤ a) →
      (∀ b', Reads b t a (kLen c) b' →
        exec (.moveCopy t) s = become s (ends (b'.writeSram t d (b.readSram t a (kLen c))) t 0 x stOk)) ∧
      (∀ w, (b.sramErrors t a (kLen c)).find? (fun y => y.2) = some w →
        exec (.moveCopy t) s = become s (ends b t 0 x stMem (w.1 % 2 ^ 18 / 8 * 64)))) ∧
    (Ready s (.moveFill t) → Starts s t 0 0x02 x → kLen c % 4 = 0 →
      b.sramAt t x.base (kOpb c) (kLen c) 1 = .ok d →
      exec (.moveFill t) s = become s (ends (b.writeSram t d
        ((List.range (kLen c / 4)).flatMap fun _ => toBytes 4 (kArg c))) t 0 x stOk))

/-- R106, R396–R398, R401: an HBM or host transfer whose operands pass starts: it is to issue one request for every one or
two 64-byte units; a write reads its SRAM operand through ECC; a stream's opening is one request.
The model's choices: log 47, 55, 56. -/
def Obligations.MoveTransfersStart : Prop :=
  ∀ (s : State) (t : Nat) (x : Sheaf) (a : Nat) (b' : Blk),
    let c := x.cmd
    let b := s.blk.started t x
    (kLen c % 64 = 0 → kLen c ≤ 1048576 → b.sramAt t x.base (kOpa c) (kLen c) 64 = .ok a → Reads b t a (kLen c) b' →
      (b.inHbm x.plot (kOpc c) (kLen c) = true →
        (Ready s (.moveHbmRead t) → Starts s t 0 0x03 x →
          exec (.moveHbmRead t) s = become s (issues b t 0 x (b.hbmParts x.plot (kLen c / 64) (kOpc c) (kLen c / 64)).length)) ∧
        (Ready s (.moveHbmWrite t) → Starts s t 0 0x04 x →
          exec (.moveHbmWrite t) s =
            become s (issues b' t 0 x (b'.hbmParts x.plot (kLen c / 64) (kOpc c) (kLen c / 64)).length))) ∧
      (b.inHost x.plot (kOpc c) (kLen c) = true →
        (Ready s (.moveHostRead t) → Starts s t 0 0x05 x →
          exec (.moveHostRead t) s = become s (issues b t 0 x (hostParts (kLen c / 64) (kOpc c) (kLen c / 64)).length)) ∧
        (Ready s (.moveHostWrite t) → Starts s t 0 0x06 x →
          exec (.moveHostWrite t) s = become s (issues b' t 0 x (hostParts (kLen c / 64) (kOpc c) (kLen c / 64)).length)))) ∧
    (Ready s (.moveHbmStream t) → Starts s t 0 0x0A x →
      (b.member.isHbmTile (kOpb c % 1024) = true ∨
        (b.owns x.plot (kOpb c % 1024) = true ∧ b.member.hasTile (kOpb c % 1024) = true)) →
      1 ≤ kLen c → kLen c ≤ 16777216 → b.inHbm x.plot (kOpc c) (kLen c * 64) = true →
      exec (.moveHbmStream t) s = become s (issues b t 0 x 1))

/-- R58, R106, R114, R120, R263: move.sow writes cells into the fill buffer of a furrow with MODE REPEAT or IDLE and counts
them; move.reap copies cells of a read buffer; move.emit hands a DFP to the egress queue that its CLASS names.
The model's choices: log 47, 87. -/
def Obligations.MoveFurrowsAndEmit : Prop :=
  ∀ (s : State) (t : Nat) (x : Sheaf) (a d : Nat) (b' : Blk),
    let c := x.cmd
    let b := s.blk.started t x
    (∀ desc, Ready s (.moveSow t) → Starts s t 0 0x07 x → b.sramAt t x.base (kOpb c) (kLen c * 64) 64 = .ok a →
      b.injectSram t x.plot (kFurrow c) = .ok desc → kXopt c + kLen c ≤ dCells desc →
      (b.staging (stageKey t x.plot (kFurrow c) false)).filled + kLen c ≤ dCells desc → Reads b t a (kLen c * 64) b' →
      let k := stageKey t x.plot (kFurrow c) false
      let st := b.staging k
      exec (.moveSow t) s = become s (ends
        ((b'.writeSram t ((fillBuf desc st + kXopt c) * 64) (b.readSram t a (kLen c * 64))).setStaging k
          { st with filled := st.filled + kLen c }) t 0 x stOk)) ∧
    (∀ xs st dt, Ready s (.moveReap t) → Starts s t 0 0x08 x → b.sramAt t x.base (kOpb c) (kLen c * 64) 64 = .ok d →
      b.sownInput t x.plot c (kLen c) = .ok ((xs, b'), st, dt) →
      exec (.moveReap t) s = become s (ends (b'.writeSram t d xs) t 0 x st dt)) ∧
    (∀ p ha b1, Ready s (.moveEmit t) → Starts s t 0 0x09 x → 1 ≤ kLen c → kLen c ≤ 64 →
      b.sramAt t x.base (kOpa c) (kLen c * 64) 64 = .ok a → b.sramAt t x.base (kOpb c) 32 64 = .ok ha → Reads b t ha 32 b1 →
      let h : BitVec 256 := BitVec.ofNat 256 (ofBytes (b.readSram t ha 32))
      b1.emitPort t x.plot (fKey h) (kXopt c % 2 = 1) = .ok p → Reads b1 t a (kLen c * 64) b' →
      exec (.moveEmit t) s = become s (ends
        (b'.emitDfp t x.plot p (kXopt c % 2 = 1) (setFld h 40 6 (kLen c - 1))
          ((List.range (kLen c)).map fun i => ((b1.readSram t a (kLen c * 64)).drop (64 * i)).take 64)) t 0 x stOk))

/-- R107, R141: reduce.oasis reserves an oasis with no grid and every entry fresh where the store has room; reduce.release
frees one that no lent sheaf adds into.
The model's choices: log 51. -/
def Obligations.ReduceOases : Prop :=
  ∀ (s : State) (t : Nat) (x : Sheaf),
    let c := x.cmd
    let b := s.blk.started t x
    let id := kOpa c % 64
    (∀ wide : Bool, Ready s (.reduceOasis t) → Starts s t 1 0x41 x → (kXopt c % 2 = 1 ↔ wide = true) →
      1 ≤ kLen c → kLen c ≤ (if wide then 4096 else 16384) → (b.tile t).oases.get? id = none →
      (b.tile t).roomUsed + oasisRoom wide (kLen c) ≤ 16384 →
      exec (.reduceOasis t) s = become s (ends (({ b with ecc := b.ecc.freshOasis t id } : Blk).modTile t fun y => { y with
        oases := y.oases.put id { wide := wide, size := kLen c, grid := .none, entries := [] } }) t 1 x stOk)) ∧
    (∀ o, Ready s (.reduceRelease t) → Starts s t 1 0x42 x → (b.tile t).oases.get? id = some o →
      ((b.tile t).sheaves 1).any (fun y => y.state = .lent && addsInto id y) = false →
      exec (.reduceRelease t) s = become s (ends (b.modTile t fun y => { y with oases := y.oases.del id }) t 1 x stOk))

/-- R107, R138, R140, R148: reduce.add, reduce.scale.add and reduce.add.sown add a run of values into an oasis that takes
their format, each exactly once; reduce.merge merges a run of wire entries. Operand and entries are read through ECC (R130, R141).
The model's choices: log 45, 47, 51, 52. -/
def Obligations.ReduceAdds : Prop :=
  ∀ (s : State) (t : Nat) (x : Sheaf) (a : Nat) (o : Oasis),
    let c := x.cmd
    let b := s.blk.started t x
    let n := runBytes (kInFmt c) (kLen c)
    (∀ b1 b2, fmtOk (kInFmt c) = true → lenOk (kInFmt c) (kLen c) = true →
      b1.fraOperand t (kOasis c) (kFirst c) (kLen c) = .ok b2 →
      (b.sramAt t x.base (kOpa c) n (runAlign (kInFmt c)) = .ok a → b.oasisOf t c (·.takes (kInFmt c)) = .ok o →
        Reads b t a n b1 →
        (Ready s (.reduceAdd t) → Starts s t 1 0x43 x →
          exec (.reduceAdd t) s = become s (ends (b2.addInto t x.plot (kOasis c) o (kInFmt c) (kFirst c)
            (decodeRun (kInFmt c) (kLen c) (b.readSram t a n))) t 1 x stOk)) ∧
        (Ready s (.reduceScaleAdd t) → Starts s t 1 0x45 x →
          exec (.reduceScaleAdd t) s = become s (ends (b2.addInto t x.plot (kOasis c) o (kInFmt c) (kFirst c)
            ((decodeRun (kInFmt c) (kLen c) (b.readSram t a n)).map fun v =>
              Val.mul (fpBinary32.decode (kArg c)) v)) t 1 x stOk))) ∧
      (∀ xs st dt, Ready s (.reduceAddSown t) → Starts s t 1 0x44 x →
        b.sownInput t x.plot c (ceilDiv n 64) = .ok ((xs, b1), st, dt) → b1.oasisOf t c (·.takes (kInFmt c)) = .ok o →
        exec (.reduceAddSown t) s = become s (ends (b2.addInto t x.plot (kOasis c) o (kInFmt c) (kFirst c)
          (decodeRun (kInFmt c) (kLen c) xs)) t 1 x st dt))) ∧
    (∀ b1 b2, Ready s (.reduceMerge t) → Starts s t 1 0x46 x → b.oasisOf t c (fun _ => true) = .ok o →
      b.sramAt t x.base (kOpa c) (kLen c * fraBytes o.wide) 1 = .ok a → Reads b t a (kLen c * fraBytes o.wide) b1 →
      b1.mergeInto t x.plot (kOasis c) o (kFirst c)
        (wireRun o.wide (kLen c) (b.readSram t a (kLen c * fraBytes o.wide))) = .ok b2 →
      exec (.reduceMerge t) s = become s (ends b2 t 1 x stOk))

/-- R107, R142–R148: reduce.round and reduce.narrow write the rounded exact sums of a run of entries; reduce.map scales, clips
and rounds each value once; reduce.crc writes the CRC-32C of a run, and completes with CRC where a compare fails. Operand and
entries are read through ECC (R130, R141).
The model's choices: log 45, 47, 48. -/
def Obligations.ReduceResults : Prop :=
  ∀ (s : State) (t : Nat) (x : Sheaf) (a d : Nat) (o : Oasis) (b' : Blk),
    let c := x.cmd
    let b := s.blk.started t x
    (fmtOk (kOutFmt c) = true → lenOk (kOutFmt c) (kLen c) = true →
      b.sramAt t x.base (kOpa c) (runBytes (kOutFmt c) (kLen c)) (runAlign (kOutFmt c)) = .ok a →
      b.oasisOf t c (fun _ => true) = .ok o → b.fraOperand t (kOasis c) (kFirst c) (kLen c) = .ok b' →
      let r := encodeRun (kOutFmt c) (kRnd c) (srOf (kArg c) (kOpc c)) (o.results (kFirst c) (kLen c))
      (Ready s (.reduceRound t) → Starts s t 1 0x47 x → kRnd c ≤ 4 →
        exec (.reduceRound t) s = become s (ends (b'.writeRun t x.plot a r) t 1 x stOk)) ∧
      (Ready s (.reduceNarrow t) → Starts s t 1 0x48 x → kRnd c ≤ 6 →
        exec (.reduceNarrow t) s = become s (ends (b'.writeRun t x.plot a r) t 1 x stOk))) ∧
    (Ready s (.reduceMap t) → Starts s t 1 0x49 x → fmtOk (kInFmt c) = true → fmtOk (kOutFmt c) = true →
      lenOk (kInFmt c) (kLen c) = true → lenOk (kOutFmt c) (kLen c) = true → kRnd c ≤ 4 →
      fpBinary32.decode (kOpc c) ≠ .nan →
      b.sramAt t x.base (kOpa c) (runBytes (kInFmt c) (kLen c)) (runAlign (kInFmt c)) = .ok a →
      b.sramAt t x.base (kOpb c) (runBytes (kOutFmt c) (kLen c)) (runAlign (kOutFmt c)) = .ok d →
      Reads b t a (runBytes (kInFmt c) (kLen c)) b' →
      exec (.reduceMap t) s = become s (ends (b'.writeRun t x.plot d (encodeRun (kOutFmt c) (kRnd c) (fun _ => 0)
        ((decodeRun (kInFmt c) (kLen c) (b.readSram t a (runBytes (kInFmt c) (kLen c)))).map fun v =>
          clampTo (fpBinary32.decode (kOpc c)) (Val.mul v (fpBinary32.decode (kArg c)))))) t 1 x stOk)) ∧
    (Ready s (.reduceCrc t) → Starts s t 1 0x4A x → b.sramAt t x.base (kOpa c) (kLen c) 1 = .ok a →
      b.sramAt t x.base (kOpb c) 4 4 = .ok d → Reads b t a (kLen c) b' →
      let r := (crc32c (b.readSram t a (kLen c))).toNat
      exec (.reduceCrc t) s = become s (ends (b'.writeSram t d (toBytes 4 r)) t 1 x
        (if kXopt c % 2 = 1 ∧ r ≠ kArg c then stCrc else stOk)))

/-- R108, R150–R152, R206: array.load takes K × N weights; array.mm writes N binary32 scores for each input vector;
array.topk writes the k best scores with their indices; array.gate writes k gate values. Operands are read through ECC (R130).
The model's choices: log 41, 45, 47, 49, 50. -/
def Obligations.ArrayCommands : Prop :=
  ∀ (s : State) (t : Nat) (x : Sheaf) (a d : Nat) (b' : Blk),
    let c := x.cmd
    let b := s.blk.started t x
    let fmt := kInFmt c
    (b.tile t).pinned = false →
    (Ready s (.arrayLoad t) → Starts s t 2 0x81 x → arrayFmt fmt = true → 1 ≤ kLen c → kLen c ≤ 16384 → 1 ≤ kXopt c →
      kXopt c ≤ 4096 → weightsFit fmt (kLen c) (kXopt c) = true →
      b.sramAt t x.base (kOpa c) (weightBytes fmt (kLen c) (kXopt c)) (runAlign fmt) = .ok a →
      Reads b t a (weightBytes fmt (kLen c) (kXopt c)) b' →
      exec (.arrayLoad t) s = become s (ends (b'.modTile t fun y => { y with
        weights := some { k := kLen c, n := kXopt c, fmt := fmt, data := b.readSram t a (weightBytes fmt (kLen c) (kXopt c)) } }) t 2 x stOk)) ∧
    (∀ w, Ready s (.arrayMm t) → Starts s t 2 0x82 x → arrayFmt fmt = true → (b.tile t).weights = some w →
      let n := runBytes fmt (padK fmt w.k)
      b.sramAt t x.base (kOpa c) (kLen c * n) (runAlign fmt) = .ok a →
      b.sramAt t x.base (kOpb c) (kLen c * w.n * 4) 4 = .ok d → Reads b t a (kLen c * n) b' →
      exec (.arrayMm t) s = become s (ends ((b'.writeSram t d ((List.range (kLen c)).flatMap fun v =>
          (w.scores (vecOf fmt w.k (((b.readSram t a (kLen c * n)).drop (v * n)).take n))).flatMap fun y => toBytes 4 (scoreBits y))).countN
        t evMacs (kLen c * w.k * w.n / 256) (some x.plot)) t 2 x stOk)) ∧
    (Ready s (.arrayTopk t) → Starts s t 2 0x83 x → 1 ≤ kXopt c → kXopt c ≤ 8 → kXopt c ≤ kLen c → kLen c ≤ 4096 →
      b.sramAt t x.base (kOpa c) (4 * kLen c) 4 = .ok a → b.sramAt t x.base (kOpb c) (8 * kXopt c) 4 = .ok d →
      Reads b t a (4 * kLen c) b' →
      let bits := (List.range (kLen c)).map (word32 (b.readSram t a (4 * kLen c)))
      exec (.arrayTopk t) s = become s (ends (b'.writeSram t d ((topk (kXopt c) (bits.map fpBinary32.decode)).flatMap fun i =>
        toBytes 4 i ++ toBytes 4 (bits.getD i 0))) t 2 x stOk)) ∧
    (Ready s (.arrayGate t) → Starts s t 2 0x84 x → 1 ≤ kXopt c → kXopt c ≤ 8 → kRnd c ≤ 3 →
      b.sramAt t x.base (kOpa c) (8 * kXopt c) 4 = .ok a → b.sramAt t x.base (kOpb c) (4 * kXopt c) 4 = .ok d →
      Reads b t a (8 * kXopt c) b' →
      exec (.arrayGate t) s = become s (ends (b'.writeSram t d
        ((gateBits (kRnd c) ((List.range (kXopt c)).map fun i => word32 (b.readSram t a (8 * kXopt c)) (2 * i + 1))).flatMap
          (toBytes 4))) t 2 x stOk))

/-- R109, R157–R159, R172: queue.send takes the next MSG_ID and is to issue one packet for every 128 bytes, one for none;
queue.get, queue.put and queue.combine are to issue theirs; queue.bind binds a ring, or a combining region in its reset form.
The model's choices: log 7, 57, 58, 59. -/
def Obligations.QueueCommandsStart : Prop :=
  ∀ (s : State) (t : Nat) (x : Sheaf) (a : Nat) (b' : Blk),
    let c := x.cmd
    let b := s.blk.started t x
    (b.inPlot x.plot (kOpa c % 1024) = true →
      (Ready s (.queueSend t) → Starts s t 3 0xC1 x →
        (kXopt c % 256 = rqHandler ∨ kXopt c % 256 = rqQueue) → kLen c ≤ sramBytes →
        b.sramAt t x.base (kOpb c) (kLen c) 1 = .ok a → Reads b t a (kLen c) b' →
        exec (.queueSend t) s = become s (issues
          ((b'.modTile t fun y => { y with ms := { y.ms with msgId := (y.ms.msgId + 1) % 65536 } }).modSheaf t 3 x.sid fun y =>
            { y with aux := (b'.tile t).ms.msgId }) t 3 x (max 1 (parts128 (kLen c))))) ∧
      (Ready s (.queueGet t) → Starts s t 3 0xC2 x → kLen c ≤ 1048576 →
        (sramOp x.base (kOpb c) (kLen c) 1).isSome = true → b.sramAt t x.base (kOpc c) (kLen c) 1 = .ok a →
        exec (.queueGet t) s = become s (issues b t 3 x (parts128 (kLen c)))) ∧
      (Ready s (.queuePut t) → Starts s t 3 0xC3 x → kLen c ≤ 1048576 →
        (sramOp x.base (kOpc c) (kLen c) 1).isSome = true → b.sramAt t x.base (kOpb c) (kLen c) 1 = .ok a →
        Reads b t a (kLen c) b' →
        exec (.queuePut t) s = become s (issues b' t 3 x (parts128 (kLen c)))) ∧
      (Ready s (.queueCombine t) → Starts s t 3 0xC4 x → fmtOk (kInFmt c) = true → isMx (kInFmt c) = false →
        b.sramAt t x.base (kOpb c) (runBytes (kInFmt c) (kLen c)) (runAlign (kInFmt c)) = .ok a →
        Reads b t a (runBytes (kInFmt c) (kLen c)) b' →
        exec (.queueCombine t) s = become s (issues b' t 3 x (ceilDiv (kLen c) (combineElems (kInFmt c)))))) ∧
    (Ready s (.queueBind t) → Starts s t 3 0xC5 x → b.sramAt t x.base (kOpa c) (kLen c) 64 = .ok a →
      ((b.tile t).queue (kXopt c % 16)).bound = false → b.boundQueues x.plot < (b.plot x.plot).cfg.queueQuota →
      (kXopt c / 16 % 2 = 0 → kXopt c / 32 % 128 = 0 → kLen c % 64 = 0 → 256 ≤ kLen c → kLen c ≤ sramBytes →
        exec (.queueBind t) s = become s (ends (b.modQueue t (kXopt c % 16) fun _ =>
          { Queue.fresh with bound := true, base := a / 64, size := kLen c / 64 }) t 3 x stOk)) ∧
      (∀ wide : Bool, kXopt c / 16 % 2 = 1 → (kXopt c / 32 % 2 = 1 ↔ wide = true) → kLen c % fraBytes wide = 0 →
        kLen c / fraBytes wide ≤ 24576 →
        exec (.queueBind t) s = become s (ends
          ((b.writeSram t a (resetRegion wide (kLen c / fraBytes wide))).modQueue t (kXopt c % 16) fun _ =>
            { Queue.fresh with bound := true, base := a / 64, size := kLen c / fraBytes wide, combine := true, wide := wide,
                               sem := kXopt c / 64 % 32, semEn := kXopt c / 2048 % 2 = 1, expect := kArg c }) t 3 x stOk)))

/-- R110, R112, R116, R160, R163–R167, R169, R173, R174, R335: queue.unbind frees a queue with no open assembly, and until then
holds; queue.pop passes over the skip and VOID entries at RD, copies the entry there (nothing where LEN is 0) and passes it, and holds
while RD = WR; queue.handler completes, and its handler is written or cleared as the mc ends; entries are published in order; a
waiting handler launch enters the launch queue; the fallback drains; an assembly whose time has run out is abandoned as the mc ends,
its entry becoming VOID, unless a packet has landed in it in that mc; as the mc ends a written RD moves on where it may, else it is
counted, and FB_POP removes the oldest entry; a write to the page of an invalid tile is counted in HOST_BAD_ACCESS; a drained context
writes its record, or sets DONE in its message's entry, and is IDLE.
The model's choices: log 60, 61, 62, 63, 175. -/
def Obligations.QueueUpkeep : Prop :=
  ∀ (s : State) (t : Nat) (x : Sheaf) (q : Nat),
    let c := x.cmd
    let b := s.blk.started t x
    let i := kXopt c % 16
    (Ready s (.queueUnbind t) → Starts s t 3 0xC6 x → ((b.tile t).queue i).bound = true →
      ((b.tile t).ms.asms.any (fun y => y.2.queue = i) = false →
        exec (.queueUnbind t) s = become s (ends ((b.modQueue t i fun _ => Queue.fresh).countN t evUnbindDiscard
          ((b.tile t).queue i).dropped (some x.plot)) t 3 x stOk)) ∧
      ((b.tile t).ms.asms.any (fun y => y.2.queue = i) = true → exec (.queueUnbind t) s = become s s.blk)) ∧
    (∀ d, let b0 := s.blk.popPass t
      let b := b0.started t x
      let r := (b.tile t).queue i
      let h := b.header t r r.rd
      Ready s (.queuePop t) → b0.nextStart t 3 = some x → kOp c = 0xC7 → b.sramAt t x.base (kOpa c) (kLen c) 64 = .ok d →
      r.bound = true → r.combine = false →
      (r.rd = r.wr → exec (.queuePop t) s = become s b0) ∧
      (r.rd ≠ r.wr → hChkOk h = true → (kLen c = 0 ∨ 64 + hBytes h ≤ kLen c) →
        let b' := if kLen c = 0 then b else b.writeSram t d (b.readSram t (r.addr r.rd) (64 + hBytes h))
        exec (.queuePop t) s = become s (ends
          ((b'.rdTo t i (r.plus r.rd (hCells h))).rdAdvance t i (2 * r.size)) t 3 x stOk))) ∧
    (∀ a, Ready s (.queueHandler t) → Starts s t 3 0xC8 x → sramAddr x.base (kOpa c) = a → kLen c ≤ 4096 →
      (0 < kLen c → a % 32 = 0 → a + 32 * kLen c ≤ sramBytes →
        exec (.queueHandler t) s = become s (ends (b.note (.handler t (kXopt c % 256)
          { list := a, valid := true, freeOnEnd := kXopt c / 4096 % 2 = 1, queue := kXopt c / 256 % 16,
            cmds := kLen c })) t 3 x stOk)) ∧
      (kLen c = 0 →
        exec (.queueHandler t) s = become s (ends (b.note (.handler t (kXopt c % 256) Handler.fresh)) t 3 x stOk))) ∧
    (∀ (b : Blk) k h, b.noteActs (.handler t k h) = b.modTile t fun y =>
      { y with ms := { y.ms with handlers := y.ms.handlers.put k h } }) ∧
    (Ready s (.entryPublish t q) →
      exec (.entryPublish t q) s = become s (s.blk.publishGo t q ((s.blk.tile t).queue q).open_)) ∧
    (∀ l ls, Ready s (.handlerLaunch t) → (s.blk.tile t).es.handlerWait = l :: ls →
      (s.blk.tile t).es.launchQ.length < 16 →
      exec (.handlerLaunch t) s = become s (s.blk.modTile t fun y =>
        { y with es := { (s.blk.tile t).es with launchQ := (s.blk.tile t).es.launchQ ++ [l], handlerWait := ls } })) ∧
    (∀ f rest p b', let r := (s.blk.tile t).queue q
      Ready s (.fallbackDrain t q) → r.bound = true → r.combine = false →
      takeFirst (fun (f : FbEntry) => f.queue = q) (s.blk.tile t).ms.fallback = some (f, rest) →
      s.blk.reserve t q (hCells f.hdr) f.handler (fun seq => rehead (setFld f.hdr 0 16 seq)) true = some (p, b') →
      exec (.fallbackDrain t q) s = become s
        (((b'.writeSram t (r.addr p + 64) (f.data.take (hBytes f.hdr))).modTile t fun y =>
          { y with ms := { y.ms with fallback := rest } }).note (.drained t q))) ∧
    (Ready s (.assemblyAbandon t q) → exec (.assemblyAbandon t q) s = become s (s.blk.note (.abandon t q))) ∧
    (∀ (b0 : Blk) a, (b0.tile t).ms.asms.get? q = some a →
      let b := b0.modTile t fun y => { y with ms := { y.ms with asms := y.ms.asms.del q } }
      let r := (b.tile t).queue a.queue
      let h := b.header t r a.ptr
      (a.last = b0.clk.mc → b0.noteActs (.abandon t q) = b0) ∧
      (a.last ≠ b0.clk.mc → b0.noteActs (.abandon t q) =
        (((b.putHeader t r a.ptr (rehead (setFld h 16 1 1))).modQueue t a.queue fun r =>
          { r with open_ := r.open_.map fun e => if e.ptr = a.ptr then { e with complete := true, kind := .void } else e }).count
          t evMsgAbandon (some (fld h 200 8))).raiseP 0x09 (fld h 200 8) (some t) a.src a.msgId a.queue)) ∧
    (∀ v : BitVec 16, Ready s (.queueRdWrite t q v) →
      (s.blk.member.hasTile t = true → exec (.queueRdWrite t q v) s = become s (s.blk.note (.rd t q v.toNat))) ∧
      (s.blk.member.hasTile t = false → exec (.queueRdWrite t q v) s = become s (s.blk.countSys evBadAccess))) ∧
    (∀ (b : Blk) (v : Nat), let r := (b.tile t).queue q
      b.noteActs (.rd t q v) =
        if v < 2 * r.size ∧ r.dist r.wr v ≤ r.dist r.wr r.rd then b.rdTo t q v else b.count t evQueueRdRefused) ∧
    (∀ v : BitVec 32, Ready s (.fbPop t v) →
      (s.blk.member.hasTile t = true →
        exec (.fbPop t v) s = become s (if flag v 0 = true then s.blk.note (.fbPop t) else s.blk)) ∧
      (s.blk.member.hasTile t = false → exec (.fbPop t v) s = become s (s.blk.countSys evBadAccess))) ∧
    (∀ b : Blk, b.noteActs (.fbPop t) = b.modTile t fun y =>
      { y with ms := { y.ms with fallback := y.ms.fallback.drop 1 } }) ∧
    (let k := (s.blk.tile t).ctx q
      let idle := fun (b : Blk) => b.modTile t fun y => y.modCtx q fun k => { Ctx.fresh with held := k.held }
      Ready s (.statusRecordWrite t q) → k.state = .report →
      (∀ a, k.statusAt = some a → k.handler = none →
        exec (.statusRecordWrite t q) s = become s (idle (s.blk.writeSram t a (s.blk.statusRecord k)))) ∧
      (∀ r a, k.statusAt = none → k.handler = some (r, a, true) →
        exec (.statusRecordWrite t q) s = become s (idle (s.blk.setDone t r a))) ∧
      (∀ r a, k.statusAt = none → k.handler = some (r, a, false) →
        exec (.statusRecordWrite t q) s = become s (idle s.blk)))

/-- R34, R74, R75, R79, R85–R92: a head flit that arrives is aged and enters the input buffer of its route, or is dropped under 0x20
where its check fails and under 0x23 where the route gives no output, its credits returning at once; a free output grants its winner,
and a busy one chooses its hint in the mc that R87 gives for it; a credit on its way arrives; the oldest packet of a buffer is dropped
under reason 0x22, its credits return, and a hint for the head of the buffer is withdrawn with it. A dropped packet is in flight no
longer (R88).
The model's choices: log 19, 20, 140, 141, 143. -/
def Obligations.RouterCommands : Prop :=
  ∀ (s : State) (t n i : Nat),
    (∀ damage, Ready s (.flitHeadArrival t n i damage) →
      (∀ p since l, i < 4 → s.blk.opn.links.getD (inKey t n i) [] = (p, since) :: l →
        let b : Blk := { s.blk with opn := { s.blk.opn with links := s.blk.opn.links.put (inKey t n i) l } }
        let h := agedHdr p.hdr (s.blk.clk.mc - since) ^^^ damage
        let p' : Packet := { p with hdr := h }
        (flitOk h n = true → ∀ out vc, b.routeOf t n i p' = some (out, vc) →
          exec (.flitHeadArrival t n i damage) s = become s (b.setBuf (vcKey t n i (pVc h))
            (b.buf (vcKey t n i (pVc h)) ++ [{ pkt := p', arrived := s.blk.clk.mc, out := out, vc := vc }]))) ∧
        (flitOk h n = false →
          exec (.flitHeadArrival t n i damage) s = become s
            (((b.drop t 0x20).creditsBack t n i (pVc p.hdr) p.flits).flightEnd n p.hdr)) ∧
        (flitOk h n = true → b.routeOf t n i p' = none →
          exec (.flitHeadArrival t n i damage) s = become s
            (((b.drop t 0x23 none (some (pPlot h))).creditsBack t n i (pVc p.hdr) p.flits).flightEnd n p.hdr))) ∧
      (i = 4 ∨ s.blk.opn.links.getD (inKey t n i) [] = [] →
        exec (.flitHeadArrival t n i damage) s = become s s.blk)) ∧
    (∀ o, let k := inKey t n o
      let a := s.blk.arb k
      let hint := (s.blk.tile t).openCtrl.hintEn
      Ready s (.outputArbitration t n o) →
      (s.blk.clk.mc < a.busy →
        (hint = true → a.hintAt = some s.blk.clk.mc →
          exec (.outputArbitration t n o) s = become s (s.blk.setArb k { a with
            hintAt := none
            hint := (s.blk.choose t n a ((s.blk.cands t n o).filter fun c => a.cur ≠ some (c.input, c.vc))).map fun c =>
              (c.1.input, c.1.vc) })) ∧
        (¬(hint = true ∧ a.hintAt = some s.blk.clk.mc) → exec (.outputArbitration t n o) s = become s s.blk)) ∧
      (a.busy ≤ s.blk.clk.mc → s.blk.winner t n o = none → exec (.outputArbitration t n o) s = become s s.blk) ∧
      (∀ c nth, a.busy ≤ s.blk.clk.mc → s.blk.winner t n o = some (c, nth) →
        let lost := (s.blk.cands t n o).length - 1
        let plot := some (pPlot c.held.pkt.hdr)
        let fenced := s.blk.openFenced t o
        let b1 := if 0 < lost then s.blk.countN t evArbLost lost else s.blk
        let b2 := if c.preempts n then b1.count t evPreempt plot else if nth then b1.count t evNthGrant plot else b1
        let b3 := (b2.setArb k
          { a with count := if c.preempts n then a.count else if nth then 0 else a.count + 1,
                   ptr := (c.input * 4 + c.vc + 1) % 20, hint := none,
                   busy := s.blk.clk.mc + (if fenced then 1 else c.held.pkt.flits + (if hint then 0 else 1)),
                   hintAt := if fenced then none else some (s.blk.clk.mc + (c.held.pkt.flits - 2)),
                   cur := some (c.input, c.vc) }).grant t n o c
        let b4 := if c.input = 4 then b3.drainReplies t n else b3
        exec (.outputArbitration t n o) s = become s (b4.hintFor t n o))) ∧
    (∀ vc, let w := s.blk.opn.owed.getD (vcKey t n i vc) 0
      let up := s.blk.upstream t n i vc
      Ready s (.creditReturn t n i vc) → i < 4 →
      (0 < w → exec (.creditReturn t n i vc) s = become s
        (({ s.blk with opn := { s.blk.opn with owed := s.blk.opn.owed.put (vcKey t n i vc) (w - 1) } } : Blk).setUsed
          up (s.blk.usedCredits up - 1))) ∧
      (w = 0 → exec (.creditReturn t n i vc) s = become s s.blk)) ∧
    (∀ vc, let l := s.blk.buf (vcKey t n i vc)
      Ready s (.flitAgeDrop t n i vc) →
      (l = [] → exec (.flitAgeDrop t n i vc) s = become s s.blk) ∧
      (∀ h, l.find? (fun h => s.blk.effAge h = (l.map s.blk.effAge).foldl max 0) = some h →
        let b := s.blk.setBuf (vcKey t n i vc) (l.erase h)
        let b' := if l.head? = some h then (b.each (List.range 5) fun b o =>
            b.setArb (inKey t n o) ((b.arb (inKey t n o)).withdraw b.clk.mc i vc)) else b
        exec (.flitAgeDrop t n i vc) s = become s
          (((b'.drop t 0x22 none (some (pPlot h.pkt.hdr))).creditsBack t n i vc h.pkt.flits).flightEnd n h.pkt.hdr)))

/-- R34, R40, R88, R93–R98, R119, R126, R156, R186, R282, R302, R335, R356: a request that a requester offers waits for room or a
slot, is dropped under 0x21 where the router refuses it, or takes a slot and enters INJECT: the mover's and the queue engine's next
request, a repair's GET, the steal unit's read or write, a packet of a DFP, a KHDR, an admin request of the steward (a waiting quorum
DFP first) or the vault; a preempting packet of the scrubber or the debug port enters without a slot, at most 8 in flight. A debug
access to a tile that it may not reach does nothing. A request in EJECT is decided by attach logic, self-test, placement, graft and
opcode; a late reply is discarded; a reply meets its slot or is counted as late; a timer that expires answers with an error and frees
the slot after T_reply; the controls take their clamped values, and a write to the page of an invalid tile is counted in
HOST_BAD_ACCESS.
The model's choices: log 14, 54, 65, 66, 125, 142, 143, 144, 169. -/
def Obligations.RequestsAndReplies : Prop :=
  (∀ (b : Blk) (o : SlotOwner) (who : Requester) (sub vc : Nat) (r : Req),
    let t := slotTile o
    let pkt := fun i => mkPacket sub vc b.epoch r.dst t r.plot r.op i false
      (r.gen.getD (b.plot r.plot).graft.gen.toNat) r.arg r.body
    let room := b.injectFill t sub vc + (pkt 0).flits ≤ 16
    (¬room → b.sendReq o who sub vc r = (b, .noRoom)) ∧
    (room → b.freeSlot (slotKey o) who = none → b.sendReq o who sub vc r = (b, .noSlot)) ∧
    (∀ i, room → b.freeSlot (slotKey o) who = some i →
      (b.admits t who r = false → b.sendReq o who sub vc r = (b.drop t 0x21 none (some r.plot), .refused)) ∧
      (b.admits t who r = true →
        let b1 := b.count t evSlotTaken (some r.plot)
        b.sendReq o who sub vc r = ((b1.setSlot (slotKey o) i
          { state := .waiting, target := r.dst, injected := b1.clk.mc, timeout := 1024 * (b1.tile t).openCtrl.reqTimeout,
            who := who, ref := r.ref, plot := r.plot, sealHit := false, win := b1.dmaWin r.plot }).injectPacket t sub (pkt i),
          .sent)))) ∧
  (∀ (s : State) (t : Nat),
    let b := s.blk
    let x := b.tile t
    (∀ y r, Ready s (.requestInject t .mover) → (x.sheaves 0).find? issuing = some y → kOp y.cmd ≠ 0xC1 →
      b.moverReq t y = some r →
      let z := b.sendReq (.tile t) .mover snReq 0 r
      exec (.requestInject t .mover) s = become s (z.1.modSheaf t 0 y.sid fun y => y.afterSend z.2)) ∧
    (∀ y, Ready s (.requestInject t .queue) → (x.sheaves 3).find? issuing = some y →
      (kOp y.cmd = 0xC1 → y.issued = 1 → y.outst = 0) →
      let z := b.sendReq (.tile t) .queue snReq 0 (b.queueReq t y)
      exec (.requestInject t .queue) s = become s (z.1.modSheaf t 3 y.sid fun y => y.afterSend z.2)) ∧
    (∀ g gs, Ready s (.requestInject t .queue) → (x.sheaves 3).any issuing = false → x.net.getOut = g :: gs →
      let z := b.sendReq (.tile t) .queue snReq 0
        { dst := g.target, op := rqGet, arg := g.addr, gen := none, ref := g.ref, plot := g.plot,
          body := msgWord 0 g.bytes x.ms.msgId 0 0 }
      let pop := fun (b : Blk) => b.modTile t fun y => { y with net := { y.net with getOut := gs } }
      exec (.requestInject t .queue) s = become s
        (if z.2 = .sent then pop z.1
         else if z.2 = .refused then (pop z.1).serve t g.target g.ref (.error erPlot) none else z.1)) ∧
    (∀ r q, Ready s (.requestInject t .stealUnit) → x.es.borrowed.find? (fun r => (r.next x.ms.msgId).isSome) = some r →
      r.next x.ms.msgId = some q →
      let z := b.sendReq (.tile t) .stealUnit snReq 0 q
      exec (.requestInject t .stealUnit) s = become s
        (if z.2 = .sent then z.1.modBorrowed t r.sentOne
         else if z.2 = .refused then z.1.modBorrowed t { r with failed := true } else z.1)) ∧
    (∀ d ds, Ready s (.requestInject t .ingress) → x.net.dfpOut = d :: ds → d.failed = false → (d.issued = 1 → d.outst = 0) →
      d.issued < max 1 (parts128 d.data.length) →
      let z := b.sendReq (.tile t) .ingress snReq 0
        { dst := d.target, op := rqDfp, arg := d.queue, gen := none, ref := .dfp, plot := d.plot,
          body := msgWord (128 * d.issued) d.data.length d.msgId 0 0 ++ (d.data.drop (128 * d.issued)).take 128 }
      exec (.requestInject t .ingress) s = become s (if z.2 = .sent then
        z.1.modTile t fun y => { y with net := { y.net with
          dfpOut := { d with issued := d.issued + 1, outst := d.outst + 1 } :: ds } } else z.1)) ∧
    (∀ k ks, Ready s (.requestInject t .home) → x.net.khdrOut = k :: ks →
      let z := b.sendReq (.tile t) .home snReq 0
        { dst := k.target, op := rqKhdr, arg := k.tag.toNat, gen := none, ref := .khdr k.slot k.rank (k.tag.toNat / 2 ^ 16),
          plot := k.plot, body := k.body }
      exec (.requestInject t .home) s = become s (if z.2 = .sent then
        z.1.modTile t fun y => { y with net := { y.net with khdrOut := ks } } else z.1)) ∧
    (
      let admin := fun (o : SlotOwner) who op => (b.sendReq o who snAdmin 0
        { dst := t, op := op, arg := 0, gen := none, body := List.replicate 16 0#8, ref := .admin, plot := 0 }).1
      (Ready s (.requestInject t .vault) → exec (.requestInject t .vault) s = become s (admin .vault .vault 0x02)) ∧
      (Ready s (.requestInject t .steward) → takeFirst (fun (x : Bool × Nat × Bytes) => x.2.1 = t) b.quorum.net = none →
        exec (.requestInject t .steward) s = become s (admin .steward .steward 0x01)) ∧
      (∀ out p xs rest, Ready s (.requestInject t .steward) →
        takeFirst (fun (x : Bool × Nat × Bytes) => x.2.1 = t) b.quorum.net = some ((out, p, xs), rest) →
        let z := b.sendReq (if out then .steward else .tile p) .steward snAdmin 0
          { dst := if out then p else sysTile, op := if out then 0x03 else 0x04, arg := 0, gen := none,
            body := List.replicate 16 0#8 ++ xs, ref := .admin, plot := 0 }
        exec (.requestInject t .steward) s = become s
          (if z.2 = .sent then { z.1 with quorum := { z.1.quorum with net := rest } } else z.1))) ∧
    (let preempt := fun op arg data => mkPacket snAdmin 0 b.epoch t sysTile 0 op 0 false 0 arg data
      let fits := fun (p : Packet) => b.injectFill sysTile snAdmin 0 + p.flits ≤ 16
      let scrub : Blk := { b with opn := { b.opn with scrubFlight := b.opn.scrubFlight + 1 } }
      let dbg : Blk := { b with opn := { b.opn with debugFlight := b.opn.debugFlight + 1 } }
      (Ready s (.requestInject t .scrubber) →
        (b.opn.scrubFlight < 8 → fits (preempt 0xE0 0 []) →
          exec (.requestInject t .scrubber) s = become s (scrub.injectPacket sysTile snAdmin (preempt 0xE0 0 []))) ∧
        (8 ≤ b.opn.scrubFlight ∨ ¬fits (preempt 0xE0 0 []) → exec (.requestInject t .scrubber) s = become s b)) ∧
      (Ready s (.requestInject t .debug) →
        (b.debugRefused t = false → b.opn.debugFlight < 8 → fits (preempt 0xF0 0 []) →
          exec (.requestInject t .debug) s = become s (dbg.injectPacket sysTile snAdmin (preempt 0xF0 0 []))) ∧
        (b.debugRefused t = true ∨ 8 ≤ b.opn.debugFlight ∨ ¬fits (preempt 0xF0 0 []) →
          exec (.requestInject t .debug) s = become s b)) ∧
      (∀ w addr data, Ready s (.dbgAccess t w addr data) →
        let p := preempt (if w then 0xF1 else 0xF0) (addr % 2 ^ 21 + 2 ^ 21 * data.length) data
        let may := b.debugRefused t = false ∧ data.length ≤ 64 ∧ addr + data.length ≤ sramBytes ∧ b.opn.debugFlight < 8 ∧ fits p
        (may → exec (.dbgAccess t w addr data) s = become s (dbg.injectPacket sysTile snAdmin p)) ∧
        (¬may → exec (.dbgAccess t w addr data) s = become s b))) ∧
    (∀ n q rest, Ready s (.requestEject t n) →
      takeFirst (fun (x : Packet × Nat) => isRequest n x.1) (b.ejectBuf t n) = some (q, rest) →
      let b1 := b.setEject t n rest
      let plot := pPlot q.1.hdr
      let op := pOp q.1.hdr
      let g := (b1.plot plot).graft
      let c := g.gen.toNat
      let m := g.map.getD t 0#16
      (n ≠ snReq → exec (.requestEject t n) s = become s (b1.ejectedAdmin t q)) ∧
      (n = snReq → b.graftWaits t q.1 = true → exec (.requestEject t n) s = become s b) ∧
      (n = snReq → b.graftWaits t q.1 = false →
        let local_ := b1.attachTakes t op = false ∧ b1.clusterTested (clusterOf t) = false
        let old := g.holding = true ∧ flag g.old t = true ∧ pGen q.1.hdr = (c + 65535) % 65536
        (b1.attachTakes t op = true → exec (.requestEject t n) s = become s (b1.toInbox t q)) ∧
        (b1.attachTakes t op = false → b1.clusterTested (clusterOf t) = true →
          exec (.requestEject t n) s = become s (b1.errReq t q erSelfTest)) ∧
        (local_ → b1.owns plot t = false → (¬old ∨ (graftForwards op = true ∧ flag m 10 = false)) →
          exec (.requestEject t n) s = become s (b1.drop t 0x24 none (some plot))) ∧
        (local_ → b1.owns plot t = false → old → graftForwards op = true → flag m 10 = true →
          let h := regraft q.1.hdr (fld m 0 10) c
          exec (.requestEject t n) s = become s
            ((b1.count t evGraftFwd (some plot)).enterInput t snReq 4 h { q.1 with hdr := h })) ∧
        (local_ → b1.owns plot t = false → old → graftForwards op = false →
          exec (.requestEject t n) s = become s ((b1.count t evGraftRefused (some plot)).errReq t q erPlacement)) ∧
        (local_ → b1.owns plot t = true → pGen q.1.hdr ≠ c →
          exec (.requestEject t n) s = become s (b1.errReq t q erPlacement)) ∧
        (local_ → b1.owns plot t = true → pGen q.1.hdr = c →
          exec (.requestEject t n) s = become s (if opTaken op then b1.toInbox t q else b1.errReq t q erState)))) ∧
    (∀ n y rest, Ready s (.replyDeadline t n) →
      takeFirst (fun (x : Nat × Packet × Nat) => x.1 = n) x.net.replyWait = some (y, rest) →
      exec (.replyDeadline t n) s = become s
        ((b.modTile t fun y => { y with net := { y.net with replyWait := rest } }).count t evReplyLate)) ∧
    (∀ n q rest, Ready s (.replyArrival t n) →
      takeFirst (fun (x : Packet × Nat) => !isRequest n x.1) (b.ejectBuf t n) = some (q, rest) →
      let b1 := b.setEject t n rest
      let k := slotKey (replyOwner t n q.1)
      let y := b1.slot k (pSlot q.1.hdr)
      let meets := b1.clusterTested (clusterOf t) = false ∧ y.state = .waiting ∧ b1.fromTarget y (pSrc q.1.hdr) = true
      (meets → exec (.replyArrival t n) s = become s
        ((b1.setSlot k (pSlot q.1.hdr) Slot.fresh).serve t y.target y.ref
          (if y.sealHit = true ∧ pErr q.1.hdr = true then .error erSealed else answerOf q.1) (some q.1))) ∧
      (¬meets → exec (.replyArrival t n) s = become s (b1.count t evLateReply (some (pPlot q.1.hdr))))) ∧
    (∀ o i, let y := b.slot (slotKey o) i
      Ready s (.reqTimeout o i) → y.state = .waiting →
      exec (.reqTimeout o i) s = become s
        ((((b.count (slotTile o) evReqTimeout (some y.plot)).raiseP 0x07 y.plot (some (slotTile o)) i y.target).setSlot
          (slotKey o) i (if tReply ≤ y.timeout then Slot.fresh else { y with state := .quarantine })).serve
            (slotTile o) y.target y.ref (.error erTimeout) none)) ∧
    (∀ o i, Ready s (.slotQuarantineEnd o i) → (b.slot (slotKey o) i).state = .quarantine →
      exec (.slotQuarantineEnd o i) s = become s (b.setSlot (slotKey o) i Slot.fresh)) ∧
    (∀ v, Ready s (.openCtrlWrite t v) →
      (b.member.hasTile t = true →
        exec (.openCtrlWrite t v) s = become s (b.modTile t fun y => { y with openCtrl :=
          { grantN := min 32 (max 4 (fld v 0 6)), hintEn := flag v 6, reqTimeout := max 1 (fld v 8 7) } })) ∧
      (b.member.hasTile t = false → exec (.openCtrlWrite t v) s = become s (b.countSys evBadAccess))) ∧
    (∀ v, Ready s (.engCtrlWrite t v) →
      (b.member.hasTile t = true →
        exec (.engCtrlWrite t v) s = become s (b.modTile t fun y => { y with engCtrl :=
          { stealEn := flag v 0, ringLen := min 8 (fld v 1 4), margin := fld v 8 12, capMover := min 24 (max 8 (fld v 20 5)),
            capQueue := min 24 (max 8 (fld v 25 5)), stealRing := BitVec.ofNat 80 (fld v 32 80) } })) ∧
      (b.member.hasTile t = false → exec (.engCtrlWrite t v) s = become s (b.countSys evBadAccess))))

/-- R130, R156–R158, R166, R168–R171, R282: the oldest message packet of a tile lands: one at OFFSET 0 reserves its entry at its
queue's tail, with an assembly where it has more than 128 bytes, and a later one goes to its assembly, the last one completing the
entry; a remote read is answered with its bytes, read through ECC; a remote write stores them and is acknowledged; a combining packet
adds its elements and signals where its count is reached. An access that is out of form is answered with STATE, one that meets a
sealed range does nothing.
The model's choices: log 58, 59, 60, 169. -/
def Obligations.RemoteAccesses : Prop :=
  ∀ (s : State) (t : Nat) (q : Packet × Nat) (b : Blk),
    let h := q.1.hdr
    let body := q.1.body
    let n := mBytes body
    let a := pArg h
    (Ready s (.msgPacketLand t) → s.blk.takeInbox t (fun op => op = rqHandler || op = rqQueue) = some (q, b) →
      (mOffset body = 0 → exec (.msgPacketLand t) s = become s (b.landFirst t q)) ∧
      (∀ (hd : Option Handler) i p b', mOffset body = 0 →
        ((pOp h = rqHandler ∧ hd = some ((b.tile t).handlerOf (mTarget body)) ∧
            ((b.tile t).handlerOf (mTarget body)).valid = true ∧ i = ((b.tile t).handlerOf (mTarget body)).queue) ∨
          (pOp h ≠ rqHandler ∧ hd = none ∧ i = mTarget body % 16)) →
        let r := (b.tile t).queue i
        r.bound = true → r.combine = false → n ≤ 64 * (r.size - 1) → b.fbFirst t i = false →
        b.reserve t i (1 + ceilDiv n 64) hd
          (fun seq => msgHeader seq false (if pOp h = rqHandler then mTarget body else 0) (pSrc h) (mId body) n a (pGen h) (pOp h)
            (pPlot h)) (n ≤ 128) = some (p, b') →
        (b.tile t).sealedHit (r.addr p) (64 * (1 + ceilDiv n 64)) = false →
        let ack := fun (b : Blk) =>
          let b := b.writeSram t (r.addr p + 64) ((body.drop 16).take (msgData n 0))
          b.answerReq t q (fld (b.header t r p) 0 16) []
        let asm : Assembly := { src := pSrc h, msgId := mId body, queue := i, ptr := p, cells := 1 + ceilDiv n 64,
                                left := n - msgData n 0, last := b.clk.mc }
        (n ≤ 128 → exec (.msgPacketLand t) s = become s (ack b')) ∧
        (∀ k, 128 < n → (b.tile t).freeAsm = some k → exec (.msgPacketLand t) s = become s
          (ack (b'.modTile t fun x => { x with ms := { x.ms with asms := x.ms.asms.put k asm } })))) ∧
      (∀ k y, let r := (b.tile t).queue y.queue
        let m := msgData n (mOffset body)
        let at_ := r.addr y.ptr + 64 + mOffset body
        mOffset body ≠ 0 →
        (b.tile t).ms.asms.find? (fun z => z.2.src = pSrc h && z.2.msgId = mId body) = some (k, y) →
        (b.tile t).sealedHit at_ m = false →
        let b' := b.writeSram t at_ ((body.drop 16).take m)
        let ack := fun (b : Blk) => b.answerReq t q (fld (b.header t r y.ptr) 0 16) []
        (m < y.left → exec (.msgPacketLand t) s = become s (ack (b'.modTile t fun z =>
          { z with ms := { z.ms with asms := z.ms.asms.put k { y with left := y.left - m, last := b'.clk.mc } } }))) ∧
        (y.left ≤ m → exec (.msgPacketLand t) s = become s
          (ack ((b'.modTile t fun z => { z with ms := { z.ms with asms := z.ms.asms.del k } }).modQueue t y.queue fun r =>
            { r with open_ := r.open_.map fun e => if e.ptr = y.ptr then { e with complete := true } else e }))))) ∧
    (Ready s (.remoteGet t) → s.blk.takeInbox t (· = rqGet) = some (q, b) →
      (remoteOk a n = false → exec (.remoteGet t) s = become s (b.errReq t q erState)) ∧
      (remoteOk a n = true → (b.tile t).sealedHit a n = true → exec (.remoteGet t) s = become s (b.errSealed t q)) ∧
      (∀ b', remoteOk a n = true → (b.tile t).sealedHit a n = false → Reads b t a n b' →
        exec (.remoteGet t) s = become s (b'.answerReq t q (n - 1) (b.readSram t a n)))) ∧
    (Ready s (.remotePut t) → s.blk.takeInbox t (· = rqPut) = some (q, b) →
      (remoteOk a n = false → exec (.remotePut t) s = become s (b.errReq t q erState)) ∧
      (remoteOk a n = true → (b.tile t).sealedHit a n = true → exec (.remotePut t) s = become s (b.errSealed t q)) ∧
      (remoteOk a n = true → (b.tile t).sealedHit a n = false →
        exec (.remotePut t) s = become s ((b.writeSram t a ((body.drop 16).take n)).answerReq t q 0 []))) ∧
    (∀ i r, i = mTarget body % 16 → r = (b.tile t).queue i →
      let fmt := mFmt body
      let m := n / (fmtBits fmt / 8)
      let vs := decodeRun fmt m (body.drop 16)
      Ready s (.combinePacket t) → s.blk.takeInbox t (· = rqCombine) = some (q, b) →
      (¬(r.bound = true ∧ r.combine = true ∧ r.takes fmt = true) →
        exec (.combinePacket t) s = become s (b.errReq t q erState)) ∧
      (r.bound = true → r.combine = true → r.takes fmt = true →
        (r.size < a + m →
          exec (.combinePacket t) s = become s ((b.count t evCombineRange (some (pPlot h))).errReq t q erState)) ∧
        (a + m ≤ r.size → (b.tile t).sealedHit (r.base * 64 + a * fraBytes r.wide) (m * fraBytes r.wide) = false →
          let form := if r.wide then formWide else if fmtGrid fmt = .int then formInt else formFloat
          let d := (r.expect + 2 ^ 32 - r.contrib) % 2 ^ 32
          let b' := ((b.combineInto t r fmt a vs).countAdds t (pPlot h) form vs 0).modQueue t i fun y =>
            { y with contrib := (r.contrib + m) % 2 ^ 32, grid := if y.wide then y.grid else fmtGrid fmt }
          exec (.combinePacket t) s = become s
            ((if r.semEn = true ∧ r.expect ≠ 0 ∧ 1 ≤ d ∧ d ≤ m then b'.signal t (pPlot h) r.sem 1 else b').answerReq t q 0 []))))

/-- R42: on a DX-1024 a tick marker in time counts toward the lock of a die that has lost it, and a late one starts that count again
and costs a locked die its lock: event, fences on its crossings, a swap armed cancelled, a fault; the alternate whose swap is cancelled
is reported as failed. A marker in time leaves a locked die as it is, and die 0 and the smaller members take none. A die that has been in
time for 16 frames is back in lock, its fences marked to clear at the next tick.
The model's choices: log 28. -/
def Obligations.FrameLock : Prop :=
  ∀ (s : State) (d : Nat),
    (∀ diff, Ready s (.tickMarkerReceive d diff) →
      (s.blk.member ≠ .dx1024 ∨ d = 0 → exec (.tickMarkerReceive d diff) s = become s s.blk) ∧
      (s.blk.member = .dx1024 → d ≠ 0 →
        (diff = 0 → (s.blk.die d).locked = true → exec (.tickMarkerReceive d diff) s = become s s.blk) ∧
        (diff = 0 → (s.blk.die d).locked = false →
          exec (.tickMarkerReceive d diff) s = become s (s.blk.modDie d fun x => { x with zeros := x.zeros + 1 })) ∧
        (0 < diff → (s.blk.die d).locked = false →
          exec (.tickMarkerReceive d diff) s = become s (s.blk.modDie d fun x => { x with zeros := 0 })) ∧
        (0 < diff → (s.blk.die d).locked = true →
          let b := ((s.blk.modDie d fun _ => { locked := false, zeros := 0, clearFence := false }).raiseS 0x24 0 none
            s.blk.sown.active.gen.toNat d).each (crossingsOf s.blk.member d) fun b x => b.fence x.1 (2 ^ x.2)
          let c := b.swapCancel rsLock .ready
          (b.sown.state ≠ .armed → exec (.tickMarkerReceive d diff) s = become s (b.declare fcDie d)) ∧
          (b.sown.state = .armed → c.fault.current = none →
            exec (.tickMarkerReceive d diff) s = become s (c.declare fcDie d)) ∧
          (∀ f, b.sown.state = .armed → c.fault.current = some f →
            let e := c.tellFault f foLoadFail
            exec (.tickMarkerReceive d diff) s = become s
              (Blk.declare { e with fault := { e.fault with current := none } } fcDie d))))) ∧
    (Ready s (.frameLockRegained d) →
      ((s.blk.die d).locked = true ∨ (s.blk.die d).zeros < 16 → exec (.frameLockRegained d) s = become s s.blk) ∧
      ((s.blk.die d).locked = false → 16 ≤ (s.blk.die d).zeros →
        exec (.frameLockRegained d) s = become s
          (((s.blk.modDie d fun _ => { locked := true, zeros := 0, clearFence := true }).raiseS 0x25 0 none
            s.blk.sown.active.gen.toNat d).undeclare fcDie d)))

/-- R45, R50, R54, R56, R288, R292, R395: the window of an entry opens at its offset, once, beside the windows still open: that of a good
entry that takes INJECT sends its furrow's cells, that of a bad one is counted and after two frames in a row declares its tile failed; an
arriving cell goes to every open window that takes it, or is unclaimed; the fourth uncorrectable error of a link in a frame and a PHY that
is down declare the link failed, the PHY's reverse link fenced; an engine without progress declares its tile failed.
The model's choices: log 29, 30, 53, 135, 145, 147. -/
def Obligations.SownPlaneCommands : Prop :=
  ∀ (s : State) (t o : Nat),
    (∀ k, Ready s (.sownWindowOpen t o k) →
      let e := s.blk.sown.active.entry t o k
      let ws := s.blk.openWins t o
      let b0 := s.blk.routerMemory t
      let w : Window := { entry := e, gen := b0.sown.active.gen, bad := !eChkOk e, opened := b0.clk.mc, carried := 0 }
      let b : Blk := { b0 with sown := { b0.sown with windows := b0.sown.windows.put (t * 5 + o) (ws ++ [w]) } }
      let b' := if o < 4 ∧ eIn e ≠ inIdle then b.count t (evWindowN + o) (some (ePlot e)) else b
      ((s.blk.slots ≤ k ∨ s.blk.clk.offset ≠ windowOffset e k ∨ (∃ x ∈ ws, x.opened = s.blk.clk.mc)) →
        exec (.sownWindowOpen t o k) s = become s s.blk) ∧
      (k < s.blk.slots → s.blk.clk.offset = windowOffset e k → (∀ x ∈ ws, x.opened ≠ s.blk.clk.mc) →
        (eChkOk e = true →
          exec (.sownWindowOpen t o k) s = become s (if eIn e = inInject ∧ o ≠ 4 then b'.inject t o e else b')) ∧
        (eChkOk e = false →
          exec (.sownWindowOpen t o k) s = become s ((b'.count t evTblErr (some (ePlot e))).echkFail t)))) ∧
    (∀ i damage, Ready s (.sownCellArrival t i damage) →
      (s.blk.linkCells (t * 4 + i) = [] → exec (.sownCellArrival t i damage) s = become s s.blk) ∧
      (∀ c cs, s.blk.linkCells (t * 4 + i) = c :: cs →
        let b : Blk := { s.blk with sown := { s.blk.sown with links := s.blk.sown.links.put (t * 4 + i) cs } }
        let c' : Cell := { c with hdr := c.hdr ^^^ damage }
        (b.takers t i = [] → exec (.sownCellArrival t i damage) s = become s (b.count t evUnclaimed)) ∧
        (b.takers t i ≠ [] →
          exec (.sownCellArrival t i damage) s = become s (b.each (b.takers t i) fun b x => b.windowCell t x.1 x.2 c')))) ∧
    (Ready s (.xsUncorr t o) →
      let n := s.blk.fault.linkErr.getD (t * 4 + o) 0 + 1
      let b : Blk := { s.blk with fault := { s.blk.fault with linkErr := s.blk.fault.linkErr.put (t * 4 + o) n } }
      exec (.xsUncorr t o) s = become s (if 4 ≤ n then b.declare fcLink (t * 4 + o) else b)) ∧
    (Ready s (.xsPhyDown t o) →
      (s.blk.member.crossing t o = false → exec (.xsPhyDown t o) s = become s s.blk) ∧
      (s.blk.member.crossing t o = true →
        exec (.xsPhyDown t o) s = become s
          ((s.blk.fence (s.blk.member.neighbour t o) (bothPlanes (opposite o))).declare fcLink (t * 4 + o)))) ∧
    (∀ e, Ready s (.engineNoProgress t e) → exec (.engineNoProgress t e) s = become s (s.blk.declare fcTile t))

/-- R52, R61, R62, R64–R68, R71, R291, R292, R331, R410: the load of a shadow starts, unless one runs or a swap holds the shadow, and ends
READY or INVALID, an alternate's with its arming or its report; the swap frame is set; the shadow is armed when no condition of R66 refuses
it, and is disarmed 256 mc before, a refusal raising its event and code; the retired shadow becomes FREE and a fault that waited is met; a
quota is set, its excess reported, and an armed shadow that breaks it cancelled.
The model's choices: log 13, 21, 22, 23, 24, 25, 27, 148, 149. -/
def Obligations.SownLoadAndSwap : Prop :=
  ∀ (s : State) (ch : Channel),
    (Asked s (.sownLoadStart ch) ch false →
      (s.blk.transferOn 0x2200 0x09 = true ∨ s.blk.transferOn 0x2202 0x01 = true ∨
          s.blk.sown.state = .loading ∨ s.blk.sown.state = .armed ∨ s.blk.sown.state = .retired →
        exec (.sownLoadStart ch) s = become s (s.blk.answer abState)) ∧
      (s.blk.transferOn 0x2200 0x09 = false → s.blk.transferOn 0x2202 0x01 = false →
        (s.blk.sown.state = .free ∨ s.blk.sown.state = .ready ∨ s.blk.sown.state = .invalid) →
        exec (.sownLoadStart ch) s = become s (Blk.answer { s.blk with
          sown := { s.blk.sown with state := .loading, expert := false, busy := true } } abNone))) ∧
    (Ready s .sownLoadDone → s.blk.sown.state = .loading → s.blk.sown.expert = false → s.blk.sown.busy = true →
      let off (f : Option Failover) := match f with
        | some f => lImage (s.blk.fault.library.getD f.entry 0#64)
        | none => 0
      let r (f : Option Failover) := match f with
        | some _ => loadImage s.blk true (off f) (altRouteOff s.blk (off f))
        | none => loadImage s.blk false 0 (2 ^ 26)
      let b (f : Option Failover) : Blk := match (r f).2 with
        | none => { s.blk with sown := { s.blk.sown with shadow := (r f).1, state := .ready, expert := false, busy := false } }
        | some x => Blk.raiseS { s.blk with
            sown := { s.blk.sown with shadow := (r f).1, state := .invalid, expert := false, busy := false } }
            0x23 0 none (r f).1.gen.toNat x.kind x.tile x.out
      (s.blk.fault.current = none → exec .sownLoadDone s = become s (b none)) ∧
      (∀ f, s.blk.fault.current = some f →
        ((r (some f)).2 = none → exec .sownLoadDone s = become s ((b (some f)).armAlternate f)) ∧
        ((r (some f)).2 ≠ none →
          let e := (b (some f)).tellFault f foLoadFail
          exec .sownLoadDone s = become s { e with fault := { e.fault with current := none } }))) ∧
    (∀ f, Asked s (.swapFrameWrite ch f) ch false →
      (s.blk.sown.state = .armed → exec (.swapFrameWrite ch f) s = become s (s.blk.answer abState)) ∧
      (s.blk.sown.state ≠ .armed → 2 ^ 48 ≤ f.toNat →
        exec (.swapFrameWrite ch f) s = become s (s.blk.answer abRange)) ∧
      (s.blk.sown.state ≠ .armed → f.toNat < 2 ^ 48 →
        exec (.swapFrameWrite ch f) s = become s (Blk.answer { s.blk with
          sown := { s.blk.sown with swapFrame := BitVec.ofNat 48 f.toNat } } abNone))) ∧
    (Asked s (.swapArm ch) ch false →
      (s.blk.armRefusal s.blk.sown.swapFrame = none →
        exec (.swapArm ch) s = become s (Blk.answer { s.blk with sown := { s.blk.sown with state := .armed } } abNone)) ∧
      (∀ r, s.blk.armRefusal s.blk.sown.swapFrame = some r →
        exec (.swapArm ch) s = become s ((s.blk.swapRefused r).answer
          (if r = rsSpacing ∨ r = rsTooLate ∨ r = rsTooFar then abRange else abState)))) ∧
    (Asked s (.swapDisarm ch) ch false →
      (s.blk.sown.state ≠ .armed → exec (.swapDisarm ch) s = become s (s.blk.answer abNone)) ∧
      (s.blk.sown.state = .armed → s.blk.mcUntil s.blk.sown.swapFrame < 256 →
        exec (.swapDisarm ch) s = become s ((s.blk.swapRefused rsTooLate).answer abState)) ∧
      (s.blk.sown.state = .armed → 256 ≤ s.blk.mcUntil s.blk.sown.swapFrame →
        exec (.swapDisarm ch) s = become s (Blk.answer { s.blk with sown := { s.blk.sown with state := .ready } } abNone))) ∧
    (Ready s .shadowRetireEnd → s.blk.sown.state = .retired →
      let b : Blk := { s.blk with sown := { s.blk.sown with state := .free } }
      (s.blk.fault.waiting = [] → exec .shadowRetireEnd s = become s b) ∧
      (∀ f fs, s.blk.fault.waiting = f :: fs →
        exec .shadowRetireEnd s = become s (Blk.startFailover { b with fault := { b.fault with waiting := fs } } f))) ∧
    (∀ q, Asked s (.sownQuotaWrite ch q) ch false →
      (256 < q.toNat → exec (.sownQuotaWrite ch q) s = become s (s.blk.answer abRange)) ∧
      (q.toNat ≤ 256 →
        let p := (s.blk.sels ch).plot
        let b := s.blk.modPlot p fun x => { x with cfg := { x.cfg with sownQuota := q.toNat } }
        let b' := match b.firstExcess p with
          | some o => b.raiseS 0x12 p none 0 o
          | none => b
        (b'.sown.state ≠ .armed ∨ b'.quotaOk b'.sown.shadow = true →
          exec (.sownQuotaWrite ch q) s = become s (b'.answer abNone)) ∧
        (b'.sown.state = .armed → b'.quotaOk b'.sown.shadow = false →
          exec (.sownQuotaWrite ch q) s = become s ((b'.swapCancel rsQuota .ready).answer abNone))))

/-- R64, R411: an expert amends the shadow entry by entry under the channel's selectors, from a copy of the active version with the next
generation, from the READY shadow, or from the amended shadow; a write is refused while an image load runs and while a swap holds the
shadow; a selector past its range leaves the selector as it was; the check of the whole shadow, refused in the same states, ends READY
or INVALID.
The model's choices: log 33, 150. -/
def Obligations.ExpertCommands : Prop :=
  ∀ (s : State) (ch : Channel),
    ((s.blk.sown.state = .free ∨ s.blk.sown.state = .invalid) → s.blk.expertBegin = some { s.blk with sown := { s.blk.sown with
      shadow := { s.blk.sown.active with gen := s.blk.sown.active.gen + 1, altOf := 0xFFFF#16 },
      state := .loading, expert := true, busy := false } }) ∧
    (s.blk.sown.state = .ready → s.blk.expertBegin = some { s.blk with
      sown := { s.blk.sown with state := .loading, expert := true, busy := false } }) ∧
    (s.blk.sown.state = .loading → s.blk.sown.expert = true → s.blk.expertBegin = some s.blk) ∧
    ((s.blk.sown.state = .armed ∨ s.blk.sown.state = .retired ∨ (s.blk.sown.state = .loading ∧ s.blk.sown.expert = false)) →
      (∀ e, Asked s (.expertEntryWrite ch e) ch true → exec (.expertEntryWrite ch e) s = become s (s.blk.answer abState)) ∧
      (∀ d, Asked s (.expertDescriptorWrite ch d) ch true →
        exec (.expertDescriptorWrite ch d) s = become s (s.blk.answer abState)) ∧
      (∀ r, Asked s (.expertRouteWrite ch r) ch true → exec (.expertRouteWrite ch r) s = become s (s.blk.answer abState)) ∧
      (Asked s (.expertCheck ch) ch true → exec (.expertCheck ch) s = become s (s.blk.answer abState))) ∧
    (∀ b, s.blk.expertBegin = some b →
      (∀ e, Asked s (.expertEntryWrite ch e) ch true →
        exec (.expertEntryWrite ch e) s = become s (Blk.answer { b with sown := { b.sown with
          shadow := { b.sown.shadow with
            entries := b.sown.shadow.entries.put (entryKey (s.blk.sels ch).entry) (e &&& entryMask) } } } abNone)) ∧
      (∀ d, Asked s (.expertDescriptorWrite ch d) ch true →
        exec (.expertDescriptorWrite ch d) s = become s (Blk.answer { b with sown := { b.sown with
          shadow := { b.sown.shadow with
            descs := b.sown.shadow.descs.put (descKey (s.blk.sels ch).desc) (d &&& descMask) } } } abNone)) ∧
      (∀ r, Asked s (.expertRouteWrite ch r) ch true →
        exec (.expertRouteWrite ch r) s = become s (Blk.answer { b with sown := { b.sown with
          shadow := { b.sown.shadow with
            routes := b.sown.shadow.routes.put (routeKey (s.blk.sels ch).route) (r &&& routeMask) } } } abNone))) ∧
    (∀ v : BitVec 32,
      (∀ sel, Asked s (.expertSelectorWrite ch sel v) ch true →
        (s.blk.member.hasTile (fld v 0 10) = false ∨ (sel = .entry ∧ (4 < fld v 10 3 ∨ s.blk.sown.shadow.slots ≤ fld v 16 11)) →
          exec (.expertSelectorWrite ch sel v) s = become s (s.blk.answer abRange))) ∧
      (s.blk.member.hasTile (fld v 0 10) = true →
        (Asked s (.expertSelectorWrite ch .entry v) ch true → fld v 10 3 ≤ 4 → fld v 16 11 < s.blk.sown.shadow.slots →
          exec (.expertSelectorWrite ch .entry v) s = become s
            ((s.blk.modSels ch fun x => { x with entry := v &&& 0x07FF1FFF#32 }).answer abNone)) ∧
        (Asked s (.expertSelectorWrite ch .descriptor v) ch true →
          exec (.expertSelectorWrite ch .descriptor v) s = become s
            ((s.blk.modSels ch fun x => { x with desc := v &&& 0x003F03FF#32 }).answer abNone)) ∧
        (Asked s (.expertSelectorWrite ch .route v) ch true →
          exec (.expertSelectorWrite ch .route v) s = become s
            ((s.blk.modSels ch fun x => { x with route := v &&& 0x03FF03FF#32 }).answer abNone)))) ∧
    (Asked s (.expertCheck ch) ch true →
      (s.blk.sown.state = .free ∨ s.blk.sown.state = .ready ∨ s.blk.sown.state = .invalid →
        exec (.expertCheck ch) s = become s (Blk.answer { s.blk with
          sown := { s.blk.sown with state := .loading, expert := true, busy := true } } abNone)) ∧
      (s.blk.sown.state = .loading → s.blk.sown.expert = true →
        exec (.expertCheck ch) s = become s (Blk.answer { s.blk with sown := { s.blk.sown with busy := true } } abNone))) ∧
    (Ready s .expertCheckDone → s.blk.sown.state = .loading → s.blk.sown.expert = true → s.blk.sown.busy = true →
      exec .expertCheckDone s = become s (match versionFail s.blk.member s.blk.sown.shadow with
        | none => { s.blk with sown := { s.blk.sown with state := .ready, expert := false, busy := false } }
        | some f => Blk.raiseS { s.blk with sown := { s.blk.sown with state := .invalid, expert := false, busy := false } }
            0x23 0 none s.blk.sown.shadow.gen.toNat f.kind f.tile f.out))

/-- R263, R270, R272, R288, R396, R397, R399: a transfer at an attach tile goes to the controller under a free tag, a write with its bytes;
a place outside the plot's ranges or the tile's quarter and a failed quarter are answered STATE, and a transfer waits for a tag and for
a write stream still to pass its cells; the controller's response answers it; a request unanswered for 65,536 mc fails the quarter; a
host transfer goes out under a DMA tag in the window it was issued under, a write with its bytes; its completion answers it.
The model's choices: log 40, 55, 69, 93, 155. -/
def Obligations.AttachTransfers : Prop :=
  ∀ (s : State) (t : Nat) (q : Packet × Nat) (b' : Blk),
    (∀ write : Bool, let c : Instr := if write then .hbmWrite t else .hbmRead t
      Ready s c → s.blk.member.isHbmTile t = true →
      s.blk.takeInbox t (· = if write then rqHbmWrite else rqHbmRead) = some (q, b') →
      (s.blk.hbmAddr t q.1 = none → exec c s = become s (b'.errReq t q erState)) ∧
      (∀ a, s.blk.hbmAddr t q.1 = some a →
        ((s.blk.hbmAt t).freeTag = none → exec c s = become s s.blk) ∧
        (∀ tag, (s.blk.hbmAt t).freeTag = some tag →
          (s.blk.fault.failed.contains (fcHbm, s.blk.hbmRes t) = true → exec c s = become s (b'.errReq t q erState)) ∧
          (s.blk.fault.failed.contains (fcHbm, s.blk.hbmRes t) = false →
            (write = false → (s.blk.hbmAt t).pending (pPlot q.1.hdr) a (unitsOf q.1) = true → exec c s = become s s.blk) ∧
            (write = false → (s.blk.hbmAt t).pending (pPlot q.1.hdr) a (unitsOf q.1) = false →
              exec c s = become s (b'.modHbm t fun h =>
                { h with reqs := h.reqs.put tag { pkt := q.1, plot := pPlot q.1.hdr, addr := a, write := false } })) ∧
            (write = true → exec c s = become s
              ((b'.writeHbm (b'.member.dieOf t) a ((q.1.body.drop 16).take (unitsOf q.1 * 64))).modHbm t fun h =>
                { h with reqs := h.reqs.put tag { pkt := q.1, plot := pPlot q.1.hdr, addr := a, write := true } })))))) ∧
    (∀ tag r, (s.blk.hbmAt t).reqs.get? tag = some r →
      let b := s.blk.modHbm t fun h => { h with reqs := h.reqs.del tag }
      (Ready s (.hbmResponse t tag false) → r.write = true →
        exec (.hbmResponse t tag false) s = become s (b.answerReq t (r.pkt, s.blk.clk.mc) 0 [])) ∧
      (Ready s (.hbmResponse t tag false) → r.write = false →
        exec (.hbmResponse t tag false) s = become s (b.answerReq t (r.pkt, s.blk.clk.mc) (unitsOf r.pkt * 64 - 1)
          (s.blk.readHbm (s.blk.member.dieOf t) r.addr (unitsOf r.pkt * 64)))) ∧
      (Ready s (.hbmResponse t tag true) →
        exec (.hbmResponse t tag true) s = become s ((b.hbmError t r.addr).errReq t (r.pkt, s.blk.clk.mc) erState)) ∧
      (Ready s (.hbmRequestUnanswered t tag) →
        exec (.hbmRequestUnanswered t tag) s = become s
          (((s.blk.modHbm t fun h => { h with reqs := [] }).declare fcHbm (s.blk.hbmRes t)).each (s.blk.hbmAt t).reqs fun b x =>
            b.errReq t (x.2.pkt, b.clk.mc) erState))) ∧
    (∀ write : Bool, let c : Instr := if write then .hostWrite else .hostRead
      let n := unitsOf q.1 * 64
      Ready s c → s.blk.takeInbox sysTile (· = if write then rqHostWrite else rqHostRead) = some (q, b') →
      (winPlace (s.blk.issuedWin q.1) (pArg q.1.hdr) n = none → exec c s = become s (b'.errReq sysTile q erState)) ∧
      (∀ a, winPlace (s.blk.issuedWin q.1) (pArg q.1.hdr) n = some a →
        (s.blk.host.freeTag = none → exec c s = become s s.blk) ∧
        (∀ tag, s.blk.host.freeTag = some tag →
          (write = false → exec c s = become s { b' with host := { b'.host with dma := b'.host.dma.put tag (.read q.1) } }) ∧
          (write = true → let b := b'.writeHost a ((q.1.body.drop 16).take n)
            exec c s = become s { b with host := { b.host with dma := b.host.dma.put tag (.write q.1) } })))) ∧
    (∀ tag data err, Ready s (.dmaCompletion tag data err) →
      let b : Blk := { s.blk with host := { s.blk.host with dma := s.blk.host.dma.del tag } }
      (∀ p, s.blk.host.dma.get? tag = some (.write p) →
        exec (.dmaCompletion tag data err) s = become s
          (if err then b.errReq sysTile (p, s.blk.clk.mc) erState else b.answerReq sysTile (p, s.blk.clk.mc) 0 [])) ∧
      (∀ p, s.blk.host.dma.get? tag = some (.read p) →
        exec (.dmaCompletion tag data err) s = become s
          (if err then b.errReq sysTile (p, s.blk.clk.mc) erState
           else b.answerReq sysTile (p, s.blk.clk.mc) (unitsOf p * 64 - 1) (padTo (unitsOf p * 64) data))))

/-- R397, R398: a STREAM that fits a descriptor of MODE HBM opens in the lowest free entry and is acknowledged; it is answered BUSY with 64
streams open and STATE where it does not fit, as is every reserved transfer and a STREAM at another tile; a stream ends with its length,
or early on a read error, and goes on else.
The model's choices: log 37, 70. -/
def Obligations.HbmStreams : Prop :=
  ∀ (s : State) (t : Nat),
    (∀ q b, Ready s (.stream t) → s.blk.takeInbox t (fun op => 0x24 ≤ op && op ≤ 0x27) = some (q, b) →
      (pOp q.1.hdr ≠ rqStream ∨ b.member.isHbmTile t = false → exec (.stream t) s = become s (b.errReq t q erState)) ∧
      (pOp q.1.hdr = rqStream → b.member.isHbmTile t = true →
        ((b.hbmAt t).freeStream = none → exec (.stream t) s = become s (b.errReq t q erBusy)) ∧
        (∀ i, (b.hbmAt t).freeStream = some i →
          (b.streamFits t (pPlot q.1.hdr) (sOffset q.1) (sCells q.1) = none ∨ b.streamAsked t q.1 = false →
            exec (.stream t) s = become s (b.errReq t q erState)) ∧
          (∀ a, b.streamFits t (pPlot q.1.hdr) (sOffset q.1) (sCells q.1) = some a → b.streamAsked t q.1 = true →
            exec (.stream t) s = become s
              ((b.modHbm t fun h => { h with streams := h.streams.put i (b.streamNew q.1 a) }).answerReq t q 0 []))))) ∧
    (∀ i x, (s.blk.hbmAt t).streams.get? i = some x →
      (Ready s (.streamEnd t i false) →
        (x.left = 0 →
          exec (.streamEnd t i false) s = become s (s.blk.modHbm t fun h => { h with streams := h.streams.del i })) ∧
        (x.left ≠ 0 → exec (.streamEnd t i false) s = become s s.blk)) ∧
      (Ready s (.streamEnd t i true) →
        (x.write = false → exec (.streamEnd t i true) s = become s ((s.blk.hbmError t x.next).streamStop t i)) ∧
        (x.write = true → exec (.streamEnd t i true) s = become s s.blk)))

/-- R119, R122–R125, R141: an idle engine of a plot that steals asks the next tile of its ring that is another tile of the plot, skips
counted; the victim lends what the thief's prediction admits; the thief takes the commands, or counts an empty reply; an engine with
nothing of its own to start runs a borrowed sheaf whose operand has come; a stolen result goes to the victim, or comes too late.
The model's choices: log 7, 67, 68, 156. -/
def Obligations.Stealing : Prop :=
  ∀ (s : State) (t e : Nat),
    (∀ plot i v skips, Ready s (.stealRequestSend t e) → s.blk.ownerOf t = some plot → e < 2 → s.blk.stealOn t plot = true →
      (s.blk.tile t).sheaves e = [] → ((s.blk.tile t).stealUnit e).inFlight = false →
      (s.blk.tile t).engCtrl.ringLen ≠ 0 →
      4 ≤ ((List.range 32).filter fun i => (s.blk.slot t i).state = .free).length →
      let b := s.blk.countN t evStealSkip skips (some plot)
      (s.blk.nextVictim t plot (s.blk.tile t).engCtrl.ringLen ((s.blk.tile t).stealUnit e).tried 0 = (none, skips) →
        exec (.stealRequestSend t e) s = become s b) ∧
      (s.blk.nextVictim t plot (s.blk.tile t).engCtrl.ringLen ((s.blk.tile t).stealUnit e).tried 0 = (some (i, v), skips) →
        let r := b.sendReq (.tile t) .stealUnit snReq 0
          { dst := v, op := rqSteal, arg := 0, gen := none, ref := .steal e, plot := plot,
            body := stealBody e (hopsFrom b.member v 64 t) (s.blk.tile t).freeRoom (s.blk.tile t).engCtrl.margin }
        (r.2 = .sent → exec (.stealRequestSend t e) s = become s
          (r.1.modTile t fun x => x.modSteal e fun u => { u with tried := i, inFlight := true })) ∧
        (r.2 ≠ .sent → exec (.stealRequestSend t e) s = become s r.1))) ∧
    (∀ q b, Ready s (.stealRequestReceive t) → s.blk.takeInbox t (· = rqSteal) = some (q, b) →
      let v := ofBytes (q.1.body.take 16)
      let cs := if b.stealOn t (pPlot q.1.hdr) && v % 256 < 2 then (b.tile t).candidates (v % 256) (pPlot q.1.hdr) else []
      let l := b.lendList (v % 256) (v / 2 ^ 24 % 2 ^ 32) (v / 2 ^ 56 % 2 ^ 16) (min 4 (cs.length / 2))
        (2 * (3 * (v / 256 % 65536) + 16)) (b.tile t) cs
      let ids := (List.range l.2.length).map fun i => (l.1.es.nextLend + i) % 65536
      exec (.stealRequestReceive t) s = become s ((b.setTile t { l.1 with es := { l.1.es with
        nextLend := (l.1.es.nextLend + l.2.length) % 65536,
        lent := l.1.es.lent ++ (l.2.zip ids).map fun y =>
          { lendId := y.2, engine := v % 256, sid := y.1.sid, thief := pSrc q.1.hdr } } }).answerReq t q 0
            (lendBody ids (l.2.map lentCmd)))) ∧
    (∀ p, let n := ofBytes ((p.body.drop 8).take 8)
      let b := s.blk.modTile t fun x => x.modSteal e fun u => { u with lend := none, inFlight := false }
      Ready s (.lendReceive t e) → ((s.blk.tile t).stealUnit e).lend = some p →
      (n = 0 → exec (.lendReceive t e) s = become s (b.count t evStealEmpty (some (pPlot p.hdr)))) ∧
      (0 < n → exec (.lendReceive t e) s = become s (b.modTile t fun x => { x with es := { x.es with
        borrowed := x.es.borrowed ++ (List.range (min 4 n)).map fun i =>
          { victim := pSrc p.hdr, lendId := ofBytes ((p.body.drop (2 * i)).take 2), engine := e,
            cmd := BitVec.ofNat 256 (ofBytes ((p.body.drop (16 + 32 * i)).take 32)), plot := pPlot p.hdr, asked := 0, outst := 0,
            got := [], ran := false, result := [], put := 0, failed := false } } }))) ∧
    (∀ k r c, (k, c) ∈ [(0, Instr.moveCopy t), (0, .moveFill t), (1, .reduceAdd t), (1, .reduceScaleAdd t), (1, .reduceMap t),
        (1, .reduceCrc t)] → Ready s c →
      s.blk.nextStart t k = none → s.blk.engineOn t = true → engineBusy k ((s.blk.tile t).sheaves k) = false →
      (s.blk.tile t).es.borrowed.find? (fun x => x.engine = k && x.runnable) = some r →
      kOp r.cmd = (match c with
        | .moveCopy _ => 0x01
        | .moveFill _ => 0x02
        | .reduceAdd _ => 0x43
        | .reduceScaleAdd _ => 0x45
        | .reduceMap _ => 0x49
        | _ => 0x4A) →
      exec c s = become s (s.blk.runBorrowed t r)) ∧
    (∀ id r, Ready s (.stolenResultReturn t id) →
      (s.blk.tile t).es.borrowed.find? (fun x => x.lendId = id && x.done) = some r →
      let b := s.blk.modTile t fun x => { x with es := { x.es with borrowed := x.es.borrowed.filter fun y => !r.same y } }
      ((b.tile r.victim).es.lent.find? (fun l => l.lendId = id && l.thief = t) = none →
        exec (.stolenResultReturn t id) s = become s (b.count r.victim evStealLate (some r.plot))) ∧
      (∀ l, (b.tile r.victim).es.lent.find? (fun l => l.lendId = id && l.thief = t) = some l →
        let b' := b.modTile r.victim fun x => { x with es := { x.es with lent := x.es.lent.filter fun y => y ≠ l } }
        ∀ x, (b'.tile r.victim).sheaf? l.engine l.sid = some x →
          (r.failed = true → exec (.stolenResultReturn t id) s = become s (b'.takeBack r.victim r.engine x.sid)) ∧
          (r.failed = false →
            (∀ b2, b'.mergeStolen r.victim x r.result = .ok b2 →
              exec (.stolenResultReturn t id) s = become s
                (((ends b2 r.victim r.engine x stOk).count t evStealGot (some x.plot)).count r.victim evStealGiven
                  (some x.plot))) ∧
            (∀ f, b'.mergeStolen r.victim x r.result = .error f →
              exec (.stolenResultReturn t id) s = become s (ends b' r.victim r.engine x f.1 f.2)))))

/-- R176, R180, R186, R190, R193, R197, R336, R338: a doorbell enters its plot's queue, or sets the full bit, entries read in the same mc
counted, and is ignored and counted on a page of a plot that is not BOUND; a descriptor read inside the window that passes every check
makes a collective, the first check that fails gives a record of status REFUSED with the chunks it asked for; an ACK marks a held chunk's
buffer with its mc; an ACK or a RESEND of a chunk that is not held is dropped under 0x31; a RESEND sends the pieces of a held chunk
again with the DCRC they came with, or ends the collective; a decided chunk without its ACK ends the collective with NO_ACK; an abort
of a context that no collective holds ends the context, of one that a collective holds the collective.
The model's choices: log 88, 163, 165. -/
def Obligations.CollectiveCommands : Prop :=
  ∀ (s : State) (p t : Nat),
    (∀ off, Ready s (.collDoorbell p off) →
      let n := (s.blk.plot p).host.doorbells.length + s.blk.mcLog.count (.fetched p)
      (s.blk.bound p = false ∨ p = 0 → exec (.collDoorbell p off) s = become s (s.blk.countSys evBadAccess)) ∧
      (s.blk.bound p = true → p ≠ 0 → n < 16 →
        exec (.collDoorbell p off) s = become s (s.blk.modPlot p fun x =>
          { x with host := { x.host with doorbells := x.host.doorbells ++ [(false, off)] } })) ∧
      (s.blk.bound p = true → p ≠ 0 → 16 ≤ n →
        exec (.collDoorbell p off) s = become s
          ((s.blk.modPlot p fun x => { x with host := { x.host with dbFull := true } }).note (.set (.dbFull p))))) ∧
    (∀ desc off b, Ready s (.collAccept p desc) → s.blk.takeDoorbell p false = some (off, b) →
      let d := b.fetched p off desc
      let h : BitVec 512 := BitVec.ofNat 512 (ofBytes (d.take 64))
      let c := collOf h ((List.range (fld h 8 5)).map fun j =>
        partOf (BitVec.ofNat 256 (ofBytes ((d.drop (64 + 32 * j)).take 32)))) b.clk.frame
      (d.length < 64 → exec (.collAccept p desc) s = become s b) ∧
      (64 ≤ d.length → b.collDecideDesc p h c d.length ≠ 0 →
        exec (.collAccept p desc) s = become s
          (b.collRecord p c 4 (b.collDecideDesc p h c d.length) (if c.chunkLen = 0 then 0 else c.chunks))) ∧
      (64 ≤ d.length → b.collDecideDesc p h c d.length = 0 →
        ∃ (b' : Blk) (ps : List Part), exec (.collAccept p desc) s = become s b' ∧
          ps.map (fun x => { x with ctx := 0 }) = c.parts.map (fun x => { x with ctx := 0 }) ∧
          (b'.plot p).colls = (b.plot p).colls ++ [{ c with parts := ps }] ∧
          (∀ q, q ≠ p → b'.plot q = b.plot q) ∧ { b' with tiles := b.tiles, plots := b.plots } = b)) ∧
    (∀ d b, s.blk.takeColl t flAck = some (d, b) → Ready s (.collAckReceive t) →
      (∀ c j o, b.heldChunk t d = some (c, j, o) → exec (.collAckReceive t) s = become s
        (b.setColl d.1 { c with outb := c.outb.put (j * 8 + o.chunk % 8) { o with acked := some b.clk.mc } })) ∧
      (b.heldChunk t d = none →
        exec (.collAckReceive t) s = become s (b.drop t 0x31 (some (b.member.portOf t)) (some d.1)))) ∧
    (∀ d b, s.blk.takeColl t flResend = some (d, b) → Ready s (.collResendReceive t) →
      (b.heldChunk t d = none →
        exec (.collResendReceive t) s = become s (b.drop t 0x31 (some (b.member.portOf t)) (some d.1))) ∧
      (∀ c j o, b.heldChunk t d = some (c, j, o) →
        let r := c.indices.foldl (fun (a : Chk Blk) i => a >>= fun b =>
          let train := b.readSram (c.part j).tile (c.outSlot j o.chunk i) (64 + collBytes c.finFmt (c.real o.chunk i))
          b.collEmitPiece d.1 c (c.part j).tile (c.part j).coord.toNat o.chunk i c.finFmt (collHdr train).dcrc (train.drop 64)) (.ok b)
        (∀ b', r = .ok b' → exec (.collResendReceive t) s = become s b') ∧
        (∀ f, r = .error f → exec (.collResendReceive t) s = become s (b.collEnd d.1 c 2 0x12)))) ∧
    (∀ step j k c o, Ready s (.collNoAck p step j k) → s.blk.coll? p step = some c → c.needsAck j = true →
      c.outBufOf j k = some o → o.decided = true → o.acked = none →
      exec (.collNoAck p step j k) s = become s (s.blk.collEnd p c 2 0x15)) ∧
    (∀ c, Ready s (.ctxAbort t c) →
      (s.blk.allColls.find? (fun x => x.2.parts.any fun y => y.tile = t && y.ctx = c) = none →
        exec (.ctxAbort t c) s = become s (s.blk.abortCtx t c)) ∧
      (∀ x, s.blk.allColls.find? (fun x => x.2.parts.any fun y => y.tile = t && y.ctx = c) = some x →
        exec (.ctxAbort t c) s = become s (s.blk.collEnd x.1 x.2 3 0x17)))

/-- R199–R202, R338, R341: a kernel doorbell enters the queue that collectives use; the descriptor it points at in the plot's window says by
OP what it asks: a BIND that fails a check answers with the first, one that passes binds the kernel, a DISPATCH kernel with the tile's
array loaded and pinned; an UNBIND releases a kernel of the plot that has no open token and answers UNBOUND, marks another, and answers the
code for a kernel that is not there or a bad version; a pointer past the window ends there.
The model's choices: log 7, 89, 165, 166. -/
def Obligations.KernelBinding : Prop :=
  ∀ (s : State) (p : Nat),
    (∀ off, Ready s (.kernelDoorbell p off) →
      let n := (s.blk.plot p).host.doorbells.length + s.blk.mcLog.count (.fetched p)
      (s.blk.bound p = false ∨ p = 0 → exec (.kernelDoorbell p off) s = become s (s.blk.countSys evBadAccess)) ∧
      (s.blk.bound p = true → p ≠ 0 → n < 16 →
        exec (.kernelDoorbell p off) s = become s (s.blk.modPlot p fun x =>
          { x with host := { x.host with doorbells := x.host.doorbells ++ [(true, off)] } })) ∧
      (s.blk.bound p = true → p ≠ 0 → 16 ≤ n →
        exec (.kernelDoorbell p off) s = become s
          ((s.blk.modPlot p fun x => { x with host := { x.host with dbFull := true } }).note (.set (.dbFull p))))) ∧
    (∀ (desc : Bytes) off b (i : Instr), i = .kernelBind p desc ∨ i = .kernelUnbind p desc → Ready s i →
      s.blk.takeDoorbell p true = some (off, b) →
      let d := b.fetched p off desc
      let h : BitVec 512 := BitVec.ofNat 512 (ofBytes (d.take 64))
      let t := fld h 24 10
      let x := kernelOf h p
      (d.length < 64 → exec i s = become s b) ∧
      (64 ≤ d.length → flag h 8 = false →
        (b.kernelDecide p t h x ≠ 0 → exec i s = become s (b.kerBind p t x.cls (b.kernelDecide p t h x))) ∧
        (b.kernelDecide p t h x = 0 → x.dispatch = false →
          exec i s = become s ((b.setKernel t { x with loaded := true }).kerBind p t x.cls 0)) ∧
        (b.kernelDecide p t h x = 0 → x.dispatch = true →
          exec i s = become s (((b.modTile t fun y => { y with
              oases := y.oases.put x.oasis { wide := fmtWide x.retFmt, size := x.accEntries, grid := .none, entries := [] },
              weights := some { k := x.k, n := x.n, fmt := x.wFmt, data := b.readSram t x.wAddr (weightBytes x.wFmt x.k x.n) },
              pinned := true }).setKernel t { x with loaded := false }).kerBind p t x.cls 0))) ∧
      (64 ≤ d.length → flag h 8 = true →
        (fld h 0 8 ≠ 1 → exec i s = become s (b.kerBind p t (fld h 12 6) 0x01)) ∧
        (fld h 0 8 = 1 →
          ((b.tile t).ks.kernels.find? (fun y => y.2.cls = fld h 12 6 && y.2.plot = p) = none →
            exec i s = become s (b.kerBind p t (fld h 12 6) 0x08)) ∧
          (∀ k y, (b.tile t).ks.kernels.find? (fun y => y.2.cls = fld h 12 6 && y.2.plot = p) = some (k, y) →
            (y.tokens = [] → exec i s = become s ((b.kernelFree t { y with unbinding := true }).kerBind y.plot t y.cls 0x07)) ∧
            (y.tokens ≠ [] → exec i s = become s (b.setKernel t { y with unbinding := true }))))))

/-- R204–R212: a token's first part takes the lowest free slot and the next serial, a later one the slot it belongs to, also while its
kernel is unbinding; a part for no kernel, with a bad size, or without a free slot is dropped under 0x40, 0x41, 0x42; a token not whole in
time is discarded; one whose RET_WAIT ends closes; an expert output that fits its token is added, another is dropped under 0x40, 0x41,
0x43; a KHDR waits at the egress tile, or is answered BUSY and its train is to be discarded; a combined token's train leaves under
its own header, a copy's under the oldest KHDR of its sender, or is counted and discarded.
The model's choices: log 89, 166. -/
def Obligations.KernelTokens : Prop :=
  ∀ (s : State) (t : Nat),
    (∀ d rest, (s.blk.tile t).ks.tokenIn = d :: rest → Ready s (.tokenPartArrival t) →
      let b := s.blk.modKs t fun k => { k with tokenIn := rest }
      let plot := b.plotOfKey d.hdr
      let port := b.member.portOf t
      let part := fTag d.hdr % 8
      (b.dispatchAt t = none →
        exec (.tokenPartArrival t) s = become s (b.drop t 0x40 (some port) (some plot))) ∧
      (∀ x, b.dispatchAt t = some x →
        let open_ := x.tokens.find? fun y =>
          y.2.src = BitVec.ofNat 32 (fSrc d.hdr) && y.2.token.toNat / 8 = fTag d.hdr / 8 && !y.2.gated
        ((x.plot ≠ plot ∨ x.cls ≠ fClass d.hdr ∨ x.loaded = false ∨ (x.unbinding = true ∧ open_ = none)) →
          exec (.tokenPartArrival t) s = become s (b.drop t 0x40 (some port) (some plot))) ∧
        (x.plot = plot → x.cls = fClass d.hdr → x.loaded = true → (x.unbinding = false ∨ open_ ≠ none) →
          ((partsOf x.tokBytes ≤ part ∨ d.payload.length ≠ partSize x.tokBytes part) →
            exec (.tokenPartArrival t) s = become s (b.drop t 0x41 (some port) (some plot))) ∧
          (part < partsOf x.tokBytes → d.payload.length = partSize x.tokBytes part →
            (∀ slot tok, open_ = some (slot, tok) →
              exec (.tokenPartArrival t) s = become s (b.tokenLand t x slot tok part d.payload)) ∧
            (open_ = none → x.freeSlot = none →
              exec (.tokenPartArrival t) s = become s (b.drop t 0x42 (some port) (some plot))) ∧
            (∀ slot, open_ = none → x.freeSlot = some slot →
              exec (.tokenPartArrival t) s = become s
                (b.tokenLand t { x with serial := (x.serial + 1) % 2 ^ 16 } slot
                  { src := BitVec.ofNat 32 (fSrc d.hdr), token := BitVec.ofNat 32 (fTag d.hdr), serial := x.serial,
                    landed := [], gated := false, gates := [], ranks := [], missing := [], outs := [], acc := [] }
                  part d.payload)))))) ∧
    (∀ x slot tok, s.blk.dispatchAt t = some x → x.tokens.get? slot = some tok →
      (Ready s (.tokenAsmTimeout t slot) → tok.gated = false →
        exec (.tokenAsmTimeout t slot) s = become s
          (((s.blk.count t 0x15B (some x.plot)).raiseP 0x0C x.plot (some t) (tok.token.toNat / 8) 1).kernelSettle t
            { x with tokens := x.tokens.del slot })) ∧
      (Ready s (.tokenRetTimeout t slot) → tok.gated = true →
        exec (.tokenRetTimeout t slot) s = become s (s.blk.tokenClose t x slot tok))) ∧
    (∀ d rest, (s.blk.tile t).ks.expertIn = d :: rest → Ready s (.expertOutputArrival t) →
      let b := s.blk.modKs t fun k => { k with expertIn := rest }
      let plot := b.plotOfKey d.hdr
      let port := b.member.portOf t
      let tag := fTag d.hdr
      let rank := tag / 64 % 8
      let part := tag / 512 % 8
      ((∀ x, b.dispatchAt t = some x → x.plot ≠ plot) →
        exec (.expertOutputArrival t) s = become s (b.drop t 0x40 (some port) (some plot))) ∧
      (∀ x, b.dispatchAt t = some x → x.plot = plot →
        ((partsOf x.retBytes ≤ part ∨ d.payload.length ≠ partSize x.retBytes part) →
          exec (.expertOutputArrival t) s = become s (b.drop t 0x41 (some port) (some plot))) ∧
        (part < partsOf x.retBytes → d.payload.length = partSize x.retBytes part →
          (x.tokens.get? (tag % 64) = none →
            exec (.expertOutputArrival t) s = become s (b.drop t 0x43 (some port) (some plot))) ∧
          (∀ tok, x.tokens.get? (tag % 64) = some tok →
            ((tok.serial ≠ tag / 2 ^ 16 ∨ tag / 2 ^ 12 % 16 ≠ 0 ∨ tok.ranks.contains rank = false ∨
                tok.missing.contains rank = true ∨ (tok.outs.get? (8 * rank + part)).isSome = true) →
              exec (.expertOutputArrival t) s = become s (b.drop t 0x43 (some port) (some plot))) ∧
            (tok.serial = tag / 2 ^ 16 → tag / 2 ^ 12 % 16 = 0 → tok.ranks.contains rank = true →
              tok.missing.contains rank = false → tok.outs.get? (8 * rank + part) = none →
              exec (.expertOutputArrival t) s = become s (b.expertAdd t x (tag % 64) tok rank part d.payload)))))) ∧
    (∀ q b, Ready s (.khdrReceive t) → s.blk.takeInbox t (· = rqKhdr) = some (q, b) →
      let n := ((b.tile t).ks.khdrs.filter fun k => !k.refused).length
      let b' (refused : Bool) := b.modKs t fun y => { y with khdrs := y.khdrs ++
        [{ src := pSrc q.1.hdr, plot := pPlot q.1.hdr, tag := BitVec.ofNat 32 (pArg q.1.hdr), body := q.1.body.take 16,
           refused := refused }] }
      (n < 64 → exec (.khdrReceive t) s = become s ((b' false).answerReq t q 0 [])) ∧
      (64 ≤ n → exec (.khdrReceive t) s = become s ((b' true).errReq t q erBusy))) ∧
    (∀ x rest, Ready s (.kernelTrainLand t) →
      takeFirst (fun x => !s.blk.isUpTrain t x) (s.blk.tile t).ks.trains = some (x, rest) →
      let b := s.blk.modKs t fun k => { k with trains := rest }
      let due := takeFirst (fun (d : DueTrain) => d.src = x.src && d.plot = x.plot) (b.tile t).ks.due
      let b1 := match due with
        | none => b
        | some (_, ds) => b.modKs t fun k => { k with due := ds }
      (∀ d ds h, due = some (d, ds) → d.hdr = some h →
        exec (.kernelTrainLand t) s = become s
          (b1.emitParts t x.plot (b1.member.portOf t) false (returnHdr h) (padTo (fBytes h) x.data))) ∧
      ((∀ d ds, due = some (d, ds) → d.hdr = none) →
        let mine := takeFirst (fun (k : Khdr) => k.src = x.src && k.plot = x.plot) (b1.tile t).ks.khdrs
        (mine = none → exec (.kernelTrainLand t) s = become s (b1.count t evKerNoHdr (some x.plot))) ∧
        (∀ k ks, mine = some (k, ks) →
          let b2 := b1.modKs t fun y => { y with khdrs := ks }
          (k.refused = false → exec (.kernelTrainLand t) s = become s (b2.trainSend t k x)) ∧
          (k.refused = true → exec (.kernelTrainLand t) s = become s (b2.count t evKerNoHdr (some x.plot))))))

/-- R317, R319, R321, R326, R329, R332, R333: a READ returns the entry, an RO field as it stood when the mc began, or its code; sub-index 0
reads as the highest sub-index, a write-only entry as zeros, a DOMAIN with TYPE, an expert entry that a basic channel may not read with
LEVEL; a WRITE is refused with ACCESS, LEVEL, TYPE or LENGTH in that order, changing nothing, else it is the entry's own write and
answers that code; DESCRIBE returns the 4 bytes of an entry; each answers the code of an entry that is not there; HELLO needs no key.
The model's choices: log 116, 117, 140, 173. -/
def Obligations.DictionaryRequests : Prop :=
  ∀ (s : State) (ch : Channel) (i j : Nat) (xs : Bytes) (e : Ent),
    (Asked s (.moaRead ch i j) ch false →
      (∀ r, s.blk.odRead s.seen ch i j = .ok r → exec (.moaRead ch i j) s = become s (s.blk.answer 0 r)) ∧
      (∀ a, s.blk.odRead s.seen ch i j = .error a → exec (.moaRead ch i j) s = become s (s.blk.answer a)) ∧
      (s.blk.entry? i j = .ok e → j = 0 →
        exec (.moaRead ch i j) s = become s (s.blk.answer 0 (toBytes 1 (maxSub s.blk.member i))))) ∧
    (∀ a, s.blk.entry? i j = .error a →
      (∀ w : Instr, w = .moaRead ch i j ∨ w = .moaWrite ch i j xs ∨ w = .odRegisterWrite ch i j xs ∨ w = .describe ch i j →
        Asked s w ch false → exec w s = become s (s.blk.answer a))) ∧
    (s.blk.entry? i j = .ok e → 0 < j →
      (Asked s (.moaRead ch i j) ch false →
        (e.expert = true → e.both = false → s.blk.expert ch = false →
          exec (.moaRead ch i j) s = become s (s.blk.answer 0x04)) ∧
        ((e.expert = false ∨ e.both = true ∨ s.blk.expert ch = true) →
          (e.type = tyDomain → exec (.moaRead ch i j) s = become s (s.blk.answer 0x06)) ∧
          (e.type ≠ tyDomain → e.access = acWO → (e.inst = inTile → s.blk.clusterTested (clusterOf (s.blk.sels ch).tile) = false) →
            exec (.moaRead ch i j) s = become s (s.blk.answer 0 (List.replicate e.size 0#8))))) ∧
      (∀ w : Instr, w = .moaWrite ch i j xs ∨ w = .odRegisterWrite ch i j xs → Asked s w ch false →
        ((e.access = acRO ∨ e.access = acConst) → exec w s = become s (s.blk.answer 0x03)) ∧
        (e.access ≠ acRO → e.access ≠ acConst →
          (e.expert = true → s.blk.expert ch = false → exec w s = become s (s.blk.answer 0x04)) ∧
          ((e.expert = true → s.blk.expert ch = true) →
            (e.type = tyDomain → exec w s = become s (s.blk.answer 0x06)) ∧
            (e.type ≠ tyDomain → xs.length ≠ e.size → exec w s = become s (s.blk.answer 0x05)) ∧
            (e.type ≠ tyDomain → xs.length = e.size →
              exec w s = become s ((s.blk.odStore ch i j xs).1.answer (s.blk.odStore ch i j xs).2))))) ∧
      (Asked s (.describe ch i j) ch false →
        exec (.describe ch i j) s = become s (s.blk.answer 0 e.describe))) ∧
    (Served s (.hello ch) → (ch = .mailbox ∨ s.blk.mgmt.mgmtEn = true) →
      exec (.hello ch) s = become s (s.blk.answer 0 (toBytes 1 s.blk.member.code ++ toBytes 4 s.blk.mgmt.fwVersion.toNat)))

/-- R283, R325, R329–R332, R361, R362: a key slot takes its 34 bytes from the mailbox or from the other slot's channel once they
are in the store, and its own transfer closes; SEG_WRITE opens one transfer per channel within its bounds; a segment in order goes
to its target, the last one ends the transfer with ABORT 0 or CRC, one out of order is counted; a manager's SEG_ACK moves a read
on, 30 s of silence end a transfer with TIMEOUT, SEG_ABORT with CANCELLED.
The model's choices: log 101, 118, 119. -/
def Obligations.SegmentedTransfers : Prop :=
  ∀ (s : State) (ch : Channel),
    (∀ (slot : Bool) (xs : Bytes) (b : Blk), Asked s (.keySlotWrite ch slot xs) ch true → xs.length = 34 → ch ≠ slotCh slot →
      (xs.getD 32 0#8).toNat ≤ 1 → (xs.getD 33 0#8).toNat ≤ 1 →
      s.blk.replayJournal.store psJournal (BitVec.ofNat 8 (if slot then 1 else 0) :: xs) = some b →
      ∃ b' : Blk, exec (.keySlotWrite ch slot xs) s = become s (b'.answer 0) ∧
        b'.keySlot (slotCh slot) = KeySlot.of xs ∧ b'.keySlot (slotCh !slot) = b.keySlot (slotCh !slot) ∧
        b'.xfer (slotCh slot) = none ∧ b'.fw.keyJournal = true ∧ { b' with mgmt := b.mgmt, fw := b.fw } = b) ∧
    (∀ i j total xcrc e, s.blk.entry? i j = .ok e → e.type = tyDomain → (e.expert = true → s.blk.expert ch = true) →
      (Asked s (.segWrite ch i j total xcrc) ch false → s.blk.xfer ch = none → s.blk.transferOn i j = false →
        0 < total → total ≤ 67108864 →
        (i = 0x1400 → (s.blk.sels ch).stage.toNat * 64 + total ≤ stagingBytes →
          s.blk.meetsLibrary ((s.blk.sels ch).stage.toNat * 64) total = false →
          exec (.segWrite ch i j total xcrc) s = become s ((s.blk.setXfer ch (some
            { index := i, sub := j, write := true, total := total, xcrc := xcrc, base := (s.blk.sels ch).stage.toNat * 64,
              next := 0, data := [] })).answer 0)) ∧
        (i = 0x4000 → total ≤ 4194304 → s.blk.fwWritable = true →
          ∃ b : Blk, exec (.segWrite ch i j total xcrc) s = become s (b.answer 0) ∧
            b.xfer ch = some { index := i, sub := j, write := true, total := total, xcrc := xcrc, base := 0, next := 0,
                               data := [] } ∧
            b.fw = s.blk.fw.setSlot s.blk.fw.inactive [] .partial_ ∧
            { b with mgmt := s.blk.mgmt, fw := s.blk.fw } = s.blk) ∧
        ((i = 0x2200 ∨ i = 0x2202) → s.blk.sown.state ≠ .loading → s.blk.sown.state ≠ .armed →
          exec (.segWrite ch i j total xcrc) s = become s ((s.blk.setXfer ch (some
            { index := i, sub := j, write := true, total := total, xcrc := xcrc, base := if i = 0x2202 then 67108864 else 0,
              next := 0, data := [] })).answer 0))) ∧
      (Asked s (.segRead ch i j) ch false → s.blk.xfer ch = none → s.blk.transferOn i j = false →
        exec (.segRead ch i j) s = become s ((s.blk.setXfer ch (some
          { index := i, sub := j, write := false, total := 0, xcrc := crc32c [], base := 0, next := 0, data := [] })).answer 0))) ∧
    (∀ n data, Served s (.segment ch n data) →
      (s.blk.xfer ch = none → exec (.segment ch n data) s = become s (s.blk.countSys evMoaSegOoo)) ∧
      (∀ x, s.blk.xfer ch = some x →
        ((x.write = false ∨ n ≠ x.next ∨ data.length ≠ segBytes x.total n) →
          exec (.segment ch n data) s = become s ((s.blk.countSys evMoaSegOoo).sendAck x.next 0)) ∧
        (x.write = true → n = x.next → data.length = segBytes x.total n →
          (x.data.length + data.length < x.total →
            exec (.segment ch n data) s = become s
              (((s.blk.segTarget x data).setXfer ch (some { x with next := x.next + 1, data := x.data ++ data })).sendAck
                (x.next + 1) 0)) ∧
          (x.total ≤ x.data.length + data.length → crc32c (x.data ++ data) = x.xcrc →
            exec (.segment ch n data) s = become s
              ((((s.blk.segTarget x data).setXfer ch none).objectDone x true).sendAck (x.next + 1) 0)) ∧
          (x.total ≤ x.data.length + data.length → crc32c (x.data ++ data) ≠ x.xcrc →
            exec (.segment ch n data) s = become s
              ((((s.blk.segTarget x data).setXfer ch none).objectDone x false).sendAck (x.next + 1) 0x0E))))) ∧
    (∀ x n, s.blk.xfer ch = some x →
      (Served s (.segAck ch n) → x.write = false →
        exec (.segAck ch n) s = become s (Blk.setXfer { s.blk with mgmt := { s.blk.mgmt with segOut := x.window n } } ch
          (if x.window n = [] then none else some { x with next := n }))) ∧
      (Served s (.segTimeout ch) →
        exec (.segTimeout ch) s = become s ((s.blk.setXfer ch none).sendAck x.next 0x0F)) ∧
      (Asked s (.segAbort ch) ch false →
        exec (.segAbort ch) s = become s (((s.blk.setXfer ch none).sendAck x.next 0x10).answer 0x10)))

/-- R323, R325, R326, R327, R333: a frame to this block's MAC, address and port is decided in table order: one whose FCS or UDP checksum
fails is dropped, a bad form is counted MOA_BAD, HELLO is answered unless it fails that, an SPDM frame and one to a block of worn flash get
nothing, a bad tag under the key that stood when the mc began is an authentication failure, an old BOOT answers BOOT, a fresh SEQ is taken
and executed once, one that was taken resends the held responses, or answers SEQ. Another frame is MOA_FOREIGN. ARP requests and
neighbour solicitations are answered for the own address.
The model's choices: log 120, 122, 123, 124. -/
def Obligations.MoaFrames : Prop :=
  ∀ (s : State) (frame : Bytes) (x : MoaIn),
    let xs := x.body
    let h := moaHdr xs
    let slot := mhSlot h
    let ch := slotCh slot
    let b := s.blk
    let key := s.was.keySlot ch
    let send := fun (b : Blk) (out : List Bytes) => become s (b.mgmtSend (out.map (b.moaOut x)))
    let boot := b.mgmt.boot.toNat
    (Served s (.moaFrameReceive frame false) → exec (.moaFrameReceive frame false) s = become s b) ∧
    (Served s (.moaFrameReceive frame true) → b.moaFor frame = none →
      exec (.moaFrameReceive frame true) s = become s (b.countSys evMoaForeign)) ∧
    (Served s (.moaFrameReceive frame true) → b.moaFor frame = some x → x.sumOk = false →
      exec (.moaFrameReceive frame true) s = become s b) ∧
    (Served s (.moaFrameReceive frame true) → b.moaFor frame = some x → x.sumOk = true →
      ((moaOk xs = false ∨ b.mgmt.mgmtEn = false) →
        exec (.moaFrameReceive frame true) s = send (b.countSys evMoaBad) []) ∧
      (moaOk xs = true → b.mgmt.mgmtEn = true → mhKind h = 0 → mhOp h = 0x07 →
        exec (.moaFrameReceive frame true) s = send b.doHello [b.doHello.moaResponse ch (setFld h 33 1 0) boot]) ∧
      (moaOk xs = true → b.mgmt.mgmtEn = true → (mhKind h ≠ 0 ∨ mhOp h ≠ 0x07) →
        (b.fw.worn = true ∨ mhKind h = 4 → exec (.moaFrameReceive frame true) s = send b []) ∧
        (b.fw.worn = false → mhKind h ≠ 4 →
          ((mhAuth h = false ∨ key.valid = false ∨ moaTagOk key.key xs = false) →
            exec (.moaFrameReceive frame true) s = send (b.authFail slot) []) ∧
          (mhAuth h = true → key.valid = true → moaTagOk key.key xs = true →
            (mhBoot h ≠ boot →
              exec (.moaFrameReceive frame true) s = send (b.answer 0x0A) [(b.answer 0x0A).moaResponse ch h boot]) ∧
            (mhBoot h = boot → (b.seqRec slot).fresh_ (mhSeq h) = true →
              let y := (b.setSeqRec slot ((b.seqRec slot).take (mhSeq h))).moaExec s.seen ch boot xs
              exec (.moaFrameReceive frame true) s =
                send (y.1.setSeqRec slot ((y.1.seqRec slot).hold (mhSeq h) y.2)) y.2) ∧
            (mhBoot h = boot → (b.seqRec slot).fresh_ (mhSeq h) = false →
              ((b.seqRec slot).held (mhSeq h) ≠ [] →
                exec (.moaFrameReceive frame true) s = send b ((b.seqRec slot).held (mhSeq h))) ∧
              ((b.seqRec slot).held (mhSeq h) = [] →
                exec (.moaFrameReceive frame true) s = send (b.answer 0x0B) [(b.answer 0x0B).moaResponse ch h boot])))))) ∧
    (∀ ip : BitVec 32, Served s (.arpRequest ip) →
      (ip ≠ 0#32 → ip = b.mgmt.ip4 →
        exec (.arpRequest ip) s = become s (b.mgmtSend [toBE 6 b.mgmt.mac.toNat ++ toBE 4 ip.toNat])) ∧
      (ip = 0#32 ∨ ip ≠ b.mgmt.ip4 → exec (.arpRequest ip) s = become s b)) ∧
    (∀ ip : BitVec 128, Served s (.neighborSolicitation ip) →
      (ip ≠ 0#128 → ip = b.mgmt.ip6 →
        exec (.neighborSolicitation ip) s = become s (b.mgmtSend [toBE 6 b.mgmt.mac.toNat ++ toBE 16 ip.toNat])) ∧
      (ip = 0#128 ∨ ip ≠ b.mgmt.ip6 → exec (.neighborSolicitation ip) s = become s b))

/-- R216, R237, R239, R243, R299, R394: a port takes every landed cell in order; a free output of a port in service, not OFF, starts its
pick: the queue of highest priority, then the earliest finish tag, then the lowest number, and nothing where no queue can send; a DFP that
cannot go on ends its frame with an error; a pause received holds the priorities 4, 5 and 6, another priority changes nothing.
The model's choices: log 71, 72, 73, 75, 168. -/
def Obligations.EgressCommands : Prop :=
  ∀ (s : State) (p : Nat) (half : Bool),
    (Ready s (.egressEnqueue p) →
      exec (.egressEnqueue p) s = become s ((s.blk.each (s.blk.port p).eg.rx fun b x =>
        b.rxCell p x.1 x.2.1 x.2.2.1 x.2.2.2).modEg p fun e => { e with rx := e.rx.drop (s.blk.port p).eg.rx.length })) ∧
    (Ready s (.egressSchedule p half) →
      ((((s.blk.port p).state ≠ .up ∧ (s.blk.port p).state ≠ .draining) ∨ (s.blk.port p).ctrl.mode = 0 ∨
          ((s.blk.port p).eg.txOf half).isSome = true ∨ (half = true ∧ (s.blk.port p).ctrl.mode ≠ 2) ∨
          (∀ q, q < 64 → s.blk.canSend p q half = false)) →
        exec (.egressSchedule p half) s = become s s.blk) ∧
      (∀ q, ((s.blk.port p).state = .up ∨ (s.blk.port p).state = .draining) → (s.blk.port p).ctrl.mode ≠ 0 →
        (s.blk.port p).eg.txOf half = none → (half = true → (s.blk.port p).ctrl.mode = 2) → q < 64 → s.blk.canSend p q half = true →
        (∀ r, r < 64 → s.blk.canSend p r half = true →
          let ahead := ((s.blk.egQueue p r).tag - (s.blk.egQueue p q).tag).toNat
          s.blk.prioOf p r ≤ s.blk.prioOf p q ∧
            (s.blk.prioOf p r = s.blk.prioOf p q → ahead < 2 ^ 31 ∧ (ahead = 0 → q ≤ r))) →
        exec (.egressSchedule p half) s = become s (s.blk.txStart p q half))) ∧
    (Ready s (.txUnderrun p half) →
      ((s.blk.port p).eg.txOf half = none → exec (.txUnderrun p half) s = become s s.blk) ∧
      (∀ d n, (s.blk.port p).eg.txOf half = some (d, n) →
        exec (.txUnderrun p half) s = become s
          ((((s.blk.modEg p fun e => e.setTx half none).emit p d true).portDrop p 0x5B d.plot).pause))) ∧
    (∀ k on, Ready s (.pfcReceive p k on) →
      ((k = 4 ∨ k = 5 ∨ k = 6) → exec (.pfcReceive p k on) s = become s (s.blk.modPort p fun x =>
        { x with pools := { x.pools with pfcRx :=
          if on then x.pools.pfcRx ||| BitVec.ofNat 8 (2 ^ k) else x.pools.pfcRx &&& ~~~BitVec.ofNat 8 (2 ^ k) } })) ∧
      (k ≠ 4 → k ≠ 5 → k ≠ 6 → exec (.pfcReceive p k on) s = become s s.blk))

/-- R38, R40, R213, R216, R228, R230–R237, R382: an output that is OFF takes no frame; every other frame received is counted; it is dropped
under the first check that fails, in the order 0x51, 0x50, 0x52, 0x01, 0x02, 0x03 and on; a marker that passes is traced; a DFP of a
port in pass-through goes to its peer; another goes where its address says: consumed here, or with one HOPS less toward its egress port,
each step that refuses it naming its drop. An open-path DFP takes its room and one of the 16 assembly entries of the egress port with its
first packet, or is answered BUSY; the later ones join it.
The model's choices: log 30, 74, 76, 77, 78, 80, 90, 92. -/
def Obligations.IngressCommands : Prop :=
  ∀ (s : State) (p t : Nat) (half good : Bool) (frame : Bytes),
    let x := s.blk.port p
    let tp := s.blk.member.portTile p
    let b := (s.blk.count tp evRxFrames).countN tp evRxBytes (frame.length / 64)
    (Ready s (.dfpIngress p half frame good) → (x.ctrl.mode = 0 ∨ (half = true ∧ x.ctrl.mode ≠ 2)) →
      exec (.dfpIngress p half frame good) s = become s s.blk) ∧
    (Ready s (.dfpIngress p half frame good) → x.ctrl.mode ≠ 0 → (half = true → x.ctrl.mode = 2) →
      ((good = false ∨ x.decap frame = .bad) →
        exec (.dfpIngress p half frame good) s = become s (b.portDrop p 0x51 0)) ∧
      (good = true → x.decap frame = .foreign →
        exec (.dfpIngress p half frame good) s = become s (b.portDrop p 0x50 0)) ∧
      (∀ xs, good = true → x.decap frame = .dfp xs →
        let h : BitVec 256 := BitVec.ofNat 256 (ofBytes (xs.take 32))
        (x.state ≠ .up → exec (.dfpIngress p half frame good) s = become s (b.portDrop p 0x52 0)) ∧
        (x.state = .up → (xs.length < 32 ∨ xs.length ≠ 48 + fBytes h) →
          exec (.dfpIngress p half frame good) s = become s (b.portDrop p 0x01 0)) ∧
        (x.state = .up → 32 ≤ xs.length → xs.length = 48 + fBytes h → (fVer h ≠ 1 ∨ fHchkOk h = false) →
          exec (.dfpIngress p half frame good) s = become s (b.portDrop p 0x02 0)) ∧
        (x.state = .up → 32 ≤ xs.length → xs.length = 48 + fBytes h → fVer h = 1 → fHchkOk h = true →
          (6 ≤ fType h ∨ fColor h = 3) →
          exec (.dfpIngress p half frame good) s = become s (b.portDrop p 0x03 0)) ∧
        (∀ r, b.checkFrame p frame good = .error r → (r = 0x04 ∨ r = 0x60 ∨ r = 0x61 ∨ r = 0x05 ∨ r = 0x06) →
          exec (.dfpIngress p half frame good) s = become s
            (b.portDrop p r (((b.sieveOf (ofBytes ((xs.drop 2).take 2))).map svPlot).getD 0)))) ∧
      (∀ h data, b.checkFrame p frame good = .ok (h, data) →
        let plot := b.plotOfKey h
        let b0 := if fType h = 4 && (x.ctrl.pass || (b.checkAddr plot h).isOk) then
          b.traceMark tp 2 (ofBytes (data.take 4) + 2 ^ 32 * fSrc h) else b
        ((b0.port p).ctrl.pass = true →
          exec (.dfpIngress p half frame good) s = become s (b0.passDfp p plot h data)) ∧
        ((b0.port p).ctrl.pass = false →
          (∀ r, b0.checkAddr plot h = .error r →
            exec (.dfpIngress p half frame good) s = become s (b0.portDrop p r plot)) ∧
          (∀ h', b0.checkAddr plot h = .ok h' →
            ((fDst h' = b0.self ∨ (b0.lookup plot (fDst h')).map lkKind = some 3) →
              (∀ b' color, b0.meterDfp p plot h' = (b', .ok color) →
                exec (.dfpIngress p half frame good) s = become s (b'.consume p plot h' data)) ∧
              (∀ b' r, b0.meterDfp p plot h' = (b', .error r) →
                exec (.dfpIngress p half frame good) s = become s (b'.portDrop p r plot))) ∧
            (∀ e, fDst h' ≠ b0.self → b0.lookup plot (fDst h') = some e → lkKind e ≠ 3 →
              (∀ r, b0.wayOut p plot h' e = .error r →
                exec (.dfpIngress p half frame good) s = become s (b0.portDrop p r plot)) ∧
              (∀ q queue op b1, b0.wayOut p plot h' e = .ok (q, queue, op, b1) →
                (∀ b2 r, b1.meterDfp p plot h' = (b2, .error r) →
                  exec (.dfpIngress p half frame good) s = become s (b2.portDrop p r plot)) ∧
                (∀ b2 color, b1.meterDfp p plot h' = (b2, .ok color) →
                  (∀ r, b2.mapDfp p plot h' data = .error r →
                    exec (.dfpIngress p half frame good) s = become s (b2.portDrop p r plot)) ∧
                  (∀ h2 data2 b3, b2.mapDfp p plot h' data = .ok (h2, data2, b3) →
                    exec (.dfpIngress p half frame good) s = become s
                      ((b3.forward tp plot p (hopHdr h2) color data2 q queue op).getD (b3.portDrop p 0x54 plot)))))))))) ∧
    (Ready s (.msgDfpReceive t) → s.blk.member.isPortTile t = false → exec (.msgDfpReceive t) s = become s s.blk) ∧
    (∀ q b, Ready s (.msgDfpReceive t) → s.blk.member.isPortTile t = true → s.blk.takeInbox t (· = rqDfp) = some (q, b) →
      let n := b.member.portOf t
      let b := b.modPort n fun x => { x with cage := { x.cage with lastCell := b.clk.frame } }
      let asm := (b.port n).eg.asm
      let due := mBytes q.1.body
      let data := (q.1.body.drop 16).take (min 128 (due - mOffset q.1.body))
      let same := fun (a : DfpAsm) => (decide (a.src = pSrc q.1.hdr) && decide (a.msgId = mId q.1.body))
      let new : DfpAsm := { src := pSrc q.1.hdr, msgId := mId q.1.body, plot := pPlot q.1.hdr, queue := pArg q.1.hdr % 64,
                            due := due, got := data }
      let rest := asm.filter fun a => !same a
      let joined := fun (b : Blk) (a : DfpAsm) =>
        if a.due ≤ a.got.length then ((b.answerReq t q 0 []).modEg n fun e => { e with asm := rest }).asmWhole n a
        else (b.answerReq t q 0 []).modEg n fun e => { e with asm := rest ++ [a] }
      (mOffset q.1.body = 0 → (asm.length < 16 ∨ asm.any same = true) → b.roomFor n new.dfp = true →
        exec (.msgDfpReceive t) s = become s (joined (b.enqueue n new.dfp) new)) ∧
      (mOffset q.1.body = 0 → ((16 ≤ asm.length ∧ asm.any same = false) ∨ b.roomFor n new.dfp = false) →
        exec (.msgDfpReceive t) s = become s (b.errReq t q erBusy)) ∧
      (mOffset q.1.body ≠ 0 →
        (asm.find? same = none → exec (.msgDfpReceive t) s = become s (b.errReq t q erBusy)) ∧
        (∀ a, asm.find? same = some a →
          exec (.msgDfpReceive t) s = become s (joined b { a with got := a.got ++ data }))))

/-- R229, R230, R234–R236, R238, R240–R242, R262, R293, R299: writes of the traffic tables: a sieve or lookup entry takes its defined bits,
or is refused STATE or RANGE; a meter's configuration, a queue's SHAPE_EN and a shaper's RATE and BURST take effect as the mc ends; an
egress queue and the pools take their fields; a gate entry waits for the next tick; each is refused outside its range, a fixed queue of
the quorum under STATE, and an entry of a port that the member lacks under its own code.
The model's choices: log 79, 81, 86. -/
def Obligations.TrafficTables : Prop :=
  ∀ (s : State) (ch : Channel) (p : Nat),
    (∀ v, let e := v &&& sieveMask
      let met := (s.blk.traf.sieve.any fun x =>
        decide (x.1 ≠ (s.blk.sels ch).sieve) && svValid x.2 && decide (svKey x.2 = svKey e)) = true
      let badKey := svValid e = true ∧ (svKey e = 0 ∨ (svKey e = 0xFFFF ∧ svPlot e ≠ 0))
      Asked s (.sieveWrite ch v) ch false →
      (s.blk.bound (svPlot e) = false → exec (.sieveWrite ch v) s = become s (s.blk.answer 0x08)) ∧
      (s.blk.bound (svPlot e) = true →
        (badKey → exec (.sieveWrite ch v) s = become s (s.blk.answer 0x07)) ∧
        (¬badKey → svValid e = true → met → exec (.sieveWrite ch v) s = become s (s.blk.answer 0x08)) ∧
        (¬badKey → (svValid e = true → ¬met) →
          exec (.sieveWrite ch v) s = become s (Blk.answer { s.blk with
            traf := { s.blk.traf with sieve := s.blk.traf.sieve.put (s.blk.sels ch).sieve e } } 0)))) ∧
    (∀ v, let e := v &&& lookupMask
      let bad := 32 < lkPlen e ∨ lkPrefix e % 2 ^ (32 - lkPlen e) ≠ 0
      let met := (s.blk.traf.lookup.any fun x => decide (x.1 ≠ (s.blk.sels ch).lookup) && lkValid x.2 &&
        decide (lkPlot x.2 = lkPlot e) && decide (lkPrefix x.2 = lkPrefix e) && decide (lkPlen x.2 = lkPlen e)) = true
      Asked s (.lookupWrite ch v) ch false →
      (s.blk.bound (lkPlot e) = false → exec (.lookupWrite ch v) s = become s (s.blk.answer 0x08)) ∧
      (s.blk.bound (lkPlot e) = true →
        (bad → exec (.lookupWrite ch v) s = become s (s.blk.answer 0x07)) ∧
        (¬bad → lkValid e = true → met → exec (.lookupWrite ch v) s = become s (s.blk.answer 0x08)) ∧
        (¬bad → (lkValid e = true → ¬met) →
          exec (.lookupWrite ch v) s = become s (Blk.answer { s.blk with
            traf := { s.blk.traf with lookup := s.blk.traf.lookup.put (s.blk.sels ch).lookup e } } 0)))) ∧
    (∀ v, let c := meterWord v
      let i := (s.blk.sels ch).meter
      Asked s (.meterWrite ch v) ch true →
      (mtPir c < mtCir c → exec (.meterWrite ch v) s = become s (s.blk.answer 0x07)) ∧
      (mtCir c ≤ mtPir c → (∃ j ∈ s.blk.meterIds, j ≠ i ∧ metersMeet (s.blk.meterCfg j) c = true) →
        exec (.meterWrite ch v) s = become s (s.blk.answer 0x08)) ∧
      (mtCir c ≤ mtPir c → (∀ j ∈ s.blk.meterIds, j ≠ i → metersMeet (s.blk.meterCfg j) c = false) →
        exec (.meterWrite ch v) s = become s ((s.blk.note (.meter i c)).answer 0)) ∧
      (∀ b : Blk, b.noteActs (.meter i c) = { b with traf := { b.traf with
        meters := b.traf.meters.put i (((b.meter i).now b.clk.mc).rewrite c b.clk.mc) } })) ∧
    (∀ w : Instr, (∃ v, w = .egressQueueWrite ch p v ∨ w = .shaperWrite ch p v ∨ w = .poolWrite ch p v) ∨ (∃ v, w = .gateWrite ch p v) →
      s.blk.member.ports ≤ p → Asked s w ch false → exec w s = become s (s.blk.answer abNoIndex)) ∧
    (∀ v, let q := (s.blk.sels ch).portQueue.getD p 0
      let x := s.blk.egQueue p q
      let fixed := quorumQueue (s.blk.port p).ctrl.mode q = true ∧
        (fld v 52 8 ≠ x.owner ∨ fld v 12 2 ≠ x.prio ∨ flag v 14 ≠ x.gated ∨ flag v 15 = true)
      Asked s (.egressQueueWrite ch p v) ch true → p < s.blk.member.ports →
      (fixed → exec (.egressQueueWrite ch p v) s = become s (s.blk.answer 0x08)) ∧
      (¬fixed → 8192 < fld v 24 14 → exec (.egressQueueWrite ch p v) s = become s (s.blk.answer 0x07)) ∧
      (¬fixed → fld v 24 14 ≤ 8192 →
        exec (.egressQueueWrite ch p v) s = become s (((s.blk.modEgQueue p q fun y =>
          { y with weight := max 1 (fld v 0 12), prio := fld v 12 2, gated := flag v 14, qmax := fld v 24 14, ylim := fld v 38 14,
                   owner := fld v 52 8 }).note (.shapeEn p q (flag v 15))).answer 0)) ∧
      (∀ (b : Blk) on, b.noteActs (.shapeEn p q on) = b.modEgQueue p q fun y =>
        { y with shapeEn := on, tokensAt := b.clk.mc,
                 tokens := if on && !y.shapeEn then 2 ^ 16 * y.burst else y.tokensNow b.clk.mc })) ∧
    (∀ v, let q := (s.blk.sels ch).portQueue.getD p 0
      (Asked s (.shaperWrite ch p v) ch true → p < s.blk.member.ports →
        exec (.shaperWrite ch p v) s = become s
          ((s.blk.note (.shaper p q (fld v 0 24) (max 1 (fld v 32 16)))).answer 0)) ∧
      (∀ (b : Blk) rate burst, b.noteActs (.shaper p q rate burst) = b.modEgQueue p q fun y =>
        { y with rate := rate, burst := burst, tokensAt := b.clk.mc,
                 tokens := min (2 ^ 16 * (burst : Int)) (y.tokensNow b.clk.mc) })) ∧
    (∀ v, let g : Gate :=
        { start := fld v 0 14, stop := fld v 16 14, valid := flag v 30, qmask := BitVec.ofNat 64 (fld v 32 64) }
      let i := (s.blk.sels ch).portGate.getD p 0
      Asked s (.gateWrite ch p v) ch true → p < s.blk.member.ports →
      (g.start < g.stop → exec (.gateWrite ch p v) s = become s
        ((s.blk.modEg p fun e => { e with gatesPend := e.gatesPend.put i g }).answer 0)) ∧
      (g.stop ≤ g.start → exec (.gateWrite ch p v) s = become s (s.blk.answer 0x07))) ∧
    (∀ v, Asked s (.poolWrite ch p v) ch true → p < s.blk.member.ports →
      let bad := 8128 < fld v 0 14 + fld v 14 14 + fld v 28 14 + 1024 ∨
        (fld v 56 3 ≠ 0 ∧ (s.blk.port p).ctrl.vlan = false)
      ((s.blk.port p).idle = false → exec (.poolWrite ch p v) s = become s (s.blk.answer 0x08)) ∧
      ((s.blk.port p).idle = true → bad → exec (.poolWrite ch p v) s = become s (s.blk.answer 0x07)) ∧
      ((s.blk.port p).idle = true → ¬bad →
        let new : Pools → Pools := fun x => { x with
          req := fld v 0 14, reply := fld v 14 14, coll := fld v 28 14, headroom := fld v 42 14,
          lossless := BitVec.ofNat 3 (fld v 56 3) }
        exec (.poolWrite ch p v) s = become s ((s.blk.modPort p fun x => { x with pools := new x.pools }).pause.answer 0)))

/-- R217, R219, R221, R223, R257, R288, R307, R313, R394: UP, DRAIN and DOWN move a port by the table of R221, and are noted against a press
in the same mc; UP withdraws a FALLOW accepted in the same mc, and is answered STATE by a port that is FALLOW or on its way there;
insertion and removal, link up and down, the end of a drain and its limit, which acts as the mc ends, move it too; a number past the
member's ports changes nothing.
The model's choices: log 84, 178. -/
def Obligations.PortStates : Prop :=
  ∀ (s : State) (p : Nat),
    let x := s.blk.port p
    let t := s.blk.member.portTile p
    (Served s (.portUp p) →
      let u := s.blk.unfallow p
      (u.canUp p = true → exec (.portUp p) s = become s (((u.portTo p .up).note (.portCmd p)).answer 0)) ∧
      (u.canUp p = false → (x.pwr = .fallow ∨ s.blk.portFalling p = true) →
        exec (.portUp p) s = become s ((s.blk.note (.portCmd p)).answer 0x08)) ∧
      (u.canUp p = false → x.pwr ≠ .fallow → s.blk.portFalling p = false →
        exec (.portUp p) s = become s ((s.blk.note (.portCmd p)).answer 0)) ∧
      (s.blk.noted (.portFallow p) = false → x.pwr = .on → s.blk.portFalling p = false → x.cage.link = true →
        ((x.state = .safe ∧ (x.ctrl.bond = 0 ∨ s.blk.bondFormed p = true)) ∨
          (x.state = .down ∧ x.ctrl.mode ≠ 0 ∧ s.blk.bondFormed p = true ∧ 4 ≤ (s.blk.optPort p).lockedCount)) →
        exec (.portUp p) s = become s (((s.blk.portTo p .up).note (.portCmd p)).answer 0))) ∧
    (Served s (.portDrain p) →
      (x.state = .up → exec (.portDrain p) s = become s ((s.blk.portTo p .draining).note (.portCmd p))) ∧
      (x.state ≠ .up → exec (.portDrain p) s = become s (s.blk.note (.portCmd p)))) ∧
    (Served s (.portDown p) →
      (x.state = .up → exec (.portDown p) s = become s
        ((((s.blk.portTo p .down).discard p 0x5C fun _ _ => true).suspectPort p).note (.portCmd p))) ∧
      ((x.state = .draining ∨ x.state = .safe) →
        exec (.portDown p) s = become s (((s.blk.portTo p .down).discard p 0x5C fun _ _ => true).note (.portCmd p))) ∧
      ((x.state = .absent ∨ x.state = .down) → exec (.portDown p) s = become s (s.blk.note (.portCmd p)))) ∧
    (s.blk.member.ports ≤ p →
      (Ready s (.moduleInsert p) → exec (.moduleInsert p) s = become s s.blk) ∧
      (Ready s (.moduleRemove p) → exec (.moduleRemove p) s = become s s.blk)) ∧
    (Ready s (.moduleInsert p) → p < s.blk.member.ports →
      (x.state ≠ .absent → exec (.moduleInsert p) s = become s s.blk) ∧
      (x.state = .absent →
        let b := s.blk.modPort p fun x =>
          { x with cage := { x.cage with present := true, autoPend := true, btnIgnore := x.cage.btnIgnore || x.cage.button } }
        let b := (b.portTo p .down).unlockLoops (loopsOfPort p)
        exec (.moduleInsert p) s = become s
          (if (b.port p).pwr = .on then (b.modOptPort p fun o => { o with acqFails := 0 }).acquire p else b.relock p))) ∧
    (Ready s (.moduleRemove p) → p < s.blk.member.ports →
      (x.state = .absent → exec (.moduleRemove p) s = become s s.blk) ∧
      (x.state ≠ .absent →
        let b := s.blk.modPort p fun x => { x with cage := { x.cage with present := false } }
        let safe := x.state = .safe ∨ x.state = .down ∨ (x.state = .draining ∧ x.eg.held = [] ∧ x.eg.rx = [] ∧
          2 ≤ (s.blk.clk.frame - x.cage.lastCell).toNat)
        (safe → exec (.moduleRemove p) s = become s
          ((((b.abortBoth p).portLeave p .absent).raiseS 0x41 0 (some t) p x.state.code).opticsGone p)) ∧
        (¬safe → exec (.moduleRemove p) s = become s
          ((((b.abortBoth p).portLeave p .absent).raiseS 0x41 0 (some t) p (x.state.code + 2 ^ 16)).opticsGone p)))) ∧
    (Ready s (.portLinkUp p) → exec (.portLinkUp p) s = become s
      (((s.blk.modPort p fun x => { x with cage := { x.cage with link := true } }).undeclare fcPort p).autoUp p)) ∧
    (Ready s (.portLinkDown p) →
      (x.cage.link = false → exec (.portLinkDown p) s = become s s.blk) ∧
      (x.cage.link = true →
        let b := (s.blk.modPort p fun x => { x with cage := { x.cage with link := false } }).abortBoth p
        (((b.port p).state = .up ∨ (b.port p).state = .draining) →
          exec (.portLinkDown p) s = become s ((b.portLeave p .down).declare fcPort p)) ∧
        ((b.port p).state ≠ .up → (b.port p).state ≠ .draining →
          exec (.portLinkDown p) s = become s (b.declare fcPort p)))) ∧
    (Ready s (.drainComplete p) →
      (s.blk.drained p = true ↔ (x.state = .draining ∧ x.eg.held = [] ∧ x.eg.rx = [] ∧
        2 ≤ (s.blk.clk.frame - x.cage.lastCell).toNat)) ∧
      (s.blk.drained p = true → exec (.drainComplete p) s = become s (s.blk.portTo p .safe)) ∧
      (s.blk.drained p = false → exec (.drainComplete p) s = become s s.blk)) ∧
    (Ready s (.drainLimitExpiry p) →
      (x.state = .draining → exec (.drainLimitExpiry p) s = become s (s.blk.note (.expiry p))) ∧
      (x.state ≠ .draining → exec (.drainLimitExpiry p) s = become s s.blk)) ∧
    (∀ b : Blk,
      ((b.port p).state = .draining → b.noteActs (.expiry p) = (b.discard p 0x5D fun _ _ => true).portTo p .safe) ∧
      ((b.port p).state ≠ .draining → b.noteActs (.expiry p) = b))

/-- R217–R219, R222, R223, R245, R307, R404: a press is decided as the mc ends: it drains a port that is UP and returns a safe one with
its module to UP, unless a host command for the port came in the same mc; a press at a port that is FALLOW, or whose button is to be
released first, is nothing; a button held 60 s is reported once; a scan takes presence and button, port by port; PORT_CTRL takes its
fields at its level, in the port states that R218 asks for; what addresses a port that the member lacks changes nothing.
The model's choices: log 85, 86. -/
def Obligations.PortPanelAndControl : Prop :=
  ∀ (s : State) (p : Nat),
    let x := s.blk.port p
    (Ready s (.svcPress p) → p < s.blk.member.ports →
      (x.pwr ≠ .fallow → x.cage.btnIgnore = false → exec (.svcPress p) s = become s (s.blk.note (.press p))) ∧
      ((x.pwr = .fallow ∨ x.cage.btnIgnore = true) → exec (.svcPress p) s = become s s.blk)) ∧
    (∀ b : Blk,
      (b.noted (.portCmd p) = true → b.noteActs (.press p) = b) ∧
      (b.noted (.portCmd p) = false →
        ((b.port p).state = .up → b.noteActs (.press p) = b.portTo p .draining) ∧
        ((b.port p).state = .safe → (b.port p).cage.present = true → b.canUp p = true →
          b.noteActs (.press p) = b.portTo p .up) ∧
        ((b.port p).state = .safe → ((b.port p).cage.present = false ∨ b.canUp p = false) → b.noteActs (.press p) = b) ∧
        (((b.port p).state = .absent ∨ (b.port p).state = .down ∨ (b.port p).state = .draining) →
          b.noteActs (.press p) = b))) ∧
    (Ready s (.svcStuck p) → p < s.blk.member.ports →
      (x.cage.stuckSent = false →
        exec (.svcStuck p) s = become s ((s.blk.modPort p fun x => { x with
          cage := { x.cage with stuckSent := true, btnIgnore := true } }).raiseS 0x44 0 (some (s.blk.member.portTile p)) p)) ∧
      (x.cage.stuckSent = true → exec (.svcStuck p) s = become s s.blk)) ∧
    (s.blk.member.ports ≤ p →
      (Ready s (.svcPress p) → exec (.svcPress p) s = become s s.blk) ∧
      (Ready s (.svcStuck p) → exec (.svcStuck p) s = become s s.blk)) ∧
    (∀ bits, Ready s (.frontPanelScan bits) →
      exec (.frontPanelScan bits) s = become s (s.blk.each (List.range s.blk.member.ports) fun b p =>
        ((b.firstScan p (flag bits (2 * p + 1))).scanPresence p (flag bits (2 * p))).scanButton p (flag bits (2 * p + 1)))) ∧
    (∀ ch v, let n := PortCtrl.of v
      let group := (List.range 4).map (p / 4 * 4 + ·)
      Asked s (.portCtrlWrite ch p v) ch false →
      (s.blk.member.ports ≤ p → exec (.portCtrlWrite ch p v) s = become s (s.blk.answer abNoIndex)) ∧
      (p < s.blk.member.ports →
        (x.ctrl.expertMoves n = true → s.blk.expert ch = false →
          exec (.portCtrlWrite ch p v) s = become s (s.blk.answer abLevel)) ∧
        ((x.ctrl.expertMoves n = true → s.blk.expert ch = true) →
          ((n.mode = 3 ∨ n.bond = 3 ∨ (n.encap = true ∧ n.udpPort = 0#16)) →
            exec (.portCtrlWrite ch p v) s = become s (s.blk.answer abRange)) ∧
          (n.mode < 3 → n.bond < 3 → (n.encap = true → n.udpPort ≠ 0#16) →
            (x.ctrl.moves n = true → x.state ≠ .absent → x.state ≠ .down → x.state ≠ .safe →
              exec (.portCtrlWrite ch p v) s = become s (s.blk.answer abState)) ∧
            ((x.ctrl.moves n = true → x.idle = true) →
              exec (.portCtrlWrite ch p v) s = become s
                ((((s.blk.modPort p fun x => { x with ctrl := n }).each group fun b q => b.bondCheck q).each group
                  fun b q => b.autoUp q).answer 0))))))

/-- R247, R251, R253–R260, R405: a comb's loss unlocks every loop of its four ports, its return does not lock them; a reading is kept
for its frame; a loop's configuration and OPT_PORT are written, or refused with LEVEL, RANGE or STATE; a due calibration asks for the
next channel of its port's rotation; each stage of a calibration or an acquisition ends in the next one, in success or in failure,
after which the port may enter UP.
The model's choices: log 4, 82, 170, 171. -/
def Obligations.OpticsCommands : Prop :=
  ∀ (s : State) (p : Nat),
    let o := s.blk.optPort p
    let due := o.calAuto = true ∧ o.stage = .idle ∧ o.asked = false ∧ (s.blk.port p).cage.present = true
    (∀ c, Ready s (.combLost c) →
      (s.blk.optics.combs.getD c true = true →
        exec (.combLost c) s = become s ((Blk.raiseS { s.blk with
          optics := { s.blk.optics with combs := s.blk.optics.combs.put c false } } 0x53 0 none c).each
            ((List.range 4).map (4 * c + ·)) fun b p => (b.unlockLoops (loopsOfPort p)).relock p)) ∧
      (s.blk.optics.combs.getD c true = false → exec (.combLost c) s = become s s.blk)) ∧
    (∀ c, Ready s (.combLocked c) → exec (.combLocked c) s = become s { s.blk with
      optics := { s.blk.optics with combs := s.blk.optics.combs.put c true } }) ∧
    (∀ l code, Ready s (.adcReading l code) →
      exec (.adcReading l code) s = become s (s.blk.modLoop l fun x => { x with last := code, now := [code] })) ∧
    (∀ ch v, let l := (s.blk.sels ch).loop
      Asked s (.loopConfigWrite ch v) ch true →
      ((s.blk.optPort (l / 10)).calRuns = true → (s.blk.optPort (l / 10)).calCh = l % 10 / 2 →
        exec (.loopConfigWrite ch v) s = become s (s.blk.answer abState)) ∧
      (((s.blk.optPort (l / 10)).calRuns = true → (s.blk.optPort (l / 10)).calCh ≠ l % 10 / 2) →
        (lpMax v < lpMin v → exec (.loopConfigWrite ch v) s = become s (s.blk.answer abRange)) ∧
        (lpMin v ≤ lpMax v →
          exec (.loopConfigWrite ch v) s = become s
            ((s.blk.modLoop l fun x => { x with cfg := setFld v 1 4 (min 9 (lpInteg v)) &&& loopMask }).answer 0)))) ∧
    (∀ ch v, let q := (s.blk.sels ch).optPort
      Asked s (.calGo ch v) ch false →
      ((flag v 19 = true ∨ fld v 16 3 ≠ 0) → s.blk.expert ch = false →
        exec (.calGo ch v) s = become s (s.blk.answer abLevel)) ∧
      ((flag v 19 = true ∨ fld v 16 3 ≠ 0 → s.blk.expert ch = true) →
        (4 < fld v 16 3 → exec (.calGo ch v) s = become s (s.blk.answer abRange)) ∧
        (fld v 16 3 ≤ 4 →
          (flag v 19 = true → (s.blk.optPort q).stage ≠ .idle → exec (.calGo ch v) s = become s (s.blk.answer abState)) ∧
          (flag v 19 = true → (s.blk.optPort q).stage = .idle →
            exec (.calGo ch v) s = become s
              ((s.blk.modOptPort q fun o => { o with calAuto := flag v 15, asked := true, calCh := fld v 16 3 }).answer 0)) ∧
          (flag v 19 = false →
            exec (.calGo ch v) s = become s ((s.blk.modOptPort q fun o => { o with calAuto := flag v 15 }).answer 0))))) ∧
    (Ready s (.calDue p) →
      (due → exec (.calDue p) s = become s (s.blk.modOptPort p fun o => { o with
        asked := true,
        calCh := if (o.lastCh + 1) % 5 = o.spare then ((o.lastCh + 1) % 5 + 1) % 5 else (o.lastCh + 1) % 5 })) ∧
      (¬due → exec (.calDue p) s = become s s.blk)) ∧
    (Ready s (.calStageEnd p) →
      ((o.stage = .idle ∨ o.stage = .deferred ∨ (o.stage = .move ∧ o.frames = 0)) →
        exec (.calStageEnd p) s = become s (s.blk.autoUp p)) ∧
      (o.stage = .move → 0 < o.frames → exec (.calStageEnd p) s = become s ((s.blk.sweepBegin p).autoUp p)) ∧
      (o.stage = .fine → exec (.calStageEnd p) s = become s ((s.blk.fineEnd p).autoUp p)) ∧
      (o.stage = .sweep → ∃ b : Blk, exec (.calStageEnd p) s = become s (b.autoUp p) ∧
        (b.optPort p).stage = .fine ∧ (b.optPort p).frames = 0 ∧ { b with optics := s.blk.optics } = s.blk) ∧
      (o.stage = .verify → o.acquiring = false →
        (flag o.lockedCh o.calCh = true →
          exec (.calStageEnd p) s = become s (((s.blk.modOptPort p fun x => { x with
            spare := x.calCh, lastCh := x.calCh, lastEnd := s.blk.clk.frame, stage := .idle, frames := 0, saved := [],
            best := [], since := x.since.put x.calCh 16 }).raiseS 0x56 0 (some (s.blk.member.portTile p)) p o.calCh).autoUp p)) ∧
        (flag o.lockedCh o.calCh = false →
          exec (.calStageEnd p) s = become s (((s.blk.calAbort p).modOptPort p fun x => { x with
            spare := x.calCh, lastCh := x.calCh, lastEnd := s.blk.clk.frame }).autoUp p))) ∧
      (o.stage = .verify → o.acquiring = true →
        (4 ≤ o.lockedCount →
          exec (.calStageEnd p) s = become s ((s.blk.modOptPort p fun x => { x with
            stage := .idle, acquiring := false, resume := false, acqFails := 0, frames := 0 }).autoUp p)) ∧
        (o.lockedCount < 4 →
          (o.resume = true → exec (.calStageEnd p) s = become s ((s.blk.acquire p).autoUp p)) ∧
          (o.resume = false → o.acqFails = 0 →
            exec (.calStageEnd p) s = become s (((s.blk.modOptPort p fun x => { x with acqFails := 1 }).acquire p).autoUp p)) ∧
          (o.resume = false → o.acqFails ≠ 0 →
            exec (.calStageEnd p) s = become s (((s.blk.modOptPort p fun x => { x with
              stage := .idle, acquiring := false, acqFails := 0, frames := 0 }).raiseS 0x59 0
                (some (s.blk.member.portTile p)) p).autoUp p)))))

/-- R305–R311, R313, R314, R354–R356: a cluster or port command queues its transition, or is refused and counted; a launch in a
cluster whose FALLOW is accepted in the same mc is refused; FALLOW_ALL and WAKE_ALL take every unit that may; a stage starts when it is
ready and its step fits the window, by the slews from before a write of this mc, else nothing happens; a stage's end makes the next
ready, the last one's puts the unit in its state and lets the unit's next transition be ready; PWR_CTRL is written through the store.
The model's choices: log 44, 105, 174, 178. -/
def Obligations.PowerTransitions : Prop :=
  ∀ (s : State) (ch : Channel) (d i : Nat),
    let c := (s.blk.sels ch).cluster
    let refused := Blk.answer (s.blk.countSys evPwrRefused) abState
    let l := s.blk.power.queues.getD d []
    (Asked s (.clusterActive ch) ch true →
      (s.blk.clusterRefused c .active = false →
        exec (.clusterActive ch) s = become s ((s.blk.queueCluster c .active).answer 0)) ∧
      (s.blk.clusterRefused c .active = true → exec (.clusterActive ch) s = become s refused)) ∧
    (Asked s (.clusterFallow ch) ch true →
      (s.blk.clusterRefused c .fallow = false →
        exec (.clusterFallow ch) s = become s ((s.blk.fallowCluster c).answer 0)) ∧
      (s.blk.clusterRefused c .fallow = true → exec (.clusterFallow ch) s = become s refused)) ∧
    (Asked s (.clusterDeep ch) ch true →
      (s.blk.clusterRefused c .deep = false →
        exec (.clusterDeep ch) s = become s ((s.blk.queueCluster c .deep).answer 0)) ∧
      (s.blk.clusterRefused c .deep = true → exec (.clusterDeep ch) s = become s refused)) ∧
    (s.blk.mcLog.all (fun n => match n with
        | .launch _ t => decide (clusterOf t ≠ c)
        | _ => true) = true → s.blk.fallowCluster c = s.blk.queueCluster c .fallow) ∧
    (∀ p f, Asked s (.portPwrWrite ch p f) ch false →
      (s.blk.member.ports ≤ p → exec (.portPwrWrite ch p f) s = become s (s.blk.answer abNoIndex)) ∧
      (p < s.blk.member.ports →
        (((f = true ∧ (s.blk.port p).idle = false) ∨ s.blk.portMoving p = true) →
          exec (.portPwrWrite ch p f) s = become s refused) ∧
        (s.blk.portMoving p = false →
          (f = true → (s.blk.port p).idle = true →
            ((s.blk.port p).pwr = .fallow → exec (.portPwrWrite ch p f) s = become s (s.blk.answer 0)) ∧
            ((s.blk.port p).pwr = .on →
              exec (.portPwrWrite ch p f) s = become s (((s.blk.queuePort p .fallow).note (.portFallow p)).answer 0))) ∧
          (f = false →
            ((s.blk.port p).pwr = .on → exec (.portPwrWrite ch p f) s = become s (s.blk.answer 0)) ∧
            ((s.blk.port p).pwr = .fallow →
              exec (.portPwrWrite ch p f) s = become s ((s.blk.queuePort p .on).answer 0)))))) ∧
    (Asked s (.fallowAll ch) ch false →
      let cs := s.blk.member.clusters.filter fun c => s.blk.cluster c = .active && !s.blk.clusterMoving c
      (cs.all (fun c => s.blk.mayFallow c) = true →
        let b := s.blk.each cs fun b c => b.fallowCluster c
        exec (.fallowAll ch) s = become s
          ((b.each ((List.range b.member.ports).filter b.portMayFallow) fun b p =>
            (b.queuePort p .fallow).note (.portFallow p)).answer 0)) ∧
      (cs.all (fun c => s.blk.mayFallow c) = false → exec (.fallowAll ch) s = become s refused)) ∧
    (Asked s (.wakeAll ch) ch false →
      let b := s.blk.each (s.blk.member.clusters.filter fun c => !s.blk.clusterRefused c .active) fun b c =>
        b.queueCluster c .active
      exec (.wakeAll ch) s = become s
        ((b.each ((List.range b.member.ports).filter fun p => (b.port p).pwr = .fallow && !b.portMoving p) fun b p =>
          b.queuePort p .on).answer 0)) ∧
    (Ready s (.powerStageStart d i) →
      (l[i]? = none → exec (.powerStageStart d i) s = become s s.blk) ∧
      (∀ t, l[i]? = some t →
        (readyAtIndex l i = true → ((s.blk.recent d).map (·.2)).sum + t.step ≤ s.blk.slew d →
          exec (.powerStageStart d i) s = become s { s.blk with power := { s.blk.power with
            queues := s.blk.power.queues.put d (l.set i
              { t with running := true, waited := t.waited + (s.blk.clk.mc - t.readyAt) }),
            starts := s.blk.power.starts.put d (s.blk.recent d ++ [(s.blk.clk.mc, t.step)]) } }) ∧
        ((readyAtIndex l i = false ∨ s.blk.slew d < ((s.blk.recent d).map (·.2)).sum + t.step) →
          exec (.powerStageStart d i) s = become s s.blk))) ∧
    (Ready s (.powerStageEnd d i) →
      (l[i]? = none → exec (.powerStageEnd d i) s = become s s.blk) ∧
      (∀ t, l[i]? = some t →
        (t.running = false → exec (.powerStageEnd d i) s = become s s.blk) ∧
        (t.running = true →
          (t.ended + 1 < t.stages →
            exec (.powerStageEnd d i) s = become s { s.blk with power := { s.blk.power with
              queues := s.blk.power.queues.put d (l.set i
                { t with running := false, ended := t.ended + 1, readyAt := s.blk.clk.mc }) } }) ∧
          (t.stages ≤ t.ended + 1 →
            exec (.powerStageEnd d i) s = become s (Blk.unitDone { s.blk with power := { s.blk.power with
              queues := s.blk.power.queues.put d ((l.eraseIdx i).map fun u =>
                if u.unit.id = t.unit.id then { u with readyAt := s.blk.clk.mc } else u) } } t))))) ∧
    (∀ (v : BitVec 64), Asked s (.pwrCtrlWrite ch v) ch true →
      let w := s.blk.power.ofCtrl v.toNat
      (∀ b, s.blk.store psPwr (toBytes 8 w.ctrl) = some b →
        exec (.pwrCtrlWrite ch v) s = become s (Blk.answer { (b.note (.slews b.power.slews)) with power := w } 0)) ∧
      (s.blk.store psPwr (toBytes 8 w.ctrl) = none →
        exec (.pwrCtrlWrite ch v) s = become s (s.blk.answer abState)))

/-- R312, R313, R352, R408: the trip is taken in every stage but HELD: the latch is set, every queued transition and flash write goes,
SRAM and HBM are lost; nothing of a tripped block that needs its mesh acts; a trip in HELD stands until the release of power-on reset,
and a trip of a tripped block changes nothing.
The model's choices: log 18, 105, 106. -/
def Obligations.ThermalTrip : Prop :=
  ∀ s : State, Named s .thermalTrip →
    (s.trip.tripped = true → exec .thermalTrip s = .next s) ∧
    (s.trip.tripped = false → s.blk.fw.stage = .held →
      exec .thermalTrip s = .next { s with trip := { tripped := true, latch := true } }) ∧
    (s.trip.tripped = false → s.blk.fw.stage ≠ .held →
      ∃ t : State, exec .thermalTrip s = .next t ∧ t.trip = { tripped := true, latch := true } ∧ t.pending = s.pending ∧
        t.was = s.was ∧ t.blk.sram = [] ∧ t.blk.hbm = [] ∧ t.blk.power.queues = [] ∧ t.blk.power.testing = [] ∧
        t.blk.fw.flashStop = true ∧ t.blk.clk = s.blk.clk ∧
        (∀ i, (t.blk.tile i).oases = [] ∧ (t.blk.tile i).weights = none) ∧ t.live = false)

/-- R1, R288–R291, R336: a wear entry's WARN is cleared by writing 1 unless it was set in the same mc, its score stands; a library
entry with a fit image takes its value and the image's generation, another is RANGE; a rail fault fails its cluster; a retry counts 8
of wear, a retraining 256, neither for a link that does not cross dies; a retraining that fails on a link declares it failed.
The model's choices: log 111, 112. -/
def Obligations.WearAndLibrary : Prop :=
  ∀ (s : State) (ch : Channel) (port : Bool) (i : Nat),
    (∀ v, Asked s (.wearWrite ch v) ch false →
      let k := fld (s.blk.sels ch).wear 14 2
      let n := fld (s.blk.sels ch).wear 0 12
      (flag v 32 = true → s.blk.noted (.set (.wearWarn (4096 * k + n))) = false →
        exec (.wearWrite ch v) s = become s (Blk.answer { s.blk with fault := { s.blk.fault with
          wear := s.blk.fault.wear.put (4096 * k + n) ((s.blk.wearOf k n).1, false, (s.blk.wearOf k n).2.2) } } 0)) ∧
      ((flag v 32 = false ∨ s.blk.noted (.set (.wearWarn (4096 * k + n))) = true) →
        exec (.wearWrite ch v) s = become s (s.blk.answer 0))) ∧
    (∀ v, Asked s (.libraryWrite ch v) ch true →
      (lKind v ≤ 3 → (lValid v = true → s.blk.alternateOk (lImage v) = true) →
        exec (.libraryWrite ch v) s = become s (Blk.answer { s.blk with fault := { s.blk.fault with
          library := s.blk.fault.library.put (s.blk.sels ch).library
            (setFld v 48 16 (fld (imageHeader s.blk (lImage v)) 32 16)) } } 0)) ∧
      ((3 < lKind v ∨ (lValid v = true ∧ s.blk.alternateOk (lImage v) = false)) →
        exec (.libraryWrite ch v) s = become s (s.blk.answer abRange))) ∧
    (Ready s (.railFault i) → exec (.railFault i) s = become s (s.blk.declare fcCluster i)) ∧
    (s.blk.retryTile true i = some (s.blk.member.portTile i)) ∧
    (s.blk.retryTile false i = if s.blk.member.crossing (i / 4) (i % 4) then some (i / 4) else none) ∧
    (∀ t, s.blk.retryTile port i = some t →
      (Ready s (.linkRetry port i) →
        exec (.linkRetry port i) s = become s ((s.blk.count t evLinkRetry).addWear (if port then 2 else 1) i 8)) ∧
      (∀ f, Ready s (.linkRetrain port i f) →
        (f = true → port = false → exec (.linkRetrain port i f) s = become s
          (((s.blk.count t evLinkRetrain).addWear 1 i 256).declare fcLink i)) ∧
        ((f = false ∨ port = true) → exec (.linkRetrain port i f) s = become s
          ((s.blk.count t evLinkRetrain).addWear (if port then 2 else 1) i 256)))) ∧
    (s.blk.retryTile port i = none →
      (Ready s (.linkRetry port i) → exec (.linkRetry port i) s = become s s.blk) ∧
      (Ready s (.linkRetrain port i false) → exec (.linkRetrain port i false) s = become s s.blk) ∧
      (Ready s (.linkRetrain port i true) → exec (.linkRetrain port i true) s = become s (s.blk.declare fcLink i)))

/-- R263–R268, R270–R272, R282, R301: BIND, REBIND and TEARDOWN of the selected plot are checked and begun, or answer STATE with RESULT,
as plot 0 always does; zeroed tiles make the plot BOUND; a rebind's end gives it the map that was checked, its next generation and the
old map for grafts; the released tiles of a teardown start the scrubs once the plot's open transfers have ended; a scrub waits for the
transfers that were in flight at the cut, zeroes its range, and the last one of a plot in SCRUBBING frees it; an end that the plot's
state does not expect changes nothing.
The model's choices: log 94, 95, 96, 155, 163. -/
def Obligations.PlotLifecycle : Prop :=
  ∀ (s : State) (ch : Channel) (p : Nat),
    ((s.blk.sels ch).plot = 0 →
      let no := become s ((s.blk.plotResult 0 1).answer abState)
      (Asked s (.plotBind ch) ch false → exec (.plotBind ch) s = no) ∧
      (Asked s (.plotRebind ch) ch false → exec (.plotRebind ch) s = no) ∧
      (Asked s (.plotTeardown ch) ch false → exec (.plotTeardown ch) s = no)) ∧
    (p = (s.blk.sels ch).plot → p ≠ 0 →
      let x := s.blk.plot p
      let bad := fun (r : Nat) => become s ((s.blk.plotResult p r).answer abState)
      (Asked s (.plotBind ch) ch false →
        (0 < s.blk.bindCheck p x.cfg.tiles .free → s.blk.bindCheck p x.cfg.tiles .free < 256 →
          exec (.plotBind ch) s = bad (s.blk.bindCheck p x.cfg.tiles .free)) ∧
        (s.blk.bindCheck p x.cfg.tiles .free = 0 →
          ∃ b : Blk, exec (.plotBind ch) s = become s (b.answer 0) ∧
            (b.plot p).state = .binding ∧ (b.plot p).owned = x.cfg.tiles ∧ (b.plot p).keys = PlotKeys.fresh ∧
            (b.plot p).graft.gen = 0#16 ∧ (b.plot p).bindSerial = s.blk.bindCount + 1 ∧ b.bindCount = s.blk.bindCount + 1 ∧
            (∀ t ∈ tilesOf x.cfg.tiles, (b.tile t).zeroing = true) ∧ b.sram = s.blk.sram ∧ b.hbm = s.blk.hbm ∧
            (∀ q, q ≠ p → b.plot q = s.blk.plot q))) ∧
      (Asked s (.plotRebind ch) ch false →
        (0 < s.blk.bindCheck p x.cfg.tilesNext .bound → s.blk.bindCheck p x.cfg.tilesNext .bound < 256 →
          exec (.plotRebind ch) s = bad (s.blk.bindCheck p x.cfg.tilesNext .bound)) ∧
        (s.blk.bindCheck p x.cfg.tilesNext .bound = 0 →
          ∃ b : Blk, exec (.plotRebind ch) s = become s (b.answer 0) ∧ (b.plot p).state = .rebinding ∧
            (b.plot p).owned = x.owned ∧ (b.plot p).moving = x.cfg.tilesNext ∧ (b.plot p).colls = [] ∧ (b.plot p).graft.holding = false ∧
            (∀ t ∈ tilesOf x.cfg.tilesNext, flag x.owned t = false → (b.tile t).zeroing = true))) ∧
      (Asked s (.plotTeardown ch) ch false →
        (x.state ≠ .bound → exec (.plotTeardown ch) s = bad 1) ∧
        (x.state = .bound →
          ∃ b : Blk, exec (.plotTeardown ch) s = become s (b.answer 0) ∧ (b.plot p).state = .teardown ∧
            (b.plot p).colls = [] ∧ (b.plot p).host.doorbells = [] ∧ (b.plot p).graft.holding = false ∧
            (∀ e ∈ b.traf.sieve, svPlot e.2 = p → svValid e.2 = false)))) ∧
    (Ready s (.plotBindDone p) →
      ((s.blk.plot p).state = .binding →
        exec (.plotBindDone p) s = become s ((s.blk.each (tilesOf (s.blk.plot p).owned) Blk.zeroTile).plotTo p .bound)) ∧
      ((s.blk.plot p).state ≠ .binding → exec (.plotBindDone p) s = become s s.blk)) ∧
    (Ready s (.plotRebindDone p) → (s.blk.plot p).state ≠ .rebinding → exec (.plotRebindDone p) s = become s s.blk) ∧
    (Ready s (.plotRebindDone p) → (s.blk.plot p).state = .rebinding →
      ∃ b : Blk, exec (.plotRebindDone p) s = become s b ∧ (b.plot p).state = .bound ∧
        (b.plot p).owned = (s.blk.plot p).moving ∧ (b.plot p).cfg.tiles = (s.blk.plot p).moving ∧
        (b.plot p).graft.old = (s.blk.plot p).owned ∧
        (b.plot p).graft.gen = (s.blk.plot p).graft.gen + 1 ∧ (b.plot p).graft.holding = true ∧
        (b.plot p).bindSerial = s.blk.bindCount + 1 ∧ (b.plot p).keys.sealedFlag = false) ∧
    (Ready s (.teardownTilesReleased p) → ((s.blk.plot p).state ≠ .teardown ∨ s.blk.plotOpen p = true) →
      exec (.teardownTilesReleased p) s = become s s.blk) ∧
    (Ready s (.teardownTilesReleased p) → (s.blk.plot p).state = .teardown → s.blk.plotOpen p = false →
      ∃ b : Blk, exec (.teardownTilesReleased p) s = become s b ∧ (b.plot p).owned = 0#1024 ∧ (b.plot p).keys = PlotKeys.fresh ∧
        (b.plot p).host.dmaValid = false ∧ ((b.plot p).state = .scrubbing ∨ ((b.plot p).state = .free ∧ (b.plot p).scrubs = []))) ∧
    (∀ i, Ready s (.hbmScrubDone p i) →
      ((s.blk.plot p).scrubs[i]? = none → exec (.hbmScrubDone p i) s = become s s.blk) ∧
      (∀ r, (s.blk.plot p).scrubs[i]? = some r →
        (s.blk.cutOpen p r.1 = true → exec (.hbmScrubDone p i) s = become s s.blk) ∧
        (s.blk.cutOpen p r.1 = false → exec (.hbmScrubDone p i) s = become s
          ((({ s.blk with hbm := s.blk.hbm.zero (2 ^ 36 * r.1 + granule * r.2.1) (granule * r.2.2) } : Blk).modPlot p fun x =>
            { x with scrubs := x.scrubs.eraseIdx i }).scrubCheck p))))

/-- R1, R126, R263, R269, R272, R287, R301: a plot's configuration: each entry takes its value, or answers LENGTH, RANGE or STATE; STEAL
goes to the tiles that the plot owns too; a queue quota past 16 per tile of the member is RANGE, one below what is bound is told; HBM
ranges are free to change in FREE, and in BOUND by what each range's change may be, the freed runs being scrubbed; the graft map is
written while the plot is BOUND, and the end of its hold ends it.
The model's choices: log 97, 98, 154, 155. -/
def Obligations.PlotConfiguration : Prop :=
  ∀ (s : State) (ch : Channel),
    let p := (s.blk.sels ch).plot
    let x := s.blk.plot p
    let cfg := fun (c : PlotCfg) => become s ((s.blk.modPlot p fun x => { x with cfg := c }).answer 0)
    (∀ sub (xs : Bytes), Asked s (.plotConfigWrite ch sub xs) ch (sub = 0x10 || sub = 0x11) →
      (sub = 0x03 → xs.length = 128 → x.state = .free →
        exec (.plotConfigWrite ch sub xs) s = cfg { x.cfg with tiles := BitVec.ofNat 1024 (ofBytes xs) }) ∧
      (sub = 0x04 → xs.length = 1 → ofBytes xs ≤ 1 →
        exec (.plotConfigWrite ch sub xs) s = cfg { x.cfg with recovery := ofBytes xs = 1 }) ∧
      (sub = 0x06 → xs.length = 1 → ofBytes xs ≤ 1 →
        exec (.plotConfigWrite ch sub xs) s = become s (((s.blk.modPlot p fun y => { y with
          cfg := { x.cfg with stealEn := ofBytes xs = 1 } }).each ((List.range 1024).filter (s.blk.owns p)) fun b t =>
            b.modTile t fun z => { z with engCtrl := { z.engCtrl with stealEn := ofBytes xs = 1 } }).answer 0)) ∧
      (∀ n, (sub, n) ∈ [(0x03, 128), (0x04, 1), (0x06, 1), (0x09, 48), (0x0B, 128), (0x10, 4), (0x11, 4)] → xs.length ≠ n →
        exec (.plotConfigWrite ch sub xs) s = become s (s.blk.answer abLength)) ∧
      (((sub = 0x04 ∨ sub = 0x06) ∧ xs.length = 1 ∧ 1 < ofBytes xs) ∨ (sub = 0x11 ∧ xs.length = 4 ∧ 131072 < ofBytes xs) →
        exec (.plotConfigWrite ch sub xs) s = become s (s.blk.answer abRange)) ∧
      (sub ∉ [0x03, 0x04, 0x06, 0x09, 0x0B, 0x10, 0x11] →
        exec (.plotConfigWrite ch sub xs) s = become s (s.blk.answer abNoSub)) ∧
      (sub = 0x09 → xs.length = 48 → x.state = .free →
        exec (.plotConfigWrite ch sub xs) s = cfg { x.cfg with owner := xs }) ∧
      (sub = 0x0B → xs.length = 128 →
        exec (.plotConfigWrite ch sub xs) s = cfg { x.cfg with tilesNext := BitVec.ofNat 1024 (ofBytes xs) }) ∧
      (sub = 0x10 → xs.length = 4 →
        exec (.plotConfigWrite ch sub xs) s = cfg { x.cfg with rankBase := BitVec.ofNat 32 (ofBytes xs) }) ∧
      (sub = 0x11 → xs.length = 4 → ofBytes xs ≤ 131072 →
        exec (.plotConfigWrite ch sub xs) s = cfg { x.cfg with rankCount := BitVec.ofNat 32 (ofBytes xs) }) ∧
      ((sub = 0x03 ∨ sub = 0x09) → (sub = 0x03 → xs.length = 128) → (sub = 0x09 → xs.length = 48) → x.state ≠ .free →
        exec (.plotConfigWrite ch sub xs) s = become s (s.blk.answer abState))) ∧
    (∀ q, Asked s (.queueQuotaWrite ch q) ch false → 16 * s.blk.member.tileCount < q.toNat →
      exec (.queueQuotaWrite ch q) s = become s (s.blk.answer abRange)) ∧
    (∀ q, Asked s (.queueQuotaWrite ch q) ch false → q.toNat ≤ 16 * s.blk.member.tileCount →
      let b := s.blk.modPlot p fun x => { x with cfg := { x.cfg with queueQuota := q.toNat } }
      ((s.blk.bound p = true → s.blk.boundQueues p ≤ q.toNat) →
        exec (.queueQuotaWrite ch q) s = become s (b.answer 0)) ∧
      (s.blk.bound p = true → q.toNat < s.blk.boundQueues p →
        exec (.queueQuotaWrite ch q) s = become s ((b.raiseS 0x12 p none 1 0).answer 0))) ∧
    (∀ v, Asked s (.hbmRangeWrite ch v) ch false → p = 0 →
      exec (.hbmRangeWrite ch v) s = become s (s.blk.answer abState)) ∧
    (∀ v, Asked s (.hbmRangeWrite ch v) ch false → p ≠ 0 →
      (x.state = .free →
        exec (.hbmRangeWrite ch v) s = cfg { x.cfg with hbm := v &&& hbmMask }) ∧
      (x.state ≠ .free → x.state ≠ .bound → exec (.hbmRangeWrite ch v) s = become s (s.blk.answer abState)) ∧
      (x.state = .bound →
        let change := (List.range 4).mapM fun d => s.blk.rangeChange p d (x.cfg.range d) (rangeOf (v &&& hbmMask) d)
        (∀ a, change = .error a → exec (.hbmRangeWrite ch v) s = become s (s.blk.answer a)) ∧
        (∀ gone, change = .ok gone → ∃ b : Blk,
          exec (.hbmRangeWrite ch v) s = become s (b.answer 0) ∧ (b.plot p).cfg.hbm = v &&& hbmMask ∧
            (b.plot p).scrubs = x.scrubs ++ gone.flatten ∧ (∀ q, q ≠ p → b.plot q = s.blk.plot q) ∧ b.hbm = s.blk.hbm ∧
            (gone.flatten ≠ [] → (b.plot p).hbmOld = x.cfg.hbm ∧ (b.plot p).hbmCut = some s.blk.clk.mc)))) ∧
    (∀ d old new,
      ((old = new ∨ (old.2 = 0 ∧ new.2 = 0)) → s.blk.rangeChange p d old new = .ok []) ∧
      (old ≠ new → (old.2 ≠ 0 ∨ new.2 ≠ 0) → runIn old.1 old.2 new.1 new.2 = true →
        ((∃ r ∈ x.scrubs, r.1 = d) → s.blk.rangeChange p d old new = .error abState) ∧
        ((∀ r ∈ x.scrubs, r.1 ≠ d) →
          (new.2 = 0 → s.blk.rangeChange p d old new = .ok [(d, old.1, old.2)]) ∧
          (new.2 ≠ 0 → s.blk.rangeChange p d old new =
            .ok ([(d, old.1, new.1 - old.1), (d, new.1 + new.2, old.1 + old.2 - (new.1 + new.2))].filter fun r => 0 < r.2.2)))) ∧
      (runIn old.1 old.2 new.1 new.2 = false →
        (runIn new.1 new.2 old.1 old.2 = true → s.blk.hbmOk p d new.1 new.2 = true → s.blk.rangeChange p d old new = .ok []) ∧
        ((runIn new.1 new.2 old.1 old.2 = false ∨ s.blk.hbmOk p d new.1 new.2 = false) →
          s.blk.rangeChange p d old new = .error abRange))) ∧
    (∀ v, Asked s (.graftMapWrite ch v) ch true → s.blk.bound p = false →
      exec (.graftMapWrite ch v) s = become s (s.blk.answer abState)) ∧
    (∀ v, Asked s (.graftMapWrite ch v) ch true → s.blk.bound p = true →
      exec (.graftMapWrite ch v) s = become s ((s.blk.modPlot p fun x => { x with
        graft := { x.graft with map := x.graft.map.put (s.blk.sels ch).graft (v &&& 0x7FF#16) } }).answer 0)) ∧
    (∀ q, Ready s (.graftHoldEnd q) → exec (.graftHoldEnd q) s = become s (s.blk.modPlot q fun x =>
      { x with graft := { x.graft with holding := false } }))

/-- R5, R335, R336, R356, R372–R382, R384: the observation entries: a counter with an event of its own takes a value and what it counts
in the same mc; PMC_CFG waits for the tick, reads as last written and clears OVF at once unless OVF was set in the same mc; RAKE_K and
the bases take their values in range; a bin clear waits for the tick, a ring thaws but for a freeze of the same mc; TRACE_CTRL takes its
bits, a marker joins its port's queue; the rake's write-out ends with DONE and its event; an entry of a tile under self-test is STATE,
the page of an id that the member lacks is a bad access.
The model's choices: log 114, 115. -/
def Obligations.ObservationCommands : Prop :=
  ∀ (s : State) (ch : Channel),
    let t := (s.blk.sels ch).tile
    let e := (s.blk.sels ch).evsel
    let tested := s.blk.clusterTested (clusterOf t)
    let obs := fun (o : Obs) => become s (Blk.answer { s.blk with obs := o } 0)
    (∀ v, Asked s (.counterWrite ch v) ch false →
      (tested = false → hasFixed e = true → exec (.counterWrite ch v) s = become s
        ((s.blk.modOb t fun o => { o with ctr := o.ctr.put e (v + BitVec.ofNat 32 (o.adds.getD e 0)) }).answer 0)) ∧
      (tested = false → hasFixed e = false →
        exec (.counterWrite ch v) s = become s (s.blk.answer abRange)) ∧
      (tested = true → exec (.counterWrite ch v) s = become s (s.blk.answer abState))) ∧
    (∀ u i v, Ready s (.pmcCfgWrite u i v) → s.blk.member.hasTile u = true → i < 8 →
      exec (.pmcCfgWrite u i v) s = become s (s.blk.modOb u fun o => o.modPmc i fun x =>
        { x with pending := some (v &&& pmcMask),
                 cfg := if flag v 24 && !o.wraps.contains (1024 + i) then setFld x.cfg 24 1 0 else x.cfg })) ∧
    (∀ u i v, Up s (.pmcCfgWrite u i v) → s.blk.member.hasTile u = false →
      exec (.pmcCfgWrite u i v) s = become s (s.blk.countSys evBadAccess)) ∧
    (∀ (x : Pmc) w v, fld (x.write w v).word 0 12 = fld v 0 12 ∧ fld (x.write w v).word 16 8 = fld v 16 8) ∧
    (∀ v, Asked s (.rakeKWrite ch v) ch false →
      ((v.toNat = 0 ∨ (10 ≤ v.toNat ∧ v.toNat ≤ 24)) → exec (.rakeKWrite ch v) s = obs { s.blk.obs with
        rakeK := v.toNat, rakeSeq := if s.blk.obs.rakeK = 0 then 0 else s.blk.obs.rakeSeq }) ∧
      (v.toNat ≠ 0 → (v.toNat < 10 ∨ 24 < v.toNat) → exec (.rakeKWrite ch v) s = become s (s.blk.answer abRange))) ∧
    (∀ v, Asked s (.rakeBaseWrite ch v) ch false →
      (fld v 0 12 ≠ 0 → exec (.rakeBaseWrite ch v) s = become s (s.blk.answer abRange)) ∧
      (fld v 0 12 = 0 →
        (s.blk.obs.rakeK = 0 → exec (.rakeBaseWrite ch v) s = obs { s.blk.obs with rakeBase := v }) ∧
        (s.blk.obs.rakeK ≠ 0 → exec (.rakeBaseWrite ch v) s = become s (s.blk.answer abState)))) ∧
    (Ready s .rakeWriteOut →
      (s.blk.obs.rake = none → exec .rakeWriteOut s = become s s.blk) ∧
      (∀ i image, s.blk.obs.rake = some (i, image) →
        exec .rakeWriteOut s = become s (Blk.raiseS { (s.blk.each (image.drop 1 ++ image.take 1) fun b x =>
          b.writeHost x.1 x.2) with obs := { s.blk.obs with rake := none } } 0x80 0 none i))) ∧
    (Asked s (.histogramClear ch) ch false →
      (tested = false →
        exec (.histogramClear ch) s = become s ((s.blk.modOb t fun o => { o with histClear := true }).answer 0)) ∧
      (tested = true → exec (.histogramClear ch) s = become s (s.blk.answer abState))) ∧
    (∀ v, Asked s (.hangThaw ch v) ch true →
      (tested = true → exec (.hangThaw ch v) s = become s (s.blk.answer abState)) ∧
      (tested = false → flag v 0 = true → s.blk.noted (.set (.frozen t)) = false →
        exec (.hangThaw ch v) s = become s ((s.blk.modOb t fun o => { o with frozen := false }).answer 0)) ∧
      (tested = false → (flag v 0 = false ∨ s.blk.noted (.set (.frozen t)) = true) →
        exec (.hangThaw ch v) s = become s (s.blk.answer 0))) ∧
    (∀ v, Asked s (.hangBaseWrite ch v) ch true →
      (fld v 0 12 = 0 → exec (.hangBaseWrite ch v) s = obs { s.blk.obs with hangBase := v }) ∧
      (fld v 0 12 ≠ 0 → exec (.hangBaseWrite ch v) s = become s (s.blk.answer abRange))) ∧
    (∀ v, Asked s (.traceCtrlWrite ch v) ch true →
      let b : Blk := { s.blk with obs := { s.blk.obs with traceCtrl := v &&& 0x0F#8 } }
      exec (.traceCtrlWrite ch v) s = become s
        ((if flag v 0 = true ∧ flag s.blk.obs.traceCtrl 0 = false then b.traceTick else b).answer 0)) ∧
    (∀ xs : Bytes, let p := ofBytes (xs.take 1)
      Asked s (.markerSend ch xs) ch true →
      (s.blk.member.ports ≤ p → exec (.markerSend ch xs) s = become s (s.blk.answer abRange)) ∧
      (p < s.blk.member.ports →
        ((s.blk.port p).state = .up → exec (.markerSend ch xs) s = become s
          ((s.blk.enqueue p (s.blk.marker p (ofBytes ((xs.drop 4).take 4)) (ofBytes ((xs.drop 8).take 4)))).answer 0)) ∧
        ((s.blk.port p).state ≠ .up → exec (.markerSend ch xs) s = become s (s.blk.answer abState))))

/-- R13, R293–R298, R304: heartbeats go to every VALID member but this one, each handed to the admin sub-network for the port of its
lookup entry; a missed one is a suspicion, which starts a round or is held; a quorum DFP is checked in the order of R293; HEARTBEAT, VIEW
and COMMIT are taken in the running round or join a later one; the phases commit the failed set, decide it or go on; the group table
and FAILED are written, or answer RANGE, or STATE in a round; a member that rejoins has no fault any longer.
The model's choices: log 14, 83, 110, 167. -/
def Obligations.QuorumCommands : Prop :=
  ∀ (s : State) (ch : Channel),
    let q := s.blk.quorum
    (Ready s .heartbeatSend →
      (q.en = true → q.selfOut = false →
        exec .heartbeatSend s = become s (s.blk.qSendAll q.valid 1 0 q.maxRound 0#32)) ∧
      ((q.en = false ∨ q.selfOut = true) → exec .heartbeatSend s = become s s.blk)) ∧
    (∀ (b : Blk) m x,
      let b' : Blk := { b with quorum := { b.quorum with out := b.quorum.out ++ [(m, x)] } }
      let h := dfpHdr 5 0xFFFF 63 4 (qmCoord (b.quorum.member m)) b.self x.round.toNat 0 64
      (b.lookup 0 (fDst h) = none → b.qSend m x = b') ∧
      (∀ e p half c, b.lookup 0 (fDst h) = some e → lkKind e ≠ 3 → b'.egressOf 0 0 e = (p, half, true, c) →
        b.qSend m x = { c with quorum := { c.quorum with
          net := c.quorum.net ++ [(true, c.member.portTile p, toBytes 1 (bit half) ++ toBytes 32 h.toNat ++ x.bytes)] } })) ∧
    (∀ m, Ready s (.heartbeatMiss m) →
      let b : Blk := { s.blk with quorum := { q with held := q.held ||| BitVec.ofNat 32 (2 ^ m) } }
      let counts := q.en = true ∧ q.selfOut = false ∧ qmValid (q.member m) = true ∧ flag q.failed m = false ∧ m ≠ q.self
      (counts → q.cur = none → exec (.heartbeatMiss m) s = become s (b.qJoin (q.maxRound + 1) 0#32)) ∧
      (counts → q.cur ≠ none → exec (.heartbeatMiss m) s = become s b) ∧
      (¬counts → exec (.heartbeatMiss m) s = become s s.blk)) ∧
    (Ready s .quorumDfpReceive →
      (q.rawIn = [] → exec .quorumDfpReceive s = become s s.blk) ∧
      (∀ x rest, q.rawIn = x :: rest →
        let b : Blk := { s.blk with quorum := { q with rawIn := rest } }
        let member := x.sender < 32 ∧ qmValid (q.member x.sender) = true ∧ flag q.failed x.sender = false
        ((x.kind < 1 ∨ 3 < x.kind) → exec .quorumDfpReceive s = become s (b.countSys evQuorumBad)) ∧
        (1 ≤ x.kind → x.kind ≤ 3 →
          (x.group ≠ q.groupId → exec .quorumDfpReceive s = become s
            ((b.countSys evQuorumBad).raiseS 0x35 0 (some sysTile) x.round.toNat 0 x.sender)) ∧
          (x.group = q.groupId →
            (¬member → exec .quorumDfpReceive s = become s (b.countSys evQuorumBad)) ∧
            (member → (q.en = false ∨ q.selfOut = true) → exec .quorumDfpReceive s = become s b) ∧
            (member → q.en = true → q.selfOut = false →
              exec .quorumDfpReceive s = become s { s.blk with quorum := { q with
                rawIn := rest, good := q.good ++ [x], held := q.held &&& ~~~BitVec.ofNat 32 (2 ^ x.sender) } }))))) ∧
    (Ready s .heartbeat →
      (s.blk.takeGood 1 = none → exec .heartbeat s = become s s.blk) ∧
      (∀ x b, s.blk.takeGood 1 = some (x, b) →
        exec .heartbeat s = become s { b with quorum := { b.quorum with
          maxRound := if b.quorum.maxRound.toNat < x.round.toNat then x.round else b.quorum.maxRound } })) ∧
    (Ready s .view →
      (s.blk.takeGood 2 = none → exec .view s = become s s.blk) ∧
      (∀ x b, s.blk.takeGood 2 = some (x, b) →
        (x.round.toNat ≤ b.quorum.round.toNat →
          (b.quorum.cur = none → exec .view s = become s b) ∧
          (∀ rd, b.quorum.cur = some rd →
            (rd.number = x.round → exec .view s = become s { b with quorum := { b.quorum with
              cur := some { rd with views := rd.views.put x.sender x.set } } }) ∧
            (rd.number ≠ x.round → exec .view s = become s b))) ∧
        (b.quorum.round.toNat < x.round.toNat →
          exec .view s = become s ((b.qJoin x.round x.set).inRound x.round fun rd =>
            { rd with views := rd.views.put x.sender x.set })))) ∧
    (Ready s .commit →
      (s.blk.takeGood 3 = none → exec .commit s = become s s.blk) ∧
      (∀ x b, s.blk.takeGood 3 = some (x, b) →
        let takes := fun (rd : Round) => if x.pass = 2 then { rd with commit2 := rd.commit2.put x.sender x.set }
          else { rd with commit1 := rd.commit1.put x.sender x.set }
        (x.round.toNat ≤ b.quorum.round.toNat →
          (b.quorum.cur = none → exec .commit s = become s b) ∧
          (∀ rd, b.quorum.cur = some rd →
            (rd.number = x.round →
              exec .commit s = become s { b with quorum := { b.quorum with cur := some (takes rd) } }) ∧
            (rd.number ≠ x.round → exec .commit s = become s b))) ∧
        (b.quorum.round.toNat < x.round.toNat →
          exec .commit s = become s ((b.qJoin x.round x.set).inRound x.round takes)))) ∧
    (q.cur = none →
      (Ready s .quorumPhase1End → exec .quorumPhase1End s = become s s.blk) ∧
      (Ready s .quorumPhase2End → exec .quorumPhase2End s = become s s.blk) ∧
      (Ready s .quorumPhase3End → exec .quorumPhase3End s = become s s.blk)) ∧
    (∀ rd, q.cur = some rd →
      (Ready s .quorumPhase1End →
        (rd.phase ≠ 1 → exec .quorumPhase1End s = become s s.blk) ∧
        (rd.phase = 1 → exec .quorumPhase1End s = become s
          (s.blk.sendCommit { rd with f := unionOf rd.views ||| rd.v ||| q.silent rd.views } 1))) ∧
      (Ready s .quorumPhase2End →
        (rd.phase ≠ 2 → exec .quorumPhase2End s = become s s.blk) ∧
        (rd.phase = 2 → q.decides rd.commit1 rd.f = true → exec .quorumPhase2End s = become s (s.blk.decide_ rd)) ∧
        (rd.phase = 2 → q.decides rd.commit1 rd.f = false → exec .quorumPhase2End s = become s (s.blk.sendCommit
          { rd with f := rd.f ||| (unionOf rd.commit1 ||| unionOf rd.commit2) ||| (q.silent rd.commit1 &&& q.silent rd.commit2) }
          2))) ∧
      (Ready s .quorumPhase3End →
        (rd.phase ≠ 3 → exec .quorumPhase3End s = become s s.blk) ∧
        (rd.phase = 3 → q.decides rd.commit2 rd.f = true → exec .quorumPhase3End s = become s (s.blk.decide_ rd)) ∧
        (rd.phase = 3 → q.decides rd.commit2 rd.f = false → exec .quorumPhase3End s = become s (s.blk.noQuorum rd)))) ∧
    (∀ sub (v : BitVec 64), Asked s (.quorumGroupWrite ch sub v) ch (0x02 ≤ sub && sub ≤ 0x07) →
      let now := exec (.quorumGroupWrite ch sub v) s
      let set := fun (q : Quorum) => become s (Blk.answer { s.blk with quorum := q } 0)
      let range := become s (s.blk.answer abRange)
      let n := v.toNat
      (sub = 0x01 →
        (1 < n → now = range) ∧
        (n = 1 → now = set { q with en := true, selfOut := q.selfOut && q.en }) ∧
        (n = 0 → q.cur = none → now = set { q with en := false, cur := none, held := 0#32 }) ∧
        (∀ rd, n = 0 → q.cur = some rd → now = become s ((Blk.raiseS { s.blk with
          quorum := { q with en := false, cur := none, held := 0#32 } } 0x33 0 none rd.number.toNat 2 rd.f.toNat).answer 0))) ∧
      (q.cur ≠ none → 2 ≤ sub → sub ≤ 7 → now = become s (s.blk.answer abState)) ∧
      (q.cur = none →
        (sub = 0x02 → n < 32 → qmCoord (q.member n) = s.blk.self → now = set { q with self := n }) ∧
        (sub = 0x02 → (32 ≤ n ∨ qmCoord (q.member n) ≠ s.blk.self) → now = range) ∧
        (sub = 0x03 → 10 ≤ n → n ≤ 500 → now = set { q with hbInterval := n }) ∧
        (sub = 0x03 → (n < 10 ∨ 500 < n) → now = range) ∧
        (sub = 0x04 → 2 ≤ n → n ≤ 16 → now = set { q with hbMiss := n }) ∧
        (sub = 0x04 → (n < 2 ∨ 16 < n) → now = range) ∧
        (sub = 0x05 → 100 ≤ n → n ≤ 400 → now = set { q with phase := n }) ∧
        (sub = 0x05 → (n < 100 ∨ 400 < n) → now = range) ∧
        (sub = 0x06 → n < 32 → now = become s ((s.blk.modSels ch fun x => { x with member := n }).answer 0)) ∧
        (sub = 0x06 → 32 ≤ n → now = range) ∧
        (sub = 0x07 → now = set { q with
          members := q.members.put (s.blk.sels ch).member (BitVec.ofNat 64 (n % 2 ^ 41)) })) ∧
      (sub = 0x0A → now = become s ((s.blk.rejoined (BitVec.ofNat 32 n)).answer 0)) ∧
      (sub ∉ [0x01, 0x02, 0x03, 0x04, 0x05, 0x06, 0x07, 0x0A] → now = become s (s.blk.answer abNoSub))) ∧
    (∀ m, Asked s (.rejoin ch m) ch false → exec (.rejoin ch m) s = become s
      (((setMembers m).foldl (fun (b : Blk) i => b.undeclare fcPeer i)
        { s.blk with quorum := { q with failed := q.failed &&& ~~~m } }).answer 0))

/-- R4, R274–R276, R284, R285: a report is the 448 bytes for the plot and nonce that the channel asked for; the negotiation steps
follow each other; certificate and digest are slot 0's; KEY_EXCHANGE, CHALLENGE and measurements but the report draw random bits: they
are answered while the source is good, wait while it restarts and are BUSY when it is dead; a session is established by FINISH and ends
with its claim; a request that the vault does not support, or out of order, gets its ERROR; a health failure restarts the source, the
third one within 1 s of the mesh clock in use ends it; the oldest waiting request fails after its wait.
The model's choices: log 3, 108, 123. -/
def Obligations.SpdmRequests : Prop :=
  ∀ (s : State) (ch : Channel) (i : Nat) (nonce : Bytes),
    let v := s.blk.vault
    let ready := s.blk.vault.identity = true ∧ s.blk.vault.rng = .ok ∧ 3 ≤ s.blk.negotiated ch
    let early := become s (s.blk.spdmErr spUnexpected)
    let claim := ((s.blk.session? i).bind (·.claim)).getD 0
    (Asked s (.attestReport ch) ch false → v.identity = true →
      exec (.attestReport ch) s = become s (s.blk.answer 0 (s.blk.report (v.reportReq.getD (chNum ch) (0, [])).1
        (v.reportReq.getD (chNum ch) (0, [])).2))) ∧
    (Asked s (.attestReport ch) ch false → v.identity = false →
      exec (.attestReport ch) s = become s (s.blk.answer abState)) ∧
    (Served s (.getVersion ch) → exec (.getVersion ch) s = become s ((s.blk.setNegotiated ch 1).spdmOk 0x04 0)) ∧
    (Served s (.getCapabilities ch) →
      (1 ≤ s.blk.negotiated ch →
        exec (.getCapabilities ch) s = become s ((s.blk.setNegotiated ch 2).spdmOk 0x61 0)) ∧
      (s.blk.negotiated ch = 0 → exec (.getCapabilities ch) s = early)) ∧
    (Served s (.negotiateAlgorithms ch) →
      (2 ≤ s.blk.negotiated ch →
        exec (.negotiateAlgorithms ch) s = become s ((s.blk.setNegotiated ch 3).spdmOk 0x63 0)) ∧
      (s.blk.negotiated ch < 2 → exec (.negotiateAlgorithms ch) s = early)) ∧
    (Served s (.getDigests ch) →
      (3 ≤ s.blk.negotiated ch →
        exec (.getDigests ch) s = become s (s.blk.vaultSay 0 0x01 (padTo 48 (Config.sha384 s.blk.fw.cert)))) ∧
      (s.blk.negotiated ch < 3 → exec (.getDigests ch) s = early)) ∧
    (∀ off len, Served s (.getCertificate ch off len) →
      (3 ≤ s.blk.negotiated ch → exec (.getCertificate ch off len) s = become s (s.blk.vaultSay 0 0x02
        (toBytes 2 ((s.blk.fw.cert.drop off).take len).length ++
          toBytes 2 (s.blk.fw.cert.length - off - ((s.blk.fw.cert.drop off).take len).length) ++
          (s.blk.fw.cert.drop off).take len))) ∧
      (s.blk.negotiated ch < 3 → exec (.getCertificate ch off len) s = early)) ∧
    (Served s (.challenge ch nonce) → ready →
      exec (.challenge ch nonce) s = become s (s.blk.draw.spdmOk 0x03 0 (nonce ++ s.blk.random))) ∧
    (Served s (.getMeasurements ch (some i) 0x80 nonce) → 3 ≤ s.blk.negotiated ch → v.identity = true →
      exec (.getMeasurements ch (some i) 0x80 nonce) s = become s (s.blk.vaultSay 0 0x60 (s.blk.report claim nonce))) ∧
    (Served s (.getMeasurements ch none 0x80 nonce) → 3 ≤ s.blk.negotiated ch → v.identity = true →
      exec (.getMeasurements ch none 0x80 nonce) s = become s (s.blk.vaultSay 0 0x60 (s.blk.report 0 nonce))) ∧
    (∀ session n, Served s (.getMeasurements ch session n nonce) → ready → n ≠ 0x80 →
      exec (.getMeasurements ch session n nonce) s = become s
        (s.blk.draw.spdmOk 0x60 (session.getD 0) (toBytes 1 n ++ nonce ++ s.blk.random))) ∧
    (∀ j, Served s (.keyExchange ch) → ready → s.blk.freeSession = some j →
      exec (.keyExchange ch) s = become s
        ((s.blk.draw.setSession j { ch := ch, established := false, mutualHash := none, claim := none }).spdmOk 0x64 j
          s.blk.random)) ∧
    (Served s (.keyExchange ch) → ready → s.blk.freeSession = none →
      exec (.keyExchange ch) s = become s (s.blk.spdmErr spSessionLimit)) ∧
    (∀ c job, (c, job) ∈ [(Instr.challenge ch nonce, VaultJob.challenge nonce), (.keyExchange ch, .keyExchange)] →
      Served s c →
      (s.blk.negotiated ch < 3 → exec c s = early) ∧
      (3 ≤ s.blk.negotiated ch → v.rng = .dead → exec c s = become s (s.blk.spdmErr spBusy)) ∧
      (3 ≤ s.blk.negotiated ch → v.rng = .restarting →
        exec c s = become s { s.blk with vault := { v with rngWait := v.rngWait ++ [(ch, job)] } })) ∧
    (v.identity = false → v.rng = .ok → 3 ≤ s.blk.negotiated ch →
      (Served s (.challenge ch nonce) → exec (.challenge ch nonce) s = become s (s.blk.spdmErr spUnspecified)) ∧
      (Served s (.keyExchange ch) → exec (.keyExchange ch) s = become s (s.blk.spdmErr spUnspecified)) ∧
      (∀ session n, Served s (.getMeasurements ch session n nonce) →
        exec (.getMeasurements ch session n nonce) s = become s (s.blk.spdmErr spUnspecified))) ∧
    (∀ x, s.blk.session? i = some x →
      (∀ key : Option Bytes, Served s (.finish i key) →
        (x.established = false →
          exec (.finish i key) s = become s ((s.blk.setSession i
            { x with established := true, mutualHash := key.map fun k => padTo 48 (Config.sha384 k) }).spdmOk 0x65 i)) ∧
        (x.established = true → exec (.finish i key) s = early)) ∧
      (x.established = true →
        (Served s (.heartbeatSpdm i) → exec (.heartbeatSpdm i) s = become s (s.blk.spdmOk 0x68 i)) ∧
        (Served s (.keyUpdate i) → exec (.keyUpdate i) s = become s (s.blk.spdmOk 0x69 i)) ∧
        (Served s (.endSession i) → exec (.endSession i) s = become s
          (Blk.spdmOk { s.blk with vault := { v with sessions := v.sessions.del i } } 0x6C i)))) ∧
    ((s.blk.session? i = none ∨ ∃ x, s.blk.session? i = some x ∧ x.established = false) →
      (Served s (.heartbeatSpdm i) → exec (.heartbeatSpdm i) s = early) ∧
      (Served s (.keyUpdate i) → exec (.keyUpdate i) s = early) ∧
      (Served s (.endSession i) → exec (.endSession i) s = early)) ∧
    (∀ key : Option Bytes, Served s (.finish i key) → s.blk.session? i = none → exec (.finish i key) s = early) ∧
    (∀ code, Served s (.spdmUnsupportedRequest ch code) →
      exec (.spdmUnsupportedRequest ch code) s = become s (s.blk.spdmErr spUnsupported)) ∧
    (∀ (first last : Bool) (part : Bytes), Served s (.chunkedTransfer ch first last part) →
      exec (.chunkedTransfer ch first last part) s = become s
        (Blk.spdmOk { s.blk with vault := { v with chunk := (if first then [] else v.chunk) ++ part } } 0x05
          (if last then 1 else 0) part)) ∧
    (∀ test, Up s (.rngHealth test) →
      let fails := (v.rngFails ++ [s.blk.clk.mc]).filter fun m => s.blk.clk.mc - m < s.blk.mcOf 1000000000
      (v.rng = .dead → exec (.rngHealth test) s = become s (s.blk.raiseS 0x61 0 none test.toNat)) ∧
      (v.rng ≠ .dead → fails.length < 3 → exec (.rngHealth test) s = become s (let b := s.blk.raiseS 0x61 0 none test.toNat
        { b with vault := { b.vault with rng := .restarting, rngFails := fails } })) ∧
      (v.rng ≠ .dead → 3 ≤ fails.length →
        ∃ b : Blk, exec (.rngHealth test) s = become s b ∧ b.vault.rng = .dead ∧ b.vault.rngWait = [])) ∧
    (Up s .rngRestartPass →
      (v.rng = .restarting →
        exec .rngRestartPass s = become s (Blk.each { s.blk with vault := { v with rng := .ok, rngWait := [] } } v.rngWait
          fun b w => b.vaultRun w.1 w.2)) ∧
      (v.rng ≠ .restarting → exec .rngRestartPass s = become s s.blk)) ∧
    (Up s .rngWaitTimeout →
      (v.rngWait = [] → exec .rngWaitTimeout s = become s s.blk) ∧
      (∀ w ws, v.rngWait = w :: ws →
        exec .rngWaitTimeout s = become s (Blk.spdmErr { s.blk with vault := { v with rngWait := ws } } spBusy)))

/-- R276, R278, R279, R328: in a mutually authenticated session PLOT_CLAIM takes a BOUND plot of the same owner; with a claim KEY_SET
makes a phase LIVE with its counters at 0, TX_PHASE and SEC_FLAGS wait for the tick (NO_DEBUG stays once set), PHASE_RETIRE begins a
hold, whose end erases the key; a request outside such a session, or without a claim, is STATE.
The model's choices: log 108. -/
def Obligations.TenantKeys : Prop :=
  ∀ (s : State) (i p : Nat) (ph : Bool) (x : Session) (h : Bytes),
    (s.blk.session? i = some x → x.established = true → x.mutualHash = some h →
      (Served s (.plotClaim i p) →
        (s.blk.bound p = true → h = (s.blk.plot p).cfg.owner → h.any (fun y => y ≠ 0#8) = true →
          exec (.plotClaim i p) s = become s ((s.blk.setSession i { x with claim := some p }).vendor 0x00)) ∧
        ((s.blk.bound p = false ∨ h ≠ (s.blk.plot p).cfg.owner ∨ h.any (fun y => y ≠ 0#8) = false) →
          exec (.plotClaim i p) s = become s (s.blk.vendor 0x01))) ∧
      (x.claim = some p →
        let k := (s.blk.plot p).keys
        (∀ key : Bytes, Served s (.keySet i ph key) →
          (key.length = 32 → (k.phase ph = .empty ∨ k.phase ph = .retired) →
            exec (.keySet i ph key) s = become s
              (((s.blk.modKeys p fun k => k.setPhase ph .live (some key)).zeroPktNum p ph).vendor 0x00)) ∧
          (key.length = 32 → (k.phase ph = .live ∨ k.phase ph = .retiring) →
            exec (.keySet i ph key) s = become s (s.blk.vendor 0x02)) ∧
          (key.length ≠ 32 → exec (.keySet i ph key) s = become s (s.blk.vendor 0x03))) ∧
        (Served s (.txPhase i ph) →
          (k.phase ph = .live → exec (.txPhase i ph) s = become s
            ((s.blk.modKeys p fun k => { k with txNext := some ph }).vendor 0x00)) ∧
          (k.phase ph ≠ .live → exec (.txPhase i ph) s = become s (s.blk.vendor 0x02))) ∧
        (∀ hold, Served s (.phaseRetire i ph hold) → (hold = 0 ∨ 65535 < hold) →
          exec (.phaseRetire i ph hold) s = become s (s.blk.vendor 0x03)) ∧
        (∀ hold, Served s (.phaseRetire i ph hold) → 0 < hold → hold ≤ 65535 →
          (k.phase ph = .live → k.tx ≠ ph → k.txNext ≠ some ph →
            exec (.phaseRetire i ph hold) s = become s
              ((s.blk.modKeys p fun k => k.setPhase ph .retiring (k.keyOf ph)).vendor 0x00)) ∧
          ((k.phase ph ≠ .live ∨ k.tx = ph ∨ k.txNext = some ph) →
            exec (.phaseRetire i ph hold) s = become s (s.blk.vendor 0x02))) ∧
        (∀ f, Served s (.secFlags i f) →
          ∃ b, exec (.secFlags i f) s = become s (b.vendor 0x00) ∧ ∃ n, (b.plot p).keys.secNext = some n ∧
            n.txEnc = flag f 0 ∧ n.requireEnc = flag f 1 ∧ (flag f 2 = true → n.noDebug = true) ∧
            (k.sec.noDebug = true → n.noDebug = true) ∧ b = s.blk.modKeys p fun k => { k with secNext := some n }))) ∧
    (Up s (.phaseHoldEnd p ph) →
      ((s.blk.plot p).keys.phase ph = .retiring →
        exec (.phaseHoldEnd p ph) s = become s (s.blk.modKeys p fun k => k.setPhase ph .retired none)) ∧
      ((s.blk.plot p).keys.phase ph ≠ .retiring → exec (.phaseHoldEnd p ph) s = become s s.blk)) ∧
    ((s.blk.session? i = none ∨
        ∃ x, s.blk.session? i = some x ∧ (x.established = false ∨ x.mutualHash = none)) →
      (Served s (.plotClaim i p) → exec (.plotClaim i p) s = become s (s.blk.vendor 0x02))) ∧
    ((s.blk.session? i = none ∨
        ∃ x, s.blk.session? i = some x ∧ (x.established = false ∨ x.mutualHash = none ∨ x.claim = none)) →
      (∀ key, Served s (.keySet i ph key) → exec (.keySet i ph key) s = become s (s.blk.vendor 0x02)) ∧
      (Served s (.txPhase i ph) → exec (.txPhase i ph) s = become s (s.blk.vendor 0x02)) ∧
      (∀ hold, Served s (.phaseRetire i ph hold) → exec (.phaseRetire i ph hold) s = become s (s.blk.vendor 0x02)) ∧
      (∀ f, Served s (.secFlags i f) → exec (.secFlags i f) s = become s (s.blk.vendor 0x02)))

/-- R277, R280–R282, R338, R341, R400: the IDE manager's session queries and programs key sets through the key port, which carries one
command at a time; another session, a fourth stream or an empty set is refused; the engine's answer gives the set its state; IDE_MANAGER
is written on the mailbox while no set is programmed; an unwrap request is queued behind at most four, the fifth is BUSY, one of a plot
that is not bound a bad access; the one in progress ends and the next begins.
The model's choices: log 3, 108, 109. -/
def Obligations.VaultCommands : Prop :=
  ∀ (s : State) (i : Nat) (id : IdeKeyId),
    let v := s.blk.vault
    let put := fun (c : IdeCmd) => become s { s.blk with vault := { v with idePort := some c } }
    let err := become s s.blk.ideErr
    let busy := become s (s.blk.spdmErr spBusy)
    (Served s (.query i) → s.blk.ideManager i = true →
      exec (.query i) s = become s (s.blk.vaultSay 3 1 (Config.spdmBody 1 i []))) ∧
    (s.blk.ideManager i = false →
      (Served s (.query i) → exec (.query i) s = err) ∧
      (∀ key iv, Served s (.keyProg i id key iv) → exec (.keyProg i id key iv) s = err) ∧
      (Served s (.kSetGo i id) → exec (.kSetGo i id) s = err) ∧
      (Served s (.kSetStop i id) → exec (.kSetStop i id) s = err)) ∧
    (s.blk.ideManager i = true →
      (∀ key iv, Served s (.keyProg i id key iv) →
        (s.blk.ideStream id = false → exec (.keyProg i id key iv) s = err) ∧
        (s.blk.ideStream id = true → v.idePort = none →
          exec (.keyProg i id key iv) s = put { cmd := 0, id := id, key := key, iv := iv }) ∧
        (s.blk.ideStream id = true → v.idePort ≠ none → exec (.keyProg i id key iv) s = busy)) ∧
      (Served s (.kSetGo i id) →
        (s.blk.ideState id = .empty → exec (.kSetGo i id) s = err) ∧
        (s.blk.ideState id ≠ .empty → v.idePort = none →
          exec (.kSetGo i id) s = put { cmd := 1, id := id, key := 0#256, iv := 0#64 }) ∧
        (s.blk.ideState id ≠ .empty → v.idePort ≠ none → exec (.kSetGo i id) s = busy)) ∧
      (Served s (.kSetStop i id) →
        (s.blk.ideState id = .empty → exec (.kSetStop i id) s = err) ∧
        (s.blk.ideState id ≠ .empty → v.idePort = none →
          exec (.kSetStop i id) s = put { cmd := 2, id := id, key := 0#256, iv := 0#64 }) ∧
        (s.blk.ideState id ≠ .empty → v.idePort ≠ none → exec (.kSetStop i id) s = busy))) ∧
    (v.idePort = none → ∀ ack, Up s (.ideAnswer ack) → exec (.ideAnswer ack) s = become s s.blk) ∧
    (∀ c, v.idePort = some c →
      let b : Blk := { s.blk with vault := { v with idePort := none } }
      (Up s (.ideAnswer true) → exec (.ideAnswer true) s = become s
        ((b.setIde c.id (if c.cmd = 0 then .programmed else if c.cmd = 1 then .active else .empty)).vaultSay 3 (c.cmd + 2) [])) ∧
      (Up s (.ideAnswer false) → exec (.ideAnswer false) s = become s b.ideErr)) ∧
    (∀ ch (xs : Bytes), Asked s (.ideManagerWrite ch xs) ch true →
      (xs.length ≠ 48 → exec (.ideManagerWrite ch xs) s = become s (s.blk.answer abLength)) ∧
      (xs.length = 48 → (ch ≠ .mailbox ∨ v.ide ≠ [] ∨ s.blk.store psIde xs = none) →
        exec (.ideManagerWrite ch xs) s = become s (s.blk.answer abState)) ∧
      (∀ b, xs.length = 48 → ch = .mailbox → v.ide = [] → s.blk.store psIde xs = some b →
        exec (.ideManagerWrite ch xs) s = become s (Blk.answer { b with vault := { b.vault with ideMgr := xs } } 0))) ∧
    (∀ p w, Ready s (.capsuleUnwrap p w) → (s.blk.bound p = false ∨ p = 0) →
      exec (.capsuleUnwrap p w) s = become s (s.blk.countSys evBadAccess)) ∧
    (∀ p w, Ready s (.capsuleUnwrap p w) → s.blk.bound p = true → p ≠ 0 →
      let c : CapReq := { plot := p, offset := fld w 0 32, tile := fld w 32 10, sram := fld w 64 21, verdict := 0, len := 0 }
      (v.capQ = [] → exec (.capsuleUnwrap p w) s = become s (Blk.capBegin { s.blk with vault := { v with capQ := [c] } })) ∧
      (0 < v.capQ.length → v.capQ.length ≤ 4 →
        exec (.capsuleUnwrap p w) s = become s { s.blk with vault := { v with capQ := v.capQ ++ [c] } }) ∧
      (4 < v.capQ.length → exec (.capsuleUnwrap p w) s = become s (s.blk.capEvent p 6 []))) ∧
    (Ready s .capsuleDone →
      (v.capQ = [] → exec .capsuleDone s = become s s.blk) ∧
      (∀ c rest, v.capQ = c :: rest →
        let b : Blk := { s.blk with vault := { v with capQ := rest } }
        (c.verdict = 0 → exec .capsuleDone s = become s
          (((b.capOpen c).1.capEvent c.plot (b.capOpen c).2.1 (b.capOpen c).2.2).capBegin)) ∧
        (c.verdict ≠ 0 → exec .capsuleDone s = become s
          ((b.capEvent c.plot c.verdict (((b.plotHbm c.plot c.offset 256).map cpId).getD [])).capBegin))))

/-- R284, R312, R353, R361, R364, R386, R388, R408: power-on reset holds the block and clears the latch; its release and a warm reset
start stage 1 with the state of reset but for the mesh clock's setting, flash, OTP and host memory, in which the events raised before
stand, and with the random source seeded anew; a release under a trip that stands starts it TRIPPED; a warm reset keeps TRIP_LATCH; the
queue stands; a release of a block that is not held, and a warm reset of one that is, change nothing; RESTART asks for a warm reset, in
RECOVERY too.
The model's choices: log 18, 107. -/
def Obligations.Resets : Prop :=
  ∀ (s : State) (ch : Channel),
    let fresh := fun (st : BootStage) =>
      Blk.after s.blk.member s.blk.meshKhz (s.blk.vault.seeds + 1) (s.blk.fw.restarted st) s.blk.postEvents.host.mem
    (Named s .porAssert → exec .porAssert s = .next { s with
      trip := { tripped := false, latch := false }, blk := fresh .held, was := fresh .held }) ∧
    (Named s .porRelease →
      (s.blk.fw.stage = .held → s.trip.tripped = false →
        exec .porRelease s = .next { s with blk := fresh (.stage 1), was := fresh (.stage 1) }) ∧
      (s.blk.fw.stage = .held → s.trip.tripped = true →
        exec .porRelease s = .next { s with blk := (fresh (.stage 1)).trip, was := (fresh (.stage 1)).trip }) ∧
      (s.blk.fw.stage ≠ .held → exec .porRelease s = .next s)) ∧
    (Named s .warmReset →
      (s.blk.fw.stage ≠ .held → exec .warmReset s = .next { s with
        trip := { tripped := false, latch := s.trip.latch }, blk := fresh (.stage 1), was := fresh (.stage 1) }) ∧
      (s.blk.fw.stage = .held → exec .warmReset s = .next s)) ∧
    ((Asked s (.restart ch) ch false ∨ (Named s (.restart ch) ∧ s.blk.fw.stage = .recovery ∧ ch = .mailbox)) →
      exec (.restart ch) s = become s (Blk.answer { s.blk with fw := { s.blk.fw with restartDue := true } } 0))

/-- R273, R284, R285, R352–R356, R360, R365, R408: the stages of start-up follow each other, the first one not before the random source's
start-up test has passed; outside them nothing happens; a flash that fails stops it, no bootable image
leads to RECOVERY; stage 6 waits for every cluster's test; on a tripped block stages 1 to 3 end and nothing after them; a test's end
records its result; a self-test is queued for a FALLOW cluster that no plot owns, else STATE.
The model's choices: log 10, 102, 103, 172. -/
def Obligations.StartUp : Prop :=
  ∀ (s : State) (ok : Bool),
    let b := s.blk
    let dest := fun (b : Blk) (n : Nat) => become s { b with fw := { b.fw with stage := .stage n } }
    (Named s (.startupStageDone ok) →
      (b.fw.stage = .stage 1 → b.seedWaits = false → exec (.startupStageDone ok) s = dest b.identify 2) ∧
      (b.fw.stage = .stage 1 → b.seedWaits = true → exec (.startupStageDone ok) s = become s b) ∧
      ((b.fw.stage = .held ∨ b.fw.stage = .done ∨ b.fw.stage = .recovery ∨ b.fw.stage = .flashFail) →
        exec (.startupStageDone ok) s = become s b) ∧
      (b.fw.stage = .stage 2 → ok = true → exec (.startupStageDone ok) s = dest b 3) ∧
      (b.fw.stage = .stage 2 → ok = false → ∃ c, exec (.startupStageDone ok) s = become s c ∧ c.fw.stage = .flashFail) ∧
      (b.fw.stage = .stage 3 → b.fw.choose = none → exec (.startupStageDone ok) s = become s
        { b with fw := { (if s.trip.tripped then b.fw else b.fw.tryTrial) with stage := .recovery }
                 host := { b.host with busy := false } }) ∧
      (∀ slot rev f, b.fw.stage = .stage 3 → b.fw.choose = some (slot, rev, f) →
        ∃ c : Blk, exec (.startupStageDone ok) s = become s c ∧ c.fw.stage = .stage 4 ∧ c.fw.running = slot ∧
          c.mgmt.fwVersion = BitVec.ofNat 32 (imgVersion (f.slot slot))) ∧
      (s.trip.tripped = false →
        (b.fw.stage = .stage 4 → exec (.startupStageDone ok) s = dest b.replay 5) ∧
        (b.fw.stage = .stage 5 → ∃ c : Blk, exec (.startupStageDone ok) s = become s c ∧ c.fw.stage = .stage 6 ∧
          c.power.testing = b.member.clusters) ∧
        (b.fw.stage = .stage 6 → b.power.testing = [] → exec (.startupStageDone ok) s = dest b 7) ∧
        (b.fw.stage = .stage 6 → b.power.testing ≠ [] → exec (.startupStageDone ok) s = become s b) ∧
        (b.fw.stage = .stage 7 → ∃ c : Blk, exec (.startupStageDone ok) s = become s c ∧ c.fw.stage = .done ∧
          c.host.busy = false)) ∧
      (s.trip.tripped = true → (∀ n, b.fw.stage = .stage n → 3 < n) → exec (.startupStageDone ok) s = become s b)) ∧
    (∀ c r, Ready s (.selfTestDone c r) → b.clusterTested c = true →
      ∃ d : Blk, exec (.selfTestDone c r) s = become s d ∧ (d.power.testing = b.power.testing.filter (· ≠ c)) ∧
        (d.power.stResult.getD c 0#8 = r) ∧ (flag d.power.stFailed c = true ↔ r ≠ 0#8)) ∧
    (∀ c r, Ready s (.selfTestDone c r) → b.clusterTested c = false → exec (.selfTestDone c r) s = become s b) ∧
    (∀ ch, let c := (b.sels ch).stCluster
      Asked s (.selfTestStart ch) ch true →
      (b.cluster c ≠ .fallow ∨ b.member.hasCluster c = false ∨ b.clusterMoving c = true ∨ b.clusterTested c = true ∨
        (clusterTiles c).any (fun t => (b.ownerOf t).isSome) = true) →
      exec (.selfTestStart ch) s = become s (b.answer abState)) ∧
    (∀ ch, let c := (b.sels ch).stCluster
      Asked s (.selfTestStart ch) ch true → b.cluster c = .fallow → b.member.hasCluster c = true →
      b.clusterMoving c = false → b.clusterTested c = false → (clusterTiles c).all (fun t => (b.ownerOf t).isNone) = true →
      exec (.selfTestStart ch) s = become s (Blk.answer { b with power := { b.power with
        queues := b.power.queues.put (b.member.dieOfCluster c) (b.power.queues.getD (b.member.dieOfCluster c) [] ++
          [{ unit := .selfTest c true, ended := 0, stages := 1, running := false, readyAt := b.clk.mc, waited := 0,
             step := 30 }]) } } 0))

/-- R361–R363, R365–R368: VERIFY judges the inactive slot, ACTIVATE names it, on trial but in RECOVERY, CONFIRM ends the trial and raises
the rollback count, ERASE empties it, FW_IMAGE opens its download; each is STATE where the slot, the trial or a stopped flash forbids it,
and each is served in RECOVERY too; a full store is compacted.
The model's choices: log 100, 101. -/
def Obligations.FirmwareCommands : Prop :=
  ∀ (s : State) (ch : Channel),
    let f := s.blk.fw
    let k := f.inactive
    let asked := fun (c : Instr) => Asked s c ch false ∨ (Named s c ∧ f.stage = .recovery ∧ ch = .mailbox)
    let said := fun (f : Firmware) (cmd r : Nat) => become s ((Blk.fwStage { s.blk with fw := f } cmd r).answer 0)
    let no := become s (s.blk.answer abState)
    (asked (.verify ch) →
      ((f.slotState k = .written ∨ f.slotState k = .verified ∨ f.slotState k = .bad) →
        (imgVerify (f.slot k) f.rollback = 0 → exec (.verify ch) s =
          said { f.setSlot k (f.slot k) .verified with verifyRes := 0 } 1 0) ∧
        (imgVerify (f.slot k) f.rollback ≠ 0 → exec (.verify ch) s =
          said { f.setSlot k (f.slot k) .bad with verifyRes := imgVerify (f.slot k) f.rollback } 1
            (imgVerify (f.slot k) f.rollback))) ∧
      ((f.slotState k = .empty ∨ f.slotState k = .partial_) → exec (.verify ch) s = no)) ∧
    (asked (.activate ch) →
      (f.slotState k = .verified → f.trialRun = false → f.flashStop = false →
        exec (.activate ch) s = said (f.writeDir k (f.stage ≠ .recovery) false) 2 0) ∧
      ((f.slotState k ≠ .verified ∨ f.trialRun = true ∨ f.flashStop = true) → exec (.activate ch) s = no)) ∧
    (asked (.confirm ch) →
      (f.trialRun = true → f.flashStop = false → exec (.confirm ch) s = become s
        (((Blk.raiseRollback { s.blk with fw := { f.writeDir f.running false true with trialRun := false } }
          (imgSvn ((f.writeDir f.running false true).slot (f.writeDir f.running false true).running))).fwStage 3 0).answer 0)) ∧
      ((f.trialRun = false ∨ f.flashStop = true) → exec (.confirm ch) s = no)) ∧
    (asked (.erase ch) →
      (s.blk.fwWritable = true → exec (.erase ch) s = said (f.setSlot k [] .empty) 4 0) ∧
      (s.blk.fwWritable = false → exec (.erase ch) s = no)) ∧
    (∀ n xcrc, asked (.fwImage ch n xcrc) → 0 < n → n ≤ 4194304 → s.blk.xfer ch = none →
      s.blk.fwWritable = true →
      ∃ b : Blk, exec (.fwImage ch n xcrc) s = become s (b.answer 0) ∧ b.fw = f.setSlot k [] .partial_ ∧
        b.xfer ch = some { index := 0x4000, sub := 0x02, write := true, total := n, xcrc := xcrc, base := 0, next := 0,
                           data := [] } ∧
        { b with mgmt := s.blk.mgmt, fw := f } = s.blk) ∧
    (Served s .pstoreCompaction →
      (f.full = true → f.flashStop = false → exec .pstoreCompaction s = become s s.blk.compact) ∧
      ((f.full = false ∨ f.flashStop = true) → exec .pstoreCompaction s = become s s.blk))

/-- R336, R342, R344, R347, R348, R353: a DMA window is written while its plot is FREE or BOUND, on 4 KiB; CONS moves forward within what
was produced, and the mc after looks whether an OVERFLOW record has room; an enabled ring keeps BASE, SIZE and OWNER, and enabling it
starts it empty, the first time of ring 0 with what was raised before; OVF is cleared by writing 1 unless it was set in the same mc; a
held interrupt is signalled when its hold ends.
The model's choices: log 127, 128. -/
def Obligations.HostRings : Prop :=
  ∀ (s : State) (r p : Nat),
    let x := s.blk.ring r
    (∀ v, Up s (.dmaWindowWrite p v) →
      (((s.blk.plot p).state = .free ∨ (s.blk.plot p).state = .bound) → fld v 0 12 = 0 →
        exec (.dmaWindowWrite p v) s = become s (s.blk.modPlot p fun x => { x with host := { x.host with
          dmaBase := BitVec.ofNat 64 (fld v 0 64), dmaPages := BitVec.ofNat 32 (fld v 64 32), dmaValid := flag v 96 } })) ∧
      (((s.blk.plot p).state ≠ .free ∧ (s.blk.plot p).state ≠ .bound ∨ fld v 0 12 ≠ 0) →
        exec (.dmaWindowWrite p v) s = become s (s.blk.countSys evBadAccess))) ∧
    (∀ v, Up s (.consWrite r v) →
      ((x.prod - v).toNat ≤ (x.prod - x.cons).toNat →
        exec (.consWrite r v) s = become s ((s.blk.modRing r fun x => { x with cons := v }).note (.cons r))) ∧
      ((x.prod - x.cons).toNat < (x.prod - v).toNat →
        exec (.consWrite r v) s = become s (s.blk.countSys evBadAccess))) ∧
    (∀ v, Up s (.eventRingWrite r v) → x.enable = false → flag v 69 = true → fld v 0 12 = 0 →
      (r ≠ 0 ∨ s.blk.host.ringOpen = true) →
      ∃ b : Blk, exec (.eventRingWrite r v) s = become s b ∧ (b.ring r).enable = true ∧
        (b.ring r).base = BitVec.ofNat 64 (fld v 0 64) ∧ (b.ring r).sizeLog2 = min 20 (max 6 (fld v 64 5)) ∧
        (b.ring r).prod = 0#32 ∧ (b.ring r).cons = 0#32 ∧ (b.ring r).lost = 0#32 ∧ (b.ring r).irqEn = flag v 70 ∧
        (b.ring r).mask = BitVec.ofNat 16 (fld v 80 16) ∧ (b.ring r).irqHold = fld v 208 8 ∧
        ((b.ring r).ovf = true ↔ x.ovf = true ∧ (flag v 192 = false ∨ s.blk.noted (.set (.ringOvf r)) = true)) ∧
        (r ≠ 0 → (b.ring r).owner = BitVec.ofNat 8 (fld v 72 8)) ∧ (r = 0 → (b.ring r).owner = 0#8) ∧
        (∀ q, q ≠ r → b.ring q = s.blk.ring q) ∧
        { b with host := { b.host with rings := s.blk.host.rings } } = s.blk) ∧
    (∀ v, Up s (.eventRingWrite r v) → x.enable = false → flag v 69 = true → r = 0 → s.blk.host.ringOpen = false →
      ∃ b : Blk, exec (.eventRingWrite r v) s = become s b.ringOpens ∧ (b.ring r).enable = true ∧ (b.ring r).prod = 0#32 ∧
        (b.ring r).cons = 0#32 ∧ (b.ring r).sizeLog2 = min 20 (max 6 (fld v 64 5)) ∧ (b.ring r).owner = 0#8 ∧
        (b.ring r).base = (if fld v 0 12 = 0 then BitVec.ofNat 64 (fld v 0 64) else x.base) ∧
        b.host.startBuf = s.blk.host.startBuf ∧ b.host.startLost = s.blk.host.startLost) ∧
    (∀ v, Up s (.eventRingWrite r v) → x.enable = false → flag v 69 = false → x.cons = BitVec.ofNat 32 (fld v 128 32) →
      ∃ b : Blk, exec (.eventRingWrite r v) s = become s b ∧ (b.ring r).enable = false ∧ (b.ring r).cons = x.cons ∧
        (b.ring r).prod = x.prod ∧ (b.ring r).sizeLog2 = min 20 (max 6 (fld v 64 5)) ∧
        (b.ring r).base = (if fld v 0 12 = 0 then BitVec.ofNat 64 (fld v 0 64) else x.base) ∧
        (b.ring r).irqEn = flag v 70 ∧ (b.ring r).mask = BitVec.ofNat 16 (fld v 80 16) ∧ (b.ring r).irqHold = fld v 208 8) ∧
    (∀ b : Blk, b.nextMc = (b.mcLog.filterMap fun n => match n with
        | .cons r => some r
        | _ => none).foldl (fun (b : Blk) r => b.ringOverflow r)
      { b.forget with clk := b.clk.advance b.frameLen }) ∧
    (∀ v, Up s (.eventRingWrite r v) → x.enable = true →
      ∃ b : Blk, exec (.eventRingWrite r v) s = become s b ∧ (b.ring r).base = x.base ∧ (b.ring r).sizeLog2 = x.sizeLog2 ∧
        (b.ring r).owner = x.owner ∧ (b.ring r).enable = flag v 69) ∧
    (Up s (.irqHoldEnd r) →
      (x.irqEn = true → x.wrote = true →
        x.lastIrq.any (fun f => decide ((s.blk.clk.frame - f).toNat < x.irqHold)) = false →
        exec (.irqHoldEnd r) s = become s (s.blk.ringIrq r)) ∧
      ((x.irqEn = false ∨ x.wrote = false ∨ x.lastIrq.any (fun f => decide ((s.blk.clk.frame - f).toNat < x.irqHold)) = true) →
        exec (.irqHoldEnd r) s = become s s.blk))

/-- R327, R328, R333, R335–R337, R343: GO on a busy mailbox, or in the mc of its response, is refused and counted; on a free one the frame
is taken: a bad one dropped, any other carried out with its response in the buffer; its completion sets DONE and raises the event, in
RECOVERY too. A register access that is not 4 or 8 aligned bytes, or names no register, is counted and reads 0; one of 8 bytes that spans
two registers is two of 4; a register of at most 8 bytes reads and takes its value at once, its read-only fields as the mc began; the
lowest bytes of a wider one latch it for reading, and a write of one takes effect with its highest bytes.
The model's choices: log 126, 129. -/
def Obligations.HostWindow : Prop :=
  ∀ (s : State) (off n : Nat),
    (Up s .mailboxGo → (s.blk.host.busy = true ∨ s.blk.noted (.set .mboxDone) = true) →
      exec .mailboxGo s = become s (s.blk.countSys evMboxRefused)) ∧
    (Up s .mailboxGo → s.blk.host.busy = false → s.blk.noted (.set .mboxDone) = false →
      let b : Blk := { s.blk with host := { s.blk.host with busy := true, go := false } }
      let xs := Blk.mboxTake.setAuth0 s.blk.mboxFrame
      (moaOk xs = false → exec .mailboxGo s = become s
        (let c := b.countSys evMoaBad
         { c with host := { c.host with busy := false } })) ∧
      (moaOk xs = true → mhKind (moaHdr xs) = mkSpdm → exec .mailboxGo s = become s b) ∧
      (moaOk xs = true → mhKind (moaHdr xs) ≠ mkSpdm →
        let r := b.moaExec s.seen .mailbox (mhBoot (moaHdr xs)) xs
        exec .mailboxGo s = become s (r.1.mboxRespond (r.2.headD [])))) ∧
    ((Served s .mailboxDone ∨ (Named s .mailboxDone ∧ s.blk.fw.stage = .recovery)) →
      let h := moaHdr (s.blk.host.reqBuf.read 0 32)
      let v := s.blk.vault.reply
      let done := fun (b : Blk) => become s ((Blk.note { b with
        host := { b.host with busy := false, done := true } } (.set .mboxDone)).raiseS 0x0F 0 (some sysTile))
      (s.blk.host.busy = false → exec .mailboxDone s = become s s.blk) ∧
      (s.blk.host.busy = true → mhKind h ≠ mkSpdm → exec .mailboxDone s = done s.blk) ∧
      (s.blk.host.busy = true → mhKind h = mkSpdm →
        exec .mailboxDone s = done (s.blk.mboxRespond (s.blk.moaFrame (setFld h 33 1 0) (mhBoot h)
          mkSpdm 0 0 0 0 (Config.spdmMessage v.kind v.code.toNat v.body))))) ∧
    (Up s (.hostRegisterRead off n) →
      let got := fun (b : Blk) (v : Nat) => become s { b with host := { b.host with readData := BitVec.ofNat 64 v } }
      (aligned off n = false → exec (.hostRegisterRead off n) s = got (s.blk.countSys evBadAccess) 0) ∧
      (aligned off n = true → splits s.blk.member off n = true →
        let x := s.blk.winRead1 s.was off 4
        let y := x.1.winRead1 s.was (off + 4) 4
        exec (.hostRegisterRead off n) s = got y.1 (x.2 + 2 ^ 32 * y.2)) ∧
      (aligned off n = true → regAt s.blk.member off = none →
        exec (.hostRegisterRead off n) s = got (s.blk.countSys evBadAccess) 0) ∧
      (∀ reg lo size, aligned off n = true → regAt s.blk.member off = some (reg, lo, size) → off + n ≤ lo + size →
        let now := toBytes size (s.blk.winSeen s.was reg)
        (size ≤ 8 → exec (.hostRegisterRead off n) s = got s.blk (ofBytes ((now.drop (off - lo)).take n))) ∧
        (8 < size → off = lo → exec (.hostRegisterRead off n) s =
          got { s.blk with host := { s.blk.host with latch := s.blk.host.latch.put lo now } } (ofBytes (now.take n))) ∧
        (8 < size → lo < off → exec (.hostRegisterRead off n) s =
          got s.blk (ofBytes (((s.blk.host.latch.getD lo now).drop (off - lo)).take n))))) ∧
    (∀ data, Up s (.hostRegisterWrite off n data) →
      let v := data.toNat % 2 ^ (8 * n)
      let puts := fun (h : Tbl Byte) => (toBytes n v).zipIdx.foldl (fun (h : Tbl Byte) x => h.put (off + x.2) x.1) h
      (aligned off n = false →
        exec (.hostRegisterWrite off n data) s = become s (s.blk.countSys evBadAccess)) ∧
      (aligned off n = true → splits s.blk.member off n = true →
        exec (.hostRegisterWrite off n data) s = become s
          ((s.blk.winWrite1 s off 4 (v % 2 ^ 32)).winWrite1 s (off + 4) 4 (v / 2 ^ 32))) ∧
      (aligned off n = true → regAt s.blk.member off = none →
        exec (.hostRegisterWrite off n data) s = become s (s.blk.countSys evBadAccess)) ∧
      (∀ reg lo size, aligned off n = true → regAt s.blk.member off = some (reg, lo, size) → off + n ≤ lo + size →
        let keep := toBytes size (s.blk.winKeep reg)
        (size ≤ 8 → exec (.hostRegisterWrite off n data) s = become s
          (s.blk.winStore s reg (ofBytes (winMerge (puts []) keep lo)))) ∧
        (8 < size → off + n < lo + size → exec (.hostRegisterWrite off n data) s = become s
          { s.blk with host := { s.blk.host with held := puts s.blk.host.held } }) ∧
        (8 < size → off + n = lo + size → exec (.hostRegisterWrite off n data) s = become s
          (Blk.winStore { s.blk with host := { s.blk.host with
            held := (puts s.blk.host.held).drop fun k => lo ≤ k && k < lo + size } } s reg
              (ofBytes (winMerge (puts s.blk.host.held) keep lo))))))

/-- The queue: with a command at the front, a step is exec of that command on the state with the queue's rest. -/
def Obligations.StepRunsFront : Prop :=
  ∀ (s : State) (c : Instr) (rest : List Instr),
    step { s with pending := c :: rest } = exec c { s with pending := rest }

/-- R41, R43, R174, R283, R336, R346, R361, R372, R388: a step without a command is one mc of a running block (the model's choice, log 12):
what was put off to the end of the mc acts, events are posted, the next mc begins; where the mesh clock stands only the notes and events
are dealt with; where an accepted RESTART waits it is the warm reset (log 12). A frame tick starts the next frame at offset 0. -/
def Obligations.Time : Prop :=
  ∀ s : State,
    let acts := fun (b : Blk) => (b.mcLog.foldl (fun (b : Blk) n => b.noteActs n) b).postEvents
    let replayed := fun (b : Blk) => if s.blk.fw.stage = .done then b.replayJournal else b
    (s.pending = [] → s.blk.fw.restartDue = false → s.live = false →
      step s = .next { s with blk := (acts s.blk).forget, was := (acts s.blk).forget } ∧
      (s.blk.mcLog = [] → (acts s.blk).sram = s.blk.sram ∧ (acts s.blk).clk = s.blk.clk ∧ (acts s.blk).host = s.blk.host)) ∧
    (s.pending = [] → s.blk.fw.restartDue = false → s.live = true →
      let b := (acts (replayed s.blk.countMc)).nextMc
      step s = .next { s with blk := b, was := b } ∧ b.clk = s.blk.clk.advance s.blk.frameLen ∧ b.member = s.blk.member ∧
      (s.blk.mcLog = [] → b.sram = s.blk.sram ∧ b.hbm = s.blk.hbm ∧ b.plots = s.blk.plots ∧ b.sown = s.blk.sown ∧
        b.optics = s.blk.optics)) ∧
    (s.pending = [] → s.blk.fw.restartDue = true →
      let b := replayed s.blk
      let c := Blk.after s.blk.member s.blk.meshKhz (s.blk.vault.seeds + 1) (b.fw.restarted (.stage 1)) b.postEvents.host.mem
      step s = .next ⟨[], { s.trip with tripped := false }, c, c⟩ ∧ c.fw.stage = .stage 1 ∧ c.fw.restartDue = false ∧
      (s.blk.fw.keyJournal = false → b = s.blk)) ∧
    (Ready s .frameTick → ∃ b : Blk, exec .frameTick s = become s b ∧ b.clk.frame = s.blk.clk.frame + 1 ∧
      b.clk.offset = 0 ∧ b.clk.due = false ∧ b.clk.mc = s.blk.clk.mc ∧ b.member = s.blk.member)

/-- R1, R64, R104, R248, R254, R263, R264, R312, R352, R353: the state after reset. The member, the mesh clock, SRAM contents without errors and semaphores at 0
are the model's choices (NOTES.md, Assumptions); what the rules give is the rest.
The model's choices: log 5, 15, 20, 35, 137, 153. -/
def Obligations.ResetState : Prop :=
  let b := State.reset.blk
  State.reset.pending = [] ∧ State.reset.trip = { tripped := false, latch := false } ∧ TripLatched State.reset ∧ MemOk b ∧
  State.reset.was = b ∧ b.mcLog = [] ∧ b.meshKhz = 2000000 ∧ b.ecc = Ecc.fresh ∧
  b.member = .dx1024 ∧ b.fw.stage = .stage 1 ∧ State.reset.live = false ∧ b.host.busy = true ∧
  b.sown.state = .free ∧ b.sown.active.gen = 0#16 ∧ b.sown.active.slots = 250 ∧ b.frameLen = 2000 ∧ b.clk.mc = 0 ∧
  (∀ p, (b.optPort p).spare = 4 ∧ ∀ n, n < 4 → (b.optPort p).laneMap.toNat / 8 ^ n % 8 = n) ∧
  b.optics.calMax = 16 ∧ b.optics.calInterval = 60 ∧ b.quorum.en = false ∧ b.power.slew0 = 60 ∧ b.power.paceWin = 2000 ∧
  (b.plot 0).state = .bound ∧ (∀ p, p ≠ 0 → (b.plot p).state = .free) ∧
  (∀ p, (b.port p).state = .absent ∧ (b.port p).ctrl.ethertype = 0x88B5#16) ∧
  (∀ r, (b.ring r).enable = false) ∧ (∀ t k, (b.tile t).sem k = 0) ∧
  (∀ t a n, b.readSram t a n = List.replicate n 0#8)

/-- MEMORY: every step keeps every byte memory (SRAM, HBM, host memory, the mailbox buffers and the flash slots) in canonical form. -/
def Obligations.MemCanonicalKept : Prop :=
  ∀ s t : State, MemOk s.blk → step s = .next t → MemOk t.blk

/-- R312: every step keeps the trip latch set while the block is tripped. -/
def Obligations.TripLatchKept : Prop :=
  ∀ s t : State, TripLatched s → step s = .next t → TripLatched t

/-- R1, R2, R23, R41, R43, R312, R388: a command that names what the member has answers a next state, whatever the block's mode, and one
that names a place the member does not have faults; no command changes the queue or the member, the trip and its latch change only by
a thermal trip and the resets, the time only by the frame tick and the resets, and the block as the mc began, which read-only fields are
read from, only by the resets.
The model's choices: log 1, 2, 16, 17. -/
def Obligations.ExecAnswers : Prop :=
  ∀ (s : State) (c : Instr),
    (¬Named s c → exec c s = .fault .noSuchUnit) ∧
    (Named s c → ∃ t, exec c s = .next t ∧ t.pending = s.pending ∧ t.blk.member = s.blk.member ∧
      (c ≠ .thermalTrip → c ≠ .porAssert → c ≠ .warmReset → t.trip = s.trip) ∧
      (c ≠ .frameTick → c ≠ .porAssert → c ≠ .porRelease → c ≠ .warmReset → t.blk.clk = s.blk.clk) ∧
      (c ≠ .porAssert → c ≠ .porRelease → c ≠ .warmReset → t.was = s.was))

/-- R8, R16, R130: bytes written to a tile's SRAM or to a die's stack read back; every other byte of every tile and every die reads as
before; a cleared run reads as zero.
The model's choices: log 5, 35. -/
def Obligations.MemoryLaws : Prop :=
  ∀ (b : Blk) (t a : Nat) (xs : Bytes), MemOk b →
    (b.writeSram t a xs).readSram t a xs.length = xs ∧
    (b.writeHbm t a xs).readHbm t a xs.length = xs ∧
    MemOk (b.writeSram t a xs) ∧ MemOk (b.writeHbm t a xs) ∧ (∀ n, MemOk (b.zeroSram t a n)) ∧
    (∀ n i, i < n → (b.zeroSram t a n).readSram t (a + i) 1 = [0#8]) ∧
    (∀ u c n, (u = t ∧ (c + n ≤ a ∨ a + xs.length ≤ c)) ∨ (u ≠ t ∧ a + xs.length ≤ 2 ^ 21 ∧ c + n ≤ 2 ^ 21) →
      (b.writeSram t a xs).readSram u c n = b.readSram u c n ∧
      (b.zeroSram t a xs.length).readSram u c n = b.readSram u c n) ∧
    (∀ u c n, (u = t ∧ (c + n ≤ a ∨ a + xs.length ≤ c)) ∨ (u ≠ t ∧ a + xs.length ≤ 2 ^ 36 ∧ c + n ≤ 2 ^ 36) →
      (b.writeHbm t a xs).readHbm u c n = b.readHbm u c n) ∧
    (∀ u c n, (b.writeSram t a xs).readHbm u c n = b.readHbm u c n ∧ (b.writeHbm t a xs).readSram u c n = b.readSram u c n)

/-- R132, R138–R140: up to 2^40 addends, in whatever order and however split between adds and merges, leave one and the same entry, and
its sum never leaves its range. -/
def Obligations.ExactSums : Prop :=
  ∀ f : FraForm, f = formWide ∨ f = formFloat ∨ f = formInt →
    ∀ xs ys : List Val, xs.length ≤ 2 ^ 40 → List.Perm xs ys →
      let sum : List Val → Fra := fun l => l.foldl (Fra.add f) Fra.fresh
      sum xs = sum ys ∧ (sum xs).ovf = false ∧
      (sum xs).sum.natAbs ≤ xs.length * 2 ^ (f.l - f.g).toNat ∧
      (f.w = 320 → (sum xs).count = xs.length) ∧
      ∀ k, (sum (xs.take k)).merge f (sum (xs.drop k)) = sum xs

/-- R23: a tile's id is 32·Y + X, of 10 bits, on every member; the ids whose X and Y lie inside the mesh are the member's tiles and all
its tiles are such; on a member narrower than 32 the ids are sparse. -/
def Obligations.TileIds : Prop :=
  (∀ (m : Member) (x y : Nat), x < 32 → y < 32 →
    32 * y + x < 2 ^ 10 ∧ (32 * y + x) % 32 = x ∧ (32 * y + x) / 32 = y ∧
    (m.hasTile (32 * y + x) = true ↔ x < m.width ∧ y < m.width)) ∧
  (∀ (m : Member) (t : Nat), m.hasTile t = true →
    ∃ x y, x < m.width ∧ y < m.width ∧ m.width ≤ 32 ∧ t = 32 * y + x) ∧
  (∀ m : Member, m.width < 32 → m.hasTile m.width = false ∧ m.hasTile 32 = true)

/-- R15: a tile of the mesh is a port tile just where X and Y are both even; its port is (W/2)·(Y/2) + X/2, one tile for each port; on
the DX-1024 the ports are 16·(Y/2) + X/2, from 0 to 255. -/
def Obligations.PortTiles : Prop :=
  (∀ (m : Member) (x y : Nat), x < m.width → y < m.width →
    (m.isPortTile (32 * y + x) = true ↔ x % 2 = 0 ∧ y % 2 = 0) ∧
    (m.isPortTile (32 * y + x) = true → m.portOf (32 * y + x) = m.width / 2 * (y / 2) + x / 2 ∧
      m.portOf (32 * y + x) < m.ports ∧ m.portTile (m.portOf (32 * y + x)) = 32 * y + x)) ∧
  (∀ (m : Member) (t : Nat), m.isPortTile t = true → m.hasTile t = true) ∧
  (∀ x y, x < 32 → y < 32 → Member.dx1024.isPortTile (32 * y + x) = true →
    Member.dx1024.portOf (32 * y + x) = 16 * (y / 2) + x / 2 ∧ Member.dx1024.portOf (32 * y + x) ≤ 255) ∧
  (∀ p, p ≤ 255 → ∃ t, Member.dx1024.isPortTile t = true ∧ Member.dx1024.portOf t = p)

/-- R262: a sieve or lookup write that names a plot not in BOUND is refused with STATE (0x08), and no table changes. -/
def Obligations.UnboundPlotRefused : Prop :=
  ∀ (s : State) (ch : Channel),
    (∀ v, let e := v &&& sieveMask
      Asked s (.sieveWrite ch v) ch false → s.blk.bound (svPlot e) = false →
      exec (.sieveWrite ch v) s = become s (s.blk.answer 0x08)) ∧
    (∀ v, let e := v &&& lookupMask
      Asked s (.lookupWrite ch v) ch false → s.blk.bound (lkPlot e) = false →
      exec (.lookupWrite ch v) s = become s (s.blk.answer 0x08))

end
end

