-- ==== Sys2Proof/Laws/Gates.lean ====
section
/-! SUPPORT. What each way into the block answers: one lemma per gate for a command that acts, and for one that cannot. -/
namespace Sys2Proof.Laws
open Sys2Proof Sys2Proof.Machine Sys2Proof.Safety

/-- A command that names a place answers what its effect answers. -/
theorem at_named {s : State} {c : Instr} (h : Named s c) (f : State → Out) : s.at c f = f s := by
  simp [State.at, h.1, h.2]

/-- A command that names no place faults. -/
theorem at_unnamed {s : State} {c : Instr} (h : ¬Named s c) (f : State → Out) : s.at c f = .fault .noSuchUnit := by
  simp only [State.at]
  split
  · rename_i hc; simp only [Bool.and_eq_true] at hc; exact absurd hc h
  · rfl

theorem mesh_ready {s : State} {c : Instr} (h : Ready s c) (f : Blk → Blk) : s.mesh c f = become s (f s.blk) := by
  rw [State.mesh, at_named h.1, if_pos h.2]

theorem mesh_stopped {s : State} {c : Instr} (h : Named s c) (hl : s.live = false) (f : Blk → Blk) : s.mesh c f = .next s := by
  rw [State.mesh, at_named h, hl]; rfl

/-- A write to the page of a tile of the member (R335). -/
theorem page_ready {s : State} {c : Instr} {t : Nat} (h : Ready s c) (ht : s.blk.member.hasTile t = true) (f : Blk → Blk) :
    s.page c t f = become s (f s.blk) := by
  rw [State.page, if_pos ht, mesh_ready h]

/-- A change on the front panel of a port of the member (R404). -/
theorem panel_ready {s : State} {c : Instr} {p : Nat} (h : Ready s c) (hp : p < s.blk.member.ports) (f : Blk → Blk) :
    s.panel c p f = become s (f s.blk) := by
  rw [State.panel, mesh_ready h, if_pos hp]

theorem steward_served {s : State} {c : Instr} (h : Served s c) (f : Blk → Blk) : s.steward c f = become s (f s.blk) := by
  rw [State.steward, at_named h.1, if_pos h.2]

theorem boot_served {s : State} {c : Instr} (h : Served s c) (f : Blk → Blk) : s.boot c f = become s (f s.blk) := by
  rw [State.boot, at_named h.1]; simp [h.2]

theorem window_up {s : State} {c : Instr} (h : Up s c) (f : State → Blk) : s.window c f = become s (f s) := by
  rw [State.window, at_named h.1, if_neg h.2]

theorem vaultEvent_up {s : State} {c : Instr} (h : Up s c) (f : Blk → Blk) : s.vaultEvent c f = become s (f s.blk) := by
  rw [State.vaultEvent, at_named h.1, if_neg h.2]

theorem od_asked {s : State} {c : Instr} {ch : Channel} {e : Bool} (h : Asked s c ch e) (f : Blk → Od) :
    s.od c ch e f = become s ((f s.blk).1.answer (f s.blk).2) := by
  rw [State.od, at_named h.1.1]
  cases e with
  | false => simp [h.1.2, h.2.1, Blk.odDo]
  | true => simp [h.1.2, h.2.1, h.2.2 rfl, Blk.odDo]

/-- A basic channel gets LEVEL from an expert entry (R317). -/
theorem od_level {s : State} {c : Instr} {ch : Channel} (h : Asked s c ch false) (he : s.blk.expert ch = false) (f : Blk → Od) :
    s.od c ch true f = become s (s.blk.answer abLevel) := by
  rw [State.od, at_named h.1.1]
  simp [h.1.2, h.2.1, he, Blk.odDo]

theorem odFw_asked {s : State} {c : Instr} {ch : Channel} (h : Asked s c ch false) (f : Blk → Od) :
    s.odFw c ch f = become s ((f s.blk).1.answer (f s.blk).2) := by
  rw [State.odFw, at_named h.1.1]
  simp [h.1.2, h.2.1, Blk.odDo]

theorem request_asked {s : State} {c : Instr} {ch : Channel} (h : Asked s c ch false) (f : Seen → Blk → Blk) :
    s.request c ch f = become s (f s.seen s.blk) := by
  rw [State.request, at_named h.1.1]
  simp [h.1.2, h.2.1]

/-- A row of an opcode runs the sheaf that starts next, where that has its opcode (R101). -/
theorem run_starts {s : State} {t e op : Nat} {x : Sheaf} (h : Starts s t e op x) (f : Blk → Sheaf → Blk × Ran) :
    s.blk.run t e op f =
      match (f (s.blk.started t x) x).2 with
      | .hold => s.blk
      | .fin st d => ends (f (s.blk.started t x) x).1 t e x st d
      | .issue n => issues (f (s.blk.started t x) x).1 t e x n := by
  cases hr : (f (s.blk.started t x) x).2 <;> simp [Blk.run, h.1, h.2, hr]

end Sys2Proof.Laws
end

