-- ==== Sys2Proof/Laws/Table.lean ====
section
/-! SUPPORT. What sparse tables and byte memories read after a write, and that every memory operation keeps the canonical form. -/
namespace Sys2Proof.Laws

open Sys2Proof.Machine

/-! ### Tables -/

@[simp] theorem get?_put_same {α : Type} (t : Tbl α) (k : Nat) (a : α) : Tbl.get? (Tbl.put t k a) k = some a := by
  induction t with
  | nil => simp [Tbl.put, Tbl.get?]
  | cons x t ih =>
    obtain ⟨j, b⟩ := x
    simp only [Tbl.put]
    split
    · simp [Tbl.get?]
    · split
      · simp [Tbl.get?]
      · rw [Tbl.get?, if_neg (by omega), if_neg (by omega)]; exact ih

theorem get?_put_other {α : Type} (t : Tbl α) (k k' : Nat) (a : α) (h : k' ≠ k) :
    Tbl.get? (Tbl.put t k a) k' = Tbl.get? t k' := by
  induction t with
  | nil => simp only [Tbl.put, Tbl.get?]; split <;> first | omega | (split <;> rfl)
  | cons x t ih =>
    obtain ⟨j, b⟩ := x
    simp only [Tbl.put]
    split
    · rw [Tbl.get?, if_neg (by omega)]
      split
      · rw [Tbl.get?, if_neg (by omega), if_pos (by omega)]
      · rfl
    · split
      · rename_i _ e; subst e
        have e : ¬ k = k' := fun e => h e.symm
        simp only [Tbl.get?, if_neg e]
      · simp only [Tbl.get?, ih]

@[simp] theorem getD_put_same {α : Type} (t : Tbl α) (k : Nat) (a d : α) : Tbl.getD (Tbl.put t k a) k d = a := by
  simp [Tbl.getD]

theorem getD_put_other {α : Type} (t : Tbl α) (k k' : Nat) (a d : α) (h : k' ≠ k) :
    Tbl.getD (Tbl.put t k a) k' d = Tbl.getD t k' d := by
  simp [Tbl.getD, get?_put_other t k k' a h]

theorem getD_put {α : Type} (t : Tbl α) (k k' : Nat) (a d : α) :
    Tbl.getD (Tbl.put t k a) k' d = if k' = k then a else Tbl.getD t k' d := by
  split
  · rename_i h; subst h; simp
  · rename_i h; exact getD_put_other t k k' a d h

@[simp] theorem getD_nil {α : Type} (k : Nat) (d : α) : Tbl.getD ([] : Tbl α) k d = d := rfl

/-! ### Numbers strictly rising -/

theorem sortedFrom_weaken {α : Type} (t : Tbl α) (lo hi : Nat) (h : lo ≤ hi) (hs : Tbl.sortedFrom hi t = true) :
    Tbl.sortedFrom lo t = true := by
  cases t with
  | nil => rfl
  | cons x t =>
    obtain ⟨j, b⟩ := x
    simp only [Tbl.sortedFrom, Bool.and_eq_true, decide_eq_true_eq] at *
    exact ⟨by omega, hs.2⟩

theorem sortedFrom_put {α : Type} (t : Tbl α) (lo k : Nat) (a : α) (hk : lo ≤ k) (h : Tbl.sortedFrom lo t = true) :
    Tbl.sortedFrom lo (Tbl.put t k a) = true := by
  induction t generalizing lo with
  | nil => simp [Tbl.put, Tbl.sortedFrom, hk]
  | cons x t ih =>
    obtain ⟨j, b⟩ := x
    simp only [Tbl.sortedFrom, Bool.and_eq_true, decide_eq_true_eq] at h
    simp only [Tbl.put]
    split
    · simp only [Tbl.sortedFrom, Bool.and_eq_true, decide_eq_true_eq]; exact ⟨hk, by omega, h.2⟩
    · split
      · rename_i _ e; subst e; simp only [Tbl.sortedFrom, Bool.and_eq_true, decide_eq_true_eq]; exact ⟨hk, h.2⟩
      · simp only [Tbl.sortedFrom, Bool.and_eq_true, decide_eq_true_eq]
        exact ⟨h.1, ih (j + 1) (by omega) h.2⟩

theorem sortedFrom_del {α : Type} (t : Tbl α) (lo k : Nat) (h : Tbl.sortedFrom lo t = true) :
    Tbl.sortedFrom lo (Tbl.del t k) = true := by
  induction t generalizing lo with
  | nil => rfl
  | cons x t ih =>
    obtain ⟨j, b⟩ := x
    simp only [Tbl.sortedFrom, Bool.and_eq_true, decide_eq_true_eq] at h
    simp only [Tbl.del]
    split
    · exact sortedFrom_weaken t lo (j + 1) (by omega) h.2
    · simp only [Tbl.sortedFrom, Bool.and_eq_true, decide_eq_true_eq]; exact ⟨h.1, ih (j + 1) h.2⟩

theorem sortedFrom_filter {α : Type} (t : Tbl α) (lo : Nat) (p : Nat × α → Bool) (h : Tbl.sortedFrom lo t = true) :
    Tbl.sortedFrom lo (t.filter p) = true := by
  induction t generalizing lo with
  | nil => rfl
  | cons x t ih =>
    obtain ⟨j, b⟩ := x
    simp only [Tbl.sortedFrom, Bool.and_eq_true, decide_eq_true_eq] at h
    simp only [List.filter]
    split
    · simp only [Tbl.sortedFrom, Bool.and_eq_true, decide_eq_true_eq]; exact ⟨h.1, ih (j + 1) h.2⟩
    · exact sortedFrom_weaken _ lo (j + 1) (by omega) (ih (j + 1) h.2)

theorem get?_below {α : Type} (t : Tbl α) (lo k : Nat) (h : Tbl.sortedFrom lo t = true) (hk : k < lo) :
    Tbl.get? t k = none := by
  cases t with
  | nil => rfl
  | cons x t =>
    obtain ⟨j, b⟩ := x
    simp only [Tbl.sortedFrom, Bool.and_eq_true, decide_eq_true_eq] at h
    rw [Tbl.get?, if_neg (by omega), if_pos (by omega)]

theorem get?_del_same {α : Type} (t : Tbl α) (lo k : Nat) (h : Tbl.sortedFrom lo t = true) :
    Tbl.get? (Tbl.del t k) k = none := by
  induction t generalizing lo with
  | nil => rfl
  | cons x t ih =>
    obtain ⟨j, b⟩ := x
    simp only [Tbl.sortedFrom, Bool.and_eq_true, decide_eq_true_eq] at h
    simp only [Tbl.del]
    split
    · rename_i e; subst e; exact get?_below t (j + 1) j h.2 (by omega)
    · rename_i e
      rw [Tbl.get?, if_neg e]
      split
      · rfl
      · exact ih (j + 1) h.2

theorem get?_del_other {α : Type} (t : Tbl α) (lo k k' : Nat) (h : Tbl.sortedFrom lo t = true) (hk : k' ≠ k) :
    Tbl.get? (Tbl.del t k) k' = Tbl.get? t k' := by
  induction t generalizing lo with
  | nil => rfl
  | cons x t ih =>
    obtain ⟨j, b⟩ := x
    simp only [Tbl.sortedFrom, Bool.and_eq_true, decide_eq_true_eq] at h
    simp only [Tbl.del]
    split
    · rename_i e; subst e
      rw [Tbl.get?, if_neg (by omega)]
      split
      · exact get?_below t (j + 1) k' h.2 (by omega)
      · rfl
    · simp only [Tbl.get?, ih (j + 1) h.2]

/-! ### The canonical form of a byte memory -/

theorem all_put (m : Mem) (a : Nat) (x : Byte) (hx : x ≠ 0#8) (h : m.all (fun y => y.2 ≠ 0#8) = true) :
    (Tbl.put m a x).all (fun y => y.2 ≠ 0#8) = true := by
  induction m with
  | nil => simp [Tbl.put, hx]
  | cons y m ih =>
    obtain ⟨j, b⟩ := y
    simp only [List.all_cons, Bool.and_eq_true] at h
    simp only [Tbl.put]
    split
    · simp only [List.all_cons, Bool.and_eq_true]; exact ⟨by simpa using hx, h.1, h.2⟩
    · split
      · simp only [List.all_cons, Bool.and_eq_true]; exact ⟨by simpa using hx, h.2⟩
      · simp only [List.all_cons, Bool.and_eq_true]; exact ⟨h.1, ih h.2⟩

theorem all_del {α : Type} (m : Tbl α) (a : Nat) (p : Nat × α → Bool) (h : m.all p = true) :
    (Tbl.del m a).all p = true := by
  induction m with
  | nil => rfl
  | cons y m ih =>
    obtain ⟨j, b⟩ := y
    simp only [List.all_cons, Bool.and_eq_true] at h
    simp only [Tbl.del]
    split
    · exact h.2
    · simp only [List.all_cons, Bool.and_eq_true]; exact ⟨h.1, ih h.2⟩

/-- A byte written keeps the canonical form. -/
theorem wf_put1 (m : Mem) (a : Nat) (x : Byte) (h : Mem.wf m = true) : Mem.wf (Mem.put1 m a x) = true := by
  simp only [Mem.wf, Bool.and_eq_true] at h ⊢
  simp only [Mem.put1]
  split
  · exact ⟨sortedFrom_del m 0 a h.1, all_del m a _ h.2⟩
  · rename_i hx; exact ⟨sortedFrom_put m 0 a x (by omega) h.1, all_put m a x hx h.2⟩

/-- A run of bytes written keeps the canonical form. -/
theorem wf_write (m : Mem) (a : Nat) (xs : Bytes) (h : Mem.wf m = true) : Mem.wf (Mem.write m a xs) = true := by
  induction xs generalizing m a with
  | nil => exact h
  | cons x xs ih => exact ih _ _ (wf_put1 m a x h)

/-- A range zeroed keeps the canonical form. -/
theorem wf_zero (m : Mem) (lo len : Nat) (h : Mem.wf m = true) : Mem.wf (Mem.zero m lo len) = true := by
  simp only [Mem.wf, Bool.and_eq_true] at h ⊢
  refine ⟨sortedFrom_filter m 0 _ h.1, ?_⟩
  simp only [Mem.zero, List.all_eq_true, List.mem_filter] at h ⊢
  intro y hy; exact h.2 y hy.1

@[simp] theorem wf_nil : Mem.wf [] = true := rfl

/-! ### Reads after writes -/

/-- A byte written reads back. -/
theorem byte_put1_same (m : Mem) (a : Nat) (x : Byte) (h : Mem.wf m = true) : Mem.byte (Mem.put1 m a x) a = x := by
  simp only [Mem.wf, Bool.and_eq_true] at h
  simp only [Mem.byte, Mem.put1, Tbl.getD]
  split
  · rename_i e; rw [get?_del_same m 0 a h.1, e]; rfl
  · rw [get?_put_same]; rfl

/-- A byte written leaves every other address alone. -/
theorem byte_put1_other (m : Mem) (a a' : Nat) (x : Byte) (h : Mem.wf m = true) (ha : a' ≠ a) :
    Mem.byte (Mem.put1 m a x) a' = Mem.byte m a' := by
  simp only [Mem.wf, Bool.and_eq_true] at h
  simp only [Mem.byte, Mem.put1, Tbl.getD]
  split
  · rw [get?_del_other m 0 a a' h.1 ha]
  · rw [get?_put_other m a a' x ha]

/-- A run of bytes written leaves every address outside it alone. -/
theorem byte_write_outside (m : Mem) (a : Nat) (xs : Bytes) (a' : Nat) (h : Mem.wf m = true)
    (ha : a' < a ∨ a + xs.length ≤ a') : Mem.byte (Mem.write m a xs) a' = Mem.byte m a' := by
  induction xs generalizing m a with
  | nil => rfl
  | cons x xs ih =>
    simp only [List.length_cons] at ha
    rw [Mem.write, ih _ _ (wf_put1 m a x h) (by omega), byte_put1_other m a a' x h (by omega)]

/-- A run of bytes written reads back. -/
theorem byte_write_inside (m : Mem) (a : Nat) (xs : Bytes) (i : Nat) (h : Mem.wf m = true) (hi : i < xs.length) :
    Mem.byte (Mem.write m a xs) (a + i) = xs[i] := by
  induction xs generalizing m a i with
  | nil => simp at hi
  | cons x xs ih =>
    cases i with
    | zero =>
      rw [Mem.write, byte_write_outside _ _ _ _ (wf_put1 m a x h) (by omega), Nat.add_zero, byte_put1_same m a x h]; rfl
    | succ i =>
      simp only [List.length_cons] at hi
      have := ih (Mem.put1 m a x) (a + 1) i (wf_put1 m a x h) (by omega)
      rw [Mem.write, show a + (i + 1) = a + 1 + i by omega, this]; rfl

@[simp] theorem length_read (m : Mem) (a n : Nat) : (Mem.read m a n).length = n := by
  induction n generalizing a with
  | zero => rfl
  | succ n ih => simp [Mem.read, ih]

/-- A run read is its bytes. -/
theorem getElem_read (m : Mem) (a n i : Nat) (h : i < (Mem.read m a n).length) : (Mem.read m a n)[i] = Mem.byte m (a + i) := by
  induction n generalizing a i with
  | zero => simp at h
  | succ n ih =>
    cases i with
    | zero => rfl
    | succ i =>
      simp only [Mem.read, List.getElem_cons_succ]
      rw [ih (a + 1) i (by simpa [Mem.read] using h), show a + 1 + i = a + (i + 1) by omega]

/-- A run written and read back whole. -/
theorem read_write (m : Mem) (a : Nat) (xs : Bytes) (h : Mem.wf m = true) : Mem.read (Mem.write m a xs) a xs.length = xs := by
  apply List.ext_getElem
  · simp
  · intro i h1 h2
    rw [getElem_read, byte_write_inside m a xs i h (by simpa using h1)]

/-- A run that no write touches reads as before. -/
theorem read_write_outside (m : Mem) (a : Nat) (xs : Bytes) (a' n : Nat) (h : Mem.wf m = true)
    (ha : a' + n ≤ a ∨ a + xs.length ≤ a') : Mem.read (Mem.write m a xs) a' n = Mem.read m a' n := by
  apply List.ext_getElem
  · simp
  · intro i h1 h2
    rw [getElem_read, getElem_read, byte_write_outside m a xs _ h (by simp at h1; omega)]

end Sys2Proof.Laws
end

