-- ==== Sys2Proof/Laws/Keep.lean ====
section
/-! SUPPORT. What no command changes but the resets and the tick: the member and the time; and that the byte memories stay canonical. The
relation, and its lemmas for the shared operations on memory, registers, events and faults. -/
namespace Sys2Proof.Laws
open Sys2Proof Sys2Proof.Machine Sys2Proof.Safety

/-! ### Base -/

structure Keep (b0 b : Blk) : Prop where
  member : b.member = b0.member
  clk : b.clk = b0.clk
  khz : b.meshKhz = b0.meshKhz
  mem : MemOk b0 → MemOk b

theorem Keep.rfl (b : Blk) : Keep b b := ⟨Eq.refl _, Eq.refl _, Eq.refl _, id⟩

def upd (b : Blk) (sown : Sown) (opn : Opn) (tiles : Tbl Tile) (ports : Tbl Port) (traf : Traffic) (optics : Optics)
    (plots : Tbl Plot) (vault : Vault) (bindCount : BitVec 32) (fault : FaultSt) (quorum : Quorum) (power : Power) (mgmt : Mgmt)
    (host : HostIf) (hbma : Tbl HbmAttach) (fw : Firmware) (obs : Obs) (ecc : Ecc) (mcLog : List McNote) : Blk :=
  ⟨b.member, b.meshKhz, b.clk, sown, opn, tiles, ports, traf, optics, plots, vault, bindCount, fault, quorum, power, mgmt, host,
    hbma, fw, obs, b.sram, b.hbm, ecc, mcLog⟩

theorem upd_eq (b : Blk) (sown : Sown) (opn : Opn) (tiles : Tbl Tile) (ports : Tbl Port) (traf : Traffic) (optics : Optics)
    (plots : Tbl Plot) (vault : Vault) (bindCount : BitVec 32) (fault : FaultSt) (quorum : Quorum) (power : Power) (mgmt : Mgmt)
    (host : HostIf) (hbma : Tbl HbmAttach) (fw : Firmware) (obs : Obs) (ecc : Ecc) (mcLog : List McNote) :
    Blk.mk b.member b.meshKhz b.clk sown opn tiles ports traf optics plots vault bindCount fault quorum power mgmt host hbma fw obs
      b.sram b.hbm ecc mcLog =
      upd b sown opn tiles ports traf optics plots vault bindCount fault quorum power mgmt host hbma fw obs ecc mcLog := rfl

theorem keep_upd {b0 b : Blk} {sown : Sown} {opn : Opn} {tiles : Tbl Tile} {ports : Tbl Port} {traf : Traffic} {optics : Optics}
    {plots : Tbl Plot} {vault : Vault} {bindCount : BitVec 32} {fault : FaultSt} {quorum : Quorum} {power : Power} {mgmt : Mgmt}
    {host : HostIf} {hbma : Tbl HbmAttach} {fw : Firmware} {obs : Obs} {ecc : Ecc} {mcLog : List McNote} (h : Keep b0 b)
    (hh : HostOk b.host → HostOk host) (hf : FwOk b.fw → FwOk fw) :
    Keep b0 (upd b sown opn tiles ports traf optics plots vault bindCount fault quorum power mgmt host hbma fw obs ecc mcLog) :=
  ⟨h.member, h.clk, h.khz, fun m => ⟨(h.mem m).1, (h.mem m).2.1, hh (h.mem m).2.2.1, hf (h.mem m).2.2.2⟩⟩

theorem keep_each {b0 b : Blk} {α : Type} {l : List α} {f : Blk → α → Blk} (h : Keep b0 b)
    (hf : ∀ b x, Keep b0 b → Keep b0 (f b x)) : Keep b0 (b.each l f) := by
  unfold Blk.each
  induction l generalizing b with
  | nil => exact h
  | cons x l ih => exact ih (hf b x h)

theorem keep_foldl {b0 b : Blk} {α : Type} {l : List α} {f : Blk → α → Blk} (h : Keep b0 b)
    (hf : ∀ b x, Keep b0 b → Keep b0 (f b x)) : Keep b0 (l.foldl f b) := keep_each h hf

/-- A property of the value of an option, if any. -/
def OkO {α : Type} (P : α → Prop) : Option α → Prop
  | none => True
  | some a => P a

/-- A property of the value of a check that passes. -/
def OkE {ε α : Type} (P : α → Prop) : Except ε α → Prop
  | .error _ => True
  | .ok a => P a

theorem okO_none {α : Type} {P : α → Prop} : OkO P none := True.intro
theorem okO_some {α : Type} {P : α → Prop} {a : α} (h : P a) : OkO P (some a) := h
theorem okE_error {ε α : Type} {P : α → Prop} {e : ε} : OkE P (.error e : Except ε α) := True.intro
theorem okE_ok {ε α : Type} {P : α → Prop} {a : α} (h : P a) : OkE P (.ok a : Except ε α) := h
theorem okE_pure {ε α : Type} {P : α → Prop} {a : α} (h : P a) : OkE P (pure a : Except ε α) := h

theorem okE_bind {ε α β : Type} {P : β → Prop} {x : Except ε α} {f : α → Except ε β} (h : ∀ a, x = .ok a → OkE P (f a)) :
    OkE P (x >>= f) := by
  cases x with
  | error e => trivial
  | ok a => exact h a rfl

theorem okO_map {α β : Type} {P : β → Prop} {x : Option α} {f : α → β} (h : ∀ a, x = some a → P (f a)) :
    OkO P (x.map f) := by
  cases x with
  | none => trivial
  | some a => exact h a rfl

theorem okO_getD {b0 b : Blk} {o : Option Blk} (h : OkO (Keep b0) o) (hb : Keep b0 b) : Keep b0 (o.getD b) := by
  cases o with
  | none => exact hb
  | some a => exact h

theorem useO {b0 b1 : Blk} {o : Option Blk} (h : OkO (Keep b0) o) (e : o = some b1) : Keep b0 b1 := by subst e; exact h
theorem useO2 {b0 b1 : Blk} {α : Type} {q : α} {o : Option (α × Blk)} (h : OkO (fun x => Keep b0 x.2) o) (e : o = some (q, b1)) :
    Keep b0 b1 := by subst e; exact h
theorem useO2' {b0 : Blk} {α : Type} {r : α × Blk} {o : Option (α × Blk)} (h : OkO (fun x => Keep b0 x.2) o) (e : o = some r) :
    Keep b0 r.2 := by subst e; exact h
theorem useO3 {b0 b1 : Blk} {α β : Type} {q : α} {q2 : β} {o : Option (α × β × Blk)} (h : OkO (fun x => Keep b0 x.2.2) o)
    (e : o = some (q, q2, b1)) : Keep b0 b1 := by subst e; exact h
theorem useE {b0 b1 : Blk} {ε : Type} {o : Except ε Blk} (h : OkE (Keep b0) o) (e : o = .ok b1) : Keep b0 b1 := by subst e; exact h
theorem useE1 {b0 b1 : Blk} {ε α : Type} {q : α} {o : Except ε (Blk × α)} (h : OkE (fun x => Keep b0 x.1) o)
    (e : o = .ok (b1, q)) : Keep b0 b1 := by subst e; exact h
theorem useE1' {b0 : Blk} {ε α : Type} {r : Blk × α} {o : Except ε (Blk × α)} (h : OkE (fun x => Keep b0 x.1) o)
    (e : o = .ok r) : Keep b0 r.1 := by subst e; exact h
theorem useE2 {b0 : Blk} {ε α : Type} {r : α × Blk} {o : Except ε (α × Blk)} (h : OkE (fun x => Keep b0 x.2) o) (e : o = .ok r) :
    Keep b0 r.2 := by subst e; exact h
theorem useE2p {b0 b1 : Blk} {ε α : Type} {q : α} {o : Except ε (α × Blk)} (h : OkE (fun x => Keep b0 x.2) o)
    (e : o = .ok (q, b1)) : Keep b0 b1 := by subst e; exact h
theorem useE12 {b0 : Blk} {ε α β : Type} {r : (α × Blk) × β} {o : Except ε ((α × Blk) × β)}
    (h : OkE (fun x => Keep b0 x.1.2) o) (e : o = .ok r) : Keep b0 r.1.2 := by subst e; exact h
theorem useP {b0 b1 : Blk} {α : Type} {q : α} {p : Blk × α} (h : Keep b0 p.1) (e : p = (b1, q)) : Keep b0 b1 := by
  subst e; exact h

theorem keep_foldl1 {b0 : Blk} {α β : Type} {l : List α} {f : Blk × β → α → Blk × β} {a : Blk × β} (h : Keep b0 a.1)
    (hf : ∀ a x, Keep b0 a.1 → Keep b0 (f a x).1) : Keep b0 (l.foldl f a).1 := by
  induction l generalizing a with
  | nil => exact h
  | cons x l ih => exact ih (hf a x h)

theorem okE_foldl {ε α β : Type} {P : β → Prop} {l : List α} {f : Except ε β → α → Except ε β} {a : Except ε β} (h : OkE P a)
    (hf : ∀ a x, OkE P a → OkE P (f a x)) : OkE P (l.foldl f a) := by
  induction l generalizing a with
  | nil => exact h
  | cons x l ih => exact ih (hf a x h)
theorem okO_foldl {α β : Type} {P : β → Prop} {l : List α} {f : Option β → α → Option β} {a : Option β} (h : OkO P a)
    (hf : ∀ a x, OkO P a → OkO P (f a x)) : OkO P (l.foldl f a) := by
  induction l generalizing a with
  | nil => exact h
  | cons x l ih => exact ih (hf a x h)
theorem okO_bind {α β : Type} {P : β → Prop} {x : Option α} {f : α → Option β} (h : ∀ a, x = some a → OkO P (f a)) :
    OkO P (x.bind f) := by
  cases x with
  | none => trivial
  | some a => exact h a rfl

theorem keep_writeSram {b0 b : Blk} (h : Keep b0 b) (t a : Nat) (xs : Bytes) : Keep b0 (b.writeSram t a xs) :=
  ⟨h.member, h.clk, h.khz, fun m => ⟨wf_write _ _ _ (h.mem m).1, (h.mem m).2⟩⟩
theorem keep_zeroSram {b0 b : Blk} (h : Keep b0 b) (t a n : Nat) : Keep b0 (b.zeroSram t a n) :=
  ⟨h.member, h.clk, h.khz, fun m => ⟨wf_zero _ _ _ (h.mem m).1, (h.mem m).2⟩⟩
theorem keep_writeHbm {b0 b : Blk} (h : Keep b0 b) (d a : Nat) (xs : Bytes) : Keep b0 (b.writeHbm d a xs) :=
  ⟨h.member, h.clk, h.khz, fun m => ⟨(h.mem m).1, wf_write _ _ _ (h.mem m).2.1, (h.mem m).2.2⟩⟩
theorem keep_writeHost {b0 b : Blk} (h : Keep b0 b) (a : Nat) (xs : Bytes) : Keep b0 (b.writeHost a xs) :=
  ⟨h.member, h.clk, h.khz, fun m => ⟨(h.mem m).1, (h.mem m).2.1, ⟨wf_write _ _ _ (h.mem m).2.2.1.1, (h.mem m).2.2.1.2⟩, (h.mem m).2.2.2⟩⟩

theorem wf_slot {f : Firmware} (h : FwOk f) (s : Bool) : Mem.wf (f.slot s) = true := by
  unfold Firmware.slot; split
  · exact h.2
  · exact h.1
theorem fwOk_setSlot {f : Firmware} (h : FwOk f) (s : Bool) {m : Mem} (st : FwSlotState) (hm : Mem.wf m = true) :
    FwOk (f.setSlot s m st) := by
  unfold Firmware.setSlot; split
  · exact ⟨h.1, hm⟩
  · exact ⟨hm, h.2⟩
theorem fwOk_writeDir {f : Firmware} (h : FwOk f) (a t d : Bool) : FwOk (f.writeDir a t d) := by
  unfold Firmware.writeDir; dsimp only; split
  · exact h
  · exact h
theorem fwOk_tryTrial {f : Firmware} (h : FwOk f) : FwOk f.tryTrial := by
  unfold Firmware.tryTrial; repeat' split
  · exact h
  · exact fwOk_writeDir h _ _ _
  · exact h
theorem fwOk_choose {f g : Firmware} {s r : Bool} (h : FwOk f) (e : f.choose = some (s, r, g)) : FwOk g := by
  have hW := @fwOk_writeDir
  unfold Firmware.choose at e
  revert e hW
  generalize Firmware.writeDir = W
  generalize f.bootable = B
  generalize f.dir = D
  intro e hW
  cases D with
  | none =>
    try dsimp only at e
    split at e
    · injection e with e; injection e with _ e; injection e with _ e; subst e; exact hW h _ _ _
    · split at e
      · injection e with e; injection e with _ e; injection e with _ e; subst e; exact hW h _ _ _
      · exact absurd e (by simp)
  | some d =>
    try dsimp only at e
    split at e
    · split at e
      · injection e with e; injection e with _ e; injection e with _ e; subst e; exact hW h _ _ _
      · split at e
        · injection e with e; injection e with _ e; injection e with _ e; subst e; exact hW (hW h _ _ _) _ _ _
        · exact absurd e (by simp)
    · split at e
      · split at e
        · injection e with e; injection e with _ e; injection e with _ e; subst e; exact hW h _ _ _
        · split at e
          · injection e with e; injection e with _ e; injection e with _ e; subst e; exact hW h _ _ _
          · exact absurd e (by simp)
      · split at e
        · injection e with e; injection e with _ e; injection e with _ e; subst e; exact h
        · split at e
          · injection e with e; injection e with _ e; injection e with _ e; subst e; exact h
          · exact absurd e (by simp)

/-! ### Ops -/

theorem keep_setTile {b0 b : Blk} (h : Keep b0 b) (t : Nat) (x : Tile) : Keep b0 (Blk.setTile b t x) := by
  unfold Blk.setTile
  (try dsimp only)
  repeat' first | with_reducible assumption | with_reducible apply keep_upd | simp only [upd_eq] | (intro (hx : HostOk _); exact hx) | (intro (hx : FwOk _); exact hx)

theorem keep_modTile {b0 b : Blk} (h : Keep b0 b) (t : Nat) (f : Tile → Tile) : Keep b0 (Blk.modTile b t f) := by
  unfold Blk.modTile
  (try dsimp only)
  repeat' first | with_reducible assumption | with_reducible apply keep_setTile

theorem keep_setPort {b0 b : Blk} (h : Keep b0 b) (p : Nat) (x : Port) : Keep b0 (Blk.setPort b p x) := by
  unfold Blk.setPort
  (try dsimp only)
  repeat' first | with_reducible assumption | with_reducible apply keep_upd | simp only [upd_eq] | (intro (hx : HostOk _); exact hx) | (intro (hx : FwOk _); exact hx)

theorem keep_modPort {b0 b : Blk} (h : Keep b0 b) (p : Nat) (f : Port → Port) : Keep b0 (Blk.modPort b p f) := by
  unfold Blk.modPort
  (try dsimp only)
  repeat' first | with_reducible assumption | with_reducible apply keep_setPort

theorem keep_setPlot {b0 b : Blk} (h : Keep b0 b) (p : Nat) (x : Plot) : Keep b0 (Blk.setPlot b p x) := by
  unfold Blk.setPlot
  (try dsimp only)
  repeat' first | with_reducible assumption | with_reducible apply keep_upd | simp only [upd_eq] | (intro (hx : HostOk _); exact hx) | (intro (hx : FwOk _); exact hx)

theorem keep_modPlot {b0 b : Blk} (h : Keep b0 b) (p : Nat) (f : Plot → Plot) : Keep b0 (Blk.modPlot b p f) := by
  unfold Blk.modPlot
  (try dsimp only)
  repeat' first | with_reducible assumption | with_reducible apply keep_setPlot

theorem keep_modHbm {b0 b : Blk} (h : Keep b0 b) (t : Nat) (f : HbmAttach → HbmAttach) : Keep b0 (Blk.modHbm b t f) := by
  unfold Blk.modHbm
  (try dsimp only)
  repeat' first | with_reducible assumption | with_reducible apply keep_upd | simp only [upd_eq] | (intro (hx : HostOk _); exact hx) | (intro (hx : FwOk _); exact hx)

theorem keep_modLoop {b0 b : Blk} (h : Keep b0 b) (l : Nat) (f : Loop → Loop) : Keep b0 (Blk.modLoop b l f) := by
  unfold Blk.modLoop
  (try dsimp only)
  repeat' first | with_reducible assumption | with_reducible apply keep_upd | simp only [upd_eq] | (intro (hx : HostOk _); exact hx) | (intro (hx : FwOk _); exact hx)

theorem keep_modOptPort {b0 b : Blk} (h : Keep b0 b) (p : Nat) (f : OptPort → OptPort) : Keep b0 (Blk.modOptPort b p f) := by
  unfold Blk.modOptPort
  (try dsimp only)
  repeat' first | with_reducible assumption | with_reducible apply keep_upd | simp only [upd_eq] | (intro (hx : HostOk _); exact hx) | (intro (hx : FwOk _); exact hx)

theorem keep_modRing {b0 b : Blk} (h : Keep b0 b) (r : Nat) (f : Ring → Ring) : Keep b0 (Blk.modRing b r f) := by
  unfold Blk.modRing
  (try dsimp only)
  repeat' first | with_reducible assumption | with_reducible apply keep_upd | simp only [upd_eq] | (intro (hx : HostOk _); exact hx) | (intro (hx : FwOk _); exact hx)

theorem keep_modDie {b0 b : Blk} (h : Keep b0 b) (d : Nat) (f : DieLock → DieLock) : Keep b0 (Blk.modDie b d f) := by
  unfold Blk.modDie
  (try dsimp only)
  repeat' first | with_reducible assumption | with_reducible apply keep_upd | simp only [upd_eq] | (intro (hx : HostOk _); exact hx) | (intro (hx : FwOk _); exact hx)

theorem keep_modEgQueue {b0 b : Blk} (h : Keep b0 b) (p q : Nat) (f : EgQueue → EgQueue) : Keep b0 (Blk.modEgQueue b p q f) := by
  unfold Blk.modEgQueue
  (try dsimp only)
  repeat' first | with_reducible assumption | with_reducible apply keep_modPort

theorem keep_modBorrowed {b0 b : Blk} (h : Keep b0 b) (t : Nat) (r : Borrowed) : Keep b0 (Blk.modBorrowed b t r) := by
  unfold Blk.modBorrowed
  (try dsimp only)
  repeat' first | with_reducible assumption | with_reducible exact Keep.rfl _ | with_reducible apply keep_modTile | with_reducible apply keep_upd | simp only [upd_eq] | split | (intro (hx : HostOk _); exact hx) | (intro (hx : FwOk _); exact hx) | intro _

theorem keep_stolenAnswer {b0 b : Blk} (h : Keep b0 b) (t victim id : Nat) (put : Bool) (k : Nat) (a : Except Nat Bytes) : Keep b0 (Blk.stolenAnswer b t victim id put k a) := by
  unfold Blk.stolenAnswer
  (try dsimp only)
  repeat' first | with_reducible assumption | with_reducible exact Keep.rfl _ | with_reducible apply keep_modBorrowed | with_reducible apply keep_upd | simp only [upd_eq] | split | (intro (hx : HostOk _); exact hx) | (intro (hx : FwOk _); exact hx) | intro _

theorem keep_meterTakes {b0 b : Blk} (h : Keep b0 b) (i : Nat) (w : BitVec 256) : Keep b0 (Blk.meterTakes b i w) := by
  unfold Blk.meterTakes
  (try dsimp only)
  repeat' first | with_reducible assumption | with_reducible exact Keep.rfl _ | with_reducible apply keep_upd | simp only [upd_eq] | split | (intro (hx : HostOk _); exact hx) | (intro (hx : FwOk _); exact hx) | intro _

theorem keep_handlerActs {b0 b : Blk} (h : Keep b0 b) (t n : Nat) (h : Handler) : Keep b0 (Blk.handlerActs b t n h) := by
  unfold Blk.handlerActs
  (try dsimp only)
  repeat' first | with_reducible assumption | with_reducible exact Keep.rfl _ | with_reducible apply keep_modTile | with_reducible apply keep_upd | simp only [upd_eq] | split | (intro (hx : HostOk _); exact hx) | (intro (hx : FwOk _); exact hx) | intro _

theorem keep_forget {b0 b : Blk} (h : Keep b0 b)  : Keep b0 (Blk.forget b) := by
  unfold Blk.forget
  (try dsimp only)
  repeat' first | with_reducible assumption | with_reducible exact Keep.rfl _ | with_reducible apply keep_upd | simp only [upd_eq] | split | (intro (hx : HostOk _); exact hx) | (intro (hx : FwOk _); exact hx) | intro _

theorem keep_flightEnd {b0 b : Blk} (h : Keep b0 b) (n : Nat) (h : BitVec 128) : Keep b0 (Blk.flightEnd b n h) := by
  unfold Blk.flightEnd
  (try dsimp only)
  repeat' first | with_reducible assumption | with_reducible exact Keep.rfl _ | with_reducible apply keep_upd | simp only [upd_eq] | split | (intro (hx : HostOk _); exact hx) | (intro (hx : FwOk _); exact hx) | intro _

theorem keep_note {b0 b : Blk} (h : Keep b0 b) (n : McNote) : Keep b0 (Blk.note b n) := by
  unfold Blk.note
  (try dsimp only)
  repeat' first | with_reducible assumption | with_reducible exact Keep.rfl _ | with_reducible apply keep_upd | simp only [upd_eq] | split | (intro (hx : HostOk _); exact hx) | (intro (hx : FwOk _); exact hx) | intro _

theorem keep_fbPop {b0 b : Blk} (h : Keep b0 b) (t : Nat) (value : BitVec 32) : Keep b0 (Blk.fbPop b t value) := by
  unfold Blk.fbPop
  (try dsimp only)
  repeat' first | with_reducible assumption | with_reducible exact Keep.rfl _ | with_reducible apply keep_note | split | intro _

/-! ### Events -/

theorem keep_countN {b0 b : Blk} (h : Keep b0 b) (t e n : Nat) (plot : Option Nat) : Keep b0 (Blk.countN b t e n plot) := by
  unfold Blk.countN
  (try dsimp only)
  repeat' first | with_reducible assumption | with_reducible apply keep_modTile

theorem keep_count {b0 b : Blk} (h : Keep b0 b) (t e : Nat) (plot : Option Nat) : Keep b0 (Blk.count b t e plot) := by
  unfold Blk.count
  (try dsimp only)
  repeat' first | with_reducible assumption | with_reducible apply keep_countN

theorem keep_countSys {b0 b : Blk} (h : Keep b0 b) (e : Nat) : Keep b0 (Blk.countSys b e) := by
  unfold Blk.countSys
  (try dsimp only)
  repeat' first | with_reducible assumption | with_reducible apply keep_count

theorem keep_unfallow {b0 b : Blk} (h : Keep b0 b) (p : Nat) : Keep b0 (Blk.unfallow b p) := by
  unfold Blk.unfallow
  (try dsimp only)
  repeat' first | with_reducible assumption | with_reducible exact Keep.rfl _ | with_reducible apply keep_countSys | with_reducible apply keep_upd | simp only [upd_eq] | split | (intro (hx : HostOk _); exact hx) | (intro (hx : FwOk _); exact hx) | intro _

theorem keep_ringIrq {b0 b : Blk} (h : Keep b0 b) (r : Nat) : Keep b0 (Blk.ringIrq b r) := by
  unfold Blk.ringIrq
  (try dsimp only)
  repeat' first | with_reducible assumption | with_reducible apply keep_upd | with_reducible apply keep_modRing | simp only [upd_eq] | split | (intro (hx : HostOk _); exact hx) | (intro (hx : FwOk _); exact hx)

theorem keep_ringWrite {b0 b : Blk} (h : Keep b0 b) (r : Nat) (e : Event) : Keep b0 (Blk.ringWrite b r e) := by
  unfold Blk.ringWrite
  (try dsimp only)
  repeat' first | with_reducible assumption | with_reducible apply keep_modRing | with_reducible apply keep_writeHost | with_reducible apply keep_ringIrq

theorem keep_ringOverflow {b0 b : Blk} (h : Keep b0 b) (r : Nat) : Keep b0 (Blk.ringOverflow b r) := by
  unfold Blk.ringOverflow
  (try dsimp only)
  repeat' first | with_reducible assumption | with_reducible exact Keep.rfl _ | with_reducible apply keep_modRing | with_reducible apply keep_ringWrite | with_reducible apply keep_upd | simp only [upd_eq] | split | (intro (hx : HostOk _); exact hx) | (intro (hx : FwOk _); exact hx) | intro _

theorem keep_ringPost {b0 b : Blk} (h : Keep b0 b) (r : Nat) (e : Event) : Keep b0 (Blk.ringPost b r e) := by
  unfold Blk.ringPost
  (try dsimp only)
  repeat' first | with_reducible assumption | with_reducible apply keep_modRing | with_reducible apply keep_countSys | with_reducible apply keep_ringWrite | with_reducible apply keep_note | with_reducible apply keep_upd | simp only [upd_eq] | split | intro _ | (intro (hx : HostOk _); exact hx) | (intro (hx : FwOk _); exact hx)

theorem keep_postSystem {b0 b : Blk} (h : Keep b0 b) (e : Event) : Keep b0 (Blk.postSystem b e) := by
  unfold Blk.postSystem
  (try dsimp only)
  repeat' first | with_reducible assumption | with_reducible apply keep_upd | with_reducible apply keep_countSys | with_reducible apply keep_ringPost | simp only [upd_eq] | split | (intro (hx : HostOk _); exact hx) | (intro (hx : FwOk _); exact hx)

theorem keep_post {b0 b : Blk} (h : Keep b0 b) (sys : Bool) (e : Event) : Keep b0 (Blk.post b sys e) := by
  unfold Blk.post
  (try dsimp only)
  repeat' first | with_reducible assumption | with_reducible exact Keep.rfl _ | with_reducible apply keep_countSys | with_reducible apply keep_ringPost | with_reducible apply keep_postSystem | with_reducible apply keep_upd | simp only [upd_eq] | split | (intro (hx : HostOk _); exact hx) | (intro (hx : FwOk _); exact hx) | intro _

theorem keep_postEvents {b0 b : Blk} (h : Keep b0 b)  : Keep b0 (Blk.postEvents b) := by
  unfold Blk.postEvents
  (try dsimp only)
  repeat' first | with_reducible assumption | with_reducible exact Keep.rfl _ | with_reducible apply keep_each | with_reducible apply keep_post | split | intro _

theorem keep_hangEvent {b0 b : Blk} (h : Keep b0 b) (e : Event) : Keep b0 (Blk.hangEvent b e) := by
  unfold Blk.hangEvent
  (try dsimp only)
  repeat' first | with_reducible assumption | with_reducible apply keep_modTile | split

theorem keep_raiseS {b0 b : Blk} (h : Keep b0 b) (type plot : Nat) (tile : Option Nat) (d0 : Nat) (d1 : Nat) (d2 : Nat) (d3 : Nat) : Keep b0 (Blk.raiseS b type plot tile d0 d1 d2 d3) := by
  unfold Blk.raiseS
  (try dsimp only)
  repeat' first | with_reducible assumption | with_reducible apply keep_postSystem | with_reducible apply keep_hangEvent | with_reducible apply keep_note | split | intro _

theorem keep_raiseP {b0 b : Blk} (h : Keep b0 b) (type plot : Nat) (tile : Option Nat) (d0 : Nat) (d1 : Nat) (d2 : Nat) (d3 : Nat) : Keep b0 (Blk.raiseP b type plot tile d0 d1 d2 d3) := by
  unfold Blk.raiseP
  (try dsimp only)
  repeat' first | with_reducible assumption | with_reducible apply keep_countSys | with_reducible apply keep_ringPost | with_reducible apply keep_postSystem | with_reducible apply keep_hangEvent | with_reducible apply keep_note | split | intro _

theorem keep_drop {b0 b : Blk} (h : Keep b0 b) (t reason : Nat) (port : Option Nat) (plot : Option Nat) : Keep b0 (Blk.drop b t reason port plot) := by
  unfold Blk.drop
  (try dsimp only)
  repeat' first | with_reducible assumption | with_reducible apply keep_count | with_reducible apply keep_raiseS

theorem keep_writePlotHbm {b0 b : Blk} (h : Keep b0 b) (plot off : Nat) (xs : Bytes) : Keep b0 (Blk.writePlotHbm b plot off xs) := by
  unfold Blk.writePlotHbm
  exact keep_foldl1 h fun _ x hb => keep_writeHbm hb x.1 x.2.1 _

theorem keep_collWrite {b0 b : Blk} (h : Keep b0 b) (plot : Nat) (p : Part) (fmt n off : Nat) (data : Bytes) : Keep b0 (Blk.collWrite b plot p fmt n off data) := by
  unfold Blk.collWrite
  (try dsimp only)
  repeat' first | with_reducible assumption | with_reducible exact Keep.rfl _ | with_reducible apply keep_each | with_reducible apply keep_writeSram | with_reducible apply keep_drop | with_reducible apply keep_writePlotHbm | split | intro _

theorem keep_fbPopActs {b0 b : Blk} (h : Keep b0 b) (t : Nat) : Keep b0 (Blk.fbPopActs b t) := by
  unfold Blk.fbPopActs
  (try dsimp only)
  repeat' first | with_reducible assumption | with_reducible exact Keep.rfl _ | with_reducible apply keep_modTile | with_reducible apply keep_drop | with_reducible apply keep_upd | simp only [upd_eq] | split | (intro (hx : HostOk _); exact hx) | (intro (hx : FwOk _); exact hx) | intro _

theorem keep_traceOne {b0 b : Blk} (h : Keep b0 b) (t : Nat) (r : BitVec 128) : Keep b0 (Blk.traceOne b t r) := by
  unfold Blk.traceOne
  (try dsimp only)
  repeat' first | with_reducible assumption | with_reducible apply keep_modTile | with_reducible apply keep_count | split

theorem keep_trace {b0 b : Blk} (h : Keep b0 b) (t kind data : Nat) : Keep b0 (Blk.trace b t kind data) := by
  unfold Blk.trace
  (try dsimp only)
  repeat' first | with_reducible assumption | with_reducible apply keep_modTile | with_reducible apply keep_traceOne | split

theorem keep_traceMark {b0 b : Blk} (h : Keep b0 b) (t kind data : Nat) : Keep b0 (Blk.traceMark b t kind data) := by
  unfold Blk.traceMark
  (try dsimp only)
  repeat' first | with_reducible assumption | with_reducible apply keep_trace | split

theorem keep_traceCmd {b0 b : Blk} (h : Keep b0 b) (t kind data : Nat) : Keep b0 (Blk.traceCmd b t kind data) := by
  unfold Blk.traceCmd
  (try dsimp only)
  repeat' first | with_reducible assumption | with_reducible apply keep_trace | split

theorem keep_tracePkt {b0 b : Blk} (h : Keep b0 b) (t data : Nat) : Keep b0 (Blk.tracePkt b t data) := by
  unfold Blk.tracePkt
  (try dsimp only)
  repeat' first | with_reducible assumption | with_reducible apply keep_trace | split

/-! ### Fault -/

theorem keep_fence {b0 b : Blk} (h : Keep b0 b) (t mask : Nat) : Keep b0 (Blk.fence b t mask) := by
  unfold Blk.fence
  (try dsimp only)
  repeat' first | with_reducible assumption | with_reducible apply keep_upd | simp only [upd_eq] | (intro (hx : HostOk _); exact hx) | (intro (hx : FwOk _); exact hx)

theorem keep_unfence {b0 b : Blk} (h : Keep b0 b) (t mask : Nat) : Keep b0 (Blk.unfence b t mask) := by
  unfold Blk.unfence
  (try dsimp only)
  repeat' first | with_reducible assumption | with_reducible apply keep_upd | simp only [upd_eq] | (intro (hx : HostOk _); exact hx) | (intro (hx : FwOk _); exact hx)

theorem keep_swapRefused {b0 b : Blk} (h : Keep b0 b) (reason : Nat) : Keep b0 (Blk.swapRefused b reason) := by
  unfold Blk.swapRefused
  (try dsimp only)
  repeat' first | with_reducible assumption | with_reducible apply keep_raiseS

theorem keep_swapCancel {b0 b : Blk} (h : Keep b0 b) (reason : Nat) (dest : ShadowState) : Keep b0 (Blk.swapCancel b reason dest) := by
  unfold Blk.swapCancel
  (try dsimp only)
  repeat' first | with_reducible assumption | with_reducible apply keep_upd | with_reducible apply keep_raiseS | simp only [upd_eq] | (intro (hx : HostOk _); exact hx) | (intro (hx : FwOk _); exact hx)

theorem keep_faultEvent {b0 b : Blk} (h : Keep b0 b) (f : Failover) (outcome : Nat) : Keep b0 (Blk.faultEvent b f outcome) := by
  unfold Blk.faultEvent
  (try dsimp only)
  repeat' first | with_reducible assumption | with_reducible apply keep_postSystem | with_reducible apply keep_hangEvent | with_reducible apply keep_each | with_reducible apply keep_upd | with_reducible apply keep_note | simp only [upd_eq] | split | intro _ | (intro (hx : HostOk _); exact hx) | (intro (hx : FwOk _); exact hx)

theorem keep_failWait {b0 b : Blk} (h : Keep b0 b) (f : Failover) : Keep b0 (Blk.failWait b f) := by
  unfold Blk.failWait
  (try dsimp only)
  repeat' first | with_reducible assumption | with_reducible exact Keep.rfl _ | with_reducible apply keep_faultEvent | with_reducible apply keep_upd | simp only [upd_eq] | split | (intro (hx : HostOk _); exact hx) | (intro (hx : FwOk _); exact hx) | intro _

theorem keep_tellFault {b0 b : Blk} (h : Keep b0 b) (f : Failover) (outcome : Nat) : Keep b0 (Blk.tellFault b f outcome) := by
  unfold Blk.tellFault
  (try dsimp only)
  repeat' first | with_reducible assumption | with_reducible apply keep_faultEvent | split

theorem keep_lockCancel {b0 b : Blk} (h : Keep b0 b)  : Keep b0 (Blk.lockCancel b) := by
  unfold Blk.lockCancel
  (try dsimp only)
  repeat' first | with_reducible assumption | with_reducible exact Keep.rfl _ | with_reducible apply keep_swapCancel | with_reducible apply keep_tellFault | with_reducible apply keep_upd | simp only [upd_eq] | split | (intro (hx : HostOk _); exact hx) | (intro (hx : FwOk _); exact hx) | intro _

theorem keep_startFailover {b0 b : Blk} (h : Keep b0 b) (f : Failover) : Keep b0 (Blk.startFailover b f) := by
  unfold Blk.startFailover
  (try dsimp only)
  repeat' first | with_reducible assumption | with_reducible apply keep_upd | with_reducible apply keep_tellFault | simp only [upd_eq] | split | (intro (hx : HostOk _); exact hx) | (intro (hx : FwOk _); exact hx)

theorem keep_failover {b0 b : Blk} (h : Keep b0 b) (f : Failover) : Keep b0 (Blk.failover b f) := by
  unfold Blk.failover
  (try dsimp only)
  repeat' first | with_reducible assumption | with_reducible apply keep_upd | with_reducible apply keep_swapCancel | with_reducible apply keep_faultEvent | with_reducible apply keep_startFailover | with_reducible apply keep_failWait | simp only [upd_eq] | split | (intro (hx : HostOk _); exact hx) | (intro (hx : FwOk _); exact hx) | intro _

theorem keep_hangDump {b0 b : Blk} (h : Keep b0 b) (c : Nat) : Keep b0 (Blk.hangDump b c) := by
  unfold Blk.hangDump
  (try dsimp only)
  repeat' first | with_reducible assumption | with_reducible apply keep_writeHost | with_reducible apply keep_raiseS | split

theorem keep_hangFreeze {b0 b : Blk} (h : Keep b0 b) (cls res : Nat) : Keep b0 (Blk.hangFreeze b cls res) := by
  unfold Blk.hangFreeze
  (try dsimp only)
  repeat' first | with_reducible assumption | with_reducible apply keep_each | with_reducible apply keep_modTile | with_reducible apply keep_hangDump | with_reducible apply keep_note | with_reducible apply keep_upd | simp only [upd_eq] | split | intro _ | (intro (hx : HostOk _); exact hx) | (intro (hx : FwOk _); exact hx)

theorem keep_declare {b0 b : Blk} (h : Keep b0 b) (cls res : Nat) : Keep b0 (Blk.declare b cls res) := by
  unfold Blk.declare
  (try dsimp only)
  repeat' first | with_reducible assumption | with_reducible apply keep_each | with_reducible apply keep_upd | with_reducible apply keep_fence | with_reducible apply keep_faultEvent | with_reducible apply keep_failover | with_reducible apply keep_hangFreeze | simp only [upd_eq] | split | (intro (hx : HostOk _); exact hx) | (intro (hx : FwOk _); exact hx) | intro _

theorem keep_undeclare {b0 b : Blk} (h : Keep b0 b) (cls res : Nat) : Keep b0 (Blk.undeclare b cls res) := by
  unfold Blk.undeclare
  (try dsimp only)
  repeat' first | with_reducible assumption | with_reducible apply keep_upd | simp only [upd_eq] | (intro (hx : HostOk _); exact hx) | (intro (hx : FwOk _); exact hx)

theorem keep_rejoined {b0 b : Blk} (h : Keep b0 b) (v : BitVec 32) : Keep b0 (Blk.rejoined b v) := by
  unfold Blk.rejoined
  (try dsimp only)
  repeat' first | with_reducible assumption | with_reducible exact Keep.rfl _ | with_reducible apply keep_each | with_reducible apply keep_undeclare | with_reducible apply keep_upd | simp only [upd_eq] | split | (intro (hx : HostOk _); exact hx) | (intro (hx : FwOk _); exact hx) | intro _

theorem keep_addWear {b0 b : Blk} (h : Keep b0 b) (kind idx n : Nat) : Keep b0 (Blk.addWear b kind idx n) := by
  unfold Blk.addWear
  (try dsimp only)
  repeat' first | with_reducible assumption | with_reducible apply keep_upd | with_reducible apply keep_raiseS | with_reducible apply keep_note | simp only [upd_eq] | split | (intro (hx : HostOk _); exact hx) | (intro (hx : FwOk _); exact hx) | intro _

theorem keep_decayWear {b0 b : Blk} (h : Keep b0 b)  : Keep b0 (Blk.decayWear b) := by
  unfold Blk.decayWear
  (try dsimp only)
  repeat' first | with_reducible assumption | with_reducible apply keep_upd | simp only [upd_eq] | (intro (hx : HostOk _); exact hx) | (intro (hx : FwOk _); exact hx)

theorem keep_corrected {b0 b : Blk} (h : Keep b0 b) (t : Nat) : Keep b0 (Blk.corrected b t) := by
  unfold Blk.corrected
  (try dsimp only)
  repeat' first | with_reducible assumption | with_reducible apply keep_count | with_reducible apply keep_addWear

theorem keep_routerMemory {b0 b : Blk} (h : Keep b0 b) (t : Nat) : Keep b0 (Blk.routerMemory b t) := by
  unfold Blk.routerMemory
  (try dsimp only)
  repeat' first | with_reducible assumption | with_reducible exact Keep.rfl _ | with_reducible apply keep_declare | with_reducible apply keep_corrected | with_reducible apply keep_upd | simp only [upd_eq] | split | (intro (hx : HostOk _); exact hx) | (intro (hx : FwOk _); exact hx) | intro _

end Sys2Proof.Laws
end

