-- ==== Sys2Proof/Laws/KeepEngines.lean ====
section
/-! SUPPORT. The relation Keep through the lists, engines, routers, requests, queues and attach tiles. -/
namespace Sys2Proof.Laws
open Sys2Proof Sys2Proof.Machine Sys2Proof.Safety

/-! ### Streams -/

theorem keep_streamStop {b0 b : Blk} (h : Keep b0 b) (t i : Nat) : Keep b0 (Blk.streamStop b t i) := by
  unfold Blk.streamStop
  (try dsimp only)
  repeat' first | with_reducible assumption | with_reducible apply keep_modHbm | with_reducible apply keep_countN | with_reducible apply keep_raiseP | split

theorem keep_streamTake {b0 b : Blk} (h : Keep b0 b) (t plot furrow cells cap : Nat) : Keep b0 (Blk.streamTake b t plot furrow cells cap).2 := by
  unfold Blk.streamTake
  (try dsimp only)
  repeat' first | with_reducible assumption | with_reducible apply keep_modHbm | split

theorem keep_streamLand {b0 b : Blk} (h : Keep b0 b) (t plot furrow index : Nat) (data : Bytes) (stale : Bool) : Keep b0 (Blk.streamLand b t plot furrow index data stale) := by
  unfold Blk.streamLand
  (try dsimp only)
  repeat' first | with_reducible assumption | with_reducible apply keep_modHbm | split

theorem keep_streamFrame_go {b0 : Blk} (t : Nat) (l : List (Nat × (Bytes × Bool))) : ∀ (b : Blk) (want : Nat) (s : HbmStream),
    Keep b0 b → Keep b0 (Blk.streamFrame.go t b l want s).1 := by
  induction l with
  | nil => intro b want s h; exact h
  | cons x l ih =>
    intro b want s h
    unfold Blk.streamFrame.go
    repeat' first | assumption | with_reducible apply ih | with_reducible apply keep_writeHbm | split

theorem keep_streamFrame {b0 b : Blk} (h : Keep b0 b) (t i : Nat) (s : HbmStream) : Keep b0 (Blk.streamFrame b t i s) := by
  unfold Blk.streamFrame
  (try dsimp only)
  have hg := keep_streamFrame_go t s.landed b 0 s h
  repeat' first | with_reducible assumption | with_reducible apply keep_modHbm | with_reducible apply keep_streamStop | split

theorem keep_streamTick {b0 b : Blk} (h : Keep b0 b)  : Keep b0 (Blk.streamTick b) := by
  unfold Blk.streamTick
  (try dsimp only)
  repeat' first | with_reducible assumption | with_reducible apply keep_each | with_reducible apply keep_streamFrame | intro _

theorem keep_streamStopIf {b0 b : Blk} (h : Keep b0 b) (p : Nat → HbmStream → Bool) : Keep b0 (Blk.streamStopIf b p) := by
  unfold Blk.streamStopIf
  (try dsimp only)
  repeat' first | with_reducible assumption | with_reducible apply keep_each | with_reducible apply keep_streamStop | split | intro _

/-! ### Lists -/

theorem keep_signal {b0 b : Blk} (h : Keep b0 b) (t plot k n : Nat) : Keep b0 (Blk.signal b t plot k n) := by
  unfold Blk.signal
  (try dsimp only)
  repeat' first | with_reducible assumption | with_reducible apply keep_modTile | with_reducible apply keep_count | with_reducible apply keep_raiseP | split

theorem keep_modSheaf {b0 b : Blk} (h : Keep b0 b) (t e sid : Nat) (f : Sheaf → Sheaf) : Keep b0 (Blk.modSheaf b t e sid f) := by
  unfold Blk.modSheaf
  (try dsimp only)
  repeat' first | with_reducible assumption | with_reducible apply keep_modTile

theorem keep_takeBack {b0 b : Blk} (h : Keep b0 b) (v e sid : Nat) : Keep b0 (Blk.takeBack b v e sid) := by
  unfold Blk.takeBack
  (try dsimp only)
  repeat' first | with_reducible assumption | with_reducible exact Keep.rfl _ | with_reducible apply keep_modSheaf | with_reducible apply keep_upd | simp only [upd_eq] | split | (intro (hx : HostOk _); exact hx) | (intro (hx : FwOk _); exact hx) | intro _

theorem keep_started {b0 b : Blk} (h : Keep b0 b) (t : Nat) (s : Sheaf) : Keep b0 (Blk.started b t s) := by
  unfold Blk.started
  (try dsimp only)
  repeat' first | with_reducible assumption | with_reducible apply keep_modTile | with_reducible apply keep_traceCmd | split

theorem keep_finished {b0 b : Blk} (h : Keep b0 b) (t e : Nat) (s : Sheaf) (st d : Nat) : Keep b0 (Blk.finished b t e s st d) := by
  unfold Blk.finished
  (try dsimp only)
  repeat' first | with_reducible assumption | with_reducible apply keep_modSheaf | with_reducible apply keep_raiseP | split

theorem keep_run {b0 b : Blk} (h : Keep b0 b) (t e op : Nat) {f : Blk → Sheaf → Blk × Ran}
    (hf : ∀ b s, Keep b0 b → Keep b0 (f b s).1) : Keep b0 (Blk.run b t e op f) := by
  unfold Blk.run
  (try dsimp only)
  repeat' first | with_reducible assumption | with_reducible apply keep_modSheaf | with_reducible apply keep_started | with_reducible apply keep_upd | with_reducible apply keep_finished | simp only [upd_eq] | split | intro _ | (intro (hx : HostOk _); exact hx) | (intro (hx : FwOk _); exact hx)
  · exact hf _ _ (keep_started h _ _)
  · exact hf _ _ (keep_started h _ _)

theorem keep_completeCmd {b0 b : Blk} (h : Keep b0 b) (t plot ctx index status detail : Nat) (c : BitVec 256) : Keep b0 (Blk.completeCmd b t plot ctx index status detail c) := by
  unfold Blk.completeCmd
  (try dsimp only)
  repeat' first | with_reducible assumption | with_reducible apply keep_modTile | with_reducible apply keep_raiseP | with_reducible apply keep_signal | split

theorem keep_completeSheaf {b0 b : Blk} (h : Keep b0 b) (t e : Nat) (s : Sheaf) : Keep b0 (Blk.completeSheaf b t e s) := by
  unfold Blk.completeSheaf
  (try dsimp only)
  repeat' first | with_reducible assumption | with_reducible apply keep_modTile | with_reducible apply keep_count | with_reducible apply keep_traceCmd | with_reducible apply keep_completeCmd

theorem keep_abortCtx {b0 b : Blk} (h : Keep b0 b) (t c : Nat) : Keep b0 (Blk.abortCtx b t c) := by
  unfold Blk.abortCtx
  (try dsimp only)
  repeat' first | with_reducible assumption | with_reducible apply keep_each | with_reducible apply keep_modTile | with_reducible apply keep_completeSheaf | split | intro _

theorem keep_complete {b0 b : Blk} (h : Keep b0 b) (t e : Nat) (s : Sheaf) : Keep b0 (Blk.complete b t e s) := by
  unfold Blk.complete
  (try dsimp only)
  repeat' first | with_reducible assumption | with_reducible apply keep_modTile | with_reducible apply keep_completeSheaf | with_reducible apply keep_abortCtx | split

theorem keep_completeNext {b0 b : Blk} (h : Keep b0 b) (t e : Nat) : Keep b0 (Blk.completeNext b t e) := by
  unfold Blk.completeNext
  (try dsimp only)
  repeat' first | with_reducible assumption | with_reducible apply keep_complete | with_reducible apply keep_finished | with_reducible apply keep_upd | simp only [upd_eq] | split | intro _ | (intro (hx : HostOk _); exact hx) | (intro (hx : FwOk _); exact hx)

theorem keep_missed {b0 b : Blk} (h : Keep b0 b) (t plot ctx index : Nat) : Keep b0 (Blk.missed b t plot ctx index) := by
  unfold Blk.missed
  (try dsimp only)
  repeat' first | with_reducible assumption | with_reducible apply keep_count | with_reducible apply keep_raiseP

theorem keep_missEngine {b0 b : Blk} (h : Keep b0 b) (t e : Nat) : Keep b0 (Blk.missEngine b t e) := by
  unfold Blk.missEngine
  (try dsimp only)
  repeat' first | with_reducible assumption | with_reducible apply keep_each | with_reducible apply keep_modTile | with_reducible apply keep_modSheaf | with_reducible apply keep_completeSheaf | with_reducible apply keep_missed | split | intro _

theorem keep_missTile {b0 b : Blk} (h : Keep b0 b) (t : Nat) : Keep b0 (Blk.missTile b t) := by
  unfold Blk.missTile
  (try dsimp only)
  repeat' first | with_reducible assumption | with_reducible apply keep_each | with_reducible apply keep_modTile | with_reducible apply keep_abortCtx | with_reducible apply keep_missEngine | intro _

theorem keep_limitAbort {b0 b : Blk} (h : Keep b0 b) (t c : Nat) (cmd : BitVec 256) : Keep b0 (Blk.limitAbort b t c cmd) := by
  unfold Blk.limitAbort
  (try dsimp only)
  repeat' first | with_reducible assumption | with_reducible apply keep_modTile | with_reducible apply keep_abortCtx

theorem keep_dispatchDone {b0 b : Blk} (h : Keep b0 b) (t c : Nat) (cmd : BitVec 256) (status : Nat) (next : ListFrame → ListFrame) : Keep b0 (Blk.dispatchDone b t c cmd status next) := by
  unfold Blk.dispatchDone
  (try dsimp only)
  repeat' first | with_reducible assumption | with_reducible apply keep_modTile | with_reducible apply keep_completeCmd | with_reducible apply keep_abortCtx | split

theorem keep_dispatch {b0 b : Blk} (h : Keep b0 b) (t c : Nat) : Keep b0 (Blk.dispatch b t c) := by
  unfold Blk.dispatch
  (try dsimp only)
  repeat' first | with_reducible assumption | with_reducible apply keep_modTile | with_reducible apply keep_missed | with_reducible apply keep_limitAbort | with_reducible apply keep_dispatchDone | with_reducible apply keep_finished | with_reducible apply keep_upd | simp only [upd_eq] | split | intro _ | (intro (hx : HostOk _); exact hx) | (intro (hx : FwOk _); exact hx)

theorem keep_ctxStarted {b0 b : Blk} (h : Keep b0 b) (t : Nat) (cmd : BitVec 256) : Keep b0 (Blk.ctxStarted b t cmd) := by
  unfold Blk.ctxStarted
  (try dsimp only)
  repeat' first | with_reducible assumption | with_reducible apply keep_modTile | split

theorem keep_listLoop {b0 b : Blk} (h : Keep b0 b) (t c : Nat) : Keep b0 (Blk.listLoop b t c) := by
  unfold Blk.listLoop
  (try dsimp only)
  repeat' first | with_reducible assumption | with_reducible apply keep_modTile | with_reducible apply keep_completeCmd | with_reducible apply keep_abortCtx | with_reducible apply keep_limitAbort | with_reducible apply keep_dispatchDone | with_reducible apply keep_ctxStarted | split

theorem keep_listCall {b0 b : Blk} (h : Keep b0 b) (t c : Nat) : Keep b0 (Blk.listCall b t c) := by
  unfold Blk.listCall
  (try dsimp only)
  repeat' first | with_reducible assumption | with_reducible apply keep_modTile | with_reducible apply keep_dispatchDone | with_reducible apply keep_ctxStarted | split

theorem keep_listEnd {b0 b : Blk} (h : Keep b0 b) (t c : Nat) : Keep b0 (Blk.listEnd b t c) := by
  unfold Blk.listEnd
  (try dsimp only)
  repeat' first | with_reducible assumption | with_reducible apply keep_modTile | with_reducible apply keep_completeCmd | with_reducible apply keep_dispatchDone | with_reducible apply keep_ctxStarted | split

theorem keep_launch {b0 b : Blk} (h : Keep b0 b) (p : Nat) (v : BitVec 128) : Keep b0 (Blk.launch b p v) := by
  unfold Blk.launch
  (try dsimp only)
  repeat' first | with_reducible assumption | with_reducible apply keep_modTile | with_reducible apply keep_modPlot | with_reducible apply keep_count | with_reducible apply keep_countSys | with_reducible apply keep_note | with_reducible apply keep_upd | simp only [upd_eq] | split | intro _ | (intro (hx : HostOk _); exact hx) | (intro (hx : FwOk _); exact hx)

theorem keep_unlaunch {b0 b : Blk} (h : Keep b0 b) (c : Nat) : Keep b0 (Blk.unlaunch b c) := by
  unfold Blk.unlaunch
  (try dsimp only)
  repeat' first | with_reducible assumption | with_reducible exact Keep.rfl _ | with_reducible apply keep_each | with_reducible apply keep_modTile | with_reducible apply keep_modPlot | with_reducible apply keep_launch | with_reducible apply keep_upd | simp only [upd_eq] | split | (intro (hx : HostOk _); exact hx) | (intro (hx : FwOk _); exact hx) | intro _

theorem keep_launchDequeue {b0 b : Blk} (h : Keep b0 b) (t : Nat) : Keep b0 (Blk.launchDequeue b t) := by
  unfold Blk.launchDequeue
  (try dsimp only)
  repeat' first | with_reducible assumption | with_reducible apply keep_modTile | with_reducible apply keep_dispatch | with_reducible apply keep_launch | with_reducible apply keep_upd | with_reducible apply keep_note | simp only [upd_eq] | split | intro _ | (intro (hx : HostOk _); exact hx) | (intro (hx : FwOk _); exact hx)

theorem keep_runListWait {b0 b : Blk} (h : Keep b0 b) (t : Nat) (s : Sheaf) : Keep b0 (runListWait t b s).1 := by
  unfold runListWait
  (try dsimp only)
  repeat' first | with_reducible assumption | with_reducible apply keep_modTile | split

theorem keep_runListSignal {b0 b : Blk} (h : Keep b0 b) (t : Nat) (s : Sheaf) : Keep b0 (runListSignal t b s).1 := by
  unfold runListSignal
  (try dsimp only)
  repeat' first | with_reducible assumption | with_reducible apply keep_signal | split

theorem keep_runListTick {b0 b : Blk} (h : Keep b0 b) (t e : Nat) (s : Sheaf) : Keep b0 (runListTick t e b s).1 := by
  unfold runListTick
  (try dsimp only)
  repeat' first | with_reducible assumption | with_reducible apply keep_modSheaf | split

theorem keep_runListEvent {b0 b : Blk} (h : Keep b0 b) (t : Nat) (s : Sheaf) : Keep b0 (runListEvent t b s).1 := by
  unfold runListEvent
  (try dsimp only)
  repeat' first | with_reducible assumption | with_reducible apply keep_raiseP

/-! ### SownPlane -/

theorem keep_setStaging {b0 b : Blk} (h : Keep b0 b) (k : Nat) (x : Staging) : Keep b0 (Blk.setStaging b k x) := by
  unfold Blk.setStaging
  (try dsimp only)
  repeat' first | with_reducible assumption | with_reducible apply keep_upd | simp only [upd_eq] | (intro (hx : HostOk _); exact hx) | (intro (hx : FwOk _); exact hx)

theorem keep_takeCells {b0 b : Blk} (h : Keep b0 b) (t : Nat) (d : BitVec 128) (cap : Nat) : Keep b0 (Blk.takeCells b t d cap).2.2 := by
  unfold Blk.takeCells
  (try dsimp only)
  repeat' first | with_reducible assumption | with_reducible apply keep_upd | with_reducible apply keep_streamTake | with_reducible apply keep_setStaging | simp only [upd_eq] | split | (intro (hx : HostOk _); exact hx) | (intro (hx : FwOk _); exact hx)

theorem keep_land {b0 b : Blk} (h : Keep b0 b) (t : Nat) (gen : BitVec 16) (c : Cell) : Keep b0 (Blk.land b t gen c) := by
  unfold Blk.land
  (try dsimp only)
  repeat' first | with_reducible assumption | with_reducible apply keep_modPort | with_reducible apply keep_writeSram | with_reducible apply keep_count | with_reducible apply keep_drop | with_reducible apply keep_streamLand | with_reducible apply keep_setStaging | split

theorem keep_sendCell {b0 b : Blk} (h : Keep b0 b) (t o : Nat) (gen : BitVec 16) (c : Cell) : Keep b0 (Blk.sendCell b t o gen c) := by
  unfold Blk.sendCell
  (try dsimp only)
  repeat' first | with_reducible assumption | with_reducible apply keep_upd | with_reducible apply keep_land | simp only [upd_eq] | split | (intro (hx : HostOk _); exact hx) | (intro (hx : FwOk _); exact hx)

theorem keep_injectCells {b0 b : Blk} (h : Keep b0 b) (t o : Nat) (d : BitVec 128) (cs : List StagedCell) (stale : Bool) : Keep b0 (Blk.injectCells b t o d cs stale) := by
  unfold Blk.injectCells
  (try dsimp only)
  repeat' first | with_reducible assumption | with_reducible apply keep_each | with_reducible apply keep_count | with_reducible apply keep_drop | with_reducible apply keep_sendCell | split | intro _

theorem keep_glean {b0 : Blk} (t o cap : Nat) (l : List (Nat × BitVec 128)) : ∀ (b : Blk), Keep b0 b → Keep b0 (b.glean t o cap l) := by
  induction l with
  | nil => intro b h; exact h
  | cons x l ih =>
    intro b h
    unfold Blk.glean
    dsimp only
    repeat' first | assumption | with_reducible apply ih | with_reducible apply keep_injectCells | with_reducible apply keep_count | with_reducible apply keep_takeCells | with_reducible apply keep_upd | simp only [upd_eq] | split | exact id

theorem keep_inject {b0 b : Blk} (h : Keep b0 b) (t o : Nat) (e : BitVec 64) : Keep b0 (Blk.inject b t o e) := by
  unfold Blk.inject
  (try dsimp only)
  repeat' first | exact keep_glean _ _ _ _ _ h | assumption | with_reducible apply keep_injectCells | with_reducible apply keep_takeCells | split

theorem keep_echkFail {b0 b : Blk} (h : Keep b0 b) (t : Nat) : Keep b0 (Blk.echkFail b t) := by
  unfold Blk.echkFail
  (try dsimp only)
  repeat' first | with_reducible assumption | with_reducible apply keep_modTile | with_reducible apply keep_declare | split

theorem keep_openWindow {b0 b : Blk} (h : Keep b0 b) (t o k : Nat) : Keep b0 (Blk.openWindow b t o k) := by
  unfold Blk.openWindow
  (try dsimp only)
  repeat' first | with_reducible assumption | with_reducible apply keep_upd | with_reducible apply keep_count | with_reducible apply keep_inject | with_reducible apply keep_echkFail | with_reducible apply keep_routerMemory | simp only [upd_eq] | split | (intro (hx : HostOk _); exact hx) | (intro (hx : FwOk _); exact hx) | intro _

theorem keep_windowCell {b0 b : Blk} (h : Keep b0 b) (t o : Nat) (w : Window) (c : Cell) : Keep b0 (Blk.windowCell b t o w c) := by
  unfold Blk.windowCell
  try dsimp only
  rw [upd_eq]
  generalize hx : upd b _ _ _ _ _ _ _ _ _ _ _ _ _ _ _ _ _ _ _ = b2
  have hu : Keep b0 b2 := hx ▸ keep_upd h id id
  clear hx
  repeat' first | with_reducible assumption | with_reducible apply keep_count | with_reducible apply keep_drop | with_reducible apply keep_sendCell | split

theorem keep_cellArrives {b0 b : Blk} (h : Keep b0 b) (t input : Nat) (damage : BitVec 96) : Keep b0 (Blk.cellArrives b t input damage) := by
  unfold Blk.cellArrives
  (try dsimp only)
  repeat' first | with_reducible assumption | with_reducible apply keep_each | with_reducible apply keep_upd | with_reducible apply keep_count | with_reducible apply keep_windowCell | simp only [upd_eq] | split | (intro (hx : HostOk _); exact hx) | (intro (hx : FwOk _); exact hx) | intro _

theorem keep_exchangeInject {b0 b : Blk} (h : Keep b0 b) (t : Nat) (d : BitVec 128) : Keep b0 (Blk.exchangeInject b t d) := by
  unfold Blk.exchangeInject
  (try dsimp only)
  repeat' first | with_reducible assumption | with_reducible apply keep_countN | with_reducible apply keep_count | with_reducible apply keep_setStaging | split

theorem keep_collSendNow {b0 b : Blk} (h : Keep b0 b) (plot : Nat) (c : Coll) (i : Nat) : Keep b0 (Blk.collSendNow b plot c i) := by
  unfold Blk.collSendNow
  (try dsimp only)
  repeat' first | with_reducible assumption | with_reducible exact Keep.rfl _ | with_reducible apply keep_each | with_reducible apply keep_exchangeInject | with_reducible apply keep_upd | simp only [upd_eq] | split | (intro (hx : HostOk _); exact hx) | (intro (hx : FwOk _); exact hx) | intro _

theorem keep_exchangeLand {b0 b : Blk} (h : Keep b0 b) (t : Nat) (d : BitVec 128) : Keep b0 (Blk.exchangeLand b t d) := by
  unfold Blk.exchangeLand
  (try dsimp only)
  repeat' first | with_reducible assumption | with_reducible apply keep_setStaging

theorem keep_exchange {b0 b : Blk} (h : Keep b0 b) (fresh : Nat → BitVec 128 → Bool) : Keep b0 (Blk.exchange b fresh) := by
  unfold Blk.exchange
  (try dsimp only)
  repeat' first | with_reducible assumption | with_reducible apply keep_each | with_reducible apply keep_setStaging | with_reducible apply keep_exchangeInject | with_reducible apply keep_exchangeLand | split | intro _

/-! ### Reduce -/

theorem keep_ranOf {b0 b : Blk} (h : Keep b0 b) {r : Chk (Blk × Ran)} (hr : OkE (fun x => Keep b0 x.1) r) :
    Keep b0 (Blk.ranOf b r).1 := by
  unfold Blk.ranOf
  cases r with
  | error e => exact h
  | ok a => exact hr

theorem keep_countAdds {b0 b : Blk} (h : Keep b0 b) (t plot : Nat) (f : FraForm) (vs : List Val) (ovfs : Nat) : Keep b0 (Blk.countAdds b t plot f vs ovfs) := by
  unfold Blk.countAdds
  (try dsimp only)
  repeat' first | with_reducible assumption | with_reducible apply keep_countN

theorem keep_runBorrowed {b0 b : Blk} (h : Keep b0 b) (t : Nat) (r : Borrowed) : Keep b0 (Blk.runBorrowed b t r) := by
  unfold Blk.runBorrowed
  (try dsimp only)
  repeat' first | with_reducible assumption | with_reducible exact Keep.rfl _ | with_reducible apply keep_modBorrowed | with_reducible apply keep_countN | with_reducible apply keep_countAdds | with_reducible apply keep_upd | simp only [upd_eq] | split | (intro (hx : HostOk _); exact hx) | (intro (hx : FwOk _); exact hx) | intro _

theorem keep_eccRead {b0 b : Blk} (h : Keep b0 b) (t : Nat) (errs : Tbl Bool) (place : Nat → Nat) :
    OkE (Keep b0) (Blk.eccRead b t errs place) := by
  unfold Blk.eccRead
  split
  · exact okE_error
  · exact okE_ok (keep_each h fun b _ hb => keep_corrected hb t)

theorem keep_operand {b0 b : Blk} (h : Keep b0 b) (t a n : Nat) : OkE (fun x => Keep b0 x.2) (Blk.operand b t a n) := by
  unfold Blk.operand
  have := keep_eccRead h t (b.sramErrors t a n) fun w => w % 2 ^ 18 / 8 * 64
  revert this
  cases b.eccRead t (b.sramErrors t a n) fun w => w % 2 ^ 18 / 8 * 64 with
  | error e => exact id
  | ok b' => exact id

theorem keep_fraOperand {b0 b : Blk} (h : Keep b0 b) (t id first n : Nat) : OkE (Keep b0) (Blk.fraOperand b t id first n) :=
  keep_eccRead h _ _ _

theorem keep_sownInput {b0 b : Blk} (h : Keep b0 b) (t plot : Nat) (c : BitVec 256) (n : Nat) :
    OkE (fun x => Keep b0 x.1.2) (Blk.sownInput b t plot c n) := by
  unfold Blk.sownInput
  dsimp only
  repeat' first | with_reducible assumption | (with_reducible refine useE ?_ (by assumption)) | (with_reducible refine useE12 ?_ (by assumption)) | with_reducible apply okE_ok | (with_reducible refine useE2 ?_ (by assumption)) | with_reducible apply keep_operand | with_reducible apply okE_bind | intro _ | dsimp only

theorem keep_addInto {b0 b : Blk} (h : Keep b0 b) (t plot id : Nat) (o : Oasis) (fmt first : Nat) (vs : List Val) : Keep b0 (Blk.addInto b t plot id o fmt first vs) := by
  unfold Blk.addInto
  (try dsimp only)
  repeat' first | with_reducible assumption | with_reducible apply keep_modTile | with_reducible apply keep_countAdds

theorem keep_runOrSteal {b0 b : Blk} (h : Keep b0 b) (t e op : Nat) {f : Blk → Sheaf → Blk × Ran}
    (hf : ∀ b s, Keep b0 b → Keep b0 (f b s).1) : Keep b0 (Blk.runOrSteal b t e op f) := by
  unfold Blk.runOrSteal
  split
  · exact keep_run h _ _ _ hf
  · repeat' first | with_reducible assumption | with_reducible apply keep_runBorrowed | split

theorem keep_runOasis {b0 b : Blk} (h : Keep b0 b) (t : Nat) (s : Sheaf) : Keep b0 (runOasis t b s).1 := by
  unfold runOasis
  (try dsimp only)
  repeat' first | with_reducible assumption | (with_reducible refine useE ?_ (by assumption)) | (with_reducible refine useE2 ?_ (by assumption)) | (with_reducible refine useE12 ?_ (by assumption)) | with_reducible apply keep_operand | with_reducible apply keep_fraOperand | with_reducible apply keep_sownInput | with_reducible apply keep_upd | simp only [upd_eq] | (intro (hx : HostOk _); exact hx) | (intro (hx : FwOk _); exact hx) | with_reducible apply keep_modTile | with_reducible apply keep_ranOf | with_reducible exact okE_error | with_reducible apply okE_ok | with_reducible apply okE_bind | split | intro _ | dsimp only

theorem keep_runRelease {b0 b : Blk} (h : Keep b0 b) (t : Nat) (s : Sheaf) : Keep b0 (runRelease t b s).1 := by
  unfold runRelease
  (try dsimp only)
  repeat' first | with_reducible assumption | (with_reducible refine useE ?_ (by assumption)) | (with_reducible refine useE2 ?_ (by assumption)) | (with_reducible refine useE12 ?_ (by assumption)) | with_reducible apply keep_operand | with_reducible apply keep_fraOperand | with_reducible apply keep_sownInput | with_reducible apply keep_upd | simp only [upd_eq] | (intro (hx : HostOk _); exact hx) | (intro (hx : FwOk _); exact hx) | with_reducible apply keep_modTile | with_reducible apply keep_ranOf | with_reducible apply okE_ok | with_reducible apply okE_bind | split | intro _ | dsimp only

theorem keep_runAdd {b0 b : Blk} (h : Keep b0 b) (t : Nat) (s : Sheaf) : Keep b0 (runAdd t b s).1 := by
  unfold runAdd
  (try dsimp only)
  repeat' first | with_reducible assumption | (with_reducible refine useE ?_ (by assumption)) | (with_reducible refine useE2 ?_ (by assumption)) | (with_reducible refine useE12 ?_ (by assumption)) | with_reducible apply keep_operand | with_reducible apply keep_fraOperand | with_reducible apply keep_sownInput | with_reducible apply keep_ranOf | with_reducible apply keep_addInto | with_reducible apply okE_ok | with_reducible apply okE_bind | intro _ | dsimp only

theorem keep_runAddSown {b0 b : Blk} (h : Keep b0 b) (t : Nat) (s : Sheaf) : Keep b0 (runAddSown t b s).1 := by
  unfold runAddSown
  (try dsimp only)
  repeat' first | with_reducible assumption | (with_reducible refine useE ?_ (by assumption)) | (with_reducible refine useE2 ?_ (by assumption)) | (with_reducible refine useE12 ?_ (by assumption)) | with_reducible apply keep_operand | with_reducible apply keep_fraOperand | with_reducible apply keep_sownInput | with_reducible apply keep_ranOf | with_reducible apply keep_addInto | with_reducible apply okE_ok | with_reducible apply okE_bind | intro _ | dsimp only

theorem keep_mergeInto {b0 b : Blk} (h : Keep b0 b) (t plot id : Nat) (o : Oasis) (first : Nat) (es : List Bytes) : OkE (Keep b0) (Blk.mergeInto b t plot id o first es) := by
  unfold Blk.mergeInto
  (try dsimp only)
  repeat' first | with_reducible assumption | (with_reducible refine useE ?_ (by assumption)) | (with_reducible refine useE2 ?_ (by assumption)) | (with_reducible refine useE12 ?_ (by assumption)) | with_reducible apply keep_operand | with_reducible apply keep_fraOperand | with_reducible apply keep_sownInput | with_reducible apply keep_modTile | with_reducible apply keep_countN | with_reducible apply okE_ok | with_reducible apply okE_bind | simp only [upd_eq] | split | intro _ | dsimp only

theorem keep_runMerge {b0 b : Blk} (h : Keep b0 b) (t : Nat) (s : Sheaf) : Keep b0 (runMerge t b s).1 := by
  unfold runMerge
  (try dsimp only)
  repeat' first | with_reducible assumption | (with_reducible refine useE ?_ (by assumption)) | (with_reducible refine useE2 ?_ (by assumption)) | (with_reducible refine useE12 ?_ (by assumption)) | with_reducible apply keep_operand | with_reducible apply keep_fraOperand | with_reducible apply keep_sownInput | with_reducible apply keep_ranOf | with_reducible apply keep_mergeInto | with_reducible apply okE_ok | (with_reducible refine useE ?_ (by assumption)) | with_reducible apply okE_bind | intro _ | dsimp only

theorem keep_writeRun {b0 b : Blk} (h : Keep b0 b) (t plot a : Nat) (r : EncRun) : Keep b0 (Blk.writeRun b t plot a r) := by
  unfold Blk.writeRun
  (try dsimp only)
  repeat' first | with_reducible assumption | with_reducible apply keep_writeSram | with_reducible apply keep_countN

theorem keep_runRound {b0 b : Blk} (h : Keep b0 b) (t top : Nat) (s : Sheaf) : Keep b0 (runRound t top b s).1 := by
  unfold runRound
  (try dsimp only)
  repeat' first | with_reducible assumption | (with_reducible refine useE ?_ (by assumption)) | (with_reducible refine useE2 ?_ (by assumption)) | (with_reducible refine useE12 ?_ (by assumption)) | with_reducible apply keep_operand | with_reducible apply keep_fraOperand | with_reducible apply keep_sownInput | with_reducible apply keep_ranOf | with_reducible apply keep_writeRun | with_reducible apply okE_ok | with_reducible apply okE_bind | intro _ | dsimp only

theorem keep_runMap {b0 b : Blk} (h : Keep b0 b) (t : Nat) (s : Sheaf) : Keep b0 (runMap t b s).1 := by
  unfold runMap
  (try dsimp only)
  repeat' first | with_reducible assumption | (with_reducible refine useE ?_ (by assumption)) | (with_reducible refine useE2 ?_ (by assumption)) | (with_reducible refine useE12 ?_ (by assumption)) | with_reducible apply keep_operand | with_reducible apply keep_fraOperand | with_reducible apply keep_sownInput | with_reducible apply keep_ranOf | with_reducible apply keep_writeRun | with_reducible apply okE_ok | with_reducible apply okE_bind | intro _ | dsimp only

theorem keep_runCrc {b0 b : Blk} (h : Keep b0 b) (t : Nat) (s : Sheaf) : Keep b0 (runCrc t b s).1 := by
  unfold runCrc
  (try dsimp only)
  repeat' first | with_reducible assumption | (with_reducible refine useE ?_ (by assumption)) | (with_reducible refine useE2 ?_ (by assumption)) | (with_reducible refine useE12 ?_ (by assumption)) | with_reducible apply keep_operand | with_reducible apply keep_fraOperand | with_reducible apply keep_sownInput | with_reducible apply keep_writeSram | with_reducible apply keep_ranOf | with_reducible apply okE_ok | with_reducible apply okE_bind | split | intro _ | dsimp only

/-! ### Array -/

theorem keep_runLoad {b0 b : Blk} (h : Keep b0 b) (t : Nat) (s : Sheaf) : Keep b0 (runLoad t b s).1 := by
  unfold runLoad
  (try dsimp only)
  repeat' first | with_reducible assumption | (with_reducible refine useE ?_ (by assumption)) | (with_reducible refine useE2 ?_ (by assumption)) | (with_reducible refine useE12 ?_ (by assumption)) | with_reducible apply keep_operand | with_reducible apply keep_fraOperand | with_reducible apply keep_sownInput | with_reducible apply keep_modTile | with_reducible apply keep_ranOf | with_reducible apply okE_ok | with_reducible apply okE_bind | intro _ | dsimp only

theorem keep_runMm {b0 b : Blk} (h : Keep b0 b) (t : Nat) (s : Sheaf) : Keep b0 (runMm t b s).1 := by
  unfold runMm
  (try dsimp only)
  repeat' first | with_reducible assumption | (with_reducible refine useE ?_ (by assumption)) | (with_reducible refine useE2 ?_ (by assumption)) | (with_reducible refine useE12 ?_ (by assumption)) | with_reducible apply keep_operand | with_reducible apply keep_fraOperand | with_reducible apply keep_sownInput | with_reducible apply keep_writeSram | with_reducible apply keep_countN | with_reducible apply keep_ranOf | with_reducible exact okE_error | with_reducible apply okE_ok | with_reducible apply okE_bind | with_reducible apply keep_drop | with_reducible apply keep_upd | simp only [upd_eq] | split | intro _ | (intro (hx : HostOk _); exact hx) | (intro (hx : FwOk _); exact hx) | dsimp only

theorem keep_runTopk {b0 b : Blk} (h : Keep b0 b) (t : Nat) (s : Sheaf) : Keep b0 (runTopk t b s).1 := by
  unfold runTopk
  (try dsimp only)
  repeat' first | with_reducible assumption | (with_reducible refine useE ?_ (by assumption)) | (with_reducible refine useE2 ?_ (by assumption)) | (with_reducible refine useE12 ?_ (by assumption)) | with_reducible apply keep_operand | with_reducible apply keep_fraOperand | with_reducible apply keep_sownInput | with_reducible apply keep_writeSram | with_reducible apply keep_ranOf | with_reducible apply okE_ok | with_reducible apply okE_bind | intro _ | dsimp only

theorem keep_runGate {b0 b : Blk} (h : Keep b0 b) (t : Nat) (s : Sheaf) : Keep b0 (runGate t b s).1 := by
  unfold runGate
  (try dsimp only)
  repeat' first | with_reducible assumption | (with_reducible refine useE ?_ (by assumption)) | (with_reducible refine useE2 ?_ (by assumption)) | (with_reducible refine useE12 ?_ (by assumption)) | with_reducible apply keep_operand | with_reducible apply keep_fraOperand | with_reducible apply keep_sownInput | with_reducible apply keep_writeSram | with_reducible apply keep_ranOf | with_reducible apply okE_ok | with_reducible apply okE_bind | intro _ | dsimp only

/-! ### Router -/

theorem keep_setBuf {b0 b : Blk} (h : Keep b0 b) (k : Nat) (l : List Held) : Keep b0 (Blk.setBuf b k l) := by
  unfold Blk.setBuf
  (try dsimp only)
  repeat' first | with_reducible assumption | with_reducible apply keep_upd | simp only [upd_eq] | (intro (hx : HostOk _); exact hx) | (intro (hx : FwOk _); exact hx)

theorem keep_setArb {b0 b : Blk} (h : Keep b0 b) (k : Nat) (a : Arb) : Keep b0 (Blk.setArb b k a) := by
  unfold Blk.setArb
  (try dsimp only)
  repeat' first | with_reducible assumption | with_reducible apply keep_upd | simp only [upd_eq] | (intro (hx : HostOk _); exact hx) | (intro (hx : FwOk _); exact hx)

theorem keep_setEject {b0 b : Blk} (h : Keep b0 b) (t n : Nat) (l : List (Packet × Nat)) : Keep b0 (Blk.setEject b t n l) := by
  unfold Blk.setEject
  (try dsimp only)
  repeat' first | with_reducible assumption | with_reducible apply keep_upd | simp only [upd_eq] | (intro (hx : HostOk _); exact hx) | (intro (hx : FwOk _); exact hx)

theorem keep_setUsed {b0 b : Blk} (h : Keep b0 b) (k v : Nat) : Keep b0 (Blk.setUsed b k v) := by
  unfold Blk.setUsed
  (try dsimp only)
  repeat' first | with_reducible assumption | with_reducible apply keep_upd | simp only [upd_eq] | (intro (hx : HostOk _); exact hx) | (intro (hx : FwOk _); exact hx)

theorem keep_creditsBack {b0 b : Blk} (h : Keep b0 b) (t n i vc k : Nat) : Keep b0 (Blk.creditsBack b t n i vc k) := by
  unfold Blk.creditsBack
  (try dsimp only)
  repeat' first | with_reducible assumption | with_reducible apply keep_setUsed | split

theorem keep_dropAtInput {b0 b : Blk} (h : Keep b0 b) (t n i : Nat) (was : BitVec 128) (flits reason : Nat) (plot : Option Nat) : Keep b0 (Blk.dropAtInput b t n i was flits reason plot) := by
  unfold Blk.dropAtInput
  (try dsimp only)
  repeat' first | with_reducible assumption | with_reducible exact Keep.rfl _ | with_reducible apply keep_flightEnd | with_reducible apply keep_drop | with_reducible apply keep_creditsBack | split | intro _

theorem keep_owe {b0 b : Blk} (h : Keep b0 b) (t n i vc k : Nat) : Keep b0 (Blk.owe b t n i vc k) := by
  unfold Blk.owe
  (try dsimp only)
  repeat' first | with_reducible assumption | with_reducible apply keep_upd | simp only [upd_eq] | split | (intro (hx : HostOk _); exact hx) | (intro (hx : FwOk _); exact hx)

theorem keep_creditReturn {b0 b : Blk} (h : Keep b0 b) (t n i vc : Nat) : Keep b0 (Blk.creditReturn b t n i vc) := by
  unfold Blk.creditReturn
  (try dsimp only)
  repeat' first | with_reducible assumption | with_reducible apply keep_upd | with_reducible apply keep_creditsBack | simp only [upd_eq] | split | (intro (hx : HostOk _); exact hx) | (intro (hx : FwOk _); exact hx)

theorem keep_enterInput {b0 b : Blk} (h : Keep b0 b) (t n i : Nat) (was : BitVec 128) (p : Packet) : Keep b0 (Blk.enterInput b t n i was p) := by
  unfold Blk.enterInput
  (try dsimp only)
  repeat' first | with_reducible assumption | with_reducible apply keep_drop | with_reducible apply keep_setBuf | with_reducible apply keep_creditsBack | with_reducible apply keep_dropAtInput | with_reducible apply keep_upd | simp only [upd_eq] | split | intro _ | (intro (hx : HostOk _); exact hx) | (intro (hx : FwOk _); exact hx)

theorem keep_headArrives {b0 b : Blk} (h : Keep b0 b) (t n i : Nat) (damage : BitVec 128) : Keep b0 (Blk.headArrives b t n i damage) := by
  unfold Blk.headArrives
  (try dsimp only)
  repeat' first | with_reducible assumption | with_reducible apply keep_upd | with_reducible apply keep_enterInput | simp only [upd_eq] | split | (intro (hx : HostOk _); exact hx) | (intro (hx : FwOk _); exact hx)

theorem keep_injectPacket {b0 b : Blk} (h : Keep b0 b) (t n : Nat) (p : Packet) : Keep b0 (Blk.injectPacket b t n p) := by
  unfold Blk.injectPacket
  (try dsimp only)
  repeat' first | with_reducible assumption | with_reducible apply keep_countN | with_reducible apply keep_enterInput

theorem keep_drainGo {b0 : Blk} (t n : Nat) (l : List (Nat × Packet × Nat)) : ∀ (b : Blk), Keep b0 b → Keep b0 (b.drainGo t n l).1 := by
  induction l with
  | nil => intro b h; exact h
  | cons x l ih =>
    intro b h
    obtain ⟨m, p, e⟩ := x
    unfold Blk.drainGo
    dsimp only
    repeat' first | assumption | with_reducible apply ih | with_reducible apply keep_injectPacket | with_reducible apply keep_count | split

theorem keep_drainReplies {b0 b : Blk} (h : Keep b0 b) (t n : Nat) : Keep b0 (Blk.drainReplies b t n) := by
  unfold Blk.drainReplies
  (try dsimp only)
  exact keep_modTile (keep_drainGo t n _ b h) _ _

theorem keep_grant {b0 b : Blk} (h : Keep b0 b) (t n o : Nat) (c : Cand) : Keep b0 (Blk.grant b t n o c) := by
  unfold Blk.grant
  (try dsimp only)
  repeat' first | with_reducible assumption | with_reducible apply keep_upd | with_reducible apply keep_countN | with_reducible apply keep_count | with_reducible apply keep_tracePkt | with_reducible apply keep_setBuf | with_reducible apply keep_setEject | with_reducible apply keep_setUsed | with_reducible apply keep_creditsBack | with_reducible apply keep_owe | with_reducible apply keep_flightEnd | simp only [upd_eq] | split | (intro (hx : HostOk _); exact hx) | (intro (hx : FwOk _); exact hx) | intro _

theorem keep_hintFor {b0 b : Blk} (h : Keep b0 b) (t n o : Nat) : Keep b0 (Blk.hintFor b t n o) := by
  unfold Blk.hintFor
  (try dsimp only)
  repeat' first | with_reducible assumption | with_reducible apply keep_setArb | split

theorem keep_arbitrate {b0 b : Blk} (h : Keep b0 b) (t n o : Nat) : Keep b0 (Blk.arbitrate b t n o) := by
  unfold Blk.arbitrate
  (try dsimp only)
  repeat' first | with_reducible assumption | with_reducible apply keep_countN | with_reducible apply keep_count | with_reducible apply keep_setArb | with_reducible apply keep_drainReplies | with_reducible apply keep_grant | with_reducible apply keep_hintFor | split

theorem keep_ageDrop {b0 b : Blk} (h : Keep b0 b) (t n i vc : Nat) : Keep b0 (Blk.ageDrop b t n i vc) := by
  unfold Blk.ageDrop
  (try dsimp only)
  repeat' first | with_reducible assumption | with_reducible apply keep_each | with_reducible apply keep_drop | with_reducible apply keep_setBuf | with_reducible apply keep_setArb | with_reducible apply keep_creditsBack | with_reducible apply keep_foldl | with_reducible apply keep_upd | with_reducible apply keep_flightEnd | simp only [upd_eq] | split | intro _ | (intro (hx : HostOk _); exact hx) | (intro (hx : FwOk _); exact hx)

/-! ### Requests -/

theorem keep_setSlot {b0 b : Blk} (h : Keep b0 b) (k i : Nat) (x : Slot) : Keep b0 (Blk.setSlot b k i x) := by
  unfold Blk.setSlot
  (try dsimp only)
  repeat' first | with_reducible assumption | with_reducible apply keep_upd | simp only [upd_eq] | (intro (hx : HostOk _); exact hx) | (intro (hx : FwOk _); exact hx)

theorem keep_sendReq {b0 b : Blk} (h : Keep b0 b) (o : SlotOwner) (who : Requester) (sub vc : Nat) (r : Req) : Keep b0 (Blk.sendReq b o who sub vc r).1 := by
  unfold Blk.sendReq
  (try dsimp only)
  repeat' first | with_reducible assumption | with_reducible apply keep_count | with_reducible apply keep_drop | with_reducible apply keep_injectPacket | with_reducible apply keep_setSlot | split

theorem keep_reply {b0 b : Blk} (h : Keep b0 b) (t : Nat) (p : Packet) (eject : Nat) : Keep b0 (Blk.reply b t p eject) := by
  unfold Blk.reply
  (try dsimp only)
  repeat' first | with_reducible assumption | with_reducible apply keep_modTile | with_reducible apply keep_injectPacket | with_reducible apply keep_count | with_reducible apply keep_upd | simp only [upd_eq] | split | intro _ | (intro (hx : HostOk _); exact hx) | (intro (hx : FwOk _); exact hx)

theorem keep_answerReq {b0 b : Blk} (h : Keep b0 b) (t : Nat) (q : Packet × Nat) (arg : Nat) (body : Bytes) : Keep b0 (Blk.answerReq b t q arg body) := by
  unfold Blk.answerReq
  (try dsimp only)
  repeat' first | with_reducible assumption | with_reducible apply keep_reply

theorem keep_errReq {b0 b : Blk} (h : Keep b0 b) (t : Nat) (q : Packet × Nat) (code : Nat) : Keep b0 (Blk.errReq b t q code) := by
  unfold Blk.errReq
  (try dsimp only)
  repeat' first | with_reducible assumption | with_reducible apply keep_reply

theorem keep_errSealed {b0 b : Blk} (h : Keep b0 b) (t : Nat) (q : Packet × Nat) : Keep b0 (Blk.errSealed b t q) := by
  unfold Blk.errSealed
  (try dsimp only)
  repeat' first | with_reducible assumption | with_reducible exact Keep.rfl _ | with_reducible apply keep_setSlot | with_reducible apply keep_errReq | with_reducible apply keep_upd | simp only [upd_eq] | split | (intro (hx : HostOk _); exact hx) | (intro (hx : FwOk _); exact hx) | intro _

theorem keep_takeInbox {b0 b : Blk} (h : Keep b0 b) (t : Nat) (p : Nat → Bool) : OkO (fun x => Keep b0 x.2) (Blk.takeInbox b t p) := by
  unfold Blk.takeInbox
  (try dsimp only)
  repeat' first | with_reducible assumption | with_reducible apply keep_modTile | with_reducible exact okO_none | with_reducible apply okO_some | split

/-! ### Mover -/

theorem keep_runCopy {b0 b : Blk} (h : Keep b0 b) (t : Nat) (s : Sheaf) : Keep b0 (runCopy t b s).1 := by
  unfold runCopy
  (try dsimp only)
  repeat' first | with_reducible assumption | (with_reducible refine useE ?_ (by assumption)) | (with_reducible refine useE2 ?_ (by assumption)) | (with_reducible refine useE12 ?_ (by assumption)) | with_reducible apply keep_fraOperand | with_reducible apply keep_sownInput | with_reducible apply keep_writeSram | with_reducible apply keep_ranOf | with_reducible apply okE_ok | with_reducible apply okE_bind | with_reducible apply keep_operand | intro _ | split | dsimp only

theorem keep_runFill {b0 b : Blk} (h : Keep b0 b) (t : Nat) (s : Sheaf) : Keep b0 (runFill t b s).1 := by
  unfold runFill
  (try dsimp only)
  repeat' first | with_reducible assumption | (with_reducible refine useE ?_ (by assumption)) | (with_reducible refine useE2 ?_ (by assumption)) | (with_reducible refine useE12 ?_ (by assumption)) | with_reducible apply keep_operand | with_reducible apply keep_fraOperand | with_reducible apply keep_sownInput | with_reducible apply keep_writeSram | with_reducible apply keep_ranOf | with_reducible apply okE_ok | with_reducible apply okE_bind | intro _ | dsimp only

theorem keep_runTransfer {b0 b : Blk} (h : Keep b0 b) (t : Nat) (s : Sheaf) : Keep b0 (runTransfer t b s).1 := by
  unfold runTransfer
  (try dsimp only)
  repeat' first | with_reducible assumption | (with_reducible refine useE ?_ (by assumption)) | (with_reducible refine useE2 ?_ (by assumption)) | (with_reducible refine useE12 ?_ (by assumption)) | with_reducible apply keep_fraOperand | with_reducible apply keep_sownInput | with_reducible apply keep_ranOf | with_reducible apply okE_ok | with_reducible apply okE_bind | with_reducible apply keep_operand | split | intro _ | dsimp only

theorem keep_runHbmStream {b0 b : Blk} (h : Keep b0 b) (t : Nat) (s : Sheaf) : Keep b0 (runHbmStream t b s).1 := by
  unfold runHbmStream
  (try dsimp only)
  repeat' first | with_reducible assumption | (with_reducible refine useE ?_ (by assumption)) | (with_reducible refine useE2 ?_ (by assumption)) | (with_reducible refine useE12 ?_ (by assumption)) | with_reducible apply keep_operand | with_reducible apply keep_fraOperand | with_reducible apply keep_sownInput | with_reducible apply keep_drop | with_reducible apply keep_ranOf | with_reducible apply okE_ok | with_reducible apply okE_bind | split | intro _ | dsimp only

theorem keep_runSow {b0 b : Blk} (h : Keep b0 b) (t : Nat) (s : Sheaf) : Keep b0 (runSow t b s).1 := by
  unfold runSow
  (try dsimp only)
  repeat' first | with_reducible assumption | (with_reducible refine useE ?_ (by assumption)) | (with_reducible refine useE2 ?_ (by assumption)) | (with_reducible refine useE12 ?_ (by assumption)) | with_reducible apply keep_fraOperand | with_reducible apply keep_sownInput | with_reducible apply keep_writeSram | with_reducible apply keep_setStaging | with_reducible apply keep_ranOf | with_reducible apply okE_ok | with_reducible apply okE_bind | with_reducible apply keep_operand | with_reducible apply keep_upd | simp only [upd_eq] | intro _ | split | (intro (hx : HostOk _); exact hx) | (intro (hx : FwOk _); exact hx) | dsimp only

theorem keep_runReap {b0 b : Blk} (h : Keep b0 b) (t : Nat) (s : Sheaf) : Keep b0 (runReap t b s).1 := by
  unfold runReap
  (try dsimp only)
  repeat' first | with_reducible assumption | (with_reducible refine useE ?_ (by assumption)) | (with_reducible refine useE2 ?_ (by assumption)) | (with_reducible refine useE12 ?_ (by assumption)) | with_reducible apply keep_operand | with_reducible apply keep_fraOperand | with_reducible apply keep_writeSram | with_reducible apply keep_ranOf | with_reducible apply okE_ok | with_reducible apply okE_bind | with_reducible apply keep_sownInput | intro _ | split | dsimp only

/-! ### Rings -/

theorem keep_putHeader {b0 b : Blk} (hk : Keep b0 b) (t : Nat) (q : Queue) (ptr : Nat) (h : BitVec 512) : Keep b0 (Blk.putHeader b t q ptr h) := by
  unfold Blk.putHeader
  (try dsimp only)
  repeat' first | with_reducible assumption | with_reducible apply keep_writeSram

theorem keep_modQueue {b0 b : Blk} (h : Keep b0 b) (t i : Nat) (f : Queue → Queue) : Keep b0 (Blk.modQueue b t i f) := by
  unfold Blk.modQueue
  (try dsimp only)
  repeat' first | with_reducible assumption | with_reducible apply keep_modTile

theorem keep_abandonActs {b0 b : Blk} (h : Keep b0 b) (t i : Nat) : Keep b0 (Blk.abandonActs b t i) := by
  unfold Blk.abandonActs
  (try dsimp only)
  repeat' first | with_reducible assumption | with_reducible exact Keep.rfl _ | with_reducible apply keep_modTile | with_reducible apply keep_count | with_reducible apply keep_raiseP | with_reducible apply keep_complete | with_reducible apply keep_putHeader | with_reducible apply keep_modQueue | with_reducible apply keep_upd | simp only [upd_eq] | split | (intro (hx : HostOk _); exact hx) | (intro (hx : FwOk _); exact hx) | intro _

theorem keep_reserve {b0 b : Blk} (h : Keep b0 b) (t i c : Nat) (handler : Option Handler) (hdr : Nat → BitVec 512) (complete : Bool) : OkO (fun x => Keep b0 x.2) (Blk.reserve b t i c handler hdr complete) := by
  unfold Blk.reserve
  (try dsimp only)
  repeat' first | with_reducible assumption | with_reducible apply keep_putHeader | with_reducible apply keep_modQueue | with_reducible exact okO_none | with_reducible apply okO_some | with_reducible apply keep_complete | with_reducible apply keep_upd | simp only [upd_eq] | split | intro _ | (intro (hx : HostOk _); exact hx) | (intro (hx : FwOk _); exact hx)

theorem keep_publish {b0 b : Blk} (h : Keep b0 b) (t i : Nat) (e : OpenEntry) : Keep b0 (Blk.publish b t i e) := by
  unfold Blk.publish
  (try dsimp only)
  repeat' first | with_reducible assumption | with_reducible apply keep_modTile | with_reducible apply keep_count | with_reducible apply keep_putHeader | with_reducible apply keep_modQueue | split

theorem keep_rdTo {b0 b : Blk} (h : Keep b0 b) (t i new : Nat) : Keep b0 (Blk.rdTo b t i new) := by
  unfold Blk.rdTo
  (try dsimp only)
  repeat' first | with_reducible assumption | with_reducible apply keep_each | with_reducible apply keep_modTile | with_reducible apply keep_modQueue | intro _

theorem keep_rdActs {b0 b : Blk} (h : Keep b0 b) (t i new : Nat) : Keep b0 (Blk.rdActs b t i new) := by
  unfold Blk.rdActs
  (try dsimp only)
  repeat' first | with_reducible assumption | with_reducible exact Keep.rfl _ | with_reducible apply keep_count | with_reducible apply keep_rdTo | split | intro _

theorem keep_writeRd {b0 b : Blk} (h : Keep b0 b) (t i new : Nat) : Keep b0 (Blk.writeRd b t i new) := by
  unfold Blk.writeRd
  (try dsimp only)
  repeat' first | with_reducible assumption | with_reducible apply keep_count | with_reducible apply keep_rdTo | with_reducible apply keep_note | split | intro _

theorem keep_rdAdvance {b0 : Blk} (t i n : Nat) : ∀ (b : Blk), Keep b0 b → Keep b0 (b.rdAdvance t i n) := by
  induction n with
  | zero => intro b h; exact h
  | succ n ih =>
    intro b h
    unfold Blk.rdAdvance
    dsimp only
    repeat' first | assumption | with_reducible apply ih | with_reducible apply keep_rdTo | split

theorem keep_setDone {b0 b : Blk} (h : Keep b0 b) (t i addr : Nat) : Keep b0 (Blk.setDone b t i addr) := by
  unfold Blk.setDone
  (try dsimp only)
  repeat' first | assumption | exact keep_rdAdvance _ _ _ _ (keep_writeSram h _ _ _) | with_reducible apply keep_writeSram | split

theorem keep_fbDrain {b0 b : Blk} (h : Keep b0 b) (t i : Nat) : Keep b0 (Blk.fbDrain b t i) := by
  unfold Blk.fbDrain
  (try dsimp only)
  repeat' first | with_reducible assumption | with_reducible apply keep_modTile | with_reducible apply keep_writeSram | with_reducible apply keep_reserve | with_reducible apply keep_note | with_reducible apply keep_upd | simp only [upd_eq] | (with_reducible refine useO2 ?_ (by assumption)) | split | intro _ | (intro (hx : HostOk _); exact hx) | (intro (hx : FwOk _); exact hx)

/-! ### Queues -/

theorem keep_toTile {b0 b : Blk} (h : Keep b0 b) (t : Nat) (s : Sheaf) {r : Chk (Blk × Ran)} (hr : OkE (fun x => Keep b0 x.1) r) :
    Keep b0 (Blk.toTile b t s r).1 := by
  unfold Blk.toTile
  (try dsimp only)
  repeat' first | with_reducible assumption | with_reducible apply keep_drop | with_reducible apply keep_ranOf | split


theorem keep_runSend {b0 b : Blk} (h : Keep b0 b) (t : Nat) (s : Sheaf) : Keep b0 (runSend t b s).1 := by
  unfold runSend
  (try dsimp only)
  repeat' first | with_reducible assumption | (with_reducible refine useE ?_ (by assumption)) | (with_reducible refine useE2 ?_ (by assumption)) | (with_reducible refine useE12 ?_ (by assumption)) | with_reducible apply keep_fraOperand | with_reducible apply keep_sownInput | with_reducible apply keep_modTile | with_reducible apply keep_modSheaf | with_reducible apply keep_toTile | with_reducible apply okE_ok | with_reducible apply okE_bind | with_reducible apply keep_operand | with_reducible apply keep_upd | simp only [upd_eq] | split | intro _ | (intro (hx : HostOk _); exact hx) | (intro (hx : FwOk _); exact hx) | dsimp only

theorem keep_runGet {b0 b : Blk} (h : Keep b0 b) (t : Nat) (s : Sheaf) : Keep b0 (runGet t b s).1 := by
  unfold runGet
  (try dsimp only)
  repeat' first | with_reducible assumption | (with_reducible refine useE ?_ (by assumption)) | (with_reducible refine useE2 ?_ (by assumption)) | (with_reducible refine useE12 ?_ (by assumption)) | with_reducible apply keep_operand | with_reducible apply keep_fraOperand | with_reducible apply keep_sownInput | with_reducible apply keep_toTile | with_reducible apply okE_ok | with_reducible apply okE_bind | intro _ | dsimp only

theorem keep_runPut {b0 b : Blk} (h : Keep b0 b) (t : Nat) (s : Sheaf) : Keep b0 (runPut t b s).1 := by
  unfold runPut
  (try dsimp only)
  repeat' first | with_reducible assumption | (with_reducible refine useE ?_ (by assumption)) | (with_reducible refine useE2 ?_ (by assumption)) | (with_reducible refine useE12 ?_ (by assumption)) | with_reducible apply keep_fraOperand | with_reducible apply keep_sownInput | with_reducible apply keep_toTile | with_reducible apply okE_ok | with_reducible apply okE_bind | with_reducible apply keep_operand | intro _ | split | dsimp only

theorem keep_runCombine {b0 b : Blk} (h : Keep b0 b) (t : Nat) (s : Sheaf) : Keep b0 (runCombine t b s).1 := by
  unfold runCombine
  (try dsimp only)
  repeat' first | with_reducible assumption | (with_reducible refine useE ?_ (by assumption)) | (with_reducible refine useE2 ?_ (by assumption)) | (with_reducible refine useE12 ?_ (by assumption)) | with_reducible apply keep_fraOperand | with_reducible apply keep_sownInput | with_reducible apply keep_toTile | with_reducible apply okE_ok | with_reducible apply okE_bind | with_reducible apply keep_operand | intro _ | split | dsimp only

theorem keep_runBind {b0 b : Blk} (h : Keep b0 b) (t : Nat) (s : Sheaf) : Keep b0 (runBind t b s).1 := by
  unfold runBind
  (try dsimp only)
  repeat' first | with_reducible assumption | (with_reducible refine useE ?_ (by assumption)) | (with_reducible refine useE2 ?_ (by assumption)) | (with_reducible refine useE12 ?_ (by assumption)) | with_reducible apply keep_operand | with_reducible apply keep_fraOperand | with_reducible apply keep_sownInput | with_reducible apply keep_writeSram | with_reducible apply keep_ranOf | with_reducible apply keep_modQueue | with_reducible apply okE_ok | with_reducible apply okE_bind | split | intro _ | dsimp only

theorem keep_runUnbind {b0 b : Blk} (h : Keep b0 b) (t : Nat) (s : Sheaf) : Keep b0 (runUnbind t b s).1 := by
  unfold runUnbind
  (try dsimp only)
  repeat' first | with_reducible assumption | (with_reducible refine useE ?_ (by assumption)) | (with_reducible refine useE2 ?_ (by assumption)) | (with_reducible refine useE12 ?_ (by assumption)) | with_reducible apply keep_operand | with_reducible apply keep_fraOperand | with_reducible apply keep_sownInput | with_reducible apply keep_countN | with_reducible apply keep_ranOf | with_reducible apply keep_modQueue | with_reducible apply okE_ok | with_reducible apply okE_bind | split | intro _ | dsimp only

theorem keep_runPop {b0 b : Blk} (h : Keep b0 b) (t : Nat) (s : Sheaf) : Keep b0 (runPop t b s).1 := by
  unfold runPop
  (try dsimp only)
  repeat' first | with_reducible assumption | (with_reducible refine useE ?_ (by assumption)) | (with_reducible refine useE2 ?_ (by assumption)) | (with_reducible refine useE12 ?_ (by assumption)) | with_reducible apply keep_operand | with_reducible apply keep_fraOperand | with_reducible apply keep_sownInput | with_reducible apply keep_writeSram | with_reducible apply keep_ranOf | with_reducible apply keep_rdTo | with_reducible apply keep_rdAdvance | with_reducible apply okE_ok | with_reducible apply okE_bind | split | intro _ | dsimp only

theorem keep_runHandler {b0 b : Blk} (h : Keep b0 b) (t : Nat) (s : Sheaf) : Keep b0 (runHandler t b s).1 := by
  unfold runHandler
  (try dsimp only)
  repeat' first | with_reducible assumption | (with_reducible refine useE ?_ (by assumption)) | (with_reducible refine useE2 ?_ (by assumption)) | (with_reducible refine useE12 ?_ (by assumption)) | with_reducible apply keep_operand | with_reducible apply keep_fraOperand | with_reducible apply keep_sownInput | with_reducible apply keep_modTile | with_reducible apply keep_ranOf | with_reducible apply okE_ok | with_reducible apply okE_bind | with_reducible apply keep_note | split | intro _ | dsimp only

theorem keep_publishGo {b0 : Blk} (t i : Nat) (l : List OpenEntry) : ∀ (b : Blk), Keep b0 b → Keep b0 (b.publishGo t i l) := by
  induction l with
  | nil => intro b h; exact keep_modQueue h _ _ _
  | cons x l ih =>
    intro b h
    unfold Blk.publishGo
    repeat' first | assumption | with_reducible apply ih | with_reducible apply keep_modQueue | with_reducible apply keep_publish | split

theorem keep_publishNow {b0 b : Blk} (h : Keep b0 b) (t i : Nat) : Keep b0 (Blk.publishNow b t i) := by
  unfold Blk.publishNow
  exact keep_publishGo _ _ _ _ h

theorem keep_abandon {b0 b : Blk} (h : Keep b0 b) (t i : Nat) : Keep b0 (Blk.abandon b t i) := by
  unfold Blk.abandon
  (try dsimp only)
  repeat' first | with_reducible assumption | with_reducible apply keep_modTile | with_reducible apply keep_count | with_reducible apply keep_raiseP | with_reducible apply keep_putHeader | with_reducible apply keep_modQueue | with_reducible apply keep_complete | with_reducible apply keep_upd | with_reducible apply keep_note | simp only [upd_eq] | split | intro _ | (intro (hx : HostOk _); exact hx) | (intro (hx : FwOk _); exact hx)

theorem keep_statusWrite {b0 b : Blk} (h : Keep b0 b) (t c : Nat) : Keep b0 (Blk.statusWrite b t c) := by
  unfold Blk.statusWrite
  (try dsimp only)
  repeat' first | with_reducible assumption | with_reducible apply keep_modTile | with_reducible apply keep_writeSram | with_reducible apply keep_setDone | split

/-! ### Net -/

theorem keep_injectEngine {b0 b : Blk} (h : Keep b0 b) (t e : Nat) (who : Requester) (req : Sheaf → Option Req) : Keep b0 (Blk.injectEngine b t e who req) := by
  unfold Blk.injectEngine
  (try dsimp only)
  repeat' first | with_reducible assumption | with_reducible apply keep_modSheaf | with_reducible apply keep_sendReq | split

theorem keep_injectDfp {b0 b : Blk} (h : Keep b0 b) (t : Nat) : Keep b0 (Blk.injectDfp b t) := by
  unfold Blk.injectDfp
  (try dsimp only)
  repeat' first | with_reducible assumption | with_reducible apply keep_modTile | with_reducible apply keep_sendReq | with_reducible apply keep_drop | with_reducible apply keep_upd | simp only [upd_eq] | split | intro _ | (intro (hx : HostOk _); exact hx) | (intro (hx : FwOk _); exact hx)

theorem keep_injectKhdr {b0 b : Blk} (h : Keep b0 b) (t : Nat) : Keep b0 (Blk.injectKhdr b t) := by
  unfold Blk.injectKhdr
  (try dsimp only)
  repeat' first | with_reducible assumption | with_reducible apply keep_modTile | with_reducible apply keep_sendReq | split

theorem keep_injectAdmin {b0 b : Blk} (h : Keep b0 b) (o : SlotOwner) (who : Requester) (op dst : Nat) : Keep b0 (Blk.injectAdmin b o who op dst) := by
  unfold Blk.injectAdmin
  (try dsimp only)
  repeat' first | with_reducible assumption | with_reducible apply keep_sendReq

theorem keep_injectPreempt {b0 b : Blk} (h : Keep b0 b) (op flight dst : Nat) {up : Blk → Blk} (arg : Nat) (body : Bytes)
    (hu : Keep b0 (up b)) : Keep b0 (Blk.injectPreempt b op flight dst up arg body) := by
  unfold Blk.injectPreempt
  (try dsimp only)
  repeat' first | with_reducible assumption | with_reducible apply keep_injectPacket | split

theorem keep_debugAccess {b0 b : Blk} (h : Keep b0 b) (t : Nat) (write : Bool) (addr : Nat) (data : Bytes) : Keep b0 (Blk.debugAccess b t write addr data) := by
  unfold Blk.debugAccess
  (try dsimp only)
  repeat' first | with_reducible assumption | with_reducible apply keep_upd | with_reducible apply keep_injectPreempt | simp only [upd_eq] | split | (intro (hx : HostOk _); exact hx) | (intro (hx : FwOk _); exact hx)

theorem keep_pause {b0 b : Blk} (h : Keep b0 b)  : Keep b0 (Blk.pause b) := by
  unfold Blk.pause
  (try dsimp only)
  repeat' first | with_reducible assumption | with_reducible apply keep_upd | simp only [upd_eq] | (intro (hx : HostOk _); exact hx) | (intro (hx : FwOk _); exact hx)

theorem keep_portDrop {b0 b : Blk} (h : Keep b0 b) (p reason plot : Nat) : Keep b0 (Blk.portDrop b p reason plot) := by
  unfold Blk.portDrop
  (try dsimp only)
  repeat' first | with_reducible assumption | with_reducible apply keep_drop

theorem keep_enqueue {b0 b : Blk} (h : Keep b0 b) (p : Nat) (d : EgDfp) : Keep b0 (Blk.enqueue b p d) := by
  unfold Blk.enqueue
  (try dsimp only)
  repeat' first | with_reducible assumption | with_reducible apply keep_modPort | with_reducible apply keep_modEgQueue | with_reducible apply keep_pause | with_reducible apply keep_portDrop | split

theorem keep_quorumEject {b0 b : Blk} (h : Keep b0 b) (t op : Nat) (body : Bytes) : Keep b0 (Blk.quorumEject b t op body) := by
  unfold Blk.quorumEject
  (try dsimp only)
  repeat' first | with_reducible assumption | with_reducible exact Keep.rfl _ | with_reducible apply keep_drop | with_reducible apply keep_enqueue | with_reducible apply keep_upd | simp only [upd_eq] | split | (intro (hx : HostOk _); exact hx) | (intro (hx : FwOk _); exact hx) | intro _

theorem keep_toInbox {b0 b : Blk} (h : Keep b0 b) (t : Nat) (q : Packet × Nat) : Keep b0 (Blk.toInbox b t q) := by
  unfold Blk.toInbox
  (try dsimp only)
  repeat' first | with_reducible assumption | with_reducible apply keep_modTile

theorem keep_ejected {b0 b : Blk} (h : Keep b0 b) (t : Nat) (q : Packet × Nat) : Keep b0 (Blk.ejected b t q) := by
  unfold Blk.ejected
  (try dsimp only)
  repeat' first | with_reducible assumption | with_reducible apply keep_count | with_reducible apply keep_drop | with_reducible apply keep_enterInput | with_reducible apply keep_errReq | with_reducible apply keep_toInbox | split

theorem keep_ejectedAdmin {b0 b : Blk} (h : Keep b0 b) (t : Nat) (q : Packet × Nat) : Keep b0 (Blk.ejectedAdmin b t q) := by
  unfold Blk.ejectedAdmin
  dsimp only
  have hf := keep_flightEnd h snAdmin q.1.hdr
  generalize b.flightEnd snAdmin q.1.hdr = b at hf ⊢
  repeat' first | with_reducible assumption | with_reducible apply keep_writeSram | with_reducible apply keep_upd | with_reducible apply keep_answerReq | with_reducible apply keep_errReq | with_reducible apply keep_quorumEject | simp only [upd_eq] | split | (intro (hx : HostOk _); exact hx) | (intro (hx : FwOk _); exact hx)

theorem keep_requestEject {b0 b : Blk} (h : Keep b0 b) (t n : Nat) : Keep b0 (Blk.requestEject b t n) := by
  unfold Blk.requestEject
  (try dsimp only)
  repeat' first | with_reducible assumption | with_reducible apply keep_countN | with_reducible apply keep_setEject | with_reducible apply keep_ejected | with_reducible apply keep_ejectedAdmin | split

theorem keep_replyLate {b0 b : Blk} (h : Keep b0 b) (t n : Nat) : Keep b0 (Blk.replyLate b t n) := by
  unfold Blk.replyLate
  (try dsimp only)
  repeat' first | with_reducible assumption | with_reducible apply keep_modTile | with_reducible apply keep_count | split

theorem keep_landFirst {b0 b : Blk} (h : Keep b0 b) (t : Nat) (q : Packet × Nat) : Keep b0 (Blk.landFirst b t q) := by
  unfold Blk.landFirst
  (try dsimp only)
  repeat' first | with_reducible assumption | with_reducible apply keep_modTile | with_reducible apply keep_writeSram | with_reducible apply keep_count | with_reducible apply keep_answerReq | with_reducible apply keep_errReq | with_reducible apply keep_reserve | with_reducible apply keep_drop | with_reducible apply keep_errSealed | (with_reducible refine useO2 ?_ (by assumption)) | simp only [upd_eq] | split | intro _

theorem keep_landLater {b0 b : Blk} (h : Keep b0 b) (t : Nat) (q : Packet × Nat) : Keep b0 (Blk.landLater b t q) := by
  unfold Blk.landLater
  (try dsimp only)
  repeat' first | with_reducible assumption | with_reducible apply keep_modTile | with_reducible apply keep_writeSram | with_reducible apply keep_count | with_reducible apply keep_answerReq | with_reducible apply keep_errReq | with_reducible apply keep_modQueue | with_reducible apply keep_drop | with_reducible apply keep_complete | with_reducible apply keep_upd | with_reducible apply keep_errSealed | simp only [upd_eq] | split | intro _ | (intro (hx : HostOk _); exact hx) | (intro (hx : FwOk _); exact hx)

theorem keep_msgLand {b0 b : Blk} (h : Keep b0 b) (t : Nat) : Keep b0 (Blk.msgLand b t) := by
  unfold Blk.msgLand
  (try dsimp only)
  repeat' first | with_reducible assumption | with_reducible apply keep_takeInbox | with_reducible apply keep_landFirst | with_reducible apply keep_landLater | (with_reducible refine useO2 ?_ (by assumption)) | split

theorem keep_remoteGet {b0 b : Blk} (h : Keep b0 b) (t : Nat) : Keep b0 (Blk.remoteGet b t) := by
  unfold Blk.remoteGet
  (try dsimp only)
  repeat' first | with_reducible assumption | (with_reducible refine useE2p ?_ (by assumption)) | with_reducible apply keep_answerReq | with_reducible apply keep_errReq | with_reducible apply keep_takeInbox | with_reducible apply keep_raiseP | with_reducible apply keep_upd | with_reducible apply keep_operand | with_reducible apply keep_errSealed | simp only [upd_eq] | (with_reducible refine useO2 ?_ (by assumption)) | split | intro _ | (intro (hx : HostOk _); exact hx) | (intro (hx : FwOk _); exact hx)

theorem keep_remotePut {b0 b : Blk} (h : Keep b0 b) (t : Nat) : Keep b0 (Blk.remotePut b t) := by
  unfold Blk.remotePut
  (try dsimp only)
  repeat' first | with_reducible assumption | with_reducible apply keep_writeSram | with_reducible apply keep_answerReq | with_reducible apply keep_errReq | with_reducible apply keep_takeInbox | with_reducible apply keep_drop | with_reducible apply keep_upd | with_reducible apply keep_errSealed | simp only [upd_eq] | (with_reducible refine useO2 ?_ (by assumption)) | split | intro _ | (intro (hx : HostOk _); exact hx) | (intro (hx : FwOk _); exact hx)

theorem keep_combineInto {b0 b : Blk} (h : Keep b0 b) (t : Nat) (q : Queue) (fmt first : Nat) (vs : List Val) : Keep b0 (Blk.combineInto b t q fmt first vs) := by
  unfold Blk.combineInto
  (try dsimp only)
  repeat' first | with_reducible assumption | with_reducible apply keep_foldl | with_reducible apply keep_writeSram | with_reducible apply keep_count | split | intro _

theorem keep_combine {b0 b : Blk} (h : Keep b0 b) (t : Nat) : Keep b0 (Blk.combine b t) := by
  unfold Blk.combine
  (try dsimp only)
  repeat' first | with_reducible assumption | with_reducible apply keep_count | with_reducible apply keep_signal | with_reducible apply keep_countAdds | with_reducible apply keep_answerReq | with_reducible apply keep_errReq | with_reducible apply keep_takeInbox | with_reducible apply keep_modQueue | with_reducible apply keep_combineInto | with_reducible apply keep_drop | with_reducible apply keep_upd | with_reducible apply keep_errSealed | simp only [upd_eq] | (with_reducible refine useO2 ?_ (by assumption)) | split | intro _ | (intro (hx : HostOk _); exact hx) | (intro (hx : FwOk _); exact hx)

theorem keep_passVoid {b0 : Blk} (t i n : Nat) : ∀ {b : Blk}, Keep b0 b → Keep b0 (Blk.passVoid b t i n) := by
  induction n with
  | zero => intro b h; exact h
  | succ n ih =>
    intro b h
    unfold Blk.passVoid
    dsimp only
    split
    · exact h
    · exact ih (keep_rdTo h _ _ _)

theorem keep_popPass {b0 b : Blk} (h : Keep b0 b) (t : Nat) : Keep b0 (Blk.popPass b t) := by
  unfold Blk.popPass
  (try dsimp only)
  repeat' first | with_reducible assumption | with_reducible apply keep_passVoid | with_reducible apply keep_combine | with_reducible apply keep_upd | simp only [upd_eq] | split | intro _ | (intro (hx : HostOk _); exact hx) | (intro (hx : FwOk _); exact hx)

/-! ### Attach -/

theorem keep_hbmGive {b0 b : Blk} (h : Keep b0 b) (t op : Nat) (q : Packet × Nat) (a tag : Nat) : Keep b0 (Blk.hbmGive b t op q a tag) := by
  unfold Blk.hbmGive
  (try dsimp only)
  repeat' first | with_reducible assumption | with_reducible apply keep_modHbm | with_reducible apply keep_writeHbm | with_reducible apply keep_drop | with_reducible apply keep_upd | simp only [upd_eq] | split | intro _ | (intro (hx : HostOk _); exact hx) | (intro (hx : FwOk _); exact hx)

theorem keep_hbmServe {b0 b b' : Blk} (h : Keep b0 b) (h' : Keep b0 b') (t op : Nat) (q : Packet × Nat) :
    Keep b0 (Blk.hbmServe b b' t op q) := by
  unfold Blk.hbmServe
  have h1 := keep_errReq h' t q erState
  have h2 := fun a tag => keep_hbmGive h' t op q a tag
  revert h1 h2
  generalize b'.errReq t q erState = e1
  generalize b'.hbmGive t op q = g
  generalize b.hbmAddr t q.1 = o1
  generalize (b.hbmAt t).freeTag = o2
  generalize b.fault.failed.contains (fcHbm, b.hbmRes t) = c1
  generalize (b.hbmAt t).pending (pPlot q.1.hdr) = pd
  intro h1 h2
  repeat' first | exact h | exact h1 | exact h2 _ _ | split

theorem keep_hbmTake {b0 b : Blk} (h : Keep b0 b) (t op : Nat) : Keep b0 (Blk.hbmTake b t op) := by
  unfold Blk.hbmTake
  split
  · exact h
  · split
    · exact h
    · exact keep_hbmServe h (useO2 (keep_takeInbox h _ _) (by assumption)) _ _ _


theorem keep_hbmError {b0 b : Blk} (h : Keep b0 b) (t a : Nat) : Keep b0 (Blk.hbmError b t a) := by
  unfold Blk.hbmError
  (try dsimp only)
  repeat' first | with_reducible assumption | with_reducible apply keep_upd | with_reducible apply keep_declare | simp only [upd_eq] | split | (intro (hx : HostOk _); exact hx) | (intro (hx : FwOk _); exact hx)

theorem keep_hbmRespond {b0 b : Blk} (h : Keep b0 b) (t tag : Nat) (err : Bool) : Keep b0 (Blk.hbmRespond b t tag err) := by
  unfold Blk.hbmRespond
  (try dsimp only)
  repeat' first | with_reducible assumption | with_reducible apply keep_modHbm | with_reducible apply keep_answerReq | with_reducible apply keep_errReq | with_reducible apply keep_hbmError | split

theorem keep_hbmUnanswered {b0 b : Blk} (h : Keep b0 b) (t tag : Nat) : Keep b0 (Blk.hbmUnanswered b t tag) := by
  unfold Blk.hbmUnanswered
  (try dsimp only)
  repeat' first | with_reducible assumption | with_reducible apply keep_each | with_reducible apply keep_modHbm | with_reducible apply keep_declare | with_reducible apply keep_errReq | split | intro _

theorem keep_hostTake {b0 b : Blk} (h : Keep b0 b) (op : Nat) : Keep b0 (Blk.hostTake b op) := by
  unfold Blk.hostTake
  (try dsimp only)
  repeat' first | with_reducible assumption | with_reducible apply keep_upd | with_reducible apply keep_writeHost | with_reducible apply keep_errReq | with_reducible apply keep_takeInbox | with_reducible apply keep_drop | (with_reducible refine useO2 ?_ (by assumption)) | simp only [upd_eq] | split | (intro (hx : HostOk _); exact hx) | (intro (hx : FwOk _); exact hx) | intro _

theorem keep_dmaComplete {b0 b : Blk} (h : Keep b0 b) (tag : Nat) (data : Bytes) (err : Bool) : Keep b0 (Blk.dmaComplete b tag data err) := by
  unfold Blk.dmaComplete
  (try dsimp only)
  repeat' first | with_reducible assumption | with_reducible apply keep_upd | with_reducible apply keep_answerReq | with_reducible apply keep_errReq | simp only [upd_eq] | split | (intro (hx : HostOk _); exact hx) | (intro (hx : FwOk _); exact hx)

theorem keep_streamDecide {b0 b : Blk} (h : Keep b0 b) (t : Nat) (q : Packet × Nat) : Keep b0 (Blk.streamDecide b t q) := by
  unfold Blk.streamDecide
  (try dsimp only)
  repeat' first | with_reducible assumption | with_reducible apply keep_modHbm | with_reducible apply keep_answerReq | with_reducible apply keep_errReq | split

theorem keep_streamOpen {b0 b : Blk} (h : Keep b0 b) (t : Nat) : Keep b0 (Blk.streamOpen b t) := by
  unfold Blk.streamOpen
  (try dsimp only)
  repeat' first | with_reducible assumption | with_reducible apply keep_takeInbox | with_reducible apply keep_streamDecide | (with_reducible refine useO2 ?_ (by assumption)) | split

theorem keep_streamEnd {b0 b : Blk} (h : Keep b0 b) (t i : Nat) (readError : Bool) : Keep b0 (Blk.streamEnd b t i readError) := by
  unfold Blk.streamEnd
  (try dsimp only)
  repeat' first | with_reducible assumption | with_reducible apply keep_modHbm | with_reducible apply keep_streamStop | with_reducible apply keep_hbmError | split

end Sys2Proof.Laws
end

