-- ==== Sys2Proof/Laws/KeepPorts.lean ====
section
/-! SUPPORT. The relation Keep through the steward, the optics, the ports, egress, traffic, collectives and observation. -/
namespace Sys2Proof.Laws
open Sys2Proof Sys2Proof.Machine Sys2Proof.Safety

/-! ### Steward -/

theorem keep_Od_ok {b0 b : Blk} (h : Keep b0 b)  : Keep b0 (Od.ok b).1 := by
  unfold Od.ok
  (try dsimp only)
  repeat' with_reducible assumption

theorem keep_Od_no {b0 b : Blk} (h : Keep b0 b) (a : Nat) : Keep b0 (Od.no b a).1 := by
  unfold Od.no
  (try dsimp only)
  repeat' with_reducible assumption

theorem keep_modSels {b0 b : Blk} (h : Keep b0 b) (ch : Channel) (f : Sels → Sels) : Keep b0 (Blk.modSels b ch f) := by
  unfold Blk.modSels
  (try dsimp only)
  repeat' first | with_reducible assumption | with_reducible apply keep_upd | simp only [upd_eq] | split | (intro (hx : HostOk _); exact hx) | (intro (hx : FwOk _); exact hx)

theorem keep_answer {b0 b : Blk} (h : Keep b0 b) (abort : Nat) (payload : Bytes) : Keep b0 (Blk.answer b abort payload) := by
  unfold Blk.answer
  (try dsimp only)
  repeat' first | with_reducible assumption | with_reducible apply keep_upd | simp only [upd_eq] | (intro (hx : HostOk _); exact hx) | (intro (hx : FwOk _); exact hx)

theorem keep_odAnswer {b0 : Blk} {r : Od} (h : Keep b0 r.1) : Keep b0 (Blk.odAnswer r) := keep_answer h _ _

theorem keep_odDo {b0 b : Blk} (h : Keep b0 b) (ch : Channel) (expert : Bool) {f : Blk → Od} (hf : Keep b0 (f b).1) :
    Keep b0 (Blk.odDo b ch expert f) := by
  unfold Blk.odDo
  repeat' first | with_reducible assumption | with_reducible apply keep_answer | split

theorem keep_odTile {b0 b : Blk} (h : Keep b0 b) (ch : Channel) {f : Nat → Blk → Od} (hf : ∀ t, Keep b0 (f t b).1) :
    Keep b0 (Blk.odTile b ch f).1 := by
  unfold Blk.odTile
  split
  · exact hf _
  · exact h

/-! ### Optics -/

theorem keep_restoreCh {b0 b : Blk} (h : Keep b0 b) (p ch : Nat) : Keep b0 (Blk.restoreCh b p ch) := by
  unfold Blk.restoreCh
  (try dsimp only)
  repeat' first | with_reducible assumption | with_reducible apply keep_each | with_reducible apply keep_modLoop | split | intro _

theorem keep_calAbort {b0 b : Blk} (h : Keep b0 b) (p : Nat) : Keep b0 (Blk.calAbort b p) := by
  unfold Blk.calAbort
  (try dsimp only)
  repeat' first | with_reducible assumption | with_reducible apply keep_modOptPort | with_reducible apply keep_raiseS | with_reducible apply keep_restoreCh

theorem keep_calYield {b0 b : Blk} (h : Keep b0 b) (p lane : Nat) : Keep b0 (Blk.calYield b p lane) := by
  unfold Blk.calYield
  (try dsimp only)
  repeat' first | with_reducible assumption | with_reducible exact Keep.rfl _ | with_reducible apply keep_modOptPort | with_reducible apply keep_calAbort | with_reducible apply keep_upd | simp only [upd_eq] | split | (intro (hx : HostOk _); exact hx) | (intro (hx : FwOk _); exact hx) | intro _

theorem keep_orderMove {b0 b : Blk} (h : Keep b0 b) (p lane ch : Nat) : Keep b0 (Blk.orderMove b p lane ch) := by
  unfold Blk.orderMove
  (try dsimp only)
  repeat' first | with_reducible assumption | with_reducible apply keep_upd | with_reducible apply keep_modOptPort | simp only [upd_eq] | (intro (hx : HostOk _); exact hx) | (intro (hx : FwOk _); exact hx)

theorem keep_carrierLost {b0 b : Blk} (h : Keep b0 b) (p ch : Nat) : Keep b0 (Blk.carrierLost b p ch) := by
  unfold Blk.carrierLost
  (try dsimp only)
  repeat' first | with_reducible assumption | with_reducible apply keep_modOptPort | with_reducible apply keep_raiseS | with_reducible apply keep_calAbort | with_reducible apply keep_orderMove | with_reducible apply keep_calYield | with_reducible apply keep_upd | simp only [upd_eq] | split | intro _ | (intro (hx : HostOk _); exact hx) | (intro (hx : FwOk _); exact hx)

theorem keep_relock {b0 b : Blk} (h : Keep b0 b) (p : Nat) : Keep b0 (Blk.relock b p) := by
  unfold Blk.relock
  (try dsimp only)
  repeat' first | with_reducible assumption | with_reducible apply keep_each | with_reducible apply keep_modOptPort | with_reducible apply keep_count | with_reducible apply keep_raiseS | with_reducible apply keep_addWear | with_reducible apply keep_carrierLost | split | intro _

theorem keep_unlockLoops {b0 b : Blk} (h : Keep b0 b) (ls : List Nat) : Keep b0 (Blk.unlockLoops b ls) := by
  unfold Blk.unlockLoops
  (try dsimp only)
  repeat' first | with_reducible assumption | with_reducible apply keep_each | with_reducible apply keep_modLoop | intro _

theorem keep_dacPut {b0 b : Blk} (h : Keep b0 b) (l : Nat) (code : BitVec 16) : Keep b0 (Blk.dacPut b l code) := by
  unfold Blk.dacPut
  (try dsimp only)
  repeat' first | with_reducible assumption | with_reducible apply keep_upd | with_reducible apply keep_modLoop | simp only [upd_eq] | (intro (hx : HostOk _); exact hx) | (intro (hx : FwOk _); exact hx)

theorem keep_sweepRead {b0 b : Blk} (h : Keep b0 b) (p l : Nat) : Keep b0 (Blk.sweepRead b p l) := by
  unfold Blk.sweepRead
  (try dsimp only)
  repeat' first | with_reducible assumption | with_reducible apply keep_modOptPort | split

theorem keep_sweepTick {b0 b : Blk} (h : Keep b0 b) (p : Nat) (excluded : Bool) : Keep b0 (Blk.sweepTick b p excluded) := by
  unfold Blk.sweepTick
  (try dsimp only)
  repeat' first | with_reducible assumption | with_reducible apply keep_each | with_reducible apply keep_modOptPort | with_reducible apply keep_dacPut | with_reducible apply keep_sweepRead | split | intro _

theorem keep_calBegin {b0 b : Blk} (h : Keep b0 b) (p : Nat) : Keep b0 (Blk.calBegin b p) := by
  unfold Blk.calBegin
  (try dsimp only)
  repeat' first | with_reducible assumption | with_reducible apply keep_modOptPort | with_reducible apply keep_raiseS | with_reducible apply keep_orderMove | split

theorem keep_opticReadings {b0 b : Blk} (h : Keep b0 b) (excluded : Bool) (p : Nat) : Keep b0 (Blk.opticReadings b excluded p) := by
  unfold Blk.opticReadings
  (try dsimp only)
  repeat' first | with_reducible assumption | with_reducible apply keep_each | with_reducible apply keep_modLoop | with_reducible apply keep_modOptPort | intro _

theorem keep_opticStep {b0 b : Blk} (hk : Keep b0 b) (h hRef : Nat) (comb : Bool) (p l : Nat) : Keep b0 (Blk.opticStep b h hRef comb p l) := by
  unfold Blk.opticStep
  (try dsimp only)
  repeat' first | with_reducible assumption | with_reducible apply keep_modLoop | with_reducible apply keep_raiseS | with_reducible apply keep_dacPut | split

theorem keep_opticSteps {b0 b : Blk} (h : Keep b0 b) (p : Nat) : Keep b0 (Blk.opticSteps b p) := by
  unfold Blk.opticSteps
  (try dsimp only)
  repeat' first | with_reducible assumption | with_reducible apply keep_each | with_reducible apply keep_opticStep | intro _

theorem keep_opticCount {b0 b : Blk} (h : Keep b0 b) (excluded : Bool) (p : Nat) : Keep b0 (Blk.opticCount b excluded p) := by
  unfold Blk.opticCount
  (try dsimp only)
  repeat' first | with_reducible assumption | with_reducible apply keep_modOptPort | with_reducible apply keep_sweepTick | split

theorem keep_opticRestore {b0 b : Blk} (h : Keep b0 b) (p : Nat) : Keep b0 (Blk.opticRestore b p) := by
  unfold Blk.opticRestore
  (try dsimp only)
  repeat' first | with_reducible assumption | with_reducible apply keep_modOptPort | with_reducible apply keep_orderMove | split

theorem keep_opticPort {b0 b : Blk} (h : Keep b0 b) (excluded : Bool) (p : Nat) : Keep b0 (Blk.opticPort b excluded p) := by
  unfold Blk.opticPort
  (try dsimp only)
  repeat' first | with_reducible assumption | with_reducible apply keep_relock | with_reducible apply keep_calBegin | with_reducible apply keep_opticReadings | with_reducible apply keep_opticSteps | with_reducible apply keep_opticCount | with_reducible apply keep_opticRestore | split

theorem keep_opticsTick {b0 b : Blk} (h : Keep b0 b) (ended : BitVec 48) : Keep b0 (Blk.opticsTick b ended) := by
  unfold Blk.opticsTick
  (try dsimp only)
  repeat' first | with_reducible assumption | with_reducible apply keep_each | with_reducible apply keep_upd | with_reducible apply keep_opticPort | simp only [upd_eq] | (intro (hx : HostOk _); exact hx) | (intro (hx : FwOk _); exact hx) | intro _

theorem keep_sweepBegin {b0 b : Blk} (h : Keep b0 b) (p : Nat) : Keep b0 (Blk.sweepBegin b p) := by
  unfold Blk.sweepBegin
  (try dsimp only)
  repeat' first | with_reducible assumption | with_reducible apply keep_each | with_reducible apply keep_modOptPort | with_reducible apply keep_relock | with_reducible apply keep_unlockLoops | with_reducible apply keep_dacPut | with_reducible apply keep_modLoop | with_reducible apply keep_upd | simp only [upd_eq] | intro _ | split | (intro (hx : HostOk _); exact hx) | (intro (hx : FwOk _); exact hx)

theorem keep_acquire {b0 b : Blk} (h : Keep b0 b) (p : Nat) : Keep b0 (Blk.acquire b p) := by
  unfold Blk.acquire
  (try dsimp only)
  repeat' first | with_reducible assumption | with_reducible apply keep_modOptPort | with_reducible apply keep_sweepBegin

theorem keep_acquireEnd {b0 b : Blk} (h : Keep b0 b) (p : Nat) : Keep b0 (Blk.acquireEnd b p) := by
  unfold Blk.acquireEnd
  (try dsimp only)
  repeat' first | with_reducible assumption | with_reducible apply keep_modOptPort | with_reducible apply keep_raiseS | with_reducible apply keep_acquire | split

theorem keep_fineEnd {b0 b : Blk} (h : Keep b0 b) (p : Nat) : Keep b0 (Blk.fineEnd b p) := by
  unfold Blk.fineEnd
  (try dsimp only)
  repeat' first | with_reducible assumption | with_reducible apply keep_each | with_reducible apply keep_modLoop | with_reducible apply keep_modOptPort | intro _

theorem keep_verifyEnd {b0 b : Blk} (h : Keep b0 b) (p : Nat) : Keep b0 (Blk.verifyEnd b p) := by
  unfold Blk.verifyEnd
  (try dsimp only)
  repeat' first | with_reducible assumption | with_reducible apply keep_modOptPort | with_reducible apply keep_raiseS | with_reducible apply keep_calAbort | split

theorem keep_calStageEnd {b0 b : Blk} (h : Keep b0 b) (p : Nat) : Keep b0 (Blk.calStageEnd b p) := by
  unfold Blk.calStageEnd
  (try dsimp only)
  repeat' first | with_reducible assumption | with_reducible apply keep_each | with_reducible apply keep_modLoop | with_reducible apply keep_modOptPort | with_reducible apply keep_dacPut | with_reducible apply keep_sweepBegin | with_reducible apply keep_acquireEnd | with_reducible apply keep_fineEnd | with_reducible apply keep_verifyEnd | split | intro _

theorem keep_combLost {b0 b : Blk} (h : Keep b0 b) (c : Nat) : Keep b0 (Blk.combLost b c) := by
  unfold Blk.combLost
  (try dsimp only)
  repeat' first | with_reducible assumption | with_reducible apply keep_each | with_reducible apply keep_upd | with_reducible apply keep_raiseS | with_reducible apply keep_relock | with_reducible apply keep_unlockLoops | simp only [upd_eq] | split | (intro (hx : HostOk _); exact hx) | (intro (hx : FwOk _); exact hx) | intro _

theorem keep_combLocked {b0 b : Blk} (h : Keep b0 b) (c : Nat) : Keep b0 (Blk.combLocked b c) := by
  unfold Blk.combLocked
  (try dsimp only)
  repeat' first | with_reducible assumption | with_reducible apply keep_upd | simp only [upd_eq] | (intro (hx : HostOk _); exact hx) | (intro (hx : FwOk _); exact hx)

theorem keep_adcReading {b0 b : Blk} (h : Keep b0 b) (l : Nat) (code : BitVec 16) : Keep b0 (Blk.adcReading b l code) := by
  unfold Blk.adcReading
  (try dsimp only)
  repeat' first | with_reducible assumption | with_reducible apply keep_modLoop

theorem keep_writeLoop {b0 b : Blk} (h : Keep b0 b) (l : Nat) (v : BitVec 128) : Keep b0 (Blk.writeLoop b l v).1 := by
  unfold Blk.writeLoop
  (try dsimp only)
  repeat' first | with_reducible assumption | with_reducible apply keep_modLoop | with_reducible apply keep_Od_ok | with_reducible apply keep_Od_no | split

theorem keep_writeOptPort {b0 b : Blk} (h : Keep b0 b) (expert : Bool) (p : Nat) (v : BitVec 64) : Keep b0 (Blk.writeOptPort b expert p v).1 := by
  unfold Blk.writeOptPort
  (try dsimp only)
  repeat' first | with_reducible assumption | with_reducible apply keep_modOptPort | with_reducible apply keep_Od_ok | with_reducible apply keep_Od_no | split

theorem keep_calDue {b0 b : Blk} (h : Keep b0 b) (p : Nat) : Keep b0 (Blk.calDue b p) := by
  unfold Blk.calDue
  (try dsimp only)
  repeat' first | with_reducible assumption | with_reducible apply keep_modOptPort | split

theorem keep_opticsGone {b0 b : Blk} (h : Keep b0 b) (p : Nat) : Keep b0 (Blk.opticsGone b p) := by
  unfold Blk.opticsGone
  (try dsimp only)
  repeat' first | with_reducible assumption | with_reducible apply keep_modOptPort | with_reducible apply keep_calAbort | split

theorem keep_opticsOn {b0 b : Blk} (h : Keep b0 b) (p : Nat) : Keep b0 (Blk.opticsOn b p) := by
  unfold Blk.opticsOn
  (try dsimp only)
  repeat' first | with_reducible assumption | with_reducible apply keep_modOptPort | with_reducible apply keep_acquire | with_reducible apply keep_calAbort | with_reducible apply keep_upd | simp only [upd_eq] | split | intro _ | (intro (hx : HostOk _); exact hx) | (intro (hx : FwOk _); exact hx)

/-! ### Dfp -/

theorem keep_egressOf {b0 b : Blk} (h : Keep b0 b) (inPort plot : Nat) (e : BitVec 64) : Keep b0 (Blk.egressOf b inPort plot e).2.2.2 := by
  unfold Blk.egressOf
  (try dsimp only)
  repeat' first | with_reducible assumption | with_reducible apply keep_modPort | split

theorem keep_quorumOut {b0 b : Blk} (h : Keep b0 b) (h : BitVec 256) (payload : Bytes) : Keep b0 (Blk.quorumOut b h payload) := by
  unfold Blk.quorumOut
  (try dsimp only)
  repeat' first | with_reducible assumption | with_reducible exact Keep.rfl _ | with_reducible apply keep_egressOf | with_reducible apply keep_upd | simp only [upd_eq] | split | (intro (hx : HostOk _); exact hx) | (intro (hx : FwOk _); exact hx) | intro _

theorem keep_stage {b0 b : Blk} (h : Keep b0 b) (t : Nat) (d : BitVec 128) (egress cls : Nat) (cells : List StagedCell) : Keep b0 (Blk.stage b t d egress cls cells) := by
  unfold Blk.stage
  (try dsimp only)
  repeat' first | with_reducible assumption | with_reducible apply keep_upd | simp only [upd_eq] | (intro (hx : HostOk _); exact hx) | (intro (hx : FwOk _); exact hx)

/-! ### Egress -/

theorem keep_modEg {b0 b : Blk} (h : Keep b0 b) (p : Nat) (f : Egress → Egress) : Keep b0 (Blk.modEg b p f) := by
  unfold Blk.modEg
  (try dsimp only)
  repeat' first | with_reducible assumption | with_reducible apply keep_modPort

theorem keep_emit {b0 b : Blk} (h : Keep b0 b) (p : Nat) (d : EgDfp) (err : Bool) : Keep b0 (Blk.emit b p d err) := by
  unfold Blk.emit
  (try dsimp only)
  repeat' first | with_reducible assumption | with_reducible apply keep_countN | with_reducible apply keep_count | with_reducible apply keep_modEg | split

theorem keep_abortTx {b0 b : Blk} (h : Keep b0 b) (p : Nat) (halfB : Bool) : Keep b0 (Blk.abortTx b p halfB) := by
  unfold Blk.abortTx
  (try dsimp only)
  repeat' first | with_reducible assumption | with_reducible apply keep_pause | with_reducible apply keep_portDrop | with_reducible apply keep_modEg | with_reducible apply keep_emit | split

theorem keep_cellFor {b0 b : Blk} (h : Keep b0 b) (p src furrow plot : Nat) (next : Option (Nat × Bytes)) : Keep b0 (Blk.cellFor b p src furrow plot next) := by
  unfold Blk.cellFor
  (try dsimp only)
  repeat' first | with_reducible assumption | with_reducible apply keep_modEgQueue | with_reducible apply keep_pause | with_reducible apply keep_portDrop | with_reducible apply keep_modEg | with_reducible apply keep_emit | with_reducible apply keep_abortTx | split

theorem keep_rxCell {b0 b : Blk} (h : Keep b0 b) (p src furrow plot : Nat) (c : Cell) : Keep b0 (Blk.rxCell b p src furrow plot c) := by
  unfold Blk.rxCell
  (try dsimp only)
  repeat' first | with_reducible assumption | with_reducible apply keep_modTile | with_reducible apply keep_enqueue | with_reducible apply keep_cellFor | split

theorem keep_egressEnqueue {b0 b : Blk} (h : Keep b0 b) (p : Nat) : Keep b0 (Blk.egressEnqueue b p) := by
  unfold Blk.egressEnqueue
  (try dsimp only)
  repeat' first | with_reducible assumption | with_reducible apply keep_each | with_reducible apply keep_modEg | with_reducible apply keep_rxCell | with_reducible apply keep_drop | with_reducible apply keep_upd | simp only [upd_eq] | intro _ | split | (intro (hx : HostOk _); exact hx) | (intro (hx : FwOk _); exact hx)

theorem keep_takePktNum {b0 b : Blk} (h : Keep b0 b) (p plot : Nat) : Keep b0 (Blk.takePktNum b p plot) := by
  unfold Blk.takePktNum
  (try dsimp only)
  repeat' first | with_reducible assumption | with_reducible apply keep_raiseS | with_reducible apply keep_modEg | split

theorem keep_txStart {b0 b : Blk} (h : Keep b0 b) (p q : Nat) (halfB : Bool) : Keep b0 (Blk.txStart b p q halfB) := by
  unfold Blk.txStart
  (try dsimp only)
  repeat' first | with_reducible assumption | with_reducible apply keep_modTile | with_reducible apply keep_modEgQueue | with_reducible apply keep_traceMark | with_reducible apply keep_pause | with_reducible apply keep_modEg | with_reducible apply keep_emit | with_reducible apply keep_takePktNum | with_reducible apply keep_started | with_reducible apply keep_upd | with_reducible apply keep_note | simp only [upd_eq] | split | intro _ | (intro (hx : HostOk _); exact hx) | (intro (hx : FwOk _); exact hx)

theorem keep_egressSchedule {b0 b : Blk} (h : Keep b0 b) (p : Nat) (halfB : Bool) : Keep b0 (Blk.egressSchedule b p halfB) := by
  unfold Blk.egressSchedule
  (try dsimp only)
  repeat' first | with_reducible assumption | with_reducible apply keep_txStart | split

theorem keep_discard {b0 b : Blk} (h : Keep b0 b) (p reason : Nat) (test : Nat → EgDfp → Bool) : Keep b0 (Blk.discard b p reason test) := by
  unfold Blk.discard
  (try dsimp only)
  repeat' first | with_reducible assumption | with_reducible apply keep_each | with_reducible apply keep_modEgQueue | with_reducible apply keep_pause | with_reducible apply keep_portDrop | intro _

theorem keep_dropQueued {b0 b : Blk} (h : Keep b0 b) (p : Nat) : Keep b0 (Blk.dropQueued b p) := by
  unfold Blk.dropQueued
  (try dsimp only)
  repeat' first | with_reducible assumption | with_reducible exact Keep.rfl _ | with_reducible apply keep_each | with_reducible apply keep_discard | split | intro _

theorem keep_pfcReceive {b0 b : Blk} (h : Keep b0 b) (p prio : Nat) (on : Bool) : Keep b0 (Blk.pfcReceive b p prio on) := by
  unfold Blk.pfcReceive
  (try dsimp only)
  repeat' first | with_reducible assumption | with_reducible apply keep_modPort | split

/-! ### Forward -/

theorem keep_sendOpen {b0 b : Blk} (h : Keep b0 b) (t plot target queue : Nat) (data : Bytes) : Keep b0 (Blk.sendOpen b t plot target queue data) := by
  unfold Blk.sendOpen
  (try dsimp only)
  repeat' first | with_reducible assumption | with_reducible apply keep_modTile

theorem keep_forward {b0 b : Blk} (hk : Keep b0 b) (t plot inPort : Nat) (h : BitVec 256) (color : Nat) (payload : Bytes) (p queue : Nat) (open_ : Bool) : OkO (Keep b0) (Blk.forward b t plot inPort h color payload p queue open_) := by
  unfold Blk.forward
  (try dsimp only)
  repeat' first | with_reducible assumption | with_reducible apply keep_stage | with_reducible apply keep_sendOpen | with_reducible apply okO_some | with_reducible apply okO_map | split | intro _

/-! ### Suspect -/

theorem keep_qSend {b0 b : Blk} (h : Keep b0 b) (m : Nat) (x : QMsg) : Keep b0 (Blk.qSend b m x) := by
  unfold Blk.qSend
  (try dsimp only)
  repeat' first | with_reducible assumption | with_reducible apply keep_upd | with_reducible apply okO_getD | with_reducible apply keep_quorumOut | simp only [upd_eq] | (intro (hx : HostOk _); exact hx) | (intro (hx : FwOk _); exact hx) | split | intro _

theorem keep_qSendAll {b0 b : Blk} (h : Keep b0 b) (dest : List Nat) (kind pass : Nat) (round set : BitVec 32) : Keep b0 (Blk.qSendAll b dest kind pass round set) := by
  unfold Blk.qSendAll
  (try dsimp only)
  repeat' first | with_reducible assumption | with_reducible apply keep_each | with_reducible apply keep_upd | with_reducible apply keep_qSend | simp only [upd_eq] | (intro (hx : HostOk _); exact hx) | (intro (hx : FwOk _); exact hx) | intro _

theorem keep_heartbeatSend {b0 b : Blk} (h : Keep b0 b)  : Keep b0 (Blk.heartbeatSend b) := by
  unfold Blk.heartbeatSend
  (try dsimp only)
  repeat' first | with_reducible assumption | with_reducible apply keep_qSendAll | split

theorem keep_qJoin {b0 b : Blk} (h : Keep b0 b) (r s : BitVec 32) : Keep b0 (Blk.qJoin b r s) := by
  unfold Blk.qJoin
  (try dsimp only)
  repeat' first | with_reducible assumption | with_reducible apply keep_upd | with_reducible apply keep_qSendAll | simp only [upd_eq] | (intro (hx : HostOk _); exact hx) | (intro (hx : FwOk _); exact hx)

theorem keep_suspect {b0 b : Blk} (h : Keep b0 b) (m : Nat) : Keep b0 (Blk.suspect b m) := by
  unfold Blk.suspect
  (try dsimp only)
  repeat' first | with_reducible assumption | with_reducible apply keep_upd | with_reducible apply keep_qJoin | simp only [upd_eq] | split | (intro (hx : HostOk _); exact hx) | (intro (hx : FwOk _); exact hx)

theorem keep_suspectPort {b0 b : Blk} (h : Keep b0 b) (p : Nat) : Keep b0 (Blk.suspectPort b p) := by
  unfold Blk.suspectPort
  (try dsimp only)
  repeat' first | with_reducible assumption | with_reducible apply keep_each | with_reducible apply keep_suspect | intro _

theorem keep_unsuspect {b0 b : Blk} (h : Keep b0 b) (m : Nat) : Keep b0 (Blk.unsuspect b m) := by
  unfold Blk.unsuspect
  (try dsimp only)
  repeat' first | with_reducible assumption | with_reducible apply keep_upd | simp only [upd_eq] | (intro (hx : HostOk _); exact hx) | (intro (hx : FwOk _); exact hx)

/-! ### Ports -/

theorem keep_bondCheck {b0 b : Blk} (h : Keep b0 b) (p : Nat) : Keep b0 (Blk.bondCheck b p) := by
  unfold Blk.bondCheck
  (try dsimp only)
  repeat' first | with_reducible assumption | with_reducible apply keep_modPort | with_reducible apply keep_raiseS | split

theorem keep_portTo {b0 b : Blk} (h : Keep b0 b) (p : Nat) (s : PortState) : Keep b0 (Blk.portTo b p s) := by
  unfold Blk.portTo
  (try dsimp only)
  repeat' first | with_reducible assumption | with_reducible apply keep_each | with_reducible apply keep_modPort | with_reducible apply keep_raiseS | with_reducible apply keep_unsuspect | split | intro _

theorem keep_expiryActs {b0 b : Blk} (h : Keep b0 b) (p : Nat) : Keep b0 (Blk.expiryActs b p) := by
  unfold Blk.expiryActs
  (try dsimp only)
  repeat' first | with_reducible assumption | with_reducible exact Keep.rfl _ | with_reducible apply keep_discard | with_reducible apply keep_portTo | split | intro _

theorem keep_autoUp {b0 b : Blk} (h : Keep b0 b) (p : Nat) : Keep b0 (Blk.autoUp b p) := by
  unfold Blk.autoUp
  (try dsimp only)
  repeat' first | with_reducible assumption | with_reducible apply keep_portTo | split

theorem keep_abortBoth {b0 b : Blk} (h : Keep b0 b) (p : Nat) : Keep b0 (Blk.abortBoth b p) := by
  unfold Blk.abortBoth
  (try dsimp only)
  repeat' first | with_reducible assumption | with_reducible apply keep_abortTx

theorem keep_portLeave {b0 b : Blk} (h : Keep b0 b) (p : Nat) (dest : PortState) : Keep b0 (Blk.portLeave b p dest) := by
  unfold Blk.portLeave
  (try dsimp only)
  repeat' first | with_reducible assumption | with_reducible apply keep_discard | with_reducible apply keep_suspectPort | with_reducible apply keep_portTo | split

theorem keep_portUp {b0 b : Blk} (h : Keep b0 b) (p : Nat) : Keep b0 (Blk.portUp b p).1 := by
  unfold Blk.portUp
  (try dsimp only)
  repeat' first | with_reducible assumption | with_reducible apply keep_Od_ok | with_reducible apply keep_Od_no | with_reducible apply keep_portTo | with_reducible apply keep_unfallow | split | intro _

theorem keep_portDrain {b0 b : Blk} (h : Keep b0 b) (p : Nat) : Keep b0 (Blk.portDrain b p) := by
  unfold Blk.portDrain
  (try dsimp only)
  repeat' first | with_reducible assumption | with_reducible apply keep_portTo | split

theorem keep_pressActs {b0 b : Blk} (h : Keep b0 b) (p : Nat) : Keep b0 (Blk.pressActs b p) := by
  unfold Blk.pressActs
  (try dsimp only)
  repeat' first | with_reducible assumption | with_reducible exact Keep.rfl _ | with_reducible apply keep_portTo | with_reducible apply keep_portDrain | with_reducible apply keep_upd | simp only [upd_eq] | split | (intro (hx : HostOk _); exact hx) | (intro (hx : FwOk _); exact hx) | intro _

theorem keep_portDown {b0 b : Blk} (h : Keep b0 b) (p : Nat) : Keep b0 (Blk.portDown b p) := by
  unfold Blk.portDown
  (try dsimp only)
  repeat' first | with_reducible assumption | with_reducible apply keep_portLeave | split

theorem keep_moduleInsert {b0 b : Blk} (h : Keep b0 b) (p : Nat) : Keep b0 (Blk.moduleInsert b p) := by
  unfold Blk.moduleInsert
  (try dsimp only)
  repeat' first | with_reducible assumption | with_reducible apply keep_modPort | with_reducible apply keep_modOptPort | with_reducible apply keep_relock | with_reducible apply keep_unlockLoops | with_reducible apply keep_acquire | with_reducible apply keep_portTo | split

theorem keep_moduleRemove {b0 b : Blk} (h : Keep b0 b) (p : Nat) : Keep b0 (Blk.moduleRemove b p) := by
  unfold Blk.moduleRemove
  (try dsimp only)
  repeat' first | with_reducible assumption | with_reducible apply keep_modPort | with_reducible apply keep_raiseS | with_reducible apply keep_opticsGone | with_reducible apply keep_abortBoth | with_reducible apply keep_portLeave | split

theorem keep_svcPress {b0 b : Blk} (h : Keep b0 b) (p : Nat) : Keep b0 (Blk.svcPress b p) := by
  unfold Blk.svcPress
  (try dsimp only)
  repeat' first | with_reducible assumption | with_reducible apply keep_portTo | with_reducible apply keep_portDrain | with_reducible apply keep_note | split | intro _

theorem keep_svcStuck {b0 b : Blk} (h : Keep b0 b) (p : Nat) : Keep b0 (Blk.svcStuck b p) := by
  unfold Blk.svcStuck
  (try dsimp only)
  repeat' first | with_reducible assumption | with_reducible apply keep_modPort | with_reducible apply keep_raiseS | split

theorem keep_firstScan {b0 b : Blk} (h : Keep b0 b) (p : Nat) (pressed : Bool) : Keep b0 (Blk.firstScan b p pressed) := by
  unfold Blk.firstScan
  (try dsimp only)
  repeat' first | with_reducible assumption | with_reducible apply keep_modPort | with_reducible apply keep_raiseS | split

theorem keep_scanPresence {b0 b : Blk} (h : Keep b0 b) (p : Nat) (level : Bool) : Keep b0 (Blk.scanPresence b p level) := by
  unfold Blk.scanPresence
  (try dsimp only)
  repeat' first | with_reducible assumption | with_reducible apply keep_modPort | with_reducible apply keep_moduleInsert | with_reducible apply keep_moduleRemove | split

theorem keep_scanButton {b0 b : Blk} (h : Keep b0 b) (p : Nat) (level : Bool) : Keep b0 (Blk.scanButton b p level) := by
  unfold Blk.scanButton
  (try dsimp only)
  repeat' first | with_reducible assumption | with_reducible apply keep_modPort | with_reducible apply keep_svcPress | split

theorem keep_frontPanel {b0 b : Blk} (h : Keep b0 b) (bits : BitVec 512) : Keep b0 (Blk.frontPanel b bits) := by
  unfold Blk.frontPanel
  (try dsimp only)
  repeat' first | with_reducible assumption | with_reducible apply keep_each | with_reducible apply keep_firstScan | with_reducible apply keep_scanPresence | with_reducible apply keep_scanButton | intro _

theorem keep_portLinkUp {b0 b : Blk} (h : Keep b0 b) (p : Nat) : Keep b0 (Blk.portLinkUp b p) := by
  unfold Blk.portLinkUp
  (try dsimp only)
  repeat' first | with_reducible assumption | with_reducible apply keep_modPort | with_reducible apply keep_undeclare | with_reducible apply keep_autoUp

theorem keep_portLinkDown {b0 b : Blk} (h : Keep b0 b) (p : Nat) : Keep b0 (Blk.portLinkDown b p) := by
  unfold Blk.portLinkDown
  (try dsimp only)
  repeat' first | with_reducible assumption | with_reducible apply keep_modPort | with_reducible apply keep_declare | with_reducible apply keep_abortBoth | with_reducible apply keep_portLeave | split

theorem keep_drainComplete {b0 b : Blk} (h : Keep b0 b) (p : Nat) : Keep b0 (Blk.drainComplete b p) := by
  unfold Blk.drainComplete
  (try dsimp only)
  repeat' first | with_reducible assumption | with_reducible apply keep_portTo | split

theorem keep_drainExpiry {b0 b : Blk} (h : Keep b0 b) (p : Nat) : Keep b0 (Blk.drainExpiry b p) := by
  unfold Blk.drainExpiry
  (try dsimp only)
  repeat' first | with_reducible assumption | with_reducible apply keep_discard | with_reducible apply keep_portTo | with_reducible apply keep_note | split | intro _

theorem keep_writePortCtrl {b0 b : Blk} (h : Keep b0 b) (expert : Bool) (p : Nat) (v : BitVec 128) : Keep b0 (Blk.writePortCtrl b expert p v).1 := by
  unfold Blk.writePortCtrl
  (try dsimp only)
  repeat' first | with_reducible assumption | with_reducible apply keep_each | with_reducible apply keep_modPort | with_reducible apply keep_Od_ok | with_reducible apply keep_Od_no | with_reducible apply keep_bondCheck | with_reducible apply keep_autoUp | split | intro _

theorem keep_writeFacing {b0 b : Blk} (h : Keep b0 b) (p v : Nat) : Keep b0 (Blk.writeFacing b p v).1 := by
  unfold Blk.writeFacing
  (try dsimp only)
  repeat' first | with_reducible assumption | with_reducible apply keep_modPort | with_reducible apply keep_Od_ok

/-! ### Traffic -/

theorem keep_writeSieve {b0 b : Blk} (h : Keep b0 b) (slot : Nat) (v : BitVec 320) : Keep b0 (Blk.writeSieve b slot v).1 := by
  unfold Blk.writeSieve
  (try dsimp only)
  repeat' first | with_reducible assumption | with_reducible apply keep_upd | with_reducible apply keep_Od_ok | with_reducible apply keep_Od_no | simp only [upd_eq] | split | (intro (hx : HostOk _); exact hx) | (intro (hx : FwOk _); exact hx)

theorem keep_writeLookup {b0 b : Blk} (h : Keep b0 b) (i : Nat) (v : BitVec 64) : Keep b0 (Blk.writeLookup b i v).1 := by
  unfold Blk.writeLookup
  (try dsimp only)
  repeat' first | with_reducible assumption | with_reducible apply keep_upd | with_reducible apply keep_Od_ok | with_reducible apply keep_Od_no | simp only [upd_eq] | split | (intro (hx : HostOk _); exact hx) | (intro (hx : FwOk _); exact hx)

theorem keep_writeClass {b0 b : Blk} (h : Keep b0 b) (i : Nat) (v : BitVec 16) : Keep b0 (Blk.writeClass b i v).1 := by
  unfold Blk.writeClass
  (try dsimp only)
  repeat' first | with_reducible assumption | with_reducible apply keep_upd | with_reducible apply keep_Od_ok | simp only [upd_eq] | (intro (hx : HostOk _); exact hx) | (intro (hx : FwOk _); exact hx)

theorem keep_writeMeter {b0 b : Blk} (h : Keep b0 b) (i : Nat) (v : BitVec 256) : Keep b0 (Blk.writeMeter b i v).1 := by
  unfold Blk.writeMeter
  (try dsimp only)
  repeat' first | with_reducible assumption | with_reducible apply keep_upd | with_reducible apply keep_Od_ok | with_reducible apply keep_Od_no | with_reducible apply keep_note | simp only [upd_eq] | split | (intro (hx : HostOk _); exact hx) | (intro (hx : FwOk _); exact hx) | intro _

theorem keep_writeEgQueue {b0 b : Blk} (h : Keep b0 b) (p q : Nat) (v : BitVec 64) : Keep b0 (Blk.writeEgQueue b p q v).1 := by
  unfold Blk.writeEgQueue
  (try dsimp only)
  repeat' first | with_reducible assumption | with_reducible apply keep_modEgQueue | with_reducible apply keep_Od_ok | with_reducible apply keep_Od_no | with_reducible apply keep_note | with_reducible apply keep_upd | simp only [upd_eq] | split | intro _ | (intro (hx : HostOk _); exact hx) | (intro (hx : FwOk _); exact hx)

theorem keep_writeShaper {b0 b : Blk} (h : Keep b0 b) (p q : Nat) (v : BitVec 64) : Keep b0 (Blk.writeShaper b p q v).1 := by
  unfold Blk.writeShaper
  (try dsimp only)
  repeat' first | with_reducible assumption | with_reducible apply keep_modEgQueue | with_reducible apply keep_Od_ok | with_reducible apply keep_note | split | intro _

theorem keep_writeGate {b0 b : Blk} (h : Keep b0 b) (p i : Nat) (v : BitVec 128) : Keep b0 (Blk.writeGate b p i v).1 := by
  unfold Blk.writeGate
  (try dsimp only)
  repeat' first | with_reducible assumption | with_reducible apply keep_Od_ok | with_reducible apply keep_Od_no | with_reducible apply keep_modEg | split

theorem keep_writePools {b0 b : Blk} (h : Keep b0 b) (p : Nat) (v : BitVec 64) : Keep b0 (Blk.writePools b p v).1 := by
  unfold Blk.writePools
  (try dsimp only)
  repeat' first | with_reducible assumption | with_reducible apply keep_modPort | with_reducible apply keep_Od_ok | with_reducible apply keep_Od_no | with_reducible apply keep_pause | with_reducible apply keep_reply | with_reducible apply keep_upd | simp only [upd_eq] | split | intro _ | (intro (hx : HostOk _); exact hx) | (intro (hx : FwOk _); exact hx)

/-! ### Emit -/

theorem keep_emitDfp {b0 b : Blk} (hk : Keep b0 b) (t plot p : Nat) (halfB : Bool) (h : BitVec 256) (cells : List Bytes) : Keep b0 (Blk.emitDfp b t plot p halfB h cells) := by
  unfold Blk.emitDfp
  (try dsimp only)
  repeat' first | with_reducible assumption | with_reducible apply keep_enqueue

theorem keep_runEmit {b0 b : Blk} (h : Keep b0 b) (t : Nat) (s : Sheaf) : Keep b0 (runEmit t b s).1 := by
  unfold runEmit
  (try dsimp only)
  repeat' first | with_reducible assumption | (with_reducible refine useE ?_ (by assumption)) | (with_reducible refine useE2 ?_ (by assumption)) | (with_reducible refine useE12 ?_ (by assumption)) | with_reducible apply keep_ranOf | with_reducible apply keep_emitDfp | with_reducible apply okE_ok | with_reducible apply okE_bind | with_reducible apply keep_drop | with_reducible apply keep_operand | intro _ | split | dsimp only

/-! ### CollDesc -/

theorem keep_doorbell {b0 b : Blk} (h : Keep b0 b) (p : Nat) (kernel : Bool) (off : BitVec 32) : Keep b0 (Blk.doorbell b p kernel off) := by
  unfold Blk.doorbell
  (try dsimp only)
  repeat' first | with_reducible assumption | with_reducible apply keep_modPlot | with_reducible apply keep_countSys | with_reducible apply keep_count | with_reducible apply keep_upd | with_reducible apply keep_note | simp only [upd_eq] | split | intro _ | (intro (hx : HostOk _); exact hx) | (intro (hx : FwOk _); exact hx)

theorem keep_takeDoorbell {b0 b : Blk} (h : Keep b0 b) (p : Nat) (kernel : Bool) : OkO (fun x => Keep b0 x.2) (Blk.takeDoorbell b p kernel) := by
  unfold Blk.takeDoorbell
  (try dsimp only)
  repeat' first | with_reducible assumption | with_reducible apply keep_modPlot | with_reducible exact okO_none | with_reducible apply okO_some | with_reducible apply keep_note | with_reducible apply keep_upd | simp only [upd_eq] | split | intro _ | (intro (hx : HostOk _); exact hx) | (intro (hx : FwOk _); exact hx)

theorem keep_collRecord {b0 b : Blk} (h : Keep b0 b) (plot : Nat) (c : Coll) (status cause chunks : Nat) : Keep b0 (Blk.collRecord b plot c status cause chunks) := by
  unfold Blk.collRecord
  (try dsimp only)
  repeat' first | with_reducible assumption | with_reducible apply keep_writeHost | with_reducible apply keep_raiseP | split

theorem keep_collHold {b0 b : Blk} (h : Keep b0 b) (plot : Nat) (c : Coll) (p : Part) : Keep b0 (Blk.collHold b plot c p).1 := by
  unfold Blk.collHold
  (try dsimp only)
  repeat' first | with_reducible assumption | with_reducible apply keep_modTile

theorem keep_collAccept {b0 b : Blk} (h : Keep b0 b) (plot : Nat) (desc : Bytes) : Keep b0 (Blk.collAccept b plot desc) := by
  unfold Blk.collAccept
  (try dsimp only)
  repeat' first | with_reducible assumption | with_reducible apply keep_foldl1 | with_reducible apply keep_modPlot | with_reducible apply keep_takeDoorbell | with_reducible apply keep_collRecord | with_reducible apply keep_collHold | with_reducible apply keep_foldl | with_reducible apply keep_drop | (with_reducible refine useO2 ?_ (by assumption)) | simp only [upd_eq] | split | intro _

/-! ### Coll -/

theorem keep_setColl {b0 b : Blk} (h : Keep b0 b) (plot : Nat) (c : Coll) : Keep b0 (Blk.setColl b plot c) := by
  unfold Blk.setColl
  (try dsimp only)
  repeat' first | with_reducible assumption | with_reducible apply keep_modPlot

theorem keep_collUnreturn {b0 b : Blk} (h : Keep b0 b) (plot : Nat) (c : Coll) (payload : Bytes) : Keep b0 (Blk.collUnreturn b plot c payload) := by
  unfold Blk.collUnreturn
  (try dsimp only)
  repeat' first | with_reducible assumption | with_reducible exact Keep.rfl _ | with_reducible apply keep_setColl | with_reducible apply keep_upd | simp only [upd_eq] | split | (intro (hx : HostOk _); exact hx) | (intro (hx : FwOk _); exact hx) | intro _

theorem keep_collRelease {b0 b : Blk} (h : Keep b0 b) (plot : Nat) (c : Coll) : Keep b0 (Blk.collRelease b plot c) := by
  unfold Blk.collRelease
  (try dsimp only)
  repeat' first | with_reducible assumption | with_reducible apply keep_each | with_reducible apply keep_modTile | with_reducible apply keep_modPlot | intro _

theorem keep_collEmit {b0 b : Blk} (h : Keep b0 b) (plot : Nat) (c : Coll) (t dst : Nat) (payload : Bytes) : OkE (Keep b0) (Blk.collEmit b plot c t dst payload) := by
  unfold Blk.collEmit
  (try dsimp only)
  repeat' first | with_reducible assumption | (with_reducible refine useE ?_ (by assumption)) | (with_reducible refine useE2 ?_ (by assumption)) | (with_reducible refine useE12 ?_ (by assumption)) | with_reducible apply keep_emitDfp | with_reducible apply okE_ok | with_reducible apply okE_bind | intro _ | dsimp only

theorem keep_collEnd {b0 b : Blk} (h : Keep b0 b) (plot : Nat) (c : Coll) (status cause : Nat) : Keep b0 (Blk.collEnd b plot c status cause) := by
  unfold Blk.collEnd
  (try dsimp only)
  repeat' first | with_reducible assumption | with_reducible apply keep_each | with_reducible apply keep_collRecord | with_reducible apply keep_collRelease | with_reducible apply keep_collEmit | (with_reducible refine useE ?_ (by assumption)) | split | intro _

theorem keep_collEndIf {b0 b : Blk} (h : Keep b0 b) (plot status cause : Nat) (p : Coll → Bool) : Keep b0 (Blk.collEndIf b plot status cause p) := by
  unfold Blk.collEndIf
  (try dsimp only)
  repeat' first | with_reducible assumption | with_reducible apply keep_each | with_reducible apply keep_collEnd | intro _

theorem keep_collLand {b0 b : Blk} (h : Keep b0 b) (plot : Nat) (c : Coll) (j : Nat) (payload : Bytes) : OkE (Keep b0) (Blk.collLand b plot c j payload) := by
  unfold Blk.collLand
  (try dsimp only)
  repeat' first | with_reducible assumption | with_reducible apply keep_writeSram | with_reducible apply keep_zeroSram | with_reducible apply keep_setColl | with_reducible exact okE_error | with_reducible apply okE_ok | with_reducible apply keep_count | with_reducible apply keep_drop | with_reducible apply keep_upd | simp only [upd_eq] | split | intro _ | (intro (hx : HostOk _); exact hx) | (intro (hx : FwOk _); exact hx)

theorem keep_collUnland {b0 b : Blk} (h : Keep b0 b) (plot : Nat) (c : Coll) (j : Nat) (payload : Bytes) : Keep b0 (Blk.collUnland b plot c j payload) := by
  unfold Blk.collUnland
  (try dsimp only)
  repeat' first | with_reducible assumption | with_reducible apply keep_setColl | split

theorem keep_collReturn {b0 b : Blk} (h : Keep b0 b) (plot : Nat) (c : Coll) (t : Nat) (payload : Bytes) : OkE (Keep b0) (Blk.collReturn b plot c t payload) := by
  unfold Blk.collReturn
  (try dsimp only)
  repeat' first | with_reducible assumption | with_reducible apply keep_stage | with_reducible apply keep_setColl | with_reducible exact okE_error | with_reducible apply okE_ok | with_reducible apply keep_count | with_reducible apply keep_drop | with_reducible apply keep_upd | simp only [upd_eq] | split | intro _ | (intro (hx : HostOk _); exact hx) | (intro (hx : FwOk _); exact hx)

theorem keep_sowTrain {b0 b : Blk} (h : Keep b0 b) (plot t furrow : Nat) (train : Bytes) : OkO (Keep b0) (Blk.sowTrain b plot t furrow train) := by
  unfold Blk.sowTrain
  (try dsimp only)
  repeat' first | with_reducible assumption | with_reducible apply keep_writeSram | with_reducible apply keep_setStaging | with_reducible exact okO_none | with_reducible apply okO_some | split

theorem keep_collFetch {b0 b : Blk} (h : Keep b0 b) (plot : Nat) (c : Coll) (j chunk : Nat) : Keep b0 (Blk.collFetch b plot c j chunk) := by
  unfold Blk.collFetch
  (try dsimp only)
  repeat' first | with_reducible assumption | with_reducible apply keep_each | with_reducible apply keep_writeSram | split | intro _

theorem keep_collArrived {b0 b : Blk} (h : Keep b0 b) (plot : Nat) (c : Coll) : Keep b0 (Blk.collArrived b plot c).1 := by
  unfold Blk.collArrived
  refine keep_foldl1 h fun a j ha => ?_
  dsimp only
  split
  · exact ha
  · refine keep_foldl1 ha fun a y ha => ?_
    split
    · exact keep_collFetch ha _ _ _ _
    · exact ha

theorem keep_collLate {b0 b : Blk} (h : Keep b0 b) (plot : Nat) (step : BitVec 32) : Keep b0 (Blk.collLate b plot step) := by
  unfold Blk.collLate
  (try dsimp only)
  repeat' first | with_reducible assumption | with_reducible exact Keep.rfl _ | with_reducible apply keep_setColl | with_reducible apply keep_collEnd | with_reducible apply keep_upd | with_reducible apply keep_collArrived | simp only [upd_eq] | split | (intro (hx : HostOk _); exact hx) | (intro (hx : FwOk _); exact hx) | intro _

theorem keep_collSow {b0 b : Blk} (h : Keep b0 b) (plot : Nat) (c : Coll) (chunk : Nat) (r : BitVec 48) : OkE (fun x => Keep b0 x.1) (Blk.collSow b plot c chunk r) := by
  unfold Blk.collSow
  (try dsimp only)
  repeat' first | with_reducible assumption | with_reducible apply keep_each | with_reducible apply keep_sowTrain | with_reducible apply keep_collFetch | with_reducible apply okO_some | with_reducible exact okE_error | with_reducible apply okE_ok | (with_reducible refine useO ?_ (by assumption)) | with_reducible apply okO_foldl | with_reducible apply okO_bind | with_reducible apply keep_foldl | with_reducible apply keep_drop | with_reducible apply keep_run | with_reducible apply keep_upd | simp only [upd_eq] | split | intro _ | (intro (hx : HostOk _); exact hx) | (intro (hx : FwOk _); exact hx)

theorem keep_collGather {b0 b : Blk} (h : Keep b0 b) (plot : Nat) (c : Coll) (i : Nat) (train : Bytes) : OkO (Keep b0) (Blk.collGather b plot c i train) := by
  unfold Blk.collGather
  (try dsimp only)
  repeat' first | with_reducible assumption | with_reducible apply keep_sowTrain | with_reducible apply okO_some | (with_reducible refine useO ?_ (by assumption)) | with_reducible apply okO_foldl | with_reducible apply okO_bind | with_reducible apply keep_foldl | intro _ | split

theorem keep_collStatus {b0 b : Blk} (h : Keep b0 b) (plot : Nat) (c : Coll) (run : ChunkRun) (i flags : Nat) : OkE (fun x => Keep b0 x.1) (Blk.collStatus b plot c run i flags) := by
  unfold Blk.collStatus
  (try dsimp only)
  repeat' first | with_reducible assumption | with_reducible apply keep_collGather | with_reducible exact okE_error | with_reducible apply okE_ok | with_reducible apply keep_run | with_reducible apply keep_upd | simp only [upd_eq] | (with_reducible refine useO ?_ (by assumption)) | split | intro _ | (intro (hx : HostOk _); exact hx) | (intro (hx : FwOk _); exact hx)

theorem keep_endColls {b0 b : Blk} (h : Keep b0 b) (p collStatus collCause : Nat) : Keep b0 (Blk.endColls b p collStatus collCause) := by
  unfold Blk.endColls
  (try dsimp only)
  repeat' first | with_reducible assumption | with_reducible exact Keep.rfl _ | with_reducible apply keep_dropQueued | with_reducible apply keep_collEndIf | with_reducible apply keep_collStatus | split | intro _

theorem keep_collResult {b0 b : Blk} (h : Keep b0 b) (plot : Nat) (c : Coll) (run : ChunkRun) (i : Nat) : OkE (fun x => Keep b0 x.1) (Blk.collResult b plot c run i) := by
  unfold Blk.collResult
  (try dsimp only)
  repeat' first | with_reducible assumption | with_reducible apply keep_each | with_reducible apply keep_modTile | with_reducible apply keep_writeSram | with_reducible apply keep_addInto | with_reducible apply keep_writeRun | with_reducible apply keep_sowTrain | with_reducible apply keep_collGather | with_reducible exact okE_error | with_reducible apply okE_ok | with_reducible apply keep_drop | with_reducible apply keep_run | with_reducible apply keep_upd | simp only [upd_eq] | (with_reducible refine useO ?_ (by assumption)) | split | intro _ | (intro (hx : HostOk _); exact hx) | (intro (hx : FwOk _); exact hx)

theorem keep_collRepair {b0 b : Blk} (h : Keep b0 b) (plot : Nat) (c : Coll) (run : ChunkRun) (by_ part owner : Nat) (gather : Bool) : Keep b0 (Blk.collRepair b plot c run by_ part owner gather).1 := by
  unfold Blk.collRepair
  (try dsimp only)
  repeat' first | with_reducible assumption | with_reducible apply keep_modTile | with_reducible apply keep_run | with_reducible apply keep_upd | simp only [upd_eq] | split | intro _ | (intro (hx : HostOk _); exact hx) | (intro (hx : FwOk _); exact hx)

theorem keep_collOwner {b0 b : Blk} (h : Keep b0 b) (plot : Nat) (c : Coll) (run : ChunkRun) (i : Nat) : OkE (fun x => Keep b0 x.1) (Blk.collOwner b plot c run i) := by
  unfold Blk.collOwner
  (try dsimp only)
  repeat' first | with_reducible assumption | with_reducible apply keep_foldl1 | with_reducible apply keep_collStatus | with_reducible apply keep_collResult | with_reducible apply keep_collRepair | with_reducible apply okE_ok | with_reducible apply keep_foldl | with_reducible apply keep_run | split | intro _

theorem keep_collLastCall {b0 b : Blk} (h : Keep b0 b) (plot : Nat) (c : Coll) (run : ChunkRun) : OkE (fun x => Keep b0 x.1) (Blk.collLastCall b plot c run) := by
  unfold Blk.collLastCall
  (try dsimp only)
  repeat' first | with_reducible assumption | (with_reducible refine useE ?_ (by assumption)) | (with_reducible refine useE2 ?_ (by assumption)) | (with_reducible refine useE12 ?_ (by assumption)) | with_reducible apply keep_collStatus | with_reducible apply okE_ok | (with_reducible refine useE1 ?_ (by assumption)) | with_reducible apply okE_bind | with_reducible apply okE_foldl | with_reducible apply keep_foldl | with_reducible apply keep_run | intro _ | split | dsimp only

theorem keep_collEmitPiece {b0 b : Blk} (h : Keep b0 b) (plot : Nat) (c : Coll) (t dst chunk i fmt : Nat) (crc : BitVec 32) (data : Bytes) : OkE (Keep b0) (Blk.collEmitPiece b plot c t dst chunk i fmt crc data) := by
  unfold Blk.collEmitPiece
  (try dsimp only)
  repeat' first | with_reducible assumption | (with_reducible refine useE2 ?_ (by assumption)) | (with_reducible refine useE12 ?_ (by assumption)) | with_reducible apply keep_collEmit | with_reducible apply okE_ok | (with_reducible refine useE ?_ (by assumption)) | with_reducible apply okE_bind | with_reducible apply okE_foldl | with_reducible apply keep_foldl | with_reducible apply keep_drop | split | intro _ | dsimp only

theorem keep_collUpSend {b0 b : Blk} (h : Keep b0 b) (plot : Nat) (c : Coll) : OkE (Keep b0) (Blk.collUpSend b plot c) := by
  unfold Blk.collUpSend
  (try dsimp only)
  repeat' first | with_reducible assumption | (with_reducible refine useE2 ?_ (by assumption)) | (with_reducible refine useE12 ?_ (by assumption)) | with_reducible apply keep_modTile | with_reducible apply keep_collEmitPiece | with_reducible apply okE_ok | (with_reducible refine useE ?_ (by assumption)) | with_reducible apply okE_bind | with_reducible apply okE_foldl | with_reducible apply keep_foldl | with_reducible apply keep_drop | with_reducible apply keep_upd | simp only [upd_eq] | intro _ | split | (intro (hx : HostOk _); exact hx) | (intro (hx : FwOk _); exact hx) | dsimp only

theorem keep_collTakeReturns {b0 b : Blk} (h : Keep b0 b) (plot : Nat) (c : Coll) : Keep b0 (Blk.collTakeReturns b plot c).1 := by
  unfold Blk.collTakeReturns
  (try dsimp only)
  repeat' first | with_reducible assumption | with_reducible apply keep_foldl1 | with_reducible apply keep_writeSram | with_reducible apply keep_foldl | simp only [upd_eq] | split | intro _

theorem keep_collUpGather {b0 b : Blk} (h : Keep b0 b) (plot : Nat) (c : Coll) (run : ChunkRun) : OkE (fun x => Keep b0 x.1) (Blk.collUpGather b plot c run) := by
  unfold Blk.collUpGather
  (try dsimp only)
  repeat' first | with_reducible assumption | (with_reducible refine useE ?_ (by assumption)) | (with_reducible refine useE2 ?_ (by assumption)) | (with_reducible refine useE12 ?_ (by assumption)) | with_reducible apply keep_collGather | with_reducible exact okE_error | with_reducible apply okE_ok | (with_reducible refine useO ?_ (by assumption)) | (with_reducible refine useE1 ?_ (by assumption)) | with_reducible apply okE_bind | with_reducible apply okE_foldl | with_reducible apply keep_foldl | with_reducible apply keep_run | with_reducible apply keep_upd | with_reducible apply keep_collSendNow | simp only [upd_eq] | split | intro _ | (intro (hx : HostOk _); exact hx) | (intro (hx : FwOk _); exact hx) | dsimp only

theorem keep_collOut {b0 b : Blk} (h : Keep b0 b) (plot : Nat) (c : Coll) (run : ChunkRun) (j : Nat) : OkE (fun x => Keep b0 x.1) (Blk.collOut b plot c run j) := by
  unfold Blk.collOut
  (try dsimp only)
  repeat' first | with_reducible assumption | (with_reducible refine useE2 ?_ (by assumption)) | (with_reducible refine useE12 ?_ (by assumption)) | with_reducible apply keep_writeSram | with_reducible apply keep_writeHbm | with_reducible apply keep_collEmitPiece | with_reducible exact okE_error | with_reducible apply okE_ok | (with_reducible refine useE ?_ (by assumption)) | (with_reducible refine useE1 ?_ (by assumption)) | with_reducible apply okE_bind | with_reducible apply okE_foldl | with_reducible apply keep_foldl | with_reducible apply keep_run | with_reducible apply keep_upd | with_reducible apply keep_drop | with_reducible apply keep_collWrite | simp only [upd_eq] | split | intro _ | (intro (hx : HostOk _); exact hx) | (intro (hx : FwOk _); exact hx) | dsimp only

theorem keep_collReapOne {b0 b : Blk} (h : Keep b0 b) (plot : Nat) (c : Coll) (run : ChunkRun) (j i : Nat) : Keep b0 (Blk.collReapOne b plot c run j i).1 := by
  unfold Blk.collReapOne
  (try dsimp only)
  repeat' first | with_reducible assumption | with_reducible apply keep_writeSram | with_reducible apply keep_collRepair | with_reducible apply keep_run | split | intro _

theorem keep_collReap {b0 b : Blk} (h : Keep b0 b) (plot : Nat) (c : Coll) (run : ChunkRun) : OkE (fun x => Keep b0 x.1) (Blk.collReap b plot c run) := by
  unfold Blk.collReap
  (try dsimp only)
  repeat' first | with_reducible assumption | (with_reducible refine useE ?_ (by assumption)) | (with_reducible refine useE2 ?_ (by assumption)) | (with_reducible refine useE12 ?_ (by assumption)) | with_reducible apply keep_foldl1 | with_reducible apply keep_collOut | with_reducible apply keep_collReapOne | with_reducible apply okE_ok | (with_reducible refine useE1 ?_ (by assumption)) | with_reducible apply okE_bind | with_reducible apply okE_foldl | with_reducible apply keep_foldl | with_reducible apply keep_run | intro _ | split | dsimp only

theorem keep_collDecide {b0 b : Blk} (h : Keep b0 b) (plot : Nat) (c : Coll) (run : ChunkRun) : Keep b0 (Blk.collDecide b plot c run) := by
  unfold Blk.collDecide
  (try dsimp only)
  repeat' first | with_reducible assumption | with_reducible apply keep_each | with_reducible apply keep_count | with_reducible apply keep_setColl | with_reducible apply keep_collEnd | with_reducible apply keep_foldl | with_reducible apply keep_run | with_reducible apply keep_upd | simp only [upd_eq] | split | intro _ | (intro (hx : HostOk _); exact hx) | (intro (hx : FwOk _); exact hx)

theorem keep_collRun {b0 b : Blk} (h : Keep b0 b) (plot : Nat) (step : BitVec 32) (r : BitVec 48)
    {f : Blk → Coll → ChunkRun → Chk (Blk × ChunkRun)} (hf : ∀ b c run, Keep b0 b → OkE (fun x => Keep b0 x.1) (f b c run)) :
    Keep b0 (Blk.collRun b plot step r f) := by
  unfold Blk.collRun
  (try dsimp only)
  repeat' first | assumption | with_reducible apply keep_collEnd | with_reducible apply keep_setColl | with_reducible apply keep_run | with_reducible apply keep_upd | simp only [upd_eq] | (with_reducible refine useE1 (hf _ _ _ h) (by assumption)) | split | intro _ | (intro (hx : HostOk _); exact hx) | (intro (hx : FwOk _); exact hx)


theorem keep_collOwners {b0 b : Blk} (h : Keep b0 b) (plot : Nat) (c : Coll) (run : ChunkRun) : OkE (fun x => Keep b0 x.1) (Blk.collOwners b plot c run) := by
  unfold Blk.collOwners
  (try dsimp only)
  repeat' first | with_reducible assumption | (with_reducible refine useE ?_ (by assumption)) | (with_reducible refine useE2 ?_ (by assumption)) | (with_reducible refine useE12 ?_ (by assumption)) | with_reducible apply keep_collOwner | with_reducible apply okE_ok | (with_reducible refine useE1 ?_ (by assumption)) | with_reducible apply okE_bind | with_reducible apply okE_foldl | with_reducible apply keep_foldl | with_reducible apply keep_run | intro _ | split | dsimp only

theorem keep_collNext {b0 b : Blk} (h : Keep b0 b) (plot : Nat) (step : BitVec 32) : Keep b0 (Blk.collNext b plot step) := by
  unfold Blk.collNext
  (try dsimp only)
  repeat' first | with_reducible assumption | with_reducible apply keep_setColl | with_reducible apply keep_collEnd | with_reducible apply keep_collSow | (with_reducible refine useE1 ?_ (by assumption)) | split

theorem keep_collFinish {b0 b : Blk} (h : Keep b0 b) (plot : Nat) (step : BitVec 32) : Keep b0 (Blk.collFinish b plot step) := by
  unfold Blk.collFinish
  (try dsimp only)
  repeat' first | with_reducible assumption | with_reducible apply keep_collEnd | split

theorem keep_collUpTick {b0 b : Blk} (h : Keep b0 b) (plot : Nat) (step : BitVec 32) : Keep b0 (Blk.collUpTick b plot step) := by
  unfold Blk.collUpTick
  (try dsimp only)
  repeat' first | with_reducible assumption | with_reducible apply keep_setColl | with_reducible apply keep_collEnd | with_reducible apply keep_collUpSend | with_reducible apply keep_collTakeReturns | (with_reducible refine useE ?_ (by assumption)) | split

theorem keep_collTickOne {b0 b : Blk} (h : Keep b0 b) (plot : Nat) (step : BitVec 32) (shift upWait : Nat) (up : Bool) : Keep b0 (Blk.collTickOne b plot step shift upWait up) := by
  unfold Blk.collTickOne
  (try dsimp only)
  repeat' first | with_reducible assumption | with_reducible apply keep_collUpGather | with_reducible apply keep_collReap | with_reducible apply keep_collDecide | with_reducible apply keep_collRun | with_reducible apply keep_collOwners | with_reducible apply keep_collNext | with_reducible apply keep_collFinish | with_reducible apply keep_collUpTick | with_reducible apply keep_run | with_reducible apply keep_upd | with_reducible apply keep_collLate | simp only [upd_eq] | split | intro _ | (intro (hx : HostOk _); exact hx) | (intro (hx : FwOk _); exact hx)

theorem keep_collTick {b0 b : Blk} (h : Keep b0 b)  : Keep b0 (Blk.collTick b) := by
  unfold Blk.collTick
  (try dsimp only)
  repeat' first | with_reducible assumption | with_reducible apply keep_each | with_reducible apply keep_collTickOne | intro _

theorem keep_collBefore {b0 b : Blk} (h : Keep b0 b)  : Keep b0 (Blk.collBefore b) := by
  unfold Blk.collBefore
  (try dsimp only)
  repeat' first | with_reducible assumption | with_reducible apply keep_each | with_reducible apply keep_collLastCall | with_reducible apply keep_collRun | intro _

theorem keep_collPart {b0 b : Blk} (h : Keep b0 b) (plot : Nat) (step : BitVec 32) (chunk part owner k : Nat) (data : Option Bytes) : Keep b0 (Blk.collPart b plot step chunk part owner k data) := by
  unfold Blk.collPart
  (try dsimp only)
  repeat' first | with_reducible assumption | with_reducible apply keep_writeSram | with_reducible apply keep_count | with_reducible apply keep_setColl | with_reducible apply keep_collResult | with_reducible apply keep_collOut | with_reducible apply keep_collRun | with_reducible apply keep_run | simp only [upd_eq] | split | intro _

theorem keep_takeColl {b0 b : Blk} (h : Keep b0 b) (t m : Nat) : OkO (fun x => Keep b0 x.2) (Blk.takeColl b t m) := by
  unfold Blk.takeColl
  (try dsimp only)
  repeat' first | with_reducible assumption | with_reducible apply keep_modTile | with_reducible exact okO_none | with_reducible apply okO_some | split

theorem keep_collAck {b0 b : Blk} (h : Keep b0 b) (t : Nat) : Keep b0 (Blk.collAck b t) := by
  unfold Blk.collAck
  (try dsimp only)
  repeat' first | with_reducible assumption | with_reducible apply keep_drop | with_reducible apply keep_setColl | with_reducible apply keep_takeColl | (with_reducible refine useO2 ?_ (by assumption)) | split

theorem keep_collResend {b0 b : Blk} (h : Keep b0 b) (t : Nat) : Keep b0 (Blk.collResend b t) := by
  unfold Blk.collResend
  (try dsimp only)
  repeat' first | with_reducible assumption | (with_reducible refine useE2 ?_ (by assumption)) | (with_reducible refine useE12 ?_ (by assumption)) | with_reducible apply keep_drop | with_reducible apply keep_collEnd | with_reducible apply keep_collEmitPiece | with_reducible apply keep_takeColl | with_reducible apply okE_ok | (with_reducible refine useO2 ?_ (by assumption)) | (with_reducible refine useE ?_ (by assumption)) | with_reducible apply okE_bind | with_reducible apply okE_foldl | with_reducible apply keep_foldl | with_reducible apply keep_upd | simp only [upd_eq] | split | intro _ | (intro (hx : HostOk _); exact hx) | (intro (hx : FwOk _); exact hx) | dsimp only

theorem keep_collNoAck {b0 b : Blk} (h : Keep b0 b) (plot : Nat) (step : BitVec 32) (part chunk : Nat) : Keep b0 (Blk.collNoAck b plot step part chunk) := by
  unfold Blk.collNoAck
  (try dsimp only)
  repeat' first | with_reducible assumption | with_reducible apply keep_collEnd | split

theorem keep_ctxAbort {b0 b : Blk} (h : Keep b0 b) (t ctx : Nat) : Keep b0 (Blk.ctxAbort b t ctx) := by
  unfold Blk.ctxAbort
  (try dsimp only)
  repeat' first | with_reducible assumption | with_reducible apply keep_abortCtx | with_reducible apply keep_collEnd | split

/-! ### Observe -/

theorem keep_modOb {b0 b : Blk} (h : Keep b0 b) (t : Nat) (f : TileObs → TileObs) : Keep b0 (Blk.modOb b t f) := by
  unfold Blk.modOb
  (try dsimp only)
  repeat' first | with_reducible assumption | with_reducible apply keep_modTile

theorem keep_writeCounter {b0 b : Blk} (h : Keep b0 b) (e : Nat) (v : BitVec 32) (t : Nat) : Keep b0 (Blk.writeCounter e v t b).1 := by
  unfold Blk.writeCounter
  (try dsimp only)
  repeat' first | with_reducible assumption | with_reducible apply keep_Od_ok | with_reducible apply keep_Od_no | with_reducible apply keep_modOb | split

theorem keep_clearOvf {b0 b : Blk} (h : Keep b0 b) (v : BitVec 1024) (t : Nat) : Keep b0 (Blk.clearOvf v t b).1 := by
  unfold Blk.clearOvf
  (try dsimp only)
  repeat' first | with_reducible assumption | with_reducible apply keep_Od_ok | with_reducible apply keep_modOb

theorem keep_writePmc {b0 b : Blk} (h : Keep b0 b) (t i : Nat) (v : BitVec 64) : Keep b0 (Blk.writePmc b t i v) := by
  unfold Blk.writePmc
  (try dsimp only)
  repeat' first | with_reducible assumption | with_reducible apply keep_modOb | split

theorem keep_writeRakeK {b0 b : Blk} (h : Keep b0 b) (v : Nat) : Keep b0 (Blk.writeRakeK b v).1 := by
  unfold Blk.writeRakeK
  (try dsimp only)
  repeat' first | with_reducible assumption | with_reducible apply keep_upd | with_reducible apply keep_Od_ok | with_reducible apply keep_Od_no | simp only [upd_eq] | split | (intro (hx : HostOk _); exact hx) | (intro (hx : FwOk _); exact hx)

theorem keep_writeRakeBase {b0 b : Blk} (h : Keep b0 b) (v : BitVec 64) : Keep b0 (Blk.writeRakeBase b v).1 := by
  unfold Blk.writeRakeBase
  (try dsimp only)
  repeat' first | with_reducible assumption | with_reducible apply keep_upd | with_reducible apply keep_Od_ok | with_reducible apply keep_Od_no | simp only [upd_eq] | split | (intro (hx : HostOk _); exact hx) | (intro (hx : FwOk _); exact hx)

theorem keep_rakeLatch {b0 b : Blk} (h : Keep b0 b) (last : Blk) : Keep b0 (Blk.rakeLatch b last) := by
  unfold Blk.rakeLatch
  (try dsimp only)
  repeat' first | with_reducible assumption | with_reducible apply keep_upd | with_reducible apply keep_writeHost | with_reducible apply keep_countSys | with_reducible apply keep_raiseS | simp only [upd_eq] | split | (intro (hx : HostOk _); exact hx) | (intro (hx : FwOk _); exact hx)

theorem keep_rakeWriteOut {b0 b : Blk} (h : Keep b0 b)  : Keep b0 (Blk.rakeWriteOut b) := by
  unfold Blk.rakeWriteOut
  (try dsimp only)
  repeat' first | with_reducible assumption | with_reducible apply keep_each | with_reducible apply keep_upd | with_reducible apply keep_writeHost | with_reducible apply keep_raiseS | with_reducible apply keep_drop | simp only [upd_eq] | split | (intro (hx : HostOk _); exact hx) | (intro (hx : FwOk _); exact hx) | intro _

theorem keep_clearHist {b0 b : Blk} (h : Keep b0 b) (v : Nat) (t : Nat) : Keep b0 (Blk.clearHist v t b).1 := by
  unfold Blk.clearHist
  (try dsimp only)
  repeat' first | with_reducible assumption | with_reducible apply keep_Od_ok | with_reducible apply keep_Od_no | with_reducible apply keep_modOb | split

theorem keep_thaw {b0 b : Blk} (h : Keep b0 b) (v : BitVec 8) (t : Nat) : Keep b0 (Blk.thaw v t b).1 := by
  unfold Blk.thaw
  (try dsimp only)
  repeat' first | with_reducible assumption | with_reducible apply keep_Od_ok | with_reducible apply keep_modOb | split

theorem keep_writeHangBase {b0 b : Blk} (h : Keep b0 b) (v : BitVec 64) : Keep b0 (Blk.writeHangBase b v).1 := by
  unfold Blk.writeHangBase
  (try dsimp only)
  repeat' first | with_reducible assumption | with_reducible apply keep_upd | with_reducible apply keep_Od_ok | with_reducible apply keep_Od_no | simp only [upd_eq] | split | (intro (hx : HostOk _); exact hx) | (intro (hx : FwOk _); exact hx)

theorem keep_traceTick {b0 b : Blk} (h : Keep b0 b)  : Keep b0 (Blk.traceTick b) := by
  unfold Blk.traceTick
  (try dsimp only)
  repeat' first | with_reducible assumption | with_reducible apply keep_trace | split

theorem keep_writeTraceCtrl {b0 b : Blk} (h : Keep b0 b) (v : BitVec 8) : Keep b0 (Blk.writeTraceCtrl b v).1 := by
  unfold Blk.writeTraceCtrl
  (try dsimp only)
  repeat' first | with_reducible assumption | with_reducible apply keep_upd | with_reducible apply keep_Od_ok | with_reducible apply keep_traceTick | simp only [upd_eq] | split | (intro (hx : HostOk _); exact hx) | (intro (hx : FwOk _); exact hx)

theorem keep_gatherTile {b0 b : Blk} (h : Keep b0 b) (t budget : Nat) : Keep b0 (Blk.gatherTile b t budget).1 := by
  unfold Blk.gatherTile
  (try dsimp only)
  repeat' first | with_reducible assumption | with_reducible apply keep_upd | with_reducible apply keep_modOb | with_reducible apply keep_drop | with_reducible apply keep_trace | simp only [upd_eq] | split | (intro (hx : HostOk _); exact hx) | (intro (hx : FwOk _); exact hx) | intro _

theorem keep_traceGather {b0 b : Blk} (h : Keep b0 b)  : Keep b0 (Blk.traceGather b) := by
  unfold Blk.traceGather
  refine keep_foldl1 ?_ (fun a x ha => keep_gatherTile ha _ _)
  try dsimp only
  rw [upd_eq]
  exact keep_upd h id id

theorem keep_markerSend {b0 b : Blk} (h : Keep b0 b) (xs : Bytes) : Keep b0 (Blk.markerSend b xs).1 := by
  unfold Blk.markerSend
  (try dsimp only)
  repeat' first | with_reducible assumption | with_reducible apply keep_Od_ok | with_reducible apply keep_Od_no | with_reducible apply keep_enqueue | with_reducible apply keep_drop | split | intro _

end Sys2Proof.Laws
end

