-- ==== Sys2Proof/Laws/KeepPlots.lean ====
section
/-! SUPPORT. The relation Keep through flash, the sown tables, start-up, power, the quorum, capsules, kernels, ingress, stealing and plots. -/
namespace Sys2Proof.Laws
open Sys2Proof Sys2Proof.Machine Sys2Proof.Safety

/-! ### Idle -/

theorem keep_countPaced {b0 b : Blk} (h : Keep b0 b)  : Keep b0 (Blk.countPaced b) := by
  unfold Blk.countPaced
  (try dsimp only)
  repeat' first | with_reducible assumption | with_reducible apply keep_each | with_reducible apply keep_countN | split | intro _

/-! ### Flash -/

theorem fw_hangEvent (b : Blk) (e : Event) : (b.hangEvent e).fw = b.fw := by
  unfold Blk.hangEvent; split <;> rfl
theorem fw_raiseS (b : Blk) (type plot : Nat) (tile : Option Nat) (d0 d1 d2 d3 : Nat) :
    (b.raiseS type plot tile d0 d1 d2 d3).fw = b.fw := by
  exact fw_hangEvent _ _

theorem keep_raiseRollback {b0 b : Blk} (h : Keep b0 b) (svn : Nat) : Keep b0 (Blk.raiseRollback b svn) := by
  unfold Blk.raiseRollback
  have h1 : Keep b0 (b.each ((List.range (svn - b.fw.rollback)).map fun i => b.fw.rollback + 1 + i) fun b k =>
      { b.raiseS 0x74 0 none k with fw := { b.fw with rollback := k } }) := by
    apply keep_each h
    intro b x hb
    dsimp only
    refine ⟨(keep_raiseS hb _ _ _ _ _ _ _).member, (keep_raiseS hb _ _ _ _ _ _ _).clk, (keep_raiseS hb _ _ _ _ _ _ _).khz, fun m => ?_⟩
    have hm := (keep_raiseS hb 0x74 0 none x 0 0 0).mem m
    exact ⟨hm.1, hm.2.1, hm.2.2.1, (hb.mem m).2.2.2⟩
  dsimp only at h1 ⊢
  revert h1
  generalize Blk.each b _ _ = b2
  intro h1
  repeat' first | with_reducible assumption | with_reducible apply keep_raiseS | with_reducible apply keep_upd | simp only [upd_eq] | split | (intro (hx : HostOk _); exact hx) | (intro (hx : FwOk _); rw [fw_raiseS] at hx; exact hx)

theorem keep_compact {b0 b : Blk} (h : Keep b0 b)  : Keep b0 (Blk.compact b) := by
  unfold Blk.compact
  try dsimp only
  repeat' first | with_reducible assumption | with_reducible apply keep_raiseS | with_reducible apply keep_upd | simp only [upd_eq] | split | (intro (hx : HostOk _); exact hx) | (intro (hx : FwOk _); exact hx) | (intro (hx : FwOk _); rw [fw_raiseS] at hx; exact hx)

theorem keep_store {b0 b : Blk} (h : Keep b0 b) (key : Nat) (data : Bytes) : OkO (Keep b0) (Blk.store b key data) := by
  unfold Blk.store
  split
  · exact okO_none
  · have h1 : Keep b0 (if b.fw.full = true then b.compact else b) := by
      split
      · exact keep_compact h
      · exact h
    revert h1
    generalize (if b.fw.full = true then b.compact else b) = b2
    intro h1
    dsimp only
    split
    · exact okO_none
    · apply okO_some
      rw [upd_eq]
      exact keep_upd h1 id id

theorem keep_storeThen {b0 b : Blk} (h : Keep b0 b) (key : Nat) (data : Bytes) {f : Blk → Blk}
    (hf : ∀ b, Keep b0 b → Keep b0 (f b)) : Keep b0 (Blk.storeThen b key data f).1 := by
  unfold Blk.storeThen
  split
  · exact hf _ (useO (keep_store h _ _) (by assumption))
  · exact h

/-! ### Sown -/

theorem keep_lockLost {b0 b : Blk} (h : Keep b0 b) (die : Nat) : Keep b0 (Blk.lockLost b die) := by
  unfold Blk.lockLost
  (try dsimp only)
  repeat' first | with_reducible assumption | with_reducible apply keep_each | with_reducible apply keep_modDie | with_reducible apply keep_raiseS | with_reducible apply keep_fence | with_reducible apply keep_swapCancel | with_reducible apply keep_declare | with_reducible apply keep_lockCancel | split | intro _

theorem keep_tickMarker {b0 b : Blk} (h : Keep b0 b) (die diff : Nat) : Keep b0 (Blk.tickMarker b die diff) := by
  unfold Blk.tickMarker
  (try dsimp only)
  repeat' first | with_reducible assumption | with_reducible apply keep_modDie | with_reducible apply keep_lockLost | split

theorem keep_lockRegained {b0 b : Blk} (h : Keep b0 b) (die : Nat) : Keep b0 (Blk.lockRegained b die) := by
  unfold Blk.lockRegained
  (try dsimp only)
  repeat' first | with_reducible assumption | with_reducible apply keep_modDie | with_reducible apply keep_raiseS | with_reducible apply keep_undeclare | split

theorem keep_linkError {b0 b : Blk} (h : Keep b0 b) (t o : Nat) : Keep b0 (Blk.linkError b t o) := by
  unfold Blk.linkError
  (try dsimp only)
  repeat' first | with_reducible assumption | with_reducible apply keep_upd | with_reducible apply keep_declare | simp only [upd_eq] | split | (intro (hx : HostOk _); exact hx) | (intro (hx : FwOk _); exact hx)

theorem keep_phyDown {b0 b : Blk} (h : Keep b0 b) (t o : Nat) : Keep b0 (Blk.phyDown b t o) := by
  unfold Blk.phyDown
  (try dsimp only)
  repeat' first | with_reducible assumption | with_reducible apply keep_fence | with_reducible apply keep_declare | split

theorem keep_loadStart {b0 b : Blk} (h : Keep b0 b)  : Keep b0 (Blk.loadStart b).1 := by
  unfold Blk.loadStart
  (try dsimp only)
  repeat' first | with_reducible assumption | with_reducible apply keep_upd | with_reducible apply keep_Od_ok | with_reducible apply keep_Od_no | simp only [upd_eq] | split | (intro (hx : HostOk _); exact hx) | (intro (hx : FwOk _); exact hx)

theorem keep_loadFailed {b0 b : Blk} (h : Keep b0 b) (f : LoadFail) : Keep b0 (Blk.loadFailed b f) := by
  unfold Blk.loadFailed
  (try dsimp only)
  repeat' first | with_reducible assumption | with_reducible apply keep_raiseS

theorem keep_shadowDone {b0 b : Blk} (h : Keep b0 b) (r : Option LoadFail) : Keep b0 (Blk.shadowDone b r) := by
  unfold Blk.shadowDone
  (try dsimp only)
  repeat' first | with_reducible assumption | with_reducible apply keep_upd | with_reducible apply keep_loadFailed | simp only [upd_eq] | split | (intro (hx : HostOk _); exact hx) | (intro (hx : FwOk _); exact hx)

theorem keep_armed {b0 b : Blk} (h : Keep b0 b)  : Keep b0 (Blk.armed b) := by
  unfold Blk.armed
  (try dsimp only)
  repeat' first | with_reducible assumption | with_reducible apply keep_upd | simp only [upd_eq] | (intro (hx : HostOk _); exact hx) | (intro (hx : FwOk _); exact hx)

theorem keep_arm {b0 b : Blk} (h : Keep b0 b)  : Keep b0 (Blk.arm b).1 := by
  unfold Blk.arm
  (try dsimp only)
  repeat' first | with_reducible assumption | with_reducible apply keep_swapRefused | with_reducible apply keep_Od_ok | with_reducible apply keep_armed | split

theorem keep_disarm {b0 b : Blk} (h : Keep b0 b)  : Keep b0 (Blk.disarm b).1 := by
  unfold Blk.disarm
  (try dsimp only)
  repeat' first | with_reducible assumption | with_reducible apply keep_upd | with_reducible apply keep_swapRefused | with_reducible apply keep_Od_ok | with_reducible apply keep_armed | simp only [upd_eq] | split | (intro (hx : HostOk _); exact hx) | (intro (hx : FwOk _); exact hx) | intro _

theorem keep_armAlternate {b0 b : Blk} (h : Keep b0 b) (f : Failover) : Keep b0 (Blk.armAlternate b f) := by
  unfold Blk.armAlternate
  (try dsimp only)
  repeat' first | with_reducible assumption | with_reducible apply keep_upd | with_reducible apply keep_swapRefused | with_reducible apply keep_tellFault | with_reducible apply keep_armed | simp only [upd_eq] | split | (intro (hx : HostOk _); exact hx) | (intro (hx : FwOk _); exact hx)

theorem keep_loadDone {b0 b : Blk} (h : Keep b0 b)  : Keep b0 (Blk.loadDone b) := by
  unfold Blk.loadDone
  (try dsimp only)
  repeat' first | with_reducible assumption | with_reducible apply keep_upd | with_reducible apply keep_tellFault | with_reducible apply keep_shadowDone | with_reducible apply keep_armAlternate | simp only [upd_eq] | split | (intro (hx : HostOk _); exact hx) | (intro (hx : FwOk _); exact hx)

theorem keep_writeSwapFrame {b0 b : Blk} (h : Keep b0 b) (f : BitVec 64) : Keep b0 (Blk.writeSwapFrame b f).1 := by
  unfold Blk.writeSwapFrame
  (try dsimp only)
  repeat' first | with_reducible assumption | with_reducible apply keep_upd | with_reducible apply keep_Od_ok | with_reducible apply keep_Od_no | with_reducible apply keep_armed | simp only [upd_eq] | split | (intro (hx : HostOk _); exact hx) | (intro (hx : FwOk _); exact hx) | intro _

theorem keep_retireEnd {b0 b : Blk} (h : Keep b0 b)  : Keep b0 (Blk.retireEnd b) := by
  unfold Blk.retireEnd
  (try dsimp only)
  repeat' first | with_reducible assumption | with_reducible apply keep_upd | with_reducible apply keep_startFailover | simp only [upd_eq] | split | (intro (hx : HostOk _); exact hx) | (intro (hx : FwOk _); exact hx)

theorem keep_writeSownQuota {b0 b : Blk} (h : Keep b0 b) (p q : Nat) : Keep b0 (Blk.writeSownQuota b p q).1 := by
  unfold Blk.writeSownQuota
  (try dsimp only)
  repeat' first | with_reducible assumption | with_reducible apply keep_modPlot | with_reducible apply keep_raiseS | with_reducible apply keep_swapCancel | with_reducible apply keep_Od_ok | with_reducible apply keep_Od_no | with_reducible apply keep_armed | with_reducible apply keep_upd | simp only [upd_eq] | split | intro _ | (intro (hx : HostOk _); exact hx) | (intro (hx : FwOk _); exact hx)

theorem keep_expertBegin {b0 b : Blk} (h : Keep b0 b)  : OkO (Keep b0) (Blk.expertBegin b) := by
  unfold Blk.expertBegin
  (try dsimp only)
  repeat' first | with_reducible assumption | with_reducible apply keep_upd | with_reducible exact okO_none | with_reducible apply okO_some | simp only [upd_eq] | split | (intro (hx : HostOk _); exact hx) | (intro (hx : FwOk _); exact hx)

theorem keep_expertWrite {b0 b : Blk} (h : Keep b0 b) (f : SownVersion → SownVersion) : Keep b0 (Blk.expertWrite b f).1 := by
  unfold Blk.expertWrite
  (try dsimp only)
  repeat' first | with_reducible assumption | with_reducible apply keep_upd | with_reducible apply keep_Od_ok | with_reducible apply keep_Od_no | with_reducible apply keep_expertBegin | (with_reducible refine useO ?_ (by assumption)) | simp only [upd_eq] | split | (intro (hx : HostOk _); exact hx) | (intro (hx : FwOk _); exact hx)

theorem keep_writeEntry {b0 b : Blk} (h : Keep b0 b) (ch : Channel) (e : BitVec 64) : Keep b0 (Blk.writeEntry b ch e).1 := by
  unfold Blk.writeEntry
  (try dsimp only)
  repeat' first | with_reducible assumption | with_reducible apply keep_expertWrite

theorem keep_writeDesc {b0 b : Blk} (h : Keep b0 b) (ch : Channel) (d : BitVec 128) : Keep b0 (Blk.writeDesc b ch d).1 := by
  unfold Blk.writeDesc
  (try dsimp only)
  repeat' first | with_reducible assumption | with_reducible apply keep_expertWrite

theorem keep_writeRoute {b0 b : Blk} (h : Keep b0 b) (ch : Channel) (e : BitVec 32) : Keep b0 (Blk.writeRoute b ch e).1 := by
  unfold Blk.writeRoute
  (try dsimp only)
  repeat' first | with_reducible assumption | with_reducible apply keep_expertWrite

theorem keep_writeExpertSel {b0 b : Blk} (h : Keep b0 b) (ch : Channel) (sel : ExpertSel) (v : BitVec 32) : Keep b0 (Blk.writeExpertSel b ch sel v).1 := by
  unfold Blk.writeExpertSel
  (try dsimp only)
  repeat' first | with_reducible assumption | with_reducible apply keep_Od_ok | with_reducible apply keep_Od_no | with_reducible apply keep_modSels | split

theorem keep_expertCheck {b0 b : Blk} (h : Keep b0 b)  : Keep b0 (Blk.expertCheck b).1 := by
  unfold Blk.expertCheck
  (try dsimp only)
  repeat' first | with_reducible assumption | with_reducible apply keep_upd | with_reducible apply keep_Od_ok | with_reducible apply keep_Od_no | with_reducible apply keep_armed | simp only [upd_eq] | split | (intro (hx : HostOk _); exact hx) | (intro (hx : FwOk _); exact hx) | intro _

theorem keep_expertCheckEnd {b0 b : Blk} (h : Keep b0 b)  : Keep b0 (Blk.expertCheckEnd b) := by
  unfold Blk.expertCheckEnd
  (try dsimp only)
  repeat' first | with_reducible assumption | with_reducible apply keep_shadowDone | split

/-! ### Transfer -/

theorem keep_setXfer {b0 b : Blk} (h : Keep b0 b) (ch : Channel) (x : Option Transfer) : Keep b0 (Blk.setXfer b ch x) := by
  unfold Blk.setXfer
  (try dsimp only)
  repeat' first | with_reducible assumption | with_reducible apply keep_upd | simp only [upd_eq] | split | (intro (hx : HostOk _); exact hx) | (intro (hx : FwOk _); exact hx)

theorem keep_domainOpen {b0 b : Blk} (h : Keep b0 b) (ch : Channel) (index sub total : Nat) (xcrc : BitVec 32) : Keep b0 (Blk.domainOpen b ch index sub total xcrc).1 := by
  unfold Blk.domainOpen
  try dsimp only
  repeat' first | with_reducible assumption | with_reducible apply keep_Od_no | with_reducible apply keep_Od_ok | with_reducible apply keep_setXfer | with_reducible apply keep_upd | simp only [upd_eq] | split | (intro (hx : HostOk _); exact hx) | (intro (hx : FwOk _); exact fwOk_setSlot hx _ _ wf_nil)

theorem keep_segTarget {b0 b : Blk} (h : Keep b0 b) (x : Transfer) (data : Bytes) : Keep b0 (Blk.segTarget b x data) := by
  unfold Blk.segTarget
  try dsimp only
  repeat' first | with_reducible assumption | with_reducible apply keep_writeHbm | with_reducible apply keep_upd | simp only [upd_eq] | split | (intro (hx : HostOk _); exact hx) | (intro (hx : FwOk _); exact fwOk_setSlot hx _ _ (wf_write _ _ _ (wf_slot hx _)))

theorem keep_sendAck {b0 b : Blk} (h : Keep b0 b) (n abort : Nat) : Keep b0 (Blk.sendAck b n abort) := by
  unfold Blk.sendAck
  (try dsimp only)
  repeat' first | with_reducible assumption | with_reducible apply keep_upd | simp only [upd_eq] | (intro (hx : HostOk _); exact hx) | (intro (hx : FwOk _); exact hx)

theorem keep_objectDone {b0 b : Blk} (h : Keep b0 b) (x : Transfer) (ok : Bool) : Keep b0 (Blk.objectDone b x ok) := by
  unfold Blk.objectDone
  try dsimp only
  repeat' first | with_reducible assumption | with_reducible apply keep_raiseS | with_reducible apply keep_upd | simp only [upd_eq] | split | (intro (hx : HostOk _); exact hx) | (intro (hx : FwOk _); exact hx) | (intro (hx : FwOk _); exact fwOk_setSlot hx _ _ (wf_slot hx _))

theorem keep_segment {b0 b : Blk} (h : Keep b0 b) (ch : Channel) (segno : Nat) (data : Bytes) : Keep b0 (Blk.segment b ch segno data) := by
  unfold Blk.segment
  (try dsimp only)
  repeat' first | with_reducible assumption | with_reducible apply keep_countSys | with_reducible apply keep_setXfer | with_reducible apply keep_segTarget | with_reducible apply keep_sendAck | with_reducible apply keep_objectDone | split

theorem keep_segAck {b0 b : Blk} (h : Keep b0 b) (ch : Channel) (segno : Nat) : Keep b0 (Blk.segAck b ch segno) := by
  unfold Blk.segAck
  (try dsimp only)
  repeat' first | with_reducible assumption | with_reducible apply keep_upd | with_reducible apply keep_setXfer | simp only [upd_eq] | split | (intro (hx : HostOk _); exact hx) | (intro (hx : FwOk _); exact hx)

theorem keep_closeXfer {b0 b : Blk} (h : Keep b0 b) (ch : Channel) (abort : Nat) : Keep b0 (Blk.closeXfer b ch abort) := by
  unfold Blk.closeXfer
  (try dsimp only)
  repeat' first | with_reducible assumption | with_reducible apply keep_setXfer | with_reducible apply keep_sendAck | split

theorem keep_segAbort {b0 b : Blk} (h : Keep b0 b) (ch : Channel) : Keep b0 (Blk.segAbort b ch).1 := by
  unfold Blk.segAbort
  (try dsimp only)
  repeat' first | with_reducible assumption | with_reducible apply keep_Od_no | with_reducible apply keep_closeXfer | split

/-! ### Startup -/

theorem restarted_member (b : Blk) (st : BootStage) : (b.restarted st).member = b.member := rfl
theorem restarted_mem (b : Blk) (st : BootStage) (h : MemOk b) : MemOk (b.restarted st) :=
  ⟨wf_nil, wf_nil, ⟨((keep_postEvents (Keep.rfl b)).mem h).2.2.1.1, wf_nil, wf_nil⟩, h.2.2.2⟩

theorem keep_restart {b0 b : Blk} (h : Keep b0 b) (v : Nat) : Keep b0 (Blk.restart b v).1 := by
  unfold Blk.restart
  (try dsimp only)
  repeat' first | with_reducible assumption | with_reducible apply keep_upd | with_reducible apply keep_Od_ok | with_reducible apply keep_Od_no | simp only [upd_eq] | split | (intro (hx : HostOk _); exact hx) | (intro (hx : FwOk _); exact hx)

theorem keep_bootImage {b0 b : Blk} (h : Keep b0 b)  : Keep b0 (Blk.bootImage b) := by
  unfold Blk.bootImage
  try dsimp only
  split
  · rw [upd_eq]; exact keep_upd h id fun hx => fwOk_tryTrial hx
  · rename_i e
    have hf := fun (hx : FwOk b.fw) => fwOk_choose hx e
    repeat' first | with_reducible assumption | with_reducible apply keep_raiseRollback | (intro (hx : FwOk _); exact hf hx) | with_reducible apply keep_raiseS | with_reducible apply keep_upd | simp only [upd_eq] | split | (intro (hx : HostOk _); exact hx)

theorem keep_bootTripped {b0 b : Blk} (h : Keep b0 b)  : Keep b0 (Blk.bootTripped b) := by
  unfold Blk.bootTripped
  (try dsimp only)
  repeat' first | with_reducible assumption | with_reducible apply keep_upd | with_reducible apply keep_raiseS | with_reducible apply keep_stage | simp only [upd_eq] | split | (intro (hx : HostOk _); exact hx) | (intro (hx : FwOk _); exact hx) | intro _

theorem keep_replayJournal {b0 b : Blk} (h : Keep b0 b)  : Keep b0 (Blk.replayJournal b) := by
  unfold Blk.replayJournal
  (try dsimp only)
  repeat' first | with_reducible assumption | with_reducible apply keep_upd | with_reducible apply keep_store | with_reducible apply keep_drop | (with_reducible refine useO ?_ (by assumption)) | simp only [upd_eq] | split | (intro (hx : HostOk _); exact hx) | (intro (hx : FwOk _); exact hx) | intro _

theorem keep_replay {b0 b : Blk} (h : Keep b0 b)  : Keep b0 (Blk.replay b) := by
  unfold Blk.replay
  (try dsimp only)
  repeat' first | with_reducible assumption | with_reducible apply keep_each | with_reducible apply keep_upd | with_reducible apply keep_raiseS | with_reducible apply keep_store | with_reducible apply keep_replayJournal | with_reducible apply okO_getD | simp only [upd_eq] | split | (intro (hx : HostOk _); exact hx) | (intro (hx : FwOk _); exact hx) | intro _

theorem keep_draw {b0 b : Blk} (h : Keep b0 b)  : Keep b0 (Blk.draw b) := by
  unfold Blk.draw
  (try dsimp only)
  repeat' first | with_reducible assumption | with_reducible apply keep_upd | simp only [upd_eq] | (intro (hx : HostOk _); exact hx) | (intro (hx : FwOk _); exact hx)

theorem keep_bootDraw {b0 b : Blk} (h : Keep b0 b)  : Keep b0 (Blk.bootDraw b) := by
  unfold Blk.bootDraw
  have hd := keep_draw h
  generalize b.draw = d at hd ⊢
  dsimp only
  repeat' first | with_reducible assumption | with_reducible apply keep_upd | simp only [upd_eq] | split | (intro (hx : HostOk _); exact hx) | (intro (hx : FwOk _); exact hx)

theorem keep_identify {b0 b : Blk} (h : Keep b0 b)  : Keep b0 (Blk.identify b) := by
  unfold Blk.identify
  have hb := keep_bootDraw h
  generalize b.bootDraw = b at hb ⊢
  dsimp only
  repeat' first | with_reducible assumption | with_reducible apply keep_raiseS | with_reducible apply keep_upd | simp only [upd_eq] | split | (intro (hx : HostOk _); exact hx) | (intro (hx : FwOk _); exact hx)

theorem keep_stageDone {b0 b : Blk} (h : Keep b0 b) (flashOk : Bool) : Keep b0 (Blk.stageDone b flashOk) := by
  unfold Blk.stageDone
  try dsimp only
  repeat' first | with_reducible assumption | (intro (hx : FwOk _); rw [fw_raiseS] at hx; exact hx) | with_reducible apply keep_bootImage | with_reducible apply keep_identify | with_reducible apply keep_replay | with_reducible apply keep_raiseS | with_reducible apply keep_upd | simp only [upd_eq] | split | (intro (hx : HostOk _); exact hx) | (intro (hx : FwOk _); exact hx)

theorem keep_stageTripped {b0 b : Blk} (h : Keep b0 b) (flashOk : Bool) : Keep b0 (Blk.stageTripped b flashOk) := by
  unfold Blk.stageTripped
  (try dsimp only)
  repeat' first | with_reducible assumption | with_reducible apply keep_bootTripped | with_reducible apply keep_stageDone | with_reducible apply keep_stage | with_reducible apply keep_upd | simp only [upd_eq] | split | intro _ | (intro (hx : HostOk _); exact hx) | (intro (hx : FwOk _); exact hx)

theorem keep_testedZero {b0 b : Blk} (h : Keep b0 b) (c : Nat) : Keep b0 (Blk.testedZero b c) := by
  unfold Blk.testedZero
  (try dsimp only)
  repeat' first | with_reducible assumption | with_reducible apply keep_each | with_reducible apply keep_modTile | with_reducible apply keep_zeroSram | intro _

theorem keep_selfTestDone {b0 b : Blk} (h : Keep b0 b) (c : Nat) (result : Nat) : Keep b0 (Blk.selfTestDone b c result) := by
  unfold Blk.selfTestDone
  (try dsimp only)
  repeat' first | with_reducible assumption | with_reducible apply keep_upd | with_reducible apply keep_raiseS | with_reducible apply keep_declare | with_reducible apply keep_testedZero | with_reducible apply keep_stage | simp only [upd_eq] | split | (intro (hx : HostOk _); exact hx) | (intro (hx : FwOk _); exact hx) | intro _

theorem keep_selfTestStart {b0 b : Blk} (h : Keep b0 b) (c v : Nat) : Keep b0 (Blk.selfTestStart b c v).1 := by
  unfold Blk.selfTestStart
  (try dsimp only)
  repeat' first | with_reducible assumption | with_reducible apply keep_upd | with_reducible apply keep_Od_ok | with_reducible apply keep_Od_no | simp only [upd_eq] | split | (intro (hx : HostOk _); exact hx) | (intro (hx : FwOk _); exact hx)

theorem keep_fwStage {b0 b : Blk} (h : Keep b0 b) (cmd result : Nat) : Keep b0 (Blk.fwStage b cmd result) := by
  unfold Blk.fwStage
  (try dsimp only)
  repeat' first | with_reducible assumption | with_reducible apply keep_raiseS

theorem keep_fwVerify {b0 b : Blk} (h : Keep b0 b)  : Keep b0 (Blk.fwVerify b).1 := by
  unfold Blk.fwVerify
  try dsimp only
  repeat' first | with_reducible assumption | with_reducible apply keep_Od_no | with_reducible apply keep_Od_ok | with_reducible apply keep_fwStage | with_reducible apply keep_upd | simp only [upd_eq] | split | (intro (hx : HostOk _); exact hx) | (intro (hx : FwOk _); exact fwOk_setSlot hx _ _ (wf_slot hx _))

theorem keep_fwActivate {b0 b : Blk} (h : Keep b0 b)  : Keep b0 (Blk.fwActivate b).1 := by
  unfold Blk.fwActivate
  try dsimp only
  repeat' first | with_reducible assumption | with_reducible apply keep_Od_no | with_reducible apply keep_Od_ok | with_reducible apply keep_fwStage | with_reducible apply keep_upd | simp only [upd_eq] | split | (intro (hx : HostOk _); exact hx) | (intro (hx : FwOk _); exact fwOk_writeDir hx _ _ _)

theorem keep_fwConfirm {b0 b : Blk} (h : Keep b0 b)  : Keep b0 (Blk.fwConfirm b).1 := by
  unfold Blk.fwConfirm
  try dsimp only
  repeat' first | with_reducible assumption | with_reducible apply keep_Od_no | with_reducible apply keep_Od_ok | with_reducible apply keep_raiseRollback | with_reducible apply keep_fwStage | with_reducible apply keep_upd | simp only [upd_eq] | split | (intro (hx : HostOk _); exact hx) | (intro (hx : FwOk _); exact fwOk_writeDir hx _ _ _)

theorem keep_fwErase {b0 b : Blk} (h : Keep b0 b)  : Keep b0 (Blk.fwErase b).1 := by
  unfold Blk.fwErase
  try dsimp only
  repeat' first | with_reducible assumption | with_reducible apply keep_Od_no | with_reducible apply keep_Od_ok | with_reducible apply keep_fwStage | with_reducible apply keep_upd | simp only [upd_eq] | split | (intro (hx : HostOk _); exact hx) | (intro (hx : FwOk _); exact fwOk_setSlot hx _ _ wf_nil)

theorem keep_fwCmd {b0 b : Blk} (h : Keep b0 b) (v : Nat) : Keep b0 (Blk.fwCmd b v).1 := by
  unfold Blk.fwCmd
  (try dsimp only)
  repeat' first | with_reducible assumption | with_reducible apply keep_Od_no | with_reducible apply keep_fwVerify | with_reducible apply keep_fwActivate | with_reducible apply keep_fwConfirm | with_reducible apply keep_fwErase | split

/-! ### Power -/

theorem keep_queueUnit {b0 b : Blk} (h : Keep b0 b) (d : Nat) (u : PowerUnit) (stages step : Nat) : Keep b0 (Blk.queueUnit b d u stages step) := by
  unfold Blk.queueUnit
  (try dsimp only)
  repeat' first | with_reducible assumption | with_reducible apply keep_upd | simp only [upd_eq] | (intro (hx : HostOk _); exact hx) | (intro (hx : FwOk _); exact hx)

theorem keep_queueCluster {b0 b : Blk} (h : Keep b0 b) (c : Nat) (dest : ClusterState) : Keep b0 (Blk.queueCluster b c dest) := by
  unfold Blk.queueCluster
  (try dsimp only)
  repeat' first | with_reducible assumption | with_reducible apply keep_queueUnit | split

theorem keep_fallowCluster {b0 b : Blk} (h : Keep b0 b) (c : Nat) : Keep b0 (Blk.fallowCluster b c) := by
  unfold Blk.fallowCluster
  (try dsimp only)
  repeat' first | with_reducible assumption | with_reducible exact Keep.rfl _ | with_reducible apply keep_unlaunch | with_reducible apply keep_queueCluster | split | intro _

theorem keep_stageStart {b0 b : Blk} (h : Keep b0 b) (d i : Nat) : Keep b0 (Blk.stageStart b d i) := by
  unfold Blk.stageStart
  (try dsimp only)
  repeat' first | with_reducible assumption | with_reducible apply keep_upd | simp only [upd_eq] | split | (intro (hx : HostOk _); exact hx) | (intro (hx : FwOk _); exact hx)

theorem keep_clusterZero {b0 b : Blk} (h : Keep b0 b) (c : Nat) : Keep b0 (Blk.clusterZero b c) := by
  unfold Blk.clusterZero
  (try dsimp only)
  repeat' first | with_reducible assumption | with_reducible apply keep_each | with_reducible apply keep_modTile | with_reducible apply keep_zeroSram | intro _

theorem keep_unitDone {b0 b : Blk} (h : Keep b0 b) (t : Transition) : Keep b0 (Blk.unitDone b t) := by
  unfold Blk.unitDone
  (try dsimp only)
  repeat' first | with_reducible assumption | with_reducible apply keep_upd | with_reducible apply keep_modPort | with_reducible apply keep_raiseS | with_reducible apply keep_opticsOn | with_reducible apply keep_clusterZero | simp only [upd_eq] | split | (intro (hx : HostOk _); exact hx) | (intro (hx : FwOk _); exact hx)

theorem keep_stageEnd {b0 b : Blk} (h : Keep b0 b) (d i : Nat) : Keep b0 (Blk.stageEnd b d i) := by
  unfold Blk.stageEnd
  (try dsimp only)
  repeat' first | with_reducible assumption | with_reducible apply keep_upd | with_reducible apply keep_unitDone | simp only [upd_eq] | split | (intro (hx : HostOk _); exact hx) | (intro (hx : FwOk _); exact hx)

theorem keep_pwrRefuse {b0 b : Blk} (h : Keep b0 b)  : Keep b0 (Blk.pwrRefuse b).1 := by
  unfold Blk.pwrRefuse
  (try dsimp only)
  repeat' first | with_reducible assumption | with_reducible apply keep_countSys | with_reducible apply keep_Od_no

theorem keep_clusterCmd {b0 b : Blk} (h : Keep b0 b) (c : Nat) (dest : ClusterState) : Keep b0 (Blk.clusterCmd b c dest).1 := by
  unfold Blk.clusterCmd
  (try dsimp only)
  repeat' first | with_reducible assumption | with_reducible apply keep_Od_ok | with_reducible apply keep_queueCluster | with_reducible apply keep_pwrRefuse | with_reducible apply keep_fallowCluster | split | intro _

theorem keep_writeClusterCmd {b0 b : Blk} (h : Keep b0 b) (c v : Nat) : Keep b0 (Blk.writeClusterCmd b c v).1 := by
  unfold Blk.writeClusterCmd
  (try dsimp only)
  repeat' first | with_reducible assumption | with_reducible apply keep_Od_no | with_reducible apply keep_clusterCmd | split

theorem keep_queuePort {b0 b : Blk} (h : Keep b0 b) (p : Nat) (dest : PortPwr) : Keep b0 (Blk.queuePort b p dest) := by
  unfold Blk.queuePort
  (try dsimp only)
  repeat' first | with_reducible assumption | with_reducible apply keep_queueUnit

theorem keep_fallowPort {b0 b : Blk} (h : Keep b0 b) (p : Nat) : Keep b0 (Blk.fallowPort b p) := by
  unfold Blk.fallowPort
  (try dsimp only)
  repeat' first | with_reducible assumption | with_reducible exact Keep.rfl _ | with_reducible apply keep_note | with_reducible apply keep_queuePort | split | intro _

theorem keep_writePortPwr {b0 b : Blk} (h : Keep b0 b) (p : Nat) (fallow : Bool) : Keep b0 (Blk.writePortPwr b p fallow).1 := by
  unfold Blk.writePortPwr
  (try dsimp only)
  repeat' first | with_reducible assumption | with_reducible apply keep_Od_ok | with_reducible apply keep_pwrRefuse | with_reducible apply keep_queuePort | with_reducible apply keep_fallowPort | split | intro _

theorem keep_fallowAll {b0 b : Blk} (h : Keep b0 b)  : Keep b0 (Blk.fallowAll b).1 := by
  unfold Blk.fallowAll
  (try dsimp only)
  repeat' first | with_reducible assumption | with_reducible apply keep_each | with_reducible apply keep_Od_ok | with_reducible apply keep_queueCluster | with_reducible apply keep_pwrRefuse | with_reducible apply keep_queuePort | with_reducible apply keep_fallowCluster | with_reducible apply keep_fallowPort | split | intro _

theorem keep_wakeAll {b0 b : Blk} (h : Keep b0 b)  : Keep b0 (Blk.wakeAll b).1 := by
  unfold Blk.wakeAll
  (try dsimp only)
  repeat' first | with_reducible assumption | with_reducible apply keep_each | with_reducible apply keep_Od_ok | with_reducible apply keep_queueCluster | with_reducible apply keep_queuePort | intro _

theorem keep_writeBlockCmd {b0 b : Blk} (h : Keep b0 b) (v : Nat) : Keep b0 (Blk.writeBlockCmd b v).1 := by
  unfold Blk.writeBlockCmd
  (try dsimp only)
  repeat' first | with_reducible assumption | with_reducible apply keep_Od_no | with_reducible apply keep_fallowAll | with_reducible apply keep_wakeAll | split

theorem keep_writePwrCtrl {b0 b : Blk} (h : Keep b0 b) (v : BitVec 64) : Keep b0 (Blk.writePwrCtrl b v).1 := by
  unfold Blk.writePwrCtrl
  (try dsimp only)
  repeat' first | with_reducible assumption | with_reducible apply keep_upd | with_reducible apply keep_storeThen | with_reducible apply keep_note | simp only [upd_eq] | (intro (hx : HostOk _); exact hx) | (intro (hx : FwOk _); exact hx) | intro _ | split

theorem keep_cancelFw {b0 b : Blk} (h : Keep b0 b)  : Keep b0 (Blk.cancelFw b) := by
  unfold Blk.cancelFw
  (try dsimp only)
  repeat' first | with_reducible assumption | with_reducible apply keep_each | with_reducible apply keep_closeXfer | split | intro _

theorem keep_trip {b0 b : Blk} (h : Keep b0 b)  : Keep b0 (Blk.trip b) := by
  unfold Blk.trip
  have h1 := keep_raiseS (keep_cancelFw (keep_each h (l := List.range b.member.ports) (f := fun b p => b.abortBoth p)
    fun b x hb => keep_abortBoth hb x)) 0x69 0 none 0 0 0 0
  dsimp only at h1 ⊢
  exact ⟨h1.member, h1.clk, h1.khz, fun m => ⟨wf_nil, wf_nil, (h1.mem m).2.2.1, (h1.mem m).2.2.2⟩⟩

/-! ### Quorum -/

theorem keep_quorumCheck {b0 b : Blk} (h : Keep b0 b) (x : QMsg) : Keep b0 (Blk.quorumCheck b x) := by
  unfold Blk.quorumCheck
  (try dsimp only)
  repeat' first | with_reducible assumption | with_reducible apply keep_upd | with_reducible apply keep_countSys | with_reducible apply keep_raiseS | with_reducible apply keep_unsuspect | simp only [upd_eq] | split | (intro (hx : HostOk _); exact hx) | (intro (hx : FwOk _); exact hx)

theorem keep_quorumReceive {b0 b : Blk} (h : Keep b0 b)  : Keep b0 (Blk.quorumReceive b) := by
  unfold Blk.quorumReceive
  (try dsimp only)
  repeat' first | with_reducible assumption | with_reducible apply keep_upd | with_reducible apply keep_quorumCheck | simp only [upd_eq] | split | (intro (hx : HostOk _); exact hx) | (intro (hx : FwOk _); exact hx)

theorem keep_takeGood {b0 b : Blk} (h : Keep b0 b) (kind : Nat) : OkO (fun x => Keep b0 x.2) (Blk.takeGood b kind) := by
  unfold Blk.takeGood
  (try dsimp only)
  repeat' first | with_reducible assumption | with_reducible apply keep_upd | with_reducible exact okO_none | with_reducible apply okO_some | simp only [upd_eq] | split | (intro (hx : HostOk _); exact hx) | (intro (hx : FwOk _); exact hx)

theorem keep_heartbeat {b0 b : Blk} (h : Keep b0 b)  : Keep b0 (Blk.heartbeat b) := by
  unfold Blk.heartbeat
  (try dsimp only)
  repeat' first | with_reducible assumption | with_reducible apply keep_upd | with_reducible apply keep_takeGood | (with_reducible refine useO2 ?_ (by assumption)) | simp only [upd_eq] | split | (intro (hx : HostOk _); exact hx) | (intro (hx : FwOk _); exact hx)

theorem keep_joinFor {b0 b : Blk} (h : Keep b0 b) (x : QMsg) : Keep b0 (Blk.joinFor b x) := by
  unfold Blk.joinFor
  (try dsimp only)
  repeat' first | with_reducible assumption | with_reducible apply keep_qJoin | split

theorem keep_inRound {b0 b : Blk} (h : Keep b0 b) (r : BitVec 32) (f : Round → Round) : Keep b0 (Blk.inRound b r f) := by
  unfold Blk.inRound
  (try dsimp only)
  repeat' first | with_reducible assumption | with_reducible apply keep_upd | simp only [upd_eq] | split | (intro (hx : HostOk _); exact hx) | (intro (hx : FwOk _); exact hx)

theorem keep_view {b0 b : Blk} (h : Keep b0 b)  : Keep b0 (Blk.view b) := by
  unfold Blk.view
  (try dsimp only)
  repeat' first | with_reducible assumption | with_reducible apply keep_takeGood | with_reducible apply keep_joinFor | with_reducible apply keep_inRound | (with_reducible refine useO2 ?_ (by assumption)) | split

theorem keep_commit {b0 b : Blk} (h : Keep b0 b)  : Keep b0 (Blk.commit b) := by
  unfold Blk.commit
  (try dsimp only)
  repeat' first | with_reducible assumption | with_reducible apply keep_takeGood | with_reducible apply keep_joinFor | with_reducible apply keep_inRound | (with_reducible refine useO2 ?_ (by assumption)) | split

theorem keep_roundEnd {b0 b : Blk} (h : Keep b0 b) (rd : Round) (outcome : Nat) : Keep b0 (Blk.roundEnd b rd outcome) := by
  unfold Blk.roundEnd
  (try dsimp only)
  repeat' first | with_reducible assumption | with_reducible apply keep_upd | with_reducible apply keep_raiseS | simp only [upd_eq] | (intro (hx : HostOk _); exact hx) | (intro (hx : FwOk _); exact hx)

theorem keep_peersLost {b0 b : Blk} (h : Keep b0 b) (at_ : Nat → Bool) : Keep b0 (Blk.peersLost b at_) := by
  unfold Blk.peersLost
  (try dsimp only)
  repeat' first | with_reducible assumption | with_reducible apply keep_each | with_reducible apply keep_collEndIf | intro _

theorem keep_membersDown {b0 b : Blk} (h : Keep b0 b) (ms : List Nat) : Keep b0 (Blk.membersDown b ms) := by
  unfold Blk.membersDown
  (try dsimp only)
  repeat' first | with_reducible assumption | with_reducible apply keep_each | with_reducible apply keep_portDown | intro _

theorem keep_declarePeers {b0 b : Blk} (h : Keep b0 b) (ms : List Nat) : Keep b0 (Blk.declarePeers b ms) := by
  unfold Blk.declarePeers
  (try dsimp only)
  repeat' first | with_reducible assumption | with_reducible apply keep_each | with_reducible apply keep_upd | with_reducible apply keep_faultEvent | with_reducible apply keep_declare | simp only [upd_eq] | split | (intro (hx : HostOk _); exact hx) | (intro (hx : FwOk _); exact hx) | intro _

theorem keep_nextRound {b0 b : Blk} (h : Keep b0 b)  : Keep b0 (Blk.nextRound b) := by
  unfold Blk.nextRound
  (try dsimp only)
  repeat' first | with_reducible assumption | with_reducible apply keep_qJoin | split

theorem keep_decide_ {b0 b : Blk} (h : Keep b0 b) (rd : Round) : Keep b0 (Blk.decide_ b rd) := by
  unfold Blk.decide_
  (try dsimp only)
  repeat' first | with_reducible assumption | with_reducible apply keep_upd | with_reducible apply keep_raiseS | with_reducible apply keep_roundEnd | with_reducible apply keep_peersLost | with_reducible apply keep_membersDown | with_reducible apply keep_declarePeers | with_reducible apply keep_nextRound | simp only [upd_eq] | split | (intro (hx : HostOk _); exact hx) | (intro (hx : FwOk _); exact hx)

theorem keep_noQuorum {b0 b : Blk} (h : Keep b0 b) (rd : Round) : Keep b0 (Blk.noQuorum b rd) := by
  unfold Blk.noQuorum
  (try dsimp only)
  repeat' first | with_reducible assumption | with_reducible apply keep_raiseS | with_reducible apply keep_roundEnd

theorem keep_sendCommit {b0 b : Blk} (h : Keep b0 b) (rd : Round) (pass : Nat) : Keep b0 (Blk.sendCommit b rd pass) := by
  unfold Blk.sendCommit
  (try dsimp only)
  repeat' first | with_reducible assumption | with_reducible apply keep_upd | with_reducible apply keep_qSendAll | simp only [upd_eq] | (intro (hx : HostOk _); exact hx) | (intro (hx : FwOk _); exact hx)

theorem keep_phase1End {b0 b : Blk} (h : Keep b0 b)  : Keep b0 (Blk.phase1End b) := by
  unfold Blk.phase1End
  (try dsimp only)
  repeat' first | with_reducible assumption | with_reducible apply keep_sendCommit | split

theorem keep_phase2End {b0 b : Blk} (h : Keep b0 b)  : Keep b0 (Blk.phase2End b) := by
  unfold Blk.phase2End
  (try dsimp only)
  repeat' first | with_reducible assumption | with_reducible apply keep_decide_ | with_reducible apply keep_sendCommit | split

theorem keep_phase3End {b0 b : Blk} (h : Keep b0 b)  : Keep b0 (Blk.phase3End b) := by
  unfold Blk.phase3End
  (try dsimp only)
  repeat' first | with_reducible assumption | with_reducible apply keep_decide_ | with_reducible apply keep_noQuorum | split

theorem keep_writeQuorumEn {b0 b : Blk} (h : Keep b0 b) (v : Nat) : Keep b0 (Blk.writeQuorumEn b v).1 := by
  unfold Blk.writeQuorumEn
  (try dsimp only)
  repeat' first | with_reducible assumption | with_reducible apply keep_upd | with_reducible apply keep_raiseS | with_reducible apply keep_Od_ok | with_reducible apply keep_Od_no | simp only [upd_eq] | split | (intro (hx : HostOk _); exact hx) | (intro (hx : FwOk _); exact hx)

theorem keep_writeGroup {b0 b : Blk} (h : Keep b0 b) (ch : Channel) (sub v : Nat) : Keep b0 (Blk.writeGroup b ch sub v).1 := by
  unfold Blk.writeGroup
  (try dsimp only)
  repeat' first | with_reducible assumption | with_reducible apply keep_upd | with_reducible apply keep_Od_ok | with_reducible apply keep_Od_no | with_reducible apply keep_modSels | with_reducible apply keep_writeQuorumEn | with_reducible apply keep_rejoined | simp only [upd_eq] | split | (intro (hx : HostOk _); exact hx) | (intro (hx : FwOk _); exact hx) | intro _

/-! ### Capsule -/

theorem keep_capBegin {b0 b : Blk} (h : Keep b0 b)  : Keep b0 (Blk.capBegin b) := by
  unfold Blk.capBegin
  (try dsimp only)
  repeat' first | with_reducible assumption | with_reducible apply keep_upd | with_reducible apply keep_modTile | simp only [upd_eq] | split | (intro (hx : HostOk _); exact hx) | (intro (hx : FwOk _); exact hx)

/-! ### Kernels -/

theorem keep_kerBind {b0 b : Blk} (h : Keep b0 b) (plot t cls status : Nat) : Keep b0 (Blk.kerBind b plot t cls status) := by
  unfold Blk.kerBind
  (try dsimp only)
  repeat' first | with_reducible assumption | with_reducible apply keep_raiseP

theorem keep_modKs {b0 b : Blk} (h : Keep b0 b) (t : Nat) (f : KerSt → KerSt) : Keep b0 (Blk.modKs b t f) := by
  unfold Blk.modKs
  (try dsimp only)
  repeat' first | with_reducible assumption | with_reducible apply keep_modTile

theorem keep_sent {b0 b : Blk} (h : Keep b0 b) (t plot p : Nat) (hdr : Option (BitVec 256)) : Keep b0 (Blk.sent b t plot p hdr) := by
  unfold Blk.sent
  (try dsimp only)
  repeat' first | with_reducible assumption | with_reducible exact Keep.rfl _ | with_reducible apply keep_modKs | with_reducible apply keep_upd | simp only [upd_eq] | split | (intro (hx : HostOk _); exact hx) | (intro (hx : FwOk _); exact hx) | intro _

theorem keep_injectStolen {b0 b : Blk} (h : Keep b0 b) (t : Nat) : Keep b0 (Blk.injectStolen b t) := by
  unfold Blk.injectStolen
  (try dsimp only)
  repeat' first | with_reducible assumption | with_reducible exact Keep.rfl _ | with_reducible apply keep_modBorrowed | with_reducible apply keep_sendReq | with_reducible apply keep_sent | with_reducible apply keep_upd | simp only [upd_eq] | split | (intro (hx : HostOk _); exact hx) | (intro (hx : FwOk _); exact hx) | intro _

theorem keep_injectQuorum {b0 b : Blk} (h : Keep b0 b) (x : Bool × Nat × Bytes) (rest : List (Bool × Nat × Bytes)) : Keep b0 (Blk.injectQuorum b x rest) := by
  unfold Blk.injectQuorum
  (try dsimp only)
  repeat' first | with_reducible assumption | with_reducible exact Keep.rfl _ | with_reducible apply keep_sendReq | with_reducible apply keep_sent | with_reducible apply keep_upd | simp only [upd_eq] | split | (intro (hx : HostOk _); exact hx) | (intro (hx : FwOk _); exact hx) | intro _

theorem keep_setKernel {b0 b : Blk} (h : Keep b0 b) (t : Nat) (x : Kernel) : Keep b0 (Blk.setKernel b t x) := by
  unfold Blk.setKernel
  (try dsimp only)
  repeat' first | with_reducible assumption | with_reducible apply keep_modKs

theorem keep_bindKernel {b0 b : Blk} (h : Keep b0 b) (plot : Nat) (h : BitVec 512) : Keep b0 (Blk.bindKernel b plot h) := by
  unfold Blk.bindKernel
  (try dsimp only)
  repeat' first | with_reducible assumption | with_reducible exact Keep.rfl _ | with_reducible apply keep_modTile | with_reducible apply keep_dispatch | with_reducible apply keep_kerBind | with_reducible apply keep_setKernel | with_reducible apply keep_upd | simp only [upd_eq] | split | (intro (hx : HostOk _); exact hx) | (intro (hx : FwOk _); exact hx) | intro _

theorem keep_kernelFree {b0 b : Blk} (h : Keep b0 b) (t : Nat) (x : Kernel) : Keep b0 (Blk.kernelFree b t x) := by
  unfold Blk.kernelFree
  (try dsimp only)
  repeat' first | with_reducible assumption | with_reducible apply keep_modTile | with_reducible apply keep_modKs | with_reducible apply keep_dispatch | with_reducible apply keep_upd | simp only [upd_eq] | split | intro _ | (intro (hx : HostOk _); exact hx) | (intro (hx : FwOk _); exact hx)

theorem keep_kernelSettle {b0 b : Blk} (h : Keep b0 b) (t : Nat) (x : Kernel) : Keep b0 (Blk.kernelSettle b t x) := by
  unfold Blk.kernelSettle
  (try dsimp only)
  repeat' first | with_reducible assumption | with_reducible apply keep_kerBind | with_reducible apply keep_setKernel | with_reducible apply keep_kernelFree | split

theorem keep_unbindKernel {b0 b : Blk} (h : Keep b0 b) (plot : Nat) (h : BitVec 512) : Keep b0 (Blk.unbindKernel b plot h) := by
  unfold Blk.unbindKernel
  (try dsimp only)
  repeat' first | with_reducible assumption | with_reducible exact Keep.rfl _ | with_reducible apply keep_kerBind | with_reducible apply keep_kernelSettle | with_reducible apply keep_upd | simp only [upd_eq] | split | (intro (hx : HostOk _); exact hx) | (intro (hx : FwOk _); exact hx) | intro _

theorem keep_kernelDesc {b0 b : Blk} (h : Keep b0 b) (plot : Nat) (desc : Bytes) : Keep b0 (Blk.kernelDesc b plot desc) := by
  unfold Blk.kernelDesc
  dsimp only
  split
  · exact h
  · rename_i e
    have hb := useO2 (keep_takeDoorbell h plot true) e
    repeat' first | with_reducible assumption | with_reducible apply keep_bindKernel | with_reducible apply keep_unbindKernel | split

theorem keep_kernelBind {b0 b : Blk} (h : Keep b0 b) (plot : Nat) (desc : Bytes) : Keep b0 (Blk.kernelBind b plot desc) :=
  keep_kernelDesc h _ _

theorem keep_kernelUnbind {b0 b : Blk} (h : Keep b0 b) (plot : Nat) (desc : Bytes) : Keep b0 (Blk.kernelUnbind b plot desc) :=
  keep_kernelDesc h _ _

theorem keep_kerRoute {b0 b : Blk} (h : Keep b0 b) (t plot dst : Nat) : OkO (fun x => Keep b0 x.2.2) (Blk.kerRoute b t plot dst) := by
  unfold Blk.kerRoute
  (try dsimp only)
  repeat' first | with_reducible assumption | with_reducible apply keep_egressOf | with_reducible exact okO_none | with_reducible apply okO_some | split

theorem keep_emitParts {b0 b : Blk} (h : Keep b0 b) (t plot p : Nat) (halfB : Bool) (hdr : Nat → Nat → BitVec 256) (data : Bytes) : Keep b0 (Blk.emitParts b t plot p halfB hdr data) := by
  unfold Blk.emitParts
  (try dsimp only)
  repeat' first | with_reducible assumption | with_reducible apply keep_each | with_reducible apply keep_emitDfp | with_reducible apply keep_drop | intro _ | split

theorem keep_sendCopy {b0 b : Blk} (h : Keep b0 b) (t : Nat) (x : Kernel) (slot rank dst : Nat) (tok : Token) (data : Bytes) : OkO (Keep b0) (Blk.sendCopy b t x slot rank dst tok data) := by
  unfold Blk.sendCopy
  (try dsimp only)
  repeat' first | with_reducible assumption | with_reducible apply keep_modTile | with_reducible apply keep_stage | with_reducible apply keep_kerRoute | with_reducible apply keep_emitParts | with_reducible exact okO_none | with_reducible apply okO_some | with_reducible apply keep_sent | with_reducible apply keep_upd | simp only [upd_eq] | (with_reducible refine useO3 ?_ (by assumption)) | split | intro _ | (intro (hx : HostOk _); exact hx) | (intro (hx : FwOk _); exact hx)

theorem keep_tokenEmit {b0 b : Blk} (h : Keep b0 b) (t : Nat) (x : Kernel) (tok : Token) : Keep b0 (Blk.tokenEmit b t x tok) := by
  unfold Blk.tokenEmit
  dsimp only
  have hc := keep_countN (keep_countN h t evRoundNan (x.combined tok).2.1 (some x.plot)) t evRoundSat (x.combined tok).2.2 (some x.plot)
  generalize (b.countN t evRoundNan (x.combined tok).2.1 (some x.plot)).countN t evRoundSat (x.combined tok).2.2 (some x.plot) = c
    at hc ⊢
  split
  · exact keep_raiseP hc _ _ _ _ _ _ _
  · rename_i e
    have hb := useO3 (keep_kerRoute hc t x.plot tok.src.toNat) e
    split
    · rename_i e
      refine keep_count (useO ?_ e) _ _ _
      split
      · exact okO_some (keep_emitParts hb _ _ _ _ _ _)
      · exact okO_map fun d _ => keep_stage (keep_sent hb _ _ _ _) _ _ _ _ _
    · exact keep_raiseP hc _ _ _ _ _ _ _

theorem keep_tokenClose {b0 b : Blk} (h : Keep b0 b) (t : Nat) (x : Kernel) (slot : Nat) (tok : Token) : Keep b0 (Blk.tokenClose b t x slot tok) := by
  unfold Blk.tokenClose
  (try dsimp only)
  repeat' first | with_reducible assumption | with_reducible apply keep_countN | with_reducible apply keep_raiseP | with_reducible apply keep_kernelSettle | with_reducible apply keep_tokenEmit | split

theorem keep_tokenKeep {b0 b : Blk} (h : Keep b0 b) (t : Nat) (x : Kernel) (slot : Nat) (tok : Token) : Keep b0 (Blk.tokenKeep b t x slot tok) := by
  unfold Blk.tokenKeep
  (try dsimp only)
  repeat' first | with_reducible assumption | with_reducible apply keep_setKernel | with_reducible apply keep_tokenClose | split

theorem keep_tokenGate {b0 b : Blk} (h : Keep b0 b) (t : Nat) (x : Kernel) (slot : Nat) (tok : Token) : Keep b0 (Blk.tokenGate b t x slot tok) := by
  unfold Blk.tokenGate
  (try dsimp only)
  repeat' first | with_reducible assumption | with_reducible apply keep_foldl1 | with_reducible apply keep_countN | with_reducible apply keep_count | with_reducible apply keep_sendCopy | with_reducible apply keep_tokenKeep | with_reducible apply keep_foldl | (with_reducible refine useO ?_ (by assumption)) | simp only [upd_eq] | split | intro _

theorem keep_tokenLand {b0 b : Blk} (h : Keep b0 b) (t : Nat) (x : Kernel) (slot : Nat) (tok : Token) (part : Nat) (data : Bytes) : Keep b0 (Blk.tokenLand b t x slot tok part data) := by
  unfold Blk.tokenLand
  (try dsimp only)
  repeat' first | with_reducible assumption | with_reducible apply keep_writeSram | with_reducible apply keep_setKernel | with_reducible apply keep_tokenGate | split

theorem keep_tokenPart {b0 b : Blk} (h : Keep b0 b) (t : Nat) : Keep b0 (Blk.tokenPart b t) := by
  unfold Blk.tokenPart
  (try dsimp only)
  repeat' first | with_reducible assumption | with_reducible apply keep_drop | with_reducible apply keep_modKs | with_reducible apply keep_tokenLand | split

theorem keep_tokenAsm {b0 b : Blk} (h : Keep b0 b) (t slot : Nat) : Keep b0 (Blk.tokenAsm b t slot) := by
  unfold Blk.tokenAsm
  (try dsimp only)
  repeat' first | with_reducible assumption | with_reducible apply keep_count | with_reducible apply keep_raiseP | with_reducible apply keep_kernelSettle | split

theorem keep_tokenRet {b0 b : Blk} (h : Keep b0 b) (t slot : Nat) : Keep b0 (Blk.tokenRet b t slot) := by
  unfold Blk.tokenRet
  (try dsimp only)
  repeat' first | with_reducible assumption | with_reducible apply keep_tokenClose | split

theorem keep_rankLost {b0 b : Blk} (h : Keep b0 b) (t slot rank serial : Nat) : Keep b0 (Blk.rankLost b t slot rank serial) := by
  unfold Blk.rankLost
  (try dsimp only)
  repeat' first | with_reducible assumption | with_reducible apply keep_tokenKeep | split

theorem keep_expertAdd {b0 b : Blk} (h : Keep b0 b) (t : Nat) (x : Kernel) (slot : Nat) (tok : Token) (rank part : Nat) (data : Bytes) : Keep b0 (Blk.expertAdd b t x slot tok rank part data) := by
  unfold Blk.expertAdd
  (try dsimp only)
  repeat' first | with_reducible assumption | with_reducible apply keep_countAdds | with_reducible apply keep_tokenKeep | with_reducible apply keep_foldl | with_reducible apply keep_upd | simp only [upd_eq] | split | intro _ | (intro (hx : HostOk _); exact hx) | (intro (hx : FwOk _); exact hx)

theorem keep_expertOut {b0 b : Blk} (h : Keep b0 b) (t : Nat) : Keep b0 (Blk.expertOut b t) := by
  unfold Blk.expertOut
  (try dsimp only)
  repeat' first | with_reducible assumption | with_reducible apply keep_drop | with_reducible apply keep_modKs | with_reducible apply keep_expertAdd | split

theorem keep_khdrTake {b0 b : Blk} (h : Keep b0 b) (t : Nat) : Keep b0 (Blk.khdrTake b t) := by
  unfold Blk.khdrTake
  (try dsimp only)
  repeat' first | with_reducible assumption | with_reducible apply keep_answerReq | with_reducible apply keep_errReq | with_reducible apply keep_takeInbox | with_reducible apply keep_modKs | (with_reducible refine useO2 ?_ (by assumption)) | split

theorem keep_trainSend {b0 b : Blk} (h : Keep b0 b) (t : Nat) (k : Khdr) (x : Train) : Keep b0 (Blk.trainSend b t k x) := by
  unfold Blk.trainSend
  (try dsimp only)
  repeat' first | with_reducible assumption | with_reducible apply keep_emitParts | with_reducible apply keep_drop | split | intro _

theorem keep_copyTrain {b0 b : Blk} (h : Keep b0 b) (t : Nat) (x : Train) : Keep b0 (Blk.copyTrain b t x) := by
  unfold Blk.copyTrain
  (try dsimp only)
  repeat' first | with_reducible assumption | with_reducible exact Keep.rfl _ | with_reducible apply keep_count | with_reducible apply keep_modKs | with_reducible apply keep_trainSend | with_reducible apply keep_upd | simp only [upd_eq] | split | (intro (hx : HostOk _); exact hx) | (intro (hx : FwOk _); exact hx) | intro _

theorem keep_kernelTrain {b0 b : Blk} (h : Keep b0 b) (t : Nat) : Keep b0 (Blk.kernelTrain b t) := by
  unfold Blk.kernelTrain
  (try dsimp only)
  repeat' first | with_reducible assumption | with_reducible apply keep_count | with_reducible apply keep_modKs | with_reducible apply keep_trainSend | with_reducible apply keep_emitParts | with_reducible apply keep_upd | with_reducible apply keep_copyTrain | simp only [upd_eq] | split | intro _ | (intro (hx : HostOk _); exact hx) | (intro (hx : FwOk _); exact hx)

/-! ### Ingress -/

theorem keep_meterDfp {b0 b : Blk} (hk : Keep b0 b) (p plot : Nat) (h : BitVec 256) : Keep b0 (Blk.meterDfp b p plot h).1 := by
  unfold Blk.meterDfp
  (try dsimp only)
  repeat' first | with_reducible assumption | with_reducible apply keep_upd | simp only [upd_eq] | split | (intro (hx : HostOk _); exact hx) | (intro (hx : FwOk _); exact hx)

theorem keep_collIngress {b0 b : Blk} (hk : Keep b0 b) (p plot : Nat) (h : BitVec 256) (data : Bytes) : Keep b0 (Blk.collIngress b p plot h data) := by
  unfold Blk.collIngress
  (try dsimp only)
  repeat' first | with_reducible assumption | with_reducible apply keep_modTile | with_reducible apply keep_portDrop | with_reducible apply keep_collLand | with_reducible apply keep_collUnland | with_reducible apply keep_collReturn | with_reducible apply keep_collUnreturn | with_reducible apply keep_upd | simp only [upd_eq] | (with_reducible refine useE ?_ (by assumption)) | split | intro _ | (intro (hx : HostOk _); exact hx) | (intro (hx : FwOk _); exact hx)

theorem keep_consume {b0 b : Blk} (hk : Keep b0 b) (p plot : Nat) (h : BitVec 256) (data : Bytes) : Keep b0 (Blk.consume b p plot h data) := by
  unfold Blk.consume
  (try dsimp only)
  repeat' first | with_reducible assumption | with_reducible apply keep_upd | with_reducible apply keep_modKs | with_reducible apply keep_collIngress | simp only [upd_eq] | split | (intro (hx : HostOk _); exact hx) | (intro (hx : FwOk _); exact hx)

theorem keep_wayOut {b0 b : Blk} (hk : Keep b0 b) (p plot : Nat) (h : BitVec 256) (e : BitVec 64) :
    OkE (fun x => Keep b0 x.2.2.2) (b.wayOut p plot h e) := by
  have he := keep_egressOf hk p plot e
  unfold Blk.wayOut
  revert he
  generalize b.egressOf p plot e = r
  obtain ⟨q, hb, up, b1⟩ := r
  intro he
  dsimp only
  repeat' first | with_reducible apply okE_bind | intro _ | with_reducible apply okE_ok | exact he

theorem keep_mapDfp {b0 b : Blk} (hk : Keep b0 b) (p plot : Nat) (h : BitVec 256) (data : Bytes) :
    OkE (fun x => Keep b0 x.2.2) (Blk.mapDfp b p plot h data) := by
  unfold Blk.mapDfp
  dsimp only
  repeat' first | with_reducible assumption | with_reducible exact okE_error | with_reducible apply okE_ok | with_reducible apply keep_countN | with_reducible apply okE_bind | split | intro _ | dsimp only

theorem keep_transit {b0 b : Blk} (hk : Keep b0 b) (p plot : Nat) (h : BitVec 256) (data : Bytes) : Keep b0 (Blk.transit b p plot h data) := by
  unfold Blk.transit
  dsimp only
  split
  · exact keep_portDrop hk _ _ _
  · have hw := keep_wayOut hk p plot h ‹_›
    split
    · exact keep_portDrop hk _ _ _
    · rename_i e
      rw [e] at hw
      have h1 := keep_meterDfp hw p plot h
      split
      · rename_i e2; rw [e2] at h1; exact keep_portDrop h1 _ _ _
      · rename_i e2; rw [e2] at h1
        have h2 := keep_mapDfp h1 p plot h data
        split
        · exact keep_portDrop h1 _ _ _
        · rename_i e3; rw [e3] at h2
          exact okO_getD (keep_forward h2 _ _ _ _ _ _ _ _ _) (keep_portDrop h2 _ _ _)



theorem keep_passDfp {b0 b : Blk} (hk : Keep b0 b) (p plot : Nat) (h : BitVec 256) (data : Bytes) : Keep b0 (Blk.passDfp b p plot h data) := by
  unfold Blk.passDfp
  dsimp only
  split
  · exact keep_portDrop hk _ _ _
  · split
    · exact keep_portDrop hk _ _ _
    · split
      · exact keep_portDrop hk _ _ _
      · have h2 := keep_mapDfp hk p plot h data
        split
        · exact keep_portDrop hk _ _ _
        · rename_i e3; rw [e3] at h2
          exact okO_getD (keep_forward h2 _ _ _ _ _ _ _ _ _) (keep_portDrop h2 _ _ _)

theorem keep_route {b0 b : Blk} (hk : Keep b0 b) (p plot : Nat) (h : BitVec 256) (data : Bytes) : Keep b0 (Blk.route b p plot h data) := by
  unfold Blk.route
  (try dsimp only)
  repeat' first | with_reducible assumption | with_reducible apply keep_portDrop | with_reducible apply keep_meterDfp | with_reducible apply keep_consume | with_reducible apply keep_transit | with_reducible apply keep_passDfp | (with_reducible refine useP ?_ (by assumption)) | split

theorem keep_dfpIngress {b0 b : Blk} (h : Keep b0 b) (p : Nat) (halfB : Bool) (frame : Bytes) (good : Bool) : Keep b0 (Blk.dfpIngress b p halfB frame good) := by
  unfold Blk.dfpIngress
  (try dsimp only)
  repeat' first | with_reducible assumption | with_reducible apply keep_countN | with_reducible apply keep_count | with_reducible apply keep_traceMark | with_reducible apply keep_portDrop | with_reducible apply keep_route | with_reducible apply keep_drop | with_reducible apply keep_upd | simp only [upd_eq] | split | intro _ | (intro (hx : HostOk _); exact hx) | (intro (hx : FwOk _); exact hx)

theorem keep_asmWhole {b0 b : Blk} (h : Keep b0 b) (p : Nat) (a : DfpAsm) : Keep b0 (Blk.asmWhole b p a) := by
  unfold Blk.asmWhole
  (try dsimp only)
  repeat' first | with_reducible assumption | with_reducible apply keep_enqueue | with_reducible apply keep_drop | with_reducible apply keep_upd | with_reducible apply keep_modEgQueue | simp only [upd_eq] | split | intro _ | (intro (hx : HostOk _); exact hx) | (intro (hx : FwOk _); exact hx)

theorem keep_msgDfp {b0 b : Blk} (h : Keep b0 b) (t : Nat) : Keep b0 (Blk.msgDfp b t) := by
  unfold Blk.msgDfp
  (try dsimp only)
  repeat' first | with_reducible assumption | with_reducible apply keep_answerReq | with_reducible apply keep_errReq | with_reducible apply keep_takeInbox | with_reducible apply keep_modEg | with_reducible apply keep_asmWhole | with_reducible apply keep_drop | with_reducible apply keep_upd | with_reducible apply keep_modPort | with_reducible apply keep_enqueue | simp only [upd_eq] | (with_reducible refine useO2 ?_ (by assumption)) | split | intro _ | (intro (hx : HostOk _); exact hx) | (intro (hx : FwOk _); exact hx)

/-! ### Steal -/

theorem keep_stealSend {b0 b : Blk} (h : Keep b0 b) (t e : Nat) : Keep b0 (Blk.stealSend b t e) := by
  unfold Blk.stealSend
  (try dsimp only)
  repeat' first | with_reducible assumption | with_reducible apply keep_modTile | with_reducible apply keep_countN | with_reducible apply keep_sendReq | with_reducible apply keep_sent | with_reducible apply keep_upd | simp only [upd_eq] | split | intro _ | (intro (hx : HostOk _); exact hx) | (intro (hx : FwOk _); exact hx)

theorem keep_stealReceive {b0 b : Blk} (h : Keep b0 b) (t : Nat) : Keep b0 (Blk.stealReceive b t) := by
  unfold Blk.stealReceive
  (try dsimp only)
  repeat' first | with_reducible assumption | with_reducible apply keep_modTile | with_reducible apply keep_answerReq | with_reducible apply keep_takeInbox | with_reducible apply keep_foldl | with_reducible apply keep_modSheaf | with_reducible apply keep_upd | with_reducible apply keep_setTile | simp only [upd_eq] | (with_reducible refine useO2 ?_ (by assumption)) | split | intro _ | (intro (hx : HostOk _); exact hx) | (intro (hx : FwOk _); exact hx)

theorem keep_lendTake {b0 b : Blk} (h : Keep b0 b) (t e : Nat) : Keep b0 (Blk.lendTake b t e) := by
  unfold Blk.lendTake
  (try dsimp only)
  repeat' first | with_reducible assumption | with_reducible apply keep_modTile | with_reducible apply keep_count | with_reducible apply keep_drop | with_reducible apply keep_upd | simp only [upd_eq] | split | intro _ | (intro (hx : HostOk _); exact hx) | (intro (hx : FwOk _); exact hx)

theorem keep_mergeStolen {b0 b : Blk} (h : Keep b0 b) (v : Nat) (s : Sheaf) (xs : Bytes) : OkE (Keep b0) (Blk.mergeStolen b v s xs) := by
  unfold Blk.mergeStolen
  split
  · exact okE_bind fun o _ => keep_mergeInto h _ _ _ _ _ _
  · exact okE_ok h

theorem keep_applyStolen {b0 b : Blk} (h : Keep b0 b) (thief v : Nat) (r : Borrowed) (s : Sheaf) : Keep b0 (Blk.applyStolen b thief v r s) := by
  unfold Blk.applyStolen
  split
  · exact keep_takeBack h _ _ _
  · split
    · exact keep_finished h _ _ _ _ _
    · rename_i e
      exact keep_count (keep_count (keep_finished (useE (keep_mergeStolen h v s r.result) e) _ _ _ _ _) _ _ _) _ _ _

theorem keep_stolenReturn {b0 b : Blk} (h : Keep b0 b) (t id : Nat) : Keep b0 (Blk.stolenReturn b t id) := by
  unfold Blk.stolenReturn
  (try dsimp only)
  repeat' first | with_reducible assumption | with_reducible apply keep_modTile | with_reducible apply keep_count | with_reducible apply keep_applyStolen | split

/-! ### Replies -/

theorem keep_sheafAnswer {b0 b : Blk} (h : Keep b0 b) (t e sid k target : Nat) (a : Answer) : Keep b0 (Blk.sheafAnswer b t e sid k target a) := by
  unfold Blk.sheafAnswer
  (try dsimp only)
  repeat' first | with_reducible assumption | with_reducible apply keep_writeSram | with_reducible apply keep_modSheaf | split

theorem keep_dfpAnswer {b0 b : Blk} (h : Keep b0 b) (t : Nat) (a : Answer) : Keep b0 (Blk.dfpAnswer b t a) := by
  unfold Blk.dfpAnswer
  (try dsimp only)
  repeat' first | with_reducible assumption | with_reducible apply keep_modTile | with_reducible apply keep_drop | split

theorem keep_serve {b0 b : Blk} (h : Keep b0 b) (t target : Nat) (ref : ReqRef) (a : Answer) (p : Option Packet) : Keep b0 (Blk.serve b t target ref a p) := by
  unfold Blk.serve
  (try dsimp only)
  repeat' first | with_reducible assumption | with_reducible apply keep_modTile | with_reducible apply keep_collPart | with_reducible apply keep_rankLost | with_reducible apply keep_sheafAnswer | with_reducible apply keep_dfpAnswer | with_reducible apply keep_stolenAnswer | with_reducible apply keep_upd | simp only [upd_eq] | split | intro _ | (intro (hx : HostOk _); exact hx) | (intro (hx : FwOk _); exact hx)

theorem keep_injectGet {b0 b : Blk} (h : Keep b0 b) (t : Nat) : Keep b0 (Blk.injectGet b t) := by
  unfold Blk.injectGet
  (try dsimp only)
  repeat' first | with_reducible assumption | with_reducible apply keep_modTile | with_reducible apply keep_sendReq | with_reducible apply keep_sent | with_reducible apply keep_serve | with_reducible apply keep_upd | simp only [upd_eq] | split | intro _ | (intro (hx : HostOk _); exact hx) | (intro (hx : FwOk _); exact hx)

theorem keep_replyArrival {b0 b : Blk} (h : Keep b0 b) (t n : Nat) : Keep b0 (Blk.replyArrival b t n) := by
  unfold Blk.replyArrival
  (try dsimp only)
  repeat' first | with_reducible assumption | with_reducible apply keep_countN | with_reducible apply keep_count | with_reducible apply keep_setEject | with_reducible apply keep_setSlot | with_reducible apply keep_serve | split

theorem keep_reqTimeout {b0 b : Blk} (h : Keep b0 b) (o : SlotOwner) (i : Nat) : Keep b0 (Blk.reqTimeout b o i) := by
  unfold Blk.reqTimeout
  (try dsimp only)
  repeat' first | with_reducible assumption | with_reducible apply keep_count | with_reducible apply keep_raiseP | with_reducible apply keep_setSlot | with_reducible apply keep_serve | split

theorem keep_quarantineEnd {b0 b : Blk} (h : Keep b0 b) (o : SlotOwner) (i : Nat) : Keep b0 (Blk.quarantineEnd b o i) := by
  unfold Blk.quarantineEnd
  (try dsimp only)
  repeat' first | with_reducible assumption | with_reducible apply keep_setSlot | split

/-! ### Plots -/

theorem keep_plotTo {b0 b : Blk} (h : Keep b0 b) (p : Nat) (s : PlotState) : Keep b0 (Blk.plotTo b p s) := by
  unfold Blk.plotTo
  (try dsimp only)
  repeat' first | with_reducible assumption | with_reducible apply keep_modPlot | with_reducible apply keep_raiseS

theorem keep_zeroTile {b0 b : Blk} (h : Keep b0 b) (t : Nat) : Keep b0 (Blk.zeroTile b t) := by
  unfold Blk.zeroTile
  (try dsimp only)
  repeat' first | with_reducible assumption | with_reducible apply keep_upd | with_reducible apply keep_modTile | with_reducible apply keep_zeroSram | with_reducible apply keep_drop | simp only [upd_eq] | (intro (hx : HostOk _); exact hx) | (intro (hx : FwOk _); exact hx) | split | intro _

theorem keep_zeroStart {b0 b : Blk} (h : Keep b0 b) (ts : List Nat) : Keep b0 (Blk.zeroStart b ts) := by
  unfold Blk.zeroStart
  (try dsimp only)
  repeat' first | with_reducible assumption | with_reducible apply keep_each | with_reducible apply keep_modTile | intro _

theorem keep_stopTile {b0 b : Blk} (h : Keep b0 b) (p t : Nat) : Keep b0 (Blk.stopTile b p t) := by
  unfold Blk.stopTile
  (try dsimp only)
  repeat' first | with_reducible assumption | with_reducible apply keep_each | with_reducible apply keep_modTile | with_reducible apply keep_abortCtx | with_reducible apply keep_complete | split | intro _

theorem keep_unstage {b0 b : Blk} (h : Keep b0 b) (p : Nat) : Keep b0 (Blk.unstage b p) := by
  unfold Blk.unstage
  (try dsimp only)
  repeat' first | with_reducible assumption | with_reducible apply keep_each | with_reducible apply keep_upd | with_reducible apply keep_countN | simp only [upd_eq] | split | (intro (hx : HostOk _); exact hx) | (intro (hx : FwOk _); exact hx) | intro _

theorem keep_flushEgress {b0 b : Blk} (h : Keep b0 b) (p : Nat) : Keep b0 (Blk.flushEgress b p) := by
  unfold Blk.flushEgress
  (try dsimp only)
  repeat' first | with_reducible assumption | with_reducible apply keep_each | with_reducible apply keep_modEg | with_reducible apply keep_discard | intro _

theorem keep_unbindKernels {b0 b : Blk} (h : Keep b0 b) (p : Nat) : Keep b0 (Blk.unbindKernels b p) := by
  unfold Blk.unbindKernels
  (try dsimp only)
  repeat' first | with_reducible assumption | with_reducible apply keep_each | with_reducible apply keep_kerBind | with_reducible apply keep_kernelFree | intro _

theorem keep_stopWork {b0 b : Blk} (h : Keep b0 b) (p collStatus collCause : Nat) : Keep b0 (Blk.stopWork b p collStatus collCause) := by
  have h1 := keep_endColls h p collStatus collCause
  have h2 := keep_each (f := fun b t => Blk.stopTile b p t) (l := tilesOf ((b.endColls p collStatus collCause).plot p).owned) h1
    (fun b x hb => keep_stopTile hb p x)
  have h3 := keep_streamStopIf (keep_unstage h2 p) (fun _ s => s.plot = p)
  unfold Blk.stopWork
  dsimp only at h3 ⊢
  revert h3
  generalize Blk.streamStopIf _ _ = b3
  intro h3
  rw [upd_eq]
  split
  · exact keep_capBegin (keep_upd h3 id id)
  · exact keep_upd h3 id id



theorem keep_takeSerial {b0 b : Blk} (h : Keep b0 b) (p : Nat) : Keep b0 (Blk.takeSerial b p) := by
  unfold Blk.takeSerial
  (try dsimp only)
  repeat' first | with_reducible assumption | with_reducible apply keep_upd | with_reducible apply keep_modPlot | simp only [upd_eq] | (intro (hx : HostOk _); exact hx) | (intro (hx : FwOk _); exact hx)

theorem keep_plotResult {b0 b : Blk} (h : Keep b0 b) (p r : Nat) : Keep b0 (Blk.plotResult b p r) := by
  unfold Blk.plotResult
  (try dsimp only)
  repeat' first | with_reducible assumption | with_reducible apply keep_modPlot

theorem keep_bind_ {b0 b : Blk} (h : Keep b0 b) (p : Nat) : Keep b0 (Blk.bind_ b p) := by
  unfold Blk.bind_
  (try dsimp only)
  repeat' first | with_reducible assumption | with_reducible apply keep_modPlot | with_reducible apply keep_plotTo | with_reducible apply keep_zeroStart | with_reducible apply keep_takeSerial | with_reducible apply keep_plotResult | split

theorem keep_bindDone {b0 b : Blk} (h : Keep b0 b) (p : Nat) : Keep b0 (Blk.bindDone b p) := by
  unfold Blk.bindDone
  (try dsimp only)
  repeat' first | with_reducible assumption | with_reducible apply keep_each | with_reducible apply keep_plotTo | with_reducible apply keep_zeroTile | split | intro _

theorem keep_rebind {b0 b : Blk} (h : Keep b0 b) (p : Nat) : Keep b0 (Blk.rebind b p) := by
  unfold Blk.rebind
  (try dsimp only)
  repeat' first | with_reducible assumption | with_reducible apply keep_modPlot | with_reducible apply keep_plotTo | with_reducible apply keep_zeroStart | with_reducible apply keep_unbindKernels | with_reducible apply keep_stopWork | with_reducible apply keep_plotResult | split

theorem keep_unsealTile {b0 b : Blk} (h : Keep b0 b) (t : Nat) : Keep b0 (Blk.unsealTile b t) := by
  unfold Blk.unsealTile
  (try dsimp only)
  repeat' first | with_reducible assumption | with_reducible apply keep_each | with_reducible apply keep_modTile | with_reducible apply keep_zeroSram | intro _

theorem keep_rebindDone {b0 b : Blk} (h : Keep b0 b) (p : Nat) : Keep b0 (Blk.rebindDone b p) := by
  unfold Blk.rebindDone
  (try dsimp only)
  repeat' first | with_reducible assumption | with_reducible apply keep_each | with_reducible apply keep_modPlot | with_reducible apply keep_plotTo | with_reducible apply keep_zeroTile | with_reducible apply keep_takeSerial | with_reducible apply keep_unsealTile | with_reducible apply keep_flushEgress | with_reducible apply keep_upd | simp only [upd_eq] | split | intro _ | (intro (hx : HostOk _); exact hx) | (intro (hx : FwOk _); exact hx)

theorem keep_dropKeys {b0 b : Blk} (h : Keep b0 b) (p : Nat) : Keep b0 (Blk.dropKeys b p) := by
  unfold Blk.dropKeys
  (try dsimp only)
  repeat' first | with_reducible assumption | with_reducible apply keep_upd | simp only [upd_eq] | (intro (hx : HostOk _); exact hx) | (intro (hx : FwOk _); exact hx)

theorem keep_teardown {b0 b : Blk} (h : Keep b0 b) (p : Nat) : Keep b0 (Blk.teardown b p) := by
  unfold Blk.teardown
  (try dsimp only)
  repeat' first | with_reducible assumption | with_reducible apply keep_modPlot | with_reducible apply keep_plotTo | with_reducible apply keep_unbindKernels | with_reducible apply keep_stopWork | with_reducible apply keep_plotResult | with_reducible apply keep_dropKeys | with_reducible apply keep_endColls | with_reducible apply keep_upd | simp only [upd_eq] | split | intro _ | (intro (hx : HostOk _); exact hx) | (intro (hx : FwOk _); exact hx)

theorem keep_scrubCheck {b0 b : Blk} (h : Keep b0 b) (p : Nat) : Keep b0 (Blk.scrubCheck b p) := by
  unfold Blk.scrubCheck
  (try dsimp only)
  repeat' first | with_reducible assumption | with_reducible apply keep_raiseS | with_reducible apply keep_plotTo | split

theorem keep_released {b0 b : Blk} (h : Keep b0 b) (p : Nat) : Keep b0 (Blk.released b p) := by
  unfold Blk.released
  (try dsimp only)
  repeat' first | with_reducible assumption | with_reducible apply keep_each | with_reducible apply keep_modPlot | with_reducible apply keep_plotTo | with_reducible apply keep_zeroTile | with_reducible apply keep_scrubCheck | with_reducible apply keep_teardown | with_reducible apply keep_upd | with_reducible apply keep_flushEgress | simp only [upd_eq] | split | intro _ | (intro (hx : HostOk _); exact hx) | (intro (hx : FwOk _); exact hx)

theorem keep_scrubDone {b0 b : Blk} (h : Keep b0 b) (p i : Nat) : Keep b0 (Blk.scrubDone b p i) := by
  unfold Blk.scrubDone
  split
  · exact h
  · split
    · exact h
    · apply keep_scrubCheck
      apply keep_modPlot
      exact ⟨h.member, h.clk, h.khz, fun m => ⟨(h.mem m).1, wf_zero _ _ _ (h.mem m).2.1, (h.mem m).2.2⟩⟩

theorem keep_plotCommand {b0 b : Blk} (h : Keep b0 b) (p v : Nat) : Keep b0 (Blk.plotCommand b p v).1 := by
  unfold Blk.plotCommand
  (try dsimp only)
  repeat' first | with_reducible assumption | with_reducible apply keep_Od_no | with_reducible apply keep_plotResult | with_reducible apply keep_bind_ | with_reducible apply keep_rebind | with_reducible apply keep_teardown | split

theorem keep_writeQueueQuota {b0 b : Blk} (h : Keep b0 b) (p q : Nat) : Keep b0 (Blk.writeQueueQuota b p q).1 := by
  unfold Blk.writeQueueQuota
  (try dsimp only)
  repeat' first | with_reducible assumption | with_reducible apply keep_modPlot | with_reducible apply keep_raiseS | with_reducible apply keep_Od_ok | with_reducible apply keep_Od_no | split

theorem keep_writeHbmRange {b0 b : Blk} (h : Keep b0 b) (p : Nat) (v : BitVec 128) : Keep b0 (Blk.writeHbmRange b p v).1 := by
  unfold Blk.writeHbmRange
  (try dsimp only)
  repeat' first | with_reducible assumption | with_reducible apply keep_each | with_reducible apply keep_modPlot | with_reducible apply keep_raiseS | with_reducible apply keep_Od_ok | with_reducible apply keep_Od_no | split | intro _

theorem keep_writePlotCfg {b0 b : Blk} (h : Keep b0 b) (p sub : Nat) (xs : Bytes) : Keep b0 (Blk.writePlotCfg b p sub xs).1 := by
  unfold Blk.writePlotCfg
  (try dsimp only)
  repeat' first | with_reducible assumption | with_reducible apply keep_modPlot | with_reducible apply keep_Od_ok | with_reducible apply keep_Od_no | with_reducible apply keep_each | with_reducible apply keep_modTile | with_reducible apply keep_upd | simp only [upd_eq] | split | intro _ | (intro (hx : HostOk _); exact hx) | (intro (hx : FwOk _); exact hx)

theorem keep_writeGraftMap {b0 b : Blk} (h : Keep b0 b) (p old : Nat) (v : BitVec 16) : Keep b0 (Blk.writeGraftMap b p old v).1 := by
  unfold Blk.writeGraftMap
  (try dsimp only)
  repeat' first | with_reducible assumption | with_reducible apply keep_modPlot | with_reducible apply keep_Od_ok | with_reducible apply keep_Od_no | split

theorem keep_writeGraftHold {b0 b : Blk} (h : Keep b0 b) (p v : Nat) : Keep b0 (Blk.writeGraftHold b p v).1 := by
  unfold Blk.writeGraftHold
  (try dsimp only)
  repeat' first | with_reducible assumption | with_reducible apply keep_modPlot | with_reducible apply keep_Od_ok | with_reducible apply keep_Od_no | split

end Sys2Proof.Laws
end

