-- ==== Sys2Proof/Laws/KeepManagement.lean ====
section
/-! SUPPORT. The relation Keep through the vault, the dictionary, the management network, the tick and the host window. -/
namespace Sys2Proof.Laws
open Sys2Proof Sys2Proof.Machine Sys2Proof.Safety

/-! ### Spdm -/

theorem keep_vaultSay {b0 b : Blk} (h : Keep b0 b) (kind code : Nat) (body : Bytes) : Keep b0 (Blk.vaultSay b kind code body) := by
  unfold Blk.vaultSay
  (try dsimp only)
  repeat' first | with_reducible assumption | with_reducible apply keep_upd | with_reducible apply keep_reply | simp only [upd_eq] | (intro (hx : HostOk _); exact hx) | (intro (hx : FwOk _); exact hx) | split | intro _

theorem keep_spdmOk {b0 b : Blk} (h : Keep b0 b) (code session : Nat) (args : Bytes) : Keep b0 (Blk.spdmOk b code session args) := by
  unfold Blk.spdmOk
  (try dsimp only)
  repeat' first | with_reducible assumption | with_reducible apply keep_vaultSay

theorem keep_spdmErr {b0 b : Blk} (h : Keep b0 b) (code : Nat) : Keep b0 (Blk.spdmErr b code) := by
  unfold Blk.spdmErr
  (try dsimp only)
  repeat' first | with_reducible assumption | with_reducible apply keep_vaultSay

theorem keep_setNegotiated {b0 b : Blk} (h : Keep b0 b) (ch : Channel) (n : Nat) : Keep b0 (Blk.setNegotiated b ch n) := by
  unfold Blk.setNegotiated
  (try dsimp only)
  repeat' first | with_reducible assumption | with_reducible apply keep_upd | simp only [upd_eq] | (intro (hx : HostOk _); exact hx) | (intro (hx : FwOk _); exact hx)

theorem keep_negotiatedAt {b0 b : Blk} (h : Keep b0 b) (ch : Channel) (n : Nat) {f : Blk → Blk} (hf : Keep b0 (f b)) :
    Keep b0 (Blk.negotiatedAt b ch n f) := by
  unfold Blk.negotiatedAt
  repeat' first | exact hf | exact keep_spdmErr h _ | split

theorem keep_certificate {b0 b : Blk} (h : Keep b0 b) (offset len : Nat) : Keep b0 (Blk.certificate b offset len) := by
  unfold Blk.certificate
  (try dsimp only)
  repeat' first | with_reducible assumption | with_reducible apply keep_vaultSay | with_reducible apply keep_drop | split | intro _

theorem keep_setSession {b0 b : Blk} (h : Keep b0 b) (i : Nat) (x : Session) : Keep b0 (Blk.setSession b i x) := by
  unfold Blk.setSession
  (try dsimp only)
  repeat' first | with_reducible assumption | with_reducible apply keep_upd | simp only [upd_eq] | (intro (hx : HostOk _); exact hx) | (intro (hx : FwOk _); exact hx)

theorem keep_keyExchange {b0 b : Blk} (h : Keep b0 b) (ch : Channel) : Keep b0 (Blk.keyExchange b ch) := by
  unfold Blk.keyExchange
  (try dsimp only)
  repeat' first | with_reducible assumption | with_reducible apply keep_spdmOk | with_reducible apply keep_spdmErr | with_reducible apply keep_setSession | with_reducible apply keep_draw | split

theorem keep_challenged {b0 b : Blk} (h : Keep b0 b) (nonce : Bytes) : Keep b0 (Blk.challenged b nonce) := by
  unfold Blk.challenged
  (try dsimp only)
  repeat' first | with_reducible assumption | with_reducible apply keep_spdmOk | with_reducible apply keep_spdmErr | with_reducible apply keep_draw | split

theorem keep_measured {b0 b : Blk} (h : Keep b0 b) (session : Option Nat) (index : Nat) (nonce : Bytes) : Keep b0 (Blk.measured b session index nonce) := by
  unfold Blk.measured
  (try dsimp only)
  repeat' first | with_reducible assumption | with_reducible apply keep_vaultSay | with_reducible apply keep_spdmOk | with_reducible apply keep_spdmErr | with_reducible apply keep_draw | split

theorem keep_vaultRun {b0 b : Blk} (h : Keep b0 b) (ch : Channel) (j : VaultJob) : Keep b0 (b.vaultRun ch j) := by
  unfold Blk.vaultRun
  repeat' first | with_reducible assumption | with_reducible apply keep_keyExchange | with_reducible apply keep_challenged | with_reducible apply keep_measured | split

theorem keep_needRandom {b0 b : Blk} (h : Keep b0 b) (ch : Channel) (j : VaultJob) : Keep b0 (Blk.needRandom b ch j) := by
  unfold Blk.needRandom
  (try dsimp only)
  repeat' first | with_reducible assumption | with_reducible apply keep_upd | with_reducible apply keep_spdmErr | with_reducible apply keep_vaultRun | simp only [upd_eq] | split | (intro (hx : HostOk _); exact hx) | (intro (hx : FwOk _); exact hx)

theorem keep_inSession {b0 b : Blk} (h : Keep b0 b) (i : Nat) {f : Session → Blk} (hf : ∀ x, Keep b0 (f x)) :
    Keep b0 (Blk.inSession b i f) := by
  unfold Blk.inSession
  repeat' first | exact hf _ | exact keep_spdmErr h _ | split

theorem keep_finishSession {b0 b : Blk} (h : Keep b0 b) (i : Nat) (key : Option Bytes) : Keep b0 (Blk.finishSession b i key) := by
  unfold Blk.finishSession
  (try dsimp only)
  repeat' first | with_reducible assumption | with_reducible apply keep_spdmOk | with_reducible apply keep_spdmErr | with_reducible apply keep_setSession | split

theorem keep_endSession {b0 b : Blk} (h : Keep b0 b) (i : Nat) : Keep b0 (Blk.endSession b i) := by
  unfold Blk.endSession
  (try dsimp only)
  repeat' first | with_reducible assumption | with_reducible apply keep_upd | with_reducible apply keep_spdmOk | with_reducible apply keep_inSession | simp only [upd_eq] | (intro (hx : HostOk _); exact hx) | (intro (hx : FwOk _); exact hx) | intro _

theorem keep_chunkIn {b0 b : Blk} (h : Keep b0 b) (first : Bool) (part : Bytes) : Keep b0 (Blk.chunkIn b first part) := by
  unfold Blk.chunkIn
  (try dsimp only)
  repeat' first | with_reducible assumption | with_reducible apply keep_upd | simp only [upd_eq] | (intro (hx : HostOk _); exact hx) | (intro (hx : FwOk _); exact hx)

theorem keep_failWaiting {b0 b : Blk} (h : Keep b0 b)  : Keep b0 (Blk.failWaiting b) := by
  unfold Blk.failWaiting
  (try dsimp only)
  repeat' first | with_reducible assumption | with_reducible apply keep_upd | with_reducible apply keep_spdmErr | simp only [upd_eq] | split | (intro (hx : HostOk _); exact hx) | (intro (hx : FwOk _); exact hx)

theorem keep_rngHealth {b0 b : Blk} (h : Keep b0 b) (test : BitVec 32) : Keep b0 (Blk.rngHealth b test) := by
  unfold Blk.rngHealth
  (try dsimp only)
  repeat' first | with_reducible assumption | with_reducible apply keep_upd | with_reducible apply keep_raiseS | with_reducible apply keep_failWaiting | simp only [upd_eq] | split | (intro (hx : HostOk _); exact hx) | (intro (hx : FwOk _); exact hx)

theorem keep_rngRestart {b0 b : Blk} (h : Keep b0 b)  : Keep b0 (Blk.rngRestart b) := by
  unfold Blk.rngRestart
  split
  · exact h
  · dsimp only
    refine keep_each ?_ fun b x hb => keep_vaultRun hb x.1 x.2
    rw [upd_eq]; exact keep_upd h id id


theorem keep_rngTimeout {b0 b : Blk} (h : Keep b0 b)  : Keep b0 (Blk.rngTimeout b) := by
  unfold Blk.rngTimeout
  (try dsimp only)
  repeat' first | with_reducible assumption | with_reducible apply keep_upd | with_reducible apply keep_spdmErr | simp only [upd_eq] | split | (intro (hx : HostOk _); exact hx) | (intro (hx : FwOk _); exact hx)

theorem keep_vendor {b0 b : Blk} (h : Keep b0 b) (result : Nat) : Keep b0 (Blk.vendor b result) := by
  unfold Blk.vendor
  (try dsimp only)
  repeat' first | with_reducible assumption | with_reducible apply keep_vaultSay

theorem keep_inMutual {b0 b : Blk} (h : Keep b0 b) (i : Nat) {f : Session → Bytes → Blk} (hf : ∀ x y, Keep b0 (f x y)) :
    Keep b0 (Blk.inMutual b i f) := by
  unfold Blk.inMutual
  repeat' first | exact hf _ _ | exact keep_vendor h _ | split

theorem keep_plotClaim {b0 b : Blk} (h : Keep b0 b) (i p : Nat) : Keep b0 (Blk.plotClaim b i p) := by
  unfold Blk.plotClaim
  (try dsimp only)
  repeat' first | with_reducible assumption | with_reducible apply keep_setSession | with_reducible apply keep_vendor | with_reducible apply keep_inMutual | split | intro _

theorem keep_inClaim {b0 b : Blk} (h : Keep b0 b) (i : Nat) {f : Nat → Blk} (hf : ∀ p, Keep b0 (f p)) : Keep b0 (Blk.inClaim b i f) := by
  unfold Blk.inClaim
  refine keep_inMutual h i fun x y => ?_
  split
  · exact hf _
  · exact keep_vendor h _


theorem keep_modKeys {b0 b : Blk} (h : Keep b0 b) (p : Nat) (f : PlotKeys → PlotKeys) : Keep b0 (Blk.modKeys b p f) := by
  unfold Blk.modKeys
  (try dsimp only)
  repeat' first | with_reducible assumption | with_reducible apply keep_modPlot

theorem keep_zeroPktNum {b0 b : Blk} (h : Keep b0 b) (p : Nat) (ph : Bool) : Keep b0 (Blk.zeroPktNum b p ph) := by
  unfold Blk.zeroPktNum
  (try dsimp only)
  repeat' first | with_reducible assumption | with_reducible apply keep_each | with_reducible apply keep_modEg | intro _

theorem keep_keySet {b0 b : Blk} (h : Keep b0 b) (i : Nat) (ph : Bool) (key : Bytes) : Keep b0 (Blk.keySet b i ph key) := by
  unfold Blk.keySet
  (try dsimp only)
  repeat' first | with_reducible assumption | with_reducible apply keep_vendor | with_reducible apply keep_inClaim | with_reducible apply keep_modKeys | with_reducible apply keep_zeroPktNum | split | intro _

theorem keep_txPhase {b0 b : Blk} (h : Keep b0 b) (i : Nat) (ph : Bool) : Keep b0 (Blk.txPhase b i ph) := by
  unfold Blk.txPhase
  (try dsimp only)
  repeat' first | with_reducible assumption | with_reducible apply keep_vendor | with_reducible apply keep_inClaim | with_reducible apply keep_modKeys | split | intro _

theorem keep_phaseRetire {b0 b : Blk} (h : Keep b0 b) (i : Nat) (ph : Bool) (hold : Nat) : Keep b0 (Blk.phaseRetire b i ph hold) := by
  unfold Blk.phaseRetire
  (try dsimp only)
  repeat' first | with_reducible assumption | with_reducible apply keep_vendor | with_reducible apply keep_inClaim | with_reducible apply keep_modKeys | split | intro _

theorem keep_phaseHoldEnd {b0 b : Blk} (h : Keep b0 b) (p : Nat) (ph : Bool) : Keep b0 (Blk.phaseHoldEnd b p ph) := by
  unfold Blk.phaseHoldEnd
  (try dsimp only)
  repeat' first | with_reducible assumption | with_reducible apply keep_modKeys | split

theorem keep_secFlags {b0 b : Blk} (h : Keep b0 b) (i : Nat) (v : BitVec 8) : Keep b0 (Blk.secFlags b i v) := by
  unfold Blk.secFlags
  (try dsimp only)
  repeat' first | with_reducible assumption | with_reducible apply keep_vendor | with_reducible apply keep_inClaim | with_reducible apply keep_modKeys | intro _

/-! ### Vault -/

theorem keep_ideErr {b0 b : Blk} (h : Keep b0 b)  : Keep b0 (Blk.ideErr b) := by
  unfold Blk.ideErr
  (try dsimp only)
  repeat' first | with_reducible assumption | with_reducible apply keep_vaultSay

theorem keep_inIde {b0 b : Blk} (h : Keep b0 b) (i : Nat) {f : Blk → Blk} (hf : Keep b0 (f b)) : Keep b0 (Blk.inIde b i f) := by
  unfold Blk.inIde
  repeat' first | exact hf | exact keep_ideErr h | split

theorem keep_setIde {b0 b : Blk} (h : Keep b0 b) (k : IdeKeyId) (s : IdeState) : Keep b0 (Blk.setIde b k s) := by
  unfold Blk.setIde
  (try dsimp only)
  repeat' first | with_reducible assumption | with_reducible apply keep_upd | simp only [upd_eq] | (intro (hx : HostOk _); exact hx) | (intro (hx : FwOk _); exact hx)

theorem keep_idePut {b0 b : Blk} (h : Keep b0 b) (c : IdeCmd) : Keep b0 (Blk.idePut b c) := by
  unfold Blk.idePut
  (try dsimp only)
  repeat' first | with_reducible assumption | with_reducible apply keep_upd | with_reducible apply keep_spdmErr | simp only [upd_eq] | split | (intro (hx : HostOk _); exact hx) | (intro (hx : FwOk _); exact hx)

theorem keep_ideAnswer {b0 b : Blk} (h : Keep b0 b) (ack : Bool) : Keep b0 (Blk.ideAnswer b ack) := by
  unfold Blk.ideAnswer
  (try dsimp only)
  repeat' first | with_reducible assumption | with_reducible apply keep_upd | with_reducible apply keep_vaultSay | with_reducible apply keep_ideErr | with_reducible apply keep_setIde | simp only [upd_eq] | split | (intro (hx : HostOk _); exact hx) | (intro (hx : FwOk _); exact hx)

theorem keep_writeIdeManager {b0 b : Blk} (h : Keep b0 b) (ch : Channel) (xs : Bytes) : Keep b0 (Blk.writeIdeManager b ch xs).1 := by
  unfold Blk.writeIdeManager
  (try dsimp only)
  repeat' first | with_reducible assumption | with_reducible apply keep_upd | with_reducible apply keep_Od_no | with_reducible apply keep_storeThen | simp only [upd_eq] | split | (intro (hx : HostOk _); exact hx) | (intro (hx : FwOk _); exact hx) | intro _

theorem keep_capEvent {b0 b : Blk} (h : Keep b0 b) (p result : Nat) (id : Bytes) : Keep b0 (Blk.capEvent b p result id) := by
  unfold Blk.capEvent
  (try dsimp only)
  repeat' first | with_reducible assumption | with_reducible apply keep_raiseP | with_reducible apply keep_drop | split | intro _

theorem keep_capsuleUnwrap {b0 b : Blk} (h : Keep b0 b) (p : Nat) (v : BitVec 128) : Keep b0 (Blk.capsuleUnwrap b p v) := by
  unfold Blk.capsuleUnwrap
  (try dsimp only)
  repeat' first | with_reducible assumption | with_reducible apply keep_upd | with_reducible apply keep_countSys | with_reducible apply keep_capBegin | with_reducible apply keep_capEvent | simp only [upd_eq] | split | (intro (hx : HostOk _); exact hx) | (intro (hx : FwOk _); exact hx)

theorem keep_unseal {b0 b : Blk} (h : Keep b0 b) (c : CapReq) : Keep b0 (Blk.unseal b c) := by
  unfold Blk.unseal
  (try dsimp only)
  repeat' first | with_reducible assumption | with_reducible apply keep_modTile

theorem keep_capOpen {b0 b : Blk} (h : Keep b0 b) (c : CapReq) : Keep b0 (Blk.capOpen b c).1 := by
  unfold Blk.capOpen
  split
  · repeat' first | with_reducible assumption | with_reducible apply keep_zeroSram | with_reducible apply keep_unseal
  · dsimp only
    split
    · repeat' first | with_reducible assumption | with_reducible apply keep_zeroSram | with_reducible apply keep_unseal
    · split
      · dsimp only
        apply keep_modKeys
        apply keep_modKeys
        apply keep_writeSram
        exact h
      · dsimp only
        apply keep_unseal
        apply keep_modKeys
        apply keep_writeSram
        exact h


theorem keep_capsuleDone {b0 b : Blk} (h : Keep b0 b)  : Keep b0 (Blk.capsuleDone b) := by
  unfold Blk.capsuleDone
  (try dsimp only)
  repeat' first | with_reducible assumption | with_reducible apply keep_upd | with_reducible apply keep_capBegin | with_reducible apply keep_capEvent | with_reducible apply keep_capOpen | simp only [upd_eq] | split | (intro (hx : HostOk _); exact hx) | (intro (hx : FwOk _); exact hx)

/-! ### Wear -/

theorem keep_writeWear {b0 b : Blk} (h : Keep b0 b) (sel : BitVec 16) (v : BitVec 64) : Keep b0 (Blk.writeWear b sel v).1 := by
  unfold Blk.writeWear
  (try dsimp only)
  repeat' first | with_reducible assumption | with_reducible apply keep_upd | with_reducible apply keep_Od_ok | simp only [upd_eq] | split | (intro (hx : HostOk _); exact hx) | (intro (hx : FwOk _); exact hx)

theorem keep_writeWearCfg {b0 b : Blk} (h : Keep b0 b) (sub v : Nat) : Keep b0 (Blk.writeWearCfg b sub v).1 := by
  unfold Blk.writeWearCfg
  (try dsimp only)
  repeat' first | with_reducible assumption | with_reducible apply keep_upd | with_reducible apply keep_Od_ok | with_reducible apply keep_Od_no | simp only [upd_eq] | split | (intro (hx : HostOk _); exact hx) | (intro (hx : FwOk _); exact hx)

theorem keep_writeLibrary {b0 b : Blk} (h : Keep b0 b) (i : Nat) (v : BitVec 64) : Keep b0 (Blk.writeLibrary b i v).1 := by
  unfold Blk.writeLibrary
  (try dsimp only)
  repeat' first | with_reducible assumption | with_reducible apply keep_upd | with_reducible apply keep_Od_ok | with_reducible apply keep_Od_no | simp only [upd_eq] | split | (intro (hx : HostOk _); exact hx) | (intro (hx : FwOk _); exact hx)

theorem keep_linkRetry {b0 b : Blk} (h : Keep b0 b) (port : Bool) (i : Nat) : Keep b0 (Blk.linkRetry b port i) := by
  unfold Blk.linkRetry
  (try dsimp only)
  repeat' first | with_reducible assumption | with_reducible apply keep_count | with_reducible apply keep_addWear | split

theorem keep_linkRetrain {b0 b : Blk} (h : Keep b0 b) (port : Bool) (i : Nat) (failed : Bool) : Keep b0 (Blk.linkRetrain b port i failed) := by
  unfold Blk.linkRetrain
  (try dsimp only)
  repeat' first | with_reducible assumption | with_reducible apply keep_count | with_reducible apply keep_declare | with_reducible apply keep_addWear | split

/-! ### Dictionary -/

theorem keep_setKeySlot {b0 b : Blk} (h : Keep b0 b) (slot : Bool) (xs : Bytes) : Keep b0 (Blk.setKeySlot b slot xs) := by
  unfold Blk.setKeySlot
  (try dsimp only)
  repeat' first | with_reducible assumption | with_reducible apply keep_upd | with_reducible apply keep_closeXfer | simp only [upd_eq] | split | (intro (hx : HostOk _); exact hx) | (intro (hx : FwOk _); exact hx)

theorem keep_writeKeySlot {b0 b : Blk} (h : Keep b0 b) (ch : Channel) (slot : Bool) (xs : Bytes) : Keep b0 (Blk.writeKeySlot b ch slot xs).1 := by
  unfold Blk.writeKeySlot
  (try dsimp only)
  repeat' first | with_reducible assumption | with_reducible apply keep_upd | with_reducible apply keep_Od_no | with_reducible apply keep_storeThen | with_reducible apply keep_replayJournal | with_reducible apply keep_setKeySlot | simp only [upd_eq] | split | (intro (hx : HostOk _); exact hx) | (intro (hx : FwOk _); exact hx) | intro _

theorem keep_writeMgmt {b0 b : Blk} (h : Keep b0 b) (sub : Nat) (xs : Bytes) : Keep b0 (Blk.writeMgmt b sub xs).1 := by
  unfold Blk.writeMgmt
  (try dsimp only)
  repeat' first | with_reducible assumption | with_reducible apply keep_upd | with_reducible apply keep_Od_no | with_reducible apply keep_storeThen | simp only [upd_eq] | split | (intro (hx : HostOk _); exact hx) | (intro (hx : FwOk _); exact hx) | intro _

theorem keep_writeSel {b0 b : Blk} (h : Keep b0 b) (ch : Channel) (ok : Bool) (f : Sels → Sels) : Keep b0 (Blk.writeSel b ch ok f).1 := by
  unfold Blk.writeSel
  (try dsimp only)
  repeat' first | with_reducible assumption | with_reducible apply keep_Od_ok | with_reducible apply keep_Od_no | with_reducible apply keep_modSels | split

theorem keep_writeSelector {b0 b : Blk} (h : Keep b0 b) (ch : Channel) (index v : Nat) : Keep b0 (Blk.writeSelector b ch index v).1 := by
  unfold Blk.writeSelector
  (try dsimp only)
  repeat' first | with_reducible assumption | with_reducible apply keep_writeSel | with_reducible apply keep_stage | with_reducible apply keep_upd | simp only [upd_eq] | split | intro _ | (intro (hx : HostOk _); exact hx) | (intro (hx : FwOk _); exact hx)

theorem keep_writeSown {b0 b : Blk} (h : Keep b0 b) (ch : Channel) (index sub v : Nat) : Keep b0 (Blk.writeSown b ch index sub v).1 := by
  unfold Blk.writeSown
  (try dsimp only)
  repeat' first | with_reducible assumption | with_reducible apply keep_Od_no | with_reducible apply keep_loadStart | with_reducible apply keep_arm | with_reducible apply keep_disarm | with_reducible apply keep_writeSwapFrame | with_reducible apply keep_writeEntry | with_reducible apply keep_writeDesc | with_reducible apply keep_writeRoute | with_reducible apply keep_writeExpertSel | with_reducible apply keep_expertCheck | with_reducible apply keep_route | with_reducible apply keep_upd | simp only [upd_eq] | split | intro _ | (intro (hx : HostOk _); exact hx) | (intro (hx : FwOk _); exact hx)

theorem keep_writeTile {b0 b : Blk} (h : Keep b0 b) (index sub v t : Nat) : Keep b0 (Blk.writeTile index sub v t b).1 := by
  unfold Blk.writeTile
  (try dsimp only)
  repeat' first | with_reducible assumption | with_reducible apply keep_modTile | with_reducible apply keep_writeRd | with_reducible apply keep_Od_ok | with_reducible apply keep_modOb | with_reducible apply keep_clearOvf | with_reducible apply keep_writePmc | with_reducible apply keep_clearHist | with_reducible apply keep_thaw | with_reducible apply keep_fbPop | with_reducible apply keep_upd | simp only [upd_eq] | split | intro _ | (intro (hx : HostOk _); exact hx) | (intro (hx : FwOk _); exact hx)

theorem keep_writeTraffic {b0 b : Blk} (h : Keep b0 b) (ch : Channel) (index v : Nat) : Keep b0 (Blk.writeTraffic b ch index v).1 := by
  unfold Blk.writeTraffic
  (try dsimp only)
  repeat' first | with_reducible assumption | with_reducible apply keep_writeSieve | with_reducible apply keep_writeLookup | with_reducible apply keep_writeClass | with_reducible apply keep_writeMeter | split

theorem keep_portCmd {b0 : Blk} {r : Od} (h : Keep b0 r.1) (p : Nat) : Keep b0 (Blk.portCmd p r).1 := keep_note h _

theorem keep_portCommand {b0 b : Blk} (h : Keep b0 b) (p v : Nat) : Keep b0 (Blk.portCommand b p v).1 := by
  unfold Blk.portCommand
  (try dsimp only)
  repeat' first | with_reducible assumption | with_reducible apply keep_portCmd | with_reducible apply keep_Od_ok | with_reducible apply keep_Od_no | with_reducible apply keep_portDown | with_reducible apply keep_portDrain | with_reducible apply keep_portUp | split

theorem keep_writePort {b0 b : Blk} (h : Keep b0 b) (ch : Channel) (p sub v : Nat) : Keep b0 (Blk.writePort b ch p sub v).1 := by
  unfold Blk.writePort
  (try dsimp only)
  repeat' first | with_reducible assumption | with_reducible apply keep_modPort | with_reducible apply keep_Od_ok | with_reducible apply keep_Od_no | with_reducible apply keep_writePortCtrl | with_reducible apply keep_writeFacing | with_reducible apply keep_writeEgQueue | with_reducible apply keep_writeShaper | with_reducible apply keep_writeGate | with_reducible apply keep_writePools | with_reducible apply keep_writePortPwr | with_reducible apply keep_writeSel | with_reducible apply keep_portCommand | split

theorem keep_writeCal {b0 b : Blk} (h : Keep b0 b) (sub v : Nat) : Keep b0 (Blk.writeCal b sub v).1 := by
  unfold Blk.writeCal
  (try dsimp only)
  repeat' first | with_reducible assumption | with_reducible apply keep_upd | with_reducible apply keep_Od_ok | with_reducible apply keep_Od_no | simp only [upd_eq] | split | (intro (hx : HostOk _); exact hx) | (intro (hx : FwOk _); exact hx)

theorem keep_writePlant {b0 b : Blk} (h : Keep b0 b) (ch : Channel) (index sub v : Nat) : Keep b0 (Blk.writePlant b ch index sub v).1 := by
  unfold Blk.writePlant
  (try dsimp only)
  repeat' first | with_reducible assumption | with_reducible apply keep_writeLoop | with_reducible apply keep_writeOptPort | with_reducible apply keep_writeClusterCmd | with_reducible apply keep_writeBlockCmd | with_reducible apply keep_writePwrCtrl | with_reducible apply keep_writeGroup | with_reducible apply keep_writeWear | with_reducible apply keep_writeWearCfg | with_reducible apply keep_writeLibrary | with_reducible apply keep_writeCal | split

theorem keep_writeObs {b0 b : Blk} (h : Keep b0 b) (index sub : Nat) (xs : Bytes) : Keep b0 (Blk.writeObs b index sub xs).1 := by
  unfold Blk.writeObs
  (try dsimp only)
  repeat' first | with_reducible assumption | with_reducible apply keep_upd | with_reducible apply keep_Od_ok | with_reducible apply keep_writeRakeK | with_reducible apply keep_writeRakeBase | with_reducible apply keep_writeHangBase | with_reducible apply keep_writeTraceCtrl | with_reducible apply keep_markerSend | simp only [upd_eq] | split | (intro (hx : HostOk _); exact hx) | (intro (hx : FwOk _); exact hx)

theorem keep_writePlot {b0 b : Blk} (h : Keep b0 b) (ch : Channel) (sub : Nat) (xs : Bytes) : Keep b0 (Blk.writePlot b ch sub xs).1 := by
  unfold Blk.writePlot
  (try dsimp only)
  repeat' first | with_reducible assumption | with_reducible apply keep_writeSownQuota | with_reducible apply keep_plotCommand | with_reducible apply keep_writeQueueQuota | with_reducible apply keep_writeHbmRange | with_reducible apply keep_writePlotCfg | with_reducible apply keep_writeGraftMap | with_reducible apply keep_writeGraftHold | with_reducible apply keep_writeSel | split

theorem keep_writeReport {b0 b : Blk} (h : Keep b0 b) (ch : Channel) (xs : Bytes) : Keep b0 (Blk.writeReport b ch xs).1 := by
  unfold Blk.writeReport
  (try dsimp only)
  repeat' first | with_reducible assumption | with_reducible apply keep_upd | with_reducible apply keep_Od_ok | with_reducible apply keep_drop | simp only [upd_eq] | (intro (hx : HostOk _); exact hx) | (intro (hx : FwOk _); exact hx) | split | intro _

theorem keep_writeFw {b0 b : Blk} (h : Keep b0 b) (ch : Channel) (index sub v : Nat) : Keep b0 (Blk.writeFw b ch index sub v).1 := by
  unfold Blk.writeFw
  (try dsimp only)
  repeat' first | with_reducible assumption | with_reducible apply keep_restart | with_reducible apply keep_selfTestStart | with_reducible apply keep_fwCmd | split

theorem keep_ite1 {b0 : Blk} {c : Prop} [Decidable c] {x y : Od} (hx : Keep b0 x.1) (hy : Keep b0 y.1) :
    Keep b0 (if c then x else y).1 := by
  split
  · exact hx
  · exact hy

theorem keep_odStore {b0 b : Blk} (h : Keep b0 b) (ch : Channel) (index sub : Nat) (xs : Bytes) : Keep b0 (Blk.odStore b ch index sub xs).1 := by
  unfold Blk.odStore
  dsimp only
  refine keep_ite1 (keep_writeSelector h _ _ _) ?_
  refine keep_ite1 (keep_odTile h _ fun t => keep_writeTile h _ _ _ _) ?_
  refine keep_ite1 (keep_odTile h _ fun t => keep_writeCounter h _ _ _) ?_
  refine keep_ite1 (keep_writeMgmt h _ _) ?_
  refine keep_ite1 (keep_writeKeySlot h _ _ _) ?_
  refine keep_ite1 (keep_storeThen h _ _ fun b1 h1 => ?_) ?_
  · rw [upd_eq]; exact keep_upd h1 id id
  refine keep_ite1 (keep_writeSown h _ _ _ _) ?_
  refine keep_ite1 (keep_writeTraffic h _ _ _) ?_
  refine keep_ite1 (keep_writePort h _ _ _ _) ?_
  refine keep_ite1 (keep_writePlant h _ _ _ _) ?_
  refine keep_ite1 (keep_writeObs h _ _ _) ?_
  refine keep_ite1 (keep_writePlot h _ _ _) ?_
  refine keep_ite1 (keep_writeReport h _ _) ?_
  refine keep_ite1 (keep_writeIdeManager h _ _) ?_
  exact keep_writeFw h _ _ _ _


theorem keep_odWrite {b0 b : Blk} (h : Keep b0 b) (ch : Channel) (index sub : Nat) (xs : Bytes) : Keep b0 (Blk.odWrite b ch index sub xs).1 := by
  unfold Blk.odWrite
  (try dsimp only)
  repeat' first | with_reducible assumption | with_reducible apply keep_Od_no | with_reducible apply keep_odStore | split

theorem keep_doRead {b0 b : Blk} (h : Keep b0 b) (seen : Seen) (ch : Channel) (index sub : Nat) : Keep b0 (Blk.doRead b seen ch index sub) := by
  unfold Blk.doRead
  (try dsimp only)
  repeat' first | with_reducible assumption | with_reducible apply keep_answer | with_reducible apply keep_upd | simp only [upd_eq] | split | intro _ | (intro (hx : HostOk _); exact hx) | (intro (hx : FwOk _); exact hx)

theorem keep_doDescribe {b0 b : Blk} (h : Keep b0 b) (index sub : Nat) : Keep b0 (Blk.doDescribe b index sub) := by
  unfold Blk.doDescribe
  (try dsimp only)
  repeat' first | with_reducible assumption | with_reducible apply keep_answer | split

theorem keep_doHello {b0 b : Blk} (h : Keep b0 b)  : Keep b0 (Blk.doHello b) := by
  unfold Blk.doHello
  (try dsimp only)
  repeat' first | with_reducible assumption | with_reducible apply keep_answer

theorem keep_doSegWrite {b0 b : Blk} (h : Keep b0 b) (ch : Channel) (index sub total : Nat) (xcrc : BitVec 32) : Keep b0 (Blk.doSegWrite b ch index sub total xcrc).1 := by
  unfold Blk.doSegWrite
  (try dsimp only)
  repeat' first | with_reducible assumption | with_reducible apply keep_Od_no | with_reducible apply keep_domainOpen | split

theorem keep_doSegRead {b0 b : Blk} (h : Keep b0 b) (ch : Channel) (index sub : Nat) : Keep b0 (Blk.doSegRead b ch index sub).1 := by
  unfold Blk.doSegRead
  (try dsimp only)
  repeat' first | with_reducible assumption | with_reducible apply keep_Od_ok | with_reducible apply keep_Od_no | with_reducible apply keep_setXfer | split

/-! ### Moa -/

theorem keep_moaRequest {b0 b : Blk} (h : Keep b0 b) (seen : Seen) (ch : Channel) (xs : Bytes) : Keep b0 (Blk.moaRequest b seen ch xs) := by
  unfold Blk.moaRequest
  (try dsimp only)
  repeat' first | with_reducible assumption | with_reducible apply keep_answer | with_reducible apply keep_segAbort | with_reducible apply keep_odWrite | with_reducible apply keep_doRead | with_reducible apply keep_doDescribe | with_reducible apply keep_doHello | with_reducible apply keep_doSegWrite | with_reducible apply keep_doSegRead | with_reducible apply keep_odAnswer | with_reducible apply keep_upd | simp only [upd_eq] | split | intro _ | (intro (hx : HostOk _); exact hx) | (intro (hx : FwOk _); exact hx)

theorem keep_moaExec {b0 b : Blk} (h : Keep b0 b) (seen : Seen) (ch : Channel) (boot : Nat) (xs : Bytes) : Keep b0 (Blk.moaExec b seen ch boot xs).1 := by
  unfold Blk.moaExec
  (try dsimp only)
  repeat' first | with_reducible assumption | with_reducible apply keep_segment | with_reducible apply keep_segAck | with_reducible apply keep_moaRequest | split | intro _

theorem keep_setSeqRec {b0 b : Blk} (h : Keep b0 b) (slot : Bool) (r : SeqRec) : Keep b0 (Blk.setSeqRec b slot r) := by
  unfold Blk.setSeqRec
  (try dsimp only)
  repeat' first | with_reducible assumption | with_reducible apply keep_upd | simp only [upd_eq] | split | (intro (hx : HostOk _); exact hx) | (intro (hx : FwOk _); exact hx)

theorem keep_authFail {b0 b : Blk} (h : Keep b0 b) (slot : Bool) : Keep b0 (Blk.authFail b slot) := by
  unfold Blk.authFail
  (try dsimp only)
  repeat' first | with_reducible assumption | with_reducible apply keep_upd | with_reducible apply keep_countSys | with_reducible apply keep_raiseS | simp only [upd_eq] | split | (intro (hx : HostOk _); exact hx) | (intro (hx : FwOk _); exact hx)

theorem keep_moaReceive {b0 b : Blk} (h : Keep b0 b) (seen : Seen) (xs : Bytes) : Keep b0 (Blk.moaReceive b seen xs).1 := by
  unfold Blk.moaReceive
  (try dsimp only)
  repeat' first | with_reducible assumption | with_reducible apply keep_countSys | with_reducible apply keep_answer | with_reducible apply keep_doHello | with_reducible apply keep_moaExec | with_reducible apply keep_setSeqRec | with_reducible apply keep_authFail | split | intro _

theorem keep_mgmtSend {b0 b : Blk} (h : Keep b0 b) (frames : List Bytes) : Keep b0 (Blk.mgmtSend b frames) := by
  unfold Blk.mgmtSend
  (try dsimp only)
  repeat' first | with_reducible assumption | with_reducible apply keep_upd | simp only [upd_eq] | (intro (hx : HostOk _); exact hx) | (intro (hx : FwOk _); exact hx)

theorem keep_moaArrives {b0 b : Blk} (h : Keep b0 b) (seen : Seen) (frame : Bytes) (good : Bool) : Keep b0 (Blk.moaArrives b seen frame good) := by
  unfold Blk.moaArrives
  (try dsimp only)
  repeat' first | with_reducible assumption | with_reducible apply keep_countSys | with_reducible apply keep_moaReceive | with_reducible apply keep_mgmtSend | with_reducible apply keep_upd | simp only [upd_eq] | split | intro _ | (intro (hx : HostOk _); exact hx) | (intro (hx : FwOk _); exact hx)

/-! ### Tick -/

theorem keep_lockFences {b0 b : Blk} (h : Keep b0 b) (die : Nat) : Keep b0 (Blk.lockFences b die) := by
  unfold Blk.lockFences
  (try dsimp only)
  repeat' first | with_reducible assumption | with_reducible apply keep_each | with_reducible apply keep_modDie | with_reducible apply keep_unfence | split | intro _

/-- The block as a tick begins (R41). -/
theorem keep_frameOn (b : Blk) :
    Keep { b with clk := { b.clk with frame := b.clk.frame + 1, offset := 0, due := false }, fault := { b.fault with linkErr := [] } } b.frameOn := by
  unfold Blk.frameOn
  exact keep_each (Keep.rfl _) fun b x hb => keep_lockFences hb x

theorem keep_swapFences {b0 b : Blk} (h : Keep b0 b)  : Keep b0 (Blk.swapFences b) := by
  unfold Blk.swapFences
  dsimp only
  split
  · exact h
  · rw [upd_eq]; exact keep_upd h id id

theorem keep_failoverDone {b0 b : Blk} (h : Keep b0 b)  : Keep b0 (Blk.failoverDone b) := by
  unfold Blk.failoverDone
  (try dsimp only)
  repeat' first | with_reducible assumption | with_reducible apply keep_upd | with_reducible apply keep_tellFault | simp only [upd_eq] | split | (intro (hx : HostOk _); exact hx) | (intro (hx : FwOk _); exact hx)

theorem keep_flushed {b0 b : Blk} (h : Keep b0 b) (t plot furrow n : Nat) : Keep b0 (Blk.flushed b t plot furrow n) := by
  unfold Blk.flushed
  (try dsimp only)
  repeat' first | with_reducible assumption | with_reducible apply keep_countN | with_reducible apply keep_raiseP | split

theorem keep_sowLost {b0 b : Blk} (h : Keep b0 b) (t plot furrow : Nat) : Keep b0 (Blk.sowLost b t plot furrow) := by
  unfold Blk.sowLost
  (try dsimp only)
  repeat' first | with_reducible assumption | with_reducible apply keep_modSheaf | with_reducible apply keep_finished | with_reducible apply keep_upd | simp only [upd_eq] | split | intro _ | (intro (hx : HostOk _); exact hx) | (intro (hx : FwOk _); exact hx)

theorem keep_portLost {b0 b : Blk} (h : Keep b0 b) (q : List StagedDfp) (t : Nat) (d : BitVec 128) : Keep b0 (Blk.portLost b q t d) := by
  unfold Blk.portLost
  (try dsimp only)
  repeat' first | with_reducible assumption | with_reducible apply keep_foldl1 | with_reducible apply keep_upd | with_reducible apply keep_stage | with_reducible apply keep_flushed | with_reducible apply keep_foldl | simp only [upd_eq] | split | (intro (hx : HostOk _); exact hx) | (intro (hx : FwOk _); exact hx) | intro _

theorem keep_withdraw {b0 b : Blk} (h : Keep b0 b) (held : Tbl (List StagedDfp)) (t : Nat) (d : BitVec 128) : Keep b0 (Blk.withdraw b held t d) := by
  unfold Blk.withdraw
  (try dsimp only)
  repeat' first | with_reducible assumption | with_reducible apply keep_upd | with_reducible apply keep_streamStopIf | with_reducible apply keep_flushed | with_reducible apply keep_sowLost | with_reducible apply keep_portLost | simp only [upd_eq] | split | (intro (hx : HostOk _); exact hx) | (intro (hx : FwOk _); exact hx)

theorem keep_withdrawAll {b0 b : Blk} (h : Keep b0 b) (old : SownVersion) : Keep b0 (Blk.withdrawAll b old) := by
  unfold Blk.withdrawAll
  (try dsimp only)
  repeat' first | with_reducible assumption | with_reducible apply keep_each | with_reducible apply keep_withdraw | with_reducible apply keep_drop | with_reducible apply keep_upd | simp only [upd_eq] | split | intro _ | (intro (hx : HostOk _); exact hx) | (intro (hx : FwOk _); exact hx)

theorem keep_ite {b0 : Blk} {c : Prop} [Decidable c] {x y : Blk} (hx : Keep b0 x) (hy : Keep b0 y) :
    Keep b0 (if c then x else y) := by
  split
  · exact hx
  · exact hy

theorem keep_swap {b0 b : Blk} (h : Keep b0 b)  : Keep b0 (Blk.swap b) := by
  unfold Blk.swap
  dsimp only
  simp only [upd_eq]
  refine keep_ite ?_ (keep_traceTick ?_)
  all_goals
    with_reducible apply keep_failoverDone
    with_reducible apply keep_swapFences
    with_reducible apply keep_withdrawAll
    with_reducible apply keep_raiseS
    exact keep_upd h id id


theorem keep_tickCounters {b0 b : Blk} (h : Keep b0 b) (last : Blk) : Keep b0 (Blk.tickCounters b last) := by
  unfold Blk.tickCounters
  (try dsimp only)
  repeat' first | with_reducible assumption | with_reducible apply keep_upd | with_reducible apply keep_rakeLatch | simp only [upd_eq] | (intro (hx : HostOk _); exact hx) | (intro (hx : FwOk _); exact hx)

theorem keep_tickSheaves {b0 b : Blk} (h : Keep b0 b)  : Keep b0 (Blk.tickSheaves b) := by
  unfold Blk.tickSheaves
  (try dsimp only)
  repeat' first | with_reducible assumption | with_reducible apply keep_each | with_reducible apply keep_upd | with_reducible apply keep_missTile | simp only [upd_eq] | (intro (hx : HostOk _); exact hx) | (intro (hx : FwOk _); exact hx) | intro _

theorem keep_tickStaging {b0 b : Blk} (h : Keep b0 b) (fresh : Nat → BitVec 128 → Bool) : Keep b0 (Blk.tickStaging b fresh) := by
  unfold Blk.tickStaging
  (try dsimp only)
  repeat' first | with_reducible assumption | with_reducible apply keep_upd | with_reducible apply keep_streamTick | with_reducible apply keep_exchange | with_reducible apply keep_collTick | with_reducible apply keep_collBefore | simp only [upd_eq] | (intro (hx : HostOk _); exact hx) | (intro (hx : FwOk _); exact hx)

theorem keep_tickPorts {b0 b : Blk} (h : Keep b0 b)  : Keep b0 (Blk.tickPorts b) := by
  unfold Blk.tickPorts
  (try dsimp only)
  repeat' first | with_reducible assumption | with_reducible apply keep_upd | simp only [upd_eq] | (intro (hx : HostOk _); exact hx) | (intro (hx : FwOk _); exact hx)

theorem keep_tickEnd {b0 b : Blk} (h : Keep b0 b)  : Keep b0 (Blk.tickEnd b) := by
  unfold Blk.tickEnd
  (try dsimp only)
  repeat' first | with_reducible assumption | with_reducible apply keep_decayWear | with_reducible apply keep_traceTick | with_reducible apply keep_traceGather | split

/-- What the frame tick leaves of a block: the frame count one on, the offset 0 (R41, R43). -/
theorem keep_frameTick (b last : Blk) :
    Keep { b with clk := { b.clk with frame := b.clk.frame + 1, offset := 0, due := false }, fault := { b.fault with linkErr := [] } }
      (b.frameTick last) := by
  unfold Blk.frameTick
  have h := keep_tickSheaves (keep_tickCounters (keep_frameOn b) last)
  dsimp only at h ⊢
  revert h
  generalize (b.frameOn.tickCounters last).tickSheaves = b2
  intro h
  apply keep_tickEnd
  apply keep_opticsTick
  apply keep_tickPorts
  apply keep_tickStaging
  split
  · exact keep_swap h
  · exact h

theorem keep_countMc {b0 b : Blk} (h : Keep b0 b)  : Keep b0 (Blk.countMc b) := by
  unfold Blk.countMc
  (try dsimp only)
  repeat' first | with_reducible assumption | with_reducible apply keep_each | with_reducible apply keep_upd | with_reducible apply keep_count | with_reducible apply keep_countPaced | simp only [upd_eq] | split | (intro (hx : HostOk _); exact hx) | (intro (hx : FwOk _); exact hx) | intro _

theorem keep_noteActs {b0 b : Blk} (h : Keep b0 b) (n : McNote) : Keep b0 (Blk.noteActs b n) := by
  cases n <;> unfold Blk.noteActs <;>
    first
      | exact h
      | exact keep_pressActs h _
      | exact keep_expiryActs h _
      | exact keep_meterTakes h _ _
      | exact keep_modEgQueue h _ _ _
      | exact keep_rdActs h _ _ _
      | exact keep_fbPopActs h _
      | exact keep_abandonActs h _ _
      | exact keep_handlerActs h _ _ _

theorem keep_endMc {b0 b : Blk} (h : Keep b0 b) : Keep b0 (Blk.endMc b) := by
  unfold Blk.endMc
  exact keep_postEvents (keep_each h fun b n hb => keep_noteActs hb n)

/-- The next mc keeps everything but the time. -/
theorem keep_nextMc (b : Blk) : Keep { b with clk := b.clk.advance b.frameLen } b.nextMc := by
  unfold Blk.nextMc
  have hf : Keep { b with clk := b.clk.advance b.frameLen } { b.forget with clk := b.clk.advance b.frameLen } :=
    ⟨rfl, rfl, rfl, id⟩
  exact keep_each hf fun b r hb => keep_ringOverflow hb r

theorem idleMc_eq (b : Blk) : ∃ b1 : Blk, Keep b b1 ∧ Keep { b1 with clk := b1.clk.advance b1.frameLen } b.idleMc := by
  refine ⟨_, ?_, keep_nextMc _⟩
  apply keep_endMc
  have h1 := keep_countMc (Keep.rfl b)
  try dsimp only
  split
  · exact keep_replayJournal h1
  · exact h1



theorem idleRestart_eq (b : Blk) : ∃ b1 : Blk, Keep b b1 ∧ b.idleRestart = b1.restarted (.stage 1) := by
  unfold Blk.idleRestart
  refine ⟨_, ?_, rfl⟩
  split
  · exact keep_replayJournal (Keep.rfl b)
  · exact Keep.rfl b

/-! ### Window -/

theorem keep_writeDma {b0 b : Blk} (h : Keep b0 b) (p : Nat) (v : BitVec 128) : Keep b0 (Blk.writeDma b p v) := by
  unfold Blk.writeDma
  (try dsimp only)
  repeat' first | with_reducible assumption | with_reducible apply keep_modPlot | with_reducible apply keep_countSys | split

theorem keep_writeCons {b0 b : Blk} (h : Keep b0 b) (r : Nat) (v : BitVec 32) : Keep b0 (Blk.writeCons b r v) := by
  unfold Blk.writeCons
  (try dsimp only)
  repeat' first | with_reducible assumption | with_reducible apply keep_modRing | with_reducible apply keep_countSys | with_reducible apply keep_ringOverflow | with_reducible apply keep_note | with_reducible apply keep_upd | simp only [upd_eq] | split | intro _ | (intro (hx : HostOk _); exact hx) | (intro (hx : FwOk _); exact hx)

theorem keep_ringPlace {b0 b : Blk} (h : Keep b0 b) (r : Nat) (v : BitVec 512) : Keep b0 (Blk.ringPlace b r v) := by
  unfold Blk.ringPlace
  (try dsimp only)
  repeat' first | with_reducible assumption | with_reducible apply keep_modRing | with_reducible apply keep_countSys | split

theorem keep_ringOpens {b0 b : Blk} (h : Keep b0 b)  : Keep b0 (Blk.ringOpens b) := by
  unfold Blk.ringOpens
  (try dsimp only)
  repeat' first | with_reducible assumption | with_reducible apply keep_each | with_reducible apply keep_upd | with_reducible apply keep_modRing | with_reducible apply keep_ringPost | simp only [upd_eq] | (intro (hx : HostOk _); exact hx) | (intro (hx : FwOk _); exact hx) | intro _

theorem keep_writeRing {b0 b : Blk} (h : Keep b0 b) (r : Nat) (v : BitVec 512) : Keep b0 (Blk.writeRing b r v) := by
  unfold Blk.writeRing
  (try dsimp only)
  repeat' first | with_reducible assumption | with_reducible apply keep_modRing | with_reducible apply keep_writeCons | with_reducible apply keep_ringPlace | with_reducible apply keep_ringOpens | split

theorem keep_irqHoldEnd {b0 b : Blk} (h : Keep b0 b) (r : Nat) : Keep b0 (Blk.irqHoldEnd b r) := by
  unfold Blk.irqHoldEnd
  (try dsimp only)
  repeat' first | with_reducible assumption | with_reducible apply keep_ringIrq | split

theorem keep_mboxRespond {b0 b : Blk} (h : Keep b0 b) (xs : Bytes) : Keep b0 (Blk.mboxRespond b xs) := by
  unfold Blk.mboxRespond
  rw [upd_eq]
  exact keep_upd h (fun x => ⟨x.1, x.2.1, wf_write _ _ _ wf_nil⟩) id

theorem keep_mboxTake {b0 b : Blk} (h : Keep b0 b) (seen : Seen) : Keep b0 (Blk.mboxTake b seen) := by
  unfold Blk.mboxTake
  (try dsimp only)
  repeat' first | with_reducible assumption | with_reducible apply keep_upd | with_reducible apply keep_countSys | with_reducible apply keep_moaExec | with_reducible apply keep_mboxRespond | with_reducible apply keep_drop | simp only [upd_eq] | split | (intro (hx : HostOk _); exact hx) | (intro (hx : FwOk _); exact hx) | intro _

theorem keep_mailboxGo {b0 b : Blk} (h : Keep b0 b) (seen : Seen) : Keep b0 (Blk.mailboxGo b seen) := by
  unfold Blk.mailboxGo
  (try dsimp only)
  repeat' first | with_reducible assumption | with_reducible apply keep_upd | with_reducible apply keep_countSys | with_reducible apply keep_mboxTake | simp only [upd_eq] | split | (intro (hx : HostOk _); exact hx) | (intro (hx : FwOk _); exact hx) | intro _

theorem keep_mailboxDone {b0 b : Blk} (h : Keep b0 b)  : Keep b0 (Blk.mailboxDone b) := by
  unfold Blk.mailboxDone
  split
  · exact h
  · dsimp only
    have h1 : Keep b0 (if mhKind (moaHdr (b.host.reqBuf.read 0 32)) = mkSpdm then
        b.mboxRespond (b.moaFrame (setFld (moaHdr (b.host.reqBuf.read 0 32)) 33 1 0) (mhBoot (moaHdr (b.host.reqBuf.read 0 32))) mkSpdm 0 0 0 0
          (Config.spdmMessage b.vault.reply.kind b.vault.reply.code.toNat b.vault.reply.body))
      else b) := by
      split
      · exact keep_mboxRespond h _
      · exact h
    revert h1
    generalize (if mhKind _ = mkSpdm then _ else b) = b2
    intro h1
    rw [upd_eq]
    refine keep_raiseS (keep_upd h1 ?_ id) _ _ _ _ _ _ _
    intro (hx : HostOk _)
    exact hx

theorem keep_winStore {b0 b : Blk} (h : Keep b0 b) (s : State) (r : WinReg) (v : Nat) : Keep b0 (Blk.winStore b s r v) := by
  unfold Blk.winStore
  (try dsimp only)
  repeat' first | with_reducible assumption | with_reducible apply keep_upd | with_reducible apply keep_modTile | with_reducible apply keep_modPlot | with_reducible apply keep_countSys | with_reducible apply keep_launch | with_reducible apply keep_writeRd | with_reducible apply keep_doorbell | with_reducible apply keep_ctxAbort | with_reducible apply keep_modOb | with_reducible apply keep_writePmc | with_reducible apply keep_capsuleUnwrap | with_reducible apply keep_writeDma | with_reducible apply keep_writeRing | with_reducible apply keep_mailboxGo | simp only [upd_eq] | split | (intro (hx : HostOk _); exact hx) | (intro (hx : FwOk _); exact hx) | intro _ | exact ⟨(‹HostOk b.host›).1, wf_write _ _ _ (‹HostOk b.host›).2.1, (‹HostOk b.host›).2.2⟩


theorem keep_winRead1 {b0 b : Blk} (h : Keep b0 b) (was : Blk) (off n : Nat) : Keep b0 (Blk.winRead1 b was off n).1 := by
  unfold Blk.winRead1
  (try dsimp only)
  repeat' first | with_reducible assumption | with_reducible apply keep_upd | with_reducible apply keep_countSys | with_reducible apply keep_drop | simp only [upd_eq] | split | (intro (hx : HostOk _); exact hx) | (intro (hx : FwOk _); exact hx) | intro _

theorem keep_winRead {b0 b : Blk} (h : Keep b0 b) (was : Blk) (off n : Nat) : Keep b0 (Blk.winRead b was off n).1 := by
  unfold Blk.winRead
  (try dsimp only)
  repeat' first | with_reducible assumption | with_reducible apply keep_countSys | with_reducible apply keep_winRead1 | split

theorem keep_winWrite1 {b0 b : Blk} (h : Keep b0 b) (s : State) (off n v : Nat) : Keep b0 (Blk.winWrite1 b s off n v) := by
  unfold Blk.winWrite1
  (try dsimp only)
  repeat' first | with_reducible assumption | with_reducible apply keep_upd | with_reducible apply keep_countSys | with_reducible apply keep_winStore | with_reducible apply keep_foldl | with_reducible apply keep_drop | simp only [upd_eq] | split | (intro (hx : HostOk _); exact hx) | (intro (hx : FwOk _); exact hx) | intro _

theorem keep_winWrite {b0 b : Blk} (h : Keep b0 b) (s : State) (off n : Nat) (v : Nat) : Keep b0 (Blk.winWrite b s off n v) := by
  unfold Blk.winWrite
  (try dsimp only)
  repeat' first | with_reducible assumption | with_reducible apply keep_countSys | with_reducible apply keep_winWrite1 | split

end Sys2Proof.Laws
end

