-- ==== Sys2Proof/Laws/KeepExec.lean ====
section
/-! SUPPORT. The relation Keep for the meaning of each command. -/
namespace Sys2Proof.Laws
open Sys2Proof Sys2Proof.Machine Sys2Proof.Safety

/-! ### Exec -/

theorem at_next {s t : State} {i : Instr} {f : State → Out} (h : s.at i f = .next t) :
    (i.wf && inPlace s.blk.member i) = true ∧ f s = .next t := by
  unfold State.at at h
  split at h
  · exact ⟨‹_›, h⟩
  · exact absurd h (by simp)

theorem next_inj {s t : State} (h : (Host.Outcome.next s : Out) = .next t) : t = s := by injection h with h; exact h.symm

theorem next_keep {s t : State} {b : Blk} (h : (Host.Outcome.next { s with blk := b } : Out) = .next t) (hb : Keep s.blk b) : Keep s.blk t.blk := by
  injection h with h; subst h; exact hb

theorem mesh_keep {s t : State} {i : Instr} {f : Blk → Blk} (h : s.mesh i f = .next t) (hf : Keep s.blk (f s.blk)) : Keep s.blk t.blk := by
  have h := (at_next h).2
  split at h
  · exact next_keep h hf
  · cases next_inj h; exact Keep.rfl _

theorem steward_keep {s t : State} {i : Instr} {f : Blk → Blk} (h : s.steward i f = .next t) (hf : Keep s.blk (f s.blk)) : Keep s.blk t.blk := by
  have h := (at_next h).2
  split at h
  · exact next_keep h hf
  · cases next_inj h; exact Keep.rfl _

theorem boot_keep {s t : State} {i : Instr} {f : Blk → Blk} (h : s.boot i f = .next t) (hf : Keep s.blk (f s.blk)) : Keep s.blk t.blk := by
  have h := (at_next h).2
  split at h
  · exact next_keep h hf
  · cases next_inj h; exact Keep.rfl _

theorem vaultEvent_keep {s t : State} {i : Instr} {f : Blk → Blk} (h : s.vaultEvent i f = .next t) (hf : Keep s.blk (f s.blk)) : Keep s.blk t.blk := by
  have h := (at_next h).2
  split at h
  · cases next_inj h; exact Keep.rfl _
  · exact next_keep h hf

theorem window_keep {s t : State} {i : Instr} {f : State → Blk} (h : s.window i f = .next t) (hf : Keep s.blk (f s)) : Keep s.blk t.blk := by
  have h := (at_next h).2
  split at h
  · cases next_inj h; exact Keep.rfl _
  · exact next_keep h hf

theorem page_keep {s t : State} {i : Instr} {k : Nat} {f : Blk → Blk} (h : s.page i k f = .next t) (hf : Keep s.blk (f s.blk)) :
    Keep s.blk t.blk := by
  unfold State.page at h
  split at h
  · exact mesh_keep h hf
  · exact window_keep h (keep_countSys (Keep.rfl _) _)

theorem panel_keep {s t : State} {i : Instr} {p : Nat} {f : Blk → Blk} (h : s.panel i p f = .next t) (hf : Keep s.blk (f s.blk)) :
    Keep s.blk t.blk := by
  refine mesh_keep h ?_
  split
  · exact hf
  · exact Keep.rfl _

theorem od_keep {s t : State} {i : Instr} {ch : Channel} {e : Bool} {f : Blk → Od} (h : s.od i ch e f = .next t) (hf : Keep s.blk (f s.blk).1) :
    Keep s.blk t.blk := by
  have h := (at_next h).2
  split at h
  · exact next_keep h (keep_odDo (Keep.rfl _) _ _ hf)
  · split at h
    · exact next_keep h (keep_answer (Keep.rfl _) _ _)
    · cases next_inj h; exact Keep.rfl _

theorem odPort_keep {s t : State} {i : Instr} {ch : Channel} {e : Bool} {p : Nat} {f : Blk → Od} (h : s.odPort i ch e p f = .next t)
    (hf : Keep s.blk (f s.blk).1) : Keep s.blk t.blk := by
  refine od_keep h ?_
  split
  · exact hf
  · exact Keep.rfl _

theorem odFw_keep {s t : State} {i : Instr} {ch : Channel} {f : Blk → Od} (h : s.odFw i ch f = .next t) (hf : Keep s.blk (f s.blk).1) :
    Keep s.blk t.blk := by
  have h := (at_next h).2
  split at h
  · exact next_keep h (keep_odDo (Keep.rfl _) _ _ hf)
  · cases next_inj h; exact Keep.rfl _

theorem request_keep {s t : State} {i : Instr} {ch : Channel} {f : Seen → Blk → Blk} (h : s.request i ch f = .next t) (hf : Keep s.blk (f s.seen s.blk)) :
    Keep s.blk t.blk := by
  have h := (at_next h).2
  split at h
  · exact next_keep h hf
  · cases next_inj h; exact Keep.rfl _

theorem keep_execListLaunch {s t : State} {plot : Nat} {value : BitVec 128} (h : execListLaunch plot value s = .next t) : Keep s.blk t.blk := by
  refine mesh_keep h ?_
  (try dsimp only)
  repeat' first | with_reducible exact Keep.rfl _ | with_reducible apply keep_launch

theorem keep_execLaunchDequeue {s t : State} {tile : Nat} (h : execLaunchDequeue tile s = .next t) : Keep s.blk t.blk := by
  refine mesh_keep h ?_
  (try dsimp only)
  repeat' first | with_reducible exact Keep.rfl _ | with_reducible apply keep_launchDequeue

theorem keep_execCommandDispatch {s t : State} {tile ctx : Nat} (h : execCommandDispatch tile ctx s = .next t) : Keep s.blk t.blk := by
  refine mesh_keep h ?_
  (try dsimp only)
  repeat' first | with_reducible exact Keep.rfl _ | with_reducible apply keep_dispatch

theorem keep_execListLoop {s t : State} {tile ctx : Nat} (h : execListLoop tile ctx s = .next t) : Keep s.blk t.blk := by
  refine mesh_keep h ?_
  (try dsimp only)
  repeat' first | with_reducible exact Keep.rfl _ | with_reducible apply keep_listLoop

theorem keep_execListCall {s t : State} {tile ctx : Nat} (h : execListCall tile ctx s = .next t) : Keep s.blk t.blk := by
  refine mesh_keep h ?_
  (try dsimp only)
  repeat' first | with_reducible exact Keep.rfl _ | with_reducible apply keep_listCall

theorem keep_execListEnd {s t : State} {tile ctx : Nat} (h : execListEnd tile ctx s = .next t) : Keep s.blk t.blk := by
  refine mesh_keep h ?_
  (try dsimp only)
  repeat' first | with_reducible exact Keep.rfl _ | with_reducible apply keep_listEnd

theorem keep_execListNop {s t : State} {tile engine : Nat} (h : execListNop tile engine s = .next t) : Keep s.blk t.blk := by
  refine mesh_keep h ?_
  (try dsimp only)
  repeat' first | with_reducible assumption | with_reducible exact Keep.rfl _ | with_reducible apply keep_run | simp only [upd_eq] | intro _

theorem keep_execListWait {s t : State} {tile engine : Nat} (h : execListWait tile engine s = .next t) : Keep s.blk t.blk := by
  refine mesh_keep h ?_
  (try dsimp only)
  repeat' first | with_reducible assumption | with_reducible exact Keep.rfl _ | with_reducible apply keep_run | with_reducible apply keep_runListWait | intro _

theorem keep_execListSignal {s t : State} {tile engine : Nat} (h : execListSignal tile engine s = .next t) : Keep s.blk t.blk := by
  refine mesh_keep h ?_
  (try dsimp only)
  repeat' first | with_reducible assumption | with_reducible exact Keep.rfl _ | with_reducible apply keep_run | with_reducible apply keep_runListSignal | intro _

theorem keep_execListTick {s t : State} {tile engine : Nat} (h : execListTick tile engine s = .next t) : Keep s.blk t.blk := by
  refine mesh_keep h ?_
  (try dsimp only)
  repeat' first | with_reducible assumption | with_reducible exact Keep.rfl _ | with_reducible apply keep_run | with_reducible apply keep_runListTick | intro _

theorem keep_execListEvent {s t : State} {tile engine : Nat} (h : execListEvent tile engine s = .next t) : Keep s.blk t.blk := by
  refine mesh_keep h ?_
  (try dsimp only)
  repeat' first | with_reducible assumption | with_reducible exact Keep.rfl _ | with_reducible apply keep_run | with_reducible apply keep_runListEvent | intro _

theorem keep_execCommandComplete {s t : State} {tile engine : Nat} (h : execCommandComplete tile engine s = .next t) : Keep s.blk t.blk := by
  refine mesh_keep h ?_
  (try dsimp only)
  repeat' first | with_reducible exact Keep.rfl _ | with_reducible apply keep_completeNext

theorem keep_execSemWrite {s t : State} {tile sem : Nat} {value : BitVec 16} (h : execSemWrite tile sem value s = .next t) : Keep s.blk t.blk := by
  refine page_keep h ?_
  (try dsimp only)
  repeat' first | with_reducible exact Keep.rfl _ | with_reducible apply keep_modTile

theorem keep_execReduceOasis {s t : State} {tile : Nat} (h : execReduceOasis tile s = .next t) : Keep s.blk t.blk := by
  refine mesh_keep h ?_
  (try dsimp only)
  repeat' first | with_reducible assumption | with_reducible exact Keep.rfl _ | with_reducible apply keep_run | with_reducible apply keep_runOasis | intro _

theorem keep_execReduceRelease {s t : State} {tile : Nat} (h : execReduceRelease tile s = .next t) : Keep s.blk t.blk := by
  refine mesh_keep h ?_
  (try dsimp only)
  repeat' first | with_reducible assumption | with_reducible exact Keep.rfl _ | with_reducible apply keep_run | with_reducible apply keep_runRelease | intro _

theorem keep_execReduceAdd {s t : State} {tile : Nat} (h : execReduceAdd tile s = .next t) : Keep s.blk t.blk := by
  refine mesh_keep h ?_
  (try dsimp only)
  repeat' first | with_reducible assumption | with_reducible exact Keep.rfl _ | with_reducible apply keep_runOrSteal | with_reducible apply keep_runAdd | intro _

theorem keep_execReduceScaleAdd {s t : State} {tile : Nat} (h : execReduceScaleAdd tile s = .next t) : Keep s.blk t.blk := by
  refine mesh_keep h ?_
  (try dsimp only)
  repeat' first | with_reducible assumption | with_reducible exact Keep.rfl _ | with_reducible apply keep_runOrSteal | with_reducible apply keep_runAdd | intro _

theorem keep_execReduceAddSown {s t : State} {tile : Nat} (h : execReduceAddSown tile s = .next t) : Keep s.blk t.blk := by
  refine mesh_keep h ?_
  (try dsimp only)
  repeat' first | with_reducible assumption | with_reducible exact Keep.rfl _ | with_reducible apply keep_run | with_reducible apply keep_runAddSown | intro _

theorem keep_execReduceMerge {s t : State} {tile : Nat} (h : execReduceMerge tile s = .next t) : Keep s.blk t.blk := by
  refine mesh_keep h ?_
  (try dsimp only)
  repeat' first | with_reducible assumption | with_reducible exact Keep.rfl _ | with_reducible apply keep_run | with_reducible apply keep_runMerge | intro _

theorem keep_execReduceRound {s t : State} {tile : Nat} (h : execReduceRound tile s = .next t) : Keep s.blk t.blk := by
  refine mesh_keep h ?_
  (try dsimp only)
  repeat' first | with_reducible assumption | with_reducible exact Keep.rfl _ | with_reducible apply keep_run | with_reducible apply keep_runRound | intro _

theorem keep_execReduceNarrow {s t : State} {tile : Nat} (h : execReduceNarrow tile s = .next t) : Keep s.blk t.blk := by
  refine mesh_keep h ?_
  (try dsimp only)
  repeat' first | with_reducible assumption | with_reducible exact Keep.rfl _ | with_reducible apply keep_run | with_reducible apply keep_runRound | intro _

theorem keep_execReduceMap {s t : State} {tile : Nat} (h : execReduceMap tile s = .next t) : Keep s.blk t.blk := by
  refine mesh_keep h ?_
  (try dsimp only)
  repeat' first | with_reducible assumption | with_reducible exact Keep.rfl _ | with_reducible apply keep_runOrSteal | with_reducible apply keep_runMap | intro _

theorem keep_execReduceCrc {s t : State} {tile : Nat} (h : execReduceCrc tile s = .next t) : Keep s.blk t.blk := by
  refine mesh_keep h ?_
  (try dsimp only)
  repeat' first | with_reducible assumption | with_reducible exact Keep.rfl _ | with_reducible apply keep_runOrSteal | with_reducible apply keep_runCrc | intro _

theorem keep_execArrayLoad {s t : State} {tile : Nat} (h : execArrayLoad tile s = .next t) : Keep s.blk t.blk := by
  refine mesh_keep h ?_
  (try dsimp only)
  repeat' first | with_reducible assumption | with_reducible exact Keep.rfl _ | with_reducible apply keep_run | with_reducible apply keep_runLoad | intro _

theorem keep_execArrayMm {s t : State} {tile : Nat} (h : execArrayMm tile s = .next t) : Keep s.blk t.blk := by
  refine mesh_keep h ?_
  (try dsimp only)
  repeat' first | with_reducible assumption | with_reducible exact Keep.rfl _ | with_reducible apply keep_run | with_reducible apply keep_runMm | intro _

theorem keep_execArrayTopk {s t : State} {tile : Nat} (h : execArrayTopk tile s = .next t) : Keep s.blk t.blk := by
  refine mesh_keep h ?_
  (try dsimp only)
  repeat' first | with_reducible assumption | with_reducible exact Keep.rfl _ | with_reducible apply keep_run | with_reducible apply keep_runTopk | intro _

theorem keep_execArrayGate {s t : State} {tile : Nat} (h : execArrayGate tile s = .next t) : Keep s.blk t.blk := by
  refine mesh_keep h ?_
  (try dsimp only)
  repeat' first | with_reducible assumption | with_reducible exact Keep.rfl _ | with_reducible apply keep_run | with_reducible apply keep_runGate | intro _

theorem keep_execFlitHeadArrival {s t : State} {tile subnet input : Nat} {damage : BitVec 128} (h : execFlitHeadArrival tile subnet input damage s = .next t) : Keep s.blk t.blk := by
  refine mesh_keep h ?_
  (try dsimp only)
  repeat' first | with_reducible exact Keep.rfl _ | with_reducible apply keep_headArrives | split

theorem keep_execOutputArbitration {s t : State} {tile subnet out : Nat} (h : execOutputArbitration tile subnet out s = .next t) : Keep s.blk t.blk := by
  refine mesh_keep h ?_
  (try dsimp only)
  repeat' first | with_reducible exact Keep.rfl _ | with_reducible apply keep_arbitrate

theorem keep_execCreditReturn {s t : State} {tile subnet input vc : Nat} (h : execCreditReturn tile subnet input vc s = .next t) : Keep s.blk t.blk := by
  refine mesh_keep h ?_
  (try dsimp only)
  repeat' first | with_reducible exact Keep.rfl _ | with_reducible apply keep_creditReturn

theorem keep_execFlitAgeDrop {s t : State} {tile subnet input vc : Nat} (h : execFlitAgeDrop tile subnet input vc s = .next t) : Keep s.blk t.blk := by
  refine mesh_keep h ?_
  (try dsimp only)
  repeat' first | with_reducible exact Keep.rfl _ | with_reducible apply keep_ageDrop

theorem keep_execMoveCopy {s t : State} {tile : Nat} (h : execMoveCopy tile s = .next t) : Keep s.blk t.blk := by
  refine mesh_keep h ?_
  (try dsimp only)
  repeat' first | with_reducible assumption | with_reducible exact Keep.rfl _ | with_reducible apply keep_runOrSteal | with_reducible apply keep_runCopy | intro _

theorem keep_execMoveFill {s t : State} {tile : Nat} (h : execMoveFill tile s = .next t) : Keep s.blk t.blk := by
  refine mesh_keep h ?_
  (try dsimp only)
  repeat' first | with_reducible assumption | with_reducible exact Keep.rfl _ | with_reducible apply keep_runOrSteal | with_reducible apply keep_runFill | intro _

theorem keep_execMoveHbmRead {s t : State} {tile : Nat} (h : execMoveHbmRead tile s = .next t) : Keep s.blk t.blk := by
  refine mesh_keep h ?_
  (try dsimp only)
  repeat' first | with_reducible assumption | with_reducible exact Keep.rfl _ | with_reducible apply keep_run | with_reducible apply keep_runTransfer | intro _

theorem keep_execMoveHbmWrite {s t : State} {tile : Nat} (h : execMoveHbmWrite tile s = .next t) : Keep s.blk t.blk := by
  refine mesh_keep h ?_
  (try dsimp only)
  repeat' first | with_reducible assumption | with_reducible exact Keep.rfl _ | with_reducible apply keep_run | with_reducible apply keep_runTransfer | intro _

theorem keep_execMoveHostRead {s t : State} {tile : Nat} (h : execMoveHostRead tile s = .next t) : Keep s.blk t.blk := by
  refine mesh_keep h ?_
  (try dsimp only)
  repeat' first | with_reducible assumption | with_reducible exact Keep.rfl _ | with_reducible apply keep_run | with_reducible apply keep_runTransfer | intro _

theorem keep_execMoveHostWrite {s t : State} {tile : Nat} (h : execMoveHostWrite tile s = .next t) : Keep s.blk t.blk := by
  refine mesh_keep h ?_
  (try dsimp only)
  repeat' first | with_reducible assumption | with_reducible exact Keep.rfl _ | with_reducible apply keep_run | with_reducible apply keep_runTransfer | intro _

theorem keep_execMoveHbmStream {s t : State} {tile : Nat} (h : execMoveHbmStream tile s = .next t) : Keep s.blk t.blk := by
  refine mesh_keep h ?_
  (try dsimp only)
  repeat' first | with_reducible assumption | with_reducible exact Keep.rfl _ | with_reducible apply keep_run | with_reducible apply keep_runHbmStream | intro _

theorem keep_execMoveSow {s t : State} {tile : Nat} (h : execMoveSow tile s = .next t) : Keep s.blk t.blk := by
  refine mesh_keep h ?_
  (try dsimp only)
  repeat' first | with_reducible assumption | with_reducible exact Keep.rfl _ | with_reducible apply keep_run | with_reducible apply keep_runSow | intro _

theorem keep_execMoveReap {s t : State} {tile : Nat} (h : execMoveReap tile s = .next t) : Keep s.blk t.blk := by
  refine mesh_keep h ?_
  (try dsimp only)
  repeat' first | with_reducible assumption | with_reducible exact Keep.rfl _ | with_reducible apply keep_run | with_reducible apply keep_runReap | intro _

theorem keep_execQueueSend {s t : State} {tile : Nat} (h : execQueueSend tile s = .next t) : Keep s.blk t.blk := by
  refine mesh_keep h ?_
  (try dsimp only)
  repeat' first | with_reducible assumption | with_reducible exact Keep.rfl _ | with_reducible apply keep_run | with_reducible apply keep_runSend | intro _

theorem keep_execQueueGet {s t : State} {tile : Nat} (h : execQueueGet tile s = .next t) : Keep s.blk t.blk := by
  refine mesh_keep h ?_
  (try dsimp only)
  repeat' first | with_reducible assumption | with_reducible exact Keep.rfl _ | with_reducible apply keep_run | with_reducible apply keep_runGet | intro _

theorem keep_execQueuePut {s t : State} {tile : Nat} (h : execQueuePut tile s = .next t) : Keep s.blk t.blk := by
  refine mesh_keep h ?_
  (try dsimp only)
  repeat' first | with_reducible assumption | with_reducible exact Keep.rfl _ | with_reducible apply keep_run | with_reducible apply keep_runPut | intro _

theorem keep_execQueueCombine {s t : State} {tile : Nat} (h : execQueueCombine tile s = .next t) : Keep s.blk t.blk := by
  refine mesh_keep h ?_
  (try dsimp only)
  repeat' first | with_reducible assumption | with_reducible exact Keep.rfl _ | with_reducible apply keep_run | with_reducible apply keep_runCombine | intro _

theorem keep_execQueueBind {s t : State} {tile : Nat} (h : execQueueBind tile s = .next t) : Keep s.blk t.blk := by
  refine mesh_keep h ?_
  (try dsimp only)
  repeat' first | with_reducible assumption | with_reducible exact Keep.rfl _ | with_reducible apply keep_run | with_reducible apply keep_runBind | intro _

theorem keep_execQueueUnbind {s t : State} {tile : Nat} (h : execQueueUnbind tile s = .next t) : Keep s.blk t.blk := by
  refine mesh_keep h ?_
  (try dsimp only)
  repeat' first | with_reducible assumption | with_reducible exact Keep.rfl _ | with_reducible apply keep_run | with_reducible apply keep_runUnbind | intro _

theorem keep_execQueuePop {s t : State} {tile : Nat} (h : execQueuePop tile s = .next t) : Keep s.blk t.blk := by
  refine mesh_keep h ?_
  (try dsimp only)
  repeat' first | with_reducible apply keep_popPass | with_reducible assumption | with_reducible exact Keep.rfl _ | with_reducible apply keep_run | with_reducible apply keep_runPop | intro _

theorem keep_execQueueHandler {s t : State} {tile : Nat} (h : execQueueHandler tile s = .next t) : Keep s.blk t.blk := by
  refine mesh_keep h ?_
  (try dsimp only)
  repeat' first | with_reducible assumption | with_reducible exact Keep.rfl _ | with_reducible apply keep_run | with_reducible apply keep_runHandler | intro _

theorem keep_execEntryPublish {s t : State} {tile queue : Nat} (h : execEntryPublish tile queue s = .next t) : Keep s.blk t.blk := by
  refine mesh_keep h ?_
  (try dsimp only)
  repeat' first | with_reducible exact Keep.rfl _ | with_reducible apply keep_publishNow

theorem keep_execHandlerLaunch {s t : State} {tile : Nat} (h : execHandlerLaunch tile s = .next t) : Keep s.blk t.blk := by
  refine mesh_keep h ?_
  (try dsimp only)
  repeat' first | with_reducible exact Keep.rfl _ | with_reducible apply keep_modTile

theorem keep_execFallbackDrain {s t : State} {tile queue : Nat} (h : execFallbackDrain tile queue s = .next t) : Keep s.blk t.blk := by
  refine mesh_keep h ?_
  (try dsimp only)
  repeat' first | with_reducible exact Keep.rfl _ | with_reducible apply keep_fbDrain

theorem keep_execAssemblyAbandon {s t : State} {tile index : Nat} (h : execAssemblyAbandon tile index s = .next t) : Keep s.blk t.blk := by
  refine mesh_keep h ?_
  (try dsimp only)
  repeat' first | with_reducible exact Keep.rfl _ | with_reducible apply keep_abandon

theorem keep_execQueueRdWrite {s t : State} {tile queue : Nat} {value : BitVec 16} (h : execQueueRdWrite tile queue value s = .next t) : Keep s.blk t.blk := by
  refine page_keep h ?_
  (try dsimp only)
  repeat' first | with_reducible exact Keep.rfl _ | with_reducible apply keep_writeRd

theorem keep_execFbPop {s t : State} {tile : Nat} {value : BitVec 32} (h : execFbPop tile value s = .next t) : Keep s.blk t.blk := by
  refine page_keep h ?_
  (try dsimp only)
  repeat' first | with_reducible apply keep_fbPop | with_reducible exact Keep.rfl _ | with_reducible apply keep_modTile

theorem keep_execStatusRecordWrite {s t : State} {tile ctx : Nat} (h : execStatusRecordWrite tile ctx s = .next t) : Keep s.blk t.blk := by
  refine mesh_keep h ?_
  (try dsimp only)
  repeat' first | with_reducible exact Keep.rfl _ | with_reducible apply keep_statusWrite

theorem keep_execDbgAccess {s t : State} {tile : Nat} {write : Bool} {addr : Nat} {data : Bytes} (h : execDbgAccess tile write addr data s = .next t) : Keep s.blk t.blk := by
  refine mesh_keep h ?_
  (try dsimp only)
  repeat' first | with_reducible exact Keep.rfl _ | with_reducible apply keep_debugAccess

theorem keep_requestInject {b0 b : Blk} (h : Keep b0 b) (t : Nat) (w : Requester) : Keep b0 (b.requestInject t w) := by
  unfold Blk.requestInject
  repeat' first | exact h | with_reducible apply keep_injectEngine | with_reducible apply keep_injectGet | with_reducible apply keep_injectDfp | with_reducible apply keep_injectKhdr | with_reducible apply keep_injectAdmin | with_reducible apply keep_injectPreempt | with_reducible apply keep_injectStolen | with_reducible apply keep_injectQuorum | (rw [upd_eq]; exact keep_upd h id id) | split

theorem keep_execRequestInject {s t : State} {tile : Nat} {who : Requester} (h : execRequestInject tile who s = .next t) : Keep s.blk t.blk := by
  exact mesh_keep h (keep_requestInject (Keep.rfl _) _ _)


theorem keep_execRequestEject {s t : State} {tile subnet : Nat} (h : execRequestEject tile subnet s = .next t) : Keep s.blk t.blk := by
  refine mesh_keep h ?_
  (try dsimp only)
  repeat' first | with_reducible exact Keep.rfl _ | with_reducible apply keep_requestEject

theorem keep_execReplyDeadline {s t : State} {tile subnet : Nat} (h : execReplyDeadline tile subnet s = .next t) : Keep s.blk t.blk := by
  refine mesh_keep h ?_
  (try dsimp only)
  repeat' first | with_reducible exact Keep.rfl _ | with_reducible apply keep_replyLate

theorem keep_execMsgPacketLand {s t : State} {tile : Nat} (h : execMsgPacketLand tile s = .next t) : Keep s.blk t.blk := by
  refine mesh_keep h ?_
  (try dsimp only)
  repeat' first | with_reducible exact Keep.rfl _ | with_reducible apply keep_msgLand

theorem keep_execRemoteGet {s t : State} {tile : Nat} (h : execRemoteGet tile s = .next t) : Keep s.blk t.blk := by
  refine mesh_keep h ?_
  (try dsimp only)
  repeat' first | with_reducible exact Keep.rfl _ | with_reducible apply keep_remoteGet

theorem keep_execRemotePut {s t : State} {tile : Nat} (h : execRemotePut tile s = .next t) : Keep s.blk t.blk := by
  refine mesh_keep h ?_
  (try dsimp only)
  repeat' first | with_reducible exact Keep.rfl _ | with_reducible apply keep_remotePut

theorem keep_execCombinePacket {s t : State} {tile : Nat} (h : execCombinePacket tile s = .next t) : Keep s.blk t.blk := by
  refine mesh_keep h ?_
  (try dsimp only)
  repeat' first | with_reducible exact Keep.rfl _ | with_reducible apply keep_combine

theorem keep_execOpenCtrlWrite {s t : State} {tile : Nat} {value : BitVec 128} (h : execOpenCtrlWrite tile value s = .next t) : Keep s.blk t.blk := by
  refine page_keep h ?_
  (try dsimp only)
  repeat' first | with_reducible exact Keep.rfl _ | with_reducible apply keep_modTile

theorem keep_execEngCtrlWrite {s t : State} {tile : Nat} {value : BitVec 128} (h : execEngCtrlWrite tile value s = .next t) : Keep s.blk t.blk := by
  refine page_keep h ?_
  (try dsimp only)
  repeat' first | with_reducible exact Keep.rfl _ | with_reducible apply keep_modTile

theorem keep_execHbmRead {s t : State} {tile : Nat} (h : execHbmRead tile s = .next t) : Keep s.blk t.blk := by
  refine mesh_keep h ?_
  (try dsimp only)
  repeat' first | with_reducible exact Keep.rfl _ | with_reducible apply keep_hbmTake

theorem keep_execHbmWrite {s t : State} {tile : Nat} (h : execHbmWrite tile s = .next t) : Keep s.blk t.blk := by
  refine mesh_keep h ?_
  (try dsimp only)
  repeat' first | with_reducible exact Keep.rfl _ | with_reducible apply keep_hbmTake

theorem keep_execHbmResponse {s t : State} {tile tag : Nat} {err : Bool} (h : execHbmResponse tile tag err s = .next t) : Keep s.blk t.blk := by
  refine mesh_keep h ?_
  (try dsimp only)
  repeat' first | with_reducible exact Keep.rfl _ | with_reducible apply keep_hbmRespond

theorem keep_execHbmRequestUnanswered {s t : State} {tile tag : Nat} (h : execHbmRequestUnanswered tile tag s = .next t) : Keep s.blk t.blk := by
  refine mesh_keep h ?_
  (try dsimp only)
  repeat' first | with_reducible exact Keep.rfl _ | with_reducible apply keep_hbmUnanswered

theorem keep_execHostRead {s t : State}  (h : execHostRead  s = .next t) : Keep s.blk t.blk := by
  refine mesh_keep h ?_
  (try dsimp only)
  repeat' first | with_reducible exact Keep.rfl _ | with_reducible apply keep_hostTake

theorem keep_execHostWrite {s t : State}  (h : execHostWrite  s = .next t) : Keep s.blk t.blk := by
  refine mesh_keep h ?_
  (try dsimp only)
  repeat' first | with_reducible exact Keep.rfl _ | with_reducible apply keep_hostTake

theorem keep_execDmaCompletion {s t : State} {tag : Nat} {data : Bytes} {err : Bool} (h : execDmaCompletion tag data err s = .next t) : Keep s.blk t.blk := by
  refine mesh_keep h ?_
  (try dsimp only)
  repeat' first | with_reducible exact Keep.rfl _ | with_reducible apply keep_dmaComplete

theorem keep_execStream {s t : State} {tile : Nat} (h : execStream tile s = .next t) : Keep s.blk t.blk := by
  refine mesh_keep h ?_
  (try dsimp only)
  repeat' first | with_reducible exact Keep.rfl _ | with_reducible apply keep_streamOpen

theorem keep_execStreamEnd {s t : State} {tile index : Nat} {readError : Bool} (h : execStreamEnd tile index readError s = .next t) : Keep s.blk t.blk := by
  refine mesh_keep h ?_
  (try dsimp only)
  repeat' first | with_reducible exact Keep.rfl _ | with_reducible apply keep_streamEnd

theorem keep_execCombLost {s t : State} {comb : Nat} (h : execCombLost comb s = .next t) : Keep s.blk t.blk := by
  refine mesh_keep h ?_
  (try dsimp only)
  repeat' first | with_reducible exact Keep.rfl _ | with_reducible apply keep_combLost

theorem keep_execCombLocked {s t : State} {comb : Nat} (h : execCombLocked comb s = .next t) : Keep s.blk t.blk := by
  refine mesh_keep h ?_
  (try dsimp only)
  repeat' first | with_reducible exact Keep.rfl _ | with_reducible apply keep_combLocked

theorem keep_execAdcReading {s t : State} {loop : Nat} {code : BitVec 16} (h : execAdcReading loop code s = .next t) : Keep s.blk t.blk := by
  refine mesh_keep h ?_
  (try dsimp only)
  repeat' first | with_reducible exact Keep.rfl _ | with_reducible apply keep_adcReading

theorem keep_execLoopConfigWrite {s t : State} {ch : Channel} {value : BitVec 128} (h : execLoopConfigWrite ch value s = .next t) : Keep s.blk t.blk := by
  refine od_keep h ?_
  (try dsimp only)
  repeat' first | with_reducible exact Keep.rfl _ | with_reducible apply keep_writeLoop

theorem keep_execCalGo {s t : State} {ch : Channel} {value : BitVec 64} (h : execCalGo ch value s = .next t) : Keep s.blk t.blk := by
  refine od_keep h ?_
  (try dsimp only)
  repeat' first | with_reducible exact Keep.rfl _ | with_reducible apply keep_writeOptPort

theorem keep_execCalDue {s t : State} {port : Nat} (h : execCalDue port s = .next t) : Keep s.blk t.blk := by
  refine mesh_keep h ?_
  (try dsimp only)
  repeat' first | with_reducible exact Keep.rfl _ | with_reducible apply keep_calDue

theorem keep_execEgressEnqueue {s t : State} {port : Nat} (h : execEgressEnqueue port s = .next t) : Keep s.blk t.blk := by
  refine mesh_keep h ?_
  (try dsimp only)
  repeat' first | with_reducible exact Keep.rfl _ | with_reducible apply keep_egressEnqueue

theorem keep_execEgressSchedule {s t : State} {port : Nat} {halfB : Bool} (h : execEgressSchedule port halfB s = .next t) : Keep s.blk t.blk := by
  refine mesh_keep h ?_
  (try dsimp only)
  repeat' first | with_reducible exact Keep.rfl _ | with_reducible apply keep_egressSchedule

theorem keep_execTxUnderrun {s t : State} {port : Nat} {halfB : Bool} (h : execTxUnderrun port halfB s = .next t) : Keep s.blk t.blk := by
  refine mesh_keep h ?_
  (try dsimp only)
  repeat' first | with_reducible exact Keep.rfl _ | with_reducible apply keep_abortTx

theorem keep_execPfcReceive {s t : State} {port prio : Nat} {pause : Bool} (h : execPfcReceive port prio pause s = .next t) : Keep s.blk t.blk := by
  refine mesh_keep h ?_
  (try dsimp only)
  repeat' first | with_reducible exact Keep.rfl _ | with_reducible apply keep_pfcReceive

theorem keep_execHeartbeatSend {s t : State}  (h : execHeartbeatSend  s = .next t) : Keep s.blk t.blk := by
  refine mesh_keep h ?_
  (try dsimp only)
  repeat' first | with_reducible exact Keep.rfl _ | with_reducible apply keep_heartbeatSend

theorem keep_execHeartbeatMiss {s t : State} {member : Nat} (h : execHeartbeatMiss member s = .next t) : Keep s.blk t.blk := by
  refine mesh_keep h ?_
  (try dsimp only)
  repeat' first | with_reducible exact Keep.rfl _ | with_reducible apply keep_suspect

theorem keep_execPortUp {s t : State} {port : Nat} (h : execPortUp port s = .next t) : Keep s.blk t.blk := by
  refine steward_keep h ?_
  (try dsimp only)
  repeat' first | with_reducible exact Keep.rfl _ | with_reducible apply keep_portCmd | with_reducible apply keep_note | with_reducible apply keep_answer | with_reducible apply keep_portUp

theorem keep_execPortDrain {s t : State} {port : Nat} (h : execPortDrain port s = .next t) : Keep s.blk t.blk := by
  refine steward_keep h ?_
  (try dsimp only)
  repeat' first | with_reducible exact Keep.rfl _ | with_reducible apply keep_portCmd | with_reducible apply keep_note | with_reducible apply keep_portDrain

theorem keep_execPortDown {s t : State} {port : Nat} (h : execPortDown port s = .next t) : Keep s.blk t.blk := by
  refine steward_keep h ?_
  (try dsimp only)
  repeat' first | with_reducible exact Keep.rfl _ | with_reducible apply keep_portCmd | with_reducible apply keep_note | with_reducible apply keep_portDown

theorem keep_execModuleInsert {s t : State} {port : Nat} (h : execModuleInsert port s = .next t) : Keep s.blk t.blk := by
  refine panel_keep h ?_
  (try dsimp only)
  repeat' first | with_reducible exact Keep.rfl _ | with_reducible apply keep_moduleInsert

theorem keep_execModuleRemove {s t : State} {port : Nat} (h : execModuleRemove port s = .next t) : Keep s.blk t.blk := by
  refine panel_keep h ?_
  (try dsimp only)
  repeat' first | with_reducible exact Keep.rfl _ | with_reducible apply keep_moduleRemove

theorem keep_execSvcPress {s t : State} {port : Nat} (h : execSvcPress port s = .next t) : Keep s.blk t.blk := by
  refine panel_keep h ?_
  (try dsimp only)
  repeat' first | with_reducible exact Keep.rfl _ | with_reducible apply keep_svcPress

theorem keep_execSvcStuck {s t : State} {port : Nat} (h : execSvcStuck port s = .next t) : Keep s.blk t.blk := by
  refine panel_keep h ?_
  (try dsimp only)
  repeat' first | with_reducible exact Keep.rfl _ | with_reducible apply keep_svcStuck

theorem keep_execFrontPanelScan {s t : State} {bits : BitVec 512} (h : execFrontPanelScan bits s = .next t) : Keep s.blk t.blk := by
  refine mesh_keep h ?_
  (try dsimp only)
  repeat' first | with_reducible exact Keep.rfl _ | with_reducible apply keep_frontPanel

theorem keep_execPortLinkUp {s t : State} {port : Nat} (h : execPortLinkUp port s = .next t) : Keep s.blk t.blk := by
  refine mesh_keep h ?_
  (try dsimp only)
  repeat' first | with_reducible exact Keep.rfl _ | with_reducible apply keep_portLinkUp

theorem keep_execPortLinkDown {s t : State} {port : Nat} (h : execPortLinkDown port s = .next t) : Keep s.blk t.blk := by
  refine mesh_keep h ?_
  (try dsimp only)
  repeat' first | with_reducible exact Keep.rfl _ | with_reducible apply keep_portLinkDown

theorem keep_execDrainComplete {s t : State} {port : Nat} (h : execDrainComplete port s = .next t) : Keep s.blk t.blk := by
  refine mesh_keep h ?_
  (try dsimp only)
  repeat' first | with_reducible exact Keep.rfl _ | with_reducible apply keep_drainComplete

theorem keep_execDrainLimitExpiry {s t : State} {port : Nat} (h : execDrainLimitExpiry port s = .next t) : Keep s.blk t.blk := by
  refine mesh_keep h ?_
  (try dsimp only)
  repeat' first | with_reducible exact Keep.rfl _ | with_reducible apply keep_drainExpiry

theorem keep_execCalStageEnd {s t : State} {port : Nat} (h : execCalStageEnd port s = .next t) : Keep s.blk t.blk := by
  refine mesh_keep h ?_
  (try dsimp only)
  repeat' first | with_reducible exact Keep.rfl _ | with_reducible apply keep_calStageEnd | with_reducible apply keep_autoUp

theorem keep_execPortCtrlWrite {s t : State} {ch : Channel} {port : Nat} {value : BitVec 128} (h : execPortCtrlWrite ch port value s = .next t) : Keep s.blk t.blk := by
  refine odPort_keep h ?_
  (try dsimp only)
  repeat' first | with_reducible exact Keep.rfl _ | with_reducible apply keep_writePortCtrl

theorem keep_execSieveWrite {s t : State} {ch : Channel} {value : BitVec 320} (h : execSieveWrite ch value s = .next t) : Keep s.blk t.blk := by
  refine od_keep h ?_
  (try dsimp only)
  repeat' first | with_reducible exact Keep.rfl _ | with_reducible apply keep_writeSieve

theorem keep_execLookupWrite {s t : State} {ch : Channel} {value : BitVec 64} (h : execLookupWrite ch value s = .next t) : Keep s.blk t.blk := by
  refine od_keep h ?_
  (try dsimp only)
  repeat' first | with_reducible exact Keep.rfl _ | with_reducible apply keep_writeLookup

theorem od_keep_of {s t : State} {i : Instr} {ch : Channel} {e : Bool} {f : Blk → Od} (h : s.od i ch e f = .next t)
    (hf : ∀ r, f s.blk = r → Keep s.blk r.1) : Keep s.blk t.blk := od_keep h (hf _ rfl)

theorem keep_execMeterWrite {s t : State} {ch : Channel} {value : BitVec 256} (h : execMeterWrite ch value s = .next t) : Keep s.blk t.blk := by
  refine od_keep_of h fun r hr => ?_
  have hr2 : s.blk.writeMeter (s.blk.sels ch).meter value = r := hr
  rw [← hr2]
  exact keep_writeMeter (Keep.rfl _) _ _


theorem keep_execEgressQueueWrite {s t : State} {ch : Channel} {port : Nat} {value : BitVec 64} (h : execEgressQueueWrite ch port value s = .next t) : Keep s.blk t.blk := by
  refine odPort_keep h ?_
  (try dsimp only)
  repeat' first | with_reducible exact Keep.rfl _ | with_reducible apply keep_writeEgQueue

theorem keep_execShaperWrite {s t : State} {ch : Channel} {port : Nat} {value : BitVec 64} (h : execShaperWrite ch port value s = .next t) : Keep s.blk t.blk := by
  refine odPort_keep h ?_
  (try dsimp only)
  repeat' first | with_reducible exact Keep.rfl _ | with_reducible apply keep_writeShaper

theorem keep_execGateWrite {s t : State} {ch : Channel} {port : Nat} {value : BitVec 128} (h : execGateWrite ch port value s = .next t) : Keep s.blk t.blk := by
  refine odPort_keep h ?_
  (try dsimp only)
  repeat' first | with_reducible exact Keep.rfl _ | with_reducible apply keep_writeGate

theorem keep_execPoolWrite {s t : State} {ch : Channel} {port : Nat} {value : BitVec 64} (h : execPoolWrite ch port value s = .next t) : Keep s.blk t.blk := by
  refine odPort_keep h ?_
  (try dsimp only)
  repeat' first | with_reducible exact Keep.rfl _ | with_reducible apply keep_writePools

theorem keep_execMoveEmit {s t : State} {tile : Nat} (h : execMoveEmit tile s = .next t) : Keep s.blk t.blk := by
  refine mesh_keep h ?_
  (try dsimp only)
  repeat' first | with_reducible assumption | with_reducible exact Keep.rfl _ | with_reducible apply keep_run | with_reducible apply keep_runEmit | intro _

theorem keep_execCollDoorbell {s t : State} {plot : Nat} {offset : BitVec 32} (h : execCollDoorbell plot offset s = .next t) : Keep s.blk t.blk := by
  refine mesh_keep h ?_
  (try dsimp only)
  repeat' first | with_reducible exact Keep.rfl _ | with_reducible apply keep_doorbell

theorem keep_execKernelDoorbell {s t : State} {plot : Nat} {offset : BitVec 32} (h : execKernelDoorbell plot offset s = .next t) : Keep s.blk t.blk := by
  refine mesh_keep h ?_
  (try dsimp only)
  repeat' first | with_reducible exact Keep.rfl _ | with_reducible apply keep_doorbell

theorem keep_execCollAccept {s t : State} {plot : Nat} {desc : Bytes} (h : execCollAccept plot desc s = .next t) : Keep s.blk t.blk := by
  refine mesh_keep h ?_
  (try dsimp only)
  repeat' first | with_reducible exact Keep.rfl _ | with_reducible apply keep_collAccept

theorem keep_execCollAckReceive {s t : State} {tile : Nat} (h : execCollAckReceive tile s = .next t) : Keep s.blk t.blk := by
  refine mesh_keep h ?_
  (try dsimp only)
  repeat' first | with_reducible exact Keep.rfl _ | with_reducible apply keep_collAck

theorem keep_execCollResendReceive {s t : State} {tile : Nat} (h : execCollResendReceive tile s = .next t) : Keep s.blk t.blk := by
  refine mesh_keep h ?_
  (try dsimp only)
  repeat' first | with_reducible exact Keep.rfl _ | with_reducible apply keep_collResend

theorem keep_execCollNoAck {s t : State} {plot : Nat} {step : BitVec 32} {part chunk : Nat} (h : execCollNoAck plot step part chunk s = .next t) : Keep s.blk t.blk := by
  refine mesh_keep h ?_
  (try dsimp only)
  repeat' first | with_reducible exact Keep.rfl _ | with_reducible apply keep_collNoAck

theorem keep_execCtxAbort {s t : State} {tile ctx : Nat} (h : execCtxAbort tile ctx s = .next t) : Keep s.blk t.blk := by
  refine mesh_keep h ?_
  (try dsimp only)
  repeat' first | with_reducible exact Keep.rfl _ | with_reducible apply keep_ctxAbort

theorem keep_execCounterWrite {s t : State} {ch : Channel} {value : BitVec 32} (h : execCounterWrite ch value s = .next t) : Keep s.blk t.blk := by
  refine od_keep h ?_
  (try dsimp only)
  repeat' first | with_reducible exact Keep.rfl _ | with_reducible apply keep_odTile | with_reducible apply keep_writeCounter

theorem keep_execPmcCfgWrite {s t : State} {tile index : Nat} {value : BitVec 64} (h : execPmcCfgWrite tile index value s = .next t) : Keep s.blk t.blk := by
  refine page_keep h ?_
  (try dsimp only)
  repeat' first | with_reducible exact Keep.rfl _ | with_reducible apply keep_writePmc

theorem keep_execRakeKWrite {s t : State} {ch : Channel} {value : BitVec 8} (h : execRakeKWrite ch value s = .next t) : Keep s.blk t.blk := by
  refine od_keep h ?_
  (try dsimp only)
  repeat' first | with_reducible exact Keep.rfl _ | with_reducible apply keep_writeRakeK

theorem keep_execRakeBaseWrite {s t : State} {ch : Channel} {value : BitVec 64} (h : execRakeBaseWrite ch value s = .next t) : Keep s.blk t.blk := by
  refine od_keep h ?_
  (try dsimp only)
  repeat' first | with_reducible exact Keep.rfl _ | with_reducible apply keep_writeRakeBase

theorem keep_execRakeWriteOut {s t : State}  (h : execRakeWriteOut  s = .next t) : Keep s.blk t.blk := by
  refine mesh_keep h ?_
  (try dsimp only)
  repeat' first | with_reducible exact Keep.rfl _ | with_reducible apply keep_rakeWriteOut

theorem keep_execHistogramClear {s t : State} {ch : Channel} (h : execHistogramClear ch s = .next t) : Keep s.blk t.blk := by
  refine od_keep h ?_
  (try dsimp only)
  repeat' first | with_reducible exact Keep.rfl _ | with_reducible apply keep_odTile | with_reducible apply keep_clearHist

theorem keep_execHangThaw {s t : State} {ch : Channel} {value : BitVec 8} (h : execHangThaw ch value s = .next t) : Keep s.blk t.blk := by
  refine od_keep h ?_
  (try dsimp only)
  repeat' first | with_reducible exact Keep.rfl _ | with_reducible apply keep_odTile | with_reducible apply keep_thaw

theorem keep_execHangBaseWrite {s t : State} {ch : Channel} {value : BitVec 64} (h : execHangBaseWrite ch value s = .next t) : Keep s.blk t.blk := by
  refine od_keep h ?_
  (try dsimp only)
  repeat' first | with_reducible exact Keep.rfl _ | with_reducible apply keep_writeHangBase

theorem keep_execTraceCtrlWrite {s t : State} {ch : Channel} {value : BitVec 8} (h : execTraceCtrlWrite ch value s = .next t) : Keep s.blk t.blk := by
  refine od_keep h ?_
  (try dsimp only)
  repeat' first | with_reducible exact Keep.rfl _ | with_reducible apply keep_writeTraceCtrl

theorem keep_execMarkerSend {s t : State} {ch : Channel} {value : Bytes} (h : execMarkerSend ch value s = .next t) : Keep s.blk t.blk := by
  refine od_keep h ?_
  (try dsimp only)
  repeat' first | with_reducible exact Keep.rfl _ | with_reducible apply keep_markerSend

theorem keep_execPstoreCompaction {s t : State}  (h : execPstoreCompaction  s = .next t) : Keep s.blk t.blk := by
  refine steward_keep h ?_
  (try dsimp only)
  repeat' first | with_reducible exact Keep.rfl _ | with_reducible apply keep_compact | split

theorem keep_execTickMarkerReceive {s t : State} {die diff : Nat} (h : execTickMarkerReceive die diff s = .next t) : Keep s.blk t.blk := by
  refine mesh_keep h ?_
  (try dsimp only)
  repeat' first | with_reducible exact Keep.rfl _ | with_reducible apply keep_tickMarker

theorem keep_execFrameLockRegained {s t : State} {die : Nat} (h : execFrameLockRegained die s = .next t) : Keep s.blk t.blk := by
  refine mesh_keep h ?_
  (try dsimp only)
  repeat' first | with_reducible exact Keep.rfl _ | with_reducible apply keep_lockRegained

theorem keep_execSownWindowOpen {s t : State} {tile out entry : Nat} (h : execSownWindowOpen tile out entry s = .next t) : Keep s.blk t.blk := by
  refine mesh_keep h ?_
  (try dsimp only)
  repeat' first | with_reducible exact Keep.rfl _ | with_reducible apply keep_openWindow

theorem keep_execSownCellArrival {s t : State} {tile input : Nat} {damage : BitVec 96} (h : execSownCellArrival tile input damage s = .next t) : Keep s.blk t.blk := by
  refine mesh_keep h ?_
  (try dsimp only)
  repeat' first | with_reducible exact Keep.rfl _ | with_reducible apply keep_cellArrives

theorem keep_execXsUncorr {s t : State} {tile out : Nat} (h : execXsUncorr tile out s = .next t) : Keep s.blk t.blk := by
  refine mesh_keep h ?_
  (try dsimp only)
  repeat' first | with_reducible exact Keep.rfl _ | with_reducible apply keep_linkError

theorem keep_execXsPhyDown {s t : State} {tile out : Nat} (h : execXsPhyDown tile out s = .next t) : Keep s.blk t.blk := by
  refine mesh_keep h ?_
  (try dsimp only)
  repeat' first | with_reducible exact Keep.rfl _ | with_reducible apply keep_phyDown

theorem keep_execEngineNoProgress {s t : State} {tile engine : Nat} (h : execEngineNoProgress tile engine s = .next t) : Keep s.blk t.blk := by
  refine mesh_keep h ?_
  (try dsimp only)
  repeat' first | with_reducible exact Keep.rfl _ | with_reducible apply keep_declare

theorem keep_execSownLoadStart {s t : State} {ch : Channel} (h : execSownLoadStart ch s = .next t) : Keep s.blk t.blk := by
  refine od_keep h ?_
  (try dsimp only)
  repeat' first | with_reducible exact Keep.rfl _ | with_reducible apply keep_loadStart

theorem keep_execSownLoadDone {s t : State}  (h : execSownLoadDone  s = .next t) : Keep s.blk t.blk := by
  refine mesh_keep h ?_
  (try dsimp only)
  repeat' first | with_reducible exact Keep.rfl _ | with_reducible apply keep_loadDone

theorem keep_execSwapFrameWrite {s t : State} {ch : Channel} {frame : BitVec 64} (h : execSwapFrameWrite ch frame s = .next t) : Keep s.blk t.blk := by
  refine od_keep h ?_
  (try dsimp only)
  repeat' first | with_reducible exact Keep.rfl _ | with_reducible apply keep_writeSwapFrame

theorem keep_execSwapArm {s t : State} {ch : Channel} (h : execSwapArm ch s = .next t) : Keep s.blk t.blk := by
  refine od_keep h ?_
  (try dsimp only)
  repeat' first | with_reducible exact Keep.rfl _ | with_reducible apply keep_arm

theorem keep_execSwapDisarm {s t : State} {ch : Channel} (h : execSwapDisarm ch s = .next t) : Keep s.blk t.blk := by
  refine od_keep h ?_
  (try dsimp only)
  repeat' first | with_reducible exact Keep.rfl _ | with_reducible apply keep_disarm

theorem keep_execShadowRetireEnd {s t : State}  (h : execShadowRetireEnd  s = .next t) : Keep s.blk t.blk := by
  refine mesh_keep h ?_
  (try dsimp only)
  repeat' first | with_reducible exact Keep.rfl _ | with_reducible apply keep_retireEnd

theorem keep_execSownQuotaWrite {s t : State} {ch : Channel} {quota : BitVec 16} (h : execSownQuotaWrite ch quota s = .next t) : Keep s.blk t.blk := by
  refine od_keep h ?_
  (try dsimp only)
  repeat' first | with_reducible exact Keep.rfl _ | with_reducible apply keep_writeSownQuota

theorem keep_execExpertEntryWrite {s t : State} {ch : Channel} {entry : BitVec 64} (h : execExpertEntryWrite ch entry s = .next t) : Keep s.blk t.blk := by
  refine od_keep h ?_
  (try dsimp only)
  repeat' first | with_reducible exact Keep.rfl _ | with_reducible apply keep_writeEntry

theorem keep_execExpertDescriptorWrite {s t : State} {ch : Channel} {desc : BitVec 128} (h : execExpertDescriptorWrite ch desc s = .next t) : Keep s.blk t.blk := by
  refine od_keep h ?_
  (try dsimp only)
  repeat' first | with_reducible exact Keep.rfl _ | with_reducible apply keep_writeDesc

theorem keep_execExpertRouteWrite {s t : State} {ch : Channel} {entry : BitVec 32} (h : execExpertRouteWrite ch entry s = .next t) : Keep s.blk t.blk := by
  refine od_keep h ?_
  (try dsimp only)
  repeat' first | with_reducible exact Keep.rfl _ | with_reducible apply keep_writeRoute

theorem keep_execExpertSelectorWrite {s t : State} {ch : Channel} {sel : ExpertSel} {value : BitVec 32} (h : execExpertSelectorWrite ch sel value s = .next t) : Keep s.blk t.blk := by
  refine od_keep h ?_
  (try dsimp only)
  repeat' first | with_reducible exact Keep.rfl _ | with_reducible apply keep_writeExpertSel

theorem keep_execExpertCheck {s t : State} {ch : Channel} (h : execExpertCheck ch s = .next t) : Keep s.blk t.blk := by
  refine od_keep h ?_
  (try dsimp only)
  repeat' first | with_reducible exact Keep.rfl _ | with_reducible apply keep_expertCheck

theorem keep_execExpertCheckDone {s t : State}  (h : execExpertCheckDone  s = .next t) : Keep s.blk t.blk := by
  refine mesh_keep h ?_
  (try dsimp only)
  repeat' first | with_reducible exact Keep.rfl _ | with_reducible apply keep_expertCheckEnd

theorem keep_execSegment {s t : State} {ch : Channel} {segno : Nat} {data : Bytes} (h : execSegment ch segno data s = .next t) : Keep s.blk t.blk := by
  refine boot_keep h ?_
  (try dsimp only)
  repeat' first | with_reducible exact Keep.rfl _ | with_reducible apply keep_segment

theorem keep_execSegAck {s t : State} {ch : Channel} {segno : Nat} (h : execSegAck ch segno s = .next t) : Keep s.blk t.blk := by
  refine boot_keep h ?_
  (try dsimp only)
  repeat' first | with_reducible exact Keep.rfl _ | with_reducible apply keep_segAck

theorem keep_execSegTimeout {s t : State} {ch : Channel} (h : execSegTimeout ch s = .next t) : Keep s.blk t.blk := by
  refine boot_keep h ?_
  (try dsimp only)
  repeat' first | with_reducible exact Keep.rfl _ | with_reducible apply keep_closeXfer

theorem keep_execSegAbort {s t : State} {ch : Channel} (h : execSegAbort ch s = .next t) : Keep s.blk t.blk := by
  refine odFw_keep h ?_
  (try dsimp only)
  repeat' first | with_reducible exact Keep.rfl _ | with_reducible apply keep_segAbort

theorem keep_execRestart {s t : State} {ch : Channel} (h : execRestart ch s = .next t) : Keep s.blk t.blk := by
  refine odFw_keep h ?_
  (try dsimp only)
  repeat' first | with_reducible exact Keep.rfl _ | with_reducible apply keep_restart

theorem keep_execStartupStageDone {s t : State} {flashOk : Bool} (h : execStartupStageDone flashOk s = .next t) : Keep s.blk t.blk := by
  have h := (at_next h).2
  split at h
  · exact next_keep h (keep_stageTripped (Keep.rfl _) _)
  · exact next_keep h (keep_stageDone (Keep.rfl _) _)


theorem keep_execSelfTestDone {s t : State} {cluster : Nat} {result : BitVec 8} (h : execSelfTestDone cluster result s = .next t) : Keep s.blk t.blk := by
  refine mesh_keep h ?_
  (try dsimp only)
  repeat' first | with_reducible exact Keep.rfl _ | with_reducible apply keep_selfTestDone

theorem keep_execSelfTestStart {s t : State} {ch : Channel} (h : execSelfTestStart ch s = .next t) : Keep s.blk t.blk := by
  refine od_keep h ?_
  (try dsimp only)
  repeat' first | with_reducible exact Keep.rfl _ | with_reducible apply keep_selfTestStart

theorem keep_execVerify {s t : State} {ch : Channel} (h : execVerify ch s = .next t) : Keep s.blk t.blk := by
  refine odFw_keep h ?_
  (try dsimp only)
  repeat' first | with_reducible exact Keep.rfl _ | with_reducible apply keep_fwCmd

theorem keep_execActivate {s t : State} {ch : Channel} (h : execActivate ch s = .next t) : Keep s.blk t.blk := by
  refine odFw_keep h ?_
  (try dsimp only)
  repeat' first | with_reducible exact Keep.rfl _ | with_reducible apply keep_fwCmd

theorem keep_execConfirm {s t : State} {ch : Channel} (h : execConfirm ch s = .next t) : Keep s.blk t.blk := by
  refine odFw_keep h ?_
  (try dsimp only)
  repeat' first | with_reducible exact Keep.rfl _ | with_reducible apply keep_fwCmd

theorem keep_execErase {s t : State} {ch : Channel} (h : execErase ch s = .next t) : Keep s.blk t.blk := by
  refine odFw_keep h ?_
  (try dsimp only)
  repeat' first | with_reducible exact Keep.rfl _ | with_reducible apply keep_fwCmd

theorem keep_execFwImage {s t : State} {ch : Channel} {total : Nat} {xcrc : BitVec 32} (h : execFwImage ch total xcrc s = .next t) : Keep s.blk t.blk := by
  refine odFw_keep h ?_
  (try dsimp only)
  repeat' first | with_reducible exact Keep.rfl _ | with_reducible apply keep_domainOpen

theorem keep_execPowerStageStart {s t : State} {die index : Nat} (h : execPowerStageStart die index s = .next t) : Keep s.blk t.blk := by
  refine mesh_keep h ?_
  (try dsimp only)
  repeat' first | with_reducible exact Keep.rfl _ | with_reducible apply keep_stageStart

theorem keep_execPowerStageEnd {s t : State} {die index : Nat} (h : execPowerStageEnd die index s = .next t) : Keep s.blk t.blk := by
  refine mesh_keep h ?_
  (try dsimp only)
  repeat' first | with_reducible exact Keep.rfl _ | with_reducible apply keep_stageEnd

theorem keep_execClusterActive {s t : State} {ch : Channel} (h : execClusterActive ch s = .next t) : Keep s.blk t.blk := by
  refine od_keep h ?_
  (try dsimp only)
  repeat' first | with_reducible exact Keep.rfl _ | with_reducible apply keep_clusterCmd

theorem keep_execClusterFallow {s t : State} {ch : Channel} (h : execClusterFallow ch s = .next t) : Keep s.blk t.blk := by
  refine od_keep h ?_
  (try dsimp only)
  repeat' first | with_reducible exact Keep.rfl _ | with_reducible apply keep_clusterCmd

theorem keep_execClusterDeep {s t : State} {ch : Channel} (h : execClusterDeep ch s = .next t) : Keep s.blk t.blk := by
  refine od_keep h ?_
  (try dsimp only)
  repeat' first | with_reducible exact Keep.rfl _ | with_reducible apply keep_clusterCmd

theorem keep_execPortPwrWrite {s t : State} {ch : Channel} {port : Nat} {fallow : Bool} (h : execPortPwrWrite ch port fallow s = .next t) : Keep s.blk t.blk := by
  refine odPort_keep h ?_
  (try dsimp only)
  repeat' first | with_reducible exact Keep.rfl _ | with_reducible apply keep_writePortPwr

theorem keep_execFallowAll {s t : State} {ch : Channel} (h : execFallowAll ch s = .next t) : Keep s.blk t.blk := by
  refine od_keep h ?_
  (try dsimp only)
  repeat' first | with_reducible exact Keep.rfl _ | with_reducible apply keep_writeBlockCmd

theorem keep_execWakeAll {s t : State} {ch : Channel} (h : execWakeAll ch s = .next t) : Keep s.blk t.blk := by
  refine od_keep h ?_
  (try dsimp only)
  repeat' first | with_reducible exact Keep.rfl _ | with_reducible apply keep_writeBlockCmd

theorem keep_execPwrCtrlWrite {s t : State} {ch : Channel} {value : BitVec 64} (h : execPwrCtrlWrite ch value s = .next t) : Keep s.blk t.blk := by
  refine od_keep h ?_
  (try dsimp only)
  repeat' first | with_reducible exact Keep.rfl _ | with_reducible apply keep_writePwrCtrl

theorem keep_execThermalTrip {s t : State}  (h : execThermalTrip  s = .next t) : Keep s.blk t.blk := by
  have h := (at_next h).2
  split at h
  · cases next_inj h; exact Keep.rfl _
  · injection h with h; subst h; dsimp only; split
    · exact Keep.rfl _
    · exact keep_trip (Keep.rfl _)


theorem keep_execQuorumDfpReceive {s t : State}  (h : execQuorumDfpReceive  s = .next t) : Keep s.blk t.blk := by
  refine mesh_keep h ?_
  (try dsimp only)
  repeat' first | with_reducible exact Keep.rfl _ | with_reducible apply keep_quorumReceive

theorem keep_execHeartbeat {s t : State}  (h : execHeartbeat  s = .next t) : Keep s.blk t.blk := by
  refine mesh_keep h ?_
  (try dsimp only)
  repeat' first | with_reducible exact Keep.rfl _ | with_reducible apply keep_heartbeat

theorem keep_execView {s t : State}  (h : execView  s = .next t) : Keep s.blk t.blk := by
  refine mesh_keep h ?_
  (try dsimp only)
  repeat' first | with_reducible exact Keep.rfl _ | with_reducible apply keep_view

theorem keep_execCommit {s t : State}  (h : execCommit  s = .next t) : Keep s.blk t.blk := by
  refine mesh_keep h ?_
  (try dsimp only)
  repeat' first | with_reducible exact Keep.rfl _ | with_reducible apply keep_commit

theorem keep_execQuorumPhase1End {s t : State}  (h : execQuorumPhase1End  s = .next t) : Keep s.blk t.blk := by
  refine mesh_keep h ?_
  (try dsimp only)
  repeat' first | with_reducible exact Keep.rfl _ | with_reducible apply keep_phase1End

theorem keep_execQuorumPhase2End {s t : State}  (h : execQuorumPhase2End  s = .next t) : Keep s.blk t.blk := by
  refine mesh_keep h ?_
  (try dsimp only)
  repeat' first | with_reducible exact Keep.rfl _ | with_reducible apply keep_phase2End

theorem keep_execQuorumPhase3End {s t : State}  (h : execQuorumPhase3End  s = .next t) : Keep s.blk t.blk := by
  refine mesh_keep h ?_
  (try dsimp only)
  repeat' first | with_reducible exact Keep.rfl _ | with_reducible apply keep_phase3End

theorem keep_execQuorumGroupWrite {s t : State} {ch : Channel} {sub : Nat} {value : BitVec 64} (h : execQuorumGroupWrite ch sub value s = .next t) : Keep s.blk t.blk := by
  refine od_keep h ?_
  (try dsimp only)
  repeat' first | with_reducible exact Keep.rfl _ | with_reducible apply keep_writeGroup

theorem keep_execRejoin {s t : State} {ch : Channel} {bitmap : BitVec 32} (h : execRejoin ch bitmap s = .next t) : Keep s.blk t.blk := by
  refine od_keep h ?_
  (try dsimp only)
  repeat' first | with_reducible exact Keep.rfl _ | with_reducible apply keep_writeGroup

theorem keep_execKernelBind {s t : State} {plot : Nat} {desc : Bytes} (h : execKernelBind plot desc s = .next t) : Keep s.blk t.blk := by
  refine mesh_keep h ?_
  (try dsimp only)
  repeat' first | with_reducible exact Keep.rfl _ | with_reducible apply keep_kernelBind

theorem keep_execKernelUnbind {s t : State} {plot : Nat} {desc : Bytes} (h : execKernelUnbind plot desc s = .next t) : Keep s.blk t.blk := by
  refine mesh_keep h ?_
  (try dsimp only)
  repeat' first | with_reducible exact Keep.rfl _ | with_reducible apply keep_kernelUnbind

theorem keep_execTokenPartArrival {s t : State} {tile : Nat} (h : execTokenPartArrival tile s = .next t) : Keep s.blk t.blk := by
  refine mesh_keep h ?_
  (try dsimp only)
  repeat' first | with_reducible exact Keep.rfl _ | with_reducible apply keep_tokenPart

theorem keep_execTokenAsmTimeout {s t : State} {tile slot : Nat} (h : execTokenAsmTimeout tile slot s = .next t) : Keep s.blk t.blk := by
  refine mesh_keep h ?_
  (try dsimp only)
  repeat' first | with_reducible exact Keep.rfl _ | with_reducible apply keep_tokenAsm

theorem keep_execTokenRetTimeout {s t : State} {tile slot : Nat} (h : execTokenRetTimeout tile slot s = .next t) : Keep s.blk t.blk := by
  refine mesh_keep h ?_
  (try dsimp only)
  repeat' first | with_reducible exact Keep.rfl _ | with_reducible apply keep_tokenRet

theorem keep_execExpertOutputArrival {s t : State} {tile : Nat} (h : execExpertOutputArrival tile s = .next t) : Keep s.blk t.blk := by
  refine mesh_keep h ?_
  (try dsimp only)
  repeat' first | with_reducible exact Keep.rfl _ | with_reducible apply keep_expertOut

theorem keep_execKhdrReceive {s t : State} {tile : Nat} (h : execKhdrReceive tile s = .next t) : Keep s.blk t.blk := by
  refine mesh_keep h ?_
  (try dsimp only)
  repeat' first | with_reducible exact Keep.rfl _ | with_reducible apply keep_khdrTake

theorem keep_execKernelTrainLand {s t : State} {tile : Nat} (h : execKernelTrainLand tile s = .next t) : Keep s.blk t.blk := by
  refine mesh_keep h ?_
  (try dsimp only)
  repeat' first | with_reducible exact Keep.rfl _ | with_reducible apply keep_kernelTrain

theorem keep_execDfpIngress {s t : State} {port : Nat} {halfB : Bool} {frame : Bytes} {good : Bool} (h : execDfpIngress port halfB frame good s = .next t) : Keep s.blk t.blk := by
  refine mesh_keep h ?_
  (try dsimp only)
  repeat' first | with_reducible exact Keep.rfl _ | with_reducible apply keep_dfpIngress

theorem keep_execMsgDfpReceive {s t : State} {tile : Nat} (h : execMsgDfpReceive tile s = .next t) : Keep s.blk t.blk := by
  refine mesh_keep h ?_
  (try dsimp only)
  repeat' first | with_reducible exact Keep.rfl _ | with_reducible apply keep_msgDfp

theorem keep_execStealRequestSend {s t : State} {tile engine : Nat} (h : execStealRequestSend tile engine s = .next t) : Keep s.blk t.blk := by
  refine mesh_keep h ?_
  (try dsimp only)
  repeat' first | with_reducible exact Keep.rfl _ | with_reducible apply keep_stealSend

theorem keep_execStealRequestReceive {s t : State} {tile : Nat} (h : execStealRequestReceive tile s = .next t) : Keep s.blk t.blk := by
  refine mesh_keep h ?_
  (try dsimp only)
  repeat' first | with_reducible exact Keep.rfl _ | with_reducible apply keep_stealReceive

theorem keep_execLendReceive {s t : State} {tile engine : Nat} (h : execLendReceive tile engine s = .next t) : Keep s.blk t.blk := by
  refine mesh_keep h ?_
  (try dsimp only)
  repeat' first | with_reducible exact Keep.rfl _ | with_reducible apply keep_lendTake

theorem keep_execStolenResultReturn {s t : State} {tile lendId : Nat} (h : execStolenResultReturn tile lendId s = .next t) : Keep s.blk t.blk := by
  refine mesh_keep h ?_
  (try dsimp only)
  repeat' first | with_reducible exact Keep.rfl _ | with_reducible apply keep_stolenReturn

theorem keep_execReplyArrival {s t : State} {tile subnet : Nat} (h : execReplyArrival tile subnet s = .next t) : Keep s.blk t.blk := by
  refine mesh_keep h ?_
  (try dsimp only)
  repeat' first | with_reducible exact Keep.rfl _ | with_reducible apply keep_replyArrival

theorem keep_execReqTimeout {s t : State} {owner : SlotOwner} {slot : Nat} (h : execReqTimeout owner slot s = .next t) : Keep s.blk t.blk := by
  refine mesh_keep h ?_
  (try dsimp only)
  repeat' first | with_reducible exact Keep.rfl _ | with_reducible apply keep_reqTimeout

theorem keep_execSlotQuarantineEnd {s t : State} {owner : SlotOwner} {slot : Nat} (h : execSlotQuarantineEnd owner slot s = .next t) : Keep s.blk t.blk := by
  refine mesh_keep h ?_
  (try dsimp only)
  repeat' first | with_reducible exact Keep.rfl _ | with_reducible apply keep_quarantineEnd

theorem keep_execPlotBind {s t : State} {ch : Channel} (h : execPlotBind ch s = .next t) : Keep s.blk t.blk := by
  refine od_keep h ?_
  (try dsimp only)
  repeat' first | with_reducible exact Keep.rfl _ | with_reducible apply keep_plotCommand

theorem keep_execPlotRebind {s t : State} {ch : Channel} (h : execPlotRebind ch s = .next t) : Keep s.blk t.blk := by
  refine od_keep h ?_
  (try dsimp only)
  repeat' first | with_reducible exact Keep.rfl _ | with_reducible apply keep_plotCommand

theorem keep_execPlotTeardown {s t : State} {ch : Channel} (h : execPlotTeardown ch s = .next t) : Keep s.blk t.blk := by
  refine od_keep h ?_
  (try dsimp only)
  repeat' first | with_reducible exact Keep.rfl _ | with_reducible apply keep_plotCommand

theorem keep_execPlotBindDone {s t : State} {plot : Nat} (h : execPlotBindDone plot s = .next t) : Keep s.blk t.blk := by
  refine mesh_keep h ?_
  (try dsimp only)
  repeat' first | with_reducible exact Keep.rfl _ | with_reducible apply keep_bindDone

theorem keep_execPlotRebindDone {s t : State} {plot : Nat} (h : execPlotRebindDone plot s = .next t) : Keep s.blk t.blk := by
  refine mesh_keep h ?_
  (try dsimp only)
  repeat' first | with_reducible exact Keep.rfl _ | with_reducible apply keep_rebindDone

theorem keep_execTeardownTilesReleased {s t : State} {plot : Nat} (h : execTeardownTilesReleased plot s = .next t) : Keep s.blk t.blk := by
  refine mesh_keep h ?_
  (try dsimp only)
  repeat' first | with_reducible exact Keep.rfl _ | with_reducible apply keep_released

theorem keep_execHbmScrubDone {s t : State} {plot range : Nat} (h : execHbmScrubDone plot range s = .next t) : Keep s.blk t.blk := by
  refine mesh_keep h ?_
  (try dsimp only)
  repeat' first | with_reducible exact Keep.rfl _ | with_reducible apply keep_scrubDone

theorem keep_execQueueQuotaWrite {s t : State} {ch : Channel} {quota : BitVec 16} (h : execQueueQuotaWrite ch quota s = .next t) : Keep s.blk t.blk := by
  refine od_keep h ?_
  (try dsimp only)
  repeat' first | with_reducible exact Keep.rfl _ | with_reducible apply keep_writeQueueQuota

theorem keep_execHbmRangeWrite {s t : State} {ch : Channel} {value : BitVec 128} (h : execHbmRangeWrite ch value s = .next t) : Keep s.blk t.blk := by
  refine od_keep h ?_
  (try dsimp only)
  repeat' first | with_reducible exact Keep.rfl _ | with_reducible apply keep_writeHbmRange

theorem keep_execPlotConfigWrite {s t : State} {ch : Channel} {sub : Nat} {value : Bytes} (h : execPlotConfigWrite ch sub value s = .next t) : Keep s.blk t.blk := by
  refine od_keep h ?_
  (try dsimp only)
  repeat' first | with_reducible exact Keep.rfl _ | with_reducible apply keep_writePlotCfg

theorem keep_execGraftMapWrite {s t : State} {ch : Channel} {value : BitVec 16} (h : execGraftMapWrite ch value s = .next t) : Keep s.blk t.blk := by
  refine od_keep h ?_
  (try dsimp only)
  repeat' first | with_reducible exact Keep.rfl _ | with_reducible apply keep_writeGraftMap

theorem keep_execGraftHoldEnd {s t : State} {plot : Nat} (h : execGraftHoldEnd plot s = .next t) : Keep s.blk t.blk := by
  refine mesh_keep h ?_
  (try dsimp only)
  repeat' first | with_reducible exact Keep.rfl _ | with_reducible apply keep_modPlot

theorem keep_execAttestReport {s t : State} {ch : Channel} (h : execAttestReport ch s = .next t) : Keep s.blk t.blk := by
  have h := (at_next h).2
  split at h
  · refine next_keep h ?_
    split
    · exact keep_answer (Keep.rfl _) _ _
    · exact keep_answer (Keep.rfl _) _ _
  · cases next_inj h; exact Keep.rfl _


theorem keep_execGetVersion {s t : State} {ch : Channel} (h : execGetVersion ch s = .next t) : Keep s.blk t.blk := by
  refine steward_keep h ?_
  (try dsimp only)
  repeat' first | with_reducible exact Keep.rfl _ | with_reducible apply keep_spdmOk | with_reducible apply keep_setNegotiated

theorem keep_execGetCapabilities {s t : State} {ch : Channel} (h : execGetCapabilities ch s = .next t) : Keep s.blk t.blk := by
  refine steward_keep h ?_
  (try dsimp only)
  repeat' first | with_reducible exact Keep.rfl _ | with_reducible apply keep_spdmOk | with_reducible apply keep_setNegotiated | with_reducible apply keep_negotiatedAt

theorem keep_execNegotiateAlgorithms {s t : State} {ch : Channel} (h : execNegotiateAlgorithms ch s = .next t) : Keep s.blk t.blk := by
  refine steward_keep h ?_
  (try dsimp only)
  repeat' first | with_reducible exact Keep.rfl _ | with_reducible apply keep_spdmOk | with_reducible apply keep_setNegotiated | with_reducible apply keep_negotiatedAt

theorem keep_execGetDigests {s t : State} {ch : Channel} (h : execGetDigests ch s = .next t) : Keep s.blk t.blk := by
  refine steward_keep h ?_
  (try dsimp only)
  repeat' first | with_reducible exact Keep.rfl _ | with_reducible apply keep_vaultSay | with_reducible apply keep_negotiatedAt

theorem keep_execGetCertificate {s t : State} {ch : Channel} {offset len : Nat} (h : execGetCertificate ch offset len s = .next t) : Keep s.blk t.blk := by
  refine steward_keep h ?_
  (try dsimp only)
  repeat' first | with_reducible exact Keep.rfl _ | with_reducible apply keep_negotiatedAt | with_reducible apply keep_certificate

theorem keep_execChallenge {s t : State} {ch : Channel} {nonce : Bytes} (h : execChallenge ch nonce s = .next t) : Keep s.blk t.blk := by
  refine steward_keep h ?_
  (try dsimp only)
  repeat' first | with_reducible exact Keep.rfl _ | with_reducible apply keep_negotiatedAt | with_reducible apply keep_needRandom

theorem keep_execGetMeasurements {s t : State} {ch : Channel} {session : Option Nat} {index : Nat} {nonce : Bytes} (h : execGetMeasurements ch session index nonce s = .next t) : Keep s.blk t.blk := by
  refine steward_keep h ?_
  (try dsimp only)
  repeat' first | with_reducible apply keep_measured | split | with_reducible exact Keep.rfl _ | with_reducible apply keep_negotiatedAt | with_reducible apply keep_needRandom

theorem keep_execKeyExchange {s t : State} {ch : Channel} (h : execKeyExchange ch s = .next t) : Keep s.blk t.blk := by
  refine steward_keep h ?_
  (try dsimp only)
  repeat' first | with_reducible exact Keep.rfl _ | with_reducible apply keep_negotiatedAt | with_reducible apply keep_needRandom

theorem keep_execFinish {s t : State} {session : Nat} {mutualKey : Option Bytes} (h : execFinish session mutualKey s = .next t) : Keep s.blk t.blk := by
  refine steward_keep h ?_
  (try dsimp only)
  repeat' first | with_reducible exact Keep.rfl _ | with_reducible apply keep_finishSession

theorem keep_execHeartbeatSpdm {s t : State} {session : Nat} (h : execHeartbeatSpdm session s = .next t) : Keep s.blk t.blk := by
  refine steward_keep h ?_
  (try dsimp only)
  repeat' first | with_reducible exact Keep.rfl _ | with_reducible apply keep_spdmOk | with_reducible apply keep_inSession | intro _

theorem keep_execKeyUpdate {s t : State} {session : Nat} (h : execKeyUpdate session s = .next t) : Keep s.blk t.blk := by
  refine steward_keep h ?_
  (try dsimp only)
  repeat' first | with_reducible exact Keep.rfl _ | with_reducible apply keep_spdmOk | with_reducible apply keep_inSession | intro _

theorem keep_execEndSession {s t : State} {session : Nat} (h : execEndSession session s = .next t) : Keep s.blk t.blk := by
  refine steward_keep h ?_
  (try dsimp only)
  repeat' first | with_reducible exact Keep.rfl _ | with_reducible apply keep_endSession

theorem keep_execSpdmUnsupportedRequest {s t : State} {ch : Channel} {code : BitVec 8} (h : execSpdmUnsupportedRequest ch code s = .next t) : Keep s.blk t.blk := by
  refine steward_keep h ?_
  (try dsimp only)
  repeat' first | with_reducible exact Keep.rfl _ | with_reducible apply keep_spdmErr

theorem keep_execChunkedTransfer {s t : State} {ch : Channel} {first last : Bool} {part : Bytes} (h : execChunkedTransfer ch first last part s = .next t) : Keep s.blk t.blk := by
  refine steward_keep h ?_
  (try dsimp only)
  repeat' first | with_reducible exact Keep.rfl _ | with_reducible apply keep_spdmOk | with_reducible apply keep_chunkIn

theorem keep_execRngHealth {s t : State} {test : BitVec 32} (h : execRngHealth test s = .next t) : Keep s.blk t.blk := by
  refine vaultEvent_keep h ?_
  (try dsimp only)
  repeat' first | with_reducible exact Keep.rfl _ | with_reducible apply keep_rngHealth

theorem keep_execRngRestartPass {s t : State}  (h : execRngRestartPass  s = .next t) : Keep s.blk t.blk := by
  refine vaultEvent_keep h ?_
  (try dsimp only)
  repeat' first | with_reducible exact Keep.rfl _ | with_reducible apply keep_rngRestart

theorem keep_execRngWaitTimeout {s t : State}  (h : execRngWaitTimeout  s = .next t) : Keep s.blk t.blk := by
  refine vaultEvent_keep h ?_
  (try dsimp only)
  repeat' first | with_reducible exact Keep.rfl _ | with_reducible apply keep_rngTimeout

theorem keep_execPlotClaim {s t : State} {session plot : Nat} (h : execPlotClaim session plot s = .next t) : Keep s.blk t.blk := by
  refine steward_keep h ?_
  (try dsimp only)
  repeat' first | with_reducible exact Keep.rfl _ | with_reducible apply keep_plotClaim

theorem keep_execKeySet {s t : State} {session : Nat} {phase : Bool} {key : Bytes} (h : execKeySet session phase key s = .next t) : Keep s.blk t.blk := by
  refine steward_keep h ?_
  (try dsimp only)
  repeat' first | with_reducible exact Keep.rfl _ | with_reducible apply keep_keySet

theorem keep_execTxPhase {s t : State} {session : Nat} {phase : Bool} (h : execTxPhase session phase s = .next t) : Keep s.blk t.blk := by
  refine steward_keep h ?_
  (try dsimp only)
  repeat' first | with_reducible exact Keep.rfl _ | with_reducible apply keep_txPhase

theorem keep_execPhaseRetire {s t : State} {session : Nat} {phase : Bool} {hold : Nat} (h : execPhaseRetire session phase hold s = .next t) : Keep s.blk t.blk := by
  refine steward_keep h ?_
  (try dsimp only)
  repeat' first | with_reducible exact Keep.rfl _ | with_reducible apply keep_phaseRetire

theorem keep_execPhaseHoldEnd {s t : State} {plot : Nat} {phase : Bool} (h : execPhaseHoldEnd plot phase s = .next t) : Keep s.blk t.blk := by
  refine vaultEvent_keep h ?_
  (try dsimp only)
  repeat' first | with_reducible exact Keep.rfl _ | with_reducible apply keep_phaseHoldEnd

theorem keep_execSecFlags {s t : State} {session : Nat} {flags : BitVec 8} (h : execSecFlags session flags s = .next t) : Keep s.blk t.blk := by
  refine steward_keep h ?_
  (try dsimp only)
  repeat' first | with_reducible exact Keep.rfl _ | with_reducible apply keep_secFlags

theorem keep_execQuery {s t : State} {session : Nat} (h : execQuery session s = .next t) : Keep s.blk t.blk := by
  refine steward_keep h ?_
  (try dsimp only)
  repeat' first | with_reducible exact Keep.rfl _ | with_reducible apply keep_vaultSay | with_reducible apply keep_inIde

theorem keep_execKeyProg {s t : State} {session : Nat} {id : IdeKeyId} {key : BitVec 256} {iv : BitVec 64} (h : execKeyProg session id key iv s = .next t) : Keep s.blk t.blk := by
  refine steward_keep h ?_
  (try dsimp only)
  repeat' first | with_reducible exact Keep.rfl _ | with_reducible apply keep_ideErr | with_reducible apply keep_inIde | with_reducible apply keep_idePut | split

theorem keep_execKSetGo {s t : State} {session : Nat} {id : IdeKeyId} (h : execKSetGo session id s = .next t) : Keep s.blk t.blk := by
  refine steward_keep h ?_
  (try dsimp only)
  repeat' first | with_reducible exact Keep.rfl _ | with_reducible apply keep_ideErr | with_reducible apply keep_inIde | with_reducible apply keep_idePut | split

theorem keep_execKSetStop {s t : State} {session : Nat} {id : IdeKeyId} (h : execKSetStop session id s = .next t) : Keep s.blk t.blk := by
  refine steward_keep h ?_
  (try dsimp only)
  repeat' first | with_reducible exact Keep.rfl _ | with_reducible apply keep_ideErr | with_reducible apply keep_inIde | with_reducible apply keep_idePut | split

theorem keep_execIdeAnswer {s t : State} {ack : Bool} (h : execIdeAnswer ack s = .next t) : Keep s.blk t.blk := by
  refine vaultEvent_keep h ?_
  (try dsimp only)
  repeat' first | with_reducible exact Keep.rfl _ | with_reducible apply keep_ideAnswer

theorem keep_execIdeManagerWrite {s t : State} {ch : Channel} {value : Bytes} (h : execIdeManagerWrite ch value s = .next t) : Keep s.blk t.blk := by
  refine od_keep h ?_
  (try dsimp only)
  repeat' first | with_reducible exact Keep.rfl _ | with_reducible apply keep_writeIdeManager

theorem keep_execCapsuleUnwrap {s t : State} {plot : Nat} {value : BitVec 128} (h : execCapsuleUnwrap plot value s = .next t) : Keep s.blk t.blk := by
  refine mesh_keep h ?_
  (try dsimp only)
  repeat' first | with_reducible exact Keep.rfl _ | with_reducible apply keep_capsuleUnwrap

theorem keep_execCapsuleDone {s t : State}  (h : execCapsuleDone  s = .next t) : Keep s.blk t.blk := by
  refine mesh_keep h ?_
  (try dsimp only)
  repeat' first | with_reducible exact Keep.rfl _ | with_reducible apply keep_capsuleDone

theorem keep_execWearWrite {s t : State} {ch : Channel} {value : BitVec 64} (h : execWearWrite ch value s = .next t) : Keep s.blk t.blk := by
  refine od_keep h ?_
  (try dsimp only)
  repeat' first | with_reducible exact Keep.rfl _ | with_reducible apply keep_writeWear

theorem keep_execLibraryWrite {s t : State} {ch : Channel} {value : BitVec 64} (h : execLibraryWrite ch value s = .next t) : Keep s.blk t.blk := by
  refine od_keep h ?_
  (try dsimp only)
  repeat' first | with_reducible exact Keep.rfl _ | with_reducible apply keep_writeLibrary

theorem keep_execRailFault {s t : State} {cluster : Nat} (h : execRailFault cluster s = .next t) : Keep s.blk t.blk := by
  refine mesh_keep h ?_
  (try dsimp only)
  repeat' first | with_reducible exact Keep.rfl _ | with_reducible apply keep_declare

theorem keep_execLinkRetry {s t : State} {kindPort : Bool} {index : Nat} (h : execLinkRetry kindPort index s = .next t) : Keep s.blk t.blk := by
  refine mesh_keep h ?_
  (try dsimp only)
  repeat' first | with_reducible exact Keep.rfl _ | with_reducible apply keep_linkRetry

theorem keep_execLinkRetrain {s t : State} {kindPort : Bool} {index : Nat} {failed : Bool} (h : execLinkRetrain kindPort index failed s = .next t) : Keep s.blk t.blk := by
  refine mesh_keep h ?_
  (try dsimp only)
  repeat' first | with_reducible exact Keep.rfl _ | with_reducible apply keep_linkRetrain

theorem keep_execKeySlotWrite {s t : State} {ch : Channel} {slot : Bool} {value : Bytes} (h : execKeySlotWrite ch slot value s = .next t) : Keep s.blk t.blk := by
  refine od_keep h ?_
  (try dsimp only)
  repeat' first | with_reducible exact Keep.rfl _ | with_reducible apply keep_writeKeySlot

theorem keep_execMoaRead {s t : State} {ch : Channel} {index sub : Nat} (h : execMoaRead ch index sub s = .next t) : Keep s.blk t.blk := by
  refine request_keep h ?_
  (try dsimp only)
  repeat' first | with_reducible exact Keep.rfl _ | with_reducible apply keep_doRead

theorem keep_execMoaWrite {s t : State} {ch : Channel} {index sub : Nat} {payload : Bytes} (h : execMoaWrite ch index sub payload s = .next t) : Keep s.blk t.blk := by
  refine request_keep h ?_
  (try dsimp only)
  repeat' first | with_reducible exact Keep.rfl _ | with_reducible apply keep_odWrite | with_reducible apply keep_odAnswer

theorem keep_execOdRegisterWrite {s t : State} {ch : Channel} {index sub : Nat} {payload : Bytes} (h : execOdRegisterWrite ch index sub payload s = .next t) : Keep s.blk t.blk := by
  refine request_keep h ?_
  (try dsimp only)
  repeat' first | with_reducible exact Keep.rfl _ | with_reducible apply keep_odWrite | with_reducible apply keep_odAnswer

theorem keep_execDescribe {s t : State} {ch : Channel} {index sub : Nat} (h : execDescribe ch index sub s = .next t) : Keep s.blk t.blk := by
  refine request_keep h ?_
  (try dsimp only)
  repeat' first | with_reducible exact Keep.rfl _ | with_reducible apply keep_doDescribe

theorem keep_execSegWrite {s t : State} {ch : Channel} {index sub total : Nat} {xcrc : BitVec 32} (h : execSegWrite ch index sub total xcrc s = .next t) : Keep s.blk t.blk := by
  refine request_keep h ?_
  (try dsimp only)
  repeat' first | with_reducible exact Keep.rfl _ | with_reducible apply keep_doSegWrite | with_reducible apply keep_odAnswer

theorem keep_execSegRead {s t : State} {ch : Channel} {index sub : Nat} (h : execSegRead ch index sub s = .next t) : Keep s.blk t.blk := by
  refine request_keep h ?_
  (try dsimp only)
  repeat' first | with_reducible exact Keep.rfl _ | with_reducible apply keep_doSegRead | with_reducible apply keep_odAnswer

theorem keep_execHello {s t : State} {ch : Channel} (h : execHello ch s = .next t) : Keep s.blk t.blk := by
  have h := (at_next h).2
  split at h
  · exact next_keep h (keep_doHello (Keep.rfl _))
  · cases next_inj h; exact Keep.rfl _


theorem keep_execMoaFrameReceive {s t : State} {frame : Bytes} {good : Bool} (h : execMoaFrameReceive frame good s = .next t) : Keep s.blk t.blk := by
  have h := (at_next h).2
  split at h
  · exact next_keep h (keep_moaArrives (Keep.rfl _) _ _ _)
  · cases next_inj h; exact Keep.rfl _


theorem keep_execArpRequest {s t : State} {ip : BitVec 32} (h : execArpRequest ip s = .next t) : Keep s.blk t.blk := by
  refine steward_keep h ?_
  (try dsimp only)
  repeat' first | with_reducible exact Keep.rfl _ | with_reducible apply keep_mgmtSend | split

theorem keep_execNeighborSolicitation {s t : State} {ip : BitVec 128} (h : execNeighborSolicitation ip s = .next t) : Keep s.blk t.blk := by
  refine steward_keep h ?_
  (try dsimp only)
  repeat' first | with_reducible exact Keep.rfl _ | with_reducible apply keep_mgmtSend | split

theorem keep_execDmaWindowWrite {s t : State} {plot : Nat} {value : BitVec 128} (h : execDmaWindowWrite plot value s = .next t) : Keep s.blk t.blk := by
  refine window_keep h ?_
  (try dsimp only)
  repeat' first | with_reducible exact Keep.rfl _ | with_reducible apply keep_writeDma

theorem keep_execConsWrite {s t : State} {ring : Nat} {value : BitVec 32} (h : execConsWrite ring value s = .next t) : Keep s.blk t.blk := by
  refine window_keep h ?_
  (try dsimp only)
  repeat' first | with_reducible exact Keep.rfl _ | with_reducible apply keep_writeCons

theorem keep_execEventRingWrite {s t : State} {ring : Nat} {value : BitVec 512} (h : execEventRingWrite ring value s = .next t) : Keep s.blk t.blk := by
  refine window_keep h ?_
  (try dsimp only)
  repeat' first | with_reducible exact Keep.rfl _ | with_reducible apply keep_writeRing

theorem keep_execIrqHoldEnd {s t : State} {ring : Nat} (h : execIrqHoldEnd ring s = .next t) : Keep s.blk t.blk := by
  refine window_keep h ?_
  (try dsimp only)
  repeat' first | with_reducible exact Keep.rfl _ | with_reducible apply keep_irqHoldEnd

theorem keep_execMailboxGo {s t : State}  (h : execMailboxGo  s = .next t) : Keep s.blk t.blk := by
  refine window_keep h ?_
  (try dsimp only)
  repeat' first | with_reducible exact Keep.rfl _ | with_reducible apply keep_mailboxGo

theorem keep_execMailboxDone {s t : State}  (h : execMailboxDone  s = .next t) : Keep s.blk t.blk := by
  refine boot_keep h ?_
  (try dsimp only)
  repeat' first | with_reducible exact Keep.rfl _ | with_reducible apply keep_mailboxDone

theorem keep_execHostRegisterRead {s t : State} {offset size : Nat} (h : execHostRegisterRead offset size s = .next t) : Keep s.blk t.blk := by
  refine window_keep h ?_
  (try dsimp only)
  repeat' first | with_reducible exact Keep.rfl _ | with_reducible apply keep_upd | with_reducible apply keep_winRead | simp only [upd_eq] | (intro (hx : HostOk _); exact hx) | (intro (hx : FwOk _); exact hx)

theorem keep_execHostRegisterWrite {s t : State} {offset size : Nat} {data : BitVec 64} (h : execHostRegisterWrite offset size data s = .next t) : Keep s.blk t.blk := by
  refine window_keep h ?_
  (try dsimp only)
  repeat' first | with_reducible exact Keep.rfl _ | with_reducible apply keep_winWrite

/-- Whatever a command does, it keeps the member, the time and the canonical form of every byte memory; the frame tick and the resets
are told apart. -/
theorem exec_keep {c : Instr} {s t : State} (h : exec c s = .next t) (h1 : c ≠ .frameTick) (h2 : c ≠ .porAssert)
    (h3 : c ≠ .porRelease) (h4 : c ≠ .warmReset) : Keep s.blk t.blk := by
  cases c with
  | tickMarkerReceive => exact keep_execTickMarkerReceive h
  | frameLockRegained => exact keep_execFrameLockRegained h
  | sownWindowOpen => exact keep_execSownWindowOpen h
  | sownCellArrival => exact keep_execSownCellArrival h
  | sownLoadStart => exact keep_execSownLoadStart h
  | swapFrameWrite => exact keep_execSwapFrameWrite h
  | swapArm => exact keep_execSwapArm h
  | swapDisarm => exact keep_execSwapDisarm h
  | sownQuotaWrite => exact keep_execSownQuotaWrite h
  | expertEntryWrite => exact keep_execExpertEntryWrite h
  | expertDescriptorWrite => exact keep_execExpertDescriptorWrite h
  | expertRouteWrite => exact keep_execExpertRouteWrite h
  | expertSelectorWrite => exact keep_execExpertSelectorWrite h
  | expertCheck => exact keep_execExpertCheck h
  | engineNoProgress => exact keep_execEngineNoProgress h
  | hbmRequestUnanswered => exact keep_execHbmRequestUnanswered h
  | xsUncorr => exact keep_execXsUncorr h
  | xsPhyDown => exact keep_execXsPhyDown h
  | flitHeadArrival => exact keep_execFlitHeadArrival h
  | outputArbitration => exact keep_execOutputArbitration h
  | creditReturn => exact keep_execCreditReturn h
  | flitAgeDrop => exact keep_execFlitAgeDrop h
  | requestInject => exact keep_execRequestInject h
  | requestEject => exact keep_execRequestEject h
  | replyDeadline => exact keep_execReplyDeadline h
  | reqTimeout => exact keep_execReqTimeout h
  | slotQuarantineEnd => exact keep_execSlotQuarantineEnd h
  | replyArrival => exact keep_execReplyArrival h
  | openCtrlWrite => exact keep_execOpenCtrlWrite h
  | listLaunch => exact keep_execListLaunch h
  | launchDequeue => exact keep_execLaunchDequeue h
  | commandDispatch => exact keep_execCommandDispatch h
  | listNop => exact keep_execListNop h
  | listWait => exact keep_execListWait h
  | listSignal => exact keep_execListSignal h
  | listTick => exact keep_execListTick h
  | listLoop => exact keep_execListLoop h
  | listCall => exact keep_execListCall h
  | listEnd => exact keep_execListEnd h
  | listEvent => exact keep_execListEvent h
  | moveCopy => exact keep_execMoveCopy h
  | moveFill => exact keep_execMoveFill h
  | moveHbmRead => exact keep_execMoveHbmRead h
  | moveHbmWrite => exact keep_execMoveHbmWrite h
  | moveHostRead => exact keep_execMoveHostRead h
  | moveHostWrite => exact keep_execMoveHostWrite h
  | moveSow => exact keep_execMoveSow h
  | moveReap => exact keep_execMoveReap h
  | moveEmit => exact keep_execMoveEmit h
  | moveHbmStream => exact keep_execMoveHbmStream h
  | reduceOasis => exact keep_execReduceOasis h
  | reduceRelease => exact keep_execReduceRelease h
  | reduceAdd => exact keep_execReduceAdd h
  | reduceAddSown => exact keep_execReduceAddSown h
  | reduceScaleAdd => exact keep_execReduceScaleAdd h
  | reduceMerge => exact keep_execReduceMerge h
  | reduceRound => exact keep_execReduceRound h
  | reduceNarrow => exact keep_execReduceNarrow h
  | reduceMap => exact keep_execReduceMap h
  | reduceCrc => exact keep_execReduceCrc h
  | arrayLoad => exact keep_execArrayLoad h
  | arrayMm => exact keep_execArrayMm h
  | arrayTopk => exact keep_execArrayTopk h
  | arrayGate => exact keep_execArrayGate h
  | queueSend => exact keep_execQueueSend h
  | queueGet => exact keep_execQueueGet h
  | queuePut => exact keep_execQueuePut h
  | queueCombine => exact keep_execQueueCombine h
  | queueBind => exact keep_execQueueBind h
  | queueUnbind => exact keep_execQueueUnbind h
  | queuePop => exact keep_execQueuePop h
  | queueHandler => exact keep_execQueueHandler h
  | commandComplete => exact keep_execCommandComplete h
  | statusRecordWrite => exact keep_execStatusRecordWrite h
  | ctxAbort => exact keep_execCtxAbort h
  | semWrite => exact keep_execSemWrite h
  | stealRequestSend => exact keep_execStealRequestSend h
  | stealRequestReceive => exact keep_execStealRequestReceive h
  | lendReceive => exact keep_execLendReceive h
  | stolenResultReturn => exact keep_execStolenResultReturn h
  | engCtrlWrite => exact keep_execEngCtrlWrite h
  | msgPacketLand => exact keep_execMsgPacketLand h
  | entryPublish => exact keep_execEntryPublish h
  | handlerLaunch => exact keep_execHandlerLaunch h
  | fallbackDrain => exact keep_execFallbackDrain h
  | assemblyAbandon => exact keep_execAssemblyAbandon h
  | remoteGet => exact keep_execRemoteGet h
  | remotePut => exact keep_execRemotePut h
  | combinePacket => exact keep_execCombinePacket h
  | queueRdWrite => exact keep_execQueueRdWrite h
  | fbPop => exact keep_execFbPop h
  | collDoorbell => exact keep_execCollDoorbell h
  | collAccept => exact keep_execCollAccept h
  | collNoAck => exact keep_execCollNoAck h
  | collAckReceive => exact keep_execCollAckReceive h
  | collResendReceive => exact keep_execCollResendReceive h
  | kernelDoorbell => exact keep_execKernelDoorbell h
  | kernelBind => exact keep_execKernelBind h
  | kernelUnbind => exact keep_execKernelUnbind h
  | tokenPartArrival => exact keep_execTokenPartArrival h
  | tokenAsmTimeout => exact keep_execTokenAsmTimeout h
  | khdrReceive => exact keep_execKhdrReceive h
  | kernelTrainLand => exact keep_execKernelTrainLand h
  | expertOutputArrival => exact keep_execExpertOutputArrival h
  | tokenRetTimeout => exact keep_execTokenRetTimeout h
  | dfpIngress => exact keep_execDfpIngress h
  | msgDfpReceive => exact keep_execMsgDfpReceive h
  | egressEnqueue => exact keep_execEgressEnqueue h
  | egressSchedule => exact keep_execEgressSchedule h
  | txUnderrun => exact keep_execTxUnderrun h
  | portUp => exact keep_execPortUp h
  | portDrain => exact keep_execPortDrain h
  | portDown => exact keep_execPortDown h
  | portCtrlWrite => exact keep_execPortCtrlWrite h
  | moduleInsert => exact keep_execModuleInsert h
  | moduleRemove => exact keep_execModuleRemove h
  | svcPress => exact keep_execSvcPress h
  | svcStuck => exact keep_execSvcStuck h
  | frontPanelScan => exact keep_execFrontPanelScan h
  | portLinkUp => exact keep_execPortLinkUp h
  | portLinkDown => exact keep_execPortLinkDown h
  | drainComplete => exact keep_execDrainComplete h
  | drainLimitExpiry => exact keep_execDrainLimitExpiry h
  | sieveWrite => exact keep_execSieveWrite h
  | lookupWrite => exact keep_execLookupWrite h
  | meterWrite => exact keep_execMeterWrite h
  | egressQueueWrite => exact keep_execEgressQueueWrite h
  | shaperWrite => exact keep_execShaperWrite h
  | gateWrite => exact keep_execGateWrite h
  | poolWrite => exact keep_execPoolWrite h
  | pfcReceive => exact keep_execPfcReceive h
  | combLost => exact keep_execCombLost h
  | adcReading => exact keep_execAdcReading h
  | loopConfigWrite => exact keep_execLoopConfigWrite h
  | calGo => exact keep_execCalGo h
  | calDue => exact keep_execCalDue h
  | calStageEnd => exact keep_execCalStageEnd h
  | plotBind => exact keep_execPlotBind h
  | plotBindDone => exact keep_execPlotBindDone h
  | plotRebind => exact keep_execPlotRebind h
  | plotRebindDone => exact keep_execPlotRebindDone h
  | plotTeardown => exact keep_execPlotTeardown h
  | teardownTilesReleased => exact keep_execTeardownTilesReleased h
  | hbmScrubDone => exact keep_execHbmScrubDone h
  | plotConfigWrite => exact keep_execPlotConfigWrite h
  | queueQuotaWrite => exact keep_execQueueQuotaWrite h
  | hbmRangeWrite => exact keep_execHbmRangeWrite h
  | attestReport => exact keep_execAttestReport h
  | getVersion => exact keep_execGetVersion h
  | getCapabilities => exact keep_execGetCapabilities h
  | negotiateAlgorithms => exact keep_execNegotiateAlgorithms h
  | getDigests => exact keep_execGetDigests h
  | getCertificate => exact keep_execGetCertificate h
  | challenge => exact keep_execChallenge h
  | getMeasurements => exact keep_execGetMeasurements h
  | keyExchange => exact keep_execKeyExchange h
  | finish => exact keep_execFinish h
  | heartbeatSpdm => exact keep_execHeartbeatSpdm h
  | keyUpdate => exact keep_execKeyUpdate h
  | endSession => exact keep_execEndSession h
  | spdmUnsupportedRequest => exact keep_execSpdmUnsupportedRequest h
  | plotClaim => exact keep_execPlotClaim h
  | keySet => exact keep_execKeySet h
  | txPhase => exact keep_execTxPhase h
  | phaseRetire => exact keep_execPhaseRetire h
  | secFlags => exact keep_execSecFlags h
  | phaseHoldEnd => exact keep_execPhaseHoldEnd h
  | query => exact keep_execQuery h
  | keyProg => exact keep_execKeyProg h
  | kSetGo => exact keep_execKSetGo h
  | kSetStop => exact keep_execKSetStop h
  | ideAnswer => exact keep_execIdeAnswer h
  | ideManagerWrite => exact keep_execIdeManagerWrite h
  | capsuleUnwrap => exact keep_execCapsuleUnwrap h
  | rngHealth => exact keep_execRngHealth h
  | libraryWrite => exact keep_execLibraryWrite h
  | wearWrite => exact keep_execWearWrite h
  | heartbeatMiss => exact keep_execHeartbeatMiss h
  | quorumGroupWrite => exact keep_execQuorumGroupWrite h
  | rejoin => exact keep_execRejoin h
  | graftMapWrite => exact keep_execGraftMapWrite h
  | graftHoldEnd => exact keep_execGraftHoldEnd h
  | clusterActive => exact keep_execClusterActive h
  | clusterFallow => exact keep_execClusterFallow h
  | clusterDeep => exact keep_execClusterDeep h
  | portPwrWrite => exact keep_execPortPwrWrite h
  | fallowAll => exact keep_execFallowAll h
  | wakeAll => exact keep_execWakeAll h
  | powerStageStart => exact keep_execPowerStageStart h
  | powerStageEnd => exact keep_execPowerStageEnd h
  | pwrCtrlWrite => exact keep_execPwrCtrlWrite h
  | moaFrameReceive => exact keep_execMoaFrameReceive h
  | moaRead => exact keep_execMoaRead h
  | moaWrite => exact keep_execMoaWrite h
  | odRegisterWrite => exact keep_execOdRegisterWrite h
  | describe => exact keep_execDescribe h
  | hello => exact keep_execHello h
  | segWrite => exact keep_execSegWrite h
  | segRead => exact keep_execSegRead h
  | segAbort => exact keep_execSegAbort h
  | segment => exact keep_execSegment h
  | segAck => exact keep_execSegAck h
  | segTimeout => exact keep_execSegTimeout h
  | keySlotWrite => exact keep_execKeySlotWrite h
  | arpRequest => exact keep_execArpRequest h
  | neighborSolicitation => exact keep_execNeighborSolicitation h
  | hostRegisterWrite => exact keep_execHostRegisterWrite h
  | dmaWindowWrite => exact keep_execDmaWindowWrite h
  | eventRingWrite => exact keep_execEventRingWrite h
  | consWrite => exact keep_execConsWrite h
  | irqHoldEnd => exact keep_execIrqHoldEnd h
  | dmaCompletion => exact keep_execDmaCompletion h
  | hbmResponse => exact keep_execHbmResponse h
  | hbmRead => exact keep_execHbmRead h
  | hbmWrite => exact keep_execHbmWrite h
  | stream => exact keep_execStream h
  | streamEnd => exact keep_execStreamEnd h
  | startupStageDone => exact keep_execStartupStageDone h
  | selfTestStart => exact keep_execSelfTestStart h
  | selfTestDone => exact keep_execSelfTestDone h
  | fwImage => exact keep_execFwImage h
  | verify => exact keep_execVerify h
  | activate => exact keep_execActivate h
  | confirm => exact keep_execConfirm h
  | erase => exact keep_execErase h
  | restart => exact keep_execRestart h
  | counterWrite => exact keep_execCounterWrite h
  | pmcCfgWrite => exact keep_execPmcCfgWrite h
  | rakeKWrite => exact keep_execRakeKWrite h
  | rakeBaseWrite => exact keep_execRakeBaseWrite h
  | histogramClear => exact keep_execHistogramClear h
  | hangThaw => exact keep_execHangThaw h
  | hangBaseWrite => exact keep_execHangBaseWrite h
  | traceCtrlWrite => exact keep_execTraceCtrlWrite h
  | markerSend => exact keep_execMarkerSend h
  | railFault => exact keep_execRailFault h
  | linkRetry => exact keep_execLinkRetry h
  | linkRetrain => exact keep_execLinkRetrain h
  | dbgAccess => exact keep_execDbgAccess h
  | hostRegisterRead => exact keep_execHostRegisterRead h
  | chunkedTransfer => exact keep_execChunkedTransfer h
  | combLocked => exact keep_execCombLocked h
  | frameTick => exact absurd rfl h1
  | sownLoadDone => exact keep_execSownLoadDone h
  | shadowRetireEnd => exact keep_execShadowRetireEnd h
  | expertCheckDone => exact keep_execExpertCheckDone h
  | capsuleDone => exact keep_execCapsuleDone h
  | rngRestartPass => exact keep_execRngRestartPass h
  | rngWaitTimeout => exact keep_execRngWaitTimeout h
  | heartbeatSend => exact keep_execHeartbeatSend h
  | quorumDfpReceive => exact keep_execQuorumDfpReceive h
  | heartbeat => exact keep_execHeartbeat h
  | view => exact keep_execView h
  | commit => exact keep_execCommit h
  | quorumPhase1End => exact keep_execQuorumPhase1End h
  | quorumPhase2End => exact keep_execQuorumPhase2End h
  | quorumPhase3End => exact keep_execQuorumPhase3End h
  | thermalTrip => exact keep_execThermalTrip h
  | mailboxGo => exact keep_execMailboxGo h
  | mailboxDone => exact keep_execMailboxDone h
  | hostRead => exact keep_execHostRead h
  | hostWrite => exact keep_execHostWrite h
  | porRelease => exact absurd rfl h3
  | warmReset => exact absurd rfl h4
  | pstoreCompaction => exact keep_execPstoreCompaction h
  | rakeWriteOut => exact keep_execRakeWriteOut h
  | porAssert => exact absurd rfl h2

end Sys2Proof.Laws
end

