-- ==== Sys2Proof/Laws/State.lean ====
section
/-! SUPPORT. One lemma per part of the block for each update of another part, and what a unit reads after its update. -/
namespace Sys2Proof.Laws

open Sys2Proof.Machine

/-! ### setTile -/

@[simp] theorem setTile_member (b : Blk) (t : Nat) (x : Tile) : (b.setTile t x).member = b.member := rfl
@[simp] theorem setTile_clk (b : Blk) (t : Nat) (x : Tile) : (b.setTile t x).clk = b.clk := rfl
@[simp] theorem setTile_sown (b : Blk) (t : Nat) (x : Tile) : (b.setTile t x).sown = b.sown := rfl
@[simp] theorem setTile_opn (b : Blk) (t : Nat) (x : Tile) : (b.setTile t x).opn = b.opn := rfl
@[simp] theorem setTile_ports (b : Blk) (t : Nat) (x : Tile) : (b.setTile t x).ports = b.ports := rfl
@[simp] theorem setTile_traf (b : Blk) (t : Nat) (x : Tile) : (b.setTile t x).traf = b.traf := rfl
@[simp] theorem setTile_optics (b : Blk) (t : Nat) (x : Tile) : (b.setTile t x).optics = b.optics := rfl
@[simp] theorem setTile_plots (b : Blk) (t : Nat) (x : Tile) : (b.setTile t x).plots = b.plots := rfl
@[simp] theorem setTile_vault (b : Blk) (t : Nat) (x : Tile) : (b.setTile t x).vault = b.vault := rfl
@[simp] theorem setTile_bindCount (b : Blk) (t : Nat) (x : Tile) : (b.setTile t x).bindCount = b.bindCount := rfl
@[simp] theorem setTile_fault (b : Blk) (t : Nat) (x : Tile) : (b.setTile t x).fault = b.fault := rfl
@[simp] theorem setTile_quorum (b : Blk) (t : Nat) (x : Tile) : (b.setTile t x).quorum = b.quorum := rfl
@[simp] theorem setTile_power (b : Blk) (t : Nat) (x : Tile) : (b.setTile t x).power = b.power := rfl
@[simp] theorem setTile_mgmt (b : Blk) (t : Nat) (x : Tile) : (b.setTile t x).mgmt = b.mgmt := rfl
@[simp] theorem setTile_host (b : Blk) (t : Nat) (x : Tile) : (b.setTile t x).host = b.host := rfl
@[simp] theorem setTile_hbma (b : Blk) (t : Nat) (x : Tile) : (b.setTile t x).hbma = b.hbma := rfl
@[simp] theorem setTile_fw (b : Blk) (t : Nat) (x : Tile) : (b.setTile t x).fw = b.fw := rfl
@[simp] theorem setTile_obs (b : Blk) (t : Nat) (x : Tile) : (b.setTile t x).obs = b.obs := rfl
@[simp] theorem setTile_meshKhz (b : Blk) (t : Nat) (x : Tile) : (b.setTile t x).meshKhz = b.meshKhz := rfl
@[simp] theorem setTile_ecc (b : Blk) (t : Nat) (x : Tile) : (b.setTile t x).ecc = b.ecc := rfl
@[simp] theorem setTile_mcLog (b : Blk) (t : Nat) (x : Tile) : (b.setTile t x).mcLog = b.mcLog := rfl
@[simp] theorem setTile_sram (b : Blk) (t : Nat) (x : Tile) : (b.setTile t x).sram = b.sram := rfl
@[simp] theorem setTile_hbm (b : Blk) (t : Nat) (x : Tile) : (b.setTile t x).hbm = b.hbm := rfl

/-! ### modTile -/

@[simp] theorem modTile_member (b : Blk) (t : Nat) (f : Tile → Tile) : (b.modTile t f).member = b.member := rfl
@[simp] theorem modTile_clk (b : Blk) (t : Nat) (f : Tile → Tile) : (b.modTile t f).clk = b.clk := rfl
@[simp] theorem modTile_sown (b : Blk) (t : Nat) (f : Tile → Tile) : (b.modTile t f).sown = b.sown := rfl
@[simp] theorem modTile_opn (b : Blk) (t : Nat) (f : Tile → Tile) : (b.modTile t f).opn = b.opn := rfl
@[simp] theorem modTile_ports (b : Blk) (t : Nat) (f : Tile → Tile) : (b.modTile t f).ports = b.ports := rfl
@[simp] theorem modTile_traf (b : Blk) (t : Nat) (f : Tile → Tile) : (b.modTile t f).traf = b.traf := rfl
@[simp] theorem modTile_optics (b : Blk) (t : Nat) (f : Tile → Tile) : (b.modTile t f).optics = b.optics := rfl
@[simp] theorem modTile_plots (b : Blk) (t : Nat) (f : Tile → Tile) : (b.modTile t f).plots = b.plots := rfl
@[simp] theorem modTile_vault (b : Blk) (t : Nat) (f : Tile → Tile) : (b.modTile t f).vault = b.vault := rfl
@[simp] theorem modTile_bindCount (b : Blk) (t : Nat) (f : Tile → Tile) : (b.modTile t f).bindCount = b.bindCount := rfl
@[simp] theorem modTile_fault (b : Blk) (t : Nat) (f : Tile → Tile) : (b.modTile t f).fault = b.fault := rfl
@[simp] theorem modTile_quorum (b : Blk) (t : Nat) (f : Tile → Tile) : (b.modTile t f).quorum = b.quorum := rfl
@[simp] theorem modTile_power (b : Blk) (t : Nat) (f : Tile → Tile) : (b.modTile t f).power = b.power := rfl
@[simp] theorem modTile_mgmt (b : Blk) (t : Nat) (f : Tile → Tile) : (b.modTile t f).mgmt = b.mgmt := rfl
@[simp] theorem modTile_host (b : Blk) (t : Nat) (f : Tile → Tile) : (b.modTile t f).host = b.host := rfl
@[simp] theorem modTile_hbma (b : Blk) (t : Nat) (f : Tile → Tile) : (b.modTile t f).hbma = b.hbma := rfl
@[simp] theorem modTile_fw (b : Blk) (t : Nat) (f : Tile → Tile) : (b.modTile t f).fw = b.fw := rfl
@[simp] theorem modTile_obs (b : Blk) (t : Nat) (f : Tile → Tile) : (b.modTile t f).obs = b.obs := rfl
@[simp] theorem modTile_meshKhz (b : Blk) (t : Nat) (f : Tile → Tile) : (b.modTile t f).meshKhz = b.meshKhz := rfl
@[simp] theorem modTile_ecc (b : Blk) (t : Nat) (f : Tile → Tile) : (b.modTile t f).ecc = b.ecc := rfl
@[simp] theorem modTile_mcLog (b : Blk) (t : Nat) (f : Tile → Tile) : (b.modTile t f).mcLog = b.mcLog := rfl
@[simp] theorem modTile_sram (b : Blk) (t : Nat) (f : Tile → Tile) : (b.modTile t f).sram = b.sram := rfl
@[simp] theorem modTile_hbm (b : Blk) (t : Nat) (f : Tile → Tile) : (b.modTile t f).hbm = b.hbm := rfl

/-! ### setPort -/

@[simp] theorem setPort_member (b : Blk) (p : Nat) (x : Port) : (b.setPort p x).member = b.member := rfl
@[simp] theorem setPort_clk (b : Blk) (p : Nat) (x : Port) : (b.setPort p x).clk = b.clk := rfl
@[simp] theorem setPort_sown (b : Blk) (p : Nat) (x : Port) : (b.setPort p x).sown = b.sown := rfl
@[simp] theorem setPort_opn (b : Blk) (p : Nat) (x : Port) : (b.setPort p x).opn = b.opn := rfl
@[simp] theorem setPort_tiles (b : Blk) (p : Nat) (x : Port) : (b.setPort p x).tiles = b.tiles := rfl
@[simp] theorem setPort_traf (b : Blk) (p : Nat) (x : Port) : (b.setPort p x).traf = b.traf := rfl
@[simp] theorem setPort_optics (b : Blk) (p : Nat) (x : Port) : (b.setPort p x).optics = b.optics := rfl
@[simp] theorem setPort_plots (b : Blk) (p : Nat) (x : Port) : (b.setPort p x).plots = b.plots := rfl
@[simp] theorem setPort_vault (b : Blk) (p : Nat) (x : Port) : (b.setPort p x).vault = b.vault := rfl
@[simp] theorem setPort_bindCount (b : Blk) (p : Nat) (x : Port) : (b.setPort p x).bindCount = b.bindCount := rfl
@[simp] theorem setPort_fault (b : Blk) (p : Nat) (x : Port) : (b.setPort p x).fault = b.fault := rfl
@[simp] theorem setPort_quorum (b : Blk) (p : Nat) (x : Port) : (b.setPort p x).quorum = b.quorum := rfl
@[simp] theorem setPort_power (b : Blk) (p : Nat) (x : Port) : (b.setPort p x).power = b.power := rfl
@[simp] theorem setPort_mgmt (b : Blk) (p : Nat) (x : Port) : (b.setPort p x).mgmt = b.mgmt := rfl
@[simp] theorem setPort_host (b : Blk) (p : Nat) (x : Port) : (b.setPort p x).host = b.host := rfl
@[simp] theorem setPort_hbma (b : Blk) (p : Nat) (x : Port) : (b.setPort p x).hbma = b.hbma := rfl
@[simp] theorem setPort_fw (b : Blk) (p : Nat) (x : Port) : (b.setPort p x).fw = b.fw := rfl
@[simp] theorem setPort_obs (b : Blk) (p : Nat) (x : Port) : (b.setPort p x).obs = b.obs := rfl
@[simp] theorem setPort_meshKhz (b : Blk) (p : Nat) (x : Port) : (b.setPort p x).meshKhz = b.meshKhz := rfl
@[simp] theorem setPort_ecc (b : Blk) (p : Nat) (x : Port) : (b.setPort p x).ecc = b.ecc := rfl
@[simp] theorem setPort_mcLog (b : Blk) (p : Nat) (x : Port) : (b.setPort p x).mcLog = b.mcLog := rfl
@[simp] theorem setPort_sram (b : Blk) (p : Nat) (x : Port) : (b.setPort p x).sram = b.sram := rfl
@[simp] theorem setPort_hbm (b : Blk) (p : Nat) (x : Port) : (b.setPort p x).hbm = b.hbm := rfl

/-! ### modPort -/

@[simp] theorem modPort_member (b : Blk) (p : Nat) (f : Port → Port) : (b.modPort p f).member = b.member := rfl
@[simp] theorem modPort_clk (b : Blk) (p : Nat) (f : Port → Port) : (b.modPort p f).clk = b.clk := rfl
@[simp] theorem modPort_sown (b : Blk) (p : Nat) (f : Port → Port) : (b.modPort p f).sown = b.sown := rfl
@[simp] theorem modPort_opn (b : Blk) (p : Nat) (f : Port → Port) : (b.modPort p f).opn = b.opn := rfl
@[simp] theorem modPort_tiles (b : Blk) (p : Nat) (f : Port → Port) : (b.modPort p f).tiles = b.tiles := rfl
@[simp] theorem modPort_traf (b : Blk) (p : Nat) (f : Port → Port) : (b.modPort p f).traf = b.traf := rfl
@[simp] theorem modPort_optics (b : Blk) (p : Nat) (f : Port → Port) : (b.modPort p f).optics = b.optics := rfl
@[simp] theorem modPort_plots (b : Blk) (p : Nat) (f : Port → Port) : (b.modPort p f).plots = b.plots := rfl
@[simp] theorem modPort_vault (b : Blk) (p : Nat) (f : Port → Port) : (b.modPort p f).vault = b.vault := rfl
@[simp] theorem modPort_bindCount (b : Blk) (p : Nat) (f : Port → Port) : (b.modPort p f).bindCount = b.bindCount := rfl
@[simp] theorem modPort_fault (b : Blk) (p : Nat) (f : Port → Port) : (b.modPort p f).fault = b.fault := rfl
@[simp] theorem modPort_quorum (b : Blk) (p : Nat) (f : Port → Port) : (b.modPort p f).quorum = b.quorum := rfl
@[simp] theorem modPort_power (b : Blk) (p : Nat) (f : Port → Port) : (b.modPort p f).power = b.power := rfl
@[simp] theorem modPort_mgmt (b : Blk) (p : Nat) (f : Port → Port) : (b.modPort p f).mgmt = b.mgmt := rfl
@[simp] theorem modPort_host (b : Blk) (p : Nat) (f : Port → Port) : (b.modPort p f).host = b.host := rfl
@[simp] theorem modPort_hbma (b : Blk) (p : Nat) (f : Port → Port) : (b.modPort p f).hbma = b.hbma := rfl
@[simp] theorem modPort_fw (b : Blk) (p : Nat) (f : Port → Port) : (b.modPort p f).fw = b.fw := rfl
@[simp] theorem modPort_obs (b : Blk) (p : Nat) (f : Port → Port) : (b.modPort p f).obs = b.obs := rfl
@[simp] theorem modPort_meshKhz (b : Blk) (p : Nat) (f : Port → Port) : (b.modPort p f).meshKhz = b.meshKhz := rfl
@[simp] theorem modPort_ecc (b : Blk) (p : Nat) (f : Port → Port) : (b.modPort p f).ecc = b.ecc := rfl
@[simp] theorem modPort_mcLog (b : Blk) (p : Nat) (f : Port → Port) : (b.modPort p f).mcLog = b.mcLog := rfl
@[simp] theorem modPort_sram (b : Blk) (p : Nat) (f : Port → Port) : (b.modPort p f).sram = b.sram := rfl
@[simp] theorem modPort_hbm (b : Blk) (p : Nat) (f : Port → Port) : (b.modPort p f).hbm = b.hbm := rfl

/-! ### setPlot -/

@[simp] theorem setPlot_member (b : Blk) (p : Nat) (x : Plot) : (b.setPlot p x).member = b.member := rfl
@[simp] theorem setPlot_clk (b : Blk) (p : Nat) (x : Plot) : (b.setPlot p x).clk = b.clk := rfl
@[simp] theorem setPlot_sown (b : Blk) (p : Nat) (x : Plot) : (b.setPlot p x).sown = b.sown := rfl
@[simp] theorem setPlot_opn (b : Blk) (p : Nat) (x : Plot) : (b.setPlot p x).opn = b.opn := rfl
@[simp] theorem setPlot_tiles (b : Blk) (p : Nat) (x : Plot) : (b.setPlot p x).tiles = b.tiles := rfl
@[simp] theorem setPlot_ports (b : Blk) (p : Nat) (x : Plot) : (b.setPlot p x).ports = b.ports := rfl
@[simp] theorem setPlot_traf (b : Blk) (p : Nat) (x : Plot) : (b.setPlot p x).traf = b.traf := rfl
@[simp] theorem setPlot_optics (b : Blk) (p : Nat) (x : Plot) : (b.setPlot p x).optics = b.optics := rfl
@[simp] theorem setPlot_vault (b : Blk) (p : Nat) (x : Plot) : (b.setPlot p x).vault = b.vault := rfl
@[simp] theorem setPlot_bindCount (b : Blk) (p : Nat) (x : Plot) : (b.setPlot p x).bindCount = b.bindCount := rfl
@[simp] theorem setPlot_fault (b : Blk) (p : Nat) (x : Plot) : (b.setPlot p x).fault = b.fault := rfl
@[simp] theorem setPlot_quorum (b : Blk) (p : Nat) (x : Plot) : (b.setPlot p x).quorum = b.quorum := rfl
@[simp] theorem setPlot_power (b : Blk) (p : Nat) (x : Plot) : (b.setPlot p x).power = b.power := rfl
@[simp] theorem setPlot_mgmt (b : Blk) (p : Nat) (x : Plot) : (b.setPlot p x).mgmt = b.mgmt := rfl
@[simp] theorem setPlot_host (b : Blk) (p : Nat) (x : Plot) : (b.setPlot p x).host = b.host := rfl
@[simp] theorem setPlot_hbma (b : Blk) (p : Nat) (x : Plot) : (b.setPlot p x).hbma = b.hbma := rfl
@[simp] theorem setPlot_fw (b : Blk) (p : Nat) (x : Plot) : (b.setPlot p x).fw = b.fw := rfl
@[simp] theorem setPlot_obs (b : Blk) (p : Nat) (x : Plot) : (b.setPlot p x).obs = b.obs := rfl
@[simp] theorem setPlot_meshKhz (b : Blk) (p : Nat) (x : Plot) : (b.setPlot p x).meshKhz = b.meshKhz := rfl
@[simp] theorem setPlot_ecc (b : Blk) (p : Nat) (x : Plot) : (b.setPlot p x).ecc = b.ecc := rfl
@[simp] theorem setPlot_mcLog (b : Blk) (p : Nat) (x : Plot) : (b.setPlot p x).mcLog = b.mcLog := rfl
@[simp] theorem setPlot_sram (b : Blk) (p : Nat) (x : Plot) : (b.setPlot p x).sram = b.sram := rfl
@[simp] theorem setPlot_hbm (b : Blk) (p : Nat) (x : Plot) : (b.setPlot p x).hbm = b.hbm := rfl

/-! ### modPlot -/

@[simp] theorem modPlot_member (b : Blk) (p : Nat) (f : Plot → Plot) : (b.modPlot p f).member = b.member := rfl
@[simp] theorem modPlot_clk (b : Blk) (p : Nat) (f : Plot → Plot) : (b.modPlot p f).clk = b.clk := rfl
@[simp] theorem modPlot_sown (b : Blk) (p : Nat) (f : Plot → Plot) : (b.modPlot p f).sown = b.sown := rfl
@[simp] theorem modPlot_opn (b : Blk) (p : Nat) (f : Plot → Plot) : (b.modPlot p f).opn = b.opn := rfl
@[simp] theorem modPlot_tiles (b : Blk) (p : Nat) (f : Plot → Plot) : (b.modPlot p f).tiles = b.tiles := rfl
@[simp] theorem modPlot_ports (b : Blk) (p : Nat) (f : Plot → Plot) : (b.modPlot p f).ports = b.ports := rfl
@[simp] theorem modPlot_traf (b : Blk) (p : Nat) (f : Plot → Plot) : (b.modPlot p f).traf = b.traf := rfl
@[simp] theorem modPlot_optics (b : Blk) (p : Nat) (f : Plot → Plot) : (b.modPlot p f).optics = b.optics := rfl
@[simp] theorem modPlot_vault (b : Blk) (p : Nat) (f : Plot → Plot) : (b.modPlot p f).vault = b.vault := rfl
@[simp] theorem modPlot_bindCount (b : Blk) (p : Nat) (f : Plot → Plot) : (b.modPlot p f).bindCount = b.bindCount := rfl
@[simp] theorem modPlot_fault (b : Blk) (p : Nat) (f : Plot → Plot) : (b.modPlot p f).fault = b.fault := rfl
@[simp] theorem modPlot_quorum (b : Blk) (p : Nat) (f : Plot → Plot) : (b.modPlot p f).quorum = b.quorum := rfl
@[simp] theorem modPlot_power (b : Blk) (p : Nat) (f : Plot → Plot) : (b.modPlot p f).power = b.power := rfl
@[simp] theorem modPlot_mgmt (b : Blk) (p : Nat) (f : Plot → Plot) : (b.modPlot p f).mgmt = b.mgmt := rfl
@[simp] theorem modPlot_host (b : Blk) (p : Nat) (f : Plot → Plot) : (b.modPlot p f).host = b.host := rfl
@[simp] theorem modPlot_hbma (b : Blk) (p : Nat) (f : Plot → Plot) : (b.modPlot p f).hbma = b.hbma := rfl
@[simp] theorem modPlot_fw (b : Blk) (p : Nat) (f : Plot → Plot) : (b.modPlot p f).fw = b.fw := rfl
@[simp] theorem modPlot_obs (b : Blk) (p : Nat) (f : Plot → Plot) : (b.modPlot p f).obs = b.obs := rfl
@[simp] theorem modPlot_meshKhz (b : Blk) (p : Nat) (f : Plot → Plot) : (b.modPlot p f).meshKhz = b.meshKhz := rfl
@[simp] theorem modPlot_ecc (b : Blk) (p : Nat) (f : Plot → Plot) : (b.modPlot p f).ecc = b.ecc := rfl
@[simp] theorem modPlot_mcLog (b : Blk) (p : Nat) (f : Plot → Plot) : (b.modPlot p f).mcLog = b.mcLog := rfl
@[simp] theorem modPlot_sram (b : Blk) (p : Nat) (f : Plot → Plot) : (b.modPlot p f).sram = b.sram := rfl
@[simp] theorem modPlot_hbm (b : Blk) (p : Nat) (f : Plot → Plot) : (b.modPlot p f).hbm = b.hbm := rfl

/-! ### modHbm -/

@[simp] theorem modHbm_member (b : Blk) (t : Nat) (f : HbmAttach → HbmAttach) : (b.modHbm t f).member = b.member := rfl
@[simp] theorem modHbm_clk (b : Blk) (t : Nat) (f : HbmAttach → HbmAttach) : (b.modHbm t f).clk = b.clk := rfl
@[simp] theorem modHbm_sown (b : Blk) (t : Nat) (f : HbmAttach → HbmAttach) : (b.modHbm t f).sown = b.sown := rfl
@[simp] theorem modHbm_opn (b : Blk) (t : Nat) (f : HbmAttach → HbmAttach) : (b.modHbm t f).opn = b.opn := rfl
@[simp] theorem modHbm_tiles (b : Blk) (t : Nat) (f : HbmAttach → HbmAttach) : (b.modHbm t f).tiles = b.tiles := rfl
@[simp] theorem modHbm_ports (b : Blk) (t : Nat) (f : HbmAttach → HbmAttach) : (b.modHbm t f).ports = b.ports := rfl
@[simp] theorem modHbm_traf (b : Blk) (t : Nat) (f : HbmAttach → HbmAttach) : (b.modHbm t f).traf = b.traf := rfl
@[simp] theorem modHbm_optics (b : Blk) (t : Nat) (f : HbmAttach → HbmAttach) : (b.modHbm t f).optics = b.optics := rfl
@[simp] theorem modHbm_plots (b : Blk) (t : Nat) (f : HbmAttach → HbmAttach) : (b.modHbm t f).plots = b.plots := rfl
@[simp] theorem modHbm_vault (b : Blk) (t : Nat) (f : HbmAttach → HbmAttach) : (b.modHbm t f).vault = b.vault := rfl
@[simp] theorem modHbm_bindCount (b : Blk) (t : Nat) (f : HbmAttach → HbmAttach) : (b.modHbm t f).bindCount = b.bindCount := rfl
@[simp] theorem modHbm_fault (b : Blk) (t : Nat) (f : HbmAttach → HbmAttach) : (b.modHbm t f).fault = b.fault := rfl
@[simp] theorem modHbm_quorum (b : Blk) (t : Nat) (f : HbmAttach → HbmAttach) : (b.modHbm t f).quorum = b.quorum := rfl
@[simp] theorem modHbm_power (b : Blk) (t : Nat) (f : HbmAttach → HbmAttach) : (b.modHbm t f).power = b.power := rfl
@[simp] theorem modHbm_mgmt (b : Blk) (t : Nat) (f : HbmAttach → HbmAttach) : (b.modHbm t f).mgmt = b.mgmt := rfl
@[simp] theorem modHbm_host (b : Blk) (t : Nat) (f : HbmAttach → HbmAttach) : (b.modHbm t f).host = b.host := rfl
@[simp] theorem modHbm_fw (b : Blk) (t : Nat) (f : HbmAttach → HbmAttach) : (b.modHbm t f).fw = b.fw := rfl
@[simp] theorem modHbm_obs (b : Blk) (t : Nat) (f : HbmAttach → HbmAttach) : (b.modHbm t f).obs = b.obs := rfl
@[simp] theorem modHbm_meshKhz (b : Blk) (t : Nat) (f : HbmAttach → HbmAttach) : (b.modHbm t f).meshKhz = b.meshKhz := rfl
@[simp] theorem modHbm_ecc (b : Blk) (t : Nat) (f : HbmAttach → HbmAttach) : (b.modHbm t f).ecc = b.ecc := rfl
@[simp] theorem modHbm_mcLog (b : Blk) (t : Nat) (f : HbmAttach → HbmAttach) : (b.modHbm t f).mcLog = b.mcLog := rfl
@[simp] theorem modHbm_sram (b : Blk) (t : Nat) (f : HbmAttach → HbmAttach) : (b.modHbm t f).sram = b.sram := rfl
@[simp] theorem modHbm_hbm (b : Blk) (t : Nat) (f : HbmAttach → HbmAttach) : (b.modHbm t f).hbm = b.hbm := rfl

/-! ### modLoop -/

@[simp] theorem modLoop_member (b : Blk) (l : Nat) (f : Loop → Loop) : (b.modLoop l f).member = b.member := rfl
@[simp] theorem modLoop_clk (b : Blk) (l : Nat) (f : Loop → Loop) : (b.modLoop l f).clk = b.clk := rfl
@[simp] theorem modLoop_sown (b : Blk) (l : Nat) (f : Loop → Loop) : (b.modLoop l f).sown = b.sown := rfl
@[simp] theorem modLoop_opn (b : Blk) (l : Nat) (f : Loop → Loop) : (b.modLoop l f).opn = b.opn := rfl
@[simp] theorem modLoop_tiles (b : Blk) (l : Nat) (f : Loop → Loop) : (b.modLoop l f).tiles = b.tiles := rfl
@[simp] theorem modLoop_ports (b : Blk) (l : Nat) (f : Loop → Loop) : (b.modLoop l f).ports = b.ports := rfl
@[simp] theorem modLoop_traf (b : Blk) (l : Nat) (f : Loop → Loop) : (b.modLoop l f).traf = b.traf := rfl
@[simp] theorem modLoop_plots (b : Blk) (l : Nat) (f : Loop → Loop) : (b.modLoop l f).plots = b.plots := rfl
@[simp] theorem modLoop_vault (b : Blk) (l : Nat) (f : Loop → Loop) : (b.modLoop l f).vault = b.vault := rfl
@[simp] theorem modLoop_bindCount (b : Blk) (l : Nat) (f : Loop → Loop) : (b.modLoop l f).bindCount = b.bindCount := rfl
@[simp] theorem modLoop_fault (b : Blk) (l : Nat) (f : Loop → Loop) : (b.modLoop l f).fault = b.fault := rfl
@[simp] theorem modLoop_quorum (b : Blk) (l : Nat) (f : Loop → Loop) : (b.modLoop l f).quorum = b.quorum := rfl
@[simp] theorem modLoop_power (b : Blk) (l : Nat) (f : Loop → Loop) : (b.modLoop l f).power = b.power := rfl
@[simp] theorem modLoop_mgmt (b : Blk) (l : Nat) (f : Loop → Loop) : (b.modLoop l f).mgmt = b.mgmt := rfl
@[simp] theorem modLoop_host (b : Blk) (l : Nat) (f : Loop → Loop) : (b.modLoop l f).host = b.host := rfl
@[simp] theorem modLoop_hbma (b : Blk) (l : Nat) (f : Loop → Loop) : (b.modLoop l f).hbma = b.hbma := rfl
@[simp] theorem modLoop_fw (b : Blk) (l : Nat) (f : Loop → Loop) : (b.modLoop l f).fw = b.fw := rfl
@[simp] theorem modLoop_obs (b : Blk) (l : Nat) (f : Loop → Loop) : (b.modLoop l f).obs = b.obs := rfl
@[simp] theorem modLoop_meshKhz (b : Blk) (l : Nat) (f : Loop → Loop) : (b.modLoop l f).meshKhz = b.meshKhz := rfl
@[simp] theorem modLoop_ecc (b : Blk) (l : Nat) (f : Loop → Loop) : (b.modLoop l f).ecc = b.ecc := rfl
@[simp] theorem modLoop_mcLog (b : Blk) (l : Nat) (f : Loop → Loop) : (b.modLoop l f).mcLog = b.mcLog := rfl
@[simp] theorem modLoop_sram (b : Blk) (l : Nat) (f : Loop → Loop) : (b.modLoop l f).sram = b.sram := rfl
@[simp] theorem modLoop_hbm (b : Blk) (l : Nat) (f : Loop → Loop) : (b.modLoop l f).hbm = b.hbm := rfl

/-! ### modOptPort -/

@[simp] theorem modOptPort_member (b : Blk) (p : Nat) (f : OptPort → OptPort) : (b.modOptPort p f).member = b.member := rfl
@[simp] theorem modOptPort_clk (b : Blk) (p : Nat) (f : OptPort → OptPort) : (b.modOptPort p f).clk = b.clk := rfl
@[simp] theorem modOptPort_sown (b : Blk) (p : Nat) (f : OptPort → OptPort) : (b.modOptPort p f).sown = b.sown := rfl
@[simp] theorem modOptPort_opn (b : Blk) (p : Nat) (f : OptPort → OptPort) : (b.modOptPort p f).opn = b.opn := rfl
@[simp] theorem modOptPort_tiles (b : Blk) (p : Nat) (f : OptPort → OptPort) : (b.modOptPort p f).tiles = b.tiles := rfl
@[simp] theorem modOptPort_ports (b : Blk) (p : Nat) (f : OptPort → OptPort) : (b.modOptPort p f).ports = b.ports := rfl
@[simp] theorem modOptPort_traf (b : Blk) (p : Nat) (f : OptPort → OptPort) : (b.modOptPort p f).traf = b.traf := rfl
@[simp] theorem modOptPort_plots (b : Blk) (p : Nat) (f : OptPort → OptPort) : (b.modOptPort p f).plots = b.plots := rfl
@[simp] theorem modOptPort_vault (b : Blk) (p : Nat) (f : OptPort → OptPort) : (b.modOptPort p f).vault = b.vault := rfl
@[simp] theorem modOptPort_bindCount (b : Blk) (p : Nat) (f : OptPort → OptPort) : (b.modOptPort p f).bindCount = b.bindCount := rfl
@[simp] theorem modOptPort_fault (b : Blk) (p : Nat) (f : OptPort → OptPort) : (b.modOptPort p f).fault = b.fault := rfl
@[simp] theorem modOptPort_quorum (b : Blk) (p : Nat) (f : OptPort → OptPort) : (b.modOptPort p f).quorum = b.quorum := rfl
@[simp] theorem modOptPort_power (b : Blk) (p : Nat) (f : OptPort → OptPort) : (b.modOptPort p f).power = b.power := rfl
@[simp] theorem modOptPort_mgmt (b : Blk) (p : Nat) (f : OptPort → OptPort) : (b.modOptPort p f).mgmt = b.mgmt := rfl
@[simp] theorem modOptPort_host (b : Blk) (p : Nat) (f : OptPort → OptPort) : (b.modOptPort p f).host = b.host := rfl
@[simp] theorem modOptPort_hbma (b : Blk) (p : Nat) (f : OptPort → OptPort) : (b.modOptPort p f).hbma = b.hbma := rfl
@[simp] theorem modOptPort_fw (b : Blk) (p : Nat) (f : OptPort → OptPort) : (b.modOptPort p f).fw = b.fw := rfl
@[simp] theorem modOptPort_obs (b : Blk) (p : Nat) (f : OptPort → OptPort) : (b.modOptPort p f).obs = b.obs := rfl
@[simp] theorem modOptPort_meshKhz (b : Blk) (p : Nat) (f : OptPort → OptPort) : (b.modOptPort p f).meshKhz = b.meshKhz := rfl
@[simp] theorem modOptPort_ecc (b : Blk) (p : Nat) (f : OptPort → OptPort) : (b.modOptPort p f).ecc = b.ecc := rfl
@[simp] theorem modOptPort_mcLog (b : Blk) (p : Nat) (f : OptPort → OptPort) : (b.modOptPort p f).mcLog = b.mcLog := rfl
@[simp] theorem modOptPort_sram (b : Blk) (p : Nat) (f : OptPort → OptPort) : (b.modOptPort p f).sram = b.sram := rfl
@[simp] theorem modOptPort_hbm (b : Blk) (p : Nat) (f : OptPort → OptPort) : (b.modOptPort p f).hbm = b.hbm := rfl

/-! ### modRing -/

@[simp] theorem modRing_member (b : Blk) (r : Nat) (f : Ring → Ring) : (b.modRing r f).member = b.member := rfl
@[simp] theorem modRing_clk (b : Blk) (r : Nat) (f : Ring → Ring) : (b.modRing r f).clk = b.clk := rfl
@[simp] theorem modRing_sown (b : Blk) (r : Nat) (f : Ring → Ring) : (b.modRing r f).sown = b.sown := rfl
@[simp] theorem modRing_opn (b : Blk) (r : Nat) (f : Ring → Ring) : (b.modRing r f).opn = b.opn := rfl
@[simp] theorem modRing_tiles (b : Blk) (r : Nat) (f : Ring → Ring) : (b.modRing r f).tiles = b.tiles := rfl
@[simp] theorem modRing_ports (b : Blk) (r : Nat) (f : Ring → Ring) : (b.modRing r f).ports = b.ports := rfl
@[simp] theorem modRing_traf (b : Blk) (r : Nat) (f : Ring → Ring) : (b.modRing r f).traf = b.traf := rfl
@[simp] theorem modRing_optics (b : Blk) (r : Nat) (f : Ring → Ring) : (b.modRing r f).optics = b.optics := rfl
@[simp] theorem modRing_plots (b : Blk) (r : Nat) (f : Ring → Ring) : (b.modRing r f).plots = b.plots := rfl
@[simp] theorem modRing_vault (b : Blk) (r : Nat) (f : Ring → Ring) : (b.modRing r f).vault = b.vault := rfl
@[simp] theorem modRing_bindCount (b : Blk) (r : Nat) (f : Ring → Ring) : (b.modRing r f).bindCount = b.bindCount := rfl
@[simp] theorem modRing_fault (b : Blk) (r : Nat) (f : Ring → Ring) : (b.modRing r f).fault = b.fault := rfl
@[simp] theorem modRing_quorum (b : Blk) (r : Nat) (f : Ring → Ring) : (b.modRing r f).quorum = b.quorum := rfl
@[simp] theorem modRing_power (b : Blk) (r : Nat) (f : Ring → Ring) : (b.modRing r f).power = b.power := rfl
@[simp] theorem modRing_mgmt (b : Blk) (r : Nat) (f : Ring → Ring) : (b.modRing r f).mgmt = b.mgmt := rfl
@[simp] theorem modRing_hbma (b : Blk) (r : Nat) (f : Ring → Ring) : (b.modRing r f).hbma = b.hbma := rfl
@[simp] theorem modRing_fw (b : Blk) (r : Nat) (f : Ring → Ring) : (b.modRing r f).fw = b.fw := rfl
@[simp] theorem modRing_obs (b : Blk) (r : Nat) (f : Ring → Ring) : (b.modRing r f).obs = b.obs := rfl
@[simp] theorem modRing_meshKhz (b : Blk) (r : Nat) (f : Ring → Ring) : (b.modRing r f).meshKhz = b.meshKhz := rfl
@[simp] theorem modRing_ecc (b : Blk) (r : Nat) (f : Ring → Ring) : (b.modRing r f).ecc = b.ecc := rfl
@[simp] theorem modRing_mcLog (b : Blk) (r : Nat) (f : Ring → Ring) : (b.modRing r f).mcLog = b.mcLog := rfl
@[simp] theorem modRing_sram (b : Blk) (r : Nat) (f : Ring → Ring) : (b.modRing r f).sram = b.sram := rfl
@[simp] theorem modRing_hbm (b : Blk) (r : Nat) (f : Ring → Ring) : (b.modRing r f).hbm = b.hbm := rfl

/-! ### modDie -/

@[simp] theorem modDie_member (b : Blk) (d : Nat) (f : DieLock → DieLock) : (b.modDie d f).member = b.member := rfl
@[simp] theorem modDie_clk (b : Blk) (d : Nat) (f : DieLock → DieLock) : (b.modDie d f).clk = b.clk := rfl
@[simp] theorem modDie_opn (b : Blk) (d : Nat) (f : DieLock → DieLock) : (b.modDie d f).opn = b.opn := rfl
@[simp] theorem modDie_tiles (b : Blk) (d : Nat) (f : DieLock → DieLock) : (b.modDie d f).tiles = b.tiles := rfl
@[simp] theorem modDie_ports (b : Blk) (d : Nat) (f : DieLock → DieLock) : (b.modDie d f).ports = b.ports := rfl
@[simp] theorem modDie_traf (b : Blk) (d : Nat) (f : DieLock → DieLock) : (b.modDie d f).traf = b.traf := rfl
@[simp] theorem modDie_optics (b : Blk) (d : Nat) (f : DieLock → DieLock) : (b.modDie d f).optics = b.optics := rfl
@[simp] theorem modDie_plots (b : Blk) (d : Nat) (f : DieLock → DieLock) : (b.modDie d f).plots = b.plots := rfl
@[simp] theorem modDie_vault (b : Blk) (d : Nat) (f : DieLock → DieLock) : (b.modDie d f).vault = b.vault := rfl
@[simp] theorem modDie_bindCount (b : Blk) (d : Nat) (f : DieLock → DieLock) : (b.modDie d f).bindCount = b.bindCount := rfl
@[simp] theorem modDie_fault (b : Blk) (d : Nat) (f : DieLock → DieLock) : (b.modDie d f).fault = b.fault := rfl
@[simp] theorem modDie_quorum (b : Blk) (d : Nat) (f : DieLock → DieLock) : (b.modDie d f).quorum = b.quorum := rfl
@[simp] theorem modDie_power (b : Blk) (d : Nat) (f : DieLock → DieLock) : (b.modDie d f).power = b.power := rfl
@[simp] theorem modDie_mgmt (b : Blk) (d : Nat) (f : DieLock → DieLock) : (b.modDie d f).mgmt = b.mgmt := rfl
@[simp] theorem modDie_host (b : Blk) (d : Nat) (f : DieLock → DieLock) : (b.modDie d f).host = b.host := rfl
@[simp] theorem modDie_hbma (b : Blk) (d : Nat) (f : DieLock → DieLock) : (b.modDie d f).hbma = b.hbma := rfl
@[simp] theorem modDie_fw (b : Blk) (d : Nat) (f : DieLock → DieLock) : (b.modDie d f).fw = b.fw := rfl
@[simp] theorem modDie_obs (b : Blk) (d : Nat) (f : DieLock → DieLock) : (b.modDie d f).obs = b.obs := rfl
@[simp] theorem modDie_meshKhz (b : Blk) (d : Nat) (f : DieLock → DieLock) : (b.modDie d f).meshKhz = b.meshKhz := rfl
@[simp] theorem modDie_ecc (b : Blk) (d : Nat) (f : DieLock → DieLock) : (b.modDie d f).ecc = b.ecc := rfl
@[simp] theorem modDie_mcLog (b : Blk) (d : Nat) (f : DieLock → DieLock) : (b.modDie d f).mcLog = b.mcLog := rfl
@[simp] theorem modDie_sram (b : Blk) (d : Nat) (f : DieLock → DieLock) : (b.modDie d f).sram = b.sram := rfl
@[simp] theorem modDie_hbm (b : Blk) (d : Nat) (f : DieLock → DieLock) : (b.modDie d f).hbm = b.hbm := rfl

/-! ### modEgQueue -/

@[simp] theorem modEgQueue_member (b : Blk) (p q : Nat) (f : EgQueue → EgQueue) : (b.modEgQueue p q f).member = b.member := rfl
@[simp] theorem modEgQueue_clk (b : Blk) (p q : Nat) (f : EgQueue → EgQueue) : (b.modEgQueue p q f).clk = b.clk := rfl
@[simp] theorem modEgQueue_sown (b : Blk) (p q : Nat) (f : EgQueue → EgQueue) : (b.modEgQueue p q f).sown = b.sown := rfl
@[simp] theorem modEgQueue_opn (b : Blk) (p q : Nat) (f : EgQueue → EgQueue) : (b.modEgQueue p q f).opn = b.opn := rfl
@[simp] theorem modEgQueue_tiles (b : Blk) (p q : Nat) (f : EgQueue → EgQueue) : (b.modEgQueue p q f).tiles = b.tiles := rfl
@[simp] theorem modEgQueue_traf (b : Blk) (p q : Nat) (f : EgQueue → EgQueue) : (b.modEgQueue p q f).traf = b.traf := rfl
@[simp] theorem modEgQueue_optics (b : Blk) (p q : Nat) (f : EgQueue → EgQueue) : (b.modEgQueue p q f).optics = b.optics := rfl
@[simp] theorem modEgQueue_plots (b : Blk) (p q : Nat) (f : EgQueue → EgQueue) : (b.modEgQueue p q f).plots = b.plots := rfl
@[simp] theorem modEgQueue_vault (b : Blk) (p q : Nat) (f : EgQueue → EgQueue) : (b.modEgQueue p q f).vault = b.vault := rfl
@[simp] theorem modEgQueue_bindCount (b : Blk) (p q : Nat) (f : EgQueue → EgQueue) : (b.modEgQueue p q f).bindCount = b.bindCount := rfl
@[simp] theorem modEgQueue_fault (b : Blk) (p q : Nat) (f : EgQueue → EgQueue) : (b.modEgQueue p q f).fault = b.fault := rfl
@[simp] theorem modEgQueue_quorum (b : Blk) (p q : Nat) (f : EgQueue → EgQueue) : (b.modEgQueue p q f).quorum = b.quorum := rfl
@[simp] theorem modEgQueue_power (b : Blk) (p q : Nat) (f : EgQueue → EgQueue) : (b.modEgQueue p q f).power = b.power := rfl
@[simp] theorem modEgQueue_mgmt (b : Blk) (p q : Nat) (f : EgQueue → EgQueue) : (b.modEgQueue p q f).mgmt = b.mgmt := rfl
@[simp] theorem modEgQueue_host (b : Blk) (p q : Nat) (f : EgQueue → EgQueue) : (b.modEgQueue p q f).host = b.host := rfl
@[simp] theorem modEgQueue_hbma (b : Blk) (p q : Nat) (f : EgQueue → EgQueue) : (b.modEgQueue p q f).hbma = b.hbma := rfl
@[simp] theorem modEgQueue_fw (b : Blk) (p q : Nat) (f : EgQueue → EgQueue) : (b.modEgQueue p q f).fw = b.fw := rfl
@[simp] theorem modEgQueue_obs (b : Blk) (p q : Nat) (f : EgQueue → EgQueue) : (b.modEgQueue p q f).obs = b.obs := rfl
@[simp] theorem modEgQueue_meshKhz (b : Blk) (p q : Nat) (f : EgQueue → EgQueue) : (b.modEgQueue p q f).meshKhz = b.meshKhz := rfl
@[simp] theorem modEgQueue_ecc (b : Blk) (p q : Nat) (f : EgQueue → EgQueue) : (b.modEgQueue p q f).ecc = b.ecc := rfl
@[simp] theorem modEgQueue_mcLog (b : Blk) (p q : Nat) (f : EgQueue → EgQueue) : (b.modEgQueue p q f).mcLog = b.mcLog := rfl
@[simp] theorem modEgQueue_sram (b : Blk) (p q : Nat) (f : EgQueue → EgQueue) : (b.modEgQueue p q f).sram = b.sram := rfl
@[simp] theorem modEgQueue_hbm (b : Blk) (p q : Nat) (f : EgQueue → EgQueue) : (b.modEgQueue p q f).hbm = b.hbm := rfl

/-! ### writeSram -/

@[simp] theorem writeSram_member (b : Blk) (t a : Nat) (xs : Bytes) : (b.writeSram t a xs).member = b.member := rfl
@[simp] theorem writeSram_clk (b : Blk) (t a : Nat) (xs : Bytes) : (b.writeSram t a xs).clk = b.clk := rfl
@[simp] theorem writeSram_sown (b : Blk) (t a : Nat) (xs : Bytes) : (b.writeSram t a xs).sown = b.sown := rfl
@[simp] theorem writeSram_opn (b : Blk) (t a : Nat) (xs : Bytes) : (b.writeSram t a xs).opn = b.opn := rfl
@[simp] theorem writeSram_tiles (b : Blk) (t a : Nat) (xs : Bytes) : (b.writeSram t a xs).tiles = b.tiles := rfl
@[simp] theorem writeSram_ports (b : Blk) (t a : Nat) (xs : Bytes) : (b.writeSram t a xs).ports = b.ports := rfl
@[simp] theorem writeSram_traf (b : Blk) (t a : Nat) (xs : Bytes) : (b.writeSram t a xs).traf = b.traf := rfl
@[simp] theorem writeSram_optics (b : Blk) (t a : Nat) (xs : Bytes) : (b.writeSram t a xs).optics = b.optics := rfl
@[simp] theorem writeSram_plots (b : Blk) (t a : Nat) (xs : Bytes) : (b.writeSram t a xs).plots = b.plots := rfl
@[simp] theorem writeSram_vault (b : Blk) (t a : Nat) (xs : Bytes) : (b.writeSram t a xs).vault = b.vault := rfl
@[simp] theorem writeSram_bindCount (b : Blk) (t a : Nat) (xs : Bytes) : (b.writeSram t a xs).bindCount = b.bindCount := rfl
@[simp] theorem writeSram_fault (b : Blk) (t a : Nat) (xs : Bytes) : (b.writeSram t a xs).fault = b.fault := rfl
@[simp] theorem writeSram_quorum (b : Blk) (t a : Nat) (xs : Bytes) : (b.writeSram t a xs).quorum = b.quorum := rfl
@[simp] theorem writeSram_power (b : Blk) (t a : Nat) (xs : Bytes) : (b.writeSram t a xs).power = b.power := rfl
@[simp] theorem writeSram_mgmt (b : Blk) (t a : Nat) (xs : Bytes) : (b.writeSram t a xs).mgmt = b.mgmt := rfl
@[simp] theorem writeSram_host (b : Blk) (t a : Nat) (xs : Bytes) : (b.writeSram t a xs).host = b.host := rfl
@[simp] theorem writeSram_hbma (b : Blk) (t a : Nat) (xs : Bytes) : (b.writeSram t a xs).hbma = b.hbma := rfl
@[simp] theorem writeSram_fw (b : Blk) (t a : Nat) (xs : Bytes) : (b.writeSram t a xs).fw = b.fw := rfl
@[simp] theorem writeSram_obs (b : Blk) (t a : Nat) (xs : Bytes) : (b.writeSram t a xs).obs = b.obs := rfl
@[simp] theorem writeSram_meshKhz (b : Blk) (t a : Nat) (xs : Bytes) : (b.writeSram t a xs).meshKhz = b.meshKhz := rfl
@[simp] theorem writeSram_mcLog (b : Blk) (t a : Nat) (xs : Bytes) : (b.writeSram t a xs).mcLog = b.mcLog := rfl
@[simp] theorem writeSram_hbm (b : Blk) (t a : Nat) (xs : Bytes) : (b.writeSram t a xs).hbm = b.hbm := rfl

/-! ### zeroSram -/

@[simp] theorem zeroSram_member (b : Blk) (t a n : Nat) : (b.zeroSram t a n).member = b.member := rfl
@[simp] theorem zeroSram_clk (b : Blk) (t a n : Nat) : (b.zeroSram t a n).clk = b.clk := rfl
@[simp] theorem zeroSram_sown (b : Blk) (t a n : Nat) : (b.zeroSram t a n).sown = b.sown := rfl
@[simp] theorem zeroSram_opn (b : Blk) (t a n : Nat) : (b.zeroSram t a n).opn = b.opn := rfl
@[simp] theorem zeroSram_tiles (b : Blk) (t a n : Nat) : (b.zeroSram t a n).tiles = b.tiles := rfl
@[simp] theorem zeroSram_ports (b : Blk) (t a n : Nat) : (b.zeroSram t a n).ports = b.ports := rfl
@[simp] theorem zeroSram_traf (b : Blk) (t a n : Nat) : (b.zeroSram t a n).traf = b.traf := rfl
@[simp] theorem zeroSram_optics (b : Blk) (t a n : Nat) : (b.zeroSram t a n).optics = b.optics := rfl
@[simp] theorem zeroSram_plots (b : Blk) (t a n : Nat) : (b.zeroSram t a n).plots = b.plots := rfl
@[simp] theorem zeroSram_vault (b : Blk) (t a n : Nat) : (b.zeroSram t a n).vault = b.vault := rfl
@[simp] theorem zeroSram_bindCount (b : Blk) (t a n : Nat) : (b.zeroSram t a n).bindCount = b.bindCount := rfl
@[simp] theorem zeroSram_fault (b : Blk) (t a n : Nat) : (b.zeroSram t a n).fault = b.fault := rfl
@[simp] theorem zeroSram_quorum (b : Blk) (t a n : Nat) : (b.zeroSram t a n).quorum = b.quorum := rfl
@[simp] theorem zeroSram_power (b : Blk) (t a n : Nat) : (b.zeroSram t a n).power = b.power := rfl
@[simp] theorem zeroSram_mgmt (b : Blk) (t a n : Nat) : (b.zeroSram t a n).mgmt = b.mgmt := rfl
@[simp] theorem zeroSram_host (b : Blk) (t a n : Nat) : (b.zeroSram t a n).host = b.host := rfl
@[simp] theorem zeroSram_hbma (b : Blk) (t a n : Nat) : (b.zeroSram t a n).hbma = b.hbma := rfl
@[simp] theorem zeroSram_fw (b : Blk) (t a n : Nat) : (b.zeroSram t a n).fw = b.fw := rfl
@[simp] theorem zeroSram_obs (b : Blk) (t a n : Nat) : (b.zeroSram t a n).obs = b.obs := rfl
@[simp] theorem zeroSram_meshKhz (b : Blk) (t a n : Nat) : (b.zeroSram t a n).meshKhz = b.meshKhz := rfl
@[simp] theorem zeroSram_mcLog (b : Blk) (t a n : Nat) : (b.zeroSram t a n).mcLog = b.mcLog := rfl
@[simp] theorem zeroSram_hbm (b : Blk) (t a n : Nat) : (b.zeroSram t a n).hbm = b.hbm := rfl

/-! ### writeHbm -/

@[simp] theorem writeHbm_member (b : Blk) (d a : Nat) (xs : Bytes) : (b.writeHbm d a xs).member = b.member := rfl
@[simp] theorem writeHbm_clk (b : Blk) (d a : Nat) (xs : Bytes) : (b.writeHbm d a xs).clk = b.clk := rfl
@[simp] theorem writeHbm_sown (b : Blk) (d a : Nat) (xs : Bytes) : (b.writeHbm d a xs).sown = b.sown := rfl
@[simp] theorem writeHbm_opn (b : Blk) (d a : Nat) (xs : Bytes) : (b.writeHbm d a xs).opn = b.opn := rfl
@[simp] theorem writeHbm_tiles (b : Blk) (d a : Nat) (xs : Bytes) : (b.writeHbm d a xs).tiles = b.tiles := rfl
@[simp] theorem writeHbm_ports (b : Blk) (d a : Nat) (xs : Bytes) : (b.writeHbm d a xs).ports = b.ports := rfl
@[simp] theorem writeHbm_traf (b : Blk) (d a : Nat) (xs : Bytes) : (b.writeHbm d a xs).traf = b.traf := rfl
@[simp] theorem writeHbm_optics (b : Blk) (d a : Nat) (xs : Bytes) : (b.writeHbm d a xs).optics = b.optics := rfl
@[simp] theorem writeHbm_plots (b : Blk) (d a : Nat) (xs : Bytes) : (b.writeHbm d a xs).plots = b.plots := rfl
@[simp] theorem writeHbm_vault (b : Blk) (d a : Nat) (xs : Bytes) : (b.writeHbm d a xs).vault = b.vault := rfl
@[simp] theorem writeHbm_bindCount (b : Blk) (d a : Nat) (xs : Bytes) : (b.writeHbm d a xs).bindCount = b.bindCount := rfl
@[simp] theorem writeHbm_fault (b : Blk) (d a : Nat) (xs : Bytes) : (b.writeHbm d a xs).fault = b.fault := rfl
@[simp] theorem writeHbm_quorum (b : Blk) (d a : Nat) (xs : Bytes) : (b.writeHbm d a xs).quorum = b.quorum := rfl
@[simp] theorem writeHbm_power (b : Blk) (d a : Nat) (xs : Bytes) : (b.writeHbm d a xs).power = b.power := rfl
@[simp] theorem writeHbm_mgmt (b : Blk) (d a : Nat) (xs : Bytes) : (b.writeHbm d a xs).mgmt = b.mgmt := rfl
@[simp] theorem writeHbm_host (b : Blk) (d a : Nat) (xs : Bytes) : (b.writeHbm d a xs).host = b.host := rfl
@[simp] theorem writeHbm_hbma (b : Blk) (d a : Nat) (xs : Bytes) : (b.writeHbm d a xs).hbma = b.hbma := rfl
@[simp] theorem writeHbm_fw (b : Blk) (d a : Nat) (xs : Bytes) : (b.writeHbm d a xs).fw = b.fw := rfl
@[simp] theorem writeHbm_obs (b : Blk) (d a : Nat) (xs : Bytes) : (b.writeHbm d a xs).obs = b.obs := rfl
@[simp] theorem writeHbm_meshKhz (b : Blk) (d a : Nat) (xs : Bytes) : (b.writeHbm d a xs).meshKhz = b.meshKhz := rfl
@[simp] theorem writeHbm_ecc (b : Blk) (d a : Nat) (xs : Bytes) : (b.writeHbm d a xs).ecc = b.ecc := rfl
@[simp] theorem writeHbm_mcLog (b : Blk) (d a : Nat) (xs : Bytes) : (b.writeHbm d a xs).mcLog = b.mcLog := rfl
@[simp] theorem writeHbm_sram (b : Blk) (d a : Nat) (xs : Bytes) : (b.writeHbm d a xs).sram = b.sram := rfl

/-! ### writeHost -/

@[simp] theorem writeHost_member (b : Blk) (a : Nat) (xs : Bytes) : (b.writeHost a xs).member = b.member := rfl
@[simp] theorem writeHost_clk (b : Blk) (a : Nat) (xs : Bytes) : (b.writeHost a xs).clk = b.clk := rfl
@[simp] theorem writeHost_sown (b : Blk) (a : Nat) (xs : Bytes) : (b.writeHost a xs).sown = b.sown := rfl
@[simp] theorem writeHost_opn (b : Blk) (a : Nat) (xs : Bytes) : (b.writeHost a xs).opn = b.opn := rfl
@[simp] theorem writeHost_tiles (b : Blk) (a : Nat) (xs : Bytes) : (b.writeHost a xs).tiles = b.tiles := rfl
@[simp] theorem writeHost_ports (b : Blk) (a : Nat) (xs : Bytes) : (b.writeHost a xs).ports = b.ports := rfl
@[simp] theorem writeHost_traf (b : Blk) (a : Nat) (xs : Bytes) : (b.writeHost a xs).traf = b.traf := rfl
@[simp] theorem writeHost_optics (b : Blk) (a : Nat) (xs : Bytes) : (b.writeHost a xs).optics = b.optics := rfl
@[simp] theorem writeHost_plots (b : Blk) (a : Nat) (xs : Bytes) : (b.writeHost a xs).plots = b.plots := rfl
@[simp] theorem writeHost_vault (b : Blk) (a : Nat) (xs : Bytes) : (b.writeHost a xs).vault = b.vault := rfl
@[simp] theorem writeHost_bindCount (b : Blk) (a : Nat) (xs : Bytes) : (b.writeHost a xs).bindCount = b.bindCount := rfl
@[simp] theorem writeHost_fault (b : Blk) (a : Nat) (xs : Bytes) : (b.writeHost a xs).fault = b.fault := rfl
@[simp] theorem writeHost_quorum (b : Blk) (a : Nat) (xs : Bytes) : (b.writeHost a xs).quorum = b.quorum := rfl
@[simp] theorem writeHost_power (b : Blk) (a : Nat) (xs : Bytes) : (b.writeHost a xs).power = b.power := rfl
@[simp] theorem writeHost_mgmt (b : Blk) (a : Nat) (xs : Bytes) : (b.writeHost a xs).mgmt = b.mgmt := rfl
@[simp] theorem writeHost_hbma (b : Blk) (a : Nat) (xs : Bytes) : (b.writeHost a xs).hbma = b.hbma := rfl
@[simp] theorem writeHost_fw (b : Blk) (a : Nat) (xs : Bytes) : (b.writeHost a xs).fw = b.fw := rfl
@[simp] theorem writeHost_obs (b : Blk) (a : Nat) (xs : Bytes) : (b.writeHost a xs).obs = b.obs := rfl
@[simp] theorem writeHost_meshKhz (b : Blk) (a : Nat) (xs : Bytes) : (b.writeHost a xs).meshKhz = b.meshKhz := rfl
@[simp] theorem writeHost_ecc (b : Blk) (a : Nat) (xs : Bytes) : (b.writeHost a xs).ecc = b.ecc := rfl
@[simp] theorem writeHost_mcLog (b : Blk) (a : Nat) (xs : Bytes) : (b.writeHost a xs).mcLog = b.mcLog := rfl
@[simp] theorem writeHost_sram (b : Blk) (a : Nat) (xs : Bytes) : (b.writeHost a xs).sram = b.sram := rfl
@[simp] theorem writeHost_hbm (b : Blk) (a : Nat) (xs : Bytes) : (b.writeHost a xs).hbm = b.hbm := rfl

/-! ### countN -/

@[simp] theorem countN_member (b : Blk) (t e n : Nat) (q : Option Nat) : (b.countN t e n q).member = b.member := rfl
@[simp] theorem countN_clk (b : Blk) (t e n : Nat) (q : Option Nat) : (b.countN t e n q).clk = b.clk := rfl
@[simp] theorem countN_sown (b : Blk) (t e n : Nat) (q : Option Nat) : (b.countN t e n q).sown = b.sown := rfl
@[simp] theorem countN_opn (b : Blk) (t e n : Nat) (q : Option Nat) : (b.countN t e n q).opn = b.opn := rfl
@[simp] theorem countN_ports (b : Blk) (t e n : Nat) (q : Option Nat) : (b.countN t e n q).ports = b.ports := rfl
@[simp] theorem countN_traf (b : Blk) (t e n : Nat) (q : Option Nat) : (b.countN t e n q).traf = b.traf := rfl
@[simp] theorem countN_optics (b : Blk) (t e n : Nat) (q : Option Nat) : (b.countN t e n q).optics = b.optics := rfl
@[simp] theorem countN_plots (b : Blk) (t e n : Nat) (q : Option Nat) : (b.countN t e n q).plots = b.plots := rfl
@[simp] theorem countN_vault (b : Blk) (t e n : Nat) (q : Option Nat) : (b.countN t e n q).vault = b.vault := rfl
@[simp] theorem countN_bindCount (b : Blk) (t e n : Nat) (q : Option Nat) : (b.countN t e n q).bindCount = b.bindCount := rfl
@[simp] theorem countN_fault (b : Blk) (t e n : Nat) (q : Option Nat) : (b.countN t e n q).fault = b.fault := rfl
@[simp] theorem countN_quorum (b : Blk) (t e n : Nat) (q : Option Nat) : (b.countN t e n q).quorum = b.quorum := rfl
@[simp] theorem countN_power (b : Blk) (t e n : Nat) (q : Option Nat) : (b.countN t e n q).power = b.power := rfl
@[simp] theorem countN_mgmt (b : Blk) (t e n : Nat) (q : Option Nat) : (b.countN t e n q).mgmt = b.mgmt := rfl
@[simp] theorem countN_host (b : Blk) (t e n : Nat) (q : Option Nat) : (b.countN t e n q).host = b.host := rfl
@[simp] theorem countN_hbma (b : Blk) (t e n : Nat) (q : Option Nat) : (b.countN t e n q).hbma = b.hbma := rfl
@[simp] theorem countN_fw (b : Blk) (t e n : Nat) (q : Option Nat) : (b.countN t e n q).fw = b.fw := rfl
@[simp] theorem countN_obs (b : Blk) (t e n : Nat) (q : Option Nat) : (b.countN t e n q).obs = b.obs := rfl
@[simp] theorem countN_meshKhz (b : Blk) (t e n : Nat) (q : Option Nat) : (b.countN t e n q).meshKhz = b.meshKhz := rfl
@[simp] theorem countN_ecc (b : Blk) (t e n : Nat) (q : Option Nat) : (b.countN t e n q).ecc = b.ecc := rfl
@[simp] theorem countN_mcLog (b : Blk) (t e n : Nat) (q : Option Nat) : (b.countN t e n q).mcLog = b.mcLog := rfl
@[simp] theorem countN_sram (b : Blk) (t e n : Nat) (q : Option Nat) : (b.countN t e n q).sram = b.sram := rfl
@[simp] theorem countN_hbm (b : Blk) (t e n : Nat) (q : Option Nat) : (b.countN t e n q).hbm = b.hbm := rfl

/-! ### count -/

@[simp] theorem count_member (b : Blk) (t e : Nat) (q : Option Nat) : (b.count t e q).member = b.member := rfl
@[simp] theorem count_clk (b : Blk) (t e : Nat) (q : Option Nat) : (b.count t e q).clk = b.clk := rfl
@[simp] theorem count_sown (b : Blk) (t e : Nat) (q : Option Nat) : (b.count t e q).sown = b.sown := rfl
@[simp] theorem count_opn (b : Blk) (t e : Nat) (q : Option Nat) : (b.count t e q).opn = b.opn := rfl
@[simp] theorem count_ports (b : Blk) (t e : Nat) (q : Option Nat) : (b.count t e q).ports = b.ports := rfl
@[simp] theorem count_traf (b : Blk) (t e : Nat) (q : Option Nat) : (b.count t e q).traf = b.traf := rfl
@[simp] theorem count_optics (b : Blk) (t e : Nat) (q : Option Nat) : (b.count t e q).optics = b.optics := rfl
@[simp] theorem count_plots (b : Blk) (t e : Nat) (q : Option Nat) : (b.count t e q).plots = b.plots := rfl
@[simp] theorem count_vault (b : Blk) (t e : Nat) (q : Option Nat) : (b.count t e q).vault = b.vault := rfl
@[simp] theorem count_bindCount (b : Blk) (t e : Nat) (q : Option Nat) : (b.count t e q).bindCount = b.bindCount := rfl
@[simp] theorem count_fault (b : Blk) (t e : Nat) (q : Option Nat) : (b.count t e q).fault = b.fault := rfl
@[simp] theorem count_quorum (b : Blk) (t e : Nat) (q : Option Nat) : (b.count t e q).quorum = b.quorum := rfl
@[simp] theorem count_power (b : Blk) (t e : Nat) (q : Option Nat) : (b.count t e q).power = b.power := rfl
@[simp] theorem count_mgmt (b : Blk) (t e : Nat) (q : Option Nat) : (b.count t e q).mgmt = b.mgmt := rfl
@[simp] theorem count_host (b : Blk) (t e : Nat) (q : Option Nat) : (b.count t e q).host = b.host := rfl
@[simp] theorem count_hbma (b : Blk) (t e : Nat) (q : Option Nat) : (b.count t e q).hbma = b.hbma := rfl
@[simp] theorem count_fw (b : Blk) (t e : Nat) (q : Option Nat) : (b.count t e q).fw = b.fw := rfl
@[simp] theorem count_obs (b : Blk) (t e : Nat) (q : Option Nat) : (b.count t e q).obs = b.obs := rfl
@[simp] theorem count_meshKhz (b : Blk) (t e : Nat) (q : Option Nat) : (b.count t e q).meshKhz = b.meshKhz := rfl
@[simp] theorem count_ecc (b : Blk) (t e : Nat) (q : Option Nat) : (b.count t e q).ecc = b.ecc := rfl
@[simp] theorem count_mcLog (b : Blk) (t e : Nat) (q : Option Nat) : (b.count t e q).mcLog = b.mcLog := rfl
@[simp] theorem count_sram (b : Blk) (t e : Nat) (q : Option Nat) : (b.count t e q).sram = b.sram := rfl
@[simp] theorem count_hbm (b : Blk) (t e : Nat) (q : Option Nat) : (b.count t e q).hbm = b.hbm := rfl

/-! ### countSys -/

@[simp] theorem countSys_member (b : Blk) (e : Nat) : (b.countSys e).member = b.member := rfl
@[simp] theorem countSys_clk (b : Blk) (e : Nat) : (b.countSys e).clk = b.clk := rfl
@[simp] theorem countSys_sown (b : Blk) (e : Nat) : (b.countSys e).sown = b.sown := rfl
@[simp] theorem countSys_opn (b : Blk) (e : Nat) : (b.countSys e).opn = b.opn := rfl
@[simp] theorem countSys_ports (b : Blk) (e : Nat) : (b.countSys e).ports = b.ports := rfl
@[simp] theorem countSys_traf (b : Blk) (e : Nat) : (b.countSys e).traf = b.traf := rfl
@[simp] theorem countSys_optics (b : Blk) (e : Nat) : (b.countSys e).optics = b.optics := rfl
@[simp] theorem countSys_plots (b : Blk) (e : Nat) : (b.countSys e).plots = b.plots := rfl
@[simp] theorem countSys_vault (b : Blk) (e : Nat) : (b.countSys e).vault = b.vault := rfl
@[simp] theorem countSys_bindCount (b : Blk) (e : Nat) : (b.countSys e).bindCount = b.bindCount := rfl
@[simp] theorem countSys_fault (b : Blk) (e : Nat) : (b.countSys e).fault = b.fault := rfl
@[simp] theorem countSys_quorum (b : Blk) (e : Nat) : (b.countSys e).quorum = b.quorum := rfl
@[simp] theorem countSys_power (b : Blk) (e : Nat) : (b.countSys e).power = b.power := rfl
@[simp] theorem countSys_mgmt (b : Blk) (e : Nat) : (b.countSys e).mgmt = b.mgmt := rfl
@[simp] theorem countSys_host (b : Blk) (e : Nat) : (b.countSys e).host = b.host := rfl
@[simp] theorem countSys_hbma (b : Blk) (e : Nat) : (b.countSys e).hbma = b.hbma := rfl
@[simp] theorem countSys_fw (b : Blk) (e : Nat) : (b.countSys e).fw = b.fw := rfl
@[simp] theorem countSys_obs (b : Blk) (e : Nat) : (b.countSys e).obs = b.obs := rfl
@[simp] theorem countSys_meshKhz (b : Blk) (e : Nat) : (b.countSys e).meshKhz = b.meshKhz := rfl
@[simp] theorem countSys_ecc (b : Blk) (e : Nat) : (b.countSys e).ecc = b.ecc := rfl
@[simp] theorem countSys_mcLog (b : Blk) (e : Nat) : (b.countSys e).mcLog = b.mcLog := rfl
@[simp] theorem countSys_sram (b : Blk) (e : Nat) : (b.countSys e).sram = b.sram := rfl
@[simp] theorem countSys_hbm (b : Blk) (e : Nat) : (b.countSys e).hbm = b.hbm := rfl

/-! ### note -/

@[simp] theorem note_member (b : Blk) (n : McNote) : (b.note n).member = b.member := rfl
@[simp] theorem note_meshKhz (b : Blk) (n : McNote) : (b.note n).meshKhz = b.meshKhz := rfl
@[simp] theorem note_clk (b : Blk) (n : McNote) : (b.note n).clk = b.clk := rfl
@[simp] theorem note_sown (b : Blk) (n : McNote) : (b.note n).sown = b.sown := rfl
@[simp] theorem note_opn (b : Blk) (n : McNote) : (b.note n).opn = b.opn := rfl
@[simp] theorem note_tiles (b : Blk) (n : McNote) : (b.note n).tiles = b.tiles := rfl
@[simp] theorem note_ports (b : Blk) (n : McNote) : (b.note n).ports = b.ports := rfl
@[simp] theorem note_traf (b : Blk) (n : McNote) : (b.note n).traf = b.traf := rfl
@[simp] theorem note_optics (b : Blk) (n : McNote) : (b.note n).optics = b.optics := rfl
@[simp] theorem note_plots (b : Blk) (n : McNote) : (b.note n).plots = b.plots := rfl
@[simp] theorem note_vault (b : Blk) (n : McNote) : (b.note n).vault = b.vault := rfl
@[simp] theorem note_bindCount (b : Blk) (n : McNote) : (b.note n).bindCount = b.bindCount := rfl
@[simp] theorem note_fault (b : Blk) (n : McNote) : (b.note n).fault = b.fault := rfl
@[simp] theorem note_quorum (b : Blk) (n : McNote) : (b.note n).quorum = b.quorum := rfl
@[simp] theorem note_power (b : Blk) (n : McNote) : (b.note n).power = b.power := rfl
@[simp] theorem note_mgmt (b : Blk) (n : McNote) : (b.note n).mgmt = b.mgmt := rfl
@[simp] theorem note_host (b : Blk) (n : McNote) : (b.note n).host = b.host := rfl
@[simp] theorem note_hbma (b : Blk) (n : McNote) : (b.note n).hbma = b.hbma := rfl
@[simp] theorem note_fw (b : Blk) (n : McNote) : (b.note n).fw = b.fw := rfl
@[simp] theorem note_obs (b : Blk) (n : McNote) : (b.note n).obs = b.obs := rfl
@[simp] theorem note_sram (b : Blk) (n : McNote) : (b.note n).sram = b.sram := rfl
@[simp] theorem note_hbm (b : Blk) (n : McNote) : (b.note n).hbm = b.hbm := rfl
@[simp] theorem note_ecc (b : Blk) (n : McNote) : (b.note n).ecc = b.ecc := rfl
@[simp] theorem note_mcLog (b : Blk) (n : McNote) : (b.note n).mcLog = b.mcLog ++ [n] := rfl

/-! ### Units after their update -/

@[simp] theorem tile_setTile_same (b : Blk) (t : Nat) (x : Tile) : (b.setTile t x).tile t = x := by
  simp only [Blk.tile, Blk.setTile, getD_put_same]
theorem tile_setTile_other (b : Blk) (t u : Nat) (x : Tile) (h : u ≠ t) : (b.setTile t x).tile u = b.tile u := by
  simp only [Blk.tile, Blk.setTile, getD_put_other _ _ _ _ _ h]
@[simp] theorem tile_modTile_same (b : Blk) (t : Nat) (f : Tile → Tile) : (b.modTile t f).tile t = f (b.tile t) := by
  simp only [Blk.modTile, tile_setTile_same]
theorem tile_modTile_other (b : Blk) (t u : Nat) (f : Tile → Tile) (h : u ≠ t) : (b.modTile t f).tile u = b.tile u := by
  simp only [Blk.modTile, tile_setTile_other _ _ _ _ h]
@[simp] theorem port_modPort_same (b : Blk) (p : Nat) (f : Port → Port) : (b.modPort p f).port p = f (b.port p) := by
  simp only [Blk.modPort, Blk.setPort, Blk.port, getD_put_same]
theorem port_modPort_other (b : Blk) (p q : Nat) (f : Port → Port) (h : q ≠ p) : (b.modPort p f).port q = b.port q := by
  simp only [Blk.modPort, Blk.setPort, Blk.port, getD_put_other _ _ _ _ _ h]
@[simp] theorem plot_modPlot_same (b : Blk) (p : Nat) (f : Plot → Plot) : (b.modPlot p f).plot p = f (b.plot p) := by
  simp only [Blk.modPlot, Blk.setPlot, Blk.plot, getD_put_same]
theorem plot_modPlot_other (b : Blk) (p q : Nat) (f : Plot → Plot) (h : q ≠ p) : (b.modPlot p f).plot q = b.plot q := by
  simp only [Blk.modPlot, Blk.setPlot, Blk.plot, getD_put_other _ _ _ _ _ h]
@[simp] theorem ring_modRing_same (b : Blk) (r : Nat) (f : Ring → Ring) : (b.modRing r f).ring r = f (b.ring r) := by
  simp only [Blk.modRing, Blk.ring, getD_put_same]
@[simp] theorem loop_modLoop_same (b : Blk) (l : Nat) (f : Loop → Loop) : (b.modLoop l f).loop l = f (b.loop l) := by
  simp only [Blk.modLoop, Blk.loop, getD_put_same]
@[simp] theorem optPort_modOptPort_same (b : Blk) (p : Nat) (f : OptPort → OptPort) :
    (b.modOptPort p f).optPort p = f (b.optPort p) := by
  simp only [Blk.modOptPort, Blk.optPort, getD_put_same]
@[simp] theorem die_modDie_same (b : Blk) (d : Nat) (f : DieLock → DieLock) : (b.modDie d f).die d = f (b.die d) := by
  simp only [Blk.modDie, Blk.die, getD_put_same]
@[simp] theorem hbmAt_modHbm_same (b : Blk) (t : Nat) (f : HbmAttach → HbmAttach) : (b.modHbm t f).hbmAt t = f (b.hbmAt t) := by
  simp only [Blk.modHbm, Blk.hbmAt, getD_put_same]

/-! ### Units that another update leaves alone -/

@[simp] theorem tile_modPort (b : Blk) (p t : Nat) (f : Port → Port) : (b.modPort p f).tile t = b.tile t := rfl
@[simp] theorem tile_modPlot (b : Blk) (p t : Nat) (f : Plot → Plot) : (b.modPlot p f).tile t = b.tile t := rfl
@[simp] theorem tile_writeSram (b : Blk) (u a t : Nat) (xs : Bytes) : (b.writeSram u a xs).tile t = b.tile t := rfl
@[simp] theorem tile_zeroSram (b : Blk) (u a n t : Nat) : (b.zeroSram u a n).tile t = b.tile t := rfl
@[simp] theorem tile_writeHbm (b : Blk) (d a t : Nat) (xs : Bytes) : (b.writeHbm d a xs).tile t = b.tile t := rfl
@[simp] theorem tile_writeHost (b : Blk) (a t : Nat) (xs : Bytes) : (b.writeHost a xs).tile t = b.tile t := rfl
@[simp] theorem tile_modRing (b : Blk) (r t : Nat) (f : Ring → Ring) : (b.modRing r f).tile t = b.tile t := rfl
@[simp] theorem port_modTile (b : Blk) (t p : Nat) (f : Tile → Tile) : (b.modTile t f).port p = b.port p := rfl
@[simp] theorem plot_modTile (b : Blk) (t p : Nat) (f : Tile → Tile) : (b.modTile t f).plot p = b.plot p := rfl
@[simp] theorem ring_modTile (b : Blk) (t r : Nat) (f : Tile → Tile) : (b.modTile t f).ring r = b.ring r := rfl
@[simp] theorem plot_modPort (b : Blk) (p q : Nat) (f : Port → Port) : (b.modPort p f).plot q = b.plot q := rfl
@[simp] theorem port_modPlot (b : Blk) (p q : Nat) (f : Plot → Plot) : (b.modPlot p f).port q = b.port q := rfl

/-! ### Fields of a tile's parts -/

@[simp] theorem sem_setSem_same (x : Tile) (k v : Nat) : (x.setSem k v).sem k = v % 65536 := by
  simp [Tile.setSem, Tile.sem]
@[simp] theorem ctx_modCtx_same (x : Tile) (c : Nat) (f : Ctx → Ctx) : (x.modCtx c f).ctx c = f (x.ctx c) := by
  simp only [Tile.modCtx, Tile.ctx, getD_put_same]
theorem ctx_modCtx_other (x : Tile) (c d : Nat) (f : Ctx → Ctx) (h : d ≠ c) : (x.modCtx c f).ctx d = x.ctx d := by
  simp only [Tile.modCtx, Tile.ctx, getD_put_other _ _ _ _ _ h]
@[simp] theorem queue_modQueue_same (x : Tile) (q : Nat) (f : Queue → Queue) : (x.modQueue q f).queue q = f (x.queue q) := by
  simp only [Tile.modQueue, Tile.queue, getD_put_same]
@[simp] theorem sheaves_setSheaves_same (x : Tile) (e : Nat) (l : List Sheaf) : (x.setSheaves e l).sheaves e = l := by
  simp only [Tile.setSheaves, Tile.sheaves, getD_put_same]
theorem sheaves_setSheaves_other (x : Tile) (e d : Nat) (l : List Sheaf) (h : d ≠ e) :
    (x.setSheaves e l).sheaves d = x.sheaves d := by
  simp only [Tile.setSheaves, Tile.sheaves, getD_put_other _ _ _ _ _ h]
@[simp] theorem stealUnit_modSteal_same (x : Tile) (e : Nat) (f : StealUnit → StealUnit) :
    (x.modSteal e f).stealUnit e = f (x.stealUnit e) := by
  simp only [Tile.modSteal, Tile.stealUnit, getD_put_same]

end Sys2Proof.Laws
end

