-- ==== Sys2Proof/Tests/Slice0.lean ====
section
/-! SUPPORT. Small tests: well-formedness, and for every statement with hypotheses a state and operands that meet them. -/
namespace Sys2Proof.Tests
set_option Elab.async false
open Sys2Proof Sys2Proof.Machine Sys2Proof.Safety

/-- Plot 1: BOUND, tiles 0 to 7, HBM granules 32 to 63 of die 0, a DMA window of 16 pages. -/
def plot1 : Plot :=
  { Plot.fresh with
    state := .bound, owned := 255#1024,
    cfg := { Plot.fresh.cfg with tiles := 255#1024, hbm := BitVec.ofNat 128 (32 + 32 * 2 ^ 16), queueQuota := 8, sownQuota := 8 },
    host := { PlotHost.fresh with dmaPages := 16#32, dmaValid := true } }

/-- A block that has started: stage 7 is over, cluster 0 is ACTIVE, and plot 1 is BOUND. -/
def base : Blk :=
  let b := Blk.after .dx1024 2000000 0 Firmware.blank []
  { b with fw := { b.fw with stage := .done }, power := { b.power with clusters := [(0, .active)] },
           plots := [(0, Plot.system), (1, plot1)], host := { b.host with busy := false } }

/-- A state with a given block and an empty queue. -/
def at_ (b : Blk) : State := { pending := [], trip := { tripped := false, latch := false }, blk := b, was := b }

/-- A sheaf of plot 1 with a command word. -/
def sheaf (cmd : BitVec 256) : Sheaf :=
  { sid := 0, cmd := cmd, base := 0, plot := 1, ctx := 0, index := 0, deadline := 5#48, state := .queued, late := false,
    issued := 0, total := 0, outst := 0, status := 0#8, detail := 0#8, noSteal := false, aux := 0 }

/-- A command word from OP, OPA, OPB, OPC, LEN, ARG, and the rest of its bits. -/
def word (op : Nat) (opa opb opc len arg : Nat) (rest : Nat := 0) : BitVec 256 :=
  BitVec.ofNat 256 (op + 2 ^ 64 * opa + 2 ^ 96 * opb + 2 ^ 128 * opc + 2 ^ 160 * len + 2 ^ 192 * arg + rest)

/-- A command word with its CHK (R102). -/
def chk (c : BitVec 256) : BitVec 256 := BitVec.ofNat 256 (c.toNat % 2 ^ 248 + (crc8 c 248).toNat * 2 ^ 248)

/-- The started block whose tile 0 has one queued command in an engine's queue. -/
def queued (e : Nat) (c : BitVec 256) (b : Blk := base) : State := at_ (b.modTile 0 fun x => x.setSheaves e [sheaf c])

/-- The started block whose context 0 of tile 0 runs a list at address 0 with one command. -/
def listed (c : BitVec 256) (f : Ctx → Ctx := id) : State :=
  at_ ((base.writeSram 0 0 (toBytes 32 c.toNat)).modTile 0 fun x =>
    x.modCtx 0 fun k => f { k with state := .dispatch, plot := 1 })

/-- A run of SRAM in which no error stands reads as it is (R130). -/
theorem reads_clean (b : Blk) (t a n : Nat) (h : b.sramErrors t a n = []) : Reads b t a n b := by
  simp [Reads, Blk.operand, Blk.eccRead, h, Blk.each, Except.map]
/-- A run of entries of an oasis in which no error stands (R141). -/
theorem fra_clean (b : Blk) (t id k n : Nat) (h : b.fraErrors t id k n = []) : b.fraOperand t id k n = .ok b := by
  simp [Blk.fraOperand, Blk.eccRead, h, Blk.each]

/-- A check that passes with a value. -/
abbrev gives {α : Type} (x : Chk α) (a : α) : Prop := x.toOption = some a

/-- The started block with port 0 UP and KEY 1 of plot 1 admitted at it. -/
def sieved : Blk :=
  { (base.modPort 0 fun x => { x with state := .up }) with
    traf := { base.traf with sieve := [(0, BitVec.ofNat 320 (1 + 2 ^ 16 + 2 ^ 24 + 2 ^ 64))] } }

/-- The started block with a descriptor of plot 1 at tile 0. -/
def described (d : BitVec 128) (b : Blk := base) : Blk :=
  { b with sown := { b.sown with active := { b.sown.active with descs := [(0, d)] } } }

/-- The started block whose tile 0 has queue 0 bound as a ring of 4 cells at address 256. -/
def ringed (f : Queue → Queue := id) (b : Blk := base) : Blk :=
  b.modQueue 0 0 fun _ => f { Queue.fresh with bound := true, base := 4, size := 4 }

/-- A message header with its HCHK: a message of n payload bytes. -/
def msgHead (n : Nat) : BitVec 512 := rehead (BitVec.ofNat 512 (n * 2 ^ 64))

/-- The started block whose tile 0 holds oasis 0 with 4 entries. -/
def oasised (wide : Bool) : Blk :=
  base.modTile 0 fun x => { x with oases := [(0, { wide := wide, size := 4, grid := .none, entries := [] })] }

/-- A GET of 64 bytes at address 0 from tile 1 to tile 0. -/
def getPkt : Packet := mkPacket snReq 0 false 0 1 1 rqGet 0 false 0 0 (msgWord 0 64 0 0 0)

/-- A packet held in a router buffer on its way out of an output. -/
def heldPkt (out : Nat) : Held := { pkt := getPkt, arrived := 0, out := out, vc := 0 }

/-- The started block with a change of its open plane. -/
def opened (f : Opn → Opn) (b : Blk := base) : State := at_ { b with opn := f b.opn }

/-- A WAITING slot of tile 0 on tile 1. -/
def waitSlot : Slot :=
  { state := .waiting, target := 1, injected := 0, timeout := 1024, who := .queue, ref := .sheaf 3 0 0, plot := 1,
    sealHit := false, win := none }

/-- The started block with a packet that tile 0 has taken in. -/
def inbox (p : Packet) (b : Blk := base) : State :=
  at_ (b.modTile 0 fun x => { x with net := { x.net with inbox := [(p, 0)] } })

/-- The started block with a valid basic key in slot 0, and an IPv4 address. -/
def keyed : Blk :=
  { base with mgmt := { base.mgmt with slot0 := { KeySlot.fresh with valid := true }, ip4 := 0x0A000001#32 } }

/-- The started block with a change of port 0. -/
def porting (f : Port → Port) : State := at_ (base.modPort 0 f)

/-- A port in a state with a cage. -/
def inState (st : PortState) (x : Port) : Port :=
  { x with state := st, ctrl := { x.ctrl with mode := 1 }, cage := { x.cage with link := true, present := true, btnIgnore := false } }

/-- The block in a stage, with a change of its firmware. -/
def staged (st : BootStage) (f : Firmware → Firmware := id) : State :=
  at_ { base with fw := f { base.fw with stage := st } }

/-! ### Well-formedness: for each number that a command names, the least value that is refused; every command at its greatest values -/

theorem test_wf_refused0 : (([
    .tickMarkerReceive 4 0, .frameLockRegained 4, .sownWindowOpen 1024 4 2047, .sownWindowOpen 1023 5 2047,
    .sownWindowOpen 1023 4 2048, .sownCellArrival 1024 3 0, .sownCellArrival 1023 4 0, .engineNoProgress 1024 3,
    .engineNoProgress 1023 4, .hbmRequestUnanswered 1024 255, .hbmRequestUnanswered 1023 256, .xsUncorr 1024 3,
    .xsUncorr 1023 4, .xsPhyDown 1024 3, .xsPhyDown 1023 4, .flitHeadArrival 1024 2 4 0, .flitHeadArrival 1023 3 4 0,
    .flitHeadArrival 1023 2 5 0, .outputArbitration 1024 2 4, .outputArbitration 1023 3 4, .outputArbitration 1023 2 5,
    .creditReturn 1024 2 4 3, .creditReturn 1023 3 4 3, .creditReturn 1023 2 5 3, .creditReturn 1023 2 4 4,
    .flitAgeDrop 1024 2 4 3, .flitAgeDrop 1023 3 4 3, .flitAgeDrop 1023 2 5 3, .flitAgeDrop 1023 2 4 4,
    .requestInject 1024 .mover, .requestEject 1024 2, .requestEject 1023 3, .replyDeadline 1024 2, .replyDeadline 1023 3,
    .reqTimeout (.tile 1024) 31, .reqTimeout (.tile 1023) 32, .slotQuarantineEnd (.tile 1024) 31,
    .slotQuarantineEnd (.tile 1023) 32, .replyArrival 1024 2, .replyArrival 1023 3] : List Instr).all fun c => !c.wf) = true := by decide +kernel
theorem test_wf_refused1 : (([
    .openCtrlWrite 1024 0, .listLaunch 256 0, .launchDequeue 1024, .commandDispatch 1024 7, .commandDispatch 1023 8,
    .listNop 1024 3, .listNop 1023 4, .listWait 1024 3, .listWait 1023 4, .listSignal 1024 3, .listSignal 1023 4,
    .listTick 1024 3, .listTick 1023 4, .listLoop 1024 7, .listLoop 1023 8, .listCall 1024 7, .listCall 1023 8, .listEnd 1024 7,
    .listEnd 1023 8, .listEvent 1024 3, .listEvent 1023 4, .moveCopy 1024, .moveFill 1024, .moveHbmRead 1024,
    .moveHbmWrite 1024, .moveHostRead 1024, .moveHostWrite 1024, .moveSow 1024, .moveReap 1024, .moveEmit 1024,
    .moveHbmStream 1024, .reduceOasis 1024, .reduceRelease 1024, .reduceAdd 1024, .reduceAddSown 1024, .reduceScaleAdd 1024,
    .reduceMerge 1024, .reduceRound 1024, .reduceNarrow 1024, .reduceMap 1024] : List Instr).all fun c => !c.wf) = true := by decide +kernel
theorem test_wf_refused2 : (([
    .reduceCrc 1024, .arrayLoad 1024, .arrayMm 1024, .arrayTopk 1024, .arrayGate 1024, .queueSend 1024, .queueGet 1024,
    .queuePut 1024, .queueCombine 1024, .queueBind 1024, .queueUnbind 1024, .queuePop 1024, .queueHandler 1024,
    .commandComplete 1024 3, .commandComplete 1023 4, .statusRecordWrite 1024 7, .statusRecordWrite 1023 8, .ctxAbort 1024 7,
    .ctxAbort 1023 8, .semWrite 1024 31 0, .semWrite 1023 32 0, .stealRequestSend 1024 3, .stealRequestSend 1023 4,
    .stealRequestReceive 1024, .lendReceive 1024 3, .lendReceive 1023 4, .stolenResultReturn 1024 0, .engCtrlWrite 1024 0,
    .msgPacketLand 1024, .entryPublish 1024 15, .entryPublish 1023 16, .handlerLaunch 1024, .fallbackDrain 1024 15,
    .fallbackDrain 1023 16, .assemblyAbandon 1024 31, .assemblyAbandon 1023 32, .remoteGet 1024, .remotePut 1024,
    .combinePacket 1024, .queueRdWrite 1024 15 0] : List Instr).all fun c => !c.wf) = true := by decide +kernel
theorem test_wf_refused3 : (([
    .queueRdWrite 1023 16 0, .fbPop 1024 0, .collDoorbell 256 0, .collAccept 256 [], .collNoAck 256 0 0 0, .collAckReceive 1024,
    .collResendReceive 1024, .kernelDoorbell 256 0, .kernelBind 256 [], .kernelUnbind 256 [], .tokenPartArrival 1024,
    .tokenAsmTimeout 1024 63, .tokenAsmTimeout 1023 64, .khdrReceive 1024, .kernelTrainLand 1024, .expertOutputArrival 1024,
    .tokenRetTimeout 1024 63, .tokenRetTimeout 1023 64, .dfpIngress 256 false [] false, .msgDfpReceive 1024, .egressEnqueue 256,
    .egressSchedule 256 false, .txUnderrun 256 false, .portUp 256, .portDrain 256, .portDown 256, .portCtrlWrite .mailbox 256 0,
    .moduleInsert 256, .moduleRemove 256, .svcPress 256, .svcStuck 256, .portLinkUp 256, .portLinkDown 256, .drainComplete 256,
    .drainLimitExpiry 256, .egressQueueWrite .mailbox 256 0, .shaperWrite .mailbox 256 0, .gateWrite .mailbox 256 0,
    .poolWrite .mailbox 256 0, .pfcReceive 256 7 false] : List Instr).all fun c => !c.wf) = true := by decide +kernel
theorem test_wf_refused4 : (([
    .pfcReceive 255 8 false, .combLost 64, .adcReading 2560 0, .calDue 256, .calStageEnd 256, .plotBindDone 256,
    .plotRebindDone 256, .teardownTilesReleased 256, .hbmScrubDone 256 255, .hbmScrubDone 255 256,
    .plotConfigWrite .mailbox 256 [], .getMeasurements .mailbox none 65536 [], .plotClaim 7 256,
    .phaseHoldEnd 256 false, .capsuleUnwrap 256 0, .heartbeatMiss 32, .quorumGroupWrite .mailbox 256 0,
    .graftHoldEnd 256, .portPwrWrite .mailbox 256 false, .powerStageStart 4 65535, .powerStageStart 3 65536,
    .powerStageEnd 4 65535, .powerStageEnd 3 65536, .moaRead .mailbox 65536 255, .moaRead .mailbox 65535 256,
    .moaWrite .mailbox 65536 255 [], .moaWrite .mailbox 65535 256 []] : List Instr).all fun c => !c.wf) = true := by decide +kernel
theorem test_wf_refused5 : (([
    .odRegisterWrite .mailbox 65536 255 [], .odRegisterWrite .mailbox 65535 256 [], .describe .mailbox 65536 255,
    .describe .mailbox 65535 256, .segWrite .mailbox 65536 255 0 0, .segWrite .mailbox 65535 256 0 0,
    .segRead .mailbox 65536 255, .segRead .mailbox 65535 256, .dmaWindowWrite 256 0, .eventRingWrite 64 0, .consWrite 64 0,
    .irqHoldEnd 64, .dmaCompletion 256 [] false, .hbmResponse 1024 255 false, .hbmResponse 1023 256 false, .hbmRead 1024,
    .hbmWrite 1024, .stream 1024, .streamEnd 1024 63 false, .streamEnd 1023 64 false, .selfTestDone 64 0, .pmcCfgWrite 1024 7 0,
    .pmcCfgWrite 1023 8 0, .railFault 64, .linkRetry false 65536, .linkRetrain false 65536 false, .dbgAccess 1024 false 0 [],
    .combLocked 64] : List Instr).all fun c => !c.wf) = true := by decide +kernel
theorem test_wf_accepted0 : (([
    .tickMarkerReceive 3 0, .frameLockRegained 3, .sownWindowOpen 1023 4 2047, .sownCellArrival 1023 3 0,
    .engineNoProgress 1023 3, .hbmRequestUnanswered 1023 255, .xsUncorr 1023 3, .xsPhyDown 1023 3, .flitHeadArrival 1023 2 4 0,
    .outputArbitration 1023 2 4, .creditReturn 1023 2 4 3, .flitAgeDrop 1023 2 4 3, .requestInject 1023 .mover,
    .requestEject 1023 2, .replyDeadline 1023 2, .reqTimeout (.tile 1023) 31, .slotQuarantineEnd (.tile 1023) 31,
    .replyArrival 1023 2, .openCtrlWrite 1023 0, .listLaunch 255 0, .launchDequeue 1023, .commandDispatch 1023 7,
    .listNop 1023 3, .listWait 1023 3, .listSignal 1023 3, .listTick 1023 3, .listLoop 1023 7, .listCall 1023 7,
    .listEnd 1023 7, .listEvent 1023 3, .moveCopy 1023, .moveFill 1023, .moveHbmRead 1023, .moveHbmWrite 1023,
    .moveHostRead 1023, .moveHostWrite 1023, .moveSow 1023, .moveReap 1023, .moveEmit 1023, .moveHbmStream 1023] : List Instr).all fun c => c.wf) = true := by decide +kernel
theorem test_wf_accepted1 : (([
    .reduceOasis 1023, .reduceRelease 1023, .reduceAdd 1023, .reduceAddSown 1023, .reduceScaleAdd 1023, .reduceMerge 1023,
    .reduceRound 1023, .reduceNarrow 1023, .reduceMap 1023, .reduceCrc 1023, .arrayLoad 1023, .arrayMm 1023, .arrayTopk 1023,
    .arrayGate 1023, .queueSend 1023, .queueGet 1023, .queuePut 1023, .queueCombine 1023, .queueBind 1023, .queueUnbind 1023,
    .queuePop 1023, .queueHandler 1023, .commandComplete 1023 3, .statusRecordWrite 1023 7, .ctxAbort 1023 7,
    .semWrite 1023 31 0, .stealRequestSend 1023 3, .stealRequestReceive 1023, .lendReceive 1023 3, .stolenResultReturn 1023 0,
    .engCtrlWrite 1023 0, .msgPacketLand 1023, .entryPublish 1023 15, .handlerLaunch 1023, .fallbackDrain 1023 15,
    .assemblyAbandon 1023 31, .remoteGet 1023, .remotePut 1023, .combinePacket 1023, .queueRdWrite 1023 15 0] : List Instr).all fun c => c.wf) = true := by decide +kernel
theorem test_wf_accepted2 : (([
    .fbPop 1023 0, .collDoorbell 255 0, .collAccept 255 [], .collNoAck 255 0 0 0, .collAckReceive 1023, .collResendReceive 1023,
    .kernelDoorbell 255 0, .kernelBind 255 [], .kernelUnbind 255 [], .tokenPartArrival 1023, .tokenAsmTimeout 1023 63,
    .khdrReceive 1023, .kernelTrainLand 1023, .expertOutputArrival 1023, .tokenRetTimeout 1023 63,
    .dfpIngress 255 false [] false, .msgDfpReceive 1023, .egressEnqueue 255, .egressSchedule 255 false, .txUnderrun 255 false,
    .portUp 255, .portDrain 255, .portDown 255, .portCtrlWrite .mailbox 255 0, .moduleInsert 255, .moduleRemove 255,
    .svcPress 255, .svcStuck 255, .portLinkUp 255, .portLinkDown 255, .drainComplete 255, .drainLimitExpiry 255,
    .egressQueueWrite .mailbox 255 0, .shaperWrite .mailbox 255 0, .gateWrite .mailbox 255 0, .poolWrite .mailbox 255 0,
    .pfcReceive 255 7 false, .combLost 63, .adcReading 2559 0, .calDue 255] : List Instr).all fun c => c.wf) = true := by decide +kernel
theorem test_wf_accepted3 : (([
    .calStageEnd 255, .plotBindDone 255, .plotRebindDone 255, .teardownTilesReleased 255, .hbmScrubDone 255 255,
    .plotConfigWrite .mailbox 255 [], .finish 7 none, .heartbeatSpdm 7, .keyUpdate 7, .endSession 7, .plotClaim 7 255,
    .keySet 7 false [], .txPhase 7 false, .phaseRetire 7 false 0, .secFlags 7 0, .phaseHoldEnd 255 false, .query 7,
    .keyProg 7 ⟨0, .pr, false, false⟩ 0 0, .kSetGo 7 ⟨0, .pr, false, false⟩, .kSetStop 7 ⟨0, .pr, false, false⟩,
    .capsuleUnwrap 255 0, .heartbeatMiss 31, .quorumGroupWrite .mailbox 255 0, .graftHoldEnd 255,
    .portPwrWrite .mailbox 255 false, .powerStageStart 3 65535, .powerStageEnd 3 65535, .moaRead .mailbox 65535 255,
    .moaWrite .mailbox 65535 255 [], .odRegisterWrite .mailbox 65535 255 [], .describe .mailbox 65535 255,
    .segWrite .mailbox 65535 255 0 0, .segRead .mailbox 65535 255, .dmaWindowWrite 255 0, .eventRingWrite 63 0, .consWrite 63 0,
    .irqHoldEnd 63, .dmaCompletion 255 [] false, .hbmResponse 1023 255 false, .hbmRead 1023] : List Instr).all fun c => c.wf) = true := by decide +kernel
theorem test_wf_accepted4 : (([
    .hbmWrite 1023, .stream 1023, .streamEnd 1023 63 false, .selfTestDone 63 0, .pmcCfgWrite 1023 7 0, .railFault 63,
    .linkRetry false 65535, .linkRetrain false 65535 false, .dbgAccess 1023 false 0 [], .combLocked 63] : List Instr).all fun c => c.wf) = true := by decide +kernel

/-! ### The manual's worked examples -/

/-- What reduce.round writes to a format for an entry that took addends of another. -/
def rounded (inFmt outFmt rnd : Nat) (xs : List Nat) : Option Nat :=
  (fmtElem inFmt).bind fun a => (fmtElem outFmt).map fun o =>
    (o.encode rnd 0 (((xs.map fun x => a.decode x).foldl (Fra.add formWide) Fra.fresh).result formWide)).bits

/-- Worked examples of chapter 6: the sum of 2^30, 1.0, −2^30 is 1.0 in every order. -/
theorem test_sum_order :
    ([[0x4E80, 0x3F80, 0xCE80], [0x4E80, 0xCE80, 0x3F80], [0x3F80, 0x4E80, 0xCE80], [0x3F80, 0xCE80, 0x4E80],
      [0xCE80, 0x4E80, 0x3F80], [0xCE80, 0x3F80, 0x4E80]].map (rounded 1 1 0)) = List.replicate 6 (some 0x3F80) := by decide +kernel
/-- A tie broken by the smallest bfloat16 subnormal. -/
theorem test_tie : rounded 1 1 0 [0x3F80, 0x3B80, 0x0001] = some 0x3F81 := by decide +kernel
/-- Signed zero, in RNE; the last also in RDN. -/
theorem test_signed_zero :
    [[], [0x8000, 0x8000], [0x8000, 0x0000], [0x3F80, 0xBF80]].map (rounded 1 1 0) =
      [some 0, some 0x8000, some 0, some 0] ∧ rounded 1 1 rndDn [0x3F80, 0xBF80] = some 0 := by decide +kernel
/-- The array's order: 2^24, 1, 1 gives 2^24; 1, 1, 2^24 gives 2^24 + 2. -/
theorem test_array_order :
    let p := fun (a b c : Int) => ([a, b, c].flatMap fun x => Val.of x 0 :: List.replicate 15 (Val.zero false))
    let r := fun l => (fpBinary32.encode 0 0 (scoreOf l)).bits
    r (p (2 ^ 24) 1 1) = 0x4B800000 ∧ r (p 1 1 (2 ^ 24)) = 0x4B800001 := by decide +kernel
/-- Chapter 2: cluster ids 0, 1, 8 and 9 on a DX-64. -/
theorem test_clusters : Member.dx64.clusters = [0, 1, 8, 9] := by decide +kernel
/-- Chapter 4: from (30, 5) to (2, 5) on a DX-1024 the request goes east, the reply west. -/
theorem test_dateline : Member.dx1024.defaultOut 190 162 = 2 ∧ Member.dx1024.defaultOut 162 190 = 4 := by decide +kernel
/-- Chapter 6, stochastic rounding: bfloat16 of 1 + 2^-8 + 2^-10 is 0x3F81 just where the bits lie below 0xA0000000. -/
theorem test_stochastic :
    let r := fun bits => (fpBfloat16.encode rndSr bits (Val.of (2 ^ 10 + 2 ^ 2 + 1) (-10))).bits
    r 0x9FFFFFFF = 0x3F81 ∧ r 0xA0000000 = 0x3F80 := by decide +kernel
/-- Chapter 7: with RD = WR = RSV = 50 in a ring of 64 cells at cell 8,192, 17 cells go to ring position 0 and leave RSV at 81; the
next 3 leave it at 84. -/
theorem test_reserve :
    let b := ringed (fun _ => { Queue.fresh with bound := true, base := 8192, size := 64, rd := 50, wr := 50, rsv := 50 })
    let r := fun (b : Blk) n => (b.reserve 0 0 n none (fun _ => 0#512) true).map fun x =>
      (((b.tile 0).queue 0).addr x.1, ((x.2.tile 0).queue 0).rsv, x.2)
    (r b 17).map (fun x => (x.1, x.2.1)) = some (0x80000, 81) ∧
      ((r b 17).bind fun x => r x.2.2 3).map (fun x => (x.1, x.2.1)) = some (0x80440, 84) := by decide +kernel

/-! ### Lists -/

theorem wit_listNop : Ready (queued 1 (word 0x78 0 0 0 0 0)) (.listNop 0 1) ∧
    Starts (queued 1 (word 0x78 0 0 0 0 0)) 0 1 (64 * 1 + fnNop) (sheaf (word 0x78 0 0 0 0 0)) := by decide
theorem wit_listWait :
    let c := word 0x79 0 0 0 0 3
    let s := fun n => queued 1 c (base.modTile 0 fun x => x.setSem 0 n)
    let seen := fun n => let b := (s n).blk.started 0 (sheaf c); ((b.tile 0).semMc b.clk.mc (kWaitSem c)).seen
    Ready (s 3) (.listWait 0 1) ∧ Starts (s 3) 0 1 (64 * 1 + fnWait) (sheaf c) ∧ 0 < kArg c ∧ kArg c ≤ 65535 ∧
      kArg c ≤ seen 3 ∧ Ready (s 2) (.listWait 0 1) ∧ Starts (s 2) 0 1 (64 * 1 + fnWait) (sheaf c) ∧ seen 2 < kArg c := by
  decide
/-- n = 0 and n = 65,536 are no operand of a list.wait, list.signal or list.tick. -/
theorem wit_list_operand :
    let w := fun fn n => word fn 0 0 0 0 n
    Starts (queued 1 (w 0x79 0)) 0 1 (64 * 1 + fnWait) (sheaf (w 0x79 0)) ∧ kArg (w 0x79 0) = 0 ∧
      Starts (queued 1 (w 0x7A 65536)) 0 1 (64 * 1 + fnSignal) (sheaf (w 0x7A 65536)) ∧ kArg (w 0x7A 65536) = 65536 ∧
      Starts (queued 1 (w 0x7B 65536)) 0 1 (64 * 1 + fnTick) (sheaf (w 0x7B 65536)) := by decide
theorem wit_listSignal :
    let s := queued 1 (word 0x7A 0 0 0 0 65535)
    let x := sheaf (word 0x7A 0 0 0 0 65535)
    Ready s (.listSignal 0 1) ∧ Starts s 0 1 (64 * 1 + fnSignal) x ∧ 0 < kArg x.cmd ∧ kArg x.cmd ≤ 65535 ∧
      ((s.blk.started 0 x).tile 0).sem (kSigSem x.cmd) + kArg x.cmd ≤ 65535 := by decide
theorem wit_listSignal_saturates :
    let x := sheaf (word 0x7A 0 0 0 0 65535)
    let s := queued 1 x.cmd (base.modTile 0 fun y => y.setSem 0 1)
    Ready s (.listSignal 0 1) ∧ Starts s 0 1 (64 * 1 + fnSignal) x ∧
      65535 < ((s.blk.started 0 x).tile 0).sem (kSigSem x.cmd) + kArg x.cmd := by decide
theorem wit_listTick :
    let c := word 0x7B 0 0 0 0 65535
    Ready (queued 1 c) (.listTick 0 1) ∧ Starts (queued 1 c) 0 1 (64 * 1 + fnTick) (sheaf c) ∧ 0 < kArg c ∧ kArg c ≤ 65535 := by
  decide
theorem wit_listEvent :
    let c := word 0x7F 0 0 0 0 1
    Ready (queued 1 c) (.listEvent 0 1) ∧ Starts (queued 1 c) 0 1 (64 * 1 + fnEvent) (sheaf c) := by decide

theorem wit_listLoop :
    let c := chk (word 0xFC 5 0 0 0 3)
    let d := chk (word 0xFC 5 0 0 0 (2 ^ 32 - 1))
    let s := fun c => listed c fun k => { k with cur := { k.cur with list := 0, index := 0 } }
    Ready (s c) (.listLoop 0 0) ∧ (s c).blk.ctxCmd 0 0 fnLoop = some c ∧ (s d).blk.ctxCmd 0 0 fnLoop = some d ∧
      kArg c ≠ 2 ^ 32 - 1 ∧ kArg d = 2 ^ 32 - 1 := by decide +kernel
theorem wit_listLoop_back :
    let c := chk (word 0xFC 5 0 0 0 3)
    let at6 := fun l => at_ (((base.writeSram 0 192 (toBytes 32 c.toNat))).modTile 0 fun x => x.modCtx 0 fun k =>
      { k with state := .dispatch, plot := 1, cur := { k.cur with index := 6 }, loops := [(0, l)] })
    let s := at6 { value := 0, loaded := true }
    s.blk.ctxCmd 0 0 fnLoop = some c ∧ kOpa c < 6 ∧ Ready s (.listLoop 0 0) ∧
      (let k := ((s.blk.ctxStarted 0 c).tile 0).ctx 0; k.cur.index + 1 < k.cur.limit ∧ kOpa c < k.cur.index) ∧
      (at6 { value := 1, loaded := true }).blk.ctxCmd 0 0 fnLoop = some c := by decide +kernel
theorem wit_listCall :
    let c := chk (word 0xFD 64 128 0 0 0)
    let s := listed c fun k => { k with stack := [k.cur, k.cur] }
    Ready s (.listCall 0 0) ∧ s.blk.ctxCmd 0 0 fnCall = some c ∧ sramOp 0 (kOpa c) 32 32 = some 64 ∧
      sramOp 0 (kOpb c) 0 1 = some 128 ∧ (((s.blk.ctxStarted 0 c).tile 0).ctx 0).stack.length < 3 ∧
      (let k := ((s.blk.ctxStarted 0 c).tile 0).ctx 0; k.cur.index + 1 < k.cur.limit) := by decide +kernel
theorem wit_listEnd :
    let c := chk (word 0xFE 0 0 0 0 0)
    let s := listed c
    let u := listed c fun k => { k with stack := [k.cur] }
    Ready s (.listEnd 0 0) ∧ s.blk.ctxCmd 0 0 fnEnd = some c ∧ (((s.blk.ctxStarted 0 c).tile 0).ctx 0).stack = [] ∧
      Ready u (.listEnd 0 0) ∧ u.blk.ctxCmd 0 0 fnEnd = some c := by decide +kernel
theorem wit_commandDispatch :
    let c := chk (word 0x78 0 0 0 0 0 (2 ^ 32 * 5))
    let s := listed c fun k => { k with cur := { k.cur with limit := 2 } }
    let k := (s.blk.tile 0).ctx 0
    Ready s (.commandDispatch 0 0) ∧ k.dispatching = true ∧ k.cur.index + 1 < k.cur.limit ∧ s.blk.fetchCmd 0 k = c ∧
      inContext c = false ∧ ((s.blk.tile 0).sheaves (opEngine (kOp c))).length < 64 ∧ cmdOk c = true ∧ kOp c ≠ opSow ∧ deadlineOf c k.launch s.blk.clk.frame = some 5#48 ∧
      ahead 5#48 s.blk.clk.frame = true := by decide +kernel
theorem wit_listLaunch :
    let s := at_ base
    let v := fun n => BitVec.ofNat 128 (n + 32 * 2 ^ 10 + 16 * 2 ^ 64)
    Ready s (.listLaunch 1 (v 3)) ∧ s.blk.bound 1 = true ∧ s.blk.launchDecide 1 (v 3) = 0 ∧
      s.blk.launchDecide 1 (v 8) ≠ 0 := by decide +kernel
/-- The launch queue of the tile is full. -/
theorem wit_listLaunch_full :
    let l : Launch := { plot := 1, list := 0, base := 0, limit := 4096, statusAt := none, handler := none }
    let s := at_ (base.modTile 3 fun x => { x with es := { x.es with launchQ := List.replicate 16 l } })
    s.blk.launchDecide 1 (BitVec.ofNat 128 (3 + 32 * 2 ^ 10 + 16 * 2 ^ 64)) = 4 := by decide +kernel
theorem wit_launchDequeue :
    let s := at_ (base.modTile 0 fun x => { x with es := { x.es with launchQ := [⟨1, 32, 0, 4096, some 16, none⟩] } })
    Ready s (.launchDequeue 0) ∧ s.blk.launchable 0 = true ∧
      (s.blk.tile 0).idleCtx = some 0 := by decide
theorem wit_commandComplete :
    let x := { sheaf 0#256 with state := .finished }
    let s := at_ (base.modTile 0 fun y => y.setSheaves 0 [x])
    Ready s (.commandComplete 0 0) ∧ ((s.blk.tile 0).sheaves 0).find? (fun y => y.state = .finished) = some x := by decide
theorem wit_semWrite :
    let u := at_ { base with member := .dx16 }
    Ready (at_ base) (.semWrite 0 31 0xFFFF#16) ∧ base.member.hasTile 0 = true ∧ Ready u (.semWrite 1023 31 0xFFFF#16) ∧
      u.blk.member.hasTile 1023 = false := by decide

/-! ### Moves -/

theorem wit_moveCopy :
    let c := word 0x01 0 sramBytes.pred 0 1 0
    let s := queued 0 c
    let b := s.blk.started 0 (sheaf c)
    Ready s (.moveCopy 0) ∧ Starts s 0 0 0x01 (sheaf c) ∧ 1 ≤ kLen c ∧ gives (b.sramAt 0 0 (kOpa c) 1 1) 0 ∧
      gives (b.sramAt 0 0 (kOpb c) 1 1) (sramBytes - 1) ∧ b.sramErrors 0 0 1 = [] := by decide
/-- An operand with an error that ECC cannot correct. -/
theorem wit_moveCopy_mem :
    let c := word 0x01 0 sramBytes.pred 0 1 0
    let s := queued 0 c { base with ecc := { base.ecc with sram := [(0, true)] } }
    Ready s (.moveCopy 0) ∧ Starts s 0 0 0x01 (sheaf c) ∧
      ((s.blk.started 0 (sheaf c)).sramErrors 0 0 1).find? (fun y => y.2) = some (0, true) := by decide
theorem wit_moveFill :
    let c := word 0x02 0 8 0 4 7
    let s := queued 0 c
    Ready s (.moveFill 0) ∧ Starts s 0 0 0x02 (sheaf c) ∧ kLen c % 4 = 0 ∧
      gives ((s.blk.started 0 (sheaf c)).sramAt 0 0 (kOpb c) (kLen c) 1) 8 := by decide
theorem wit_moveHbm :
    let c := fun op => word op 64 0 1 128 0
    let s := fun op => queued 0 (c op)
    let b := (s 3).blk.started 0 (sheaf (c 3))
    Ready (s 3) (.moveHbmRead 0) ∧ Starts (s 3) 0 0 0x03 (sheaf (c 3)) ∧ Ready (s 4) (.moveHbmWrite 0) ∧
      Starts (s 4) 0 0 0x04 (sheaf (c 4)) ∧ kLen (c 3) % 64 = 0 ∧ gives (b.sramAt 0 0 (kOpa (c 3)) 128 64) 64 ∧
      b.sramErrors 0 64 128 = [] ∧ b.inHbm 1 (kOpc (c 3)) 128 = true := by decide
theorem wit_moveHost :
    let c := fun op => word op 64 0 1 128 0
    let s := fun op => queued 0 (c op)
    Ready (s 5) (.moveHostRead 0) ∧ Starts (s 5) 0 0 0x05 (sheaf (c 5)) ∧ Ready (s 6) (.moveHostWrite 0) ∧
      Starts (s 6) 0 0 0x06 (sheaf (c 6)) ∧ ((s 5).blk.started 0 (sheaf (c 5))).inHost 1 (kOpc (c 5)) 128 = true ∧
      ((s 5).blk.started 0 (sheaf (c 5))).sramErrors 0 64 128 = [] := by decide
theorem wit_moveHbmStream :
    let c := word 0x0A 0 3 0 1 0
    let s := queued 0 c
    Ready s (.moveHbmStream 0) ∧ Starts s 0 0 0x0A (sheaf c) ∧ s.blk.member.isHbmTile (kOpb c % 1024) = true ∧ 1 ≤ kLen c ∧
      (s.blk.started 0 (sheaf c)).inHbm 1 0 64 = true := by decide

theorem wit_moveSow :
    let d : BitVec 128 := BitVec.ofNat 128 (2 ^ 20 + 2 ^ 12 + 2 ^ 64)
    let c := word 0x07 0 0 0 1 0
    let s := queued 0 c (described d)
    let b := s.blk.started 0 (sheaf c)
    Ready s (.moveSow 0) ∧ Starts s 0 0 0x07 (sheaf c) ∧ gives (b.sramAt 0 0 (kOpb c) 64 64) 0 ∧
      gives (b.injectSram 0 1 0) d ∧ kXopt c + kLen c ≤ dCells d ∧
      (b.staging (stageKey 0 1 0 false)).filled + kLen c ≤ dCells d ∧ b.sramErrors 0 0 64 = [] := by decide
theorem wit_moveReap :
    let d : BitVec 128 := BitVec.ofNat 128 (2 ^ 20 + 2 ^ 21 + 2 ^ 12 + 2 ^ 64)
    let c := word 0x08 0 64 0 1 0
    let s := queued 0 c (described d)
    let b := s.blk.started 0 (sheaf c)
    Ready s (.moveReap 0) ∧ Starts s 0 0 0x08 (sheaf c) ∧ gives (b.sramAt 0 0 (kOpb c) 64 64) 64 ∧
      (b.sownInput 0 1 c 1).toOption.map (fun x => (x.1.1, x.2)) = some (List.replicate 64 0#8, stMissing, 1) := by decide
theorem wit_moveEmit :
    let c := word 0x09 0 64 0 1 0
    let s := queued 0 c (sieved.writeSram 0 64 (toBytes 32 (2 ^ 16)))
    let b := s.blk.started 0 (sheaf c)
    Ready s (.moveEmit 0) ∧ Starts s 0 0 0x09 (sheaf c) ∧ 1 ≤ kLen c ∧ kLen c ≤ 64 ∧
      gives (b.sramAt 0 0 (kOpa c) 64 64) 0 ∧ gives (b.sramAt 0 0 (kOpb c) 32 64) 64 ∧
      b.sramErrors 0 64 32 = [] ∧ b.sramErrors 0 0 64 = [] ∧
      gives (b.emitPort 0 1 (fKey (BitVec.ofNat 256 (ofBytes (b.readSram 0 64 32)))) false) 0 := by decide

/-! ### Sums and arrays -/

theorem wit_reduceOasis :
    let c := word 0x41 63 0 0 4096 0 (2 ^ 48)
    let d := word 0x41 0 0 0 16384 0
    let s := queued 1 c
    Ready s (.reduceOasis 0) ∧ Starts s 0 1 0x41 (sheaf c) ∧ kXopt c % 2 = 1 ∧ 1 ≤ kLen c ∧
      (s.blk.tile 0).roomUsed + oasisRoom true 4096 ≤ 16384 ∧ (s.blk.tile 0).roomUsed + oasisRoom false 16384 ≤ 16384 ∧
      Ready (queued 1 d) (.reduceOasis 0) ∧ Starts (queued 1 d) 0 1 0x41 (sheaf d) := by decide
theorem wit_reduceRelease :
    let c := word 0x42 0 0 0 0 0
    let s := queued 1 c (oasised true)
    Ready s (.reduceRelease 0) ∧ Starts s 0 1 0x42 (sheaf c) ∧ ((s.blk.tile 0).oases.get? 0).isSome = true ∧
      ((s.blk.tile 0).sheaves 1).any (fun y => y.state = .lent && addsInto 0 y) = false := by decide
theorem wit_reduceAdd :
    let c := fun op => word op 64 (3 * 2 ^ 16) 0 1 0
    let s := fun op => queued 1 (c op) (oasised true)
    let b := (s 0x43).blk.started 0 (sheaf (c 0x43))
    Ready (s 0x43) (.reduceAdd 0) ∧ Starts (s 0x43) 0 1 0x43 (sheaf (c 0x43)) ∧ Ready (s 0x45) (.reduceScaleAdd 0) ∧
      Starts (s 0x45) 0 1 0x45 (sheaf (c 0x45)) ∧ fmtOk 0 = true ∧ lenOk 0 1 = true ∧
      (b.oasisOf 0 (c 0x43) (·.takes 0)).toOption.isSome = true ∧ gives (b.sramAt 0 0 64 4 (runAlign 0)) 64 ∧
      b.sramErrors 0 64 4 = [] ∧ b.fraErrors 0 0 3 1 = [] := by decide
theorem wit_reduceAddSown :
    let c := word 0x44 0 0 0 1 0
    let s := queued 1 c (described (BitVec.ofNat 128 (2 ^ 20 + 2 ^ 21 + 2 ^ 12 + 2 ^ 64)) (oasised true))
    let b := s.blk.started 0 (sheaf c)
    Ready s (.reduceAddSown 0) ∧ Starts s 0 1 0x44 (sheaf c) ∧ fmtOk 0 = true ∧ lenOk 0 1 = true ∧
      (b.sownInput 0 1 c 1).toOption.map (fun x => (x.1.1, x.2, (x.1.2.oasisOf 0 c (·.takes 0)).toOption.isSome,
        (x.1.2.fraOperand 0 0 0 1).toOption.isSome)) = some (List.replicate 64 0#8, (stMissing, 1), true, true) := by decide
theorem wit_reduceMerge :
    let c := word 0x46 64 0 0 1 0
    let s := queued 1 c (oasised false)
    let b := s.blk.started 0 (sheaf c)
    Ready s (.reduceMerge 0) ∧ Starts s 0 1 0x46 (sheaf c) ∧ gives (b.sramAt 0 0 64 12 1) 64 ∧ b.sramErrors 0 64 12 = [] ∧
      ((b.oasisOf 0 c (fun _ => true)).bind fun o =>
        b.mergeInto 0 1 0 o 0 (wireRun false 1 (b.readSram 0 64 12))).toOption.isSome = true := by decide
theorem wit_reduceRound :
    let c := fun op => word op 64 0 0 2 0
    let s := fun op => queued 1 (c op) (oasised true)
    let b := (s 0x47).blk.started 0 (sheaf (c 0x47))
    Ready (s 0x47) (.reduceRound 0) ∧ Starts (s 0x47) 0 1 0x47 (sheaf (c 0x47)) ∧ Ready (s 0x48) (.reduceNarrow 0) ∧
      Starts (s 0x48) 0 1 0x48 (sheaf (c 0x48)) ∧ fmtOk 0 = true ∧ lenOk 0 2 = true ∧ kRnd (c 0x47) = 0 ∧
      b.fraErrors 0 0 0 2 = [] ∧ gives (b.sramAt 0 0 64 (runBytes 0 2) (runAlign 0)) 64 ∧
      (b.oasisOf 0 (c 0x47) (fun _ => true)).toOption.isSome = true := by decide
theorem wit_reduceMap :
    let c := word 0x49 0 64 0x3F800000 2 0x3F800000
    let s := queued 1 c
    let b := s.blk.started 0 (sheaf c)
    Ready s (.reduceMap 0) ∧ Starts s 0 1 0x49 (sheaf c) ∧ fpBinary32.decode (kOpc c) ≠ .nan ∧ kRnd c ≤ 4 ∧
      lenOk (kInFmt c) (kLen c) = true ∧ gives (b.sramAt 0 0 0 8 (runAlign 0)) 0 ∧ gives (b.sramAt 0 0 64 8 (runAlign 0)) 64 ∧
      b.sramErrors 0 0 8 = [] := by
  decide
theorem wit_reduceCrc :
    let c := word 0x4A 0 64 0 8 0
    let s := queued 1 c
    let b := s.blk.started 0 (sheaf c)
    Ready s (.reduceCrc 0) ∧ Starts s 0 1 0x4A (sheaf c) ∧ gives (b.sramAt 0 0 0 8 1) 0 ∧ gives (b.sramAt 0 0 64 4 4) 64 ∧
      b.sramErrors 0 0 8 = [] := by
  decide
theorem wit_arrayLoad :
    let c := word 0x81 0 0 0 1 0 (2 ^ 48 * 4096 + 2 ^ 224)
    let s := queued 2 c
    let b := s.blk.started 0 (sheaf c)
    Ready s (.arrayLoad 0) ∧ Starts s 0 2 0x81 (sheaf c) ∧ (b.tile 0).pinned = false ∧ arrayFmt (kInFmt c) = true ∧ kXopt c = 4096 ∧
      weightsFit 1 1 4096 = true ∧ gives (b.sramAt 0 0 (kOpa c) (weightBytes 1 1 4096) (runAlign 1)) 0 ∧
      b.sramErrors 0 0 (weightBytes 1 1 4096) = [] := by decide
theorem wit_arrayMm :
    let c := word 0x82 0 64 0 1 0 (2 ^ 224)
    let w : Weights := { k := 1, n := 1, fmt := 1, data := [0#8, 0#8] }
    let s := queued 2 c (base.modTile 0 fun x => { x with weights := some w })
    Ready s (.arrayMm 0) ∧ Starts s 0 2 0x82 (sheaf c) ∧ ((s.blk.started 0 (sheaf c)).tile 0).weights = some w ∧
      arrayFmt (kInFmt c) = true ∧ gives ((s.blk.started 0 (sheaf c)).sramAt 0 0 0 (runBytes 1 16) (runAlign 1)) 0 ∧
      gives ((s.blk.started 0 (sheaf c)).sramAt 0 0 64 4 4) 64 ∧
      (s.blk.started 0 (sheaf c)).sramErrors 0 0 (runBytes 1 16) = [] ∧
      ((s.blk.started 0 (sheaf c)).tile 0).pinned = false := by decide
theorem wit_arrayTopk :
    let c := word 0x83 0 64 0 2 0 (2 ^ 48 * 2)
    let s := queued 2 c
    let b := s.blk.started 0 (sheaf c)
    Ready s (.arrayTopk 0) ∧ Starts s 0 2 0x83 (sheaf c) ∧ kXopt c = 2 ∧ kXopt c ≤ kLen c ∧ gives (b.sramAt 0 0 0 8 4) 0 ∧
      gives (b.sramAt 0 0 64 16 4) 64 ∧ b.sramErrors 0 0 8 = [] := by decide
theorem wit_arrayGate :
    let c := word 0x84 0 64 0 0 0 (2 ^ 48 * 8 + 2 ^ 232 * 3)
    let s := queued 2 c
    let b := s.blk.started 0 (sheaf c)
    Ready s (.arrayGate 0) ∧ Starts s 0 2 0x84 (sheaf c) ∧ kXopt c = 8 ∧ kRnd c = 3 ∧ gives (b.sramAt 0 0 0 64 4) 0 ∧
      gives (b.sramAt 0 0 64 32 4) 64 ∧ b.sramErrors 0 0 64 = [] := by decide

/-! ### Queues -/

theorem wit_queueSend :
    let c := word 0xC1 1 64 0 sramBytes.pred 0 (2 ^ 48 * rqQueue)
    let d := word 0xC1 1 64 0 0 0 (2 ^ 48 * rqQueue)
    let s := queued 3 d
    Ready s (.queueSend 0) ∧ Starts s 0 3 0xC1 (sheaf d) ∧ kXopt d % 256 = rqQueue ∧ kLen c ≤ sramBytes ∧
      (s.blk.started 0 (sheaf d)).inPlot 1 (kOpa d % 1024) = true ∧
      gives ((s.blk.started 0 (sheaf d)).sramAt 0 0 (kOpb d) 0 1) 64 ∧
      (s.blk.started 0 (sheaf d)).sramErrors 0 64 0 = [] := by decide +kernel
theorem wit_queueGetPut :
    let c := fun op => word op 1 64 128 64 0
    let s := fun op => queued 3 (c op)
    let b := (s 0xC2).blk.started 0 (sheaf (c 0xC2))
    Ready (s 0xC2) (.queueGet 0) ∧ Starts (s 0xC2) 0 3 0xC2 (sheaf (c 0xC2)) ∧ Ready (s 0xC3) (.queuePut 0) ∧
      Starts (s 0xC3) 0 3 0xC3 (sheaf (c 0xC3)) ∧ b.inPlot 1 1 = true ∧ (sramOp 0 64 64 1).isSome = true ∧
      gives (b.sramAt 0 0 128 64 1) 128 ∧ gives (b.sramAt 0 0 64 64 1) 64 ∧ b.sramErrors 0 64 64 = [] := by decide +kernel
theorem wit_queueCombine :
    let c := word 0xC4 1 64 0 4 0
    let s := queued 3 c
    Ready s (.queueCombine 0) ∧ Starts s 0 3 0xC4 (sheaf c) ∧ fmtOk (kInFmt c) = true ∧ isMx (kInFmt c) = false ∧
      gives ((s.blk.started 0 (sheaf c)).sramAt 0 0 64 (runBytes 0 4) (runAlign 0)) 64 ∧
      (s.blk.started 0 (sheaf c)).sramErrors 0 64 (runBytes 0 4) = [] ∧
      (s.blk.started 0 (sheaf c)).inPlot 1 (kOpa c % 1024) = true := by decide +kernel
theorem wit_queueBind :
    let c := word 0xC5 256 0 0 256 0
    let d := word 0xC5 256 0 0 48 1 (2 ^ 48 * 48)
    let s := queued 3 c
    let u := queued 3 d
    let b := s.blk.started 0 (sheaf c)
    Ready s (.queueBind 0) ∧ Starts s 0 3 0xC5 (sheaf c) ∧ gives (b.sramAt 0 0 256 256 64) 256 ∧
      ((b.tile 0).queue 0).bound = false ∧ b.boundQueues 1 < (b.plot 1).cfg.queueQuota ∧ kXopt c = 0 ∧
      Ready u (.queueBind 0) ∧ Starts u 0 3 0xC5 (sheaf d) ∧ kXopt d / 16 % 2 = 1 ∧ kXopt d / 32 % 2 = 1 ∧
      kLen d % fraBytes true = 0 := by decide +kernel
theorem wit_queueUnbind :
    let c := word 0xC6 0 0 0 0 0
    let s := queued 3 c (ringed)
    Ready s (.queueUnbind 0) ∧ Starts s 0 3 0xC6 (sheaf c) ∧ ((s.blk.tile 0).queue 0).bound = true ∧
      (s.blk.tile 0).ms.asms.any (fun y => y.2.queue = 0) = false := by decide +kernel
theorem wit_queuePop :
    let c := word 0xC7 1024 0 0 128 0
    let s := queued 3 c ((ringed fun q => { q with wr := 2, rsv := 2, pubs := [⟨0, 2, 0⟩] }).writeSram 0 256
      (toBytes 64 (msgHead 64).toNat))
    let d := word 0xC7 1024 0 0 0 0
    let u := queued 3 d ringed
    let b := (s.blk.popPass 0).started 0 (sheaf c)
    let r := (b.tile 0).queue 0
    let q := ((u.blk.popPass 0).tile 0).queue 0
    Ready s (.queuePop 0) ∧ (s.blk.popPass 0).nextStart 0 3 = some (sheaf c) ∧ kOp c = 0xC7 ∧
      gives (b.sramAt 0 0 1024 128 64) 1024 ∧ r.bound = true ∧ r.combine = false ∧ r.rd ≠ r.wr ∧
      hChkOk (b.header 0 r r.rd) = true ∧ 64 + hBytes (b.header 0 r r.rd) ≤ kLen c ∧
      Ready u (.queuePop 0) ∧ (u.blk.popPass 0).nextStart 0 3 = some (sheaf d) ∧ q.rd = q.wr := by decide +kernel
theorem wit_queueHandler :
    let c := word 0xC8 64 0 0 4096 0 (2 ^ 48 * 255)
    let d := word 0xC8 64 0 0 0 0
    Ready (queued 3 c) (.queueHandler 0) ∧ Starts (queued 3 c) 0 3 0xC8 (sheaf c) ∧ sramAddr 0 (kOpa c) = 64 ∧
      kLen c ≤ 4096 ∧ 0 < kLen c ∧ 64 + 32 * kLen c ≤ sramBytes ∧ Ready (queued 3 d) (.queueHandler 0) ∧
      Starts (queued 3 d) 0 3 0xC8 (sheaf d) ∧ kLen d = 0 := by decide +kernel
theorem wit_entryPublish : Ready (at_ ringed) (.entryPublish 0 15) := by decide +kernel
theorem wit_handlerLaunch :
    let l : Launch := { plot := 1, list := 0, base := 0, limit := 4096, statusAt := none, handler := none }
    let s := at_ (base.modTile 0 fun x => { x with es := { x.es with handlerWait := [l], launchQ := List.replicate 15 l } })
    Ready s (.handlerLaunch 0) ∧ (s.blk.tile 0).es.handlerWait = [l] ∧ (s.blk.tile 0).es.launchQ.length < 16 := by decide +kernel
theorem wit_fallbackDrain :
    let f : FbEntry := { queue := 0, handler := none, hdr := msgHead 64, data := List.replicate 128 1#8 }
    let s := at_ ((ringed).modTile 0 fun x => { x with ms := { x.ms with fallback := [f] } })
    let r := (s.blk.tile 0).queue 0
    Ready s (.fallbackDrain 0 0) ∧ r.bound = true ∧ r.combine = false ∧
      takeFirst (fun (f : FbEntry) => f.queue = 0) (s.blk.tile 0).ms.fallback = some (f, []) ∧
      (s.blk.reserve 0 0 (hCells f.hdr) f.handler (fun seq => rehead (setFld f.hdr 0 16 seq)) true).isSome = true := by
  decide +kernel
theorem wit_assemblyAbandon :
    let a : Assembly := { src := 1, msgId := 1, queue := 0, ptr := 0, cells := 2, left := 1, last := 9 }
    let s := fun l => at_ ((ringed).modTile 0 fun x => { x with ms := { x.ms with asms := [(31, { a with last := l })] } })
    Ready (s 9) (.assemblyAbandon 0 31) ∧ ((s 9).blk.tile 0).ms.asms.get? 31 = some a ∧ a.last ≠ (s 0).blk.clk.mc ∧
      ((s (s 0).blk.clk.mc).blk.tile 0).ms.asms.get? 31 = some { a with last := (s 0).blk.clk.mc } := by decide +kernel
theorem wit_queueRdWrite :
    let s := at_ (ringed fun q => { q with wr := 2, rsv := 2, rd := 1 })
    let r := (s.blk.tile 0).queue 0
    let u := at_ { base with member := .dx16 }
    Ready s (.queueRdWrite 0 0 2#16) ∧ s.blk.member.hasTile 0 = true ∧ r.dist r.wr 2 ≤ r.dist r.wr r.rd ∧ 2 < 2 * r.size ∧
      Ready s (.queueRdWrite 0 0 0#16) ∧ r.dist r.wr r.rd < r.dist r.wr 0 ∧ Ready u (.queueRdWrite 1023 15 0#16) ∧
      Ready u (.fbPop 1023 0#32) ∧ u.blk.member.hasTile 1023 = false := by decide +kernel
theorem wit_fbPop : Ready (at_ base) (.fbPop 0 1#32) ∧ flag 1#32 0 = true := by decide +kernel
theorem wit_statusRecordWrite :
    let s := fun r h => at_ (base.modTile 0 fun x => x.modCtx 7 fun k => { k with state := .report, statusAt := r, handler := h })
    let k := fun (s : State) => (s.blk.tile 0).ctx 7
    Ready (s (some 16) none) (.statusRecordWrite 0 7) ∧ (k (s (some 16) none)).statusAt = some 16 ∧
      Ready (s none (some (15, 7, true))) (.statusRecordWrite 0 7) ∧
      (k (s none (some (15, 7, true)))).handler = some (15, 7, true) ∧
      (k (s none (some (15, 7, false)))).handler = some (15, 7, false) := by decide +kernel
theorem wit_queueUnbind_waits :
    let c := word 0xC6 0 0 0 0 0
    let a : Assembly := { src := 1, msgId := 1, queue := 0, ptr := 0, cells := 2, left := 1, last := 0 }
    let s := queued 3 c ((ringed).modTile 0 fun x => { x with ms := { x.ms with asms := [(31, a)] } })
    Ready s (.queueUnbind 0) ∧ Starts s 0 3 0xC6 (sheaf c) ∧ ((s.blk.tile 0).queue 0).bound = true ∧
      (s.blk.tile 0).ms.asms.any (fun y => y.2.queue = 0) = true := by decide +kernel

/-! ### The open plane -/

theorem wit_flitHeadArrival :
    let s := opened fun o => { o with links := [(inKey 0 0 1, [(getPkt, 0)])] }
    let h := agedHdr getPkt.hdr 0
    Ready s (.flitHeadArrival 0 0 1 0#128) ∧ s.blk.opn.links.getD (inKey 0 0 1) [] = [(getPkt, 0)] ∧ flitOk (h ^^^ 0#128) 0 = true ∧ flitOk (h ^^^ 1#128) 0 = false ∧
      (s.blk.routeOf 0 0 1 { getPkt with hdr := h }).isSome = true := by decide +kernel
theorem wit_flitHeadArrival_noRoute :
    let b : Blk := { base with sown := { base.sown with active := { base.sown.active with routes := [(0, 0#32)] } } }
    flitOk (agedHdr getPkt.hdr 0) 0 = true ∧
      b.routeOf 0 0 3 { getPkt with hdr := agedHdr getPkt.hdr 0 } = none := by decide +kernel
theorem wit_outputArbitration :
    let s := opened fun o => { o with bufs := [(vcKey 0 0 1 0, [heldPkt 5])] }
    Ready (at_ base) (.outputArbitration 0 0 4) ∧ base.winner 0 0 4 = none ∧
      Ready s (.outputArbitration 0 0 4) ∧ (s.blk.arb (inKey 0 0 4)).busy ≤ s.blk.clk.mc ∧
      (s.blk.winner 0 0 4).isSome = true := by decide +kernel
/-- A busy output, in the mc that chooses its hint. -/
theorem wit_outputArbitration_hint :
    let b := base.modTile 0 fun x => { x with openCtrl := { x.openCtrl with hintEn := true } }
    let a : Arb := { b.arb (inKey 0 0 4) with busy := b.clk.mc + 2, hintAt := some b.clk.mc }
    let s := opened (fun o => { o with arbs := [(inKey 0 0 4, a)] }) b
    Ready s (.outputArbitration 0 0 4) ∧ s.blk.arb (inKey 0 0 4) = a ∧ s.blk.clk.mc < a.busy ∧
      (s.blk.tile 0).openCtrl.hintEn = true := by decide +kernel
theorem wit_creditReturn :
    let s := opened fun o => { o with owed := [(vcKey 0 0 3 0, 1)] }
    Ready s (.creditReturn 0 0 3 0) ∧ s.blk.opn.owed.getD (vcKey 0 0 3 0) 0 = 1 := by decide +kernel
theorem wit_flitAgeDrop :
    let s := opened fun o => { o with bufs := [(vcKey 0 0 4 0, [heldPkt 5])] }
    let l := s.blk.buf (vcKey 0 0 4 0)
    Ready s (.flitAgeDrop 0 0 4 0) ∧
      l.find? (fun h => s.blk.effAge h = (l.map s.blk.effAge).foldl max 0) = some (heldPkt 5) := by decide +kernel
theorem wit_requestInject_mover :
    let x := { sheaf (word 0x03 64 0 1 128 0) with state := .running, total := 1 }
    let s := at_ (base.modTile 0 fun y => y.setSheaves 0 [x])
    Ready s (.requestInject 0 .mover) ∧ ((s.blk.tile 0).sheaves 0).find? issuing = some x ∧ kOp x.cmd ≠ 0xC1 ∧
      ((s.blk.moverReq 0 x).map fun r => decide ((s.blk.sendReq (.tile 0) .mover snReq 0 r).2 = .sent)) = some true := by
  decide +kernel
theorem wit_requestInject_queue :
    let x := { sheaf (word 0xC2 1 64 128 64 0) with state := .running, total := 1 }
    let s := at_ (base.modTile 0 fun y => y.setSheaves 3 [x])
    Ready s (.requestInject 0 .queue) ∧ ((s.blk.tile 0).sheaves 3).find? issuing = some x ∧ kOp x.cmd = 0xC2 ∧
      (s.blk.sendReq (.tile 0) .queue snReq 0 (s.blk.queueReq 0 x)).2 = .sent := by decide +kernel
theorem wit_requestInject_repair :
    let g : GetSend := { ref := .sheaf 3 0 0, target := 1, addr := 0, bytes := 64, plot := 1 }
    let s := at_ (base.modTile 0 fun y => { y with net := { y.net with getOut := [g] } })
    Ready s (.requestInject 0 .queue) ∧ ((s.blk.tile 0).sheaves 3).any issuing = false ∧
      (s.blk.tile 0).net.getOut = [g] := by decide +kernel
theorem wit_requestInject_others :
    let d : DfpSend := { target := 1, queue := 0, plot := 1, data := [1#8], msgId := 5, issued := 0, outst := 0, failed := false }
    let k : KhdrSend := { target := 1, plot := 1, tag := 0#32, body := [], cls := 0, slot := 0, rank := 0 }
    let s := at_ (base.modTile 0 fun y => { y with net := { y.net with dfpOut := [d], khdrOut := [k] } })
    Ready s (.requestInject 0 .ingress) ∧ (s.blk.tile 0).net.dfpOut = [d] ∧ d.issued < max 1 (parts128 d.data.length) ∧
      Ready s (.requestInject 0 .home) ∧ (s.blk.tile 0).net.khdrOut = [k] := by decide +kernel
/-- The steal unit's next read for a borrowed reduce.crc. -/
theorem wit_requestInject_steal :
    let r : Borrowed := { victim := 1, lendId := 9, engine := 1, cmd := word 0x4A 0 64 0 8 0, plot := 1, asked := 0, outst := 0,
                          got := [], ran := false, result := [], put := 0, failed := false }
    let s := at_ (base.modTile 0 fun x => { x with es := { x.es with borrowed := [r] } })
    let x := s.blk.tile 0
    Ready s (.requestInject 0 .stealUnit) ∧ x.es.borrowed.find? (fun r => (r.next x.ms.msgId).isSome) = some r := by
  decide +kernel
theorem wit_requestInject_quorum :
    let s := at_ { base with quorum := { base.quorum with net := [(true, 0, [1#8])] } }
    Ready s (.requestInject 0 .steward) ∧
      takeFirst (fun (x : Bool × Nat × Bytes) => x.2.1 = 0) s.blk.quorum.net = some ((true, 0, [1#8]), []) ∧
      takeFirst (fun (x : Bool × Nat × Bytes) => x.2.1 = 1) s.blk.quorum.net = none := by decide +kernel
theorem wit_requestInject_admin :
    let s := at_ base
    let p := mkPacket snAdmin 0 s.blk.epoch 0 sysTile 0 0xE0 0 false 0 0 []
    Ready s (.requestInject 1023 .vault) ∧ Ready s (.requestInject 1023 .steward) ∧ Ready s (.requestInject 0 .scrubber) ∧
      s.blk.opn.scrubFlight < 8 ∧ s.blk.injectFill sysTile snAdmin 0 + p.flits ≤ 16 ∧
      Ready s (.requestInject 0 .debug) ∧ s.blk.debugRefused 0 = false ∧
      Ready (opened fun o => { o with scrubFlight := 8, debugFlight := 8 }) (.requestInject 0 .scrubber) := by decide +kernel
theorem wit_dbgAccess :
    let s := at_ base
    let p := mkPacket snAdmin 0 s.blk.epoch 0 sysTile 0 0xF1 0 false 0 (64 * 2 ^ 21) (List.replicate 64 0#8)
    Ready s (.dbgAccess 0 true 0 (List.replicate 64 0#8)) ∧ s.blk.debugRefused 0 = false ∧ s.blk.opn.debugFlight < 8 ∧
      s.blk.injectFill sysTile snAdmin 0 + p.flits ≤ 16 := by decide +kernel
theorem wit_requestEject :
    let s := opened fun o => { o with eject := [(0, [(getPkt, 0)])] }
    let b1 := s.blk.setEject 0 0 []
    Ready s (.requestEject 0 0) ∧
      takeFirst (fun (x : Packet × Nat) => isRequest 0 x.1) (s.blk.ejectBuf 0 0) = some ((getPkt, 0), []) ∧
      s.blk.graftWaits 0 getPkt = false ∧ b1.attachTakes 0 rqGet = false ∧ b1.clusterTested (clusterOf 0) = false ∧
      b1.owns 1 0 = true ∧ pGen getPkt.hdr = (b1.plot 1).graft.gen.toNat ∧ opTaken rqGet = true := by decide +kernel
/-- In the hold, a request at an old tile of the plot that is its own no longer. -/
theorem wit_requestEject_graft :
    let b := base.modPlot 1 fun x => { x with owned := 254#1024, graft := { x.graft with
      gen := 1#16, holding := true, old := 1#1024, map := [(0, BitVec.ofNat 16 (1 + 2 ^ 10))] } }
    let s := fun op => opened (fun o => { o with eject := [(0, [(mkPacket snReq 0 false 0 1 1 op 0 false 0 0 (msgWord 0 64 0 0 0), 0)])] }) b
    let g := (b.plot 1).graft
    Ready (s rqQueue) (.requestEject 0 0) ∧ b.owns 1 0 = false ∧ flag g.old 0 = true ∧ (g.gen.toNat + 65535) % 65536 = 0 ∧
      graftForwards rqQueue = true ∧ flag (g.map.getD 0 0#16) 10 = true ∧ graftForwards rqGet = false ∧
      flag g.old 9 = false := by decide +kernel
/-- The cluster of the target is under self-test. -/
theorem wit_requestEject_tested :
    let s := at_ { base with power := { base.power with testing := [0] } }
    s.blk.clusterTested (clusterOf 0) = true := by decide +kernel
theorem wit_replyDeadline :
    let s := at_ (base.modTile 0 fun x => { x with net := { x.net with replyWait := [(1, getPkt, 0)] } })
    Ready s (.replyDeadline 0 1) ∧ takeFirst (fun (x : Nat × Packet × Nat) => x.1 = 1) (s.blk.tile 0).net.replyWait =
      some ((1, getPkt, 0), []) := by decide +kernel

theorem wit_replyArrival :
    let r := mkPacket snReply 0 false 0 1 1 (replyOp rqGet) 0 false 0 63 []
    let s := opened fun o => { o with eject := [(1, [(r, 0)])], slots := [(0, waitSlot)] }
    Ready s (.replyArrival 0 1) ∧ takeFirst (fun (x : Packet × Nat) => !isRequest 1 x.1) (s.blk.ejectBuf 0 1) = some ((r, 0), []) ∧
      s.blk.slot (slotKey (replyOwner 0 1 r)) (pSlot r.hdr) = waitSlot ∧ s.blk.clusterTested (clusterOf 0) = false ∧
      s.blk.fromTarget waitSlot (pSrc r.hdr) = true ∧
      ((base.setEject 0 1 []).slot (slotKey (replyOwner 0 1 r)) 0).state ≠ .waiting := by decide +kernel
theorem wit_slots :
    let s := opened fun o => { o with slots := [(0, waitSlot), (31, { waitSlot with state := .quarantine })] }
    Ready s (.reqTimeout (.tile 0) 0) ∧ s.blk.slot (slotKey (.tile 0)) 0 = waitSlot ∧
      Ready s (.slotQuarantineEnd (.tile 0) 31) ∧ (s.blk.slot (slotKey (.tile 0)) 31).state = .quarantine := by decide +kernel
theorem wit_controls :
    let u := at_ { base with member := .dx16 }
    Ready (at_ base) (.openCtrlWrite 0 0#128) ∧ Ready (at_ base) (.engCtrlWrite 1023 0#128) ∧ Ready u (.openCtrlWrite 1023 0#128) ∧
      Ready u (.engCtrlWrite 1023 0#128) ∧ u.blk.member.hasTile 1023 = false := by decide +kernel

theorem wit_msgPacketLand :
    let p := mkPacket snReq 0 false 0 1 1 rqQueue 0 false 0 0 (msgWord 0 64 5 0 0 ++ List.replicate 64 1#8)
    let m := mkPacket snReq 0 false 0 1 1 rqQueue 0 false 0 0 (msgWord 128 192 5 0 0 ++ List.replicate 64 1#8)
    let a : Assembly := { src := 1, msgId := 5, queue := 0, ptr := 0, cells := 4, left := 128, last := 0 }
    let s := inbox p ringed
    let u := inbox m ((ringed).modTile 0 fun x => { x with ms := { x.ms with asms := [(0, a)] } })
    Ready s (.msgPacketLand 0) ∧ (s.blk.takeInbox 0 (fun op => op = rqHandler || op = rqQueue)).isSome = true ∧
      mOffset p.body = 0 ∧ mBytes p.body ≤ 128 ∧ mBytes p.body ≤ 64 * (((s.blk.tile 0).queue 0).size - 1) ∧
      ((s.blk.takeInbox 0 (fun op => op = rqHandler || op = rqQueue)).bind fun x => (x.2.reserve 0 0 2 none
        (fun seq => msgHeader seq false 0 1 5 64 (pArg p.hdr) 0 rqQueue 1) true).map fun y =>
          (x.2.fbFirst 0 0, (x.2.tile 0).sealedHit (((s.blk.tile 0).queue 0).addr y.1) 128)) = some (false, false) ∧
      mOffset m.body = 128 ∧
      (u.blk.tile 0).ms.asms.find? (fun z => z.2.src = pSrc m.hdr && z.2.msgId = mId m.body) = some (0, a) ∧
      msgData (mBytes m.body) (mOffset m.body) < a.left := by decide +kernel
/-- A message of more than 128 bytes, to a ring and to a valid handler. -/
theorem wit_msgPacketLand_first :
    let p := fun op => mkPacket snReq 0 false 0 1 1 op 0 false 0 0 (msgWord 0 192 5 0 0 ++ List.replicate 128 1#8)
    let h : Handler := { list := 0, valid := true, freeOnEnd := false, queue := 0, cmds := 1 }
    let s := fun op => inbox (p op) ((ringed).modTile 0 fun x => { x with ms := { x.ms with handlers := [(0, h)] } })
    let b := (s rqHandler).blk
    Ready (s rqQueue) (.msgPacketLand 0) ∧ Ready (s rqHandler) (.msgPacketLand 0) ∧
      (b.takeInbox 0 (fun op => op = rqHandler || op = rqQueue)).isSome = true ∧ mTarget (p rqHandler).body = 0 ∧
      (b.tile 0).handlerOf 0 = h ∧ 128 < mBytes (p rqQueue).body ∧
      mBytes (p rqQueue).body ≤ 64 * (((b.tile 0).queue 0).size - 1) ∧ (b.tile 0).freeAsm = some 0 := by decide +kernel
/-- The last packet of a message. -/
theorem wit_msgPacketLand_last :
    let m := mkPacket snReq 0 false 0 1 1 rqQueue 0 false 0 0 (msgWord 128 192 5 0 0 ++ List.replicate 64 1#8)
    let a : Assembly := { src := 1, msgId := 5, queue := 0, ptr := 0, cells := 4, left := 64, last := 0 }
    let u := inbox m ((ringed).modTile 0 fun x => { x with ms := { x.ms with asms := [(0, a)] } })
    Ready u (.msgPacketLand 0) ∧ a.left ≤ msgData (mBytes m.body) (mOffset m.body) ∧
      (u.blk.tile 0).sealedHit (((u.blk.tile 0).queue 0).addr 0 + 64 + mOffset m.body) 64 = false := by decide +kernel
theorem wit_remoteGet :
    let s := inbox getPkt
    Ready s (.remoteGet 0) ∧ (s.blk.takeInbox 0 (· = rqGet)).isSome = true ∧ remoteOk 0 (mBytes getPkt.body) = true ∧
      s.blk.sramErrors 0 0 64 = [] := by
  decide +kernel
theorem wit_remotePut :
    let p := mkPacket snReq 0 false 0 1 1 rqPut 0 false 0 (sramBytes - 1) (msgWord 0 1 0 0 0 ++ [1#8])
    let s := inbox p
    Ready s (.remotePut 0) ∧ (s.blk.takeInbox 0 (· = rqPut)).isSome = true ∧
      remoteOk (pArg p.hdr) (mBytes p.body) = true := by decide +kernel
theorem wit_combinePacket :
    let p := mkPacket snReq 0 false 0 1 1 rqCombine 0 false 0 3 (msgWord 0 4 0 0 0 ++ [0#8, 0#8, 128#8, 63#8])
    let s := inbox p (base.modQueue 0 0 fun _ =>
      { Queue.fresh with bound := true, base := 4, size := 4, combine := true, wide := true })
    let r := (s.blk.tile 0).queue 0
    Ready s (.combinePacket 0) ∧ (s.blk.takeInbox 0 (· = rqCombine)).isSome = true ∧ r.takes (mFmt p.body) = true ∧
      r.bound = true ∧ r.combine = true ∧ pArg p.hdr + 1 ≤ r.size ∧ r.semEn = false ∧ Ready (inbox p) (.combinePacket 0) ∧
      ((base.tile 0).queue 0).combine = false := by decide +kernel
/-- A run out of form, and a run in a sealed range. -/
theorem wit_remote_refused :
    let p := mkPacket snReq 0 false 0 1 1 rqPut 0 false 0 sramBytes (msgWord 0 1 0 0 0 ++ [1#8])
    let b := base.modTile 0 fun x => { x with sealed := [(0, 64)] }
    remoteOk (pArg p.hdr) (mBytes p.body) = false ∧ Ready (inbox p) (.remotePut 0) ∧ Ready (inbox getPkt b) (.remoteGet 0) ∧
      ((inbox getPkt b).blk.tile 0).sealedHit 0 64 = true := by decide +kernel

/-! ### The sown plane -/

/-- The started block with a change of its sown plane. -/
def sowing (f : Sown → Sown) (b : Blk := base) : State := at_ { b with sown := f b.sown }

/-- A sown entry with its CHK (R49). -/
def entry64 (n : Nat) : BitVec 64 := BitVec.ofNat 64 (n + (crc8 (BitVec.ofNat 64 n) 56).toNat * 2 ^ 56)

theorem wit_tickMarkerReceive :
    let s := sowing fun o => { o with dies := [(1, { locked := false, zeros := 15, clearFence := false }),
      (3, { locked := true, zeros := 0, clearFence := false })] }
    let u := sowing fun o => { o with state := .armed }
    Ready (at_ { base with member := .dx16 }) (.tickMarkerReceive 0 9) ∧ Ready s (.tickMarkerReceive 0 9) ∧
      Ready u (.tickMarkerReceive 3 1) ∧ (u.blk.die 3).locked = true ∧ Ready s (.frameLockRegained 3) ∧
      Ready s (.tickMarkerReceive 1 0) ∧ (s.blk.die 1).locked = false ∧ Ready s (.tickMarkerReceive 3 1) ∧
      (s.blk.die 3).locked = true ∧ s.blk.sown.state ≠ .armed ∧ s.blk.member = .dx1024 := by decide
theorem wit_frameLockRegained :
    let s := sowing fun o => { o with dies := [(3, { locked := false, zeros := 16, clearFence := false })] }
    Ready s (.frameLockRegained 3) ∧ (s.blk.die 3).locked = false ∧ 16 ≤ (s.blk.die 3).zeros := by decide
theorem wit_sownWindowOpen :
    let e := entry64 inInject
    let s := sowing fun o => { o with active := { o.active with entries := [(249, e)] } }
    let u := at_ { s.blk with clk := { s.blk.clk with offset := windowOffset e 249 } }
    let v := { u with blk := { u.blk with sown := { u.blk.sown with active := { u.blk.sown.active with
      entries := [(249, e ^^^ 1#64)] } } } }
    Ready u (.sownWindowOpen 0 0 249) ∧ u.blk.clk.offset = windowOffset (u.blk.sown.active.entry 0 0 249) 249 ∧
      u.blk.openWins 0 0 = [] ∧ Ready v (.sownWindowOpen 0 0 249) ∧ eChkOk (v.blk.sown.active.entry 0 0 249) = false ∧
      v.blk.clk.offset = windowOffset (v.blk.sown.active.entry 0 0 249) 249 ∧
      Ready s (.sownWindowOpen 0 0 249) ∧ s.blk.clk.offset ≠ windowOffset (s.blk.sown.active.entry 0 0 249) 249 ∧ 249 < s.blk.slots ∧ eChkOk (s.blk.sown.active.entry 0 0 249) = true ∧
      eIn (s.blk.sown.active.entry 0 0 249) = inInject := by decide +kernel
theorem wit_sownCellArrival :
    let c : Cell := { hdr := 0#96, data := List.replicate 64 0#8 }
    let w : Window := { entry := BitVec.ofNat 64 4, gen := 0#16, bad := false, opened := 0, carried := 0 }
    let s := sowing fun o => { o with links := [(3, [c])] }
    let u := sowing fun o => { o with links := [(3, [c])], windows := [(1, [w]), (4, [w])] }
    Ready s (.sownCellArrival 0 3 0#96) ∧ s.blk.linkCells 3 = [c] ∧ s.blk.takers 0 3 = [] ∧
      Ready u (.sownCellArrival 0 3 1#96) ∧ u.blk.takers 0 3 = [(1, w), (4, w)] := by decide +kernel
theorem wit_crossingLinks :
    let s := at_ base
    Ready s (.xsUncorr 15 1) ∧ s.blk.member.crossing 15 1 = true ∧ Ready s (.xsPhyDown 480 2) ∧
      s.blk.member.crossing 480 2 = true ∧ Ready s (.xsPhyDown 9 1) ∧ s.blk.member.crossing 9 1 = false ∧ Ready s (.engineNoProgress 1023 3) := by decide
theorem wit_sownLoadStart :
    let s := at_ base
    let u := sowing fun o => { o with state := .ready }
    let v := sowing fun o => { o with state := .invalid }
    Asked s (.sownLoadStart .mailbox) .mailbox false ∧ s.blk.transferOn 0x2200 0x09 = false ∧
      s.blk.transferOn 0x2202 0x01 = false ∧ s.blk.sown.state = .free ∧ Asked u (.sownLoadStart .mailbox) .mailbox false ∧
      Asked v (.sownLoadStart .mailbox) .mailbox false ∧
      Asked (sowing fun o => { o with state := .armed }) (.sownLoadStart .mailbox) .mailbox false := by decide

/-- A DX-16 with a sowing image of 125 slots and no section in the staging region. -/
def imaged : Blk :=
  ({ base with member := .dx16 }).writeHbm 0 0 (toBytes 32 (0x534F574E + 2 ^ 32 + 125 * 2 ^ 48 + 32 * 2 ^ 96))

theorem wit_sownLoadDone :
    let s := sowing (fun o => { o with state := .loading, busy := true }) imaged
    let u := sowing fun o => { o with state := .loading, busy := true }
    Ready s .sownLoadDone ∧ s.blk.sown.expert = false ∧ s.blk.sown.busy = true ∧ s.blk.fault.current = none ∧
      (loadImage s.blk false 0 (2 ^ 26)).2 = none ∧
      Ready u .sownLoadDone ∧ (loadImage u.blk false 0 (2 ^ 26)).2 = some ⟨1, 0, 0⟩ := by decide +kernel
/-- The load of an alternate, of a good and of an empty image. -/
theorem wit_sownLoadDone_alternate :
    let f : Failover := { cls := 1, resource := 0, entry := 0, frame := 0#48, offset := 0, told := true }
    let s := fun b => sowing (fun o => { o with state := .loading, busy := true }) { b with fault := { b.fault with current := some f } }
    let r := fun (b : Blk) => (loadImage b true 0 (altRouteOff b 0)).2
    Ready (s imaged) .sownLoadDone ∧ (s imaged).blk.fault.current = some f ∧ r (s imaged).blk = none ∧
      r (s base).blk ≠ none ∧ lImage ((s base).blk.fault.library.getD f.entry 0#64) = 0 := by decide +kernel
theorem wit_swapFrameWrite :
    let u := sowing fun o => { o with state := .armed }
    Asked (at_ base) (.swapFrameWrite .mailbox 256#64) .mailbox false ∧
      Asked (at_ base) (.swapFrameWrite .mailbox (BitVec.ofNat 64 (2 ^ 48))) .mailbox false ∧
      Asked u (.swapFrameWrite .mailbox 256#64) .mailbox false ∧ Asked u (.swapDisarm .mailbox) .mailbox false ∧
      u.blk.mcUntil u.blk.sown.swapFrame < 256 ∧ Asked (at_ base) (.swapDisarm .mailbox) .mailbox false := by decide
theorem wit_swapArm :
    let s := sowing fun o => { o with state := .ready, swapFrame := 256#48, shadow := { o.shadow with gen := 1#16 } }
    Asked s (.swapArm .mailbox) .mailbox false ∧ s.blk.armRefusal s.blk.sown.swapFrame = none ∧
      Asked (at_ base) (.swapArm .mailbox) .mailbox false ∧ (base.armRefusal base.sown.swapFrame).isSome = true := by decide +kernel
theorem wit_swapDisarm :
    let s := sowing fun o => { o with state := .armed, swapFrame := 1#48 }
    Asked s (.swapDisarm .mailbox) .mailbox false ∧ 256 ≤ s.blk.mcUntil s.blk.sown.swapFrame := by decide
theorem wit_shadowRetireEnd :
    let s := sowing fun o => { o with state := .retired }
    let f : Failover := { cls := 1, resource := 0, entry := 0, frame := 0#48, offset := 0, told := true }
    let u := sowing (fun o => { o with state := .retired }) { base with fault := { base.fault with waiting := [f] } }
    Ready s .shadowRetireEnd ∧ s.blk.fault.waiting = [] ∧ Ready u .shadowRetireEnd ∧ u.blk.fault.waiting = [f] := by decide
theorem wit_sownQuotaWrite :
    let s := at_ base
    let u := sowing fun o => { o with active := { o.active with entries := [(0, BitVec.ofNat 64 1)] } }
    Asked s (.sownQuotaWrite .mailbox 257#16) .mailbox false ∧ Asked s (.sownQuotaWrite .mailbox 256#16) .mailbox false ∧
      (s.blk.modPlot 0 fun x => { x with cfg := { x.cfg with sownQuota := 256 } }).firstExcess 0 = none ∧
      Asked u (.sownQuotaWrite .mailbox 0#16) .mailbox false ∧
      (u.blk.modPlot 0 fun x => { x with cfg := { x.cfg with sownQuota := 0 } }).firstExcess 0 = some 0 := by decide +kernel
/-- An armed shadow that breaks the new quota. -/
theorem wit_sownQuotaWrite_armed :
    let s := sowing fun o => { o with state := .armed, shadow := { o.shadow with entries := [(0, BitVec.ofNat 64 1)] } }
    let b := s.blk.modPlot 0 fun x => { x with cfg := { x.cfg with sownQuota := 0 } }
    Asked s (.sownQuotaWrite .mailbox 0#16) .mailbox false ∧ b.firstExcess 0 = none ∧ b.sown.state = .armed ∧
      b.quotaOk b.sown.shadow = false := by decide +kernel
theorem wit_expertWrites :
    let s := at_ base
    s.blk.expertBegin.isSome = true ∧ Asked s (.expertEntryWrite .mailbox 0#64) .mailbox true ∧
      Asked s (.expertDescriptorWrite .mailbox 0#128) .mailbox true ∧
      Asked s (.expertRouteWrite .mailbox 0#32) .mailbox true ∧ s.blk.sown.state = .free ∧
      (let u := sowing fun o => { o with state := .armed }
       Asked u (.expertEntryWrite .mailbox 0#64) .mailbox true ∧ Asked u (.expertDescriptorWrite .mailbox 0#128) .mailbox true ∧
         Asked u (.expertRouteWrite .mailbox 0#32) .mailbox true ∧ Asked u (.expertCheck .mailbox) .mailbox true) := by decide
theorem wit_expertSelectorWrite :
    let v : BitVec 32 := BitVec.ofNat 32 (1023 + 4 * 2 ^ 10)
    Asked (at_ base) (.expertSelectorWrite .mailbox .entry v) .mailbox true ∧ fld v 10 3 ≤ 4 ∧
      Asked (at_ base) (.expertSelectorWrite .mailbox .descriptor v) .mailbox true ∧
      Asked (at_ base) (.expertSelectorWrite .mailbox .route v) .mailbox true ∧ fld v 16 11 < base.sown.shadow.slots ∧
      base.member.hasTile (fld v 0 10) = true ∧
      Asked (at_ base) (.expertSelectorWrite .mailbox .entry (BitVec.ofNat 32 (5 * 2 ^ 10))) .mailbox true := by decide
theorem wit_expertCheck :
    let s := sowing fun o => { o with state := .loading, expert := true }
    Asked s (.expertCheck .mailbox) .mailbox true ∧ Asked (at_ base) (.expertCheck .mailbox) .mailbox true ∧
      base.sown.state = .free := by decide
/-- A DX-16 whose check of the shadow is in progress. -/
def checking (f : SownVersion → SownVersion) : State :=
  sowing (fun o => { o with state := .loading, expert := true, busy := true, shadow := f o.shadow }) { base with member := .dx16 }

theorem wit_expertCheckDone : Ready (checking id) .expertCheckDone ∧ (checking id).blk.sown.busy = true := by decide +kernel

/-! ### Attach tiles, host DMA and stealing -/

/-- A mover packet of plot 1 from tile 0: OPCODE, ARG and data. -/
def moverPkt (op arg : Nat) (data : Bytes) (dst : Nat := 3) : Packet :=
  mkPacket snReq 0 false dst 0 1 op 0 false 0 arg (List.replicate 16 0#8 ++ data)

/-- The started block with a packet taken in at a tile. -/
def inboxAt (t : Nat) (p : Packet) (b : Blk := base) : State :=
  at_ (b.modTile t fun x => { x with net := { x.net with inbox := [(p, 0)] } })

theorem wit_hbmRead :
    let p := moverPkt rqHbmRead 0 []
    let s := inboxAt 3 p
    Ready s (.hbmRead 3) ∧ (s.blk.takeInbox 3 (· = rqHbmRead)).isSome = true ∧ s.blk.member.isHbmTile 3 = true ∧
      (s.blk.hbmAddr 3 p).isSome = true ∧ (s.blk.hbmAt 3).freeTag = some 0 ∧
      s.blk.fault.failed.contains (fcHbm, s.blk.hbmRes 3) = false ∧
      ((s.blk.hbmAddr 3 p).map fun a => (s.blk.hbmAt 3).pending 1 a (unitsOf p)) = some false := by decide +kernel
/-- A place outside the plot's ranges; no free tag; a failed quarter. -/
theorem wit_hbm_refused :
    let p := moverPkt rqHbmRead (2 ^ 30) []
    let h : HbmReq := { pkt := p, plot := 1, addr := 0, write := false }
    let full := base.modHbm 3 fun x => { x with reqs := (List.range 256).map fun i => (i, h) }
    let bad : Blk := { base with fault := { base.fault with failed := [(fcHbm, base.hbmRes 3)] } }
    base.hbmAddr 3 p = none ∧ Ready (inboxAt 3 p) (.hbmRead 3) ∧ (full.hbmAt 3).freeTag = none ∧
      Ready (inboxAt 3 p bad) (.hbmRead 3) ∧ bad.fault.failed.contains (fcHbm, bad.hbmRes 3) = true := by decide +kernel
theorem wit_hbmWrite :
    let p := moverPkt rqHbmWrite 0 (List.replicate 64 1#8)
    let s := inboxAt 3 p
    Ready s (.hbmWrite 3) ∧ (s.blk.takeInbox 3 (· = rqHbmWrite)).isSome = true ∧ (s.blk.hbmAddr 3 p).isSome = true := by
  decide +kernel
theorem wit_hbmResponse :
    let h : HbmReq := { pkt := moverPkt rqHbmRead 0 [], plot := 1, addr := 0, write := false }
    let s := at_ (base.modHbm 3 fun x => { x with reqs := [(0, h), (255, { h with write := true })] })
    Ready s (.hbmResponse 3 0 false) ∧ Ready s (.hbmResponse 3 0 true) ∧ Ready s (.hbmRequestUnanswered 3 255) ∧
      (s.blk.hbmAt 3).reqs.get? 0 = some h ∧ Ready s (.hbmResponse 3 255 false) := by decide +kernel
theorem wit_hostTransfer :
    let p := moverPkt rqHostRead 0 [] sysTile
    let q := moverPkt rqHostWrite 0 (List.replicate 64 1#8) sysTile
    let s := inboxAt sysTile p
    let u := inboxAt sysTile q
    let w := at_ { u.blk with host := { u.blk.host with dma := (List.range 256).map fun i => (i, .write q) } }
    winPlace (s.blk.issuedWin p) (pArg p.hdr) 64 = some 0 ∧ winPlace (base.issuedWin p) (2 ^ 30) 64 = none ∧
      Ready w .hostWrite ∧ Ready s .hostRead ∧ (s.blk.takeInbox sysTile (· = rqHostRead)).isSome = true ∧ Ready u .hostWrite ∧
      (u.blk.takeInbox sysTile (· = rqHostWrite)).isSome = true ∧ unitsOf p = 1 ∧
      winPlace (u.blk.issuedWin q) (pArg q.hdr) 64 = some 0 ∧ s.blk.host.freeTag = some 0 := by decide +kernel
theorem wit_dmaCompletion :
    let p := moverPkt rqHostRead 0 [] sysTile
    let s := at_ { base with host := { base.host with dma := [(0, .read p), (7, .write p)] } }
    Ready s (.dmaCompletion 0 (List.replicate 64 0#8) false) ∧ s.blk.host.dma.get? 0 = some (.read p) ∧
      Ready s (.dmaCompletion 7 [] false) ∧ s.blk.host.dma.get? 7 = some (.write p) := by decide +kernel
theorem wit_stream :
    let p := mkPacket snReq 0 false 3 0 1 0x24 0 false 0 0 (toBytes 4 0 ++ toBytes 4 1 ++ toBytes 2 0 ++ toBytes 2 0 ++ toBytes 4 2)
    let d : BitVec 128 := BitVec.ofNat 128 (2 ^ 20 + 2 ^ 12 + 3 * 2 ^ 22 + 2 ^ 64)
    let s := inboxAt 3 p { base with sown := { base.sown with active := { base.sown.active with descs := [(192, d)] } } }
    Ready s (.stream 3) ∧ (s.blk.takeInbox 3 (fun op => 0x24 ≤ op && op ≤ 0x27)).isSome = true ∧
      (s.blk.hbmAt 3).freeStream = some 0 ∧ (s.blk.streamFits 3 1 (sOffset p) (sCells p)).isSome = true ∧
      s.blk.streamAsked 3 p = true ∧ s.blk.member.isHbmTile 3 = true ∧ pOp p.hdr = rqStream := by decide +kernel
/-- A reserved transfer; a STREAM with every entry open; a STREAM with no descriptor. -/
theorem wit_stream_refused :
    let p := fun op => mkPacket snReq 0 false 3 0 1 op 0 false 0 0 (toBytes 4 0 ++ toBytes 4 1 ++ toBytes 2 0 ++ toBytes 2 0 ++ toBytes 4 2)
    let x : HbmStream := base.streamNew (p 0x24) 0
    let full := base.modHbm 3 fun h => { h with streams := (List.range 64).map fun i => (i, x) }
    Ready (inboxAt 3 (p 0x25)) (.stream 3) ∧ pOp (p 0x25).hdr ≠ rqStream ∧ (full.hbmAt 3).freeStream = none ∧
      Ready (inboxAt 3 (p 0x24) full) (.stream 3) ∧ base.streamAsked 3 (p 0x24) = false := by decide +kernel
theorem wit_streamEnd :
    let x : HbmStream := base.streamNew (moverPkt 0x24 0 []) 0
    let x : HbmStream := { x with left := 1, write := false }
    let s := at_ (base.modHbm 3 fun h => { h with streams := [(0, { x with left := 0 }), (1, x)] })
    Ready s (.streamEnd 3 0 false) ∧ Ready s (.streamEnd 3 1 true) ∧ Ready s (.streamEnd 3 1 false) ∧ x.left ≠ 0 ∧
      (s.blk.hbmAt 3).streams.get? 0 = some { x with left := 0 } := by decide +kernel

/-- The started block with stealing on for plot 1, and a ring of tile 1 at tile 0. -/
def stealing : Blk :=
  ((base.modPlot 1 fun x => { x with cfg := { x.cfg with stealEn := true } }).modTile 0 fun x =>
    { x with engCtrl := { x.engCtrl with stealEn := true, ringLen := 1, stealRing := 1#80 } }).modTile 1 fun x =>
      { x with engCtrl := { x.engCtrl with stealEn := true } }

theorem wit_stealRequestSend :
    let s := at_ stealing
    Ready s (.stealRequestSend 0 1) ∧ s.blk.ownerOf 0 = some 1 ∧ s.blk.stealOn 0 1 = true ∧ (s.blk.tile 0).sheaves 1 = [] ∧
      (s.blk.nextVictim 0 1 1 0 0).1 = some (0, 1) ∧ ((s.blk.tile 0).stealUnit 1).inFlight = false ∧
      4 ≤ ((List.range 32).filter fun i => (s.blk.slot 0 i).state = .free).length ∧
      (s.blk.sendReq (.tile 0) .stealUnit snReq 0
        { dst := 1, op := rqSteal, arg := 0, gen := none, ref := .steal 1, plot := 1,
          body := stealBody 1 (hopsFrom s.blk.member 1 64 0) (s.blk.tile 0).freeRoom 256 }).2 = .sent := by decide +kernel
theorem wit_stealRequestReceive :
    let p := mkPacket snReq 0 false 1 0 1 rqSteal 0 false 0 0 (stealBody 1 1 0 256)
    let s := inboxAt 1 p stealing
    Ready s (.stealRequestReceive 1) ∧ (s.blk.takeInbox 1 (· = rqSteal)).isSome = true := by decide +kernel
theorem wit_lendReceive :
    let p := fun n => mkPacket snReply 0 false 0 1 1 (replyOp rqSteal) 0 false 0 0 (toBytes 8 0 ++ toBytes 8 n)
    let s := fun n => at_ (stealing.modTile 0 fun x => x.modSteal 1 fun u => { u with lend := some (p n), inFlight := true })
    Ready (s 0) (.lendReceive 0 1) ∧ ofBytes (((p 0).body.drop 8).take 8) = 0 ∧ Ready (s 1) (.lendReceive 0 1) ∧
      ofBytes (((p 1).body.drop 8).take 8) = 1 ∧ (((s 1).blk.tile 0).stealUnit 1).lend = some (p 1) := by decide +kernel
theorem wit_stolenResultReturn :
    let r : Borrowed := { victim := 1, lendId := 9, engine := 1, cmd := word 0x4A 0 64 0 8 0, plot := 1, asked := 1, outst := 0,
                          got := [], ran := true, result := [1#8, 2#8, 3#8, 4#8], put := 1, failed := false }
    let l : Lent := { lendId := 9, engine := 1, sid := 0, thief := 0 }
    let b := stealing.modTile 0 fun x => { x with es := { x.es with borrowed := [r] } }
    let x := { sheaf r.cmd with state := .lent }
    let s := at_ (b.modTile 1 fun x => { x.setSheaves 1 [{ sheaf r.cmd with state := .lent }] with es :=
      { (x.setSheaves 1 [{ sheaf r.cmd with state := .lent }]).es with lent := [l] } })
    Ready (at_ b) (.stolenResultReturn 0 9) ∧ (b.tile 0).es.borrowed.find? (fun x => x.lendId = 9 && x.done) = some r ∧
      (b.tile 1).es.lent.find? (fun l => l.lendId = 9 && l.thief = 0) = none ∧ Ready s (.stolenResultReturn 0 9) ∧
      (s.blk.tile 1).es.lent.find? (fun l => l.lendId = 9 && l.thief = 0) = some l ∧ (s.blk.tile 1).sheaf? 1 0 = some x ∧
      (s.blk.mergeStolen 1 x r.result).toOption.isSome = true := by decide +kernel
/-- A borrowed reduce.crc whose operand has come. -/
theorem wit_runBorrowed :
    let r : Borrowed := { victim := 1, lendId := 9, engine := 1, cmd := word 0x4A 0 64 0 8 0, plot := 1, asked := 1, outst := 0,
                          got := [(0, List.replicate 8 0#8)], ran := false, result := [], put := 0, failed := false }
    let s := at_ (stealing.modTile 0 fun x => { x with es := { x.es with borrowed := [r] } })
    Ready s (.reduceCrc 0) ∧ s.blk.nextStart 0 1 = none ∧ s.blk.engineOn 0 = true ∧
      engineBusy 1 ((s.blk.tile 0).sheaves 1) = false ∧
      (s.blk.tile 0).es.borrowed.find? (fun x => x.engine = 1 && x.runnable) = some r ∧ kOp r.cmd = 0x4A := by decide +kernel

/-! ### Collectives and kernels -/

/-- A descriptor of plot 1: furrow, direction, MODE, PEER, with 3 CELLS. -/
def furrow3 (furrow land mode peer : Nat) : BitVec 128 :=
  BitVec.ofNat 128 (furrow + 2 ^ 12 + 2 ^ 20 + land * 2 ^ 21 + mode * 2 ^ 22 + 3 * 2 ^ 64 + peer * 2 ^ 80)

/-- The started block with the furrows of a collective of tiles 0 and 1, and a doorbell rung. -/
def collBlk : Blk :=
  let b := base.modPlot 1 fun x => { x with host := { x.host with doorbells := [(false, 0#32)] } }
  { b with sown := { b.sown with active := { b.sown.active with descs :=
      [(0, furrow3 1 1 0 1), (1, furrow3 0 0 1 0), (2, furrow3 2 0 1 1), (3, furrow3 3 1 0 1),
       (64, furrow3 1 0 1 0), (65, furrow3 0 1 0 0), (66, furrow3 2 1 0 0), (67, furrow3 3 0 1 0)] } } }

/-- A collective descriptor: 64 FP32 elements in pieces of 32, SRAM to SRAM, tiles 0 and 1, START 4. -/
def collDesc (opcode : Nat) : Bytes :=
  toBytes 64 (opcode + 2 * 2 ^ 8 + 64 * 2 ^ 64 + 32 * 2 ^ 96 + 4 * 2 ^ 128) ++
    toBytes 32 (2 * 2 ^ 10 + 2 * 2 ^ 12 + 512 * 2 ^ 64 + 4096 * 2 ^ 128 + 8192 * 2 ^ 160) ++
    toBytes 32 (1 + 2 * 2 ^ 10 + 2 * 2 ^ 12 + 512 * 2 ^ 64 + 4096 * 2 ^ 128 + 8192 * 2 ^ 160)

/-- The collective of a descriptor. -/
def collOfDesc (d : Bytes) : Coll :=
  let h : BitVec 512 := BitVec.ofNat 512 (ofBytes (d.take 64))
  collOf h ((List.range (fld h 8 5)).map fun j => partOf (BitVec.ofNat 256 (ofBytes ((d.drop (64 + 32 * j)).take 32)))) 0#48

theorem wit_collDoorbell :
    let s := at_ base
    let u := at_ (base.modPlot 1 fun x => { x with host := { x.host with doorbells := List.replicate 16 (true, 0#32) } })
    Ready s (.collDoorbell 0 0#32) ∧ Ready s (.kernelDoorbell 255 0#32) ∧ s.blk.bound 255 = false ∧
      Ready s (.collDoorbell 1 0xFFFFFFFF#32) ∧ s.blk.bound 1 = true ∧ Ready s (.kernelDoorbell 1 0#32) ∧
      Ready u (.collDoorbell 1 0#32) ∧ 16 ≤ (u.blk.plot 1).host.doorbells.length := by decide +kernel
theorem wit_collAccept :
    let s := at_ collBlk
    let d := collDesc 1
    Ready s (.collAccept 1 d) ∧ (s.blk.takeDoorbell 1 false).isSome = true ∧
      s.blk.collDecideDesc 1 (BitVec.ofNat 512 (ofBytes (d.take 64))) (collOfDesc d) d.length = 0 ∧
      (s.blk.fetched 1 0#32 d).length = d.length := by decide +kernel
theorem wit_collAccept_refused :
    let s := at_ collBlk
    let d := collDesc 2
    Ready s (.collAccept 1 d) ∧
      s.blk.collDecideDesc 1 (BitVec.ofNat 512 (ofBytes (d.take 64))) (collOfDesc d) d.length = 1 := by decide +kernel

/-- A running collective of tiles 0 and 1 of plot 1 that puts its results out at their ports. -/
def runColl : Coll :=
  let c := collOfDesc (collDesc 1)
  { c with parts := c.parts.map fun p => { p with src := srcPort, dst := srcPort } }

/-- Its block, with an output buffer of chunk 0 at participant 0 and a DFP of given FLAGS at tile 0. -/
def collRun (o : OutBuf) (chunk flags : Nat) : State :=
  let b := sieved.modPlot 1 fun x => { x with colls := [{ runColl with pkey := 1#16, outb := [(0, o)] }] }
  at_ (b.modTile 0 fun x => { x with ks := { x.ks with collIn :=
    [(1, { hdr := 0#256, payload := collCell 0#32 chunk 0 0 flags 0 0 0 0#32 })] } })

theorem wit_collAckReceive :
    let go := fun d c => collRun { chunk := 0, decided := d, acked := none } c flAck
    let held := fun (s : State) => (s.blk.takeColl 0 flAck).bind fun x => (x.2.heldChunk 0 x.1).map fun y => y.2.2.decided
    Ready (go true 0) (.collAckReceive 0) ∧ held (go true 0) = some true ∧
      held (go true 1) = none ∧ ((go true 1).blk.takeColl 0 flAck).isSome = true ∧ Ready (go true 1) (.collAckReceive 0) := by
  decide +kernel
theorem wit_collResendReceive :
    let s := collRun { chunk := 0, decided := true, acked := none } 0 flResend
    Ready s (.collResendReceive 0) ∧
      ((s.blk.takeColl 0 flResend).bind fun x => (x.2.heldChunk 0 x.1).bind fun y =>
        (y.1.indices.foldl (fun (a : Chk Blk) i => a >>= fun b =>
          let train := b.readSram (y.1.part y.2.1).tile (y.1.outSlot y.2.1 y.2.2.chunk i)
            (64 + collBytes y.1.finFmt (y.1.real y.2.2.chunk i))
          b.collEmitPiece x.1.1 y.1 (y.1.part y.2.1).tile (y.1.part y.2.1).coord.toNat y.2.2.chunk i y.1.finFmt
            (collHdr train).dcrc (train.drop 64)) (.ok x.2)).toOption).isSome = true := by decide +kernel
theorem wit_collNoAck :
    let s := collRun { chunk := 0, decided := true, acked := none } 0 flAck
    Ready s (.collNoAck 1 0#32 0 0) ∧
      ((s.blk.coll? 1 0#32).map fun c => (c.needsAck 0, (c.outBufOf 0 0).map fun o => (o.decided, o.acked))) =
        some (true, some (true, none)) := by decide +kernel
theorem wit_ctxAbort :
    let s := collRun { chunk := 0, decided := true, acked := none } 0 flAck
    Ready s (.ctxAbort 0 0) ∧ (s.blk.allColls.find? (fun x => x.2.parts.any fun y => y.tile = 0 && y.ctx = 0)).isSome = true ∧
      Ready s (.ctxAbort 0 7) ∧ s.blk.allColls.find? (fun x => x.2.parts.any fun y => y.tile = 0 && y.ctx = 7) = none := by
  decide +kernel

/-- A kernel descriptor at tile 0: DISPATCH (0) or MAP (1) of OPCODE 1, one BF16 element, one weight. -/
def kerWord (kind : Nat) : BitVec 512 :=
  BitVec.ofNat 512 (1 + kind * 2 ^ 9 + 0x1111 * 2 ^ 36 + 2 ^ 60 + 2 ^ 64 + 2 ^ 80 + 2 ^ 104 + 2 ^ 112 + 64 * 2 ^ 160 + 128 * 2 ^ 192)

/-- The started block with a kernel doorbell rung. -/
def kerBlk : Blk := sieved.modPlot 1 fun x => { x with host := { x.host with doorbells := [(true, 0#32)] } }

/-- It with a DISPATCH kernel at tile 0. -/
def kerAt (f : Kernel → Kernel) : Blk :=
  kerBlk.modTile 0 fun x => { x with ks := { x.ks with kernels := [(0, f { kernelOf (kerWord 0) 1 with loaded := true })] } }

theorem wit_kernelBind :
    let s := at_ kerBlk
    let d := fun k => toBytes 64 (kerWord k).toNat
    Ready s (.kernelBind 1 (d 0)) ∧ (s.blk.takeDoorbell 1 true).isSome = true ∧
      (s.blk.fetched 1 0#32 (d 0)).length = 64 ∧ flag (kerWord 0) 8 = false ∧ fld (kerWord 0) 24 10 = 0 ∧
      s.blk.kernelDecide 1 0 (kerWord 0) (kernelOf (kerWord 0) 1) = 0 ∧ (kernelOf (kerWord 0) 1).dispatch = true ∧
      s.blk.kernelDecide 1 0 (kerWord 1) (kernelOf (kerWord 1) 1) = 0 ∧ (kernelOf (kerWord 1) 1).dispatch = false ∧
      Ready s (.kernelBind 1 (d 1)) ∧ s.blk.kernelDecide 1 0 (kerWord 2) (kernelOf (kerWord 2) 1) = 1 := by decide +kernel

/-- An open token of a kernel. -/
def token0 : Token :=
  { src := 0#32, token := 0#32, serial := 0, landed := [], gated := false, gates := [], ranks := [], missing := [],
    outs := [], acc := [] }

theorem wit_kernelUnbind :
    let w := kerWord 0 ||| 256#512
    let d := toBytes 64 w.toNat
    let find := fun (b : Blk) => ((b.tile 0).ks.kernels.find? (fun y => y.2.cls = 0 && y.2.plot = 1)).map fun k => k.2.tokens.length
    flag w 8 = true ∧ fld w 0 8 = 1 ∧ fld w 12 6 = 0 ∧ fld (w + 1) 0 8 ≠ 1 ∧ Ready (at_ kerBlk) (.kernelUnbind 1 d) ∧ find kerBlk = none ∧ Ready (at_ (kerAt id)) (.kernelUnbind 1 d) ∧
      find (kerAt id) = some 0 ∧ find (kerAt fun x => { x with tokens := [(0, token0)] }) = some 1 := by decide +kernel

/-- A token part of KEY 1 for class c with a TAG and n bytes. -/
def part (c tag n : Nat) : Dfp := { hdr := BitVec.ofNat 256 (2 ^ 16 + c * 2 ^ 32 + tag * 2 ^ 192), payload := List.replicate n 0#8 }

/-- The block whose tile 0 has a kernel and a token part. -/
def tokenAt (f : Kernel → Kernel) (d : Dfp) : State :=
  at_ ((kerAt f).modTile 0 fun x => { x with ks := { x.ks with tokenIn := [d] } })

theorem wit_tokenPartArrival :
    let s := tokenAt id (part 0 0 2)
    let x := (s.blk.dispatchAt 0).map fun x => (x.plot, x.cls, x.loaded, x.unbinding, partsOf x.tokBytes, partSize x.tokBytes 0)
    Ready s (.tokenPartArrival 0) ∧ x = some (1, 0, true, false, 1, 2) ∧ s.blk.plotOfKey (part 0 0 2).hdr = 1 ∧
      fClass (part 0 0 2).hdr = 0 ∧ fTag (part 0 7 2).hdr % 8 = 7 ∧ fClass (part 63 0 2).hdr ≠ 0 ∧
      ((s.blk.dispatchAt 0).bind fun x => x.freeSlot) = some 0 ∧
      (((tokenAt (fun x => { x with tokens := [(0, token0)] }) (part 0 8 2)).blk.dispatchAt 0).bind fun x => x.freeSlot) = none ∧
      ((at_ kerBlk).blk.dispatchAt 0) = none := by decide +kernel
/-- A later part of a token, at a kernel that is unbinding; a first part there; no free slot. -/
theorem wit_tokenPartArrival_open :
    let s := fun tag src => tokenAt (fun x => { x with unbinding := true, tokens := [(0, { token0 with src := src })] }) (part 0 tag 2)
    let open_ := fun tag src => ((s tag src).blk.dispatchAt 0).map fun x => (x.unbinding, (x.tokens.find? fun y =>
      y.2.src = BitVec.ofNat 32 (fSrc (part 0 tag 2).hdr) && y.2.token.toNat / 8 = tag / 8 && !y.2.gated).isSome)
    Ready (s 1 0#32) (.tokenPartArrival 0) ∧ open_ 1 0#32 = some (true, true) ∧ open_ 8 0#32 = some (true, false) := by
  decide +kernel
theorem wit_tokenTimeouts :
    let s := fun g => at_ (kerAt fun x => { x with tokens := [(0, { token0 with gated := g })] })
    Ready (s false) (.tokenAsmTimeout 0 0) ∧ Ready (s true) (.tokenRetTimeout 0 0) ∧
      ((s true).blk.dispatchAt 0).map (fun x => x.tokens.get? 0) = some (some { token0 with gated := true }) := by decide +kernel
theorem wit_expertOutputArrival :
    let s := at_ ((kerAt fun x => { x with tokens := [(0, { token0 with gated := true, ranks := [7] })] }).modTile 0 fun x =>
      { x with ks := { x.ks with expertIn := [part 0 (7 * 64) 2] } })
    let tag := fTag (part 0 (7 * 64) 2).hdr
    Ready s (.expertOutputArrival 0) ∧ tag % 64 = 0 ∧ tag / 64 % 8 = 7 ∧ tag / 2 ^ 16 = 0 ∧
      ((s.blk.dispatchAt 0).map fun x => (x.plot, partsOf x.retBytes, partSize x.retBytes 0)) = some (1, 1, 2) := by decide +kernel
theorem wit_khdrReceive :
    let p := mkPacket snReq 0 false 0 1 1 rqKhdr 0 false 0 0 (List.replicate 16 0#8)
    let k : Khdr := { src := 1, plot := 1, tag := 0#32, body := [], refused := false }
    let s := inbox p
    let u := inbox p (base.modKs 0 fun y => { y with khdrs := List.replicate 64 k })
    Ready s (.khdrReceive 0) ∧ (s.blk.takeInbox 0 (· = rqKhdr)).isSome = true ∧ Ready u (.khdrReceive 0) ∧
      64 ≤ ((u.blk.tile 0).ks.khdrs.filter fun k => !k.refused).length := by decide +kernel
theorem wit_kernelTrainLand :
    let x : Train := { src := 1, furrow := 0, plot := 1, data := List.replicate 64 0#8 }
    let k : Khdr := { src := 1, plot := 1, tag := 0#32, body := List.replicate 16 0#8, refused := false }
    let s := at_ (base.modKs 0 fun y => { y with trains := [x], khdrs := [k] })
    let u := at_ (base.modKs 0 fun y => { y with trains := [x] })
    let d : DueTrain := { src := 1, plot := 1, hdr := some 0#256 }
    let v := at_ (base.modKs 0 fun y => { y with trains := [x], due := [d] })
    let w := at_ (base.modKs 0 fun y => { y with trains := [x], khdrs := [{ k with refused := true }] })
    Ready v (.kernelTrainLand 0) ∧ takeFirst (fun (d : DueTrain) => d.src = x.src && d.plot = x.plot) (v.blk.tile 0).ks.due =
        some (d, []) ∧ Ready w (.kernelTrainLand 0) ∧ s.blk.isUpTrain 0 x = false ∧
      Ready s (.kernelTrainLand 0) ∧ takeFirst (fun x => !s.blk.isUpTrain 0 x) (s.blk.tile 0).ks.trains = some (x, []) ∧
      Ready u (.kernelTrainLand 0) ∧ takeFirst (fun (k : Khdr) => k.src = x.src && k.plot = x.plot) (u.blk.tile 0).ks.khdrs =
        none := by decide +kernel

/-! ### Management -/

/-- The entry at an index and subindex of the started block: TYPE, ACCESS, expert, size. -/
def entOf (i j : Nat) : Option (Nat × Nat × Bool × Nat) :=
  (base.entry? i j).toOption.map fun e => (e.type, e.access, e.expert, e.size)

theorem wit_moaRead :
    let s := at_ keyed
    Asked s (.moaRead .slot0 0x2203 1) .slot0 false ∧ entOf 0x2203 1 = some (tyBits, acRW, true, 16) ∧
      s.blk.expert .slot0 = false ∧ entOf 0x2200 9 = some (tyDomain, acWO, false, 0) ∧
      entOf 0x2200 4 = some (1, acWO, false, 1) := by decide +kernel
theorem wit_moaWrite :
    let s := at_ keyed
    Asked s (.moaWrite .slot0 0x2001 1 (toBytes 4 7)) .slot0 false ∧ Asked s (.odRegisterWrite .slot0 0x2001 1 []) .slot0 false ∧
      Asked s (.describe .slot0 0x4010 4) .slot0 false := by decide
theorem wit_entries :
    entOf 0x2001 1 = some (3, acRW, false, 4) ∧ entOf 0x1000 1 = some (1, acConst, false, 1) ∧
      entOf 0x2200 9 = some (tyDomain, acWO, false, 0) ∧ entOf 0x4010 4 = some (tyBits, acRO, true, 8) := by decide +kernel
theorem wit_hello : Served (at_ keyed) (.hello .slot1) ∧ keyed.mgmt.mgmtEn = true := by decide
theorem wit_keySlotWrite :
    let s := at_ base
    let xs : Bytes := List.replicate 32 7#8 ++ [1#8, 1#8]
    Asked s (.keySlotWrite .mailbox true xs) .mailbox true ∧ xs.length = 34 ∧ slotCh true ≠ .mailbox ∧
      (s.blk.replayJournal.store psJournal (1#8 :: xs)).isSome = true := by decide
theorem wit_segWrite :
    let s := at_ base
    Asked s (.segWrite .mailbox 0x1400 2 67108864 0#32) .mailbox false ∧ s.blk.xfer .mailbox = none ∧
      s.blk.transferOn 0x1400 2 = false ∧ (s.blk.sels .mailbox).stage.toNat * 64 + 67108864 ≤ stagingBytes ∧
      s.blk.meetsLibrary 0 67108864 = false ∧ Asked s (.segWrite .mailbox 0x4000 2 4194304 0#32) .mailbox false ∧
      s.blk.fwWritable = true ∧ Asked s (.segWrite .mailbox 0x2202 1 1 0#32) .mailbox false := by decide +kernel
theorem wit_segRead :
    let s := at_ base
    entOf 0x1400 2 = some (tyDomain, acWO, true, 0) ∧ entOf 0x4000 2 = some (tyDomain, acWO, false, 0) ∧
      entOf 0x2202 1 = some (tyDomain, acWO, false, 0) ∧ Asked s (.segRead .mailbox 0x2200 9) .mailbox false := by decide +kernel

/-- The started block with a transfer open on the mailbox. -/
def sending (write : Bool) (total : Nat) (xcrc : BitVec 32) : State :=
  at_ (base.setXfer .mailbox (some
    { index := 0x1400, sub := 2, write := write, total := total, xcrc := xcrc, base := 0, next := 0, data := [] }))

theorem wit_segment :
    let xs : Bytes := List.replicate 4 1#8
    Served (at_ base) (.segment .mailbox 0 xs) ∧ base.xfer .mailbox = none ∧ Served (sending true 4 (crc32c xs)) (.segment .mailbox 0 xs) ∧
      segBytes 4 0 = 4 ∧ crc32c xs ≠ 0#32 ∧ Served (sending true 4 0#32) (.segment .mailbox 0 xs) ∧
      Served (sending true 4 0#32) (.segment .mailbox 1 xs) ∧ segBytes 1025 0 = 1024 ∧
      Served (sending true 1025 0#32) (.segment .mailbox 0 (List.replicate 1024 0#8)) := by decide +kernel
theorem wit_segAck :
    let s := sending false 4 0#32
    Served s (.segAck .mailbox 0) ∧ (s.blk.xfer .mailbox).isSome = true ∧ Served s (.segTimeout .mailbox) ∧
      Asked s (.segAbort .mailbox) .mailbox false := by decide +kernel

/-- An Ethernet frame to the block's UDP port 51200 over IPv4, with no UDP checksum, that carries bytes. -/
def udpFrame (xs : Bytes) : Bytes :=
  List.replicate 12 0#8 ++ [8#8, 0#8] ++ [0x45#8, 0#8, 0#8, 0#8, 0#8, 0#8, 0#8, 0#8, 64#8, 17#8, 0#8, 0#8, 10#8, 0#8, 0#8, 2#8,
    10#8, 0#8, 0#8, 1#8] ++ [0#8, 1#8, 0xC8#8, 0#8] ++ toBE 2 (8 + xs.length) ++ [0#8, 0#8] ++ xs

/-- A READ request of slot 0 with AUTH, BOOT 0 and a SEQ. -/
def readFrame (op seq boot : Nat) : Bytes :=
  toBytes 32 (0x4D4F + 2 ^ 16 + op * 2 ^ 24 + 2 ^ 33 + 2 ^ 40 + 0x1000 * 2 ^ 48 + boot * 2 ^ 64 + seq * 2 ^ 96)

theorem wit_moaFrame_unsigned :
    let s := at_ keyed
    let hello := toBytes 32 (0x4D4F + 2 ^ 16 + 7 * 2 ^ 24)
    let bare := toBytes 32 (0x4D4F + 2 ^ 16 + 1 * 2 ^ 24)
    let body := fun xs => (s.blk.moaFor (udpFrame xs)).map fun x => (x.body, x.sumOk)
    Served s (.moaFrameReceive (udpFrame hello) true) ∧ body hello = some (hello, true) ∧ moaOk hello = true ∧
      mhKind (moaHdr hello) = 0 ∧ mhOp (moaHdr hello) = 7 ∧ s.blk.moaFor [] = none ∧ body [] = some ([], true) ∧
      moaOk [] = false ∧ moaOk bare = true ∧ mhAuth (moaHdr bare) = false ∧ s.blk.fw.worn = false ∧
      ((s.blk.moaFor ((udpFrame hello).set 41 1#8)).map (·.sumOk)) = some false ∧
      Served (at_ { keyed with fw := { keyed.fw with worn := true } }) (.moaFrameReceive (udpFrame bare) true) := by decide +kernel

/-- Every tag has 16 bytes. -/
theorem moaTag_length (k xs : Bytes) : (moaTag k xs).length = 16 := by
  simp only [moaTag, padTo, List.length_take, List.length_append, List.length_replicate]; omega

/-- The header of a frame lies in its first 32 bytes. -/
theorem moaHdr_append (a t : Bytes) (h : a.length = 32) : moaHdr (a ++ t) = moaHdr a := by
  simp [moaHdr, padTo, h, List.take_of_length_le]

/-- A frame whose 16 tag bytes are any reaches the block whole. -/
theorem signed_frame (boot : Nat) (tag : Bytes) (h : tag.length = 16) (hb : boot = 0 ∨ boot = 1) :
    let xs := readFrame 1 5 boot ++ tag
    (keyed.moaFor (udpFrame xs)).map (fun x => (x.body, x.sumOk)) = some (xs, true) := by
  match tag, h with
  | [_, _, _, _, _, _, _, _, _, _, _, _, _, _, _, _], _ => rcases hb with rfl | rfl <;> with_unfolding_all rfl

/-- What the header of such a frame says. -/
theorem signed_header :
    (readFrame 1 5 0).length = 32 ∧ (readFrame 1 5 1).length = 32 ∧ mhAuth (moaHdr (readFrame 1 5 0)) = true ∧
      mhAuth (moaHdr (readFrame 1 5 1)) = true ∧ mhBoot (moaHdr (readFrame 1 5 0)) = 0 ∧ mhBoot (moaHdr (readFrame 1 5 1)) = 1 ∧
      mhSeq (moaHdr (readFrame 1 5 0)) = 5 ∧ mhSeq (moaHdr (readFrame 1 5 1)) = 5 ∧ mhLen (moaHdr (readFrame 1 5 0)) = 0 ∧
      mhLen (moaHdr (readFrame 1 5 1)) = 0 := by decide +kernel

/-- A frame with the right tag of slot 0's key is authenticated; BOOT and SEQ then decide it. -/
theorem wit_moaFrame_signed (boot : Nat) (hb : boot = 0 ∨ boot = 1) :
    let xs := readFrame 1 5 boot ++ moaTag keyed.mgmt.slot0.key (readFrame 1 5 boot)
    (keyed.moaFor (udpFrame xs)).map (fun x => (x.body, x.sumOk)) = some (xs, true) ∧ moaOk xs = true ∧
      mhAuth (moaHdr xs) = true ∧ moaTagOk keyed.mgmt.slot0.key xs = true ∧ mhBoot (moaHdr xs) = boot ∧ mhSeq (moaHdr xs) = 5 := by
  have t := moaTag_length keyed.mgmt.slot0.key (readFrame 1 5 boot)
  have h := signed_frame boot _ t hb
  have e := signed_header
  have f : ∀ a, a = readFrame 1 5 0 ∨ a = readFrame 1 5 1 → (moaTag keyed.mgmt.slot0.key a).length = 16 →
      moaOk (a ++ moaTag keyed.mgmt.slot0.key a) = true := by
    rintro a (rfl | rfl) l
    · simp only [moaOk, moaHdr_append _ _ e.1, List.length_append, e.1, l]; decide +kernel
    · simp only [moaOk, moaHdr_append _ _ e.2.1, List.length_append, e.2.1, l]; decide +kernel
  rcases hb with rfl | rfl
  · refine ⟨h, f _ (.inl rfl) t, ?_⟩
    simp only [moaTagOk, moaHdr_append _ _ e.1]
    simp [e, t, List.take_of_length_le]
  · refine ⟨h, f _ (.inr rfl) t, ?_⟩
    simp only [moaTagOk, moaHdr_append _ _ e.2.1]
    simp [e, t, List.take_of_length_le]
theorem wit_moaFrame_seq :
    let r : SeqRec := { h := 5#32, any := true, taken := [5], replies := [(5, [1#8])] }
    (keyed.seqRec false).fresh_ 5 = true ∧ r.fresh_ 5 = false ∧ r.held 5 ≠ [] ∧
      ({ r with replies := [] } : SeqRec).held 5 = [] := by decide
theorem wit_addressRequests :
    Served (at_ keyed) (.arpRequest 0x0A000001#32) ∧ Served (at_ base) (.arpRequest 1#32) ∧
      Served (at_ keyed) (.neighborSolicitation 1#128) ∧
      Served (at_ { base with mgmt := { base.mgmt with ip6 := 1#128 } }) (.neighborSolicitation 1#128) := by decide

/-! ### Ports: traffic -/

/-- The started block with ports 0 and 1 UP and KEY 1 of plot 1 admitted at both; every coordinate but its own, 0, lies behind port 1. -/
def trafficBlk : Blk :=
  let up : Port → Port := fun x => { x with state := .up, ctrl := { x.ctrl with mode := 1 } }
  let b := ((base.modPort 0 up).modPort 1 up).modEgQueue 1 0 fun q => { q with owner := 1 }
  { b with traf := { b.traf with sieve := [(0, BitVec.ofNat 320 (1 + 2 ^ 16 + 2 ^ 24 + 3 * 2 ^ 64))],
                                 lookup := [(0, BitVec.ofNat 64 (2 ^ 38 + 2 ^ 42 + 2 ^ 56))] } }

/-- A DFP of KEY 1 with one payload byte: VER, TYPE, COLOR, HOPS 2, DST. -/
def dfpHdr1 (ver type color dst : Nat) : BitVec 256 :=
  reDfp (BitVec.ofNat 256 (ver + type * 2 ^ 4 + 2 ^ 16 + color * 2 ^ 38 + 2 * 2 ^ 56 + dst * 2 ^ 64))

/-- The frame that carries a header, bytes and the trailer of an un-enciphered DFP (R31). -/
def dfpFrame (h : BitVec 256) (xs : Bytes) : Bytes :=
  List.replicate 12 0#8 ++ [0x88#8, 0xB5#8] ++ toBytes 32 h.toNat ++ xs ++
    toBytes 16 (crc32c (toBytes 32 h.toNat ++ xs)).toNat

/-- The started block as a DX-16: ports from its last on are no ports of it. -/
def small : State := at_ { base with member := .dx16 }

theorem wit_noPort :
    small.blk.member.ports ≤ 255 ∧ Asked small (.egressQueueWrite .mailbox 255 0#64) .mailbox false ∧
      Asked small (.shaperWrite .mailbox 255 0#64) .mailbox false ∧ Asked small (.poolWrite .mailbox 255 0#64) .mailbox false ∧
      Asked small (.gateWrite .mailbox 255 0#128) .mailbox false ∧ Asked small (.portCtrlWrite .mailbox 255 0#128) .mailbox false ∧
      Asked small (.portPwrWrite .mailbox 255 false) .mailbox false ∧ Ready small (.moduleInsert 255) ∧
      Ready small (.moduleRemove 255) ∧ Ready small (.svcPress 255) ∧ Ready small (.svcStuck 255) := by decide +kernel
theorem wit_egressEnqueue : Ready (at_ base) (.egressEnqueue 255) := by decide

/-- The block with a whole DFP in a queue of port 1. -/
def egressed (q : Nat) (mode : Nat) (whole : Bool := true) : Blk :=
  let d : EgDfp :=
    { hdr := 0#256, inPort := 0, plot := 1, color := 0, queue := q, half := false, pool := 0, src := 0, furrow := 0,
      cells := [[0#8]], due := 1, broken := false, whole := whole, marker := false, enq := 0 }
  (trafficBlk.modPort 1 fun x => { x with ctrl := { x.ctrl with mode := mode } }).modEgQueue 1 q fun x => { x with dfps := [d] }

theorem wit_egressSchedule :
    let s := at_ (egressed 5 1)
    let u := at_ (egressed 37 2)
    Ready s (.egressSchedule 1 false) ∧ (s.blk.port 1).state = .up ∧ (s.blk.port 1).eg.txOf false = none ∧
      s.blk.canSend 1 5 false = true ∧ Ready u (.egressSchedule 1 true) ∧ u.blk.canSend 1 37 true = true ∧
      (s.blk.port 1).ctrl.mode = 1 ∧ (u.blk.port 1).ctrl.mode = 2 ∧
      ((List.range 64).all fun r => !s.blk.canSend 1 r false || r == 5) = true ∧ Ready (at_ base) (.egressSchedule 1 false) ∧
      (base.port 1).state ≠ .up ∧
      (base.port 1).state ≠ .draining := by decide +kernel
theorem wit_txUnderrun :
    let s := at_ ((egressed 5 1 false).txStart 1 5 false)
    Ready s (.txUnderrun 1 false) ∧ ((s.blk.port 1).eg.txOf false).isSome = true ∧ Ready (at_ base) (.txUnderrun 1 true) := by decide +kernel
theorem wit_pfcReceive : Ready (at_ base) (.pfcReceive 255 7 true) ∧ Ready (at_ base) (.pfcReceive 255 4 true) ∧ Ready (at_ base) (.pfcReceive 0 6 false) := by decide
theorem wit_dfpIngress_bad :
    let s := at_ trafficBlk
    let x := s.blk.port 0
    let f := fun v t c n => dfpFrame (dfpHdr1 v t c 0) (List.replicate n 1#8)
    Ready s (.dfpIngress 0 false (f 1 0 0 1) false) ∧ x.ctrl.mode ≠ 0 ∧ x.state = .up ∧ x.decap [] = .foreign ∧
      (match x.decap (f 1 0 0 2) with | .dfp xs => decide (xs.length ≠ 48 + fBytes (dfpHdr1 1 0 0 0)) | _ => false) = true ∧
      (base.port 0).state ≠ .up ∧ x.ctrl.mode ≠ 2 ∧ Ready s (.dfpIngress 0 true [] true) ∧
      Ready (at_ (trafficBlk.modPort 0 fun x => { x with ctrl := { x.ctrl with mode := 0 } })) (.dfpIngress 0 false [] true) := by
  decide +kernel
theorem wit_dfpIngress_header :
    let b := trafficBlk
    let f := fun v t c => dfpFrame (dfpHdr1 v t c 0) [1#8]
    (match (b.port 0).decap (f 2 0 0) with | .dfp xs => decide (xs.length = 49) | _ => false) = true ∧
      fVer (dfpHdr1 2 0 0 0) = 2 ∧ fVer (dfpHdr1 1 6 0 0) = 1 ∧ fHchkOk (dfpHdr1 1 6 0 0) = true ∧ fType (dfpHdr1 1 6 0 0) = 6 ∧
      fColor (dfpHdr1 1 0 3 0) = 3 := by decide +kernel
theorem wit_dfpIngress_here :
    let b := trafficBlk
    let h := dfpHdr1 1 0 0 0
    (b.checkFrame 0 (dfpFrame h [1#8]) true).toOption = some (h, [1#8]) ∧ fType h ≠ 4 ∧ (b.port 0).ctrl.pass = false ∧
      (b.checkAddr 1 h).toOption = some h ∧ fDst h = b.self ∧ (b.meterDfp 0 1 h).2.toOption = some 0 := by decide +kernel
theorem wit_dfpIngress_address :
    let h := dfpHdr1 1 0 0 (255 * 2 ^ 24)
    (trafficBlk.checkFrame 0 (dfpFrame h [1#8]) true).toOption = some (h, [1#8]) ∧
      (trafficBlk.checkAddr 1 h).toOption = none := by decide +kernel
theorem wit_dfpIngress_forward :
    let b := trafficBlk
    let h := dfpHdr1 1 0 0 7
    ((b.checkAddr 1 h).toOption = some h ∧ fDst h ≠ b.self) ∧
      ((b.lookup 1 7).bind fun e => (b.wayOut 0 1 h e).toOption.bind fun w =>
        (w.2.2.2.mapDfp 0 1 h [1#8]).toOption.bind fun y =>
          (y.2.2.forward 0 1 0 (hopHdr y.1) 0 y.2.1 w.1 w.2.1 w.2.2.1).map fun _ => (lkKind e, w.1, w.2.1, w.2.2.1)) =
        some (0, 1, 0, true) := by decide +kernel
theorem wit_msgDfpReceive :
    let p := fun off due => mkPacket snReq 0 false 0 1 1 rqDfp 0 false 0 0 (msgWord off due 5 0 0 ++ List.replicate 128 1#8)
    let a : DfpAsm := { src := 1, msgId := 5, plot := 1, queue := 0, due := 256, got := List.replicate 128 1#8 }
    let s := inbox (p 0 256)
    let u := inbox (p 128 256) (base.modEg 0 fun e => { e with asm := [a] })
    let v := inbox (p 0 256) (base.modEg 0 fun e => { e with asm := List.replicate 16 { a with msgId := 6 } })
    let no := (List.range 1024).find? fun t => !base.member.isPortTile t
    (no.map fun t => decide (Ready (at_ base) (.msgDfpReceive t))) = some true ∧
    Ready s (.msgDfpReceive 0) ∧ s.blk.member.isPortTile 0 = true ∧ (s.blk.takeInbox 0 (· = rqDfp)).isSome = true ∧
      s.blk.roomFor 0 (ofEnvelope 1 0 1 false (List.replicate 128 1#8)) = true ∧ Ready u (.msgDfpReceive 0) ∧
      (v.blk.port 0).eg.asm.any (fun y => y.src = 1 && y.msgId = 5) = false ∧
      (u.blk.port 0).eg.asm.find? (fun y => decide (y.src = 1) && decide (y.msgId = 5)) = some a ∧
      mOffset (p 128 256).body = 128 ∧ Ready v (.msgDfpReceive 0) ∧ 16 ≤ (v.blk.port 0).eg.asm.length := by decide +kernel
theorem wit_sieveWrite :
    let s := at_ base
    let v : BitVec 320 := BitVec.ofNat 320 (0xFFFF + 2 ^ 24)
    Asked s (.sieveWrite .mailbox v) .mailbox false ∧ s.blk.bound (svPlot (v &&& sieveMask)) = true ∧
      svValid (v &&& sieveMask) = true ∧ svKey (v &&& sieveMask) = 0xFFFF ∧ svPlot (v &&& sieveMask) = 0 := by decide +kernel
theorem wit_lookupWrite :
    let s := at_ base
    let v : BitVec 64 := BitVec.ofNat 64 (32 * 2 ^ 32 + 2 ^ 38 + 2 ^ 56)
    Asked s (.lookupWrite .mailbox v) .mailbox false ∧ lkPlen (v &&& lookupMask) = 32 ∧
      lkPrefix (v &&& lookupMask) % 2 ^ (32 - lkPlen (v &&& lookupMask)) = 0 ∧
      s.blk.bound (lkPlot (v &&& lookupMask)) = true := by decide +kernel
theorem wit_unboundPlot :
    let s := at_ base
    let v : BitVec 320 := BitVec.ofNat 320 (1 + 255 * 2 ^ 16 + 2 ^ 24)
    let w : BitVec 64 := BitVec.ofNat 64 (2 ^ 38 + 255 * 2 ^ 56)
    Asked s (.sieveWrite .mailbox v) .mailbox false ∧ s.blk.bound (svPlot (v &&& sieveMask)) = false ∧
      Asked s (.lookupWrite .mailbox w) .mailbox false ∧
      s.blk.bound (lkPlot (w &&& lookupMask)) = false := by decide +kernel
theorem wit_portTables :
    let s := at_ base
    Asked s (.meterWrite .mailbox 0#256) .mailbox true ∧ mtCir (meterWord 0#256) ≤ mtPir (meterWord 0#256) ∧
      Asked s (.egressQueueWrite .mailbox 255 (BitVec.ofNat 64 (8192 * 2 ^ 24))) .mailbox true ∧
      quorumQueue (s.blk.port 255).ctrl.mode ((s.blk.sels .mailbox).portQueue.getD 255 0) = false ∧
      Asked s (.shaperWrite .mailbox 0 0#64) .mailbox true ∧
      Asked s (.gateWrite .mailbox 0 (BitVec.ofNat 128 (2 ^ 16))) .mailbox true ∧
      Asked s (.gateWrite .mailbox 0 0#128) .mailbox true ∧ 0 < s.blk.member.ports ∧
      Asked s (.meterWrite .mailbox (BitVec.ofNat 256 (2 ^ 32))) .mailbox true ∧
      mtPir (meterWord (BitVec.ofNat 256 (2 ^ 32))) < mtCir (meterWord (BitVec.ofNat 256 (2 ^ 32))) ∧ s.blk.meterIds = [] := by
  decide +kernel
/-- A queue that R293 fixes; a meter that meets another. -/
theorem wit_portTables_refused :
    let b := base.modPort 0 fun x => { x with ctrl := { x.ctrl with mode := 1 } }
    let b := b.modSels .mailbox fun x => { x with portQueue := [(0, 63)] }
    let v := BitVec.ofNat 64 (2 ^ 15)
    quorumQueue (b.port 0).ctrl.mode 63 = true ∧ flag v 15 = true ∧ Asked (at_ b) (.egressQueueWrite .mailbox 0 v) .mailbox true ∧
      Asked (at_ b) (.egressQueueWrite .mailbox 1 (BitVec.ofNat 64 (8193 * 2 ^ 24))) .mailbox true := by decide +kernel
theorem wit_poolWrite :
    let s := at_ base
    let v := 7104
    Asked s (.poolWrite .mailbox 255 (BitVec.ofNat 64 v)) .mailbox true ∧ (s.blk.port 255).idle = true ∧
      v + 0 + 0 + 1024 ≤ 8128 ∧ Asked s (.poolWrite .mailbox 255 (BitVec.ofNat 64 (v + 1))) .mailbox true ∧
      Asked (porting (inState .up)) (.poolWrite .mailbox 0 0#64) .mailbox true ∧
      ((porting (inState .up)).blk.port 0).idle = false := by decide +kernel

/-! ### Ports: states and optics -/

/-- The started block with a change of port 0's optics. -/
def optical (f : OptPort → OptPort) : State := at_ (base.modOptPort 0 f)

theorem wit_portUp :
    let s := porting fun x => { x with pwr := .fallow }
    let u := porting (inState .safe)
    let v := at_ ((base.modPort 0 (inState .down)).modOptPort 0 fun o => { o with lockedCh := 15#5 })
    Served s (.portUp 0) ∧ (s.blk.port 0).pwr = .fallow ∧ Served u (.portUp 0) ∧ (u.blk.port 0).pwr = .on ∧
      (u.blk.port 0).cage.link = true ∧ (u.blk.port 0).state = .safe ∧ (v.blk.port 0).state = .down ∧
      v.blk.bondFormed 0 = true ∧ 4 ≤ (v.blk.optPort 0).lockedCount ∧ (u.blk.unfallow 0).canUp 0 = true ∧
      (s.blk.unfallow 0).canUp 0 = false ∧ u.blk.noted (.portFallow 0) = false ∧ u.blk.portFalling 0 = false ∧
      (u.blk.port 0).ctrl.bond = 0 ∧ Served (at_ base) (.portUp 0) ∧
      ((porting (inState .draining)).blk.unfallow 0).canUp 0 = false := by decide +kernel
theorem wit_portDrain :
    let s := porting (inState .up)
    let u := porting (inState .draining)
    Served s (.portDrain 0) ∧ Served s (.portDown 0) ∧ (s.blk.port 0).state = .up ∧ (u.blk.port 0).state = .draining ∧
      Served u (.portDrain 0) ∧ Served u (.portDown 0) ∧ Served (porting fun x => { x with state := .absent }) (.portDown 0) ∧
      Ready s (.drainLimitExpiry 0) ∧ (u.blk.port 0).eg.held = [] ∧ (u.blk.port 0).eg.rx = [] ∧ Ready u (.drainLimitExpiry 0) ∧ Ready u (.drainComplete 0) := by
  decide +kernel
theorem wit_drainComplete :
    let s := at_ { (porting (inState .draining)).blk with clk := { base.clk with frame := 2#48 } }
    Ready (porting (inState .up)) (.drainComplete 0) ∧ (porting (inState .up)).blk.drained 0 = false ∧ s.blk.drained 0 = true ∧
      Ready s (.drainComplete 0) ∧ 2 ≤ (s.blk.clk.frame - (s.blk.port 0).cage.lastCell).toNat := by decide +kernel
theorem wit_moduleInsert :
    Ready (porting fun x => { x with state := .absent }) (.moduleInsert 0) ∧ Ready (porting (inState .up)) (.moduleInsert 0) ∧
      Ready (porting fun x => { x with state := .absent }) (.moduleRemove 0) ∧ Ready (porting (inState .up)) (.moduleRemove 0) ∧ Ready (porting (inState .safe)) (.moduleRemove 0) ∧
      Ready (porting (inState .up)) (.portLinkDown 0) ∧ Ready (at_ base) (.portLinkUp 255) ∧
      ((porting (inState .up)).blk.port 0).cage.link = true := by decide +kernel
theorem wit_portLinkDown :
    let s := porting (inState .up)
    ((((s.blk.modPort 0 fun x => { x with cage := { x.cage with link := false } }).abortBoth 0).port 0).state = .up) ∧
      ((((at_ (base.modPort 0 (inState .safe))).blk.modPort 0 fun x =>
        { x with cage := { x.cage with link := false } }).abortBoth 0).port 0).state = .safe := by decide +kernel
theorem wit_svcPress :
    let s := porting (inState .up)
    let u := porting (inState .safe)
    Ready s (.svcPress 0) ∧ (s.blk.port 0).pwr ≠ .fallow ∧ (s.blk.port 0).cage.btnIgnore = false ∧
      u.blk.canUp 0 = true ∧ (u.blk.port 0).cage.present = true ∧ (u.blk.port 0).cage.stuckSent = false ∧
      s.blk.noted (.portCmd 0) = false ∧ (s.blk.note (.portCmd 0)).noted (.portCmd 0) = true ∧
      Ready (porting fun x => { inState .up x with pwr := .fallow }) (.svcPress 0) ∧
      Ready (porting fun x => { x with cage := { x.cage with stuckSent := true } }) (.svcStuck 0) ∧ Ready u (.svcStuck 0) ∧ Ready u (.frontPanelScan 3#512) := by decide +kernel
theorem wit_portCtrlWrite :
    let s := porting (inState .safe)
    let u := at_ { (porting (inState .up)).blk with mgmt := keyed.mgmt }
    let v := (s.blk.port 0).ctrlWord
    let n := PortCtrl.of v
    Asked s (.portCtrlWrite .mailbox 0 v) .mailbox false ∧ n.mode < 3 ∧ n.bond < 3 ∧ n.encap = false ∧
      s.blk.expert .mailbox = true ∧ (s.blk.port 0).idle = true ∧
      (PortCtrl.of (v ||| 3#128)).mode = 3 ∧ ((s.blk.port 0).ctrl.expertMoves (PortCtrl.of (v ||| 3#128))) = false ∧
      Asked u (.portCtrlWrite .slot0 0 (v ||| 0x10000#128)) .slot0 false ∧ u.blk.expert .slot0 = false ∧
      (u.blk.port 0).ctrl.expertMoves (PortCtrl.of (v ||| 0x10000#128)) = true ∧
      (u.blk.port 0).ctrl.expertMoves (PortCtrl.of (v ||| 4#128)) = false ∧
      (u.blk.port 0).ctrl.moves (PortCtrl.of (v ||| 4#128)) = true := by decide +kernel
theorem wit_combLost :
    Ready (at_ base) (.combLost 63) ∧ base.optics.combs.getD 63 true = true ∧
      Ready (at_ { base with optics := { base.optics with combs := [(63, false)] } }) (.combLost 63) ∧ Ready (at_ base) (.combLocked 63) ∧
      Ready (at_ base) (.adcReading 2559 0xFFFF#16) := by decide +kernel
theorem wit_loopConfigWrite :
    let s := at_ base
    let u := optical fun o => { o with stage := .fine }
    Asked s (.loopConfigWrite .mailbox 0#128) .mailbox true ∧ lpMin 0#128 ≤ lpMax 0#128 ∧ (s.blk.optPort 0).calRuns = false ∧
      (s.blk.sels .mailbox).loop = 0 ∧
      Asked s (.loopConfigWrite .mailbox (BitVec.ofNat 128 (2 ^ 96))) .mailbox true ∧
      lpMax (BitVec.ofNat 128 (2 ^ 96)) < lpMin (BitVec.ofNat 128 (2 ^ 96)) ∧ Asked u (.loopConfigWrite .mailbox 0#128) .mailbox true ∧
      (u.blk.optPort 0).calRuns = true ∧ (u.blk.optPort 0).calCh = 0 := by decide +kernel
theorem wit_calGo :
    let s := at_ base
    let u := optical fun o => { o with stage := .fine }
    let go := BitVec.ofNat 64 (2 ^ 19 + 4 * 2 ^ 16)
    Asked s (.calGo .mailbox go) .mailbox true ∧ fld go 16 3 = 4 ∧ flag go 19 = true ∧
      (s.blk.optPort (s.blk.sels .mailbox).optPort).stage = .idle ∧ Asked u (.calGo .mailbox go) .mailbox true ∧
      (u.blk.optPort (u.blk.sels .mailbox).optPort).stage ≠ .idle ∧ flag 0#64 19 = false ∧ fld 0#64 16 3 = 0 ∧
      Asked (at_ keyed) (.calGo .slot0 0#64) .slot0 false ∧ Asked (at_ keyed) (.calGo .slot0 go) .slot0 false ∧
      keyed.expert .slot0 = false ∧ Asked s (.calGo .mailbox (BitVec.ofNat 64 (5 * 2 ^ 16))) .mailbox false := by decide +kernel
theorem wit_calDue :
    let s := at_ ((base.modPort 0 (inState .up)).modOptPort 0 fun o => { o with calAuto := true })
    Ready s (.calDue 0) ∧ (s.blk.optPort 0).calAuto = true ∧ (s.blk.optPort 0).stage = .idle ∧
      (s.blk.optPort 0).asked = false ∧ (s.blk.port 0).cage.present = true ∧
      Ready (optical fun o => { o with asked := true }) (.calDue 0) := by decide +kernel
theorem wit_calStageEnd :
    let s := optical fun o => { o with stage := .move, frames := 1 }
    let u := optical fun o => { o with stage := .verify, lockedCh := 1#5 }
    let v := optical fun o => { o with stage := .verify, lockedCh := 15#5, acquiring := true }
    Ready s (.calStageEnd 0) ∧ (s.blk.optPort 0).stage = .move ∧ 0 < (s.blk.optPort 0).frames ∧
      (u.blk.optPort 0).stage = .verify ∧ (u.blk.optPort 0).acquiring = false ∧
      flag (u.blk.optPort 0).lockedCh (u.blk.optPort 0).calCh = true ∧ (v.blk.optPort 0).acquiring = true ∧
      4 ≤ (v.blk.optPort 0).lockedCount ∧ ((optical fun o => { o with stage := .sweep }).blk.optPort 0).stage = .sweep ∧
      (let w := fun f => optical fun o => f { o with stage := .verify, acquiring := true }
       Ready (w id) (.calStageEnd 0) ∧ ((w id).blk.optPort 0).lockedCount < 4 ∧
         Ready (w fun o => { o with resume := true }) (.calStageEnd 0) ∧ Ready (w fun o => { o with acqFails := 1 }) (.calStageEnd 0)) ∧
      Ready (at_ base) (.calStageEnd 0) ∧ Ready (optical fun o => { o with stage := .fine }) (.calStageEnd 0) := by
  decide +kernel

/-! ### Power, the trip, wear -/

/-- The started block with other states of its clusters. -/
def clustered (x : Tbl ClusterState) : State := at_ { base with power := { base.power with clusters := x }, plots := [] }

/-- The block with one transition of die 0 queued, in its last stage. -/
def moving (running : Bool) (ended : Nat) : State :=
  at_ { base with power := { base.power with queues := [(0, [{
    unit := .cluster 1 .active, ended := ended, stages := 4, running := running, readyAt := 0, waited := 0, step := 15 }])] } }

theorem wit_cluster :
    let s := clustered [(0, .active)]
    let u := clustered []
    Asked s (.clusterActive .mailbox) .mailbox true ∧ (s.blk.sels .mailbox).cluster = 0 ∧
      s.blk.clusterRefused 0 .active = true ∧ s.blk.clusterRefused 0 .fallow = false ∧ s.blk.clusterRefused 0 .deep = true ∧
      u.blk.clusterRefused 0 .active = false ∧ u.blk.clusterRefused 0 .deep = false ∧
      ((List.range 4).all fun t => (u.blk.ownerOf t).isNone) = true ∧
      (at_ base).blk.clusterRefused 0 .deep = true ∧ Asked s (.clusterFallow .mailbox) .mailbox true ∧
      Asked s (.clusterDeep .mailbox) .mailbox true ∧ s.blk.mcLog = [] ∧
      (s.blk.modTile 0 fun x => x.modCtx 0 fun k => { k with state := .dispatch }).clusterRefused 0 .fallow = true := by decide +kernel
theorem wit_portPwrWrite :
    let s := at_ (base.modPort 255 fun x => { x with pwr := .fallow })
    Asked s (.portPwrWrite .mailbox 0 true) .mailbox false ∧ s.blk.portMoving 0 = false ∧ (s.blk.port 0).idle = true ∧
      (s.blk.port 0).pwr = .on ∧ Asked s (.portPwrWrite .mailbox 255 false) .mailbox false ∧ s.blk.portMoving 255 = false ∧
      (s.blk.port 255).pwr = .fallow ∧ ((porting (inState .up)).blk.port 0).idle = false ∧
      Asked (porting (inState .up)) (.portPwrWrite .mailbox 0 true) .mailbox false ∧
      Asked s (.portPwrWrite .mailbox 0 false) .mailbox false ∧ Asked s (.portPwrWrite .mailbox 255 true) .mailbox false ∧
      (s.blk.port 255).idle = true := by decide +kernel
theorem wit_fallowAll :
    let s := clustered [(0, .active)]
    let f := fun (b : Blk) => (b.member.clusters.filter fun c => b.cluster c = .active && !b.clusterMoving c).all fun c => b.mayFallow c
    Asked s (.fallowAll .mailbox) .mailbox false ∧ f s.blk = true ∧ Asked s (.wakeAll .mailbox) .mailbox false ∧
      f (s.blk.modTile 0 fun x => x.modCtx 0 fun k => { k with state := .dispatch }) = false := by decide +kernel
theorem wit_powerStageStart :
    let s := moving false 3
    Ready s (.powerStageStart 0 0) ∧ readyAtIndex (s.blk.power.queues.getD 0 []) 0 = true ∧
      ((s.blk.recent 0).map (·.2)).sum + 15 ≤ s.blk.slew 0 ∧ (s.blk.power.queues.getD 0 [])[0]?.isSome = true ∧
      Ready (moving true 3) (.powerStageStart 0 0) ∧ readyAtIndex ((moving true 3).blk.power.queues.getD 0 []) 0 = false ∧
      Ready (at_ base) (.powerStageStart 0 0) ∧ (base.power.queues.getD 0 [])[0]? = none := by
  decide +kernel
theorem wit_powerStageEnd :
    ((moving true 2).blk.power.queues.getD 0 [])[0]?.map (fun t => (t.running, t.ended + 1, t.stages)) = some (true, 3, 4) ∧
      ((moving true 3).blk.power.queues.getD 0 [])[0]?.map (fun t => (t.running, t.ended + 1, t.stages)) = some (true, 4, 4) ∧
      Ready (moving true 3) (.powerStageEnd 0 0) ∧ Ready (moving true 2) (.powerStageEnd 0 0) ∧
      Ready (moving false 2) (.powerStageEnd 0 0) ∧ Ready (at_ base) (.powerStageEnd 0 0) := by decide +kernel
theorem wit_pwrCtrlWrite :
    let s := at_ base
    Asked s (.pwrCtrlWrite .mailbox 0#64) .mailbox true ∧
      (s.blk.store psPwr (toBytes 8 (s.blk.power.ofCtrl 0).ctrl)).isSome = true := by decide +kernel
theorem wit_thermalTrip :
    let s := at_ base
    Named s .thermalTrip ∧ s.trip.tripped = false ∧ s.blk.fw.stage ≠ .held ∧ Named (staged .held) .thermalTrip ∧
      Named { s with trip := { tripped := true, latch := true } } .thermalTrip := by decide +kernel

/-- The started block with the header of an alternate image at an HBM address of die 0. -/
def alternate : Blk := base.writeHbm 0 0 (toBytes 32 (0x534F574E + 2 ^ 60 * Member.dx1024.code + 2 ^ 62 + 7 * 2 ^ 64))

theorem wit_wearWrite :
    Asked (at_ base) (.wearWrite .mailbox (BitVec.ofNat 64 (2 ^ 32))) .mailbox false ∧
      flag (BitVec.ofNat 64 (2 ^ 32)) 32 = true ∧ flag 0#64 32 = false ∧ base.noted (.set (.wearWarn 0)) = false ∧
      (base.note (.set (.wearWarn 0))).noted (.set (.wearWarn 0)) = true := by decide +kernel
theorem wit_libraryWrite :
    let v := BitVec.ofNat 64 (2 ^ 35 + 3 * 2 ^ 32)
    Asked (at_ alternate) (.libraryWrite .mailbox v) .mailbox true ∧ lKind v = 3 ∧ lValid v = true ∧
      alternate.alternateOk (lImage v) = true ∧ (at_ base).blk.alternateOk (lImage v) = false ∧ Asked (at_ base) (.libraryWrite .mailbox v) .mailbox true ∧
      lValid 0#64 = false := by decide +kernel
theorem wit_linkRetry :
    let s := at_ base
    Ready s (.railFault 63) ∧ Ready s (.linkRetry true 255) ∧ (s.blk.retryTile true 255).isSome = true ∧
      Ready s (.linkRetrain false 0 true) ∧ (s.blk.retryTile false 0).isSome = true ∧ Ready s (.linkRetry false 37) ∧
      Ready s (.linkRetrain false 37 false) ∧ Ready s (.linkRetrain false 37 true) ∧ s.blk.retryTile false 37 = none := by
  decide +kernel

/-! ### Plots -/

/-- The started block with the mailbox's PLOT_SEL at 2, and a plot 2 that is FREE and may be bound to tiles 64 to 67. -/
def plotted (f : Plot → Plot := id) (b : Blk := base) : State :=
  let x := { Plot.fresh with cfg := { Plot.fresh.cfg with tiles := 0xF0000000000000000#1024, tilesNext := 0xF0000000000000000#1024, queueQuota := 16 } }
  at_ ((b.modPlot 2 fun _ => f x).modSels .mailbox fun y => { y with plot := 2 })

theorem wit_plotBind :
    let s := plotted
    let u := plotted fun x => { x with state := .bound }
    (s.blk.sels .mailbox).plot = 2 ∧ Asked s (.plotBind .mailbox) .mailbox false ∧ s.blk.bindCheck 2 (s.blk.plot 2).cfg.tiles .free = 0 ∧
      u.blk.bindCheck 2 (u.blk.plot 2).cfg.tiles .free = 1 ∧ Asked u (.plotBind .mailbox) .mailbox false ∧
      (base.sels .mailbox).plot = 0 ∧ Asked (at_ base) (.plotBind .mailbox) .mailbox false ∧
      Asked (at_ base) (.plotRebind .mailbox) .mailbox false ∧ Asked (at_ base) (.plotTeardown .mailbox) .mailbox false := by
  decide +kernel
theorem wit_plotRebind :
    let s := plotted
    let u := plotted fun x => { x with state := .bound, owned := 0x30000000000000000#1024 }
    Asked u (.plotRebind .mailbox) .mailbox false ∧ u.blk.bindCheck 2 (u.blk.plot 2).cfg.tilesNext .bound = 0 ∧
      Asked s (.plotRebind .mailbox) .mailbox false ∧ Asked s (.plotTeardown .mailbox) .mailbox false ∧
      s.blk.bindCheck 2 (s.blk.plot 2).cfg.tilesNext .bound = 1 ∧ Asked u (.plotTeardown .mailbox) .mailbox false ∧
      (s.blk.plot 2).state ≠ .bound ∧ (u.blk.plot 2).state = .bound := by decide +kernel
theorem wit_plotDone :
    let b := plotted fun x => { x with state := .binding, owned := 0xF0000000000000000#1024 }
    let r := plotted fun x => { x with state := .rebinding, owned := 0xF0000000000000000#1024 }
    let t := plotted fun x => { x with state := .teardown, owned := 0xF0000000000000000#1024 }
    let c := plotted fun x => { x with state := .scrubbing, scrubs := [(3, 8191, 1)] }
    Ready b (.plotBindDone 2) ∧ (b.blk.plot 2).state = .binding ∧ Ready r (.plotRebindDone 2) ∧
      (r.blk.plot 2).state = .rebinding ∧ Ready t (.teardownTilesReleased 2) ∧ (t.blk.plot 2).state = .teardown ∧
      Ready c (.hbmScrubDone 2 0) ∧ (c.blk.plot 2).scrubs[0]? = some (3, 8191, 1) ∧
      t.blk.plotOpen 2 = false ∧ c.blk.cutOpen 2 3 = false ∧ Ready plotted (.plotBindDone 2) ∧ Ready plotted (.plotRebindDone 2) ∧
      Ready plotted (.teardownTilesReleased 2) ∧ Ready plotted (.hbmScrubDone 2 0) ∧ (plotted.blk.plot 2).scrubs[0]? = none := by
  decide +kernel
/-- A transfer of plot 2 is open at an attach tile. -/
theorem wit_plotDone_open :
    let r : HbmReq := { pkt := mkPacket snReq 0 false 3 0 2 rqHbmRead 0 false 0 0 [], plot := 2, addr := 0, write := false }
    let x := fun f => plotted (fun p => { p with state := f, owned := 0xF0000000000000000#1024, scrubs := [(base.member.dieOf 3, 0, 1)],
                                                 hbmCut := some base.clk.mc })
      (base.modHbm 3 fun h => { h with reqs := [(0, r)] })
    Ready (x .teardown) (.teardownTilesReleased 2) ∧ (x .teardown).blk.plotOpen 2 = true ∧ Ready (x .bound) (.hbmScrubDone 2 0) ∧
      (x .bound).blk.cutOpen 2 (base.member.dieOf 3) = true := by decide +kernel
theorem wit_plotConfigWrite :
    let s := plotted
    let c := fun n xs => (Instr.plotConfigWrite .mailbox n xs)
    Asked s (c 0x03 (List.replicate 128 0#8)) .mailbox false ∧ Asked s (c 0x04 [1#8]) .mailbox false ∧
      Asked s (c 0x06 [0#8]) .mailbox false ∧ Asked s (c 0x09 (List.replicate 48 0#8)) .mailbox false ∧
      Asked s (c 0x0B (List.replicate 128 0#8)) .mailbox false ∧ Asked s (c 0x10 [0#8, 0#8, 0#8, 0#8]) .mailbox true ∧
      Asked s (c 0x11 [0#8, 0#8, 2#8, 0#8]) .mailbox true ∧ ofBytes [0#8, 0#8, 2#8, 0#8] = 131072 ∧
      (s.blk.plot (s.blk.sels .mailbox).plot).state = .free := by decide +kernel
theorem wit_plotConfigWrite_refused :
    let s := plotted
    let c := fun n xs => (Instr.plotConfigWrite .mailbox n xs)
    Asked s (c 0x03 []) .mailbox false ∧
      Asked s (c 0x11 [1#8, 0#8, 2#8, 0#8]) .mailbox true ∧ 131072 < ofBytes [1#8, 0#8, 2#8, 0#8] ∧ Asked s (c 0x04 [2#8]) .mailbox false ∧
      Asked s (c 0xFF []) .mailbox false ∧
      Asked (plotted fun x => { x with state := .bound }) (c 0x03 (List.replicate 128 0#8)) .mailbox false := by decide +kernel
theorem wit_queueQuotaWrite :
    let s := plotted
    let u := plotted fun x => { x with state := .bound, owned := 0x10000000000000000#1024 }
    let v := at_ (u.blk.modQueue 64 0 fun _ => { Queue.fresh with bound := true, base := 4, size := 4 })
    Asked s (.queueQuotaWrite .mailbox 16384#16) .mailbox false ∧ (16384#16).toNat ≤ 16 * s.blk.member.tileCount ∧
      Asked s (.queueQuotaWrite .mailbox 16385#16) .mailbox false ∧ 16 * s.blk.member.tileCount < (16385#16).toNat ∧ s.blk.bound 2 = false ∧
      u.blk.bound 2 = true ∧ u.blk.boundQueues 2 ≤ 0 ∧ 0 < v.blk.boundQueues 2 ∧
      Asked v (.queueQuotaWrite .mailbox 0#16) .mailbox false ∧ v.blk.bound 2 = true := by decide +kernel
theorem wit_hbmRangeWrite :
    let s := plotted
    let u := plotted fun x => { x with state := .bound }
    let v := plotted fun x => { x with state := .scrubbing }
    Asked s (.hbmRangeWrite .mailbox 0#128) .mailbox false ∧ Asked u (.hbmRangeWrite .mailbox 0#128) .mailbox false ∧
      ((List.range 4).all fun d => rangeOf (0#128 &&& hbmMask) d = (u.blk.plot 2).cfg.range d) = true ∧
      Asked v (.hbmRangeWrite .mailbox 0#128) .mailbox false ∧ Asked (at_ base) (.hbmRangeWrite .mailbox 0#128) .mailbox false ∧
      (v.blk.plot 2).state = .scrubbing ∧ (u.blk.plot 2).state = .bound := by decide +kernel
/-- A range that shrinks, one that grows, and one that does neither. -/
theorem wit_rangeChange :
    let b := plotted.blk
    runIn 100 8 102 2 = true ∧ runIn 102 2 100 8 = false ∧ b.hbmOk 2 0 100 8 = true ∧ runIn 100 8 101 8 = false ∧
      runIn 101 8 100 8 = false ∧
      (b.plot 2).scrubs = [] := by decide +kernel
theorem wit_graft :
    let s := plotted fun x => { x with state := .bound }
    Asked s (.graftMapWrite .mailbox 0xFFFF#16) .mailbox true ∧ s.blk.bound 2 = true ∧ Ready s (.graftHoldEnd 255) ∧
      Asked plotted (.graftMapWrite .mailbox 0#16) .mailbox true ∧ plotted.blk.bound 2 = false := by
  decide +kernel

/-! ### Observation and the quorum -/

/-- The started block with a change of its quorum group; members 0 and 1 are VALID. -/
def grouped (f : Quorum → Quorum := id) : State :=
  let v : BitVec 64 := BitVec.ofNat 64 (2 ^ 40)
  at_ { base with quorum := f { base.quorum with en := true, members := [(0, v), (1, v)] } }

/-- A quorum message of member 1. -/
def qMsg (kind round : Nat) (group : BitVec 32) (pass : Nat := 1) : QMsg :=
  { kind := kind, sender := 1, pass := pass, round := BitVec.ofNat 32 round, set := 2#32, group := group }

/-- A round in a phase. -/
def roundIn (phase : Nat) : Round := { number := 1#32, v := 0#32, views := [], commit1 := [], commit2 := [], f := 0#32, phase := phase }

theorem wit_counterWrite :
    let s := at_ base
    let u := at_ (base.modSels .mailbox fun x => { x with evsel := 0x3FF })
    let v := at_ { base with power := { base.power with testing := [0] } }
    Asked s (.counterWrite .mailbox 0xFFFFFFFF#32) .mailbox false ∧
      s.blk.clusterTested (clusterOf (s.blk.sels .mailbox).tile) = false ∧
      hasFixed (u.blk.sels .mailbox).evsel = false ∧ Asked u (.counterWrite .mailbox 0#32) .mailbox false ∧
      v.blk.clusterTested (clusterOf (v.blk.sels .mailbox).tile) = true ∧ Asked v (.counterWrite .mailbox 0#32) .mailbox false := by
  decide +kernel
theorem wit_counterWrite_fixed :
    let s := at_ (base.modSels .mailbox fun x => { x with evsel := 0x04 })
    Asked s (.counterWrite .mailbox 0#32) .mailbox false ∧ hasFixed (s.blk.sels .mailbox).evsel = true := by decide +kernel
theorem wit_pmcCfgWrite : Ready (at_ base) (.pmcCfgWrite 0 7 0xFFFFFFFF#64) ∧ base.member.hasTile 0 = true ∧
    Up small (.pmcCfgWrite 1023 7 0#64) ∧ small.blk.member.hasTile 1023 = false := by decide +kernel
theorem wit_rake :
    let s := at_ base
    let u := at_ { base with obs := { base.obs with rakeK := 10, rake := some (0, [(0, [1#8])]) } }
    Asked s (.rakeKWrite .mailbox 24#8) .mailbox false ∧ Asked s (.rakeKWrite .mailbox 9#8) .mailbox false ∧ Ready s .rakeWriteOut ∧
      Asked s (.rakeBaseWrite .mailbox 1#64) .mailbox false ∧ fld 1#64 0 12 ≠ 0 ∧
      Asked s (.rakeBaseWrite .mailbox 0x1000#64) .mailbox false ∧ fld 0x1000#64 0 12 = 0 ∧ s.blk.obs.rakeK = 0 ∧
      Asked u (.rakeBaseWrite .mailbox 0x1000#64) .mailbox false ∧ u.blk.obs.rakeK ≠ 0 ∧ Ready u .rakeWriteOut := by
  decide +kernel
theorem wit_observe :
    let s := at_ base
    Asked s (.histogramClear .mailbox) .mailbox false ∧ Asked s (.hangThaw .mailbox 1#8) .mailbox true ∧ flag 1#8 0 = true ∧
      Asked s (.hangBaseWrite .mailbox 0x1000#64) .mailbox true ∧ Asked s (.traceCtrlWrite .mailbox 1#8) .mailbox true ∧
      flag s.blk.obs.traceCtrl 0 = false ∧ Asked s (.hangBaseWrite .mailbox 1#64) .mailbox true ∧ s.blk.noted (.set (.frozen 0)) = false ∧
      (let v := at_ { base with power := { base.power with testing := [0] } }
       v.blk.clusterTested (clusterOf (v.blk.sels .mailbox).tile) = true ∧ Asked v (.histogramClear .mailbox) .mailbox false ∧
         Asked v (.hangThaw .mailbox 1#8) .mailbox true) := by decide +kernel
theorem wit_markerSend :
    let xs : Bytes := 255#8 :: List.replicate 11 0#8
    Asked (at_ base) (.markerSend .mailbox xs) .mailbox true ∧ ofBytes (xs.take 1) < base.member.ports ∧
      ((porting (inState .up)).blk.port 0).state = .up ∧
      Asked (porting (inState .up)) (.markerSend .mailbox (List.replicate 12 0#8)) .mailbox true ∧
      (base.port 255).state ≠ .up ∧ Asked small (.markerSend .mailbox xs) .mailbox true := by decide +kernel
theorem wit_heartbeat :
    let s := grouped
    let u := grouped fun q => { q with cur := some (roundIn 1) }
    Ready s .heartbeatSend ∧ s.blk.quorum.en = true ∧ s.blk.quorum.selfOut = false ∧ Ready s (.heartbeatMiss 1) ∧
      qmValid (s.blk.quorum.member 1) = true ∧ flag s.blk.quorum.failed 1 = false ∧ 1 ≠ s.blk.quorum.self ∧
      s.blk.quorum.cur = none ∧ Ready u (.heartbeatMiss 1) ∧ base.quorum.en = false ∧ Ready (at_ base) .heartbeatSend := by
  decide +kernel
theorem wit_quorumDfpReceive :
    let s := fun g => grouped fun q => { q with rawIn := [qMsg 3 1 g] }
    let u := grouped fun q => { q with rawIn := [qMsg 4 1 0#32] }
    Ready grouped .quorumDfpReceive ∧ grouped.blk.quorum.rawIn = [] ∧ flag u.blk.quorum.failed 1 = false ∧
    Ready grouped .heartbeat ∧ Ready grouped .view ∧ Ready grouped .commit ∧ (grouped.blk.takeGood 1).isNone = true ∧
    Ready (s 0#32) .quorumDfpReceive ∧ Ready u .quorumDfpReceive ∧ qmValid (u.blk.quorum.member 1) = true := by decide +kernel
theorem wit_quorumGroupId :
    let g := (grouped).blk.quorum.groupId
    let s := grouped fun q => { q with rawIn := [qMsg 3 1 g] }
    let v := grouped fun q => { q with rawIn := [qMsg 1 1 (g + 1)] }
    s.blk.quorum.groupId = g ∧ v.blk.quorum.groupId = g ∧ (qMsg 1 1 (g + 1)).group ≠ g := by
  have h : ∀ g : BitVec 32, g + 1 ≠ g := fun g h => by bv_omega
  exact ⟨rfl, rfl, h _⟩
theorem wit_quorumMessages :
    let s := grouped fun q => { q with good := [qMsg 1 1 0#32], cur := some (roundIn 2), round := 1#32 }
    let u := grouped fun q => { q with good := [qMsg 2 1 0#32], cur := some (roundIn 1), round := 1#32 }
    let v := grouped fun q => { q with good := [qMsg 3 1 0#32], cur := some (roundIn 2), round := 1#32 }
    let w := grouped fun q => { q with good := [qMsg 2 2 0#32, qMsg 3 2 0#32] }
    Ready s .heartbeat ∧ (s.blk.takeGood 1).isSome = true ∧ Ready u .view ∧
      (u.blk.takeGood 2).map (fun x => decide (x.1.round.toNat ≤ x.2.quorum.round.toNat)) = some true ∧ Ready v .commit ∧
      (v.blk.takeGood 3).map (fun x => decide (x.1.round.toNat ≤ x.2.quorum.round.toNat)) = some true ∧
      (v.blk.takeGood 3).map (fun x => x.2.quorum.cur) = some (some (roundIn 2)) ∧
      (w.blk.takeGood 2).map (fun x => decide (x.2.quorum.round.toNat < x.1.round.toNat)) = some true ∧
      (w.blk.takeGood 3).map (fun x => decide (x.2.quorum.round.toNat < x.1.round.toNat ∧ x.1.pass ≠ 2)) = some true := by
  decide +kernel
theorem wit_quorumPhases :
    let s := fun n => grouped fun q => { q with cur := some (roundIn n) }
    let c : Tbl (BitVec 32) := [(0, 0#32), (1, 0#32)]
    Ready (s 1) .quorumPhase1End ∧ Ready (s 2) .quorumPhase2End ∧ Ready (s 3) .quorumPhase3End ∧
      (s 2).blk.quorum.decides [] 0#32 = false ∧ (s 2).blk.quorum.decides c 0#32 = true ∧ Ready grouped .quorumPhase1End ∧
      Ready grouped .quorumPhase2End ∧ Ready grouped .quorumPhase3End ∧ grouped.blk.quorum.cur = none ∧
      Ready (s 2) .quorumPhase1End ∧ Ready (s 3) .quorumPhase2End ∧ Ready (s 1) .quorumPhase3End := by decide +kernel
theorem wit_quorumGroupWrite :
    let s := grouped
    let u := grouped fun q => { q with cur := some (roundIn 1) }
    Asked s (.quorumGroupWrite .mailbox 1 1#64) .mailbox false ∧ Asked s (.quorumGroupWrite .mailbox 1 0#64) .mailbox false ∧
      Asked s (.quorumGroupWrite .mailbox 2 1#64) .mailbox true ∧ qmCoord (s.blk.quorum.member 1) = s.blk.self ∧
      Asked s (.quorumGroupWrite .mailbox 3 500#64) .mailbox true ∧ Asked s (.quorumGroupWrite .mailbox 4 16#64) .mailbox true ∧
      Asked s (.quorumGroupWrite .mailbox 5 400#64) .mailbox true ∧ Asked s (.quorumGroupWrite .mailbox 7 0#64) .mailbox true ∧
      u.blk.quorum.cur ≠ none ∧ Asked u (.quorumGroupWrite .mailbox 7 0#64) .mailbox true ∧
      Asked s (.rejoin .mailbox 0xFFFFFFFF#32) .mailbox false := by decide +kernel

/-! ### The vault -/

/-- The started block with a change of its vault, which has an identity. -/
def vaulted (f : Vault → Vault := id) (b : Blk := base) : State :=
  at_ { b with vault := f { b.vault with identity := true, rng := .ok, negotiated := [(0, 3)] } }

/-- An owner's hash. -/
def ownHash : Bytes := List.replicate 48 7#8

/-- The block with plot 1 owned and keyed, and session 0 of its owner with a claim of it. -/
def claimed (f : PlotKeys → PlotKeys := id) (claim : Option Nat := some 1) : State :=
  vaulted (fun v => { v with sessions := [(0, { ch := .mailbox, established := true, mutualHash := some ownHash, claim := claim })] })
    (base.modPlot 1 fun p => { p with cfg := { p.cfg with owner := ownHash }, keys := f p.keys })

/-- The block with session 0 of the IDE manager. -/
def manager (f : Vault → Vault := id) : State :=
  vaulted fun v => f { v with
    ideMgr := ownHash
    sessions := [(0, { ch := .mailbox, established := true, mutualHash := some ownHash, claim := none })] }

/-- A key set of stream 0. -/
def keySet0 : IdeKeyId := { stream := 0, sub := .pr, transmit := false, kset := false }

/-- A capsule request of plot 1. -/
def capReq (verdict : Nat) : CapReq := { plot := 1, offset := 0, tile := 0, sram := 0, verdict := verdict, len := 0 }

theorem wit_negotiate :
    let s := vaulted
    let u := at_ base
    Asked s (.attestReport .mailbox) .mailbox false ∧ s.blk.vault.identity = true ∧ Served s (.getVersion .slot1) ∧
      Served s (.negotiateAlgorithms .slot1) ∧ Served s (.getDigests .slot1) ∧ Served s (.getCertificate .slot1 0 16) ∧
      Served s (.getCapabilities .mailbox) ∧ 1 ≤ s.blk.negotiated .mailbox ∧ s.blk.negotiated .slot1 = 0 ∧
      Served s (.getCapabilities .slot1) ∧ Served s (.negotiateAlgorithms .mailbox) ∧ 3 ≤ s.blk.negotiated .mailbox ∧
      Served s (.getDigests .mailbox) ∧ Served s (.getCertificate .mailbox 0 16) ∧ u.blk.vault.identity = false ∧
      Asked u (.attestReport .mailbox) .mailbox false := by decide +kernel
theorem wit_spdmRandom :
    let s := vaulted
    let n := List.replicate 32 0#8
    let x : Session := { ch := .mailbox, established := true, mutualHash := none, claim := none }
    let u := vaulted fun v => { v with sessions := (List.range 8).map fun i => (i, x) }
    Served s (.challenge .mailbox n) ∧ s.blk.vault.rng = .ok ∧ Served s (.getMeasurements .mailbox (some 7) 0x80 n) ∧
      Served s (.getMeasurements .mailbox none 0xFF n) ∧ Served s (.keyExchange .mailbox) ∧ s.blk.freeSession = some 0 ∧
      u.blk.freeSession = none ∧ Served u (.keyExchange .mailbox) ∧ 3 ≤ u.blk.negotiated .mailbox ∧
      Served s (.getMeasurements .mailbox (some 7) 0x81 n) := by decide +kernel
/-- The source restarts, is dead, or the block has no identity; a channel that has not negotiated. -/
theorem wit_spdmRandom_waits :
    let n := List.replicate 32 0#8
    let s := fun f => vaulted f
    let r := s fun v => { v with rng := .restarting }
    let d := s fun v => { v with rng := .dead }
    let i := s fun v => { v with identity := false }
    Served r (.challenge .mailbox n) ∧ Served r (.keyExchange .mailbox) ∧ r.blk.vault.rng = .restarting ∧
      3 ≤ r.blk.negotiated .mailbox ∧ Served d (.challenge .mailbox n) ∧ d.blk.vault.rng = .dead ∧ Served d (.keyExchange .mailbox) ∧
      i.blk.vault.identity = false ∧ i.blk.vault.rng = .ok ∧ Served i (.keyExchange .mailbox) ∧
      Served i (.getMeasurements .mailbox none 0xFF n) ∧ Served r (.challenge .slot1 n) ∧ r.blk.negotiated .slot1 < 3 := by decide +kernel
/-- Where no session stands. -/
theorem wit_session_none :
    let s := vaulted
    s.blk.session? 3 = none ∧ Served s (.finish 3 none) ∧ Served s (.heartbeatSpdm 3) ∧ Served s (.keyUpdate 3) ∧
      Served s (.endSession 3) ∧ Served s (.plotClaim 3 1) ∧ Served s (.keySet 3 false []) ∧ Served s (.txPhase 3 false) ∧
      Served s (.phaseRetire 3 false 1) ∧ Served s (.secFlags 3 0) ∧ Served s (.query 300) ∧ s.blk.ideManager 300 = false ∧
      Served s (.keyProg 300 keySet0 0#256 0#64) ∧ Served s (.kSetGo 300 keySet0) ∧ Served s (.kSetStop 300 keySet0) := by
  decide +kernel
theorem wit_session :
    let x : Session := { ch := .mailbox, established := false, mutualHash := none, claim := none }
    let s := vaulted fun v => { v with sessions := [(7, x)] }
    let u := vaulted fun v => { v with sessions := [(7, { x with established := true })] }
    s.blk.session? 7 = some x ∧ Served s (.finish 7 none) ∧ (u.blk.session? 7).map (·.established) = some true ∧
      Served u (.finish 7 none) ∧ Served u (.heartbeatSpdm 7) ∧ Served u (.keyUpdate 7) ∧ Served u (.endSession 7) ∧
      Served u (.spdmUnsupportedRequest .mailbox 0xFE) ∧ Served u (.chunkedTransfer .mailbox true true [1#8]) := by decide +kernel
theorem wit_rng :
    let s := vaulted fun v => { v with rng := .restarting, rngWait := [(.mailbox, .keyExchange)] }
    let u := vaulted fun v => { v with rngFails := [0, 0] }
    let t := fun (s : State) => ((s.blk.vault.rngFails ++ [s.blk.clk.mc]).filter fun m => s.blk.clk.mc - m < s.blk.mcOf 1000000000).length
    let d := vaulted fun v => { v with rng := .dead }
    Up d (.rngHealth 1) ∧ d.blk.vault.rng = .dead ∧ Up u .rngRestartPass ∧ u.blk.vault.rng ≠ .restarting ∧ Up u .rngWaitTimeout ∧
      u.blk.vault.rngWait = [] ∧ Up s .rngRestartPass ∧ s.blk.vault.rng = .restarting ∧ Up s .rngWaitTimeout ∧ s.blk.vault.rng ≠ .dead ∧ t s < 3 ∧ 3 ≤ t u ∧
      u.blk.vault.rng ≠ .dead := by decide +kernel
theorem wit_plotClaim :
    let s := claimed id none
    Served s (.plotClaim 0 1) ∧ (s.blk.session? 0).map (·.mutualHash) = some (some ownHash) ∧ s.blk.bound 1 = true ∧
      ownHash = (s.blk.plot 1).cfg.owner ∧ ownHash.any (fun y => y ≠ 0#8) = true ∧ s.blk.bound 255 = false ∧
      Served s (.plotClaim 0 255) := by decide +kernel
theorem wit_keys :
    let s := claimed
    let u := claimed fun k => { k with phase1 := .live, phase0 := .retiring }
    Served s (.keySet 0 true (List.replicate 32 1#8)) ∧ Served s (.keySet 0 true [1#8]) ∧
      (s.blk.plot 1).keys.phase true = .empty ∧ (u.blk.plot 1).keys.phase true = .live ∧ (u.blk.plot 1).keys.tx ≠ true ∧
      (u.blk.plot 1).keys.txNext = none ∧ Served u (.txPhase 0 true) ∧ Served u (.phaseRetire 0 true 65535) ∧
      (s.blk.plot 1).keys.phase false ≠ .live ∧ Served u (.secFlags 0 7#8) ∧ Up u (.phaseHoldEnd 1 false) ∧
      Served u (.phaseRetire 0 true 0) ∧ Served u (.phaseRetire 0 true 65536) ∧ Served s (.txPhase 0 false) ∧
      Served s (.phaseRetire 0 false 1) ∧ Up s (.phaseHoldEnd 1 false) ∧ (s.blk.plot 1).keys.phase false ≠ .retiring ∧
      Served u (.keySet 0 true (List.replicate 32 1#8)) ∧ (u.blk.plot 1).keys.phase false = .retiring ∧ ((u.blk.session? 0).bind (·.claim)) = some 1 := by decide +kernel
theorem wit_ide :
    let s := manager
    let u := manager fun v => { v with ide := [(keySet0, .programmed)] }
    let c : IdeCmd := { cmd := 0, id := keySet0, key := 0#256, iv := 0#64 }
    let v := manager fun v => { v with idePort := some c }
    Served s (.query 0) ∧ s.blk.ideManager 0 = true ∧ s.blk.ideManager 1 = false ∧ Served s (.query 1) ∧
      s.blk.vault.idePort = none ∧ Served s (.keyProg 0 keySet0 0#256 0#64) ∧ s.blk.ideStream keySet0 = true ∧
      Served u (.kSetGo 0 keySet0) ∧ u.blk.ideState keySet0 ≠ .empty ∧ Served u (.kSetStop 0 keySet0) ∧
      Up s (.ideAnswer true) ∧ Served v (.keyProg 0 keySet0 0#256 0#64) ∧ Served s (.kSetGo 0 keySet0) ∧
      s.blk.ideState keySet0 = .empty ∧ Served s (.kSetStop 0 keySet0) ∧ v.blk.vault.idePort = some c ∧ Up v (.ideAnswer true) ∧ Up v (.ideAnswer false) := by decide +kernel
theorem wit_ideManagerWrite :
    let s := vaulted
    Asked s (.ideManagerWrite .mailbox ownHash) .mailbox true ∧ ownHash.length = 48 ∧ s.blk.vault.ide = [] ∧
      (s.blk.store psIde ownHash).isSome = true ∧ Asked s (.ideManagerWrite .mailbox []) .mailbox true ∧
      (let u := manager fun v => { v with ide := [(keySet0, .programmed)] }
       Asked u (.ideManagerWrite .mailbox ownHash) .mailbox true ∧ u.blk.vault.ide ≠ []) := by decide +kernel
theorem wit_capsule :
    let s := vaulted
    let n := fun k => vaulted fun v => { v with capQ := List.replicate k (capReq 0) }
    Ready s (.capsuleUnwrap 0 0#128) ∧ Ready s .capsuleDone ∧ Ready s (.capsuleUnwrap 1 0#128) ∧ s.blk.bound 1 = true ∧ s.blk.vault.capQ = [] ∧ (n 4).blk.vault.capQ.length ≤ 4 ∧
      4 < (n 5).blk.vault.capQ.length ∧ Ready (n 5) (.capsuleUnwrap 1 0#128) ∧ Ready (n 4) (.capsuleUnwrap 1 0#128) ∧
      Ready (n 1) .capsuleDone ∧
      (capReq 0).verdict = 0 ∧ (capReq 2).verdict ≠ 0 := by decide +kernel

/-! ### Start-up and firmware -/

theorem wit_resets :
    let s := at_ base
    Named s .porAssert ∧ Named (staged .held) .porRelease ∧ Named s .warmReset ∧ s.blk.fw.stage ≠ .held ∧
      Asked s (.restart .mailbox) .mailbox false ∧ Named s .porRelease ∧ Named (staged .held) .warmReset ∧
      Named (staged .recovery) (.restart .mailbox) ∧ (staged .recovery).blk.fw.stage = .recovery ∧
      Named { staged .held with trip := { tripped := true, latch := true } } .porRelease ∧ (staged .held).trip.tripped = false ∧
      (staged .held).blk.fw.stage = .held := by decide +kernel
/-- A trip under power-on reset stands (R408). -/
theorem test_thermalTrip_held :
    ∃ t, exec .thermalTrip (staged .held) = .next t ∧ t.trip = { tripped := true, latch := true } ∧ t.blk.fw.stage = .held :=
  ⟨_, rfl, rfl, rfl⟩
theorem wit_startupStageDone :
    let s := staged (.stage 3)
    let t := { staged (.stage 4) with trip := { tripped := true, latch := true } }
    let u := at_ { (staged (.stage 6)).blk with power := { base.power with testing := [0] } }
    Named s (.startupStageDone true) ∧ Named s (.startupStageDone false) ∧ s.blk.fw.stage = .stage 3 ∧
      s.blk.fw.choose = none ∧ s.trip.tripped = false ∧ t.trip.tripped = true ∧ (staged (.stage 6)).blk.power.testing = [] ∧
      u.blk.power.testing ≠ [] ∧ u.blk.fw.stage = .stage 6 ∧ (staged (.stage 1)).blk.seedWaits = false ∧
      ({ (staged (.stage 1)).blk with vault := { base.vault with rng := .restarting, rngFails := [0] } } : Blk).seedWaits = true ∧
      Named (at_ base) (.startupStageDone true) := by decide +kernel
/-- A slot with a good image boots. -/
theorem wit_choose (m : Mem) (h : imgVerify m 0 = 0) :
    let s := staged (.stage 3) fun f => { f with slotA := m, stateA := .written }
    ∃ f, s.blk.fw.choose = some (false, false, f) := by
  have hd : (staged (.stage 3) fun f => { f with slotA := m, stateA := .written }).blk.fw.dir = none := rfl
  have hb : (staged (.stage 3) fun f => { f with slotA := m, stateA := .written }).blk.fw.bootable false = true := by
    simp [Firmware.bootable, staged, at_, Firmware.slot, base, Blk.after, Firmware.blank, h]
  exact ⟨_, by simp only [Firmware.choose, hd, hb]; rfl⟩
theorem wit_selfTest :
    let s := at_ { base with power := { base.power with testing := [63] } }
    let u := at_ { base with power := { base.power with clusters := [] }, plots := [] }
    Ready s (.selfTestDone 63 0xFF#8) ∧ s.blk.clusterTested 63 = true ∧ Asked u (.selfTestStart .mailbox) .mailbox true ∧
      (u.blk.sels .mailbox).stCluster = 0 ∧ u.blk.cluster 0 = .fallow ∧ u.blk.member.hasCluster 0 = true ∧
      u.blk.clusterMoving 0 = false ∧ u.blk.clusterTested 0 = false ∧
      (clusterTiles 0).all (fun t => (u.blk.ownerOf t).isNone) = true ∧ Ready u (.selfTestDone 63 0#8) ∧
      u.blk.clusterTested 63 = false ∧ Asked (at_ base) (.selfTestStart .mailbox) .mailbox true ∧ base.cluster 0 ≠ .fallow := by
  decide +kernel
theorem wit_verify :
    let s := staged .done fun f => { f with stateB := .written }
    Asked s (.verify .mailbox) .mailbox false ∧ s.blk.fw.inactive = true ∧ s.blk.fw.slotState true = .written ∧
      imgVerify (s.blk.fw.slot true) s.blk.fw.rollback ≠ 0 ∧ Asked (at_ base) (.verify .mailbox) .mailbox false ∧
      base.fw.slotState base.fw.inactive = .empty := by decide +kernel
/-- The firmware commands in RECOVERY. -/
theorem wit_recovery :
    let s := staged .recovery
    s.blk.fw.stage = .recovery ∧ Named s (.verify .mailbox) ∧ Named s (.activate .mailbox) ∧ Named s (.confirm .mailbox) ∧
      Named s (.erase .mailbox) ∧ Named s (.fwImage .mailbox 1 0#32) ∧ Named s .mailboxDone := by decide +kernel
/-- A slot with a good image is verified. -/
theorem wit_verify_good (m : Mem) (h : imgVerify m 0 = 0) :
    let s := staged .done fun f => { f with slotB := m, stateB := .written }
    imgVerify (s.blk.fw.slot s.blk.fw.inactive) s.blk.fw.rollback = 0 := h
theorem wit_activate :
    let s := staged .done fun f => { f with stateB := .verified }
    let u := staged .done fun f => { f with trialRun := true }
    Asked s (.activate .mailbox) .mailbox false ∧ s.blk.fw.slotState s.blk.fw.inactive = .verified ∧ s.blk.fw.trialRun = false ∧
      s.blk.fw.flashStop = false ∧ Asked u (.confirm .mailbox) .mailbox false ∧ u.blk.fw.trialRun = true ∧
      u.blk.fw.flashStop = false ∧ Asked u (.activate .mailbox) .mailbox false ∧
      Asked s (.confirm .mailbox) .mailbox false := by decide +kernel
theorem wit_erase :
    let s := staged .done
    let u := staged .done fun f => { f with flashStop := true }
    Asked s (.erase .mailbox) .mailbox false ∧ s.blk.fwWritable = true ∧ u.blk.fwWritable = false ∧
      Asked u (.erase .mailbox) .mailbox false ∧ Asked s (.fwImage .mailbox 4194304 0#32) .mailbox false ∧
      s.blk.xfer .mailbox = none := by decide +kernel
theorem wit_pstoreCompaction :
    let s := staged .done fun f => { f with used := f.used.put f.writeSector 64489 }
    Served s .pstoreCompaction ∧ s.blk.fw.full = true ∧ s.blk.fw.flashStop = false ∧ (staged .done).blk.fw.full = false ∧
      Served (staged .done) .pstoreCompaction := by
  decide +kernel

/-! ### The host window -/

/-- The started block with a change of event ring 1. -/
def ring1 (f : Ring → Ring) : State := at_ (base.modRing 1 f)

/-- A mailbox frame of a KIND without a payload, in the request buffer. -/
def mboxed (kind : Nat) : State :=
  at_ { base with host := { base.host with reqBuf := Mem.write [] 0 (toBytes 32 (0x4D4F + 2 ^ 16 + kind * 2 ^ 20)) } }

theorem wit_dmaWindowWrite :
    let s := at_ (base.modPlot 2 fun p => { p with state := .scrubbing })
    Up s (.dmaWindowWrite 255 0#128) ∧ (s.blk.plot 255).state = .free ∧ fld 0#128 0 12 = 0 ∧
      (s.blk.plot 2).state ≠ .free ∧ (s.blk.plot 2).state ≠ .bound ∧ Up s (.dmaWindowWrite 2 0#128) := by decide +kernel
theorem wit_consWrite :
    let s := ring1 fun x => { x with prod := 1#32 }
    Up s (.consWrite 1 1#32) ∧ (1#32 - 1#32).toNat ≤ (1#32 - 0#32).toNat ∧ (s.blk.ring 1).prod = 1#32 ∧
      (s.blk.ring 1).cons = 0#32 ∧ ((s.blk.ring 1).prod - (s.blk.ring 1).cons).toNat < ((s.blk.ring 1).prod - 2#32).toNat ∧
      Up s (.consWrite 1 2#32) := by
  decide +kernel
theorem wit_eventRingWrite :
    let s := at_ base
    let v := BitVec.ofNat 512 (2 ^ 69)
    let u := ring1 fun x => { x with enable := true }
    let w := at_ { base with host := { base.host with ringOpen := true } }
    Up s (.eventRingWrite 63 v) ∧ (s.blk.ring 63).enable = false ∧ flag v 69 = true ∧ fld v 0 12 = 0 ∧
      Up u (.eventRingWrite 1 v) ∧ (u.blk.ring 1).enable = true ∧ Up w (.eventRingWrite 0 v) ∧
      (w.blk.ring 0).enable = false ∧ Up s (.eventRingWrite 0 v) ∧ s.blk.host.ringOpen = false ∧
      Up s (.eventRingWrite 1 0#512) ∧ flag 0#512 69 = false ∧ (s.blk.ring 1).cons = BitVec.ofNat 32 (fld 0#512 128 32) := by
  decide +kernel
theorem wit_irqHoldEnd :
    let s := ring1 fun x => { x with irqEn := true, wrote := true }
    Up s (.irqHoldEnd 1) ∧ (s.blk.ring 1).irqEn = true ∧ (s.blk.ring 1).wrote = true ∧ (s.blk.ring 1).lastIrq = none ∧
      ((at_ base).blk.ring 1).irqEn = false ∧ Up (at_ base) (.irqHoldEnd 1) := by decide +kernel
theorem wit_mailboxGo :
    let f := fun (s : State) => Blk.mboxTake.setAuth0 s.blk.mboxFrame
    let u := at_ { base with host := { base.host with busy := true } }
    Up (mboxed 0) .mailboxGo ∧ (mboxed 0).blk.host.busy = false ∧ moaOk (f (mboxed 0)) = true ∧
      mhKind (moaHdr (f (mboxed 0))) ≠ mkSpdm ∧ moaOk (f (at_ base)) = false ∧ moaOk (f (mboxed mkSpdm)) = true ∧
      mhKind (moaHdr (f (mboxed mkSpdm))) = mkSpdm ∧ Up u .mailboxGo ∧ u.blk.host.busy = true ∧
      (at_ base).blk.noted (.set .mboxDone) = false ∧ Up (at_ base) .mailboxGo ∧ Up (mboxed mkSpdm) .mailboxGo := by decide +kernel
theorem wit_mailboxDone :
    let u := fun k => at_ { (mboxed k).blk with host := { (mboxed k).blk.host with busy := true } }
    Served (u 0) .mailboxDone ∧ mhKind (moaHdr ((u 0).blk.host.reqBuf.read 0 32)) ≠ mkSpdm ∧
      mhKind (moaHdr ((u mkSpdm).blk.host.reqBuf.read 0 32)) = mkSpdm ∧ (u mkSpdm).blk.host.busy = true ∧
      Served (u mkSpdm) .mailboxDone ∧ Served (at_ base) .mailboxDone ∧ base.host.busy = false := by decide +kernel
theorem wit_hostRegister :
    let s := at_ base
    Up s (.hostRegisterRead 2 4) ∧ aligned 2 4 = false ∧ aligned 0x20 4 = true ∧ regAt s.blk.member 0x20 = none ∧
      aligned 0x104 4 = true ∧ aligned 0x80 4 = true ∧ regAt s.blk.member 0x80 = some (.bootStage, 0x80, 4) ∧
      Up s (.hostRegisterRead 0x80 4) ∧ Up s (.hostRegisterWrite 0x80 4 0#64) ∧ Up s (.hostRegisterWrite 0x20 4 0#64) ∧
      Up s (.hostRegisterWrite 2 4 0#64) ∧ regAt s.blk.member 0x4008 = some (.reqBuf 8, 0x4008, 8) ∧ aligned 0x4008 8 = true ∧
      Up s (.hostRegisterWrite 0x4008 8 0#64) := by decide +kernel

/-- Two registers at once; the lowest and the highest bytes of a wide one. -/
theorem wit_hostRegister_wide :
    let s := at_ base
    aligned 0x200 8 = true ∧ splits s.blk.member 0x200 8 = true ∧ Up s (.hostRegisterRead 0x200 8) ∧
      Up s (.hostRegisterWrite 0x200 8 0#64) ∧ regAt s.blk.member 0x1040 = some (.ring 1, 0x1040, 64) ∧
      regAt s.blk.member 0x1078 = some (.ring 1, 0x1040, 64) ∧ aligned 0x1040 8 = true ∧ aligned 0x1078 8 = true ∧
      0x1078 + 8 = 0x1040 + 64 ∧ Up s (.hostRegisterRead 0x1040 8) ∧ Up s (.hostRegisterWrite 0x1078 8 0#64) := by
  decide +kernel

/-! ### The machine -/

theorem wit_idle :
    let s := at_ base
    let u := staged .done fun f => { f with restartDue := true }
    s.pending = [] ∧ s.blk.fw.restartDue = false ∧ s.live = true ∧ (staged .recovery).live = false ∧
      (staged .recovery).blk.fw.restartDue = false ∧ u.blk.fw.restartDue = true ∧ u.pending = [] ∧
      u.blk.fw.keyJournal = false ∧ Ready s .frameTick := by decide +kernel
theorem wit_memOk : MemOk base ∧ ∃ t, step (at_ base) = .next t :=
  ⟨by unfold MemOk HostOk FwOk; decide +kernel, _, rfl⟩
theorem wit_tripLatched :
    let s : State := { at_ base with trip := { tripped := true, latch := true } }
    TripLatched s ∧ s.trip.tripped = true := ⟨fun _ => rfl, rfl⟩
theorem wit_step_next : ∃ t, step { at_ base with pending := [.combLocked 0] } = .next t := ⟨_, rfl⟩
theorem wit_named :
    Named (at_ base) (.portUp 255) ∧ ¬ Named (at_ base) (.portUp 256) ∧ Named (at_ base) (.combLost 63) := by decide
theorem wit_exactSums :
    ([Val.fin 1 0, Val.fin (-1) 0]).length ≤ 2 ^ 40 ∧ List.Perm [Val.fin 1 0, Val.fin (-1) 0] [Val.fin (-1) 0, Val.fin 1 0] :=
  ⟨by decide, List.Perm.swap _ _ _⟩
theorem wit_meshPlaces :
    (5 < 32 ∧ Member.dx1024.hasTile (32 * 31 + 31) = true ∧ Member.dx1024.isPortTile (32 * 30 + 30) = true) ∧
      Member.dx16.width < 32 := by
  decide
theorem wit_outside :
    let t := 1
    let u := 0
    (u ≠ t ∧ 0 + [1#8].length ≤ 2 ^ 21 ∧ 0 + 1 ≤ 2 ^ 21) ∧ (t = t ∧ (1 + 1 ≤ 2 ∨ 2 + [1#8].length ≤ 1)) := by decide

end Sys2Proof.Tests
end

section
/-! Port tiles and port numbers (R15): on every member the port tiles and the ports below `Member.ports` correspond one to one. -/
namespace Sys2Proof.PortTiles
open Sys2Proof Sys2Proof.Machine

/-! ### The mesh -/

theorem width_le (m : Member) : m.width ≤ 32 := by
  cases m <;> decide

/-- A row holds a whole number of port tiles. -/
theorem width_eq_two_mul_half (m : Member) : m.width = 2 * (m.width / 2) := by
  cases m <;> rfl

theorem half_width_pos (m : Member) : 0 < m.width / 2 := by
  cases m <;> decide

/-! ### A tile by its coordinates -/

section Coordinates
variable {m : Member} {x y : Nat}

theorem coord_column (hx : x < 32) : (32 * y + x) % 32 = x := by
  rw [Nat.mul_add_mod, Nat.mod_eq_of_lt hx]

theorem coord_row (hx : x < 32) : (32 * y + x) / 32 = y := by
  rw [Nat.mul_add_div (by decide), Nat.div_eq_of_lt hx, Nat.add_zero]

theorem hasTile_coord (hx : x < 32) : m.hasTile (32 * y + x) = true ↔ x < m.width ∧ y < m.width := by
  simp [Member.hasTile, coord_column hx, coord_row hx]

theorem isPortTile_coord (hx : x < m.width) (hy : y < m.width) :
    m.isPortTile (32 * y + x) = true ↔ x % 2 = 0 ∧ y % 2 = 0 := by
  have hx32 : x < 32 := Nat.lt_of_lt_of_le hx (width_le m)
  have hparity : (32 * y + x) % 2 = x % 2 := by omega
  simp [Member.isPortTile, (hasTile_coord hx32).mpr ⟨hx, hy⟩, hparity, coord_row hx32]

theorem portOf_coord (hx : x < m.width) : m.portOf (32 * y + x) = m.width / 2 * (y / 2) + x / 2 := by
  have hx32 : x < 32 := Nat.lt_of_lt_of_le hx (width_le m)
  rw [Member.portOf, coord_column hx32, coord_row hx32]

/-- Row y/2 of the ports lies below row W/2, and x/2 stays inside its row. -/
theorem portOf_coord_lt_ports (hx : x < m.width) (hy : y < m.width) : m.portOf (32 * y + x) < m.ports := by
  have hw := width_eq_two_mul_half m
  have hcol : x / 2 < m.width / 2 := by omega
  have hrow : y / 2 + 1 ≤ m.width / 2 := by omega
  calc m.portOf (32 * y + x) = m.width / 2 * (y / 2) + x / 2 := portOf_coord hx
    _ < m.width / 2 * (y / 2 + 1) := by rw [Nat.mul_succ]; omega
    _ ≤ m.ports := Nat.mul_le_mul_left _ hrow

/-- Dividing a port number by W/2 gives back its row and its column. -/
theorem portTile_portOf_coord (hx : x < m.width) (hy : y < m.width) (hp : m.isPortTile (32 * y + x) = true) :
    m.portTile (m.portOf (32 * y + x)) = 32 * y + x := by
  obtain ⟨hxe, hye⟩ := (isPortTile_coord hx hy).mp hp
  have hw := width_eq_two_mul_half m
  have hcol : x / 2 < m.width / 2 := by omega
  have hrow : (m.width / 2 * (y / 2) + x / 2) / (m.width / 2) = y / 2 := by
    rw [Nat.mul_add_div (half_width_pos m), Nat.div_eq_of_lt hcol, Nat.add_zero]
  rw [portOf_coord hx, Member.portTile, hrow, Nat.mul_add_mod, Nat.mod_eq_of_lt hcol]
  omega

end Coordinates

theorem hasTile_of_isPortTile {m : Member} {t : Nat} (h : m.isPortTile t = true) : m.hasTile t = true := by
  simp only [Member.isPortTile, Bool.and_eq_true] at h
  obtain ⟨⟨hmesh, _⟩, _⟩ := h
  exact hmesh

/-! ### A port's tile -/

section Ports
variable {m : Member} {p : Nat}

theorem portTile_eq_coord : m.portTile p = 32 * (2 * (p / (m.width / 2))) + 2 * (p % (m.width / 2)) := by
  rw [Member.portTile]; omega

theorem port_column_lt : 2 * (p % (m.width / 2)) < m.width := by
  have hw := width_eq_two_mul_half m
  have hcol := Nat.mod_lt p (half_width_pos m)
  omega

theorem port_row_lt (hp : p < m.ports) : 2 * (p / (m.width / 2)) < m.width := by
  have hw := width_eq_two_mul_half m
  have hrow : p / (m.width / 2) < m.width / 2 := Nat.div_lt_of_lt_mul hp
  omega

theorem isPortTile_portTile (hp : p < m.ports) : m.isPortTile (m.portTile p) = true := by
  rw [portTile_eq_coord, isPortTile_coord port_column_lt (port_row_lt hp)]
  omega

theorem portOf_portTile : m.portOf (m.portTile p) = p := by
  rw [portTile_eq_coord, portOf_coord port_column_lt, Nat.mul_div_cancel_left _ Nat.two_pos,
    Nat.mul_div_cancel_left _ Nat.two_pos, Nat.div_add_mod]

end Ports

/-- Settles O59: `Member.portOf` and `Member.portTile` are inverse to each other between the port tiles and the ports. -/
theorem portTiles : Obligations.PortTiles := by
  unfold Obligations.PortTiles
  refine ⟨fun m x y hx hy => ⟨isPortTile_coord hx hy, fun hp => ?_⟩, fun m t => hasTile_of_isPortTile,
    fun x y hx hy _ => ?_, fun p hp => ?_⟩
  · exact ⟨portOf_coord hx, portOf_coord_lt_ports hx hy, portTile_portOf_coord hx hy hp⟩
  · have hlt : Member.dx1024.portOf (32 * y + x) < 256 := portOf_coord_lt_ports (m := .dx1024) hx hy
    exact ⟨portOf_coord (m := .dx1024) hx, Nat.le_of_lt_succ hlt⟩
  · have hlt : p < Member.dx1024.ports := Nat.lt_succ_of_le hp
    exact ⟨Member.dx1024.portTile p, isPortTile_portTile hlt, portOf_portTile⟩

end Sys2Proof.PortTiles
end

section
/-! Tile ids (R23): the ids of a member's mesh are 32·Y + X for its coordinates, and they leave gaps where a row is narrower than 32. -/
namespace Sys2Proof.TileIds
open Sys2Proof Sys2Proof.Machine Sys2Proof.PortTiles

theorem tileId_lt {x y : Nat} (hx : x < 32) (hy : y < 32) : 32 * y + x < 2 ^ 10 := by
  omega

theorem exists_coord_of_hasTile {m : Member} {t : Nat} (h : m.hasTile t = true) :
    ∃ x y, x < m.width ∧ y < m.width ∧ t = 32 * y + x := by
  have hsplit : 32 * (t / 32) + t % 32 = t := Nat.div_add_mod t 32
  rw [← hsplit, hasTile_coord (Nat.mod_lt t (by decide))] at h
  obtain ⟨hcol, hrow⟩ := h
  exact ⟨t % 32, t / 32, hcol, hrow, hsplit.symm⟩

/-- Past the last column of the first row the ids of a narrower member have a gap: X = W is outside the mesh. -/
theorem hasTile_width_eq_false {m : Member} (hw : m.width < 32) : m.hasTile m.width = false := by
  have hiff : m.hasTile m.width = true ↔ m.width < m.width ∧ 0 < m.width := by
    simpa using hasTile_coord (m := m) (y := 0) hw
  exact Bool.eq_false_iff.mpr fun h => Nat.lt_irrefl _ (hiff.mp h).left

/-- The second row begins at id 32, however narrow the first one is. -/
theorem hasTile_second_row (m : Member) : m.hasTile 32 = true := by
  have hpos := half_width_pos m
  exact (hasTile_coord (x := 0) (y := 1) (by decide)).mpr (by omega)

/-- Settles O58: an id below 2^10 is its row and column in base 32, and the mesh bounds both by the member's width. -/
theorem tileIds : Obligations.TileIds := by
  unfold Obligations.TileIds
  refine ⟨fun m x y hx hy => ?_, fun m t ht => ?_, fun m hw => ?_⟩
  · exact ⟨tileId_lt hx hy, coord_column hx, coord_row hx, hasTile_coord hx⟩
  · obtain ⟨x, y, hcol, hrow, hid⟩ := exists_coord_of_hasTile ht
    exact ⟨x, y, hcol, hrow, width_le m, hid⟩
  · exact ⟨hasTile_width_eq_false hw, hasTile_second_row m⟩

end Sys2Proof.TileIds
end

section
/-! Bindings of the traffic tables (R262): a sieve or lookup entry that names a plot not in BOUND leaves the block as it was. -/
namespace Sys2Proof.UnboundPlots
open Sys2Proof Sys2Proof.Machine Sys2Proof.Safety Sys2Proof.Laws

theorem writeSieve_of_unbound {b : Blk} {v : BitVec 320} (h : b.bound (svPlot (v &&& sieveMask)) = false) (slot : Nat) :
    b.writeSieve slot v = Od.no b abState := by
  simp [Blk.writeSieve, h]

theorem writeLookup_of_unbound {b : Blk} {v : BitVec 64} (h : b.bound (lkPlot (v &&& lookupMask)) = false) (i : Nat) :
    b.writeLookup i v = Od.no b abState := by
  simp [Blk.writeLookup, h]

/-- A dictionary command whose function refuses answers the abort code and leaves the rest of the block. -/
theorem od_refused {s : State} {c : Instr} {ch : Channel} {expert : Bool} {f : Blk → Od} {a : Nat}
    (hasked : Asked s c ch expert) (hf : f s.blk = Od.no s.blk a) : s.od c ch expert f = become s (s.blk.answer a) := by
  rw [od_asked hasked, hf]
  rfl

/-- Settles O60: both writes check BOUND before anything else, and the refusal is answered on the block as it was. -/
theorem unboundPlotRefused : Obligations.UnboundPlotRefused := by
  unfold Obligations.UnboundPlotRefused
  intro s ch
  constructor
  · intro v e hasked hunbound
    exact od_refused hasked (writeSieve_of_unbound hunbound _)
  · intro v e hasked hunbound
    exact od_refused hasked (writeLookup_of_unbound hunbound _)

end Sys2Proof.UnboundPlots
end


section
/-! Exact sums (R132, R138–R140): an entry is the closed form of the multiset of its addends, so order and merges do not matter. -/
namespace Sys2Proof.ExactSums
open Sys2Proof Sys2Proof.Machine

/-! ### What one addend contributes -/

/-- The whole grid units that an addend puts into SUM (R138). -/
def units (f : FraForm) : Val → Int
  | .fin m e => if magGe m e f.l then 0 else roundTo rndNe 0 m e f.g
  | _ => 0

def setsNan : Val → Bool
  | .nan => true
  | _ => false

/-- An addend that sets PINF: +∞, or a positive value past the range. -/
def setsPinf (f : FraForm) : Val → Bool
  | .inf neg => !neg
  | .fin m e => magGe m e f.l && decide (0 < m)
  | _ => false

/-- An addend that sets NINF: −∞, or a negative value past the range. -/
def setsNinf (f : FraForm) : Val → Bool
  | .inf neg => neg
  | .fin m e => magGe m e f.l && decide (m < 0)
  | _ => false

/-- An addend that leaves ONLY_NZ: NaN and −0. -/
def keepsNz : Val → Bool
  | .nan => true
  | .zero neg => neg
  | _ => false

def setsInexact (f : FraForm) : Val → Bool
  | .fin m e => !magGe m e f.l && decide (e < f.g ∧ m % 2 ^ (f.g - e).toNat ≠ 0)
  | _ => false

/-- The entry that a run of addends leaves while no sum leaves its range. -/
def entryOf (f : FraForm) (l : List Val) : Fra :=
  { sum := (l.map (units f)).sum, count := if f.w = 320 then l.length else 0, any := !l.isEmpty, nan := l.any setsNan,
    pinf := l.any (setsPinf f), ninf := l.any (setsNinf f), onlyNz := l.all keepsNz, ovf := false,
    inexact := l.any (setsInexact f) }

/-! ### Bounds -/

/-- The three forms of R136, with room for 2^40 addends of 2^(l − g) units each. -/
structure Roomy (f : FraForm) : Prop where
  grid_le : f.g ≤ f.l
  room : 2 ^ 40 * 2 ^ (f.l - f.g).toNat < (2 ^ (f.w - 1) : Int)
  width : 0 < f.w

theorem roomy_of_form {f : FraForm} (hf : f = formWide ∨ f = formFloat ∨ f = formInt) : Roomy f := by
  rcases hf with rfl | rfl | rfl <;> exact ⟨by decide, by decide, by decide⟩

/-- A value below 2^l is less than 2^(l − e) units of 2^e. -/
theorem natAbs_lt_of_not_magGe {m e l : Int} (h : magGe m e l = false) : m.natAbs < 2 ^ (l - e).toNat := by
  have hl : (Nat.log2 m.natAbs : Int) + e < l := by simpa [magGe] using h
  calc m.natAbs < 2 ^ (Nat.log2 m.natAbs + 1) := Nat.lt_log2_self
    _ ≤ 2 ^ (l - e).toNat := Nat.pow_le_pow_right (by decide) (by omega)

theorem natAbs_scaleTo_le {m e l g : Int} (hge : g ≤ e) (h : magGe m e l = false) :
    (scaleTo m e g).natAbs ≤ 2 ^ (l - g).toNat := by
  have hm := natAbs_lt_of_not_magGe h
  have hl : (Nat.log2 m.natAbs : Int) + e < l := by simpa [magGe] using h
  have hexp : (l - e).toNat + (e - g).toNat = (l - g).toNat := by omega
  calc (scaleTo m e g).natAbs = m.natAbs * 2 ^ (e - g).toNat := by simp [scaleTo, Int.natAbs_mul, Int.natAbs_pow]
    _ ≤ 2 ^ (l - e).toNat * 2 ^ (e - g).toNat := Nat.mul_le_mul_right _ (Nat.le_of_lt hm)
    _ = 2 ^ (l - g).toNat := by rw [← Nat.pow_add, hexp]

theorem ite_succ_bounds (p : Prop) [Decidable p] (n : Int) : n ≤ (if p then n + 1 else n) ∧ (if p then n + 1 else n) ≤ n + 1 := by
  split <;> omega

/-- Rounding moves to one of the two neighbouring multiples. -/
theorem roundTo_bounds (m : Int) {e q : Int} (h : e < q) :
    m / 2 ^ (q - e).toNat ≤ roundTo rndNe 0 m e q ∧ roundTo rndNe 0 m e q ≤ m / 2 ^ (q - e).toNat + 1 := by
  unfold roundTo
  rw [if_neg (by omega)]
  dsimp only
  split
  · omega
  · exact ite_succ_bounds _ _

theorem natAbs_roundTo_le {m e l g : Int} (hgl : g ≤ l) (h : magGe m e l = false) :
    (roundTo rndNe 0 m e g).natAbs ≤ 2 ^ (l - g).toNat := by
  by_cases hge : g ≤ e
  · rw [show roundTo rndNe 0 m e g = scaleTo m e g by simp [roundTo, hge]]
    exact natAbs_scaleTo_le hge h
  · have hm := natAbs_lt_of_not_magGe h
    have hexp : (l - e).toNat = (l - g).toNat + (g - e).toNat := by omega
    obtain ⟨hlo, hhi⟩ := roundTo_bounds m (e := e) (q := g) (by omega)
    have hd : (0 : Int) < 2 ^ (g - e).toNat := Int.pow_pos (by decide)
    rw [hexp, Nat.pow_add] at hm
    have hlow : -(2 ^ (l - g).toNat : Int) ≤ m / 2 ^ (g - e).toNat := by
      rw [Int.le_ediv_iff_mul_le hd, Int.neg_mul]
      have : -(m.natAbs : Int) ≤ m := by omega
      have : (m.natAbs : Int) < 2 ^ (l - g).toNat * 2 ^ (g - e).toNat := by exact_mod_cast hm
      omega
    have hup : m / 2 ^ (g - e).toNat < 2 ^ (l - g).toNat := by
      rw [Int.ediv_lt_iff_lt_mul hd]
      have : m ≤ (m.natAbs : Int) := by omega
      have : (m.natAbs : Int) < 2 ^ (l - g).toNat * 2 ^ (g - e).toNat := by exact_mod_cast hm
      omega
    have hgoal : ((roundTo rndNe 0 m e g).natAbs : Int) ≤ 2 ^ (l - g).toNat := by
      generalize (2 ^ (l - g).toNat : Int) = c at *
      omega
    exact_mod_cast hgoal

theorem natAbs_units_le {f : FraForm} (hf : Roomy f) (v : Val) : (units f v).natAbs ≤ 2 ^ (f.l - f.g).toNat := by
  cases v with
  | fin m e =>
    simp only [units]
    split
    · simp
    · rename_i h
      exact natAbs_roundTo_le hf.grid_le (by simpa using h)
  | _ => simp [units]

theorem natAbs_sum_units_le {f : FraForm} (hf : Roomy f) (l : List Val) :
    (l.map (units f)).sum.natAbs ≤ l.length * 2 ^ (f.l - f.g).toNat := by
  induction l with
  | nil => simp
  | cons v l ih =>
    have hv := natAbs_units_le hf v
    calc ((v :: l).map (units f)).sum.natAbs ≤ (units f v).natAbs + (l.map (units f)).sum.natAbs := by
          simpa using Int.natAbs_add_le _ _
      _ ≤ 2 ^ (f.l - f.g).toNat + l.length * 2 ^ (f.l - f.g).toNat := Nat.add_le_add hv ih
      _ = (v :: l).length * 2 ^ (f.l - f.g).toNat := by rw [List.length_cons, Nat.add_one_mul, Nat.add_comm]

/-- A sum inside the range neither wraps nor sets OVF. -/
theorem inRange_of_natAbs_lt {w : Nat} (hw : 0 < w) {x : Int} (h : (x.natAbs : Int) < 2 ^ (w - 1)) :
    wrapInt w x = x ∧ sumLeaves w x = false := by
  have hp : (2 : Int) ^ w = 2 * 2 ^ (w - 1) := by rw [← Int.pow_succ', Nat.sub_add_cancel hw]
  constructor
  · simp only [wrapInt, hp]
    generalize (2 ^ (w - 1) : Int) = c at *
    by_cases hx : 0 ≤ x
    · rw [Int.emod_eq_of_lt hx (by omega), if_pos (by omega)]
    · have hmod : x % (2 * c) = x + 2 * c := by
        rw [← Int.add_emod_right, Int.emod_eq_of_lt (by omega) (by omega)]
      rw [hmod, if_neg (by omega)]
      omega
  · simp only [sumLeaves]
    generalize (2 ^ (w - 1) : Int) = c at *
    simp
    omega

/-- Up to 2^40 addends leave SUM inside its range. -/
theorem sum_units_inRange {f : FraForm} (hf : Roomy f) {l : List Val} (hl : l.length ≤ 2 ^ 40) :
    wrapInt f.w (l.map (units f)).sum = (l.map (units f)).sum ∧ sumLeaves f.w (l.map (units f)).sum = false := by
  apply inRange_of_natAbs_lt hf.width
  have hsum := natAbs_sum_units_le hf l
  have hle : l.length * 2 ^ (f.l - f.g).toNat ≤ 2 ^ 40 * 2 ^ (f.l - f.g).toNat := Nat.mul_le_mul_right _ hl
  have hcast : ((l.map (units f)).sum.natAbs : Int) ≤ 2 ^ 40 * 2 ^ (f.l - f.g).toNat := by
    exact_mod_cast Nat.le_trans hsum hle
  exact Int.lt_of_le_of_lt hcast hf.room

/-! ### The closed form -/

theorem add_entryOf {f : FraForm} (hf : Roomy f) {l : List Val} {v : Val} (hl : (l ++ [v]).length ≤ 2 ^ 40) :
    (entryOf f l).add f v = entryOf f (l ++ [v]) := by
  have hr := sum_units_inRange hf hl
  have hn : l.length + 1 ≤ 2 ^ 40 := by simpa using hl
  cases v with
  | nan => simp [Fra.add, entryOf, units, setsNan, setsPinf, setsNinf, keepsNz, setsInexact]; split <;> omega
  | inf neg => simp [Fra.add, entryOf, units, setsNan, setsPinf, setsNinf, keepsNz, setsInexact]; split <;> omega
  | zero neg => simp [Fra.add, entryOf, units, setsNan, setsPinf, setsNinf, keepsNz, setsInexact]; split <;> omega
  | fin m e =>
    cases hm : magGe m e f.l with
    | true => simp [Fra.add, entryOf, units, setsNan, setsPinf, setsNinf, keepsNz, setsInexact, hm]; split <;> omega
    | false =>
      simp [units, hm] at hr
      simp [Fra.add, entryOf, units, setsNan, setsPinf, setsNinf, keepsNz, setsInexact, hm, hr]; split <;> omega

/-- Addends after those of `l` lengthen its closed form. -/
theorem foldl_add_entryOf {f : FraForm} (hf : Roomy f) {l vs : List Val} (hl : (l ++ vs).length ≤ 2 ^ 40) :
    vs.foldl (Fra.add f) (entryOf f l) = entryOf f (l ++ vs) := by
  induction vs generalizing l with
  | nil => rw [List.foldl_nil, List.append_nil]
  | cons v vs ih =>
    have hone : (l ++ [v]).length ≤ 2 ^ 40 := by
      simp only [List.length_append, List.length_cons, List.length_nil] at hl ⊢
      omega
    rw [List.append_cons] at hl ⊢
    rw [List.foldl_cons, add_entryOf hf hone, ih hl]

theorem foldl_add_eq_entryOf {f : FraForm} (hf : Roomy f) {l : List Val} (hl : l.length ≤ 2 ^ 40) :
    l.foldl (Fra.add f) Fra.fresh = entryOf f l := by
  have hfresh : Fra.fresh = entryOf f [] := by simp [entryOf, Fra.fresh]
  rw [hfresh, foldl_add_entryOf (l := []) hf hl, List.nil_append]

theorem sum_perm {xs ys : List Int} (h : List.Perm xs ys) : xs.sum = ys.sum := by
  induction h with
  | nil => rfl
  | cons x _ ih => rw [List.sum_cons, List.sum_cons, ih]
  | swap x y l => simp only [List.sum_cons]; omega
  | trans _ _ ih₁ ih₂ => exact ih₁.trans ih₂

theorem entryOf_perm (f : FraForm) {xs ys : List Val} (h : List.Perm xs ys) : entryOf f xs = entryOf f ys := by
  have hany : ∀ p : Val → Bool, xs.any p = ys.any p := fun p => h.any_eq
  have hall : ∀ p : Val → Bool, xs.all p = ys.all p := fun p => h.all_eq
  simp only [entryOf, sum_perm (h.map (units f)), h.length_eq, h.isEmpty_eq, hany, hall]

/-- A merge adds the other's addends (R140). -/
theorem merge_entryOf {f : FraForm} (hf : Roomy f) {xs ys : List Val} (h : (xs ++ ys).length ≤ 2 ^ 40) :
    (entryOf f xs).merge f (entryOf f ys) = entryOf f (xs ++ ys) := by
  have hr := sum_units_inRange hf h
  have hn : xs.length + ys.length ≤ 2 ^ 40 := by simpa using h
  simp only [List.map_append, List.sum_append] at hr
  simp only [Fra.merge, entryOf, hr, List.map_append, List.sum_append, List.any_append, List.all_append, List.length_append,
    Fra.mk.injEq, Bool.or_false, true_and, and_true]
  refine ⟨?_, ?_⟩
  · split <;> omega
  · cases xs <;> cases ys <;> rfl

/-- Settles O57: every order and every split leave the closed form of the addends. -/
theorem exactSums : Obligations.ExactSums := by
  unfold Obligations.ExactSums
  intro f hform xs ys hlen hperm
  have hf := roomy_of_form hform
  have hys : ys.length ≤ 2 ^ 40 := hperm.length_eq ▸ hlen
  dsimp only
  refine ⟨?_, ?_, ?_, fun hw => ?_, fun k => ?_⟩
  · rw [foldl_add_eq_entryOf hf hlen, foldl_add_eq_entryOf hf hys, entryOf_perm f hperm]
  · rw [foldl_add_eq_entryOf hf hlen]; rfl
  · rw [foldl_add_eq_entryOf hf hlen]; exact natAbs_sum_units_le hf xs
  · rw [foldl_add_eq_entryOf hf hlen]; simp [entryOf, hw]
  · have htake : (xs.take k).length ≤ 2 ^ 40 := Nat.le_trans (List.length_take_le' k xs) hlen
    have hdrop : (xs.drop k).length ≤ 2 ^ 40 := by rw [List.length_drop]; omega
    have hwhole : (xs.take k ++ xs.drop k).length ≤ 2 ^ 40 := by rwa [List.take_append_drop]
    rw [foldl_add_eq_entryOf hf htake, foldl_add_eq_entryOf hf hdrop, foldl_add_eq_entryOf hf hlen,
      merge_entryOf hf hwhole, List.take_append_drop]

end Sys2Proof.ExactSums
end


section
/-! What a command that acts answers, from what its effect makes of the block: one rule per gate, and one per way a sheaf runs. -/
namespace Sys2Proof.Acts
open Sys2Proof Sys2Proof.Machine Sys2Proof.Safety Sys2Proof.Laws

section Gates
variable {s : State} {c : Instr} {ch : Channel} {b : Blk}

theorem mesh_becomes {f : Blk → Blk} (h : Ready s c) (hf : f s.blk = b) : s.mesh c f = become s b := hf ▸ mesh_ready h f

theorem page_becomes {t : Nat} {f : Blk → Blk} (h : Ready s c) (ht : s.blk.member.hasTile t = true) (hf : f s.blk = b) :
    s.page c t f = become s b := hf ▸ page_ready h ht f

/-- While the mesh runs, the block is out of reset. -/
theorem up_of_ready (h : Ready s c) : Up s c := by
  refine ⟨h.1, fun hheld => ?_⟩
  have hlive := h.2
  simp [State.live, hheld, BootStage.mesh] at hlive

/-- The page of a tile that the member lacks is unmapped (R335). -/
theorem page_unmapped {t : Nat} {f : Blk → Blk} (h : Ready s c) (ht : s.blk.member.hasTile t = false) :
    s.page c t f = become s (s.blk.countSys evBadAccess) := by
  rw [State.page, ht]
  exact window_up (up_of_ready h) _

theorem steward_becomes {f : Blk → Blk} (h : Served s c) (hf : f s.blk = b) : s.steward c f = become s b := hf ▸ steward_served h f

theorem boot_becomes {f : Blk → Blk} (h : Served s c) (hf : f s.blk = b) : s.boot c f = become s b := hf ▸ boot_served h f

theorem window_becomes {f : State → Blk} (h : Up s c) (hf : f s = b) : s.window c f = become s b := hf ▸ window_up h f

theorem vaultEvent_becomes {f : Blk → Blk} (h : Up s c) (hf : f s.blk = b) : s.vaultEvent c f = become s b :=
  hf ▸ vaultEvent_up h f

theorem od_answers {e : Bool} {f : Blk → Od} {a : Nat} (h : Asked s c ch e) (hf : f s.blk = (b, a)) :
    s.od c ch e f = become s (b.answer a) := by rw [od_asked h, hf]

theorem odFw_answers {f : Blk → Od} {a : Nat} (h : Asked s c ch false) (hf : f s.blk = (b, a)) :
    s.odFw c ch f = become s (b.answer a) := by rw [odFw_asked h, hf]

theorem request_becomes {f : Seen → Blk → Blk} (h : Asked s c ch false) (hf : f s.seen s.blk = b) : s.request c ch f = become s b :=
  hf ▸ request_asked h f

/-- An entry of a port that the member lacks answers NO_INDEX (R320). -/
theorem odPort_lacks {e : Bool} {p : Nat} {f : Blk → Od} (h : Asked s c ch e) (hp : s.blk.member.ports ≤ p) :
    s.odPort c ch e p f = become s (s.blk.answer abNoIndex) :=
  od_answers ⟨h.1, h.2.1, by simp [Nat.not_lt.mpr hp]⟩ (by simp [Nat.not_lt.mpr hp, Od.no])

theorem odPort_answers {e : Bool} {p : Nat} {f : Blk → Od} {a : Nat} (h : Asked s c ch e) (hp : p < s.blk.member.ports)
    (hf : f s.blk = (b, a)) : s.odPort c ch e p f = become s (b.answer a) :=
  od_answers ⟨h.1, h.2.1, by simpa [hp] using h.2.2⟩ (by simp [hp, hf])

end Gates

section Engines
variable {s : State} {t e op : Nat} {x : Sheaf} {f : Blk → Sheaf → Blk × Ran} {b : Blk}

theorem run_fin {st d : Nat} (h : Starts s t e op x) (hf : f (s.blk.started t x) x = (b, .fin st d)) :
    s.blk.run t e op f = ends b t e x st d := by rw [run_starts h, hf]

theorem run_issue {n : Nat} (h : Starts s t e op x) (hf : f (s.blk.started t x) x = (b, .issue n)) :
    s.blk.run t e op f = issues b t e x n := by rw [run_starts h, hf]

theorem run_hold (h : Starts s t e op x) (hf : f (s.blk.started t x) x = (b, .hold)) : s.blk.run t e op f = s.blk := by
  rw [run_starts h, hf]

end Engines

end Sys2Proof.Acts
end


section
/-! List commands (R101, R105, R110–R114): those that run in an engine, those that act in a context, launches and dispatch. -/
namespace Sys2Proof.ListCommands
open Sys2Proof Sys2Proof.Machine Sys2Proof.Safety Sys2Proof.Laws Sys2Proof.Acts

/-! ### In an engine -/

section Engine
variable {b : Blk} {t e : Nat} {x : Sheaf}

/-- The n that list.wait, list.signal and list.tick take (R105). -/
def legalArg (x : Sheaf) : Prop := 0 < kArg x.cmd ∧ kArg x.cmd ≤ 65535

theorem argTest_of_legal (h : legalArg x) : (kArg x.cmd = 0 || 65535 < kArg x.cmd) = false := by
  obtain ⟨hpos, hmax⟩ := h
  simp [hmax, Nat.pos_iff_ne_zero.mp hpos]

theorem argTest_of_illegal (h : ¬legalArg x) : (kArg x.cmd = 0 || 65535 < kArg x.cmd) = true := by
  unfold legalArg at h
  simp
  omega

theorem runListWait_takes (h : legalArg x) (hseen : kArg x.cmd ≤ ((b.tile t).semMc b.clk.mc (kWaitSem x.cmd)).seen) :
    runListWait t b x = (b.modTile t fun y => y.semTake b.clk.mc (kWaitSem x.cmd) (kArg x.cmd), .fin stOk 0) := by
  simp [runListWait, argTest_of_legal h, Nat.not_lt.mpr hseen]

theorem runListWait_holds (h : legalArg x) (hseen : ((b.tile t).semMc b.clk.mc (kWaitSem x.cmd)).seen < kArg x.cmd) :
    runListWait t b x = (b, .hold) := by
  simp [runListWait, argTest_of_legal h, hseen]

theorem runListWait_illegal (h : ¬legalArg x) : runListWait t b x = (b, .fin stBadOperand 0) := by
  simp [runListWait, argTest_of_illegal h]

theorem signal_adds {plot k n : Nat} (h : (b.tile t).sem k + n ≤ 65535) :
    b.signal t plot k n = b.modTile t fun y => y.semAdd b.clk.mc k ((b.tile t).sem k + n) n := if_pos h

theorem signal_saturates {plot k n : Nat} (h : 65535 < (b.tile t).sem k + n) :
    b.signal t plot k n =
      ((b.modTile t fun y => y.semAdd b.clk.mc k 65535 n).count t evSemSat (some plot)).raiseP 0x06 plot (some t) k :=
  if_neg (Nat.not_le.mpr h)

theorem runListSignal_legal (h : legalArg x) :
    runListSignal t b x = (b.signal t x.plot (kSigSem x.cmd) (kArg x.cmd), .fin stOk 0) := by
  simp [runListSignal, argTest_of_legal h]

theorem runListSignal_adds (h : legalArg x) (hv : (b.tile t).sem (kSigSem x.cmd) + kArg x.cmd ≤ 65535) :
    runListSignal t b x = (b.modTile t fun y =>
      y.semAdd b.clk.mc (kSigSem x.cmd) ((b.tile t).sem (kSigSem x.cmd) + kArg x.cmd) (kArg x.cmd), .fin stOk 0) := by
  rw [runListSignal_legal h, signal_adds hv]

theorem runListSignal_saturates (h : legalArg x) (hv : 65535 < (b.tile t).sem (kSigSem x.cmd) + kArg x.cmd) :
    runListSignal t b x =
      (((b.modTile t fun y => y.semAdd b.clk.mc (kSigSem x.cmd) 65535 (kArg x.cmd)).count t evSemSat (some x.plot)).raiseP
        0x06 x.plot (some t) (kSigSem x.cmd), .fin stOk 0) := by
  rw [runListSignal_legal h, signal_saturates hv]

theorem runListSignal_illegal (h : ¬legalArg x) : runListSignal t b x = (b, .fin stBadOperand 0) := by
  simp [runListSignal, argTest_of_illegal h]

theorem runListTick_legal (h : legalArg x) :
    runListTick t e b x = (b.modSheaf t e x.sid fun y => { y with aux := kArg x.cmd }, .issue 1) := by
  simp [runListTick, argTest_of_legal h]

theorem runListTick_illegal (h : ¬legalArg x) : runListTick t e b x = (b, .fin stBadOperand 0) := by
  simp [runListTick, argTest_of_illegal h]

end Engine

/-- Settles O1: each list command runs as its rule says, whatever sheaf of its opcode starts. -/
theorem listEngineCommands : Obligations.ListEngineCommands := by
  unfold Obligations.ListEngineCommands
  intro s t e x b n i j legal
  refine ⟨fun hr hs => ?_, fun hr hs => ⟨fun hl hseen => ?_, fun hl hseen => ?_, fun hl => ?_⟩,
    fun hr hs => ⟨fun hl hv => ?_, fun hl hv => ?_, fun hl => ?_⟩, fun hr hs => ⟨fun hl => ?_, fun hl => ?_⟩, fun hr hs => ?_⟩
  · show execListNop t e s = _
    exact mesh_becomes hr (run_fin hs rfl)
  · show execListWait t e s = _
    exact mesh_becomes hr (run_fin hs (runListWait_takes hl hseen))
  · show execListWait t e s = _
    exact mesh_becomes hr (run_hold hs (runListWait_holds hl hseen))
  · show execListWait t e s = _
    exact mesh_becomes hr (run_fin hs (runListWait_illegal hl))
  · show execListSignal t e s = _
    exact mesh_becomes hr (run_fin hs (runListSignal_adds hl hv))
  · show execListSignal t e s = _
    exact mesh_becomes hr (run_fin hs (runListSignal_saturates hl hv))
  · show execListSignal t e s = _
    exact mesh_becomes hr (run_fin hs (runListSignal_illegal hl))
  · show execListTick t e s = _
    exact mesh_becomes hr (run_issue hs (runListTick_legal hl))
  · show execListTick t e s = _
    exact mesh_becomes hr (run_fin hs (runListTick_illegal hl))
  · show execListEvent t e s = _
    exact mesh_becomes hr (run_fin hs rfl)

/-! ### In a context -/

section Context
variable {b : Blk} {t c : Nat} {cmd : BitVec 256}

/-- The frame of the list that a context runs, once its command has started. -/
def startedFrame (b : Blk) (t c : Nat) (cmd : BitVec 256) : ListFrame := (((b.ctxStarted t cmd).tile t).ctx c).cur

/-- Starting a context command takes from a semaphore and leaves the contexts. -/
theorem ctx_ctxStarted : ((b.ctxStarted t cmd).tile t).ctx c = (b.tile t).ctx c := by
  unfold Blk.ctxStarted
  split
  · rw [tile_modTile_same]; rfl
  · rfl

/-- The counter that list.loop uses, and what it has left. -/
def loopLeft (k : Ctx) (cmd : BitVec 256) : Nat :=
  let ctr := k.loops.getD (kXopt cmd % 4) { value := 0, loaded := false }
  if ctr.loaded then ctr.value else kArg cmd

/-- A block whose context keeps a loop counter. -/
def keepLoop (b : Blk) (t c : Nat) (cmd : BitVec 256) (v : Nat) (l : Bool) : Blk :=
  b.modTile t fun y => y.modCtx c fun k => { k with loops := k.loops.put (kXopt cmd % 4) { value := v, loaded := l } }

theorem listLoop_endless (h : b.ctxCmd t c fnLoop = some cmd) (htgt : kOpa cmd < (startedFrame b t c cmd).index)
    (harg : kArg cmd = 2 ^ 32 - 1) :
    b.listLoop t c = (b.ctxStarted t cmd).dispatchDone t c cmd stOk fun l => { l with index := kOpa cmd } := by
  unfold startedFrame at htgt
  simp [Blk.listLoop, h, Nat.not_le.mpr htgt, harg]

theorem listLoop_jumps (h : b.ctxCmd t c fnLoop = some cmd) (htgt : kOpa cmd < (startedFrame b t c cmd).index)
    (harg : kArg cmd ≠ 2 ^ 32 - 1) (hleft : 0 < loopLeft (((b.ctxStarted t cmd).tile t).ctx c) cmd) :
    b.listLoop t c =
      (keepLoop (b.ctxStarted t cmd) t c cmd (loopLeft (((b.ctxStarted t cmd).tile t).ctx c) cmd - 1) true).dispatchDone t c cmd
        stOk fun l => { l with index := kOpa cmd } := by
  unfold startedFrame at htgt
  unfold loopLeft at hleft ⊢
  dsimp only at hleft ⊢
  simp only [Blk.listLoop, h, if_neg (Nat.not_le.mpr htgt), if_neg harg, if_pos hleft]
  rfl

theorem listLoop_passes (h : b.ctxCmd t c fnLoop = some cmd) (htgt : kOpa cmd < (startedFrame b t c cmd).index)
    (harg : kArg cmd ≠ 2 ^ 32 - 1) (hleft : loopLeft (((b.ctxStarted t cmd).tile t).ctx c) cmd = 0)
    (hlim : (startedFrame b t c cmd).index + 1 < (startedFrame b t c cmd).limit) :
    b.listLoop t c = (keepLoop (b.ctxStarted t cmd) t c cmd 0 false).dispatchDone t c cmd stOk
      fun l => { l with index := l.index + 1 } := by
  unfold startedFrame at htgt hlim
  unfold loopLeft at hleft
  dsimp only at hleft
  simp only [Blk.listLoop, h, if_neg (Nat.not_le.mpr htgt), if_neg harg, if_neg (Nat.not_le.mpr hlim), hleft, Nat.lt_irrefl,
    if_false]
  rfl

theorem listCall_descends (h : b.ctxCmd t c fnCall = some cmd)
    (hlim : (startedFrame b t c cmd).index + 1 < (startedFrame b t c cmd).limit)
    (hdepth : (((b.ctxStarted t cmd).tile t).ctx c).stack.length < 3) {list base : Nat}
    (hlist : sramOp (startedFrame b t c cmd).base (kOpa cmd) 32 32 = some list)
    (hbase : sramOp (startedFrame b t c cmd).base (kOpb cmd) 0 1 = some base) :
    b.listCall t c = ((b.ctxStarted t cmd).modTile t fun y =>
        y.modCtx c fun k => { k with stack := { k.cur with index := k.cur.index + 1 } :: k.stack }).dispatchDone t c cmd stOk
      fun _ => { list := list, index := 0, base := base, limit := 4096 } := by
  unfold startedFrame at hlim hlist hbase
  rw [ctx_ctxStarted] at hlim hdepth hlist hbase
  simp only [Blk.listCall, h, if_neg (Nat.not_le.mpr hlim), if_neg (Nat.not_le.mpr hdepth), hlist, hbase]

theorem listEnd_returns (h : b.ctxCmd t c fnEnd = some cmd) {f : ListFrame} {fs : List ListFrame}
    (hstack : (((b.ctxStarted t cmd).tile t).ctx c).stack = f :: fs) :
    b.listEnd t c = ((b.ctxStarted t cmd).dispatchDone t c cmd stOk fun _ => f).modTile t fun y =>
      y.modCtx c fun k => { k with stack := fs } := by
  simp only [Blk.listEnd, h, hstack]

theorem listEnd_drains (h : b.ctxCmd t c fnEnd = some cmd) (hstack : (((b.ctxStarted t cmd).tile t).ctx c).stack = []) :
    b.listEnd t c =
      ((b.ctxStarted t cmd).completeCmd t (((b.ctxStarted t cmd).tile t).ctx c).plot c (startedFrame b t c cmd).index stOk 0
        cmd).modTile t fun y => (y.modCtx c fun k => { k with state := .draining }).settle c := by
  simp only [Blk.listEnd, h, hstack, startedFrame]

end Context

/-- Settles O2: each context command acts on its context as its rule says. -/
theorem listContextCommands : Obligations.ListContextCommands := by
  unfold Obligations.ListContextCommands
  intro s t c cmd b k ctr left keep
  refine ⟨fun hr hc htgt => ⟨fun harg => ?_, fun harg hleft => ?_, fun harg hleft hlim => ?_⟩,
    fun list base hr hc hlim hdepth hlist hbase => ?_, fun hr hc => ⟨fun f fs hstack => ?_, fun hstack => ?_⟩⟩
  · show execListLoop t c s = _
    exact mesh_becomes hr (listLoop_endless hc htgt harg)
  · show execListLoop t c s = _
    exact mesh_becomes hr (listLoop_jumps hc htgt harg hleft)
  · show execListLoop t c s = _
    exact mesh_becomes hr (listLoop_passes hc htgt harg hleft hlim)
  · show execListCall t c s = _
    exact mesh_becomes hr (listCall_descends hc hlim hdepth hlist hbase)
  · show execListEnd t c s = _
    exact mesh_becomes hr (listEnd_returns hc hstack)
  · show execListEnd t c s = _
    exact mesh_becomes hr (listEnd_drains hc hstack)

/-! ### Dispatch and launch -/

section Dispatch
variable {b : Blk} {t c : Nat}

/-- The sheaf that a context's next command becomes, with its deadline (R110, R117). -/
def nextSheaf (b : Blk) (t c : Nat) (f : BitVec 48) : Sheaf :=
  let k := (b.tile t).ctx c
  { sid := (b.tile t).es.nextSid, cmd := b.fetchCmd t k, base := k.cur.base, plot := k.plot, ctx := c, index := k.cur.index,
    deadline := f, state := .queued, late := false, issued := 0, total := 0, outst := 0, status := 0#8, detail := 0#8,
    noSteal := false, aux := 0 }

/-- A tile with a sheaf at the end of an engine's queue and the context moved past its command. -/
def placed (c e : Nat) (y : Sheaf) (x : Tile) : Tile :=
  let x := x.setSheaves e (x.sheaves e ++ [y])
  ({ x with es := { x.es with nextSid := x.es.nextSid + 1 } } : Tile).modCtx c fun k =>
    { k with state := .dispatch, cur := { k.cur with index := k.cur.index + 1 } }

theorem sheaves_placed (c e : Nat) (y : Sheaf) (x : Tile) : (placed c e y x).sheaves e = x.sheaves e ++ [y] :=
  sheaves_setSheaves_same x e _

theorem ctx_placed (c e : Nat) (y : Sheaf) (x : Tile) :
    (placed c e y x).ctx c = { x.ctx c with state := .dispatch, cur := { (x.ctx c).cur with index := (x.ctx c).cur.index + 1 } } :=
  ctx_modCtx_same _ c _

/-- A command in time goes to the end of its engine's queue (R110, R117). -/
theorem dispatch_places {cmd : BitVec 256} {f : BitVec 48} (hcmd : b.fetchCmd t ((b.tile t).ctx c) = cmd)
    (hk : ((b.tile t).ctx c).dispatching = true)
    (hlim : ((b.tile t).ctx c).cur.index + 1 < ((b.tile t).ctx c).cur.limit) (hin : inContext cmd = false)
    (hroom : ((b.tile t).sheaves (opEngine (kOp cmd))).length < 64) (hok : cmdOk cmd = true) (hop : kOp cmd ≠ opSow)
    (hdl : deadlineOf cmd ((b.tile t).ctx c).launch b.clk.frame = some f) (hahead : ahead f b.clk.frame = true) :
    b.dispatch t c = b.modTile t (placed c (opEngine (kOp cmd)) (nextSheaf b t c f)) := by
  subst hcmd
  simp [Blk.dispatch, hk, Nat.not_le.mpr hlim, hin, Nat.not_le.mpr hroom, hok, hop, hdl, hahead]
  rfl

theorem launch_accepted {p : Nat} {v : BitVec 128} (hp : p ≠ 0) (hb : b.bound p = true) (hr : b.launchDecide p v = 0) :
    b.launch p v = ((b.modPlot p fun x => { x with host := { x.host with
        launchResult := 0, launchTile := lnTile v, accepted := x.host.accepted + 1 } }).modTile (lnTile v) fun x =>
      { x with es := { x.es with launchQ := x.es.launchQ ++
        [{ plot := p, list := lnList v, base := lnBase v, limit := 4096, statusAt := some (lnStatus v),
           handler := none }] } }).note (.launch p (lnTile v)) := by
  simp [Blk.launch, hp, hb, hr]

theorem launch_refused {p : Nat} {v : BitVec 128} (hp : p ≠ 0) (hb : b.bound p = true) (hr : b.launchDecide p v ≠ 0) :
    b.launch p v =
      if b.launchDecide p v = 4 then
        (b.modPlot p fun x => { x with host := { x.host with launchResult := b.launchDecide p v, launchTile := lnTile v } }).count
          (lnTile v) evLaunchRefused (some p)
      else b.modPlot p fun x => { x with host := { x.host with launchResult := b.launchDecide p v, launchTile := lnTile v } } := by
  simp [Blk.launch, hp, hb, hr]

theorem launchDequeue_takes {l : Launch} {ls : List Launch} (hl : b.launchable t = true) (hq : (b.tile t).es.launchQ = l :: ls)
    (hc : (b.tile t).idleCtx = some c) :
    b.launchDequeue t = (b.note (.launched t)).modTile t fun x =>
      (({ x with es := { x.es with launchQ := ls } } : Tile).modCtx c fun _ =>
        { Ctx.fresh with state := .dispatch, plot := l.plot, launch := b.clk.frame, statusAt := l.statusAt, handler := l.handler,
                         cur := { list := l.list, index := 0, base := l.base, limit := l.limit } }).refillLaunch := by
  simp [Blk.launchDequeue, hl, hq, hc]

theorem completeNext_completes {e : Nat} {x : Sheaf} (h : ((b.tile t).sheaves e).find? (fun y => y.state = .finished) = some x) :
    b.completeNext t e = b.complete t e x := by
  simp only [Blk.completeNext, h]

end Dispatch

/-- Settles O3: dispatch appends one sheaf and moves its context, and the launch queue, completion and semaphore writes follow. -/
theorem dispatchAndLaunch : Obligations.DispatchAndLaunch := by
  unfold Obligations.DispatchAndLaunch
  refine ⟨?_, fun s t p => ⟨?_, fun l ls c hr hl hq hc => ?_, fun e x hr hx => ?_, fun k v hr => ⟨fun ht => ?_, fun ht => ?_⟩⟩⟩
  · intro s t c f k cmd e hr hk hlim hin hroom hok hop hdl hahead
    refine ⟨s.blk.modTile t (placed c e (nextSheaf s.blk t c f)), ?_, ?_, ?_, ?_, rfl⟩
    · show execCommandDispatch t c s = _
      exact mesh_becomes hr (dispatch_places rfl hk hlim hin hroom hok hop hdl hahead)
    · rw [tile_modTile_same, sheaves_placed]; rfl
    · rw [tile_modTile_same, ctx_placed]
    · exact fun u hu => tile_modTile_other _ _ _ _ hu
  · intro v hr hp hb r
    refine ⟨fun h0 => ?_, fun h0 => ?_⟩
    · show execListLaunch p v s = _
      exact mesh_becomes hr (launch_accepted hp hb h0)
    · show execListLaunch p v s = _
      exact mesh_becomes hr (launch_refused hp hb h0)
  · show execLaunchDequeue t s = _
    exact mesh_becomes hr (launchDequeue_takes hl hq hc)
  · show execCommandComplete t e s = _
    exact mesh_becomes hr (completeNext_completes hx)
  · show execSemWrite t k v s = _
    exact page_becomes hr ht rfl
  · show execSemWrite t k v s = _
    exact page_unmapped hr ht

end Sys2Proof.ListCommands
end


section
/-! What every step keeps: the queue, the trip latch, the member, the time and the canonical form of the byte memories. -/
namespace Sys2Proof.StepKeeps
open Sys2Proof Sys2Proof.Machine Sys2Proof.Safety Sys2Proof.Laws Sys2Proof.Acts

/-! ### Only the resets and the trip change more than the block -/

/-- A command faults at a place that the member lacks, and changes nothing but the block elsewhere. -/
def ChangesBlock (s : State) (c : Instr) (o : Out) : Prop := ∃ b, o = s.at c fun s => .next { s with blk := b }

section Gates
variable {s : State} {c : Instr} {ch : Channel}

theorem at_changesBlock {f : State → Out} {b : Blk} (h : f s = .next { s with blk := b }) : ChangesBlock s c (s.at c f) :=
  ⟨b, by simp only [State.at, h]⟩

theorem mesh_changesBlock (f : Blk → Blk) : ChangesBlock s c (s.mesh c f) :=
  at_changesBlock (b := if s.live then f s.blk else s.blk) (by split <;> rfl)

theorem window_changesBlock (f : State → Blk) : ChangesBlock s c (s.window c f) :=
  at_changesBlock (b := if s.blk.fw.stage = .held then s.blk else f s) (by split <;> rfl)

theorem page_changesBlock (t : Nat) (f : Blk → Blk) : ChangesBlock s c (s.page c t f) := by
  unfold State.page
  split
  · exact mesh_changesBlock f
  · exact window_changesBlock _

theorem panel_changesBlock (p : Nat) (f : Blk → Blk) : ChangesBlock s c (s.panel c p f) := mesh_changesBlock _

theorem steward_changesBlock (f : Blk → Blk) : ChangesBlock s c (s.steward c f) :=
  at_changesBlock (b := if s.blk.fw.stage = .done then f s.blk else s.blk) (by split <;> rfl)

theorem boot_changesBlock (f : Blk → Blk) : ChangesBlock s c (s.boot c f) :=
  at_changesBlock (b := if s.blk.fw.stage = .done || s.blk.fw.stage = .recovery then f s.blk else s.blk) (by split <;> rfl)

theorem vaultEvent_changesBlock (f : Blk → Blk) : ChangesBlock s c (s.vaultEvent c f) :=
  at_changesBlock (b := if s.blk.fw.stage = .held then s.blk else f s.blk) (by split <;> rfl)

theorem od_changesBlock (e : Bool) (f : Blk → Od) : ChangesBlock s c (s.od c ch e f) :=
  at_changesBlock (b := if s.blk.fw.stage = .done && s.blk.open_ ch then s.blk.odDo ch e f
    else if s.blk.fw.stage = .recovery && ch = .mailbox then s.blk.answer abNoIndex else s.blk) (by (repeat' split) <;> rfl)

theorem odPort_changesBlock (e : Bool) (p : Nat) (f : Blk → Od) : ChangesBlock s c (s.odPort c ch e p f) := od_changesBlock _ _

theorem odFw_changesBlock (f : Blk → Od) : ChangesBlock s c (s.odFw c ch f) :=
  at_changesBlock (b := if (s.blk.fw.stage = .done && s.blk.open_ ch) || (s.blk.fw.stage = .recovery && ch = .mailbox) then
    s.blk.odDo ch false f else s.blk) (by split <;> rfl)

theorem request_changesBlock (f : Seen → Blk → Blk) : ChangesBlock s c (s.request c ch f) :=
  at_changesBlock (b := if (s.blk.fw.stage = .done && s.blk.open_ ch) || (s.blk.fw.stage = .recovery && ch = .mailbox) then
    f s.seen s.blk else s.blk) (by split <;> rfl)

theorem startupStageDone_changesBlock (ok : Bool) : ChangesBlock s (.startupStageDone ok) (execStartupStageDone ok s) :=
  at_changesBlock (b := if s.trip.tripped then s.blk.stageTripped ok else s.blk.stageDone ok) (by split <;> rfl)

theorem attestReport_changesBlock (ch : Channel) : ChangesBlock s (.attestReport ch) (execAttestReport ch s) :=
  at_changesBlock (b := if s.blk.fw.stage = .done && s.blk.open_ ch then
    (match s.blk.attest ch with
      | .ok xs => s.blk.answer abNone xs
      | .error a => s.blk.answer a) else s.blk) (by split <;> rfl)

theorem hello_changesBlock (ch : Channel) : ChangesBlock s (.hello ch) (execHello ch s) :=
  at_changesBlock (b := if s.blk.fw.stage = .done && (ch = .mailbox || s.blk.mgmt.mgmtEn) ||
    (s.blk.fw.stage = .recovery && ch = .mailbox) then s.blk.doHello else s.blk) (by split <;> rfl)

theorem moaFrameReceive_changesBlock (frame : Bytes) (good : Bool) :
    ChangesBlock s (.moaFrameReceive frame good) (execMoaFrameReceive frame good s) :=
  at_changesBlock (b := if s.blk.fw.stage = .done then s.blk.moaArrives s.seen frame good else s.blk) (by split <;> rfl)

end Gates


/-- Power-on reset, its release, a warm reset and the trip. -/
def isReset : Instr → Bool
  | .porAssert | .porRelease | .warmReset | .thermalTrip => true
  | _ => false

/-- A command that is no reset and no trip changes nothing but the block. -/
theorem exec_changesBlock (s : State) {c : Instr} (h : isReset c = false) : ChangesBlock s c (exec c s) := by
  cases c
  case porAssert | porRelease | warmReset | thermalTrip => cases h
  case startupStageDone flashOk => exact startupStageDone_changesBlock flashOk
  case attestReport ch => exact attestReport_changesBlock ch
  case hello ch => exact hello_changesBlock ch
  case moaFrameReceive frame good => exact moaFrameReceive_changesBlock frame good
  case loopConfigWrite | calGo | sieveWrite | lookupWrite | meterWrite | counterWrite | rakeKWrite | rakeBaseWrite |
      histogramClear | hangThaw | hangBaseWrite | traceCtrlWrite | markerSend | sownLoadStart | swapFrameWrite | swapArm |
      swapDisarm | sownQuotaWrite | expertEntryWrite | expertDescriptorWrite | expertRouteWrite | expertSelectorWrite |
      expertCheck | selfTestStart | clusterActive | clusterFallow | clusterDeep | fallowAll | wakeAll | pwrCtrlWrite |
      quorumGroupWrite | rejoin | plotBind | plotRebind | plotTeardown | queueQuotaWrite | hbmRangeWrite | plotConfigWrite |
      graftMapWrite | ideManagerWrite | wearWrite | libraryWrite | keySlotWrite => unfold exec; exact od_changesBlock _ _
  case portCtrlWrite | egressQueueWrite | shaperWrite | gateWrite | poolWrite |
      portPwrWrite => unfold exec; exact odPort_changesBlock _ _ _
  case segAbort | restart | verify | activate | confirm | erase | fwImage => unfold exec; exact odFw_changesBlock _
  case moaRead | moaWrite | odRegisterWrite | describe | segWrite | segRead => unfold exec; exact request_changesBlock _
  case portUp | portDrain | portDown | pstoreCompaction | getVersion | getCapabilities | negotiateAlgorithms | getDigests |
      getCertificate | challenge | getMeasurements | keyExchange | finish | heartbeatSpdm | keyUpdate | endSession |
      spdmUnsupportedRequest | chunkedTransfer | plotClaim | keySet | txPhase | phaseRetire | secFlags | query | keyProg |
      kSetGo | kSetStop | arpRequest | neighborSolicitation => unfold exec; exact steward_changesBlock _
  case segment | segAck | segTimeout | mailboxDone => unfold exec; exact boot_changesBlock _
  case dmaWindowWrite | consWrite | eventRingWrite | irqHoldEnd | mailboxGo | hostRegisterRead |
      hostRegisterWrite => unfold exec; exact window_changesBlock _
  case rngHealth | rngRestartPass | rngWaitTimeout | phaseHoldEnd | ideAnswer => unfold exec; exact vaultEvent_changesBlock _
  case semWrite | queueRdWrite | fbPop | openCtrlWrite | engCtrlWrite | pmcCfgWrite => unfold exec; exact page_changesBlock _ _
  case moduleInsert | moduleRemove | svcPress | svcStuck => unfold exec; exact panel_changesBlock _ _
  all_goals unfold exec; exact mesh_changesBlock _

/-! ### The resets and the trip -/

section Resets
variable {s : State}

/-- What a reset or the trip makes of the state (R312, R388, R408). -/
def resetOf (s : State) : Instr → State
  | .porAssert => s.anew { tripped := false, latch := false } (s.blk.restarted .held)
  | .warmReset => if s.blk.fw.stage = .held then s else s.anew { s.trip with tripped := false } (s.blk.restarted (.stage 1))
  | .porRelease =>
    if s.blk.fw.stage = .held then
      s.anew s.trip (if s.trip.tripped then (s.blk.restarted (.stage 1)).trip else s.blk.restarted (.stage 1))
    else s
  | .thermalTrip =>
    if s.trip.tripped then s
    else { s with trip := { tripped := true, latch := true }, blk := if s.blk.fw.stage = .held then s.blk else s.blk.trip }
  | _ => s

theorem exec_porAssert : exec .porAssert s = s.at .porAssert fun s => .next (resetOf s .porAssert) := rfl

theorem exec_warmReset : exec .warmReset s = s.at .warmReset fun s => .next (resetOf s .warmReset) := by
  show execWarmReset s = _
  simp only [execWarmReset, State.at, resetOf]
  (repeat' split) <;> rfl

theorem exec_porRelease : exec .porRelease s = s.at .porRelease fun s => .next (resetOf s .porRelease) := by
  show execPorRelease s = _
  simp only [execPorRelease, State.at, resetOf]
  (repeat' split) <;> rfl

theorem exec_thermalTrip : exec .thermalTrip s = s.at .thermalTrip fun s => .next (resetOf s .thermalTrip) := by
  show execThermalTrip s = _
  simp only [execThermalTrip, State.at, resetOf]
  (repeat' split) <;> rfl

theorem exec_of_isReset {c : Instr} (h : isReset c = true) : exec c s = s.at c fun s => .next (resetOf s c) := by
  cases c
  case porAssert => exact exec_porAssert
  case porRelease => exact exec_porRelease
  case warmReset => exact exec_warmReset
  case thermalTrip => exact exec_thermalTrip
  all_goals cases h

/-- What a command that answers leaves: the change of a reset or the trip, else a changed block. -/
theorem exec_next {c : Instr} {t : State} (h : exec c s = .next t) :
    Named s c ∧ ((isReset c = true ∧ t = resetOf s c) ∨ (isReset c = false ∧ ∃ b, t = { s with blk := b })) := by
  cases hc : isReset c with
  | true =>
    rw [exec_of_isReset hc] at h
    obtain ⟨hn, hnext⟩ := at_next h
    injection hnext with ht
    exact ⟨by simpa using hn, .inl ⟨rfl, ht.symm⟩⟩
  | false =>
    obtain ⟨b, hb⟩ := exec_changesBlock s hc
    rw [hb] at h
    obtain ⟨hn, hnext⟩ := at_next h
    injection hnext with ht
    exact ⟨by simpa using hn, .inr ⟨rfl, b, ht.symm⟩⟩

/-- A command at a place that the member lacks faults (R1, R2, R23, R25). -/
theorem exec_unnamed {c : Instr} (h : ¬Named s c) : exec c s = .fault .noSuchUnit := by
  cases hc : isReset c with
  | true => rw [exec_of_isReset hc, at_unnamed h]
  | false =>
    obtain ⟨b, hb⟩ := exec_changesBlock s hc
    rw [hb, at_unnamed h]

theorem exec_named {c : Instr} (h : Named s c) : ∃ t, exec c s = .next t := by
  cases hc : isReset c with
  | true => exact ⟨_, (exec_of_isReset hc).trans (at_named h _)⟩
  | false =>
    obtain ⟨b, hb⟩ := exec_changesBlock s hc
    exact ⟨_, hb.trans (at_named h _)⟩

/-- A reset keeps the queue and the member. -/
theorem resetOf_pending (c : Instr) : (resetOf s c).pending = s.pending := by
  unfold resetOf
  split
  · rfl
  · (repeat' split) <;> rfl
  · (repeat' split) <;> rfl
  · (repeat' split) <;> rfl
  · rfl

theorem trip_keep (b : Blk) : Keep b b.trip := keep_trip (Keep.rfl b)

theorem resetOf_member (c : Instr) : (resetOf s c).blk.member = s.blk.member := by
  unfold resetOf
  split
  · rfl
  · (repeat' split) <;> rfl
  · repeat' split
    · exact (trip_keep _).member
    · rfl
    · rfl
  · repeat' split
    · rfl
    · rfl
    · exact (trip_keep _).member
  · rfl

/-- The release of power-on reset keeps the trip, which the others change. -/
theorem resetOf_trip {c : Instr} (ht : c ≠ .thermalTrip) (ha : c ≠ .porAssert) (hw : c ≠ .warmReset) : (resetOf s c).trip = s.trip := by
  unfold resetOf
  split
  · exact absurd rfl ha
  · exact absurd rfl hw
  · (repeat' split) <;> rfl
  · exact absurd rfl ht
  · rfl

/-- The trip keeps the time and the block as the mc began, which the resets change. -/
theorem resetOf_clk {c : Instr} (ha : c ≠ .porAssert) (hr : c ≠ .porRelease) (hw : c ≠ .warmReset) :
    (resetOf s c).blk.clk = s.blk.clk ∧ (resetOf s c).was = s.was := by
  unfold resetOf
  split
  · exact absurd rfl ha
  · exact absurd rfl hw
  · exact absurd rfl hr
  · repeat' split
    · exact ⟨rfl, rfl⟩
    · exact ⟨rfl, rfl⟩
    · exact ⟨(trip_keep _).clk, rfl⟩
  · exact ⟨rfl, rfl⟩

end Resets

/-- What the frame tick makes of the block, where the mesh runs (R41). -/
theorem exec_frameTick_next {s t : State} (h : exec .frameTick s = .next t) :
    t.blk = s.blk ∨ t.blk = s.blk.frameTick s.was := by
  have hmesh : s.mesh .frameTick (·.frameTick s.was) = .next t := h
  obtain ⟨_, hnext⟩ := at_next hmesh
  split at hnext
  · injection hnext with ht
    exact .inr (by rw [← ht])
  · exact .inl (by rw [next_inj hnext])

theorem exec_member {s t : State} {c : Instr} (h : exec c s = .next t) : t.blk.member = s.blk.member := by
  obtain ⟨_, hc⟩ := exec_next h
  rcases hc with ⟨_, rfl⟩ | ⟨hc, _⟩
  · exact resetOf_member c
  · by_cases hf : c = .frameTick
    · subst hf
      rcases exec_frameTick_next h with ht | ht
      · rw [ht]
      · rw [ht]; exact (keep_frameTick s.blk s.was).member
    · exact (exec_keep h hf (by rintro rfl; cases hc) (by rintro rfl; cases hc) (by rintro rfl; cases hc)).member

/-- Settles O55: every arm of exec is one change behind a test of its place, and all but four of them change only the block. -/
theorem execAnswers : Obligations.ExecAnswers := by
  unfold Obligations.ExecAnswers
  intro s c
  refine ⟨exec_unnamed, fun hn => ?_⟩
  obtain ⟨t, ht⟩ := exec_named hn
  refine ⟨t, ht, ?_⟩
  obtain ⟨_, hc⟩ := exec_next ht
  have hmember := exec_member ht
  rcases hc with ⟨_, rfl⟩ | ⟨_, b, rfl⟩
  · exact ⟨resetOf_pending c, hmember, resetOf_trip, fun _ ha hr hw => (resetOf_clk ha hr hw).1,
      fun ha hr hw => (resetOf_clk ha hr hw).2⟩
  · exact ⟨rfl, hmember, fun _ _ _ => rfl, fun hf ha hr hw => (exec_keep ht hf ha hr hw).clk, fun _ _ _ => rfl⟩

/-! ### The trip latch -/

theorem resetOf_tripLatched {s : State} (h : TripLatched s) (c : Instr) : TripLatched (resetOf s c) := by
  unfold TripLatched at h ⊢
  unfold resetOf
  split
  · exact fun hf => absurd hf (by simp [State.anew])
  · split
    · exact h
    · exact fun hf => absurd hf (by simp [State.anew])
  · (repeat' split) <;> exact h
  · repeat' split
    · exact h
    · exact fun _ => rfl
    · exact fun _ => rfl
  · exact h

theorem exec_tripLatched {s t : State} {c : Instr} (hs : TripLatched s) (h : exec c s = .next t) : TripLatched t := by
  obtain ⟨_, hc⟩ := exec_next h
  rcases hc with ⟨_, rfl⟩ | ⟨_, b, rfl⟩
  · exact resetOf_tripLatched hs c
  · exact hs

theorem idle_tripLatched {s : State} (hs : TripLatched s) : TripLatched (idle s) := by
  unfold idle
  repeat' split
  · exact fun hf => absurd hf (by simp [State.anew])
  · exact hs
  · exact hs

/-- A step is an mc without a command, or the command at the front of the queue on the state with the queue's rest. -/
theorem step_next {s t : State} (h : step s = .next t) :
    t = idle s ∨ ∃ c rest, exec c { s with pending := rest } = .next t := by
  unfold step at h
  split at h
  · exact .inl (next_inj h)
  · exact .inr ⟨_, _, h⟩

/-- Settles O54: a trip sets the latch with it, and only the end of a trip clears the latch. -/
theorem tripLatchKept : Obligations.TripLatchKept := by
  unfold Obligations.TripLatchKept
  intro s t hs hstep
  rcases step_next hstep with rfl | ⟨c, rest, hexec⟩
  · exact idle_tripLatched hs
  · exact exec_tripLatched (s := { s with pending := rest }) hs hexec

/-! ### The byte memories -/

theorem resetOf_memOk {s : State} (h : MemOk s.blk) (c : Instr) : MemOk (resetOf s c).blk := by
  unfold resetOf
  split
  · exact restarted_mem _ _ h
  · split
    · exact h
    · exact restarted_mem _ _ h
  · repeat' split
    · exact (trip_keep _).mem (restarted_mem _ _ h)
    · exact restarted_mem _ _ h
    · exact h
  · repeat' split
    · exact h
    · exact h
    · exact (trip_keep _).mem h
  · exact h

theorem exec_memOk {s t : State} {c : Instr} (hs : MemOk s.blk) (h : exec c s = .next t) : MemOk t.blk := by
  obtain ⟨_, hc⟩ := exec_next h
  rcases hc with ⟨_, rfl⟩ | ⟨hc, _⟩
  · exact resetOf_memOk hs c
  · by_cases hf : c = .frameTick
    · subst hf
      rcases exec_frameTick_next h with ht | ht
      · rw [ht]; exact hs
      · rw [ht]; exact (keep_frameTick s.blk s.was).mem hs
    · exact (exec_keep h hf (by rintro rfl; cases hc) (by rintro rfl; cases hc) (by rintro rfl; cases hc)).mem hs

theorem idleMc_memOk {b : Blk} (h : MemOk b) : MemOk b.idleMc := by
  obtain ⟨b1, hk1, hk2⟩ := idleMc_eq b
  have h1 : MemOk b1 := hk1.mem h
  exact hk2.mem h1

theorem idle_memOk {s : State} (h : MemOk s.blk) : MemOk (idle s).blk := by
  unfold idle
  repeat' split
  · obtain ⟨b1, hk, he⟩ := idleRestart_eq s.blk
    simp only [State.anew, he]
    exact restarted_mem _ _ (hk.mem h)
  · exact idleMc_memOk h
  · have hend : MemOk s.blk.endMc := (keep_endMc (Keep.rfl _)).mem h
    exact hend

/-- Settles O53: each command keeps the memories canonical, and so do an mc without a command, the tick and the resets. -/
theorem memCanonicalKept : Obligations.MemCanonicalKept := by
  unfold Obligations.MemCanonicalKept
  intro s t hs hstep
  rcases step_next hstep with rfl | ⟨c, rest, hexec⟩
  · exact idle_memOk hs
  · exact exec_memOk (s := { s with pending := rest }) hs hexec

end Sys2Proof.StepKeeps
end


section
/-! Reads after writes of SRAM and HBM (R8, R16, R130): runs of different tiles and dies lie apart in the two byte memories. -/
namespace Sys2Proof.MemoryReads
open Sys2Proof Sys2Proof.Machine Sys2Proof.Safety Sys2Proof.Laws

/-! ### A range zeroed -/

/-- A filter on the addresses of a sorted table filters what it lists. -/
theorem get?_filter {α : Type} (t : Tbl α) (lo k : Nat) (p : Nat → Bool) (h : Tbl.sortedFrom lo t = true) :
    Tbl.get? (t.filter fun x => p x.1) k = if p k then Tbl.get? t k else none := by
  induction t generalizing lo with
  | nil => simp [Tbl.get?]
  | cons x t ih =>
    obtain ⟨j, a⟩ := x
    simp only [Tbl.sortedFrom, Bool.and_eq_true] at h
    obtain ⟨_, htail⟩ := h
    have hrest := ih (j + 1) htail
    cases hp : p j with
    | false =>
      rw [List.filter_cons_of_neg (by simp [hp]), hrest]
      by_cases hk : j = k
      · subst hk; simp [hp]
      · by_cases hlt : k < j
        · rw [get?_below t (j + 1) k htail (by omega)]
          simp [Tbl.get?, hk, hlt]
        · simp [Tbl.get?, hk, hlt]
    | true =>
      rw [List.filter_cons_of_pos (by simp [hp]), Tbl.get?, hrest]
      by_cases hk : j = k
      · subst hk; simp [hp, Tbl.get?]
      · by_cases hlt : k < j <;> simp [Tbl.get?, hk, hlt]

theorem byte_zero (m : Mem) (lo len a : Nat) (h : Mem.wf m = true) :
    Mem.byte (Mem.zero m lo len) a = if lo ≤ a ∧ a < lo + len then 0#8 else Mem.byte m a := by
  simp only [Mem.wf, Bool.and_eq_true] at h
  have hget := get?_filter m 0 a (fun x => x < lo || lo + len ≤ x) h.1
  simp only [Mem.byte, Mem.zero, Tbl.getD]
  split
  · rename_i hin
    rw [hget, if_neg (by simp; omega)]
    rfl
  · rename_i hout
    rw [hget, if_pos (by simp; omega)]

theorem read_zero_outside (m : Mem) (lo len a n : Nat) (h : Mem.wf m = true) (ha : a + n ≤ lo ∨ lo + len ≤ a) :
    Mem.read (Mem.zero m lo len) a n = Mem.read m a n := by
  apply List.ext_getElem
  · simp
  · intro i h1 h2
    rw [length_read] at h2
    rw [getElem_read, getElem_read, byte_zero m lo len _ h, if_neg (by omega)]

/-! ### Runs of different places -/

/-- Runs that lie inside places of one size do not meet when the places differ, nor when they lie apart inside one place. -/
theorem runs_apart {size t u a m c n : Nat}
    (h : (u = t ∧ (c + n ≤ a ∨ a + m ≤ c)) ∨ (u ≠ t ∧ a + m ≤ size ∧ c + n ≤ size)) :
    size * u + c + n ≤ size * t + a ∨ size * t + a + m ≤ size * u + c := by
  rcases h with ⟨rfl, h⟩ | ⟨hne, ha, hc⟩
  · omega
  · rcases Nat.lt_or_gt_of_ne hne with hlt | hlt
    · have := Nat.mul_le_mul_left size (Nat.succ_le_of_lt hlt)
      rw [Nat.mul_succ] at this
      omega
    · have := Nat.mul_le_mul_left size (Nat.succ_le_of_lt hlt)
      rw [Nat.mul_succ] at this
      omega

/-- Settles O56: each law is the one of the byte memory at the place's own addresses. -/
theorem memoryLaws : Obligations.MemoryLaws := by
  unfold Obligations.MemoryLaws
  intro b t a xs ⟨hsram, hhbm, hrest⟩
  refine ⟨read_write _ _ _ hsram, read_write _ _ _ hhbm, ⟨wf_write _ _ _ hsram, hhbm, hrest⟩, ⟨hsram, wf_write _ _ _ hhbm, hrest⟩,
    fun n => ⟨wf_zero _ _ _ hsram, hhbm, hrest⟩, fun n i hi => ?_, fun u c n h => ⟨?_, ?_⟩, fun u c n h => ?_,
    fun u c n => ⟨rfl, rfl⟩⟩
  · show [Mem.byte (Mem.zero b.sram (2 ^ 21 * t + a) n) (2 ^ 21 * t + (a + i))] = [0#8]
    rw [byte_zero _ _ _ _ hsram, if_pos (by omega)]
  · exact read_write_outside _ _ _ _ _ hsram (runs_apart h)
  · exact read_zero_outside _ _ _ _ _ hsram (runs_apart h)
  · exact read_write_outside _ _ _ _ _ hhbm (runs_apart h)

end Sys2Proof.MemoryReads
end


section
/-! Resets (R312, R352, R388): the three resets, the trip and the state after reset. -/
namespace Sys2Proof.Resets
open Sys2Proof Sys2Proof.Machine Sys2Proof.Safety Sys2Proof.Laws Sys2Proof.Acts Sys2Proof.StepKeeps

/-- Settles O50: step is defined by the front of the queue. -/
theorem stepRunsFront : Obligations.StepRunsFront := by
  unfold Obligations.StepRunsFront
  intro s c rest
  rfl

/-! ### The resets -/

theorem odFw_recovery {s : State} {c : Instr} {f : Blk → Od} {b : Blk} {a : Nat} (hn : Named s c) (hs : s.blk.fw.stage = .recovery)
    (hf : f s.blk = (b, a)) : s.odFw c .mailbox f = become s (b.answer a) := by
  rw [State.odFw, at_named hn]
  simp [hs, Blk.odDo, hf]

/-- Settles O45: each reset is the change that `resetOf` names. -/
theorem resets : Obligations.Resets := by
  unfold Obligations.Resets
  intro s ch fresh
  refine ⟨fun hn => ?_, fun hn => ⟨fun hheld ht => ?_, fun hheld ht => ?_, fun hheld => ?_⟩,
    fun hn => ⟨fun hheld => ?_, fun hheld => ?_⟩, fun h => ?_⟩
  · exact exec_porAssert.trans (at_named hn _)
  · rw [exec_porRelease, at_named hn]
    simp only [resetOf, if_pos hheld, ht]
    rfl
  · rw [exec_porRelease, at_named hn]
    simp only [resetOf, if_pos hheld, ht]
    rfl
  · rw [exec_porRelease, at_named hn]
    simp only [resetOf, if_neg hheld]
  · rw [exec_warmReset, at_named hn]
    simp only [resetOf, if_neg hheld]
    rfl
  · rw [exec_warmReset, at_named hn]
    simp only [resetOf, if_pos hheld]
  · show execRestart ch s = _
    rcases h with hasked | ⟨hn, hs, rfl⟩
    · exact odFw_answers hasked rfl
    · exact odFw_recovery hn hs rfl

/-! ### The trip -/

theorem get?_mapV {α : Type} (t : Tbl α) (f : Nat → α → α) (k : Nat) : (t.mapV f).get? k = (t.get? k).map (f k) := by
  induction t with
  | nil => rfl
  | cons x t ih =>
    obtain ⟨j, a⟩ := x
    simp only [Tbl.mapV, List.map_cons, Tbl.get?] at ih ⊢
    split
    · next hj =>
      subst hj
      rfl
    · split
      · rfl
      · exact ih

/-- What holds of every changed value, and of the one for a number not listed, holds of every value read. -/
theorem getD_mapV {α : Type} {P : α → Prop} (t : Tbl α) (f : Nat → α → α) (k : Nat) (d : α) (hf : ∀ a, P (f k a)) (hd : P d) :
    P ((t.mapV f).getD k d) := by
  rw [Tbl.getD, get?_mapV]
  cases t.get? k with
  | none => exact hd
  | some a => exact hf a

/-- A tripped block keeps no oasis and no weights (R312). -/
theorem trip_tile (b : Blk) (i : Nat) : (b.trip.tile i).oases = [] ∧ (b.trip.tile i).weights = none :=
  getD_mapV (P := fun x : Tile => x.oases = [] ∧ x.weights = none) _ (fun _ x => { x with oases := [], weights := none }) i Tile.fresh
    (fun _ => ⟨rfl, rfl⟩) ⟨rfl, rfl⟩

/-- Settles O36: the trip is the change that `resetOf` names, and `Blk.trip` says what it takes away. -/
theorem thermalTrip : Obligations.ThermalTrip := by
  unfold Obligations.ThermalTrip
  intro s hn
  refine ⟨fun ht => ?_, fun ht hheld => ?_, fun ht hheld => ⟨{ s with trip := { tripped := true, latch := true }, blk := s.blk.trip },
    ?_, rfl, rfl, rfl, rfl, rfl, rfl, rfl, rfl, (trip_keep s.blk).clk, trip_tile s.blk, rfl⟩⟩
  · rw [exec_thermalTrip, at_named hn]
    simp only [resetOf, ht, if_true]
  · rw [exec_thermalTrip, at_named hn]
    simp only [resetOf, ht, if_pos hheld]
    rfl
  · rw [exec_thermalTrip, at_named hn]
    simp only [resetOf, ht, if_neg hheld]
    rfl

/-! ### The state after reset -/

theorem read_nil (a n : Nat) : Mem.read [] a n = List.replicate n 0#8 := by
  induction n generalizing a with
  | zero => rfl
  | succ n ih => rw [Mem.read, ih, List.replicate_succ]; rfl

/-- Lane n of a port starts on channel n (R248). -/
theorem laneMap_fresh : ∀ n, n < 4 → OptPort.fresh.laneMap.toNat / 8 ^ n % 8 = n := by decide

theorem plot_reset_other {p : Nat} (hp : p ≠ 0) : State.reset.blk.plot p = Plot.fresh := by
  show Tbl.getD [(0, Plot.system)] p Plot.fresh = Plot.fresh
  simp [Tbl.getD, Tbl.get?, hp.symm]

/-- Settles O52: a table of the reset state lists nothing, so each unit reads as its reset value. -/
theorem resetState : Obligations.ResetState := by
  unfold Obligations.ResetState
  refine ⟨rfl, rfl, fun h => h, ⟨rfl, rfl, ⟨rfl, rfl, rfl⟩, rfl, rfl⟩, rfl, rfl, rfl, rfl, rfl, rfl, rfl, rfl, rfl, rfl, rfl, rfl, rfl,
    fun p => ⟨rfl, laneMap_fresh⟩, rfl, rfl, rfl, rfl, rfl, rfl, fun p hp => ?_, fun p => ⟨rfl, rfl⟩, fun r => rfl, fun t k => rfl,
    fun t a n => read_nil _ _⟩
  rw [plot_reset_other hp]
  rfl

end Sys2Proof.Resets
end


section
/-! Time (R41, R352): the step without a command and the frame tick. -/
namespace Sys2Proof.Idle
open Sys2Proof Sys2Proof.Machine Sys2Proof.Safety Sys2Proof.Laws Sys2Proof.Acts Sys2Proof.StepKeeps Sys2Proof.Resets

/-! ### One mc without a command -/

theorem each_induction {α : Type} {P : Blk → Prop} {b : Blk} (l : List α) (f : Blk → α → Blk) (h : P b) (hf : ∀ b x, P b → P (f b x)) :
    P (b.each l f) := by
  induction l generalizing b with
  | nil => exact h
  | cons x l ih => exact ih (hf b x h)

/-- Nothing of the planes, the plots, the stacks or the vault has changed. -/
structure Quiet (b0 b : Blk) : Prop where
  sram : b.sram = b0.sram
  hbm : b.hbm = b0.hbm
  plots : b.plots = b0.plots
  sown : b.sown = b0.sown
  optics : b.optics = b0.optics
  vault : b.vault = b0.vault

theorem Quiet.refl (b : Blk) : Quiet b b := ⟨rfl, rfl, rfl, rfl, rfl, rfl⟩

theorem Quiet.trans {a b c : Blk} (h : Quiet a b) (k : Quiet b c) : Quiet a c :=
  ⟨k.sram.trans h.sram, k.hbm.trans h.hbm, k.plots.trans h.plots, k.sown.trans h.sown, k.optics.trans h.optics, k.vault.trans h.vault⟩

/-- The notes of an mc are events alone: nothing was put off to its end. -/
def OnlyEvents (b : Blk) : Prop := ∀ n ∈ b.mcLog, ∃ sys e, n = .event sys e

theorem noteActs_event (b : Blk) (sys : Bool) (e : Event) : b.noteActs (.event sys e) = b := rfl

theorem each_noteActs_of_onlyEvents {l : List McNote} (h : ∀ n ∈ l, ∃ sys e, n = .event sys e) (b : Blk) :
    b.each l (fun b n => b.noteActs n) = b := by
  induction l with
  | nil => rfl
  | cons n l ih =>
    obtain ⟨sys, e, rfl⟩ := h n (List.mem_cons_self ..)
    exact ih fun m hm => h m (List.mem_cons_of_mem _ hm)

theorem endMc_of_onlyEvents {b : Blk} (h : OnlyEvents b) : b.endMc = b.postEvents := by
  rw [Blk.endMc, each_noteActs_of_onlyEvents h]

theorem endMc_of_silent {b : Blk} (h : b.mcLog = []) : b.endMc = b := by
  have hevents : b.mcEvents = [] := by simp [Blk.mcEvents, h]
  rw [endMc_of_onlyEvents (by simp [OnlyEvents, h]), Blk.postEvents, hevents]
  rfl

section Posting
variable {b : Blk}

theorem ringIrq_quiet (r : Nat) : Quiet b (b.ringIrq r) := by
  unfold Blk.ringIrq
  dsimp only
  (repeat' split) <;> exact ⟨rfl, rfl, rfl, rfl, rfl, rfl⟩

theorem writeHost_quiet (a : Nat) (xs : Bytes) : Quiet b (b.writeHost a xs) := ⟨rfl, rfl, rfl, rfl, rfl, rfl⟩

theorem modRing_quiet (r : Nat) (f : Ring → Ring) : Quiet b (b.modRing r f) := ⟨rfl, rfl, rfl, rfl, rfl, rfl⟩

theorem countSys_quiet (e : Nat) : Quiet b (b.countSys e) := ⟨rfl, rfl, rfl, rfl, rfl, rfl⟩

theorem note_quiet (n : McNote) : Quiet b (b.note n) := ⟨rfl, rfl, rfl, rfl, rfl, rfl⟩

theorem ringWrite_quiet (r : Nat) (e : Event) : Quiet b (b.ringWrite r e) := by
  unfold Blk.ringWrite
  exact ((writeHost_quiet _ _).trans (modRing_quiet r _)).trans (ringIrq_quiet r)

theorem ringOverflow_quiet (r : Nat) : Quiet b (b.ringOverflow r) := by
  unfold Blk.ringOverflow
  dsimp only
  split
  · exact Quiet.refl b
  · exact (modRing_quiet r _).trans (ringWrite_quiet r _)

theorem ringPost_quiet (r : Nat) (e : Event) : Quiet b (b.ringPost r e) := by
  unfold Blk.ringPost
  dsimp only
  repeat' split
  · exact countSys_quiet _
  · exact (modRing_quiet r _).trans (note_quiet _)
  · exact ringWrite_quiet r e

theorem postSystem_quiet (e : Event) : Quiet b (b.postSystem e) := by
  unfold Blk.postSystem
  repeat' split
  · exact ⟨rfl, rfl, rfl, rfl, rfl, rfl⟩
  · exact ⟨rfl, rfl, rfl, rfl, rfl, rfl⟩
  · exact ringPost_quiet 0 e
  · exact countSys_quiet _

theorem post_quiet (sys : Bool) (e : Event) : Quiet b (b.post sys e) := by
  unfold Blk.post
  split
  · exact postSystem_quiet e
  · split
    · exact ringPost_quiet _ e
    · exact countSys_quiet _

theorem postEvents_quiet : Quiet b b.postEvents :=
  each_induction (P := Quiet b) _ _ (Quiet.refl b) fun _ _ h => h.trans (post_quiet _ _)

theorem nextMc_quiet : Quiet b b.nextMc :=
  each_induction (P := Quiet b) (b := { b.forget with clk := b.clk.advance b.frameLen }) _ _ ⟨rfl, rfl, rfl, rfl, rfl, rfl⟩
    fun _ _ h => h.trans (ringOverflow_quiet _)

end Posting

section Counting
variable {b : Blk}

/-- A change that is quiet and notes nothing but events. -/
def Calm (b0 b : Blk) : Prop := Quiet b0 b ∧ (OnlyEvents b0 → OnlyEvents b)

theorem Calm.refl (b : Blk) : Calm b b := ⟨Quiet.refl b, id⟩

theorem Calm.trans {a b c : Blk} (h : Calm a b) (k : Calm b c) : Calm a c := ⟨h.1.trans k.1, fun e => k.2 (h.2 e)⟩

theorem countMc_calm : Calm b b.countMc := by
  unfold Blk.countMc
  have hpaced : Calm b b.countPaced := by
    refine each_induction (P := Calm b) _ _ (Calm.refl b) fun c d h => ?_
    split
    · exact h
    · exact h.trans ⟨⟨rfl, rfl, rfl, rfl, rfl, rfl⟩, id⟩
  have hrun : Calm b { b.countPaced with tiles := b.countPaced.tiles.mapV fun _ x => x.countRun } :=
    hpaced.trans ⟨⟨rfl, rfl, rfl, rfl, rfl, rfl⟩, id⟩
  dsimp only
  split
  · exact hrun
  · exact each_induction (P := Calm b) _ _ hrun fun c p h => h.trans ⟨⟨rfl, rfl, rfl, rfl, rfl, rfl⟩, id⟩

theorem raiseS_calm (type plot d0 d1 d2 d3 : Nat) : Calm b (b.raiseS type plot none d0 d1 d2 d3) := by
  refine ⟨⟨rfl, rfl, rfl, rfl, rfl, rfl⟩, fun h n hn => ?_⟩
  have hlog : (b.raiseS type plot none d0 d1 d2 d3).mcLog = b.mcLog ++ [.event true (b.event type plot none d0 d1 d2 d3)] := rfl
  rw [hlog, List.mem_append] at hn
  rcases hn with hn | hn
  · exact h n hn
  · exact ⟨_, _, List.mem_singleton.mp hn⟩

theorem compact_calm : Calm b b.compact := by
  unfold Blk.compact
  dsimp only
  split
  · split
    · exact Calm.refl b
    · exact (raiseS_calm 0x77 0 0 0 0 0).trans ⟨⟨rfl, rfl, rfl, rfl, rfl, rfl⟩, id⟩
  · split
    · split
      · exact ⟨⟨rfl, rfl, rfl, rfl, rfl, rfl⟩, id⟩
      · exact (raiseS_calm 0x76 0 _ 90000 0 0).trans ⟨⟨rfl, rfl, rfl, rfl, rfl, rfl⟩, id⟩
    · exact ⟨⟨rfl, rfl, rfl, rfl, rfl, rfl⟩, id⟩

theorem store_calm {key : Nat} {data : Bytes} {b' : Blk} (h : b.store key data = some b') : Calm b b' := by
  have hroom : Calm b (if b.fw.full then b.compact else b) := by
    split
    · exact compact_calm
    · exact Calm.refl b
  unfold Blk.store at h
  revert h
  generalize (if b.fw.full = true then b.compact else b) = c at hroom ⊢
  intro h
  split at h
  · cases h
  · dsimp only at h
    split at h
    · cases h
    · injection h with h
      subst h
      exact hroom.trans ⟨⟨rfl, rfl, rfl, rfl, rfl, rfl⟩, id⟩

theorem replayJournal_calm : Calm b b.replayJournal := by
  unfold Blk.replayJournal
  split
  · exact Calm.refl b
  · split
    · exact ⟨⟨rfl, rfl, rfl, rfl, rfl, rfl⟩, id⟩
    · dsimp only
      split
      · rename_i hstore
        exact (store_calm hstore).trans ⟨⟨rfl, rfl, rfl, rfl, rfl, rfl⟩, id⟩
      · exact Calm.refl b

end Counting

/-- The journal is replayed by the running microcode alone (R283). -/
def replayed (s : State) (b : Blk) : Blk := if s.blk.fw.stage = .done then b.replayJournal else b

theorem replayed_calm (s : State) (b : Blk) : Calm b (replayed s b) := by
  unfold replayed
  split
  · exact replayJournal_calm
  · exact Calm.refl b

theorem replayed_keep (s : State) {b0 b : Blk} (h : Keep b0 b) : Keep b0 (replayed s b) := by
  unfold replayed
  split
  · exact keep_replayJournal h
  · exact h

theorem replayed_without_journal {s : State} (h : s.blk.fw.keyJournal = false) : replayed s s.blk = s.blk := by
  unfold replayed Blk.replayJournal
  simp [h]

theorem step_idle {s : State} (h : s.pending = []) : step s = .next (idle s) := by
  unfold step
  rw [h]

theorem countMc_fw (b : Blk) : b.countMc.fw = b.fw := by
  have hpaced : b.countPaced.fw = b.fw := by
    refine each_induction (P := fun c => c.fw = b.fw) _ _ rfl fun c d h => ?_
    split
    · exact h
    · exact h
  unfold Blk.countMc
  dsimp only
  split
  · exact hpaced
  · exact each_induction (P := fun c => c.fw = b.fw) (b := { b.countPaced with tiles := _ }) _ _ hpaced fun c p h => h

/-- One mc of a running block, from what the mc counted (log 12). -/
theorem idleMc_eq_replayed (s : State) : s.blk.idleMc = (replayed s s.blk.countMc).endMc.nextMc := by
  unfold Blk.idleMc replayed
  dsimp only
  rw [countMc_fw]

/-- The warm reset of an accepted RESTART, from the block it finds (R361). -/
theorem idleRestart_eq_after (s : State) :
    s.blk.idleRestart = Blk.after s.blk.member s.blk.meshKhz (s.blk.vault.seeds + 1) ((replayed s s.blk).fw.restarted (.stage 1))
      (replayed s s.blk).postEvents.host.mem := by
  obtain ⟨hmember, -, hkhz, -⟩ := replayed_keep s (Keep.rfl s.blk)
  calc s.blk.idleRestart
      = Blk.after (replayed s s.blk).member (replayed s s.blk).meshKhz ((replayed s s.blk).vault.seeds + 1)
          ((replayed s s.blk).fw.restarted (.stage 1)) (replayed s s.blk).postEvents.host.mem := rfl
    _ = _ := by rw [hmember, hkhz, (replayed_calm s s.blk).1.vault]

/-- A silent mc ends with what it counted posted, and changes nothing else. -/
theorem idleMc_quiet {s : State} (h : s.blk.mcLog = []) : Quiet s.blk s.blk.idleMc := by
  have hcalm : Calm s.blk (replayed s s.blk.countMc) := countMc_calm.trans (replayed_calm s _)
  rw [idleMc_eq_replayed, endMc_of_onlyEvents (hcalm.2 (by simp [OnlyEvents, h]))]
  exact (hcalm.1.trans postEvents_quiet).trans nextMc_quiet

section SwapAsItStands
variable {b : Blk}

theorem modPort_sown (p : Nat) (f : Port → Port) : (b.modPort p f).sown = b.sown := rfl
theorem modEgQueue_sown (p q : Nat) (f : EgQueue → EgQueue) : (b.modEgQueue p q f).sown = b.sown := rfl
theorem portDrop_sown (p reason plot : Nat) : (b.portDrop p reason plot).sown = b.sown := rfl
theorem pause_sown : b.pause.sown = b.sown := rfl
theorem unsuspect_sown (m : Nat) : (b.unsuspect m).sown = b.sown := rfl

theorem portTo_sown (p : Nat) (x : PortState) : (b.portTo p x).sown = b.sown := by
  unfold Blk.portTo
  dsimp only
  repeat' split
  · rfl
  · exact each_induction (P := fun c => c.sown = b.sown) _ _ rfl fun _ _ h => h
  · rfl

theorem portDrain_sown (p : Nat) : (b.portDrain p).sown = b.sown := by
  unfold Blk.portDrain
  split
  · exact portTo_sown p _
  · rfl

theorem discard_sown (p reason : Nat) (test : Nat → EgDfp → Bool) : (b.discard p reason test).sown = b.sown := by
  unfold Blk.discard
  refine each_induction (P := fun c => c.sown = b.sown) _ _ rfl fun c x h => ?_
  exact each_induction (P := fun c => c.sown = b.sown) _ _ h fun _ _ h => h

theorem pressActs_sown (p : Nat) : (b.pressActs p).sown = b.sown := by
  unfold Blk.pressActs
  split
  · rfl
  · split
    · exact portDrain_sown p
    · split
      · exact portTo_sown p _
      · rfl
    · rfl

theorem expiryActs_sown (p : Nat) : (b.expiryActs p).sown = b.sown := by
  unfold Blk.expiryActs
  split
  · exact (portTo_sown p _).trans (discard_sown p _ _)
  · rfl

theorem rdActs_sown (t q v : Nat) : (b.rdActs t q v).sown = b.sown := by
  unfold Blk.rdActs Blk.rdTo
  split
  · exact each_induction (P := fun c => c.sown = b.sown) _ _ rfl fun _ _ h => h
  · rfl

theorem abandonActs_sown (t i : Nat) : (b.abandonActs t i).sown = b.sown := by
  unfold Blk.abandonActs
  split
  · rfl
  · split
    · rfl
    · rfl

theorem noteActs_sown (n : McNote) : (b.noteActs n).sown = b.sown := by
  cases n with
  | press p => exact pressActs_sown p
  | expiry p => exact expiryActs_sown p
  | rd t q v => exact rdActs_sown t q v
  | abandon t i => exact abandonActs_sown t i
  | _ => rfl

theorem endMc_sown : b.endMc.sown = b.sown :=
  postEvents_quiet.sown.trans (each_induction (P := fun c => c.sown = b.sown) _ _ rfl fun _ n h => (noteActs_sown n).trans h)

end SwapAsItStands

/-- The end of an mc finds the clock and the frame length as the mc began. -/
theorem idleMc_clk (s : State) : s.blk.idleMc.clk = s.blk.clk.advance s.blk.frameLen := by
  have hcalm : Calm s.blk (replayed s s.blk.countMc) := countMc_calm.trans (replayed_calm s _)
  have hsown : (replayed s s.blk.countMc).endMc.sown = s.blk.sown := endMc_sown.trans hcalm.1.sown
  have hkeep : Keep s.blk (replayed s s.blk.countMc).endMc :=
    keep_endMc (replayed_keep s (keep_countMc (Keep.rfl s.blk)))
  rw [idleMc_eq_replayed, (keep_nextMc _).clk]
  show (replayed s s.blk.countMc).endMc.clk.advance (8 * (replayed s s.blk.countMc).endMc.sown.active.slots) = _
  rw [hsown, hkeep.clk]
  rfl

theorem idleMc_member (s : State) : s.blk.idleMc.member = s.blk.member := by
  have hkeep : Keep s.blk (replayed s s.blk.countMc).endMc :=
    keep_endMc (replayed_keep s (keep_countMc (Keep.rfl s.blk)))
  rw [idleMc_eq_replayed, (keep_nextMc _).member]
  exact hkeep.member

/-- Settles O51: an mc without a command is `idle`, and each of its parts leaves what it does not name. -/
theorem time : Obligations.Time := by
  unfold Obligations.Time
  intro s acts replayed'
  have hmc : (acts (replayed' s.blk.countMc)).nextMc = s.blk.idleMc := (idleMc_eq_replayed s).symm
  refine ⟨fun hp hd hl => ⟨?_, fun hlog => ?_⟩, fun hp hd hl => ?_, fun hp hd => ⟨?_, rfl, rfl, replayed_without_journal⟩, fun hr => ?_⟩
  · rw [step_idle hp, idle, if_neg (by simp [hd]), if_neg (by simp [hl])]
    rfl
  · have hend : acts s.blk = s.blk := endMc_of_silent hlog
    rw [hend]
    exact ⟨rfl, rfl, rfl⟩
  · intro b
    have hb : b = s.blk.idleMc := hmc
    rw [hb]
    refine ⟨?_, idleMc_clk s, idleMc_member s, fun hlog => ?_⟩
    · rw [step_idle hp, idle, if_neg (by simp [hd]), if_pos hl]
    · obtain ⟨hsram, hhbm, hplots, hsown, hoptics, -⟩ := idleMc_quiet hlog
      exact ⟨hsram, hhbm, hplots, hsown, hoptics⟩
  · rw [step_idle hp, idle, if_pos hd, idleRestart_eq_after, State.anew, hp]
    rfl
  · have hkeep := keep_frameTick s.blk s.was
    refine ⟨s.blk.frameTick s.was, ?_, ?_⟩
    · show execFrameTick s = _
      exact mesh_becomes hr rfl
    · rw [hkeep.clk, hkeep.member]
      exact ⟨rfl, rfl, rfl, rfl, rfl⟩

end Sys2Proof.Idle
end


section
/-! Commands of the mover, the reducer, the array and the queue engine that start and pass their checks (R106–R109). -/
namespace Sys2Proof.EngineCommands
open Sys2Proof Sys2Proof.Machine Sys2Proof.Safety Sys2Proof.Laws Sys2Proof.Acts

/-! ### Checks in sequence -/

theorem must_ok {p : Bool} (st : Nat) (d : Nat) (h : p = true) : must p st d = .ok () := by rw [must, if_pos h]

theorem ok_bind {α β : Type} (a : α) (f : α → Chk β) : (Except.ok a >>= f : Chk β) = f a := rfl

theorem error_bind {α β : Type} (e : Nat × Nat) (f : α → Chk β) : (Except.error e >>= f : Chk β) = .error e := rfl

section
variable {s : State} {b b1 b2 b' : Blk} {t e op a d : Nat} {x : Sheaf} {f : Blk → Sheaf → Blk × Ran}

theorem ranOf_ok (r : Blk × Ran) : b.ranOf (.ok r) = r := rfl

theorem ranOf_error (k : Nat × Nat) : b.ranOf (.error k) = (b, .fin k.1 k.2) := rfl

theorem toTile_inPlot {r : Chk (Blk × Ran)} (h : b.inPlot x.plot (kOpa x.cmd % 1024) = true) : b.toTile t x r = b.ranOf r :=
  if_pos h

theorem unpinned_ok (h : (b.tile t).pinned = false) : b.unpinned t = .ok () := must_ok _ _ (by rw [h]; rfl)

/-- An engine with a sheaf of its own to start does not look at what it has borrowed (R122). -/
theorem runOrSteal_own (h : s.blk.nextStart t e = some x) : s.blk.runOrSteal t e op f = s.blk.run t e op f := by
  simp [Blk.runOrSteal, h]

theorem runOrSteal_fin {st dt : Nat} (h : Starts s t e op x) (hf : f (s.blk.started t x) x = (b, .fin st dt)) :
    s.blk.runOrSteal t e op f = ends b t e x st dt := (runOrSteal_own h.1).trans (run_fin h hf)

/-- An operand with a word that ECC cannot correct ends its command with MEM (R130). -/
theorem operand_mem {n : Nat} {w : Nat × Bool} (h : (b.sramErrors t a n).find? (fun y => y.2) = some w) :
    b.operand t a n = .error (stMem, w.1 % 2 ^ 18 / 8 * 64) := by
  simp [Blk.operand, Blk.eccRead, h, Except.map]

theorem sramAt_aligned {base o n k : Nat} (h : b.sramAt t base o n k = .ok a) : a % k = 0 := by
  unfold Blk.sramAt sramOp at h
  dsimp only at h
  split at h
  · cases h
  · rename_i a' hop
    split at h
    · cases h
    · cases h
      split at hop
      · rename_i hfit
        cases hop
        simp only [Bool.and_eq_true, decide_eq_true_eq] at hfit
        exact hfit.2
      · cases hop

/-- No word is read for no bytes. -/
theorem operand_nothing (h : a % 64 = 0) : b.operand t a 0 = .ok ([], b) := by
  have hnone : b.sramErrors t a 0 = [] := by
    refine List.filter_eq_nil_iff.mpr fun w _ => ?_
    have hceil : ceilDiv (a + 0) 8 = a / 8 := by
      unfold ceilDiv
      omega
    rw [hceil]
    simp
  rw [Blk.operand, hnone]
  rfl

/-! ### The mover -/

theorem runCopy_copies (hn : 1 ≤ kLen x.cmd ∧ kLen x.cmd ≤ sramBytes)
    (ha : b.sramAt t x.base (kOpa x.cmd) (kLen x.cmd) 1 = .ok a) (hd : b.sramAt t x.base (kOpb x.cmd) (kLen x.cmd) 1 = .ok d)
    (hov : a + kLen x.cmd ≤ d ∨ d + kLen x.cmd ≤ a) (hr : Reads b t a (kLen x.cmd) b') :
    runCopy t b x = (b'.writeSram t d (b.readSram t a (kLen x.cmd)), .fin stOk 0) := by
  simp [runCopy, must_ok, ok_bind, ranOf_ok, hn, ha, hd, hov, hr]

theorem runCopy_mem {w : Nat × Bool} (hn : 1 ≤ kLen x.cmd ∧ kLen x.cmd ≤ sramBytes)
    (ha : b.sramAt t x.base (kOpa x.cmd) (kLen x.cmd) 1 = .ok a) (hd : b.sramAt t x.base (kOpb x.cmd) (kLen x.cmd) 1 = .ok d)
    (hov : a + kLen x.cmd ≤ d ∨ d + kLen x.cmd ≤ a) (hw : (b.sramErrors t a (kLen x.cmd)).find? (fun y => y.2) = some w) :
    runCopy t b x = (b, .fin stMem (w.1 % 2 ^ 18 / 8 * 64)) := by
  simp [runCopy, must_ok, ok_bind, error_bind, ranOf_error, hn, ha, hd, hov, operand_mem hw]

theorem runFill_fills (hn : kLen x.cmd % 4 = 0) (hd : b.sramAt t x.base (kOpb x.cmd) (kLen x.cmd) 1 = .ok d) :
    runFill t b x = (b.writeSram t d ((List.range (kLen x.cmd / 4)).flatMap fun _ => toBytes 4 (kArg x.cmd)), .fin stOk 0) := by
  simp [runFill, must_ok, ok_bind, ranOf_ok, hn, hd]

theorem runTransfer_reads (hw : isWriteOp (kOp x.cmd) = false) (hn : kLen x.cmd % 64 = 0 ∧ kLen x.cmd ≤ 1048576)
    (ha : b.sramAt t x.base (kOpa x.cmd) (kLen x.cmd) 64 = .ok a)
    (hin : (if toHost (kOp x.cmd) then b.inHost x.plot (kOpc x.cmd) (kLen x.cmd) else b.inHbm x.plot (kOpc x.cmd) (kLen x.cmd)) = true) :
    runTransfer t b x = (b, .issue (b.moveParts x).length) := by
  simp [runTransfer, must_ok, ok_bind, ranOf_ok, hn, ha, hin, hw, operand_nothing (sramAt_aligned ha)]

theorem runTransfer_writes (hw : isWriteOp (kOp x.cmd) = true) (hn : kLen x.cmd % 64 = 0 ∧ kLen x.cmd ≤ 1048576)
    (ha : b.sramAt t x.base (kOpa x.cmd) (kLen x.cmd) 64 = .ok a)
    (hin : (if toHost (kOp x.cmd) then b.inHost x.plot (kOpc x.cmd) (kLen x.cmd) else b.inHbm x.plot (kOpc x.cmd) (kLen x.cmd)) = true)
    (hr : Reads b t a (kLen x.cmd) b') : runTransfer t b x = (b', .issue (b'.moveParts x).length) := by
  simp [runTransfer, must_ok, ok_bind, ranOf_ok, hn, ha, hin, hw, hr]

theorem moveParts_hbm (h : toHost (kOp x.cmd) = false) :
    b.moveParts x = b.hbmParts x.plot (kLen x.cmd / 64) (kOpc x.cmd) (kLen x.cmd / 64) := by simp [Blk.moveParts, h]

theorem moveParts_host (h : toHost (kOp x.cmd) = true) :
    b.moveParts x = hostParts (kLen x.cmd / 64) (kOpc x.cmd) (kLen x.cmd / 64) := by simp [Blk.moveParts, h]

theorem runHbmStream_issues (hdst : b.member.isHbmTile (kOpb x.cmd % 1024) = true ∨
      (b.owns x.plot (kOpb x.cmd % 1024) = true ∧ b.member.hasTile (kOpb x.cmd % 1024) = true))
    (hn : 1 ≤ kLen x.cmd ∧ kLen x.cmd ≤ 16777216) (hin : b.inHbm x.plot (kOpc x.cmd) (kLen x.cmd * 64) = true) :
    runHbmStream t b x = (b, .issue 1) := by
  have htest : (b.member.isHbmTile (kOpb x.cmd % 1024) || (b.owns x.plot (kOpb x.cmd % 1024) && b.member.hasTile (kOpb x.cmd % 1024))) =
      true := by
    rcases hdst with h | ⟨ho, ht⟩
    · rw [h, Bool.true_or]
    · rw [ho, ht, Bool.and_true, Bool.or_true]
  simp [runHbmStream, htest, must_ok, ok_bind, ranOf_ok, hn, hin]

theorem runSow_fills {desc : BitVec 128} (ha : b.sramAt t x.base (kOpb x.cmd) (kLen x.cmd * 64) 64 = .ok a)
    (hd : b.injectSram t x.plot (kFurrow x.cmd) = .ok desc) (hcells : kXopt x.cmd + kLen x.cmd ≤ dCells desc)
    (hfill : (b.staging (stageKey t x.plot (kFurrow x.cmd) false)).filled + kLen x.cmd ≤ dCells desc)
    (hr : Reads b t a (kLen x.cmd * 64) b') :
    runSow t b x = ((b'.writeSram t
        ((fillBuf desc (b.staging (stageKey t x.plot (kFurrow x.cmd) false)) + kXopt x.cmd) * 64)
        (b.readSram t a (kLen x.cmd * 64))).setStaging (stageKey t x.plot (kFurrow x.cmd) false)
      { b.staging (stageKey t x.plot (kFurrow x.cmd) false) with
        filled := (b.staging (stageKey t x.plot (kFurrow x.cmd) false)).filled + kLen x.cmd }, .fin stOk 0) := by
  simp [runSow, must_ok, ok_bind, ranOf_ok, ha, hd, hcells, hfill, hr]

theorem runReap_copies {xs : Bytes} {st dt : Nat} (hd : b.sramAt t x.base (kOpb x.cmd) (kLen x.cmd * 64) 64 = .ok d)
    (hin : b.sownInput t x.plot x.cmd (kLen x.cmd) = .ok ((xs, b'), st, dt)) :
    runReap t b x = (b'.writeSram t d xs, .fin st dt) := by
  simp [runReap, ok_bind, ranOf_ok, hd, hin]

theorem runEmit_emits {ha p : Nat} (hn : 1 ≤ kLen x.cmd ∧ kLen x.cmd ≤ 64)
    (hca : b.sramAt t x.base (kOpa x.cmd) (kLen x.cmd * 64) 64 = .ok a) (hha : b.sramAt t x.base (kOpb x.cmd) 32 64 = .ok ha)
    (hrh : Reads b t ha 32 b1)
    (hp : b1.emitPort t x.plot (fKey (BitVec.ofNat 256 (ofBytes (b.readSram t ha 32)))) (kXopt x.cmd % 2 = 1) = .ok p)
    (hrc : Reads b1 t a (kLen x.cmd * 64) b') :
    runEmit t b x = (b'.emitDfp t x.plot p (kXopt x.cmd % 2 = 1)
      (setFld (BitVec.ofNat 256 (ofBytes (b.readSram t ha 32))) 40 6 (kLen x.cmd - 1))
      ((List.range (kLen x.cmd)).map fun i => ((b1.readSram t a (kLen x.cmd * 64)).drop (64 * i)).take 64), .fin stOk 0) := by
  simp [runEmit, must_ok, ok_bind, ranOf_ok, hn, hca, hha, hrh, hp, hrc]

/-! ### The reducer -/

theorem runOasis_reserves {wide : Bool} (hw : kXopt x.cmd % 2 = 1 ↔ wide = true)
    (hn : 1 ≤ kLen x.cmd ∧ kLen x.cmd ≤ (if wide then 4096 else 16384)) (hfree : (b.tile t).oases.get? (kOpa x.cmd % 64) = none)
    (hroom : (b.tile t).roomUsed + oasisRoom wide (kLen x.cmd) ≤ 16384) :
    runOasis t b x = (({ b with ecc := b.ecc.freshOasis t (kOpa x.cmd % 64) } : Blk).modTile t fun y => { y with
      oases := y.oases.put (kOpa x.cmd % 64) { wide := wide, size := kLen x.cmd, grid := .none, entries := [] } }, .fin stOk 0) := by
  simp [runOasis, must_ok, ok_bind, ranOf_ok, hw, hn, hfree, hroom]

theorem runRelease_frees {o : Oasis} (ho : (b.tile t).oases.get? (kOpa x.cmd % 64) = some o)
    (hlent : ((b.tile t).sheaves 1).any (fun y => y.state = .lent && addsInto (kOpa x.cmd % 64) y) = false) :
    runRelease t b x = (b.modTile t fun y => { y with oases := y.oases.del (kOpa x.cmd % 64) }, .fin stOk 0) := by
  simp only [runRelease, ho, Option.isSome_some, must_ok, ok_bind, hlent, Bool.false_eq_true, if_false, ranOf_ok]

section
variable {o : Oasis} (hfmt : fmtOk (kInFmt x.cmd) = true) (hlen : lenOk (kInFmt x.cmd) (kLen x.cmd) = true)
  (hrun : b1.fraOperand t (kOasis x.cmd) (kFirst x.cmd) (kLen x.cmd) = .ok b2)
include hfmt hlen hrun

/-- The addends are the operand's values, which reduce.scale.add alone scales (R107). -/
theorem runAdd_adds (ha : b.sramAt t x.base (kOpa x.cmd) (runBytes (kInFmt x.cmd) (kLen x.cmd)) (runAlign (kInFmt x.cmd)) = .ok a)
    (ho : b.oasisOf t x.cmd (·.takes (kInFmt x.cmd)) = .ok o) (hr : Reads b t a (runBytes (kInFmt x.cmd) (kLen x.cmd)) b1) :
    runAdd t b x = (b2.addInto t x.plot (kOasis x.cmd) o (kInFmt x.cmd) (kFirst x.cmd)
      (addends x.cmd (b.readSram t a (runBytes (kInFmt x.cmd) (kLen x.cmd)))), .fin stOk 0) := by
  simp [runAdd, must_ok, ok_bind, ranOf_ok, hfmt, hlen, ha, ho, hr, hrun]

theorem runAddSown_adds {xs : Bytes} {st dt : Nat}
    (hin : b.sownInput t x.plot x.cmd (ceilDiv (runBytes (kInFmt x.cmd) (kLen x.cmd)) 64) = .ok ((xs, b1), st, dt))
    (ho : b1.oasisOf t x.cmd (·.takes (kInFmt x.cmd)) = .ok o) :
    runAddSown t b x = (b2.addInto t x.plot (kOasis x.cmd) o (kInFmt x.cmd) (kFirst x.cmd)
      (decodeRun (kInFmt x.cmd) (kLen x.cmd) xs), .fin st dt) := by
  simp [runAddSown, must_ok, ok_bind, ranOf_ok, hfmt, hlen, hin, ho, hrun]

end

theorem addends_add {xs : Bytes} (h : kOp x.cmd = 0x43) : addends x.cmd xs = decodeRun (kInFmt x.cmd) (kLen x.cmd) xs := by
  simp [addends, h]

theorem addends_scale {xs : Bytes} (h : kOp x.cmd = 0x45) :
    addends x.cmd xs = (decodeRun (kInFmt x.cmd) (kLen x.cmd) xs).map fun v => Val.mul (fpBinary32.decode (kArg x.cmd)) v := by
  simp [addends, h]

theorem runMerge_merges {o : Oasis} (ho : b.oasisOf t x.cmd (fun _ => true) = .ok o)
    (ha : b.sramAt t x.base (kOpa x.cmd) (kLen x.cmd * fraBytes o.wide) 1 = .ok a) (hr : Reads b t a (kLen x.cmd * fraBytes o.wide) b1)
    (hm : b1.mergeInto t x.plot (kOasis x.cmd) o (kFirst x.cmd)
      (wireRun o.wide (kLen x.cmd) (b.readSram t a (kLen x.cmd * fraBytes o.wide))) = .ok b2) :
    runMerge t b x = (b2, .fin stOk 0) := by
  simp [runMerge, ok_bind, ranOf_ok, ho, ha, hr, hm]

theorem runRound_rounds {top : Nat} {o : Oasis} (hfmt : fmtOk (kOutFmt x.cmd) = true)
    (hlen : lenOk (kOutFmt x.cmd) (kLen x.cmd) = true) (hrnd : kRnd x.cmd ≤ top)
    (ha : b.sramAt t x.base (kOpa x.cmd) (runBytes (kOutFmt x.cmd) (kLen x.cmd)) (runAlign (kOutFmt x.cmd)) = .ok a)
    (ho : b.oasisOf t x.cmd (fun _ => true) = .ok o) (hr : b.fraOperand t (kOasis x.cmd) (kFirst x.cmd) (kLen x.cmd) = .ok b') :
    runRound t top b x = (b'.writeRun t x.plot a (encodeRun (kOutFmt x.cmd) (kRnd x.cmd) (srOf (kArg x.cmd) (kOpc x.cmd))
      (o.results (kFirst x.cmd) (kLen x.cmd))), .fin stOk 0) := by
  simp [runRound, must_ok, ok_bind, ranOf_ok, hfmt, hlen, hrnd, ha, ho, hr]

theorem runMap_maps (hok : mapOk x.cmd = true)
    (ha : b.sramAt t x.base (kOpa x.cmd) (runBytes (kInFmt x.cmd) (kLen x.cmd)) (runAlign (kInFmt x.cmd)) = .ok a)
    (hd : b.sramAt t x.base (kOpb x.cmd) (runBytes (kOutFmt x.cmd) (kLen x.cmd)) (runAlign (kOutFmt x.cmd)) = .ok d)
    (hr : Reads b t a (runBytes (kInFmt x.cmd) (kLen x.cmd)) b') :
    runMap t b x = (b'.writeRun t x.plot d (encodeRun (kOutFmt x.cmd) (kRnd x.cmd) (fun _ => 0)
      (mapVals x.cmd (b.readSram t a (runBytes (kInFmt x.cmd) (kLen x.cmd))))), .fin stOk 0) := by
  simp [runMap, must_ok, ok_bind, ranOf_ok, hok, ha, hd, hr]

theorem runCrc_writes (ha : b.sramAt t x.base (kOpa x.cmd) (kLen x.cmd) 1 = .ok a) (hd : b.sramAt t x.base (kOpb x.cmd) 4 4 = .ok d)
    (hr : Reads b t a (kLen x.cmd) b') :
    runCrc t b x = (b'.writeSram t d (toBytes 4 (crc32c (b.readSram t a (kLen x.cmd))).toNat),
      .fin (if kXopt x.cmd % 2 = 1 ∧ (crc32c (b.readSram t a (kLen x.cmd))).toNat ≠ kArg x.cmd then stCrc else stOk) 0) := by
  simp only [runCrc, ok_bind, ranOf_ok, ha, hd, hr, Bool.and_eq_true, decide_eq_true_eq]
  split
  · rfl
  · rfl

/-! ### The array -/

section
variable (hpin : (b.tile t).pinned = false)
include hpin

theorem runLoad_loads (hfmt : arrayFmt (kInFmt x.cmd) = true) (hk : 1 ≤ kLen x.cmd ∧ kLen x.cmd ≤ 16384)
    (hn : 1 ≤ kXopt x.cmd ∧ kXopt x.cmd ≤ 4096) (hfit : weightsFit (kInFmt x.cmd) (kLen x.cmd) (kXopt x.cmd) = true)
    (ha : b.sramAt t x.base (kOpa x.cmd) (weightBytes (kInFmt x.cmd) (kLen x.cmd) (kXopt x.cmd)) (runAlign (kInFmt x.cmd)) = .ok a)
    (hr : Reads b t a (weightBytes (kInFmt x.cmd) (kLen x.cmd) (kXopt x.cmd)) b') :
    runLoad t b x = (b'.modTile t fun y => { y with
      weights := some { k := kLen x.cmd, n := kXopt x.cmd, fmt := kInFmt x.cmd,
                        data := b.readSram t a (weightBytes (kInFmt x.cmd) (kLen x.cmd) (kXopt x.cmd)) } }, .fin stOk 0) := by
  simp [runLoad, must_ok, ok_bind, ranOf_ok, unpinned_ok, hpin, hfmt, hk, hn, hfit, ha, hr]

theorem runMm_scores {w : Weights} (hfmt : arrayFmt (kInFmt x.cmd) = true) (hw : (b.tile t).weights = some w)
    (ha : b.sramAt t x.base (kOpa x.cmd) (kLen x.cmd * runBytes (kInFmt x.cmd) (padK (kInFmt x.cmd) w.k)) (runAlign (kInFmt x.cmd)) =
      .ok a)
    (hd : b.sramAt t x.base (kOpb x.cmd) (kLen x.cmd * w.n * 4) 4 = .ok d)
    (hr : Reads b t a (kLen x.cmd * runBytes (kInFmt x.cmd) (padK (kInFmt x.cmd) w.k)) b') :
    runMm t b x = ((b'.writeSram t d ((List.range (kLen x.cmd)).flatMap fun v =>
        (w.scores (vecOf (kInFmt x.cmd) w.k
          (((b.readSram t a (kLen x.cmd * runBytes (kInFmt x.cmd) (padK (kInFmt x.cmd) w.k))).drop
            (v * runBytes (kInFmt x.cmd) (padK (kInFmt x.cmd) w.k))).take (runBytes (kInFmt x.cmd) (padK (kInFmt x.cmd) w.k))))).flatMap
          fun y => toBytes 4 (scoreBits y))).countN t evMacs (kLen x.cmd * w.k * w.n / 256) (some x.plot), .fin stOk 0) := by
  simp only [runMm, hfmt, must_ok, ok_bind, unpinned_ok hpin, hw, ha, hd, hr, ranOf_ok]

theorem runTopk_writes (hk : 1 ≤ kXopt x.cmd ∧ kXopt x.cmd ≤ 8 ∧ kXopt x.cmd ≤ kLen x.cmd ∧ kLen x.cmd ≤ 4096)
    (ha : b.sramAt t x.base (kOpa x.cmd) (4 * kLen x.cmd) 4 = .ok a) (hd : b.sramAt t x.base (kOpb x.cmd) (8 * kXopt x.cmd) 4 = .ok d)
    (hr : Reads b t a (4 * kLen x.cmd) b') :
    let bits := (List.range (kLen x.cmd)).map (word32 (b.readSram t a (4 * kLen x.cmd)))
    runTopk t b x = (b'.writeSram t d ((topk (kXopt x.cmd) (bits.map fpBinary32.decode)).flatMap fun i =>
      toBytes 4 i ++ toBytes 4 (bits.getD i 0)), .fin stOk 0) := by
  obtain ⟨h1, h8, hle, hmax⟩ := hk
  simp only [runTopk, h1, h8, hle, hmax, decide_true, Bool.and_true, must_ok, ok_bind, unpinned_ok hpin, ha, hd, hr, ranOf_ok]

theorem runGate_writes (hk : 1 ≤ kXopt x.cmd ∧ kXopt x.cmd ≤ 8 ∧ kRnd x.cmd ≤ 3)
    (ha : b.sramAt t x.base (kOpa x.cmd) (8 * kXopt x.cmd) 4 = .ok a) (hd : b.sramAt t x.base (kOpb x.cmd) (4 * kXopt x.cmd) 4 = .ok d)
    (hr : Reads b t a (8 * kXopt x.cmd) b') :
    runGate t b x = (b'.writeSram t d ((gateBits (kRnd x.cmd) ((List.range (kXopt x.cmd)).map fun i =>
      word32 (b.readSram t a (8 * kXopt x.cmd)) (2 * i + 1))).flatMap (toBytes 4)), .fin stOk 0) := by
  obtain ⟨h1, h8, hrnd⟩ := hk
  simp only [runGate, h1, h8, hrnd, decide_true, Bool.and_true, must_ok, ok_bind, unpinned_ok hpin, ha, hd, hr, ranOf_ok]

end

/-! ### The queue engine -/

section
variable (hin : b.inPlot x.plot (kOpa x.cmd % 1024) = true)
include hin

theorem runSend_issues (hop : kXopt x.cmd % 256 = rqHandler ∨ kXopt x.cmd % 256 = rqQueue) (hn : kLen x.cmd ≤ sramBytes)
    (ha : b.sramAt t x.base (kOpb x.cmd) (kLen x.cmd) 1 = .ok a) (hr : Reads b t a (kLen x.cmd) b') :
    runSend t b x = ((b'.modTile t fun y => { y with ms := { y.ms with msgId := (y.ms.msgId + 1) % 65536 } }).modSheaf t 3 x.sid
      fun y => { y with aux := (b'.tile t).ms.msgId }, .issue (max 1 (parts128 (kLen x.cmd)))) := by
  have hlow : ¬0xE0 ≤ kXopt x.cmd % 256 := by
    unfold rqHandler rqQueue at hop
    omega
  have hkind : (decide (kXopt x.cmd % 256 = rqHandler) || decide (kXopt x.cmd % 256 = rqQueue)) = true := by simpa using hop
  simp only [runSend, if_neg hlow, toTile_inPlot hin, hkind, hn, decide_true, Bool.and_true, must_ok, ok_bind, ha, hr, ranOf_ok]

theorem runGet_issues (hn : kLen x.cmd ≤ 1048576) (hsrc : (sramOp x.base (kOpb x.cmd) (kLen x.cmd) 1).isSome = true)
    (ha : b.sramAt t x.base (kOpc x.cmd) (kLen x.cmd) 1 = .ok a) : runGet t b x = (b, .issue (parts128 (kLen x.cmd))) := by
  simp only [runGet, toTile_inPlot hin, hsrc, hn, decide_true, Bool.and_true, must_ok, ok_bind, ha, ranOf_ok]

theorem runPut_issues (hn : kLen x.cmd ≤ 1048576) (hdst : (sramOp x.base (kOpc x.cmd) (kLen x.cmd) 1).isSome = true)
    (ha : b.sramAt t x.base (kOpb x.cmd) (kLen x.cmd) 1 = .ok a) (hr : Reads b t a (kLen x.cmd) b') :
    runPut t b x = (b', .issue (parts128 (kLen x.cmd))) := by
  simp only [runPut, toTile_inPlot hin, hdst, hn, decide_true, Bool.and_true, must_ok, ok_bind, ha, hr, ranOf_ok]

theorem runCombine_issues (hfmt : fmtOk (kInFmt x.cmd) = true) (hmx : isMx (kInFmt x.cmd) = false)
    (ha : b.sramAt t x.base (kOpb x.cmd) (runBytes (kInFmt x.cmd) (kLen x.cmd)) (runAlign (kInFmt x.cmd)) = .ok a)
    (hr : Reads b t a (runBytes (kInFmt x.cmd) (kLen x.cmd)) b') :
    runCombine t b x = (b', .issue (ceilDiv (kLen x.cmd) (combineElems (kInFmt x.cmd)))) := by
  simp only [runCombine, toTile_inPlot hin, hfmt, hmx, Bool.not_false, Bool.and_true, must_ok, ok_bind, ha, hr, ranOf_ok]

end

section
variable (ha : b.sramAt t x.base (kOpa x.cmd) (kLen x.cmd) 64 = .ok a) (hfree : ((b.tile t).queue (kXopt x.cmd % 16)).bound = false)
  (hquota : b.boundQueues x.plot < (b.plot x.plot).cfg.queueQuota)
include ha hfree hquota

theorem runBind_ring (hring : kXopt x.cmd / 16 % 2 = 0) (hform : kXopt x.cmd / 32 % 128 = 0) (hcells : kLen x.cmd % 64 = 0)
    (hn : 256 ≤ kLen x.cmd ∧ kLen x.cmd ≤ sramBytes) :
    runBind t b x = (b.modQueue t (kXopt x.cmd % 16) fun _ =>
      { Queue.fresh with bound := true, base := a / 64, size := kLen x.cmd / 64 }, .fin stOk 0) := by
  simp [runBind, must_ok, ok_bind, ranOf_ok, hring, hform, hcells, hn, ha, hfree, hquota]

theorem runBind_combining {wide : Bool} (hcomb : kXopt x.cmd / 16 % 2 = 1) (hw : kXopt x.cmd / 32 % 2 = 1 ↔ wide = true)
    (hwhole : kLen x.cmd % fraBytes wide = 0) (hn : kLen x.cmd / fraBytes wide ≤ 24576) :
    runBind t b x = ((b.writeSram t a (resetRegion wide (kLen x.cmd / fraBytes wide))).modQueue t (kXopt x.cmd % 16) fun _ =>
      { Queue.fresh with bound := true, base := a / 64, size := kLen x.cmd / fraBytes wide, combine := true, wide := wide,
                         sem := kXopt x.cmd / 64 % 32, semEn := kXopt x.cmd / 2048 % 2 = 1, expect := kArg x.cmd }, .fin stOk 0) := by
  simp [runBind, must_ok, ok_bind, ranOf_ok, hcomb, hw, hwhole, hn, ha, hfree, hquota]

end

end

/-- Settles O4, by the two ways a copy runs and the one of a fill. -/
theorem moveInsideTile : Obligations.MoveInsideTile := by
  unfold Obligations.MoveInsideTile
  intro s t x a d c b
  refine ⟨fun hr hs hn hmax ha hd hov => ⟨fun b' hb => ?_, fun w hw => ?_⟩, fun hr hs hn hd => ?_⟩
  · show execMoveCopy t s = _
    exact mesh_becomes hr (runOrSteal_fin hs (runCopy_copies ⟨hn, hmax⟩ ha hd hov hb))
  · show execMoveCopy t s = _
    exact mesh_becomes hr (runOrSteal_fin hs (runCopy_mem ⟨hn, hmax⟩ ha hd hov hw))
  · show execMoveFill t s = _
    exact mesh_becomes hr (runOrSteal_fin hs (runFill_fills hn hd))

/-- Settles O5: a transfer is to issue the requests of `moveParts`. -/
theorem moveTransfersStart : Obligations.MoveTransfersStart := by
  unfold Obligations.MoveTransfersStart
  intro s t x a b' c b
  refine ⟨fun hn hmax ha hrd => ⟨fun hin => ⟨fun hr hs => ?_, fun hr hs => ?_⟩, fun hin => ⟨fun hr hs => ?_, fun hr hs => ?_⟩⟩,
    fun hr hs hdst hn hmax hin => ?_⟩
  · rw [← moveParts_hbm (by simp [hs.2, toHost])]
    show execMoveHbmRead t s = _
    exact mesh_becomes hr (run_issue hs (runTransfer_reads (by simp [hs.2, isWriteOp]) ⟨hn, hmax⟩ ha (by simpa [hs.2, toHost] using hin)))
  · rw [← moveParts_hbm (by simp [hs.2, toHost])]
    show execMoveHbmWrite t s = _
    exact mesh_becomes hr (run_issue hs (runTransfer_writes (by simp [hs.2, isWriteOp]) ⟨hn, hmax⟩ ha (by simpa [hs.2, toHost] using hin) hrd))
  · rw [← moveParts_host (by simp [hs.2, toHost])]
    show execMoveHostRead t s = _
    exact mesh_becomes hr (run_issue hs (runTransfer_reads (by simp [hs.2, isWriteOp]) ⟨hn, hmax⟩ ha (by simpa [hs.2, toHost] using hin)))
  · rw [← moveParts_host (by simp [hs.2, toHost])]
    show execMoveHostWrite t s = _
    exact mesh_becomes hr (run_issue hs (runTransfer_writes (by simp [hs.2, isWriteOp]) ⟨hn, hmax⟩ ha (by simpa [hs.2, toHost] using hin) hrd))
  · show execMoveHbmStream t s = _
    exact mesh_becomes hr (run_issue hs (runHbmStream_issues hdst ⟨hn, hmax⟩ hin))

/-- Settles O6, by what sow, reap and emit do once their checks have passed. -/
theorem moveFurrowsAndEmit : Obligations.MoveFurrowsAndEmit := by
  unfold Obligations.MoveFurrowsAndEmit
  intro s t x a d b' c b
  refine ⟨fun desc hr hs ha hd hcells hfill hrd => ?_, fun xs st dt hr hs hd hin => ?_,
    fun p ha b1 hr hs hn hmax hca hha hrh => ?_⟩
  · show execMoveSow t s = _
    exact mesh_becomes hr (run_fin hs (runSow_fills ha hd hcells hfill hrd))
  · show execMoveReap t s = _
    exact mesh_becomes hr (run_fin hs (runReap_copies hd hin))
  · intro h hp hrc
    show execMoveEmit t s = _
    exact mesh_becomes hr (run_fin hs (runEmit_emits ⟨hn, hmax⟩ hca hha hrh hp hrc))

/-- Settles O7. -/
theorem reduceOases : Obligations.ReduceOases := by
  unfold Obligations.ReduceOases
  intro s t x c b id
  refine ⟨fun wide hr hs hw hn hmax hfree hroom => ?_, fun o hr hs ho hlent => ?_⟩
  · show execReduceOasis t s = _
    exact mesh_becomes hr (run_fin hs (runOasis_reserves hw ⟨hn, hmax⟩ hfree hroom))
  · show execReduceRelease t s = _
    exact mesh_becomes hr (run_fin hs (runRelease_frees ho hlent))

/-- Settles O8: both adds run as `runAdd`, which scales its addends for reduce.scale.add. -/
theorem reduceAdds : Obligations.ReduceAdds := by
  unfold Obligations.ReduceAdds
  intro s t x a o c b n
  refine ⟨fun b1 b2 hfmt hlen hrun => ⟨fun ha ho hrd => ⟨fun hr hs => ?_, fun hr hs => ?_⟩, fun xs st dt hr hs hin ho => ?_⟩,
    fun b1 b2 hr hs ho ha hrd hm => ?_⟩
  · have hadd := runAdd_adds hfmt hlen hrun ha ho hrd
    rw [addends_add hs.2] at hadd
    show execReduceAdd t s = _
    exact mesh_becomes hr (runOrSteal_fin hs hadd)
  · have hadd := runAdd_adds hfmt hlen hrun ha ho hrd
    rw [addends_scale hs.2] at hadd
    show execReduceScaleAdd t s = _
    exact mesh_becomes hr (runOrSteal_fin hs hadd)
  · show execReduceAddSown t s = _
    exact mesh_becomes hr (run_fin hs (runAddSown_adds hfmt hlen hrun hin ho))
  · show execReduceMerge t s = _
    exact mesh_becomes hr (run_fin hs (runMerge_merges ho ha hrd hm))

/-- Settles O9: rounding and narrowing run as `runRound`, each with its own greatest rounding mode. -/
theorem reduceResults : Obligations.ReduceResults := by
  unfold Obligations.ReduceResults
  intro s t x a d o b' c b
  refine ⟨fun hfmt hlen ha ho hrd => ⟨fun hr hs hrnd => ?_, fun hr hs hrnd => ?_⟩,
    fun hr hs hin hout hlin hlout hrnd hnan ha hd hrd => ?_, fun hr hs ha hd hrd => ?_⟩
  · show execReduceRound t s = _
    exact mesh_becomes hr (run_fin hs (runRound_rounds hfmt hlen hrnd ha ho hrd))
  · show execReduceNarrow t s = _
    exact mesh_becomes hr (run_fin hs (runRound_rounds hfmt hlen hrnd ha ho hrd))
  · have hok : mapOk x.cmd = true := by
      simp only [mapOk, Bool.and_eq_true, decide_eq_true_eq]
      exact ⟨⟨⟨⟨⟨hin, hout⟩, hlin⟩, hlout⟩, hrnd⟩, hnan⟩
    show execReduceMap t s = _
    exact mesh_becomes hr (runOrSteal_fin hs (runMap_maps hok ha hd hrd))
  · show execReduceCrc t s = _
    exact mesh_becomes hr (runOrSteal_fin hs (runCrc_writes ha hd hrd))

/-- Settles O10. -/
theorem arrayCommands : Obligations.ArrayCommands := by
  unfold Obligations.ArrayCommands
  intro s t x a d b' c b fmt hpin
  refine ⟨fun hr hs hfmt hk hkmax hn hnmax hfit ha hrd => ?_, fun w hr hs hfmt hw ha hd hrd => ?_,
    fun hr hs hk h8 hle hmax ha hd hrd => ?_, fun hr hs hk h8 hrnd ha hd hrd => ?_⟩
  · show execArrayLoad t s = _
    exact mesh_becomes hr (run_fin hs (runLoad_loads hpin hfmt ⟨hk, hkmax⟩ ⟨hn, hnmax⟩ hfit ha hrd))
  · show execArrayMm t s = _
    exact mesh_becomes hr (run_fin hs (runMm_scores hpin hfmt hw ha hd hrd))
  · show execArrayTopk t s = _
    exact mesh_becomes hr (run_fin hs (runTopk_writes hpin ⟨hk, h8, hle, hmax⟩ ha hd hrd))
  · show execArrayGate t s = _
    exact mesh_becomes hr (run_fin hs (runGate_writes hpin ⟨hk, h8, hrnd⟩ ha hd hrd))

/-- Settles O11. -/
theorem queueCommandsStart : Obligations.QueueCommandsStart := by
  unfold Obligations.QueueCommandsStart
  intro s t x a b' c b
  refine ⟨fun hin => ⟨fun hr hs hop hn ha hrd => ?_, fun hr hs hn hsrc ha => ?_, fun hr hs hn hdst ha hrd => ?_,
      fun hr hs hfmt hmx ha hrd => ?_⟩,
    fun hr hs ha hfree hquota => ⟨fun hring hform hcells hn hmax => ?_, fun wide hcomb hw hwhole hn => ?_⟩⟩
  · show execQueueSend t s = _
    exact mesh_becomes hr (run_issue hs (runSend_issues hin hop hn ha hrd))
  · show execQueueGet t s = _
    exact mesh_becomes hr (run_issue hs (runGet_issues hin hn hsrc ha))
  · show execQueuePut t s = _
    exact mesh_becomes hr (run_issue hs (runPut_issues hin hn hdst ha hrd))
  · show execQueueCombine t s = _
    exact mesh_becomes hr (run_issue hs (runCombine_issues hin hfmt hmx ha hrd))
  · show execQueueBind t s = _
    exact mesh_becomes hr (run_fin hs (runBind_ring ha hfree hquota hring hform hcells ⟨hn, hmax⟩))
  · show execQueueBind t s = _
    exact mesh_becomes hr (run_fin hs (runBind_combining ha hfree hquota hcomb hw hwhole hn))

end Sys2Proof.EngineCommands
end


section
/-! Queues between commands (R160–R174): unbinding, popping, handlers, publication, the fallback and abandoned assemblies. -/
namespace Sys2Proof.QueueUpkeep
open Sys2Proof Sys2Proof.Machine Sys2Proof.Safety Sys2Proof.Laws Sys2Proof.Acts Sys2Proof.EngineCommands

section
variable {b : Blk} {t i d q : Nat} {x : Sheaf}

/-! ### Commands of the queue engine -/

/-! queue.pop runs on what its passing over skip and VOID entries leaves, so its start is that block's (R164). -/

theorem pop_holds {op : Nat} {f : Blk → Sheaf → Blk × Ran} {c : Blk} (hstart : b.nextStart t 3 = some x) (hop : kOp x.cmd = op)
    (hf : f (b.started t x) x = (c, .hold)) : b.run t 3 op f = b := by
  simp [Blk.run, hstart, hop, hf]

theorem pop_ends {op st dt : Nat} {f : Blk → Sheaf → Blk × Ran} {c : Blk} (hstart : b.nextStart t 3 = some x) (hop : kOp x.cmd = op)
    (hf : f (b.started t x) x = (c, .fin st dt)) : b.run t 3 op f = ends c t 3 x st dt := by
  simp [Blk.run, hstart, hop, hf]

theorem runUnbind_frees (hbound : ((b.tile t).queue (kXopt x.cmd % 16)).bound = true)
    (hopen : (b.tile t).ms.asms.any (fun y => y.2.queue = kXopt x.cmd % 16) = false) :
    runUnbind t b x = ((b.modQueue t (kXopt x.cmd % 16) fun _ => Queue.fresh).countN t evUnbindDiscard
      ((b.tile t).queue (kXopt x.cmd % 16)).dropped (some x.plot), .fin stOk 0) := by
  simp only [runUnbind, hbound, must_ok, ok_bind, hopen, Bool.false_eq_true, if_false, ranOf_ok]

theorem runUnbind_holds (hbound : ((b.tile t).queue (kXopt x.cmd % 16)).bound = true)
    (hopen : (b.tile t).ms.asms.any (fun y => y.2.queue = kXopt x.cmd % 16) = true) : runUnbind t b x = (b, .hold) := by
  simp only [runUnbind, hbound, must_ok, ok_bind, hopen, if_true, ranOf_ok]

section
variable (hd : b.sramAt t x.base (kOpa x.cmd) (kLen x.cmd) 64 = .ok d)
  (hbound : ((b.tile t).queue (kXopt x.cmd % 16)).bound = true) (hring : ((b.tile t).queue (kXopt x.cmd % 16)).combine = false)
include hd hbound hring

theorem runPop_holds (hempty : ((b.tile t).queue (kXopt x.cmd % 16)).rd = ((b.tile t).queue (kXopt x.cmd % 16)).wr) :
    runPop t b x = (b, .hold) := by
  simp only [runPop, hd, hbound, hring, Bool.not_false, must_ok, ok_bind, Blk.popFind, if_pos hempty, ranOf_ok]

theorem runPop_pops (hsome : ((b.tile t).queue (kXopt x.cmd % 16)).rd ≠ ((b.tile t).queue (kXopt x.cmd % 16)).wr)
    (hchk : hChkOk (b.header t ((b.tile t).queue (kXopt x.cmd % 16)) ((b.tile t).queue (kXopt x.cmd % 16)).rd) = true)
    (hfit : kLen x.cmd = 0 ∨
      64 + hBytes (b.header t ((b.tile t).queue (kXopt x.cmd % 16)) ((b.tile t).queue (kXopt x.cmd % 16)).rd) ≤ kLen x.cmd) :
    let r := (b.tile t).queue (kXopt x.cmd % 16)
    let h := b.header t r r.rd
    let b' := if kLen x.cmd = 0 then b else b.writeSram t d (b.readSram t (r.addr r.rd) (64 + hBytes h))
    runPop t b x = ((b'.rdTo t (kXopt x.cmd % 16) (r.plus r.rd (hCells h))).rdAdvance t (kXopt x.cmd % 16) (2 * r.size),
      .fin stOk 0) := by
  have hlen : (decide (kLen x.cmd = 0) ||
      decide (64 + hBytes (b.header t ((b.tile t).queue (kXopt x.cmd % 16)) ((b.tile t).queue (kXopt x.cmd % 16)).rd) ≤ kLen x.cmd)) =
      true := by simpa using hfit
  simp only [runPop, hd, hbound, hring, Bool.not_false, must_ok, ok_bind, Blk.popFind, if_neg hsome, hchk, if_true, hlen, ranOf_ok,
    Blk.entryBytes]

end

theorem runHandler_installs (hmax : kLen x.cmd ≤ 4096) (hpos : 0 < kLen x.cmd) (ha : sramAddr x.base (kOpa x.cmd) % 32 = 0)
    (hend : sramAddr x.base (kOpa x.cmd) + 32 * kLen x.cmd ≤ sramBytes) :
    runHandler t b x = (b.note (.handler t (kXopt x.cmd % 256)
      { list := sramAddr x.base (kOpa x.cmd), valid := true, freeOnEnd := kXopt x.cmd / 4096 % 2 = 1,
        queue := kXopt x.cmd / 256 % 16, cmds := kLen x.cmd }), .fin stOk 0) := by
  simp [runHandler, must_ok, ok_bind, ranOf_ok, hmax, ha, hend, Nat.pos_iff_ne_zero.mp hpos]

theorem runHandler_removes (hzero : kLen x.cmd = 0) :
    runHandler t b x = (b.note (.handler t (kXopt x.cmd % 256) Handler.fresh), .fin stOk 0) := by
  simp [runHandler, must_ok, ok_bind, ranOf_ok, hzero]

/-! ### What the tile does by itself -/

theorem handlerLaunch_queues {y : Tile} {l : Launch} {ls : List Launch} (hw : y.es.handlerWait = l :: ls)
    (hroom : y.es.launchQ.length < 16) :
    y.handlerLaunch = { y with es := { y.es with launchQ := y.es.launchQ ++ [l], handlerWait := ls } } := by
  simp [Tile.handlerLaunch, hw, Nat.not_le.mpr hroom]

theorem fbDrain_moves {f : FbEntry} {rest : List FbEntry} {p : Nat} {b' : Blk} (hbound : ((b.tile t).queue q).bound = true)
    (hring : ((b.tile t).queue q).combine = false)
    (hfirst : takeFirst (fun (f : FbEntry) => f.queue = q) (b.tile t).ms.fallback = some (f, rest))
    (hres : b.reserve t q (hCells f.hdr) f.handler (fun seq => rehead (setFld f.hdr 0 16 seq)) true = some (p, b')) :
    b.fbDrain t q = ((b'.writeSram t (((b.tile t).queue q).addr p + 64) (f.data.take (hBytes f.hdr))).modTile t fun y =>
      { y with ms := { y.ms with fallback := rest } }).note (.drained t q) := by
  simp only [Blk.fbDrain, hbound, hring, hfirst, hres, Bool.not_true, Bool.or_self, Bool.false_eq_true, if_false]

theorem abandonActs_landed {a : Assembly} (ha : (b.tile t).ms.asms.get? q = some a) (hlast : a.last = b.clk.mc) :
    b.abandonActs t q = b := by simp only [Blk.abandonActs, ha, if_pos hlast]

theorem abandonActs_voids {a : Assembly} (ha : (b.tile t).ms.asms.get? q = some a) (hlast : a.last ≠ b.clk.mc) :
    b.abandonActs t q =
      let c := b.modTile t fun y => { y with ms := { y.ms with asms := y.ms.asms.del q } }
      let r := (c.tile t).queue a.queue
      let h := c.header t r a.ptr
      (((c.putHeader t r a.ptr (rehead (setFld h 16 1 1))).modQueue t a.queue fun r =>
        { r with open_ := r.open_.map fun e => if e.ptr = a.ptr then { e with complete := true, kind := .void } else e }).count
        t evMsgAbandon (some (fld h 200 8))).raiseP 0x09 (fld h 200 8) (some t) a.src a.msgId a.queue := by
  simp only [Blk.abandonActs, ha, if_neg hlast]

theorem rdActs_eq (v : Nat) : b.rdActs t q v =
    if v < 2 * ((b.tile t).queue q).size ∧
        ((b.tile t).queue q).dist ((b.tile t).queue q).wr v ≤ ((b.tile t).queue q).dist ((b.tile t).queue q).wr ((b.tile t).queue q).rd
      then b.rdTo t q v else b.count t evQueueRdRefused := by
  simp only [Blk.rdActs, Queue.rdTakes, Bool.and_eq_true, decide_eq_true_eq]

section
variable (hreport : ((b.tile t).ctx q).state = .report)
include hreport

theorem statusWrite_record {a : Nat} (hat : ((b.tile t).ctx q).statusAt = some a) (hhandler : ((b.tile t).ctx q).handler = none) :
    b.statusWrite t q = (b.writeSram t a (b.statusRecord ((b.tile t).ctx q))).modTile t fun y =>
      y.modCtx q fun k => { Ctx.fresh with held := k.held } := by
  simp only [Blk.statusWrite, hreport, ne_eq, not_true, if_false, hat, hhandler]

theorem statusWrite_done {r a : Nat} (hat : ((b.tile t).ctx q).statusAt = none)
    (hhandler : ((b.tile t).ctx q).handler = some (r, a, true)) :
    b.statusWrite t q = (b.setDone t r a).modTile t fun y => y.modCtx q fun k => { Ctx.fresh with held := k.held } := by
  simp only [Blk.statusWrite, hreport, ne_eq, not_true, if_false, hat, hhandler]

theorem statusWrite_silent {r a : Nat} (hat : ((b.tile t).ctx q).statusAt = none)
    (hhandler : ((b.tile t).ctx q).handler = some (r, a, false)) :
    b.statusWrite t q = b.modTile t fun y => y.modCtx q fun k => { Ctx.fresh with held := k.held } := by
  simp only [Blk.statusWrite, hreport, ne_eq, not_true, if_false, hat, hhandler]

end

end

/-- Settles O12: the queue engine's commands, then what a tile does by itself, clause by clause. -/
theorem queueUpkeep : Obligations.QueueUpkeep := by
  unfold Obligations.QueueUpkeep
  intro s t x q c b i
  refine ⟨fun hr hs hbound => ⟨fun hopen => ?_, fun hopen => ?_⟩, fun d => ?_,
    fun a hr hs ha hmax => ⟨fun hpos halign hend => ?_, fun hzero => ?_⟩, fun b k h => rfl, fun hr => ?_, fun l ls hr hw hroom => ?_,
    fun f rest p b' => ?_, fun hr => ?_, fun b0 a ha => ⟨fun hlast => ?_, fun hlast => ?_⟩,
    fun v hr => ⟨fun ht => ?_, fun ht => ?_⟩, fun b v => rdActs_eq v, fun v hr => ⟨fun ht => ?_, fun ht => ?_⟩, fun b => rfl, ?_⟩
  · show execQueueUnbind t s = _
    exact mesh_becomes hr (run_fin hs (runUnbind_frees hbound hopen))
  · show execQueueUnbind t s = _
    exact mesh_becomes hr (run_hold hs (runUnbind_holds hbound hopen))
  · intro b0 b r h hr hstart hop hd hbound hring
    refine ⟨fun hempty => ?_, fun hsome hchk hfit => ?_⟩
    · show execQueuePop t s = _
      exact mesh_becomes hr (pop_holds hstart hop (runPop_holds hd hbound hring hempty))
    · show execQueuePop t s = _
      exact mesh_becomes hr (pop_ends hstart hop (runPop_pops hd hbound hring hsome hchk hfit))
  · subst ha
    show execQueueHandler t s = _
    exact mesh_becomes hr (run_fin hs (runHandler_installs hmax hpos halign hend))
  · show execQueueHandler t s = _
    exact mesh_becomes hr (run_fin hs (runHandler_removes hzero))
  · show execEntryPublish t q s = _
    exact mesh_becomes hr rfl
  · show execHandlerLaunch t s = _
    exact mesh_becomes hr (congrArg (s.blk.setTile t) (handlerLaunch_queues hw hroom))
  · intro r hr hbound hring hfirst hres
    show execFallbackDrain t q s = _
    exact mesh_becomes hr (fbDrain_moves hbound hring hfirst hres)
  · show execAssemblyAbandon t q s = _
    exact mesh_becomes hr rfl
  · exact abandonActs_landed ha hlast
  · exact abandonActs_voids ha hlast
  · show execQueueRdWrite t q v s = _
    exact page_becomes hr ht rfl
  · show execQueueRdWrite t q v s = _
    exact page_unmapped hr ht
  · show execFbPop t v s = _
    exact page_becomes hr ht rfl
  · show execFbPop t v s = _
    exact page_unmapped hr ht
  · intro k idle hr hreport
    refine ⟨fun a hat hh => ?_, fun r a hat hh => ?_, fun r a hat hh => ?_⟩
    · show execStatusRecordWrite t q s = _
      exact mesh_becomes hr (statusWrite_record hreport hat hh)
    · show execStatusRecordWrite t q s = _
      exact mesh_becomes hr (statusWrite_done hreport hat hh)
    · show execStatusRecordWrite t q s = _
      exact mesh_becomes hr (statusWrite_silent hreport hat hh)

end Sys2Proof.QueueUpkeep
end


section
/-! Open-plane routers (R85–R92): arrival, arbitration, credits and age. -/
namespace Sys2Proof.Routers
open Sys2Proof Sys2Proof.Machine Sys2Proof.Safety Sys2Proof.Laws Sys2Proof.Acts

section
variable {b : Blk} {t n i vc o : Nat}

/-! ### Arrival -/

theorem headArrives_empty {damage : BitVec 128} (h : b.opn.links.getD (inKey t n i) [] = []) : b.headArrives t n i damage = b := by
  simp only [Blk.headArrives, h]

theorem headArrives_enters {damage : BitVec 128} {p : Packet} {since : Nat} {l : List (Packet × Nat)}
    (h : b.opn.links.getD (inKey t n i) [] = (p, since) :: l) :
    b.headArrives t n i damage =
      ({ b with opn := { b.opn with links := b.opn.links.put (inKey t n i) l } } : Blk).enterInput t n i p.hdr
        { p with hdr := agedHdr p.hdr (b.clk.mc - since) ^^^ damage } := by
  simp only [Blk.headArrives, h]

theorem enterInput_enters {was : BitVec 128} {p : Packet} {out : Nat} {v : Nat} (hok : flitOk p.hdr n = true)
    (hroute : b.routeOf t n i p = some (out, v)) :
    b.enterInput t n i was p = b.setBuf (vcKey t n i (pVc p.hdr))
      (b.buf (vcKey t n i (pVc p.hdr)) ++ [{ pkt := p, arrived := b.clk.mc, out := out, vc := v }]) := by
  simp only [Blk.enterInput, hok, Bool.not_true, Bool.false_eq_true, if_false, hroute]

theorem enterInput_damaged {was : BitVec 128} {p : Packet} (hbad : flitOk p.hdr n = false) :
    b.enterInput t n i was p = ((b.drop t 0x20).creditsBack t n i (pVc was) p.flits).flightEnd n was := by
  simp only [Blk.enterInput, Blk.dropAtInput, hbad, Bool.not_false, if_true]

theorem enterInput_no_route {was : BitVec 128} {p : Packet} (hok : flitOk p.hdr n = true) (hroute : b.routeOf t n i p = none) :
    b.enterInput t n i was p =
      ((b.drop t 0x23 none (some (pPlot p.hdr))).creditsBack t n i (pVc was) p.flits).flightEnd n was := by
  simp only [Blk.enterInput, Blk.dropAtInput, hok, Bool.not_true, Bool.false_eq_true, if_false, hroute]

theorem flits_of_hdr (p : Packet) (h : BitVec 128) : ({ p with hdr := h } : Packet).flits = p.flits := rfl

/-! ### Arbitration -/

theorem hintFor_chooses (hen : (b.tile t).openCtrl.hintEn = true) (hat : (b.arb (inKey t n o)).hintAt = some b.clk.mc) :
    b.hintFor t n o = b.setArb (inKey t n o) { b.arb (inKey t n o) with
      hintAt := none
      hint := (b.choose t n (b.arb (inKey t n o)) ((b.cands t n o).filter fun c =>
        (b.arb (inKey t n o)).cur ≠ some (c.input, c.vc))).map fun c => (c.1.input, c.1.vc) } := by
  simp only [Blk.hintFor, hen, hat, Bool.not_true, ne_eq, not_true, decide_false, Bool.or_self, Bool.false_eq_true, if_false]

theorem hintFor_silent (h : ¬((b.tile t).openCtrl.hintEn = true ∧ (b.arb (inKey t n o)).hintAt = some b.clk.mc)) :
    b.hintFor t n o = b := by
  have htest : (!(b.tile t).openCtrl.hintEn || decide ((b.arb (inKey t n o)).hintAt ≠ some b.clk.mc)) = true := by
    by_cases hen : (b.tile t).openCtrl.hintEn = true
    · simpa [hen] using h
    · simp [hen]
  simp only [Blk.hintFor, htest, if_true]

theorem arbitrate_busy (h : b.clk.mc < (b.arb (inKey t n o)).busy) : b.arbitrate t n o = b.hintFor t n o := if_pos h

theorem arbitrate_idle (h : (b.arb (inKey t n o)).busy ≤ b.clk.mc) (hw : b.winner t n o = none) : b.arbitrate t n o = b := by
  simp only [Blk.arbitrate, if_neg (Nat.not_lt.mpr h), hw]

/-- What the arbiter of an output keeps of a grant (R86, R87). -/
def arbAfter (b : Blk) (t n o : Nat) (c : Cand) (nth : Bool) : Arb :=
  { b.arb (inKey t n o) with
    count := if c.preempts n then (b.arb (inKey t n o)).count else if nth then 0 else (b.arb (inKey t n o)).count + 1
    ptr := (c.input * 4 + c.vc + 1) % 20
    hint := none
    busy := b.clk.mc + (if b.openFenced t o then 1 else c.held.pkt.flits + (if (b.tile t).openCtrl.hintEn then 0 else 1))
    hintAt := if b.openFenced t o then none else some (b.clk.mc + (c.held.pkt.flits - 2))
    cur := some (c.input, c.vc) }

theorem arbitrate_grants {c : Cand} {nth : Bool} (h : (b.arb (inKey t n o)).busy ≤ b.clk.mc)
    (hw : b.winner t n o = some (c, nth)) :
    b.arbitrate t n o =
      let lost := (b.cands t n o).length - 1
      let plot := some (pPlot c.held.pkt.hdr)
      let b1 := if 0 < lost then b.countN t evArbLost lost else b
      let b2 := if c.preempts n then b1.count t evPreempt plot else if nth then b1.count t evNthGrant plot else b1
      let b3 := (b2.setArb (inKey t n o) (arbAfter b t n o c nth)).grant t n o c
      let b4 := if c.input = 4 then b3.drainReplies t n else b3
      b4.hintFor t n o := by
  simp only [Blk.arbitrate, if_neg (Nat.not_lt.mpr h), hw]
  rfl

/-! ### Credits and age -/

theorem creditReturn_arrives (hi : i < 4) (h : 0 < b.opn.owed.getD (vcKey t n i vc) 0) :
    b.creditReturn t n i vc =
      ({ b with opn := { b.opn with owed := b.opn.owed.put (vcKey t n i vc) (b.opn.owed.getD (vcKey t n i vc) 0 - 1) } } : Blk).setUsed
        (b.upstream t n i vc) (b.usedCredits (b.upstream t n i vc) - 1) := by
  simp only [Blk.creditReturn, if_neg (Nat.pos_iff_ne_zero.mp h), Blk.creditsBack, if_neg (Nat.ne_of_lt hi)]
  rfl

theorem creditReturn_none (h : b.opn.owed.getD (vcKey t n i vc) 0 = 0) : b.creditReturn t n i vc = b := if_pos h

theorem ageDrop_empty (h : b.buf (vcKey t n i vc) = []) : b.ageDrop t n i vc = b := by simp only [Blk.ageDrop, h]

theorem ageDrop_drops {h : Held}
    (hold : (b.buf (vcKey t n i vc)).find? (fun h => b.effAge h = ((b.buf (vcKey t n i vc)).map b.effAge).foldl max 0) = some h) :
    b.ageDrop t n i vc =
      let c := b.setBuf (vcKey t n i vc) ((b.buf (vcKey t n i vc)).erase h)
      let c := if (b.buf (vcKey t n i vc)).head? = some h then (c.each (List.range 5) fun b o =>
          b.setArb (inKey t n o) ((b.arb (inKey t n o)).withdraw b.clk.mc i vc)) else c
      ((c.drop t 0x22 none (some (pPlot h.pkt.hdr))).creditsBack t n i vc h.pkt.flits).flightEnd n h.pkt.hdr := by
  unfold Blk.ageDrop
  dsimp only
  generalize b.buf (vcKey t n i vc) = l at hold ⊢
  cases l with
  | nil => cases hold
  | cons x xs => simp only [hold, ne_eq, ite_not]

end

/-- Settles O13: what a router does with a head flit, at a free or busy output, with a credit, and with its oldest packet. -/
theorem routerCommands : Obligations.RouterCommands := by
  unfold Obligations.RouterCommands
  intro s t n i
  refine ⟨fun damage hr => ⟨fun p since l hi hl => ?_, fun hnone => ?_⟩, fun o => ?_, fun vc => ?_, fun vc => ?_⟩
  · have hne : i ≠ 4 := Nat.ne_of_lt hi
    intro b h p'
    refine ⟨fun hok out vc hroute => ?_, fun hbad => ?_, fun hok hroute => ?_⟩
    · show execFlitHeadArrival t n i damage s = _
      exact mesh_becomes hr ((if_neg hne).trans ((headArrives_enters hl).trans (enterInput_enters hok hroute)))
    · have hdrop := enterInput_damaged (b := b) (t := t) (i := i) (was := p.hdr) (p := p') hbad
      rw [flits_of_hdr] at hdrop
      show execFlitHeadArrival t n i damage s = _
      exact mesh_becomes hr ((if_neg hne).trans ((headArrives_enters hl).trans hdrop))
    · have hdrop := enterInput_no_route (was := p.hdr) hok hroute
      rw [flits_of_hdr] at hdrop
      show execFlitHeadArrival t n i damage s = _
      exact mesh_becomes hr ((if_neg hne).trans ((headArrives_enters hl).trans hdrop))
  · show execFlitHeadArrival t n i damage s = _
    refine mesh_becomes hr ?_
    rcases hnone with hi | hl
    · exact if_pos hi
    · rw [headArrives_empty hl, ite_self]
  · intro k a hint hr
    refine ⟨fun hbusy => ⟨fun hen hat => ?_, fun hnot => ?_⟩, fun hfree hw => ?_, fun c nth hfree hw => ?_⟩
    · show execOutputArbitration t n o s = _
      exact mesh_becomes hr ((arbitrate_busy hbusy).trans (hintFor_chooses hen hat))
    · show execOutputArbitration t n o s = _
      exact mesh_becomes hr ((arbitrate_busy hbusy).trans (hintFor_silent hnot))
    · show execOutputArbitration t n o s = _
      exact mesh_becomes hr (arbitrate_idle hfree hw)
    · show execOutputArbitration t n o s = _
      exact mesh_becomes hr (arbitrate_grants hfree hw)
  · intro w up hr hi
    refine ⟨fun hw => ?_, fun hw => ?_⟩
    · show execCreditReturn t n i vc s = _
      exact mesh_becomes hr (creditReturn_arrives hi hw)
    · show execCreditReturn t n i vc s = _
      exact mesh_becomes hr (creditReturn_none hw)
  · intro l hr
    refine ⟨fun hl => ?_, fun h hold => ?_⟩
    · show execFlitAgeDrop t n i vc s = _
      exact mesh_becomes hr (ageDrop_empty hl)
    · show execFlitAgeDrop t n i vc s = _
      exact mesh_becomes hr (ageDrop_drops hold)

end Sys2Proof.Routers
end


section
/-! Requests of the open plane (R93–R98, R119, R126): slots, injection, ejection, replies, timers and the tile's controls. -/
namespace Sys2Proof.Requests
open Sys2Proof Sys2Proof.Machine Sys2Proof.Safety Sys2Proof.Laws Sys2Proof.Acts

section
variable {b : Blk} {t n : Nat}

/-! ### A request that a requester offers -/

/-- The packet of a request in slot i. -/
def reqPacket (b : Blk) (o : SlotOwner) (sub vc : Nat) (r : Req) (i : Nat) : Packet :=
  mkPacket sub vc b.epoch r.dst (slotTile o) r.plot r.op i false (r.gen.getD (b.plot r.plot).graft.gen.toNat) r.arg r.body

section
variable {o : SlotOwner} {who : Requester} {sub vc : Nat} {r : Req}

theorem sendReq_noRoom (h : ¬b.injectFill (slotTile o) sub vc + (reqPacket b o sub vc r 0).flits ≤ 16) :
    b.sendReq o who sub vc r = (b, .noRoom) := if_pos (Nat.not_le.mp h)

section
variable (hroom : b.injectFill (slotTile o) sub vc + (reqPacket b o sub vc r 0).flits ≤ 16)
include hroom

theorem sendReq_noSlot (hslot : b.freeSlot (slotKey o) who = none) : b.sendReq o who sub vc r = (b, .noSlot) := by
  unfold reqPacket at hroom
  simp only [Blk.sendReq, if_neg (Nat.not_lt.mpr hroom), hslot]

theorem sendReq_refused {i : Nat} (hslot : b.freeSlot (slotKey o) who = some i) (hno : b.admits (slotTile o) who r = false) :
    b.sendReq o who sub vc r = (b.drop (slotTile o) 0x21 none (some r.plot), .refused) := by
  unfold reqPacket at hroom
  simp only [Blk.sendReq, if_neg (Nat.not_lt.mpr hroom), hslot, hno, Bool.not_false, if_true]

theorem sendReq_sent {i : Nat} (hslot : b.freeSlot (slotKey o) who = some i) (hok : b.admits (slotTile o) who r = true) :
    b.sendReq o who sub vc r =
      let c := b.count (slotTile o) evSlotTaken (some r.plot)
      ((c.setSlot (slotKey o) i
        { state := .waiting, target := r.dst, injected := c.clk.mc, timeout := 1024 * (c.tile (slotTile o)).openCtrl.reqTimeout,
          who := who, ref := r.ref, plot := r.plot, sealHit := false, win := c.dmaWin r.plot }).injectPacket (slotTile o) sub
        (reqPacket b o sub vc r i), .sent) := by
  unfold reqPacket at hroom
  simp only [Blk.sendReq, if_neg (Nat.not_lt.mpr hroom), hslot, hok, Bool.not_true, Bool.false_eq_true, if_false, reqPacket]

end

end

/-! ### What a tile offers next -/

theorem injectEngine_offers {e : Nat} {who : Requester} {req : Sheaf → Option Req} {y : Sheaf} {r : Req}
    (hy : ((b.tile t).sheaves e).find? issuing = some y) (hack : kOp y.cmd = 0xC1 → y.issued = 1 → y.outst = 0)
    (hreq : req y = some r) :
    b.injectEngine t e who req =
      (b.sendReq (.tile t) who snReq 0 r).1.modSheaf t e y.sid fun y => y.afterSend (b.sendReq (.tile t) who snReq 0 r).2 := by
  have hgo : ¬(kOp y.cmd = 0xC1 ∧ y.issued = 1 ∧ 0 < y.outst) := fun ⟨hop, hone, hpos⟩ => by
    rw [hack hop hone] at hpos
    exact Nat.lt_irrefl 0 hpos
  simp only [Blk.injectEngine, hy, hreq, Bool.and_eq_true, decide_eq_true_eq, and_assoc, if_neg hgo]

theorem requestInject_queue {y : Sheaf} (hy : ((b.tile t).sheaves 3).find? issuing = some y) :
    b.requestInject t .queue = b.injectEngine t 3 .queue fun s => some (b.queueReq t s) :=
  if_pos (List.any_eq_true.mpr ⟨y, List.mem_of_find?_eq_some hy, List.find?_some hy⟩)

theorem requestInject_get (hnone : ((b.tile t).sheaves 3).any issuing = false) : b.requestInject t .queue = b.injectGet t :=
  if_neg (by rw [hnone]; exact Bool.false_ne_true)

theorem injectGet_offers {g : GetSend} {gs : List GetSend} (hg : (b.tile t).net.getOut = g :: gs) :
    b.injectGet t =
      let z := b.sendReq (.tile t) .queue snReq 0
        { dst := g.target, op := rqGet, arg := g.addr, gen := none, ref := g.ref, plot := g.plot,
          body := msgWord 0 g.bytes (b.tile t).ms.msgId 0 0 }
      let pop := fun (b : Blk) => b.modTile t fun y => { y with net := { y.net with getOut := gs } }
      if z.2 = .sent then pop z.1
      else if z.2 = .refused then (pop z.1).serve t g.target g.ref (.error erPlot) none else z.1 := by
  simp only [Blk.injectGet, hg]
  generalize b.sendReq (.tile t) .queue snReq 0 _ = z
  obtain ⟨c, fate⟩ := z
  cases fate <;> rfl

theorem injectStolen_offers {r : Borrowed} {q : Req} (hr : (b.tile t).es.borrowed.find? (fun r => (r.next (b.tile t).ms.msgId).isSome) = some r)
    (hq : r.next (b.tile t).ms.msgId = some q) :
    b.injectStolen t =
      let z := b.sendReq (.tile t) .stealUnit snReq 0 q
      if z.2 = .sent then z.1.modBorrowed t r.sentOne
      else if z.2 = .refused then z.1.modBorrowed t { r with failed := true } else z.1 := by
  simp only [Blk.injectStolen, hr, hq]
  generalize b.sendReq (.tile t) .stealUnit snReq 0 q = z
  obtain ⟨c, fate⟩ := z
  cases fate <;> rfl

theorem injectDfp_offers {d : DfpSend} {ds : List DfpSend} (hd : (b.tile t).net.dfpOut = d :: ds) (hok : d.failed = false)
    (hack : d.issued = 1 → d.outst = 0) (hmore : d.issued < max 1 (parts128 d.data.length)) :
    b.injectDfp t =
      let z := b.sendReq (.tile t) .ingress snReq 0
        { dst := d.target, op := rqDfp, arg := d.queue, gen := none, ref := .dfp, plot := d.plot,
          body := msgWord (128 * d.issued) d.data.length d.msgId 0 0 ++ (d.data.drop (128 * d.issued)).take 128 }
      if z.2 = .sent then
        z.1.modTile t fun y => { y with net := { y.net with
          dfpOut := { d with issued := d.issued + 1, outst := d.outst + 1 } :: ds } } else z.1 := by
  have hgo : (d.failed || (decide (d.issued = 1) && decide (0 < d.outst)) || decide (max 1 (parts128 d.data.length) ≤ d.issued)) =
      false := by
    simp only [hok, Bool.false_or, Bool.or_eq_false_iff, Bool.and_eq_false_iff, decide_eq_false_iff_not]
    exact ⟨by omega, Nat.not_le.mpr hmore⟩
  simp only [Blk.injectDfp, hd, hgo, Bool.false_eq_true, if_false]

theorem injectKhdr_offers {k : KhdrSend} {ks : List KhdrSend} (hk : (b.tile t).net.khdrOut = k :: ks) :
    b.injectKhdr t =
      let z := b.sendReq (.tile t) .home snReq 0
        { dst := k.target, op := rqKhdr, arg := k.tag.toNat, gen := none, ref := .khdr k.slot k.rank (k.tag.toNat / 2 ^ 16),
          plot := k.plot, body := k.body }
      if z.2 = .sent then z.1.modTile t fun y => { y with net := { y.net with khdrOut := ks } } else z.1 := by
  simp only [Blk.injectKhdr, hk]

theorem requestInject_admin (h : takeFirst (fun (x : Bool × Nat × Bytes) => x.2.1 = t) b.quorum.net = none) :
    b.requestInject t .steward = b.injectAdmin .steward .steward 0x01 t := by
  simp only [Blk.requestInject, h]

theorem requestInject_quorum {out : Bool} {p : Nat} {xs : Bytes} {rest : List (Bool × Nat × Bytes)}
    (h : takeFirst (fun (x : Bool × Nat × Bytes) => x.2.1 = t) b.quorum.net = some ((out, p, xs), rest)) :
    b.requestInject t .steward =
      let z := b.sendReq (if out then .steward else .tile p) .steward snAdmin 0
        { dst := if out then p else sysTile, op := if out then 0x03 else 0x04, arg := 0, gen := none,
          body := List.replicate 16 0#8 ++ xs, ref := .admin, plot := 0 }
      if z.2 = .sent then { z.1 with quorum := { z.1.quorum with net := rest } } else z.1 := by
  simp only [Blk.requestInject, h, Blk.injectQuorum]

/-! ### Preempting packets -/

section
variable {op flight arg : Nat} {up : Blk → Blk} {data : Bytes}

theorem injectPreempt_enters (hfew : flight < 8)
    (hfit : b.injectFill sysTile snAdmin 0 + (mkPacket snAdmin 0 b.epoch t sysTile 0 op 0 false 0 arg data).flits ≤ 16) :
    b.injectPreempt op flight t up arg data =
      (up b).injectPacket sysTile snAdmin (mkPacket snAdmin 0 b.epoch t sysTile 0 op 0 false 0 arg data) := by
  simp only [Blk.injectPreempt, decide_eq_false (Nat.not_le.mpr hfew), decide_eq_false (Nat.not_lt.mpr hfit), Bool.or_self,
    Bool.false_eq_true, if_false]

theorem injectPreempt_waits (h : 8 ≤ flight ∨
      ¬b.injectFill sysTile snAdmin 0 + (mkPacket snAdmin 0 b.epoch t sysTile 0 op 0 false 0 arg data).flits ≤ 16) :
    b.injectPreempt op flight t up arg data = b := by
  refine if_pos ?_
  simpa only [Bool.or_eq_true, decide_eq_true_eq, Nat.not_le] using h

end

theorem requestInject_scrubber : b.requestInject t .scrubber = b.injectPreempt 0xE0 b.opn.scrubFlight t fun b =>
    { b with opn := { b.opn with scrubFlight := b.opn.scrubFlight + 1 } } := rfl

theorem requestInject_debug (h : b.debugRefused t = false) : b.requestInject t .debug = b.injectPreempt 0xF0 b.opn.debugFlight t fun b =>
    { b with opn := { b.opn with debugFlight := b.opn.debugFlight + 1 } } := if_neg (by rw [h]; exact Bool.false_ne_true)

theorem requestInject_debugRefused (h : b.debugRefused t = true) : b.requestInject t .debug = b := if_pos h

/-- What a debug access asks for before its packet is made (R302). -/
theorem debugAccess_reaches {w : Bool} {addr : Nat} {data : Bytes} (hmay : b.debugRefused t = false) (hlen : data.length ≤ 64)
    (hend : addr + data.length ≤ sramBytes) :
    b.debugAccess t w addr data = b.injectPreempt (if w then 0xF1 else 0xF0) b.opn.debugFlight t
      (fun b => { b with opn := { b.opn with debugFlight := b.opn.debugFlight + 1 } }) (addr % 2 ^ 21 + 2 ^ 21 * data.length) data := by
  simp only [Blk.debugAccess, hmay, decide_eq_false (Nat.not_lt.mpr hlen), decide_eq_false (Nat.not_lt.mpr hend), Bool.or_self,
    Bool.false_eq_true, if_false]

theorem debugAccess_refused {w : Bool} {addr : Nat} {data : Bytes}
    (h : ¬(b.debugRefused t = false ∧ data.length ≤ 64 ∧ addr + data.length ≤ sramBytes)) : b.debugAccess t w addr data = b := by
  refine if_pos ?_
  simp only [Bool.or_eq_true, decide_eq_true_eq]
  refine Classical.byContradiction fun hnot => ?_
  simp only [not_or, Bool.not_eq_true, Nat.not_lt] at hnot
  obtain ⟨⟨hdbg, hlen⟩, hend⟩ := hnot
  exact h ⟨hdbg, hlen, hend⟩

/-! ### Ejection -/

section
variable {q : Packet × Nat} {rest : List (Packet × Nat)}

section
variable (hq : takeFirst (fun (x : Packet × Nat) => isRequest n x.1) (b.ejectBuf t n) = some (q, rest))
include hq

theorem requestEject_admin (hn : n ≠ snReq) : b.requestEject t n = (b.setEject t n rest).ejectedAdmin t q := by
  simp only [Blk.requestEject, hq, hn, decide_false, Bool.false_and, Bool.false_eq_true, if_false]

theorem requestEject_waits (hn : n = snReq) (hw : b.graftWaits t q.1 = true) : b.requestEject t n = b := by
  subst hn
  simp only [Blk.requestEject, hq, hw, decide_true, Bool.and_self, if_true]

theorem requestEject_ejected (hn : n = snReq) (hw : b.graftWaits t q.1 = false) :
    b.requestEject t n = (b.setEject t n rest).ejected t q := by
  subst hn
  simp only [Blk.requestEject, hq, hw, Bool.and_false, Bool.false_eq_true, if_false, if_true]

end

theorem ejected_attach (h : b.attachTakes t (pOp q.1.hdr) = true) : b.ejected t q = b.toInbox t q := if_pos h

section
variable (ha : b.attachTakes t (pOp q.1.hdr) = false)
include ha

theorem ejected_tested (h : b.clusterTested (clusterOf t) = true) : b.ejected t q = b.errReq t q erSelfTest := by
  simp only [Blk.ejected, ha, h, Bool.false_eq_true, if_false, if_true]

variable (ht : b.clusterTested (clusterOf t) = false)
include ht

section
variable (hown : b.owns (pPlot q.1.hdr) t = true)
include hown

theorem ejected_stale (hgen : pGen q.1.hdr ≠ (b.plot (pPlot q.1.hdr)).graft.gen.toNat) : b.ejected t q = b.errReq t q erPlacement := by
  simp only [Blk.ejected, ha, ht, hown, hgen, Bool.not_true, Bool.false_eq_true, if_false, ne_eq, not_false_eq_true, if_true]

theorem ejected_current (hgen : pGen q.1.hdr = (b.plot (pPlot q.1.hdr)).graft.gen.toNat) :
    b.ejected t q = if opTaken (pOp q.1.hdr) then b.toInbox t q else b.errReq t q erState := by
  simp only [Blk.ejected, ha, ht, hown, hgen, Bool.not_true, Bool.false_eq_true, if_false, ne_eq, not_true]
  cases opTaken (pOp q.1.hdr) <;> rfl

end

/-- A packet under the map that a rebind replaced (R270). -/
def underOldMap (b : Blk) (t : Nat) (q : Packet × Nat) : Prop :=
  (b.plot (pPlot q.1.hdr)).graft.holding = true ∧ flag (b.plot (pPlot q.1.hdr)).graft.old t = true ∧
    pGen q.1.hdr = ((b.plot (pPlot q.1.hdr)).graft.gen.toNat + 65535) % 65536

omit ha ht in
theorem oldTest_of_underOldMap (h : underOldMap b t q) :
    ((b.plot (pPlot q.1.hdr)).graft.holding && flag (b.plot (pPlot q.1.hdr)).graft.old t &&
      decide (pGen q.1.hdr = ((b.plot (pPlot q.1.hdr)).graft.gen.toNat + 65535) % 65536)) = true := by
  obtain ⟨hhold, hold, hgen⟩ := h
  simp [hhold, hold, hgen]

omit ha ht in
theorem oldTest_of_not_underOldMap (h : ¬underOldMap b t q) :
    ((b.plot (pPlot q.1.hdr)).graft.holding && flag (b.plot (pPlot q.1.hdr)).graft.old t &&
      decide (pGen q.1.hdr = ((b.plot (pPlot q.1.hdr)).graft.gen.toNat + 65535) % 65536)) = false := by
  rw [Bool.eq_false_iff]
  intro htest
  simp only [Bool.and_eq_true, decide_eq_true_eq, and_assoc] at htest
  exact h htest

variable (hown : b.owns (pPlot q.1.hdr) t = false)
include hown

theorem ejected_unknown (h : ¬underOldMap b t q) : b.ejected t q = b.drop t 0x24 none (some (pPlot q.1.hdr)) := by
  simp only [Blk.ejected, ha, ht, hown, oldTest_of_not_underOldMap h, Bool.not_false, Bool.false_eq_true, if_false, if_true]

theorem ejected_no_graft (hold : underOldMap b t q) (hfwd : graftForwards (pOp q.1.hdr) = true)
    (hmap : flag ((b.plot (pPlot q.1.hdr)).graft.map.getD t 0#16) 10 = false) :
    b.ejected t q = b.drop t 0x24 none (some (pPlot q.1.hdr)) := by
  simp only [Blk.ejected, ha, ht, hown, oldTest_of_underOldMap hold, hfwd, hmap, Bool.not_false, Bool.false_eq_true, if_false, if_true]

theorem ejected_grafted (hold : underOldMap b t q) (hfwd : graftForwards (pOp q.1.hdr) = true)
    (hmap : flag ((b.plot (pPlot q.1.hdr)).graft.map.getD t 0#16) 10 = true) :
    b.ejected t q =
      let h := regraft q.1.hdr (fld ((b.plot (pPlot q.1.hdr)).graft.map.getD t 0#16) 0 10) (b.plot (pPlot q.1.hdr)).graft.gen.toNat
      (b.count t evGraftFwd (some (pPlot q.1.hdr))).enterInput t snReq 4 h { q.1 with hdr := h } := by
  simp only [Blk.ejected, ha, ht, hown, oldTest_of_underOldMap hold, hfwd, hmap, Bool.not_false, Bool.false_eq_true, if_false, if_true]

theorem ejected_refused (hold : underOldMap b t q) (hfwd : graftForwards (pOp q.1.hdr) = false) :
    b.ejected t q = (b.count t evGraftRefused (some (pPlot q.1.hdr))).errReq t q erPlacement := by
  simp only [Blk.ejected, ha, ht, hown, oldTest_of_underOldMap hold, hfwd, Bool.not_false, Bool.false_eq_true, if_false, if_true]

end

/-! ### Replies and timers -/

/-- A reply meets the slot that waits for it (R95). -/
def meetsSlot (b : Blk) (t n : Nat) (p : Packet) : Prop :=
  b.clusterTested (clusterOf t) = false ∧ (b.slot (slotKey (replyOwner t n p)) (pSlot p.hdr)).state = .waiting ∧
    b.fromTarget (b.slot (slotKey (replyOwner t n p)) (pSlot p.hdr)) (pSrc p.hdr) = true

section
variable (hq : takeFirst (fun (x : Packet × Nat) => !isRequest n x.1) (b.ejectBuf t n) = some (q, rest))
include hq

theorem replyArrival_serves (h : meetsSlot (b.setEject t n rest) t n q.1) :
    b.replyArrival t n =
      let c := b.setEject t n rest
      let y := c.slot (slotKey (replyOwner t n q.1)) (pSlot q.1.hdr)
      (c.setSlot (slotKey (replyOwner t n q.1)) (pSlot q.1.hdr) Slot.fresh).serve t y.target y.ref
        (if y.sealHit = true ∧ pErr q.1.hdr = true then .error erSealed else answerOf q.1) (some q.1) := by
  obtain ⟨htest, hwait, hfrom⟩ := h
  simp only [Blk.replyArrival, hq, htest, hwait, hfrom, ne_eq, not_true, decide_false, Bool.not_true, Bool.or_self, Bool.false_eq_true,
    if_false, Bool.and_eq_true]

theorem replyArrival_late (h : ¬meetsSlot (b.setEject t n rest) t n q.1) :
    b.replyArrival t n = (b.setEject t n rest).count t evLateReply (some (pPlot q.1.hdr)) := by
  simp only [Blk.replyArrival, hq]
  refine if_pos ?_
  refine Classical.byContradiction fun hnot => ?_
  simp only [Bool.or_eq_true, decide_eq_true_eq, not_or, Bool.not_eq_true, Classical.not_not, Bool.not_eq_false', ne_eq] at hnot
  obtain ⟨⟨htest, hwait⟩, hfrom⟩ := hnot
  exact h ⟨htest, hwait, hfrom⟩

end

theorem replyLate_discards {y : Nat × Packet × Nat} {rest : List (Nat × Packet × Nat)}
    (h : takeFirst (fun (x : Nat × Packet × Nat) => x.1 = n) (b.tile t).net.replyWait = some (y, rest)) :
    b.replyLate t n = (b.modTile t fun y => { y with net := { y.net with replyWait := rest } }).count t evReplyLate := by
  simp only [Blk.replyLate, h]

theorem reqTimeout_fires {o : SlotOwner} {i : Nat} (h : (b.slot (slotKey o) i).state = .waiting) :
    b.reqTimeout o i =
      let y := b.slot (slotKey o) i
      (((b.count (slotTile o) evReqTimeout (some y.plot)).raiseP 0x07 y.plot (some (slotTile o)) i y.target).setSlot
        (slotKey o) i (if tReply ≤ y.timeout then Slot.fresh else { y with state := .quarantine })).serve
          (slotTile o) y.target y.ref (.error erTimeout) none := by
  simp only [Blk.reqTimeout, h, ne_eq, not_true, if_false]

end

end

/-- Settles O14: a request offered, then each requester, ejection, reply, timer and control. -/
theorem requestsAndReplies : Obligations.RequestsAndReplies := by
  unfold Obligations.RequestsAndReplies
  refine ⟨fun b o who sub vc r => ?_, fun s t => ?_⟩
  · intro t pkt room
    exact ⟨sendReq_noRoom, sendReq_noSlot, fun i hroom hslot => ⟨sendReq_refused hroom hslot, sendReq_sent hroom hslot⟩⟩
  · intro b x
    refine ⟨fun y r hr hy hop hreq => ?_, fun y hr hy hack => ?_, fun g gs hr hnone hg => ?_, fun r q hr hb hq => ?_,
      fun d ds hr hd hok hack hmore => ?_, fun k ks hr hk => ?_, ⟨fun hr => ?_, fun hr hnone => ?_, fun out p xs rest hr hq => ?_⟩, ?_,
      fun n q rest hr hq => ?_, fun n y rest hr hy => ?_, fun n q rest hr hq => ?_, fun o i => ?_, fun o i hr hquar => ?_,
      fun v hr => ⟨fun ht => ?_, fun ht => ?_⟩, fun v hr => ⟨fun ht => ?_, fun ht => ?_⟩⟩
    · show execRequestInject t .mover s = _
      exact mesh_becomes hr (injectEngine_offers hy (fun h => absurd h hop) hreq)
    · show execRequestInject t .queue s = _
      exact mesh_becomes hr ((requestInject_queue hy).trans (injectEngine_offers hy hack rfl))
    · show execRequestInject t .queue s = _
      exact mesh_becomes hr ((requestInject_get hnone).trans (injectGet_offers hg))
    · show execRequestInject t .stealUnit s = _
      exact mesh_becomes hr (injectStolen_offers hb hq)
    · show execRequestInject t .ingress s = _
      exact mesh_becomes hr (injectDfp_offers hd hok hack hmore)
    · show execRequestInject t .home s = _
      exact mesh_becomes hr (injectKhdr_offers hk)
    · show execRequestInject t .vault s = _
      exact mesh_becomes hr rfl
    · show execRequestInject t .steward s = _
      exact mesh_becomes hr (requestInject_admin hnone)
    · show execRequestInject t .steward s = _
      exact mesh_becomes hr (requestInject_quorum hq)
    · intro preempt fits scrub dbg
      refine ⟨fun hr => ⟨fun hfew hfit => ?_, fun hno => ?_⟩, fun hr => ⟨fun hmay hfew hfit => ?_, fun hno => ?_⟩,
        fun w addr data hr => ?_⟩
      · show execRequestInject t .scrubber s = _
        exact mesh_becomes hr (requestInject_scrubber.trans (injectPreempt_enters hfew hfit))
      · show execRequestInject t .scrubber s = _
        exact mesh_becomes hr (requestInject_scrubber.trans (injectPreempt_waits hno))
      · show execRequestInject t .debug s = _
        exact mesh_becomes hr ((requestInject_debug hmay).trans (injectPreempt_enters hfew hfit))
      · show execRequestInject t .debug s = _
        refine mesh_becomes hr ?_
        by_cases hdbg : b.debugRefused t = true
        · exact requestInject_debugRefused hdbg
        · exact (requestInject_debug (eq_false_of_ne_true hdbg)).trans (injectPreempt_waits (hno.resolve_left hdbg))
      · intro p may
        refine ⟨fun ⟨hdbg, hlen, hend, hfew, hfit⟩ => ?_, fun hnot => ?_⟩
        · show execDbgAccess t w addr data s = _
          exact mesh_becomes hr ((debugAccess_reaches hdbg hlen hend).trans (injectPreempt_enters hfew hfit))
        · show execDbgAccess t w addr data s = _
          refine mesh_becomes hr ?_
          by_cases hform : b.debugRefused t = false ∧ data.length ≤ 64 ∧ addr + data.length ≤ sramBytes
          · obtain ⟨hdbg, hlen, hend⟩ := hform
            refine (debugAccess_reaches hdbg hlen hend).trans (injectPreempt_waits ?_)
            refine Classical.byContradiction fun hgo => ?_
            simp only [not_or, ne_eq, Bool.not_eq_true, Bool.not_eq_false, Nat.not_le, Nat.not_lt] at hgo
            exact hnot ⟨hdbg, hlen, hend, hgo.1, hgo.2⟩
          · exact debugAccess_refused hform
    · intro b1 plot op g c m
      refine ⟨fun hn => ?_, fun hn hw => ?_, fun hn hw => ?_⟩
      · show execRequestEject t n s = _
        exact mesh_becomes hr (requestEject_admin hq hn)
      · show execRequestEject t n s = _
        exact mesh_becomes hr (requestEject_waits hq hn hw)
      · have hej : s.blk.requestEject t n = b1.ejected t q := requestEject_ejected hq hn hw
        intro local_ old
        refine ⟨fun ha => ?_, fun ha ht => ?_, fun ⟨ha, ht⟩ hown hno => ?_, fun ⟨ha, ht⟩ hown hold hfwd hmap => ?_,
          fun ⟨ha, ht⟩ hown hold hfwd => ?_, fun ⟨ha, ht⟩ hown hgen => ?_, fun ⟨ha, ht⟩ hown hgen => ?_⟩
        · show execRequestEject t n s = _
          exact mesh_becomes hr (hej.trans (ejected_attach ha))
        · show execRequestEject t n s = _
          exact mesh_becomes hr (hej.trans (ejected_tested ha ht))
        · show execRequestEject t n s = _
          refine mesh_becomes hr (hej.trans ?_)
          by_cases hold : underOldMap b1 t q
          · rcases hno with hno | ⟨hfwd, hmap⟩
            · exact absurd hold hno
            · exact ejected_no_graft ha ht hown hold hfwd hmap
          · exact ejected_unknown ha ht hown hold
        · show execRequestEject t n s = _
          exact mesh_becomes hr (hej.trans (ejected_grafted ha ht hown hold hfwd hmap))
        · show execRequestEject t n s = _
          exact mesh_becomes hr (hej.trans (ejected_refused ha ht hown hold hfwd))
        · show execRequestEject t n s = _
          exact mesh_becomes hr (hej.trans (ejected_stale ha ht hown hgen))
        · show execRequestEject t n s = _
          exact mesh_becomes hr (hej.trans (ejected_current ha ht hown hgen))
    · show execReplyDeadline t n s = _
      exact mesh_becomes hr (replyLate_discards hy)
    · intro b1 k y meets
      refine ⟨fun h => ?_, fun h => ?_⟩
      · show execReplyArrival t n s = _
        exact mesh_becomes hr (replyArrival_serves hq h)
      · show execReplyArrival t n s = _
        exact mesh_becomes hr (replyArrival_late hq h)
    · intro y hr hwait
      show execReqTimeout o i s = _
      exact mesh_becomes hr (reqTimeout_fires hwait)
    · show execSlotQuarantineEnd o i s = _
      exact mesh_becomes hr (if_pos hquar)
    · show execOpenCtrlWrite t v s = _
      exact page_becomes hr ht rfl
    · show execOpenCtrlWrite t v s = _
      exact page_unmapped hr ht
    · show execEngCtrlWrite t v s = _
      exact page_becomes hr ht rfl
    · show execEngCtrlWrite t v s = _
      exact page_unmapped hr ht

end Sys2Proof.Requests
end


section
/-! Accesses that reach a tile (R156–R158, R166–R171): message packets, remote reads and writes, combining packets. -/
namespace Sys2Proof.RemoteAccess
open Sys2Proof Sys2Proof.Machine Sys2Proof.Safety Sys2Proof.Laws Sys2Proof.Acts

section
variable {b c : Blk} {t : Nat} {q : Packet × Nat}

/-! ### Message packets -/

section
variable (hq : b.takeInbox t (fun op => op = rqHandler || op = rqQueue) = some (q, c))
include hq

theorem msgLand_first (h0 : mOffset q.1.body = 0) : b.msgLand t = c.landFirst t q := by
  simp only [Blk.msgLand, hq, if_pos h0]

theorem msgLand_later (h0 : mOffset q.1.body ≠ 0) : b.msgLand t = c.landLater t q := by
  simp only [Blk.msgLand, hq, if_neg h0]

end

/-- The queue of a message, and the handler it is for: a handler's own queue, or the queue that it names (R157, R166). -/
def meantFor (b : Blk) (t : Nat) (q : Packet × Nat) (hd : Option Handler) (i : Nat) : Prop :=
  (pOp q.1.hdr = rqHandler ∧ hd = some ((b.tile t).handlerOf (mTarget q.1.body)) ∧
      ((b.tile t).handlerOf (mTarget q.1.body)).valid = true ∧ i = ((b.tile t).handlerOf (mTarget q.1.body)).queue) ∨
    (pOp q.1.hdr ≠ rqHandler ∧ hd = none ∧ i = mTarget q.1.body % 16)

/-- The header that a message's first packet gives its entry (R160). -/
def firstHeader (q : Packet × Nat) (seq : Nat) : BitVec 512 :=
  msgHeader seq false (if pOp q.1.hdr = rqHandler then mTarget q.1.body else 0) (pSrc q.1.hdr) (mId q.1.body) (mBytes q.1.body)
    (pArg q.1.hdr) (pGen q.1.hdr) (pOp q.1.hdr) (pPlot q.1.hdr)

/-- The entry's first bytes are written, and the packet is acknowledged with the entry's number. -/
def ackFirst (c : Blk) (t : Nat) (q : Packet × Nat) (r : Queue) (p : Nat) : Blk :=
  let d := c.writeSram t (r.addr p + 64) ((q.1.body.drop 16).take (msgData (mBytes q.1.body) 0))
  d.answerReq t q (fld (d.header t r p) 0 16) []

section
variable {hd : Option Handler} {i p : Nat} (hfor : meantFor b t q hd i) (hbound : ((b.tile t).queue i).bound = true)
  (hring : ((b.tile t).queue i).combine = false) (hfit : mBytes q.1.body ≤ 64 * (((b.tile t).queue i).size - 1))
  (hfb : b.fbFirst t i = false)
  (hres : b.reserve t i (1 + ceilDiv (mBytes q.1.body) 64) hd (firstHeader q) (mBytes q.1.body ≤ 128) = some (p, c))
  (hseal : (b.tile t).sealedHit (((b.tile t).queue i).addr p) (64 * (1 + ceilDiv (mBytes q.1.body) 64)) = false)
include hfor hbound hring hfit hfb hres hseal

theorem landFirst_whole (hshort : mBytes q.1.body ≤ 128) : b.landFirst t q = ackFirst c t q ((b.tile t).queue i) p := by
  unfold firstHeader at hres
  rcases hfor with ⟨hop, rfl, hvalid, rfl⟩ | ⟨hop, rfl, rfl⟩
  · simp only [if_pos hop] at hres
    simp only [Blk.landFirst, ackFirst, if_pos hop, Option.any_some, hvalid, Bool.not_true, hbound, hring, Bool.and_false,
      Nat.not_lt.mpr hfit, decide_false, hfb, Bool.or_self, Bool.false_eq_true, if_false, hres, hseal, if_pos hshort]
  · simp only [if_neg hop] at hres
    simp only [Blk.landFirst, ackFirst, if_neg hop, Option.any_none, Bool.not_true, hbound, hring, Bool.and_false,
      Nat.not_lt.mpr hfit, decide_false, hfb, Bool.or_self, Bool.false_eq_true, if_false, hres, hseal, if_pos hshort]

theorem landFirst_assembly {k : Nat} (hlong : 128 < mBytes q.1.body) (hk : (b.tile t).freeAsm = some k) :
    b.landFirst t q =
      let asm : Assembly := { src := pSrc q.1.hdr, msgId := mId q.1.body, queue := i, ptr := p,
                              cells := 1 + ceilDiv (mBytes q.1.body) 64,
                              left := mBytes q.1.body - msgData (mBytes q.1.body) 0, last := b.clk.mc }
      ackFirst (c.modTile t fun x => { x with ms := { x.ms with asms := x.ms.asms.put k asm } }) t q ((b.tile t).queue i) p := by
  have hnot := Nat.not_le.mpr hlong
  unfold firstHeader at hres
  rcases hfor with ⟨hop, rfl, hvalid, rfl⟩ | ⟨hop, rfl, rfl⟩
  · simp only [if_pos hop] at hres
    simp only [Blk.landFirst, ackFirst, if_pos hop, Option.any_some, hvalid, Bool.not_true, hbound, hring, Bool.and_false,
      Nat.not_lt.mpr hfit, decide_false, hfb, Bool.or_self, Bool.false_eq_true, if_false, hres, hseal, if_neg hnot, hk]
  · simp only [if_neg hop] at hres
    simp only [Blk.landFirst, ackFirst, if_neg hop, Option.any_none, Bool.not_true, hbound, hring, Bool.and_false,
      Nat.not_lt.mpr hfit, decide_false, hfb, Bool.or_self, Bool.false_eq_true, if_false, hres, hseal, if_neg hnot, hk]

end

section
variable {k : Nat} {y : Assembly}
  (hy : (b.tile t).ms.asms.find? (fun z => z.2.src = pSrc q.1.hdr && z.2.msgId = mId q.1.body) = some (k, y))
  (hseal : (b.tile t).sealedHit (((b.tile t).queue y.queue).addr y.ptr + 64 + mOffset q.1.body)
    (msgData (mBytes q.1.body) (mOffset q.1.body)) = false)
include hy hseal

theorem landLater_more (hmore : msgData (mBytes q.1.body) (mOffset q.1.body) < y.left) :
    b.landLater t q =
      let m := msgData (mBytes q.1.body) (mOffset q.1.body)
      let r := (b.tile t).queue y.queue
      let c := b.writeSram t (r.addr y.ptr + 64 + mOffset q.1.body) ((q.1.body.drop 16).take m)
      let d := c.modTile t fun z =>
        { z with ms := { z.ms with asms := z.ms.asms.put k { y with left := y.left - m, last := c.clk.mc } } }
      d.answerReq t q (fld (d.header t r y.ptr) 0 16) [] := by
  simp only [Blk.landLater, hy, hseal, Bool.false_eq_true, if_false, if_neg (Nat.not_le.mpr hmore)]

theorem landLater_last (hlast : y.left ≤ msgData (mBytes q.1.body) (mOffset q.1.body)) :
    b.landLater t q =
      let m := msgData (mBytes q.1.body) (mOffset q.1.body)
      let r := (b.tile t).queue y.queue
      let c := b.writeSram t (r.addr y.ptr + 64 + mOffset q.1.body) ((q.1.body.drop 16).take m)
      let d := (c.modTile t fun z => { z with ms := { z.ms with asms := z.ms.asms.del k } }).modQueue t y.queue fun r =>
        { r with open_ := r.open_.map fun e => if e.ptr = y.ptr then { e with complete := true } else e }
      d.answerReq t q (fld (d.header t r y.ptr) 0 16) [] := by
  simp only [Blk.landLater, hy, hseal, Bool.false_eq_true, if_false, if_pos hlast]

end

/-! ### Remote reads and writes -/

section
variable (hq : b.takeInbox t (· = rqGet) = some (q, c))
include hq

theorem remoteGet_bad (hok : remoteOk (pArg q.1.hdr) (mBytes q.1.body) = false) : b.remoteGet t = c.errReq t q erState := by
  simp only [Blk.remoteGet, hq, hok, Bool.not_false, if_true]

theorem remoteGet_sealed (hok : remoteOk (pArg q.1.hdr) (mBytes q.1.body) = true)
    (hs : (c.tile t).sealedHit (pArg q.1.hdr) (mBytes q.1.body) = true) : b.remoteGet t = c.errSealed t q := by
  simp only [Blk.remoteGet, hq, hok, hs, Bool.not_true, Bool.false_eq_true, if_false, if_true]

theorem remoteGet_reads {d : Blk} (hok : remoteOk (pArg q.1.hdr) (mBytes q.1.body) = true)
    (hs : (c.tile t).sealedHit (pArg q.1.hdr) (mBytes q.1.body) = false) (hr : Reads c t (pArg q.1.hdr) (mBytes q.1.body) d) :
    b.remoteGet t = d.answerReq t q (mBytes q.1.body - 1) (c.readSram t (pArg q.1.hdr) (mBytes q.1.body)) := by
  simp only [Blk.remoteGet, hq, hok, hs, hr, Bool.not_true, Bool.false_eq_true, if_false]

end

section
variable (hq : b.takeInbox t (· = rqPut) = some (q, c))
include hq

theorem remotePut_bad (hok : remoteOk (pArg q.1.hdr) (mBytes q.1.body) = false) : b.remotePut t = c.errReq t q erState := by
  simp only [Blk.remotePut, hq, hok, Bool.not_false, if_true]

theorem remotePut_sealed (hok : remoteOk (pArg q.1.hdr) (mBytes q.1.body) = true)
    (hs : (c.tile t).sealedHit (pArg q.1.hdr) (mBytes q.1.body) = true) : b.remotePut t = c.errSealed t q := by
  simp only [Blk.remotePut, hq, hok, hs, Bool.not_true, Bool.false_eq_true, if_false, if_true]

theorem remotePut_writes (hok : remoteOk (pArg q.1.hdr) (mBytes q.1.body) = true)
    (hs : (c.tile t).sealedHit (pArg q.1.hdr) (mBytes q.1.body) = false) :
    b.remotePut t = (c.writeSram t (pArg q.1.hdr) ((q.1.body.drop 16).take (mBytes q.1.body))).answerReq t q 0 [] := by
  simp only [Blk.remotePut, hq, hok, hs, Bool.not_true, Bool.false_eq_true, if_false]

end

/-! ### Combining packets -/

section
variable (hq : b.takeInbox t (· = rqCombine) = some (q, c))
include hq

theorem combine_bad (h : ¬(((c.tile t).queue (mTarget q.1.body % 16)).bound = true ∧
      ((c.tile t).queue (mTarget q.1.body % 16)).combine = true ∧
      ((c.tile t).queue (mTarget q.1.body % 16)).takes (mFmt q.1.body) = true)) : b.combine t = c.errReq t q erState := by
  simp only [Blk.combine, hq]
  refine if_pos ?_
  refine Classical.byContradiction fun hnot => ?_
  simp only [Bool.or_eq_true, not_or, Bool.not_eq_true', Bool.not_eq_false] at hnot
  obtain ⟨⟨hbound, hcomb⟩, htakes⟩ := hnot
  exact h ⟨hbound, hcomb, htakes⟩

variable (hbound : ((c.tile t).queue (mTarget q.1.body % 16)).bound = true)
  (hcomb : ((c.tile t).queue (mTarget q.1.body % 16)).combine = true)
  (htakes : ((c.tile t).queue (mTarget q.1.body % 16)).takes (mFmt q.1.body) = true)
include hbound hcomb htakes

theorem combine_range (h : ((c.tile t).queue (mTarget q.1.body % 16)).size <
      pArg q.1.hdr + mBytes q.1.body / (fmtBits (mFmt q.1.body) / 8)) :
    b.combine t = (c.count t evCombineRange (some (pPlot q.1.hdr))).errReq t q erState := by
  simp only [Blk.combine, hq, hbound, hcomb, htakes, Bool.not_true, Bool.or_self, Bool.false_eq_true, if_false, if_pos h]

theorem combine_adds (h : pArg q.1.hdr + mBytes q.1.body / (fmtBits (mFmt q.1.body) / 8) ≤
      ((c.tile t).queue (mTarget q.1.body % 16)).size)
    (hs : (c.tile t).sealedHit (((c.tile t).queue (mTarget q.1.body % 16)).base * 64 +
        pArg q.1.hdr * fraBytes ((c.tile t).queue (mTarget q.1.body % 16)).wide)
      (mBytes q.1.body / (fmtBits (mFmt q.1.body) / 8) * fraBytes ((c.tile t).queue (mTarget q.1.body % 16)).wide) = false) :
    b.combine t =
      let fmt := mFmt q.1.body
      let m := mBytes q.1.body / (fmtBits fmt / 8)
      let vs := decodeRun fmt m (q.1.body.drop 16)
      let r := (c.tile t).queue (mTarget q.1.body % 16)
      let form := if r.wide then formWide else if fmtGrid fmt = .int then formInt else formFloat
      let d := (r.expect + 2 ^ 32 - r.contrib) % 2 ^ 32
      let c' := ((c.combineInto t r fmt (pArg q.1.hdr) vs).countAdds t (pPlot q.1.hdr) form vs 0).modQueue t (mTarget q.1.body % 16)
        fun y => { y with contrib := (r.contrib + m) % 2 ^ 32, grid := if y.wide then y.grid else fmtGrid fmt }
      (if r.semEn = true ∧ r.expect ≠ 0 ∧ 1 ≤ d ∧ d ≤ m then c'.signal t (pPlot q.1.hdr) r.sem 1 else c').answerReq t q 0 [] := by
  simp only [Blk.combine, hq, hbound, hcomb, htakes, Bool.not_true, Bool.or_self, Bool.false_eq_true, if_false,
    if_neg (Nat.not_lt.mpr h), hs, Bool.and_eq_true, decide_eq_true_eq, and_assoc, ne_eq]

end

end

/-- Settles O15, packet by packet. -/
theorem remoteAccesses : Obligations.RemoteAccesses := by
  unfold Obligations.RemoteAccesses
  intro s t q b h body n a
  refine ⟨fun hr hq => ⟨fun h0 => ?_, fun hd i p b' h0 hfor => ?_, fun k y => ?_⟩,
    fun hr hq => ⟨fun hok => ?_, fun hok hs => ?_, fun b' hok hs hrd => ?_⟩,
    fun hr hq => ⟨fun hok => ?_, fun hok hs => ?_, fun hok hs => ?_⟩, fun i r hi hrq => ?_⟩
  · show execMsgPacketLand t s = _
    exact mesh_becomes hr (msgLand_first hq h0)
  · intro r hbound hring hfit hfb hres hseal ack asm
    refine ⟨fun hshort => ?_, fun k hlong hk => ?_⟩
    · show execMsgPacketLand t s = _
      exact mesh_becomes hr ((msgLand_first hq h0).trans (landFirst_whole hfor hbound hring hfit hfb hres hseal hshort))
    · show execMsgPacketLand t s = _
      exact mesh_becomes hr ((msgLand_first hq h0).trans (landFirst_assembly hfor hbound hring hfit hfb hres hseal hlong hk))
  · intro r m at_ h0 hy hseal b' ack
    refine ⟨fun hmore => ?_, fun hlast => ?_⟩
    · show execMsgPacketLand t s = _
      exact mesh_becomes hr ((msgLand_later hq h0).trans (landLater_more hy hseal hmore))
    · show execMsgPacketLand t s = _
      exact mesh_becomes hr ((msgLand_later hq h0).trans (landLater_last hy hseal hlast))
  · show execRemoteGet t s = _
    exact mesh_becomes hr (remoteGet_bad hq hok)
  · show execRemoteGet t s = _
    exact mesh_becomes hr (remoteGet_sealed hq hok hs)
  · show execRemoteGet t s = _
    exact mesh_becomes hr (remoteGet_reads hq hok hs hrd)
  · show execRemotePut t s = _
    exact mesh_becomes hr (remotePut_bad hq hok)
  · show execRemotePut t s = _
    exact mesh_becomes hr (remotePut_sealed hq hok hs)
  · show execRemotePut t s = _
    exact mesh_becomes hr (remotePut_writes hq hok hs)
  · intro fmt m vs hr hq
    subst hi hrq
    refine ⟨fun hbad => ?_, fun hbound hcomb htakes => ⟨fun hrange => ?_, fun hfit hs => ?_⟩⟩
    · show execCombinePacket t s = _
      exact mesh_becomes hr (combine_bad hq hbad)
    · show execCombinePacket t s = _
      exact mesh_becomes hr (combine_range hq hbound hcomb htakes hrange)
    · show execCombinePacket t s = _
      exact mesh_becomes hr (combine_adds hq hbound hcomb htakes hfit hs)

end Sys2Proof.RemoteAccess
end


section
/-! The sown plane (R42–R71, R410, R411): frame lock, windows and cells, load and swap of a shadow, expert writes. -/
namespace Sys2Proof.SownPlane
open Sys2Proof Sys2Proof.Machine Sys2Proof.Safety Sys2Proof.Laws Sys2Proof.Acts

/-! ### Frame lock -/

section
variable {b : Blk} {d diff : Nat}

theorem tickMarker_elsewhere (h : b.member ≠ .dx1024 ∨ d = 0) : b.tickMarker d diff = b :=
  if_pos (by simpa using h)

section
variable (hm : b.member = .dx1024) (hd : d ≠ 0)
include hm hd

theorem tickMarker_inTime_locked (h : (b.die d).locked = true) : b.tickMarker d 0 = b := by
  simp [Blk.tickMarker, hm, hd, h]

theorem tickMarker_inTime_unlocked (h : (b.die d).locked = false) :
    b.tickMarker d 0 = b.modDie d fun x => { x with zeros := x.zeros + 1 } := by
  simp [Blk.tickMarker, hm, hd, h]

theorem tickMarker_late_unlocked (hlate : 0 < diff) (h : (b.die d).locked = false) :
    b.tickMarker d diff = b.modDie d fun x => { x with zeros := 0 } := by
  simp [Blk.tickMarker, hm, hd, hlate, h]

theorem tickMarker_late_locked (hlate : 0 < diff) (h : (b.die d).locked = true) : b.tickMarker d diff = b.lockLost d := by
  simp [Blk.tickMarker, hm, hd, hlate, h]

end

/-- What the loss of a die's lock does before anything armed is looked at (R42). -/
def unlocked (b : Blk) (d : Nat) : Blk :=
  ((b.modDie d fun _ => { locked := false, zeros := 0, clearFence := false }).raiseS 0x24 0 none b.sown.active.gen.toNat d).each
    (crossingsOf b.member d) fun b x => b.fence x.1 (2 ^ x.2)

theorem modDie_active (f : DieLock → DieLock) : (b.modDie d f).sown.active = b.sown.active := rfl

theorem raiseS_member (type plot d0 d1 d2 d3 : Nat) : (b.raiseS type plot none d0 d1 d2 d3).member = b.member := rfl

theorem lockLost_eq (b : Blk) (d : Nat) : b.lockLost d =
    (if (unlocked b d).sown.state = .armed then (unlocked b d).lockCancel else unlocked b d).declare fcDie d := by
  have hunlocked : unlocked b d =
      let c := b.modDie d fun _ => { locked := false, zeros := 0, clearFence := false }
      let c := c.raiseS 0x24 0 none c.sown.active.gen.toNat d
      c.each (crossingsOf c.member d) fun b x => b.fence x.1 (2 ^ x.2) := by
    simp only [unlocked, modDie_active, raiseS_member, modDie_member]
  rw [hunlocked, Blk.lockLost]

theorem lockLost_unarmed (h : (unlocked b d).sown.state ≠ .armed) : b.lockLost d = (unlocked b d).declare fcDie d := by
  rw [lockLost_eq, if_neg h]

/-- With the shadow armed, the swap is cancelled for LOCK (R71). -/
theorem lockLost_image (h : (unlocked b d).sown.state = .armed)
    (hf : ((unlocked b d).swapCancel rsLock .ready).fault.current = none) :
    b.lockLost d = ((unlocked b d).swapCancel rsLock .ready).declare fcDie d := by
  rw [lockLost_eq, if_pos h]
  simp only [Blk.lockCancel, hf]

/-- Where the image is an alternate, its fault has failed to arm: it is reported, and no longer waited for. -/
theorem lockLost_alternate {f : Failover} (h : (unlocked b d).sown.state = .armed)
    (hf : ((unlocked b d).swapCancel rsLock .ready).fault.current = some f) :
    b.lockLost d =
      let e := ((unlocked b d).swapCancel rsLock .ready).tellFault f foLoadFail
      Blk.declare { e with fault := { e.fault with current := none } } fcDie d := by
  rw [lockLost_eq, if_pos h]
  simp only [Blk.lockCancel, hf]

theorem lockRegained_not (h : (b.die d).locked = true ∨ (b.die d).zeros < 16) : b.lockRegained d = b :=
  if_pos (by simpa using h)

theorem lockRegained_back (h : (b.die d).locked = false) (h16 : 16 ≤ (b.die d).zeros) :
    b.lockRegained d = ((b.modDie d fun _ => { locked := true, zeros := 0, clearFence := true }).raiseS 0x25 0 none
      b.sown.active.gen.toNat d).undeclare fcDie d := by
  refine if_neg ?_
  simp only [h, Bool.false_or, decide_eq_true_eq]
  omega

end

/-- Settles O16. -/
theorem frameLock : Obligations.FrameLock := by
  unfold Obligations.FrameLock
  intro s d
  refine ⟨fun diff hr => ⟨fun h => ?_, fun hm hd => ⟨fun h0 hl => ?_, fun h0 hl => ?_, fun hlate hl => ?_, fun hlate hl => ?_⟩⟩,
    fun hr => ⟨fun h => ?_, fun h h16 => ?_⟩⟩
  · show execTickMarkerReceive d diff s = _
    exact mesh_becomes hr (tickMarker_elsewhere h)
  · subst h0
    show execTickMarkerReceive d 0 s = _
    exact mesh_becomes hr (tickMarker_inTime_locked hm hd hl)
  · subst h0
    show execTickMarkerReceive d 0 s = _
    exact mesh_becomes hr (tickMarker_inTime_unlocked hm hd hl)
  · show execTickMarkerReceive d diff s = _
    exact mesh_becomes hr (tickMarker_late_unlocked hm hd hlate hl)
  · have hlost := tickMarker_late_locked hm hd hlate hl
    intro b
    have hb : b = unlocked s.blk d := rfl
    rw [hb]
    intro c
    refine ⟨fun hs => ?_, fun hs hf => ?_, fun f hs hf => ?_⟩
    · show execTickMarkerReceive d diff s = _
      exact mesh_becomes hr (hlost.trans (lockLost_unarmed hs))
    · show execTickMarkerReceive d diff s = _
      exact mesh_becomes hr (hlost.trans (lockLost_image hs hf))
    · show execTickMarkerReceive d diff s = _
      exact mesh_becomes hr (hlost.trans (lockLost_alternate hs hf))
  · show execFrameLockRegained d s = _
    exact mesh_becomes hr (lockRegained_not h)
  · show execFrameLockRegained d s = _
    exact mesh_becomes hr (lockRegained_back h h16)

/-! ### Windows, cells and declared failures -/

section
variable {b : Blk} {t o k i : Nat}

theorem openWindow_not (h : b.slots ≤ k ∨ b.clk.offset ≠ windowOffset (b.sown.active.entry t o k) k ∨
      ∃ x ∈ b.openWins t o, x.opened = b.clk.mc) : b.openWindow t o k = b := by
  refine if_pos ?_
  simpa only [Bool.or_eq_true, decide_eq_true_eq, List.any_eq_true, or_assoc] using h

section
variable (hk : k < b.slots) (hat : b.clk.offset = windowOffset (b.sown.active.entry t o k) k)
  (hnew : ∀ x ∈ b.openWins t o, x.opened ≠ b.clk.mc)
include hk hat hnew

/-- The window stands open, its use counted (R45). -/
def windowOpened (b : Blk) (t o k : Nat) : Blk :=
  let e := b.sown.active.entry t o k
  let b0 := b.routerMemory t
  let w : Window := { entry := e, gen := b0.sown.active.gen, bad := !eChkOk e, opened := b0.clk.mc, carried := 0 }
  let c : Blk := { b0 with sown := { b0.sown with windows := b0.sown.windows.put (t * 5 + o) (b.openWins t o ++ [w]) } }
  if o < 4 ∧ eIn e ≠ inIdle then c.count t (evWindowN + o) (some (ePlot e)) else c

theorem openTest_of_due : (decide (b.slots ≤ k) || decide (b.clk.offset ≠ windowOffset (b.sown.active.entry t o k) k) ||
    (b.openWins t o).any (·.opened = b.clk.mc)) = false := by
  have hwins : (b.openWins t o).any (·.opened = b.clk.mc) = false := by
    rw [Bool.eq_false_iff, ne_eq, List.any_eq_true]
    rintro ⟨x, hx, hmc⟩
    exact hnew x hx (of_decide_eq_true hmc)
  rw [hwins, decide_eq_false (Nat.not_le.mpr hk), decide_eq_false (not_not_intro hat)]
  rfl

theorem openWindow_good (he : eChkOk (b.sown.active.entry t o k) = true) :
    b.openWindow t o k = if eIn (b.sown.active.entry t o k) = inInject ∧ o ≠ 4 then
      (windowOpened b t o k).inject t o (b.sown.active.entry t o k) else windowOpened b t o k := by
  simp only [Blk.openWindow, openTest_of_due hk hat hnew, Bool.false_eq_true, if_false, he, Bool.not_true, windowOpened,
    Bool.and_eq_true, decide_eq_true_eq]

theorem openWindow_bad (he : eChkOk (b.sown.active.entry t o k) = false) :
    b.openWindow t o k = ((windowOpened b t o k).count t evTblErr (some (ePlot (b.sown.active.entry t o k)))).echkFail t := by
  simp only [Blk.openWindow, openTest_of_due hk hat hnew, Bool.false_eq_true, if_false, he, Bool.not_false, if_true, windowOpened,
    Bool.and_eq_true, decide_eq_true_eq]

end

theorem cellArrives_none {damage : BitVec 96} (h : b.linkCells (t * 4 + i) = []) : b.cellArrives t i damage = b := by
  simp only [Blk.cellArrives, h]

/-- The cell at the head of a link has left it. -/
def linkPopped (b : Blk) (k : Nat) (cs : List Cell) : Blk := { b with sown := { b.sown with links := b.sown.links.put k cs } }

theorem cellArrives_unclaimed {damage : BitVec 96} {c : Cell} {cs : List Cell} (h : b.linkCells (t * 4 + i) = c :: cs)
    (hw : (linkPopped b (t * 4 + i) cs).takers t i = []) :
    b.cellArrives t i damage = (linkPopped b (t * 4 + i) cs).count t evUnclaimed := by
  unfold linkPopped at hw ⊢
  simp only [Blk.cellArrives, h, hw]

theorem cellArrives_taken {damage : BitVec 96} {c : Cell} {cs : List Cell} (h : b.linkCells (t * 4 + i) = c :: cs)
    (hw : (linkPopped b (t * 4 + i) cs).takers t i ≠ []) :
    b.cellArrives t i damage = (linkPopped b (t * 4 + i) cs).each ((linkPopped b (t * 4 + i) cs).takers t i) fun b x =>
      b.windowCell t x.1 x.2 { c with hdr := c.hdr ^^^ damage } := by
  unfold linkPopped at hw ⊢
  obtain ⟨w, ws, hws⟩ := List.exists_cons_of_ne_nil hw
  simp only [Blk.cellArrives, h, hws]

theorem phyDown_inside (h : b.member.crossing t o = false) : b.phyDown t o = b := by simp [Blk.phyDown, h]

theorem phyDown_crossing (h : b.member.crossing t o = true) :
    b.phyDown t o = (b.fence (b.member.neighbour t o) (bothPlanes (opposite o))).declare fcLink (t * 4 + o) := by
  simp [Blk.phyDown, h]

end

/-- Settles O17. -/
theorem sownPlaneCommands : Obligations.SownPlaneCommands := by
  unfold Obligations.SownPlaneCommands
  intro s t o
  refine ⟨fun k hr => ?_, fun i damage hr => ⟨fun h => ?_, fun c cs h => ?_⟩, fun hr => ?_, fun hr => ⟨fun h => ?_, fun h => ?_⟩,
    fun e hr => ?_⟩
  · intro e ws b0 w b b'
    refine ⟨fun h => ?_, fun hk hat hnew => ⟨fun he => ?_, fun he => ?_⟩⟩
    · show execSownWindowOpen t o k s = _
      exact mesh_becomes hr (openWindow_not h)
    · show execSownWindowOpen t o k s = _
      exact mesh_becomes hr (openWindow_good hk hat hnew he)
    · show execSownWindowOpen t o k s = _
      exact mesh_becomes hr (openWindow_bad hk hat hnew he)
  · show execSownCellArrival t i damage s = _
    exact mesh_becomes hr (cellArrives_none h)
  · intro b c'
    refine ⟨fun hw => ?_, fun hw => ?_⟩
    · show execSownCellArrival t i damage s = _
      exact mesh_becomes hr (cellArrives_unclaimed h hw)
    · show execSownCellArrival t i damage s = _
      exact mesh_becomes hr (cellArrives_taken h hw)
  · show execXsUncorr t o s = _
    exact mesh_becomes hr rfl
  · show execXsPhyDown t o s = _
    exact mesh_becomes hr (phyDown_inside h)
  · show execXsPhyDown t o s = _
    exact mesh_becomes hr (phyDown_crossing h)
  · show execEngineNoProgress t e s = _
    exact mesh_becomes hr rfl

/-! ### Load and swap -/

section
variable {b : Blk}

theorem loadStart_refused (h : b.transferOn 0x2200 0x09 = true ∨ b.transferOn 0x2202 0x01 = true ∨
      b.sown.state = .loading ∨ b.sown.state = .armed ∨ b.sown.state = .retired) : b.loadStart = (b, abState) := by
  by_cases htr : (b.transferOn 0x2200 0x09 || b.transferOn 0x2202 0x01) = true
  · exact if_pos htr
  · have hstate : b.sown.state = .loading ∨ b.sown.state = .armed ∨ b.sown.state = .retired := by
      simp only [Bool.or_eq_true, not_or] at htr
      exact (h.resolve_left htr.1).resolve_left htr.2
    refine (if_neg htr).trans ?_
    rcases hstate with h | h | h <;> rw [h] <;> rfl

theorem loadStart_starts (h1 : b.transferOn 0x2200 0x09 = false) (h2 : b.transferOn 0x2202 0x01 = false)
    (hs : b.sown.state = .free ∨ b.sown.state = .ready ∨ b.sown.state = .invalid) :
    b.loadStart = ({ b with sown := { b.sown with state := .loading, expert := false, busy := true } }, abNone) := by
  refine (if_neg (by simp [h1, h2])).trans ?_
  rcases hs with h | h | h <;> rw [h] <;> rfl

section
variable (hs : b.sown.state = .loading) (he : b.sown.expert = false) (hbusy : b.sown.busy = true)
include hs he hbusy

/-- Where the image of the alternate that a fault waits for starts in the store (R61, R291). -/
def imageOff (b : Blk) (f : Failover) : Nat := lImage (b.fault.library.getD f.entry 0#64)

/-- The shadow with a loaded image in it. -/
def shadowLoaded (b : Blk) (v : SownVersion) : Blk := { b with sown := { b.sown with shadow := v } }

theorem loadTest_of_loading : (decide (b.sown.state ≠ .loading) || b.sown.expert || !b.sown.busy) = false := by
  simp [hs, he, hbusy]

theorem loadDone_image (hf : b.fault.current = none) :
    b.loadDone = (shadowLoaded b (loadImage b false 0 (2 ^ 26)).1).shadowDone (loadImage b false 0 (2 ^ 26)).2 := by
  have hf' : ((shadowLoaded b (loadImage b false 0 (2 ^ 26)).1).shadowDone (loadImage b false 0 (2 ^ 26)).2).fault.current = none := by
    rw [← hf]
    unfold Blk.shadowDone
    dsimp only
    split
    · rfl
    · rfl
  unfold shadowLoaded at hf' ⊢
  simp only [Blk.loadDone, loadTest_of_loading hs he hbusy, Bool.false_eq_true, if_false, hf, Option.isSome_none, hf']

/-- The end of an alternate's load, before its fault is looked at again. -/
def alternateLoaded (b : Blk) (f : Failover) : Blk :=
  (shadowLoaded b (loadImage b true (imageOff b f) (altRouteOff b (imageOff b f))).1).shadowDone
    (loadImage b true (imageOff b f) (altRouteOff b (imageOff b f))).2

omit hs he hbusy in
theorem alternateLoaded_current (f : Failover) : (alternateLoaded b f).fault.current = b.fault.current := by
  unfold alternateLoaded Blk.shadowDone
  dsimp only
  split
  · rfl
  · rfl

theorem loadDone_alternate {f : Failover} (hf : b.fault.current = some f) :
    b.loadDone = if (loadImage b true (imageOff b f) (altRouteOff b (imageOff b f))).2.isSome then
        let e := (alternateLoaded b f).tellFault f foLoadFail
        { e with fault := { e.fault with current := none } }
      else (alternateLoaded b f).armAlternate f := by
  have hf' := (alternateLoaded_current f).trans hf
  unfold alternateLoaded shadowLoaded imageOff at *
  simp only [Blk.loadDone, loadTest_of_loading hs he hbusy, Bool.false_eq_true, if_false, hf, Option.isSome_some, if_true, hf']

end

theorem writeSwapFrame_armed {f : BitVec 64} (h : b.sown.state = .armed) : b.writeSwapFrame f = (b, abState) := if_pos h

theorem writeSwapFrame_range {f : BitVec 64} (h : b.sown.state ≠ .armed) (hf : 2 ^ 48 ≤ f.toNat) : b.writeSwapFrame f = (b, abRange) :=
  (if_neg h).trans (if_pos hf)

theorem writeSwapFrame_sets {f : BitVec 64} (h : b.sown.state ≠ .armed) (hf : f.toNat < 2 ^ 48) :
    b.writeSwapFrame f = ({ b with sown := { b.sown with swapFrame := BitVec.ofNat 48 f.toNat } }, abNone) :=
  (if_neg h).trans (if_neg (Nat.not_le.mpr hf))

theorem arm_arms (h : b.armRefusal b.sown.swapFrame = none) :
    b.arm = ({ b with sown := { b.sown with state := .armed } }, abNone) := by
  simp only [Blk.arm, h]
  rfl

theorem arm_refused {r : Nat} (h : b.armRefusal b.sown.swapFrame = some r) :
    b.arm = (b.swapRefused r, if r = rsSpacing ∨ r = rsTooLate ∨ r = rsTooFar then abRange else abState) := by
  simp only [Blk.arm, h, armAbort, Bool.or_eq_true, decide_eq_true_eq, or_assoc]

theorem disarm_unarmed (h : b.sown.state ≠ .armed) : b.disarm = (b, abNone) := if_pos h

theorem disarm_late (h : b.sown.state = .armed) (hlate : b.mcUntil b.sown.swapFrame < 256) :
    b.disarm = (b.swapRefused rsTooLate, abState) := (if_neg (not_not_intro h)).trans (if_pos hlate)

theorem disarm_disarms (h : b.sown.state = .armed) (hearly : 256 ≤ b.mcUntil b.sown.swapFrame) :
    b.disarm = ({ b with sown := { b.sown with state := .ready } }, abNone) :=
  (if_neg (not_not_intro h)).trans (if_neg (Nat.not_lt.mpr hearly))

theorem retireEnd_free (h : b.sown.state = .retired) (hw : b.fault.waiting = []) :
    b.retireEnd = { b with sown := { b.sown with state := .free } } := by
  simp only [Blk.retireEnd, h, ne_eq, not_true, if_false, hw]

theorem retireEnd_waiting {f : Failover} {fs : List Failover} (h : b.sown.state = .retired) (hw : b.fault.waiting = f :: fs) :
    b.retireEnd = Blk.startFailover { b with sown := { b.sown with state := .free }, fault := { b.fault with waiting := fs } } f := by
  simp only [Blk.retireEnd, h, ne_eq, not_true, if_false, hw]

theorem writeSownQuota_range {p q : Nat} (h : 256 < q) : b.writeSownQuota p q = (b, abRange) := if_pos h

/-- A quota has been set, and the excess that it makes reported (R410). -/
def quotaSet (b : Blk) (p q : Nat) : Blk :=
  let c := b.modPlot p fun x => { x with cfg := { x.cfg with sownQuota := q } }
  match c.firstExcess p with
  | some o => c.raiseS 0x12 p none 0 o
  | none => c

theorem writeSownQuota_sets {p q : Nat} (h : q ≤ 256) :
    b.writeSownQuota p q = (if (quotaSet b p q).sown.state = .armed && !(quotaSet b p q).quotaOk (quotaSet b p q).sown.shadow then
      (quotaSet b p q).swapCancel rsQuota .ready else quotaSet b p q, abNone) := (if_neg (Nat.not_lt.mpr h)).trans rfl

theorem writeSownQuota_keeps {p q : Nat} (h : q ≤ 256)
    (hok : (quotaSet b p q).sown.state ≠ .armed ∨ (quotaSet b p q).quotaOk (quotaSet b p q).sown.shadow = true) :
    b.writeSownQuota p q = (quotaSet b p q, abNone) := by
  have htest : ¬((decide ((quotaSet b p q).sown.state = .armed) && !(quotaSet b p q).quotaOk (quotaSet b p q).sown.shadow) = true) := by
    rcases hok with h | h
    · simp [h]
    · simp [h]
  rw [writeSownQuota_sets h, if_neg htest]

theorem writeSownQuota_cancels {p q : Nat} (h : q ≤ 256) (hs : (quotaSet b p q).sown.state = .armed)
    (hbad : (quotaSet b p q).quotaOk (quotaSet b p q).sown.shadow = false) :
    b.writeSownQuota p q = ((quotaSet b p q).swapCancel rsQuota .ready, abNone) := by
  rw [writeSownQuota_sets h, if_pos (by rw [hs, hbad]; rfl)]

end

/-- Settles O18. -/
theorem sownLoadAndSwap : Obligations.SownLoadAndSwap := by
  unfold Obligations.SownLoadAndSwap
  intro s ch
  refine ⟨fun h => ⟨fun hno => ?_, fun h1 h2 hs => ?_⟩, fun hr hs he hbusy => ?_, fun f h => ⟨fun hs => ?_, fun hs hf => ?_, fun hs hf => ?_⟩,
    fun h => ⟨fun hok => ?_, fun r hno => ?_⟩, fun h => ⟨fun hs => ?_, fun hs hlate => ?_, fun hs hearly => ?_⟩, fun hr hs => ?_,
    fun q h => ⟨fun hq => ?_, fun hq => ?_⟩⟩
  · show execSownLoadStart ch s = _
    exact od_answers h (loadStart_refused hno)
  · show execSownLoadStart ch s = _
    exact od_answers h (loadStart_starts h1 h2 hs)
  · intro off r b
    have hend : ∀ f, (shadowLoaded s.blk (r f).1).shadowDone (r f).2 = b f := by
      intro f
      show Blk.shadowDone _ _ = match (r f).2 with
        | none => _
        | some x => _
      generalize (r f).2 = x
      cases x with
      | none => rfl
      | some x => rfl
    refine ⟨fun hf => ?_, fun f hf => ⟨fun hok => ?_, fun hno => ?_⟩⟩
    · show execSownLoadDone s = _
      exact mesh_becomes hr ((loadDone_image hs he hbusy hf).trans (hend none))
    · have halt : alternateLoaded s.blk f = b (some f) := hend (some f)
      rw [← halt]
      have hok' : ¬(loadImage s.blk true (imageOff s.blk f) (altRouteOff s.blk (imageOff s.blk f))).2.isSome = true :=
        Option.not_isSome_iff_eq_none.mpr hok
      show execSownLoadDone s = _
      exact mesh_becomes hr ((loadDone_alternate hs he hbusy hf).trans (if_neg hok'))
    · have halt : alternateLoaded s.blk f = b (some f) := hend (some f)
      rw [← halt]
      show execSownLoadDone s = _
      exact mesh_becomes hr ((loadDone_alternate hs he hbusy hf).trans (if_pos (Option.isSome_iff_ne_none.mpr hno)))
  · show execSwapFrameWrite ch f s = _
    exact od_answers h (writeSwapFrame_armed hs)
  · show execSwapFrameWrite ch f s = _
    exact od_answers h (writeSwapFrame_range hs hf)
  · show execSwapFrameWrite ch f s = _
    exact od_answers h (writeSwapFrame_sets hs hf)
  · show execSwapArm ch s = _
    exact od_answers h (arm_arms hok)
  · show execSwapArm ch s = _
    exact od_answers h (arm_refused hno)
  · show execSwapDisarm ch s = _
    exact od_answers h (disarm_unarmed hs)
  · show execSwapDisarm ch s = _
    exact od_answers h (disarm_late hs hlate)
  · show execSwapDisarm ch s = _
    exact od_answers h (disarm_disarms hs hearly)
  · intro b
    refine ⟨fun hw => ?_, fun f fs hw => ?_⟩
    · show execShadowRetireEnd s = _
      exact mesh_becomes hr (retireEnd_free hs hw)
    · show execShadowRetireEnd s = _
      exact mesh_becomes hr (retireEnd_waiting hs hw)
  · show execSownQuotaWrite ch q s = _
    exact od_answers h (writeSownQuota_range hq)
  · intro p b b'
    refine ⟨fun hok => ?_, fun hs hbad => ?_⟩
    · show execSownQuotaWrite ch q s = _
      exact od_answers h (writeSownQuota_keeps hq hok)
    · show execSownQuotaWrite ch q s = _
      exact od_answers h (writeSownQuota_cancels hq hs hbad)

/-! ### Expert writes -/

section
variable {b c : Blk} {ch : Channel}

theorem expertBegin_fresh (h : b.sown.state = .free ∨ b.sown.state = .invalid) :
    b.expertBegin = some { b with sown := { b.sown with
      shadow := { b.sown.active with gen := b.sown.active.gen + 1, altOf := 0xFFFF#16 },
      state := .loading, expert := true, busy := false } } := by
  rcases h with h | h <;> simp only [Blk.expertBegin, h]

theorem expertBegin_ready (h : b.sown.state = .ready) :
    b.expertBegin = some { b with sown := { b.sown with state := .loading, expert := true, busy := false } } := by
  simp only [Blk.expertBegin, h]

theorem expertBegin_amending (h : b.sown.state = .loading) (he : b.sown.expert = true) : b.expertBegin = some b := by
  simp only [Blk.expertBegin, h, he, if_true]

/-- An image load runs, or a swap holds the shadow (R64, R411). -/
def shadowHeld (b : Blk) : Prop :=
  b.sown.state = .armed ∨ b.sown.state = .retired ∨ (b.sown.state = .loading ∧ b.sown.expert = false)

theorem expertBegin_held (h : shadowHeld b) : b.expertBegin = none := by
  rcases h with h | h | ⟨h, he⟩
  · simp only [Blk.expertBegin, h]
  · simp only [Blk.expertBegin, h]
  · simp only [Blk.expertBegin, h, he, Bool.false_eq_true, if_false]

theorem expertWrite_held (h : shadowHeld b) (f : SownVersion → SownVersion) : b.expertWrite f = (b, abState) := by
  simp only [Blk.expertWrite, expertBegin_held h]
  rfl

theorem expertWrite_writes (h : b.expertBegin = some c) (f : SownVersion → SownVersion) :
    b.expertWrite f = ({ c with sown := { c.sown with shadow := f c.sown.shadow } }, abNone) := by
  simp only [Blk.expertWrite, h]
  rfl

theorem expertCheck_held (h : shadowHeld b) : b.expertCheck = (b, abState) := by
  rcases h with h | h | ⟨h, he⟩
  · simp only [Blk.expertCheck, h]
    rfl
  · simp only [Blk.expertCheck, h]
    rfl
  · simp only [Blk.expertCheck, h, he, Bool.false_eq_true, if_false]
    rfl

theorem expertCheck_begins (h : b.sown.state = .free ∨ b.sown.state = .ready ∨ b.sown.state = .invalid) :
    b.expertCheck = ({ b with sown := { b.sown with state := .loading, expert := true, busy := true } }, abNone) := by
  rcases h with h | h | h <;> simp only [Blk.expertCheck, h] <;> rfl

theorem expertCheck_amended (h : b.sown.state = .loading) (he : b.sown.expert = true) :
    b.expertCheck = ({ b with sown := { b.sown with busy := true } }, abNone) := by
  simp only [Blk.expertCheck, h, he, if_true]
  rfl

theorem expertCheckEnd_ends (h : b.sown.state = .loading) (he : b.sown.expert = true) (hbusy : b.sown.busy = true) :
    b.expertCheckEnd = b.shadowDone (versionFail b.member b.sown.shadow) := by
  simp only [Blk.expertCheckEnd, h, he, hbusy, decide_true, Bool.and_self, if_true]

section
variable {v : BitVec 32}

theorem writeExpertSel_range {sel : ExpertSel} (h : b.member.hasTile (fld v 0 10) = false ∨
      (sel = .entry ∧ (4 < fld v 10 3 ∨ b.sown.shadow.slots ≤ fld v 16 11))) : b.writeExpertSel ch sel v = (b, abRange) := by
  by_cases ht : b.member.hasTile (fld v 0 10) = true
  · obtain ⟨rfl, hno⟩ := h.resolve_left (by simp [ht])
    have htest : (decide (4 < fld v 10 3) || decide (b.sown.shadow.slots ≤ fld v 16 11)) = true := by simpa using hno
    simp only [Blk.writeExpertSel, ht, Bool.not_true, Bool.false_eq_true, if_false, htest, if_true]
    rfl
  · exact if_pos (by simp [eq_false_of_ne_true ht])

section
variable (ht : b.member.hasTile (fld v 0 10) = true)
include ht

theorem writeExpertSel_entry (ho : fld v 10 3 ≤ 4) (hk : fld v 16 11 < b.sown.shadow.slots) :
    b.writeExpertSel ch .entry v = (b.modSels ch fun x => { x with entry := v &&& 0x07FF1FFF#32 }, abNone) := by
  simp only [Blk.writeExpertSel, ht, Bool.not_true, Bool.false_eq_true, if_false, decide_eq_false (Nat.not_lt.mpr ho),
    decide_eq_false (Nat.not_le.mpr hk), Bool.or_self]
  rfl

theorem writeExpertSel_descriptor :
    b.writeExpertSel ch .descriptor v = (b.modSels ch fun x => { x with desc := v &&& 0x003F03FF#32 }, abNone) := by
  simp only [Blk.writeExpertSel, ht, Bool.not_true, Bool.false_eq_true, if_false]
  rfl

theorem writeExpertSel_route :
    b.writeExpertSel ch .route v = (b.modSels ch fun x => { x with route := v &&& 0x03FF03FF#32 }, abNone) := by
  simp only [Blk.writeExpertSel, ht, Bool.not_true, Bool.false_eq_true, if_false]
  rfl

end

end

end

/-- Settles O19. -/
theorem expertCommands : Obligations.ExpertCommands := by
  unfold Obligations.ExpertCommands
  intro s ch
  refine ⟨expertBegin_fresh, expertBegin_ready, expertBegin_amending, fun hheld => ⟨fun e h => ?_, fun d h => ?_, fun r h => ?_, fun h => ?_⟩,
    fun b hb => ⟨fun e h => ?_, fun d h => ?_, fun r h => ?_⟩,
    fun v => ⟨fun sel h hno => ?_, fun ht => ⟨fun h ho hk => ?_, fun h => ?_, fun h => ?_⟩⟩,
    fun h => ⟨fun hs => ?_, fun hs he => ?_⟩, fun hr hs he hbusy => ?_⟩
  · show execExpertEntryWrite ch e s = _
    exact od_answers h (expertWrite_held hheld _)
  · show execExpertDescriptorWrite ch d s = _
    exact od_answers h (expertWrite_held hheld _)
  · show execExpertRouteWrite ch r s = _
    exact od_answers h (expertWrite_held hheld _)
  · show execExpertCheck ch s = _
    exact od_answers h (expertCheck_held hheld)
  · show execExpertEntryWrite ch e s = _
    exact od_answers h (expertWrite_writes hb _)
  · show execExpertDescriptorWrite ch d s = _
    exact od_answers h (expertWrite_writes hb _)
  · show execExpertRouteWrite ch r s = _
    exact od_answers h (expertWrite_writes hb _)
  · show execExpertSelectorWrite ch sel v s = _
    exact od_answers h (writeExpertSel_range hno)
  · show execExpertSelectorWrite ch .entry v s = _
    exact od_answers h (writeExpertSel_entry ht ho hk)
  · show execExpertSelectorWrite ch .descriptor v s = _
    exact od_answers h (writeExpertSel_descriptor ht)
  · show execExpertSelectorWrite ch .route v s = _
    exact od_answers h (writeExpertSel_route ht)
  · show execExpertCheck ch s = _
    exact od_answers h (expertCheck_begins hs)
  · show execExpertCheck ch s = _
    exact od_answers h (expertCheck_amended hs he)
  · show execExpertCheckDone s = _
    refine mesh_becomes hr ((expertCheckEnd_ends hs he hbusy).trans ?_)
    generalize versionFail s.blk.member s.blk.sown.shadow = x
    cases x with
    | none => rfl
    | some f => rfl

end Sys2Proof.SownPlane
end


section
/-! Attach tiles (R396–R401): HBM and host transfers with their answers, and HBM streams. -/
namespace Sys2Proof.Attach
open Sys2Proof Sys2Proof.Machine Sys2Proof.Safety Sys2Proof.Laws Sys2Proof.Acts

section
variable {b b' : Blk} {t tag : Nat} {q : Packet × Nat}

/-! ### HBM -/

/-- The OP of a transfer at an HBM attach tile. -/
def hbmOp (write : Bool) : Nat := if write then rqHbmWrite else rqHbmRead

theorem hbmTake_serves {op : Nat} (ht : b.member.isHbmTile t = true) (hq : b.takeInbox t (· = op) = some (q, b')) :
    b.hbmTake t op = b.hbmServe b' t op q := by
  simp only [Blk.hbmTake, ht, Bool.not_true, Bool.false_eq_true, if_false, hq]

theorem hbmServe_misplaced {op : Nat} (h : b.hbmAddr t q.1 = none) : b.hbmServe b' t op q = b'.errReq t q erState := by
  simp only [Blk.hbmServe, h]

section
variable {a : Nat} (ha : b.hbmAddr t q.1 = some a)
include ha

theorem hbmServe_no_tag {op : Nat} (h : (b.hbmAt t).freeTag = none) : b.hbmServe b' t op q = b := by
  simp only [Blk.hbmServe, ha, h]

variable (htag : (b.hbmAt t).freeTag = some tag)
include htag

theorem hbmServe_failed {op : Nat} (h : b.fault.failed.contains (fcHbm, b.hbmRes t) = true) :
    b.hbmServe b' t op q = b'.errReq t q erState := by
  simp only [Blk.hbmServe, ha, htag, h, if_true]

variable (hok : b.fault.failed.contains (fcHbm, b.hbmRes t) = false)
include hok

theorem hbmServe_read_pending (h : (b.hbmAt t).pending (pPlot q.1.hdr) a (unitsOf q.1) = true) :
    b.hbmServe b' t rqHbmRead q = b := by
  have hop : decide (rqHbmRead ≠ rqHbmWrite) = true := rfl
  simp only [Blk.hbmServe, ha, htag, hok, Bool.false_eq_true, if_false, hop, Bool.true_and, h, if_true]

theorem hbmServe_reads (h : (b.hbmAt t).pending (pPlot q.1.hdr) a (unitsOf q.1) = false) :
    b.hbmServe b' t rqHbmRead q = b'.modHbm t fun h =>
      { h with reqs := h.reqs.put tag { pkt := q.1, plot := pPlot q.1.hdr, addr := a, write := false } } := by
  have hop : decide (rqHbmRead ≠ rqHbmWrite) = true := rfl
  simp only [Blk.hbmServe, ha, htag, hok, Bool.false_eq_true, if_false, hop, Bool.true_and, h]
  rfl

theorem hbmServe_writes :
    b.hbmServe b' t rqHbmWrite q =
      (b'.writeHbm (b'.member.dieOf t) a ((q.1.body.drop 16).take (unitsOf q.1 * 64))).modHbm t fun h =>
        { h with reqs := h.reqs.put tag { pkt := q.1, plot := pPlot q.1.hdr, addr := a, write := true } } := by
  have hop : decide (rqHbmWrite ≠ rqHbmWrite) = false := rfl
  simp only [Blk.hbmServe, ha, htag, hok, Bool.false_eq_true, if_false, hop, Bool.false_and]
  rfl

end

section
variable {r : HbmReq} (hr : (b.hbmAt t).reqs.get? tag = some r)
include hr

theorem hbmRespond_error : b.hbmRespond t tag true =
    ((b.modHbm t fun h => { h with reqs := h.reqs.del tag }).hbmError t r.addr).errReq t (r.pkt, b.clk.mc) erState := by
  simp only [Blk.hbmRespond, hr, if_true, modHbm_clk]

theorem hbmRespond_written (hw : r.write = true) : b.hbmRespond t tag false =
    (b.modHbm t fun h => { h with reqs := h.reqs.del tag }).answerReq t (r.pkt, b.clk.mc) 0 [] := by
  simp only [Blk.hbmRespond, hr, Bool.false_eq_true, if_false, hw, if_true, modHbm_clk]

theorem hbmRespond_read (hw : r.write = false) : b.hbmRespond t tag false =
    (b.modHbm t fun h => { h with reqs := h.reqs.del tag }).answerReq t (r.pkt, b.clk.mc) (unitsOf r.pkt * 64 - 1)
      (b.readHbm (b.member.dieOf t) r.addr (unitsOf r.pkt * 64)) := by
  simp only [Blk.hbmRespond, hr, Bool.false_eq_true, if_false, hw, modHbm_clk]
  rfl

theorem hbmUnanswered_fails : b.hbmUnanswered t tag =
    ((b.modHbm t fun h => { h with reqs := [] }).declare fcHbm (b.hbmRes t)).each (b.hbmAt t).reqs fun b x =>
      b.errReq t (x.2.pkt, b.clk.mc) erState := by
  simp only [Blk.hbmUnanswered, hr, Blk.hbmRes, modHbm_member]

end

/-! ### The host -/

section
variable {op : Nat} (hq : b.takeInbox sysTile (· = op) = some (q, b'))
include hq

theorem hostTake_outside (h : winPlace (b.issuedWin q.1) (pArg q.1.hdr) (unitsOf q.1 * 64) = none) :
    b.hostTake op = b'.errReq sysTile q erState := by
  simp only [Blk.hostTake, hq, h]

variable {a : Nat} (ha : winPlace (b.issuedWin q.1) (pArg q.1.hdr) (unitsOf q.1 * 64) = some a)
include ha

theorem hostTake_no_tag (h : b.host.freeTag = none) : b.hostTake op = b := by
  simp only [Blk.hostTake, hq, ha, h]

theorem hostTake_writes (htag : b.host.freeTag = some tag) (hop : op = rqHostWrite) :
    b.hostTake op =
      let c := b'.writeHost a ((q.1.body.drop 16).take (unitsOf q.1 * 64))
      { c with host := { c.host with dma := c.host.dma.put tag (.write q.1) } } := by
  simp only [Blk.hostTake, hq, ha, htag, if_pos hop]

theorem hostTake_reads (htag : b.host.freeTag = some tag) (hop : op ≠ rqHostWrite) :
    b.hostTake op = { b' with host := { b'.host with dma := b'.host.dma.put tag (.read q.1) } } := by
  simp only [Blk.hostTake, hq, ha, htag, if_neg hop]

end

section
variable {p : Packet} {data : Bytes} {err : Bool}

theorem dmaComplete_write (h : b.host.dma.get? tag = some (.write p)) :
    b.dmaComplete tag data err =
      let c : Blk := { b with host := { b.host with dma := b.host.dma.del tag } }
      if err then c.errReq sysTile (p, b.clk.mc) erState else c.answerReq sysTile (p, b.clk.mc) 0 [] := by
  simp only [Blk.dmaComplete, h]

theorem dmaComplete_read (h : b.host.dma.get? tag = some (.read p)) :
    b.dmaComplete tag data err =
      let c : Blk := { b with host := { b.host with dma := b.host.dma.del tag } }
      if err then c.errReq sysTile (p, b.clk.mc) erState
      else c.answerReq sysTile (p, b.clk.mc) (unitsOf p * 64 - 1) (padTo (unitsOf p * 64) data) := by
  simp only [Blk.dmaComplete, h]

end

/-! ### Streams -/

theorem streamOpen_decides (hq : b.takeInbox t (fun op => 0x24 ≤ op && op ≤ 0x27) = some (q, b')) :
    b.streamOpen t = b'.streamDecide t q := by
  simp only [Blk.streamOpen, hq]

theorem streamDecide_reserved (h : pOp q.1.hdr ≠ rqStream ∨ b.member.isHbmTile t = false) :
    b.streamDecide t q = b.errReq t q erState := if_pos (by simpa using h)

section
variable (hop : pOp q.1.hdr = rqStream) (ht : b.member.isHbmTile t = true)
include hop ht

theorem streamDecide_busy (h : (b.hbmAt t).freeStream = none) : b.streamDecide t q = b.errReq t q erBusy := by
  simp only [Blk.streamDecide, hop, ht, ne_eq, not_true, decide_false, Bool.not_true, Bool.or_self, Bool.false_eq_true, if_false, h]

variable {i : Nat} (hi : (b.hbmAt t).freeStream = some i)
include hi

theorem streamDecide_unfit (h : b.streamFits t (pPlot q.1.hdr) (sOffset q.1) (sCells q.1) = none ∨ b.streamAsked t q.1 = false) :
    b.streamDecide t q = b.errReq t q erState := by
  simp only [Blk.streamDecide, hop, ht, ne_eq, not_true, decide_false, Bool.not_true, Bool.or_self, Bool.false_eq_true, if_false, hi]
  rcases h with h | h
  · simp only [h]
  · simp only [h, Bool.false_eq_true, if_false]
    split
    · rfl
    · rfl

theorem streamDecide_opens {a : Nat} (hfit : b.streamFits t (pPlot q.1.hdr) (sOffset q.1) (sCells q.1) = some a)
    (hasked : b.streamAsked t q.1 = true) :
    b.streamDecide t q = (b.modHbm t fun h => { h with streams := h.streams.put i (b.streamNew q.1 a) }).answerReq t q 0 [] := by
  simp only [Blk.streamDecide, hop, ht, ne_eq, not_true, decide_false, Bool.not_true, Bool.or_self, Bool.false_eq_true, if_false, hi,
    hfit, hasked, if_true]

end

section
variable {i : Nat} {x : HbmStream} (hx : (b.hbmAt t).streams.get? i = some x)
include hx

theorem streamEnd_ends (h : x.left = 0) :
    b.streamEnd t i false = b.modHbm t fun h => { h with streams := h.streams.del i } := by
  simp only [Blk.streamEnd, hx, Bool.false_eq_true, if_false, if_pos h]

theorem streamEnd_goes_on (h : x.left ≠ 0) : b.streamEnd t i false = b := by
  simp only [Blk.streamEnd, hx, Bool.false_eq_true, if_false, if_neg h]

theorem streamEnd_error (h : x.write = false) : b.streamEnd t i true = (b.hbmError t x.next).streamStop t i := by
  simp only [Blk.streamEnd, hx, if_true, h, Bool.false_eq_true, if_false]

theorem streamEnd_write (h : x.write = true) : b.streamEnd t i true = b := by
  simp only [Blk.streamEnd, hx, if_true, h]

end

end

/-- Settles O20. -/
theorem attachTransfers : Obligations.AttachTransfers := by
  unfold Obligations.AttachTransfers
  intro s t q b'
  refine ⟨fun write => ?_, fun tag r hreq => ⟨fun hr hw => ?_, fun hr hw => ?_, fun hr => ?_, fun hr => ?_⟩, fun write => ?_,
    fun tag data err hr => ⟨fun p hp => ?_, fun p hp => ?_⟩⟩
  · intro c hr ht hq
    have hexec : ∀ {d : Blk}, s.blk.hbmServe b' t (hbmOp write) q = d → exec c s = become s d := by
      intro d hd
      have hmesh := mesh_becomes (f := fun b => b.hbmTake t (hbmOp write)) hr ((hbmTake_serves (op := hbmOp write) ht hq).trans hd)
      cases write with
      | true => exact hmesh
      | false => exact hmesh
    refine ⟨fun h => hexec (hbmServe_misplaced h), fun a ha => ⟨fun h => hexec (hbmServe_no_tag ha h), fun tag htag =>
      ⟨fun h => hexec (hbmServe_failed ha htag h), fun hok => ⟨fun hw h => ?_, fun hw h => ?_, fun hw => ?_⟩⟩⟩⟩
    · subst hw
      exact hexec (hbmServe_read_pending ha htag hok h)
    · subst hw
      exact hexec (hbmServe_reads ha htag hok h)
    · subst hw
      exact hexec (hbmServe_writes ha htag hok)
  · show execHbmResponse t tag false s = _
    exact mesh_becomes hr (hbmRespond_written hreq hw)
  · show execHbmResponse t tag false s = _
    exact mesh_becomes hr (hbmRespond_read hreq hw)
  · show execHbmResponse t tag true s = _
    exact mesh_becomes hr (hbmRespond_error hreq)
  · show execHbmRequestUnanswered t tag s = _
    exact mesh_becomes hr (hbmUnanswered_fails hreq)
  · intro c n hr hq
    have hexec : ∀ {d : Blk}, s.blk.hostTake (if write then rqHostWrite else rqHostRead) = d → exec c s = become s d := by
      intro d hd
      have hmesh := mesh_becomes (f := fun b => b.hostTake (if write then rqHostWrite else rqHostRead)) hr hd
      cases write with
      | true => exact hmesh
      | false => exact hmesh
    refine ⟨fun h => hexec (hostTake_outside hq h), fun a ha => ⟨fun h => hexec (hostTake_no_tag hq ha h), fun tag htag =>
      ⟨fun hw => ?_, fun hw => ?_⟩⟩⟩
    · subst hw
      exact hexec (hostTake_reads hq ha htag (by decide))
    · subst hw
      exact hexec (hostTake_writes hq ha htag rfl)
  · show execDmaCompletion tag data err s = _
    exact mesh_becomes hr (dmaComplete_write hp)
  · show execDmaCompletion tag data err s = _
    exact mesh_becomes hr (dmaComplete_read hp)

/-- Settles O21. -/
theorem hbmStreams : Obligations.HbmStreams := by
  unfold Obligations.HbmStreams
  intro s t
  refine ⟨fun q b hr hq => ⟨fun h => ?_, fun hop ht => ⟨fun h => ?_, fun i hi => ⟨fun h => ?_, fun a hfit hasked => ?_⟩⟩⟩,
    fun i x hx => ⟨fun hr => ⟨fun h => ?_, fun h => ?_⟩, fun hr => ⟨fun h => ?_, fun h => ?_⟩⟩⟩
  · show execStream t s = _
    exact mesh_becomes hr ((streamOpen_decides hq).trans (streamDecide_reserved h))
  · show execStream t s = _
    exact mesh_becomes hr ((streamOpen_decides hq).trans (streamDecide_busy hop ht h))
  · show execStream t s = _
    exact mesh_becomes hr ((streamOpen_decides hq).trans (streamDecide_unfit hop ht hi h))
  · show execStream t s = _
    exact mesh_becomes hr ((streamOpen_decides hq).trans (streamDecide_opens hop ht hi hfit hasked))
  · show execStreamEnd t i false s = _
    exact mesh_becomes hr (streamEnd_ends hx h)
  · show execStreamEnd t i false s = _
    exact mesh_becomes hr (streamEnd_goes_on hx h)
  · show execStreamEnd t i true s = _
    exact mesh_becomes hr (streamEnd_error hx h)
  · show execStreamEnd t i true s = _
    exact mesh_becomes hr (streamEnd_write hx h)

end Sys2Proof.Attach
end


section
/-! Stealing (R119–R125): requests, lending, borrowed sheaves and returned results. -/
namespace Sys2Proof.Steals
open Sys2Proof Sys2Proof.Machine Sys2Proof.Safety Sys2Proof.Laws Sys2Proof.Acts

section
variable {b b' : Blk} {t e : Nat}

/-! ### Asking and lending -/

/-- A tile that may ask for work for an idle engine (R122). -/
structure MayAsk (b : Blk) (t e plot : Nat) : Prop where
  owner : b.ownerOf t = some plot
  engine : e < 2
  on : b.stealOn t plot = true
  idle : (b.tile t).sheaves e = []
  quiet : ((b.tile t).stealUnit e).inFlight = false
  ring : (b.tile t).engCtrl.ringLen ≠ 0
  slots : 4 ≤ ((List.range 32).filter fun i => (b.slot t i).state = .free).length

theorem MayAsk.test {plot : Nat} (h : MayAsk b t e plot) :
    (!(decide (e = 0) || decide (e = 1)) || !b.stealOn t plot || !((b.tile t).sheaves e).isEmpty ||
      ((b.tile t).stealUnit e).inFlight || decide ((b.tile t).engCtrl.ringLen = 0) ||
      decide (((List.range 32).filter fun i => (b.slot t i).state = .free).length < 4)) = false := by
  obtain ⟨-, he, hon, hidle, hquiet, hring, hslots⟩ := h
  have hengine : (decide (e = 0) || decide (e = 1)) = true := by
    simp only [Bool.or_eq_true, decide_eq_true_eq]
    omega
  rw [hengine, hon, hidle, hquiet, decide_eq_false hring, decide_eq_false (Nat.not_lt.mpr hslots)]
  rfl

section
variable {plot skips : Nat} (h : MayAsk b t e plot)
include h

theorem stealSend_nobody
    (hv : b.nextVictim t plot (b.tile t).engCtrl.ringLen ((b.tile t).stealUnit e).tried 0 = (none, skips)) :
    b.stealSend t e = b.countN t evStealSkip skips (some plot) := by
  simp only [Blk.stealSend, h.owner, h.test, Bool.false_eq_true, if_false, hv]

theorem stealSend_asks {i v : Nat}
    (hv : b.nextVictim t plot (b.tile t).engCtrl.ringLen ((b.tile t).stealUnit e).tried 0 = (some (i, v), skips)) :
    b.stealSend t e =
      let c := b.countN t evStealSkip skips (some plot)
      let r := c.sendReq (.tile t) .stealUnit snReq 0
        { dst := v, op := rqSteal, arg := 0, gen := none, ref := .steal e, plot := plot,
          body := stealBody e (hopsFrom c.member v 64 t) (b.tile t).freeRoom (b.tile t).engCtrl.margin }
      if r.2 = .sent then r.1.modTile t fun x => x.modSteal e fun u => { u with tried := i, inFlight := true } else r.1 := by
  simp only [Blk.stealSend, h.owner, h.test, Bool.false_eq_true, if_false, hv]

end

/-- The victim lends the candidates that the thief's prediction admits, numbered from its next lend id (R122). -/
theorem stealReceive_lends {q : Packet × Nat} (hq : b.takeInbox t (· = rqSteal) = some (q, b')) :
    b.stealReceive t =
      let v := ofBytes (q.1.body.take 16)
      let cs := if b'.stealOn t (pPlot q.1.hdr) && v % 256 < 2 then (b'.tile t).candidates (v % 256) (pPlot q.1.hdr) else []
      let l := b'.lendList (v % 256) (v / 2 ^ 24 % 2 ^ 32) (v / 2 ^ 56 % 2 ^ 16) (min 4 (cs.length / 2))
        (2 * (3 * (v / 256 % 65536) + 16)) (b'.tile t) cs
      let ids := (List.range l.2.length).map fun i => (l.1.es.nextLend + i) % 65536
      (b'.setTile t { l.1 with es := { l.1.es with
        nextLend := (l.1.es.nextLend + l.2.length) % 65536,
        lent := l.1.es.lent ++ (l.2.zip ids).map fun y =>
          { lendId := y.2, engine := v % 256, sid := y.1.sid, thief := pSrc q.1.hdr } } }).answerReq t q 0
            (lendBody ids (l.2.map lentCmd)) := by
  simp only [Blk.stealReceive, hq]

theorem lendTake_empty {p : Packet} (h : ((b.tile t).stealUnit e).lend = some p) (hn : ofBytes ((p.body.drop 8).take 8) = 0) :
    b.lendTake t e = (b.modTile t fun x => x.modSteal e fun u => { u with lend := none, inFlight := false }).count t evStealEmpty
      (some (pPlot p.hdr)) := by
  simp only [Blk.lendTake, h, if_pos hn]

theorem lendTake_takes {p : Packet} (h : ((b.tile t).stealUnit e).lend = some p) (hn : 0 < ofBytes ((p.body.drop 8).take 8)) :
    b.lendTake t e = (b.modTile t fun x => x.modSteal e fun u => { u with lend := none, inFlight := false }).modTile t fun x =>
      { x with es := { x.es with
        borrowed := x.es.borrowed ++ (List.range (min 4 (ofBytes ((p.body.drop 8).take 8)))).map (borrowedOf p e) } } := by
  simp only [Blk.lendTake, h, if_neg (Nat.pos_iff_ne_zero.mp hn)]

/-! ### Borrowed sheaves and their results -/

/-- An engine with nothing of its own to start runs a borrowed sheaf that may run (R123). -/
theorem runOrSteal_borrowed {op : Nat} {f : Blk → Sheaf → Blk × Ran} {r : Borrowed} (hown : b.nextStart t e = none)
    (hon : b.engineOn t = true) (hfree : engineBusy e ((b.tile t).sheaves e) = false)
    (hr : (b.tile t).es.borrowed.find? (fun x => x.engine = e && x.runnable) = some r) (hop : kOp r.cmd = op) :
    b.runOrSteal t e op f = b.runBorrowed t r := by
  simp only [Blk.runOrSteal, hown, hon, hfree, Option.isSome_none, Bool.not_true, Bool.or_self, Bool.false_eq_true, if_false, hr,
    if_pos hop]

section
variable {id : Nat} {r : Borrowed} (hr : (b.tile t).es.borrowed.find? (fun x => x.lendId = id && x.done) = some r)
include hr

/-- The thief gives a borrowed sheaf back. -/
def givenBack (b : Blk) (t : Nat) (r : Borrowed) : Blk :=
  b.modTile t fun x => { x with es := { x.es with borrowed := x.es.borrowed.filter fun y => !r.same y } }

theorem stolenReturn_late
    (hl : ((givenBack b t r).tile r.victim).es.lent.find? (fun l => l.lendId = id && l.thief = t) = none) :
    b.stolenReturn t id = (givenBack b t r).count r.victim evStealLate (some r.plot) := by
  unfold givenBack at hl ⊢
  simp only [Blk.stolenReturn, hr, hl]

/-- The victim no longer lends the sheaf. -/
def lentBack (b : Blk) (v : Nat) (l : Lent) : Blk :=
  b.modTile v fun x => { x with es := { x.es with lent := x.es.lent.filter fun y => y ≠ l } }

theorem stolenReturn_applies {l : Lent} {x : Sheaf}
    (hl : ((givenBack b t r).tile r.victim).es.lent.find? (fun l => l.lendId = id && l.thief = t) = some l)
    (hx : ((lentBack (givenBack b t r) r.victim l).tile r.victim).sheaf? l.engine l.sid = some x) :
    b.stolenReturn t id = (lentBack (givenBack b t r) r.victim l).applyStolen t r.victim r x := by
  unfold givenBack at hl
  unfold lentBack givenBack at hx ⊢
  simp only [Blk.stolenReturn, hr, hl, hx]

end

section
variable {v : Nat} {r : Borrowed} {x : Sheaf}

theorem applyStolen_failed (h : r.failed = true) : b.applyStolen t v r x = b.takeBack v r.engine x.sid := if_pos h

theorem applyStolen_merges (h : r.failed = false) (hm : b.mergeStolen v x r.result = .ok b') :
    b.applyStolen t v r x =
      ((ends b' v r.engine x stOk).count t evStealGot (some x.plot)).count v evStealGiven (some x.plot) := by
  simp only [Blk.applyStolen, h, Bool.false_eq_true, if_false, hm]

theorem applyStolen_fails (h : r.failed = false) {f : Nat × Nat} (hm : b.mergeStolen v x r.result = .error f) :
    b.applyStolen t v r x = ends b v r.engine x f.1 f.2 := by
  simp only [Blk.applyStolen, h, Bool.false_eq_true, if_false, hm]

end

end

/-- Settles O22. -/
theorem stealing : Obligations.Stealing := by
  unfold Obligations.Stealing
  intro s t e
  refine ⟨fun plot i v skips hr howner he hon hidle hquiet hring hslots => ?_, fun q b hr hq => ?_, fun p => ?_,
    fun k r c hkc hr hown hon hfree hb => ?_, fun id r hr hb => ?_⟩
  · have hask : MayAsk s.blk t e plot := ⟨howner, he, hon, hidle, hquiet, hring, hslots⟩
    intro b
    refine ⟨fun hv => ?_, fun hv => ?_⟩
    · show execStealRequestSend t e s = _
      exact mesh_becomes hr (stealSend_nobody hask hv)
    · have hsend := stealSend_asks hask hv
      intro r
      refine ⟨fun h => ?_, fun h => ?_⟩
      · show execStealRequestSend t e s = _
        exact mesh_becomes hr (hsend.trans (if_pos h))
      · show execStealRequestSend t e s = _
        exact mesh_becomes hr (hsend.trans (if_neg h))
  · intro v cs l ids
    show execStealRequestReceive t s = _
    exact mesh_becomes hr (stealReceive_lends hq)
  · intro n b hr hp
    refine ⟨fun hn => ?_, fun hn => ?_⟩
    · show execLendReceive t e s = _
      exact mesh_becomes hr (lendTake_empty hp hn)
    · show execLendReceive t e s = _
      exact mesh_becomes hr (lendTake_takes hp hn)
  · simp only [List.mem_cons, List.not_mem_nil, or_false, Prod.mk.injEq] at hkc
    rcases hkc with ⟨rfl, rfl⟩ | ⟨rfl, rfl⟩ | ⟨rfl, rfl⟩ | ⟨rfl, rfl⟩ | ⟨rfl, rfl⟩ | ⟨rfl, rfl⟩
    · intro hop
      show execMoveCopy t s = _
      exact mesh_becomes hr (runOrSteal_borrowed hown hon hfree hb hop)
    · intro hop
      show execMoveFill t s = _
      exact mesh_becomes hr (runOrSteal_borrowed hown hon hfree hb hop)
    · intro hop
      show execReduceAdd t s = _
      exact mesh_becomes hr (runOrSteal_borrowed hown hon hfree hb hop)
    · intro hop
      show execReduceScaleAdd t s = _
      exact mesh_becomes hr (runOrSteal_borrowed hown hon hfree hb hop)
    · intro hop
      show execReduceMap t s = _
      exact mesh_becomes hr (runOrSteal_borrowed hown hon hfree hb hop)
    · intro hop
      show execReduceCrc t s = _
      exact mesh_becomes hr (runOrSteal_borrowed hown hon hfree hb hop)
  · intro b
    refine ⟨fun hl => ?_, fun l hl => ?_⟩
    · show execStolenResultReturn t id s = _
      exact mesh_becomes hr (stolenReturn_late hb hl)
    · intro b' x hx
      have happly := stolenReturn_applies hb hl hx
      refine ⟨fun hf => ?_, fun hf => ⟨fun b2 hm => ?_, fun f hm => ?_⟩⟩
      · show execStolenResultReturn t id s = _
        exact mesh_becomes hr (happly.trans (applyStolen_failed hf))
      · show execStolenResultReturn t id s = _
        exact mesh_becomes hr (happly.trans (applyStolen_merges hf hm))
      · show execStolenResultReturn t id s = _
        exact mesh_becomes hr (happly.trans (applyStolen_fails hf hm))

end Sys2Proof.Steals
end


section
/-! Collectives and kernels from the host's side (R176–R202): doorbells, descriptors, ACK, RESEND, aborts, bind and unbind. -/
namespace Sys2Proof.Doorbells
open Sys2Proof Sys2Proof.Machine Sys2Proof.Safety Sys2Proof.Laws Sys2Proof.Acts Sys2Proof.EngineCommands

section
variable {b b' : Blk} {p t : Nat}

/-! ### Doorbells -/

section
variable {kernel : Bool} {off : BitVec 32}

theorem doorbell_unbound (h : b.bound p = false ∨ p = 0) : b.doorbell p kernel off = b.countSys evBadAccess :=
  if_pos (by simpa using h)

section
variable (hb : b.bound p = true) (hp : p ≠ 0)
include hb hp

theorem doorbell_enters (h : (b.plot p).host.doorbells.length + b.mcLog.count (.fetched p) < 16) :
    b.doorbell p kernel off = b.modPlot p fun x =>
      { x with host := { x.host with doorbells := x.host.doorbells ++ [(kernel, off)] } } := by
  simp only [Blk.doorbell, hb, decide_eq_false hp, Bool.not_true, Bool.or_self, Bool.false_eq_true, if_false, if_neg (Nat.not_le.mpr h)]

theorem doorbell_full (h : 16 ≤ (b.plot p).host.doorbells.length + b.mcLog.count (.fetched p)) :
    b.doorbell p kernel off =
      (b.modPlot p fun x => { x with host := { x.host with dbFull := true } }).note (.set (.dbFull p)) := by
  simp only [Blk.doorbell, hb, decide_eq_false hp, Bool.not_true, Bool.or_self, Bool.false_eq_true, if_false, if_pos h]

end

end

/-! ### Collectives -/

/-- The header of a descriptor. -/
def descHead (d : Bytes) : BitVec 512 := BitVec.ofNat 512 (ofBytes (d.take 64))

/-- The collective that a descriptor asks for (R176). -/
def collAsked (d : Bytes) (now : BitVec 48) : Coll :=
  collOf (descHead d) ((List.range (fld (descHead d) 8 5)).map fun j =>
    partOf (BitVec.ofNat 256 (ofBytes ((d.drop (64 + 32 * j)).take 32)))) now

/-- The tiles of a collective's parts hold a context and an oasis for it, part by part (R180). -/
def holdParts (c : Coll) (plot : Nat) (a : Blk × List Part) (ps : List Part) : Blk × List Part :=
  ps.foldl (fun (a : Blk × List Part) p => ((a.1.collHold plot c p).1, a.2 ++ [(a.1.collHold plot c p).2])) a

theorem collHold_tiles (c : Coll) (x : Part) : ∃ ts, (b.collHold p c x).1 = { b with tiles := ts } := ⟨_, rfl⟩

theorem collHold_part (c : Coll) (x : Part) :
    ({ (b.collHold p c x).2 with ctx := 0 } : Part) = { x with ctx := 0 } := rfl

/-- Holding the parts changes tiles alone, and of each part its context alone. -/
theorem holdParts_changes (c : Coll) (ps : List Part) (a : Blk × List Part) :
    ∃ ts qs, holdParts c p a ps = ({ a.1 with tiles := ts }, a.2 ++ qs) ∧
      qs.map (fun x => { x with ctx := 0 }) = ps.map (fun x => { x with ctx := 0 }) := by
  induction ps generalizing a with
  | nil => exact ⟨a.1.tiles, [], by simp [holdParts], rfl⟩
  | cons x ps ih =>
    obtain ⟨ts, qs, heq, hmap⟩ := ih ((a.1.collHold p c x).1, a.2 ++ [(a.1.collHold p c x).2])
    obtain ⟨us, hhold⟩ := collHold_tiles (b := a.1) (p := p) c x
    refine ⟨ts, (a.1.collHold p c x).2 :: qs, ?_, ?_⟩
    · refine Eq.trans heq ?_
      rw [hhold, List.append_assoc]
      rfl
    · rw [List.map_cons, List.map_cons, hmap, collHold_part]

section
variable {desc : Bytes} {off : BitVec 32} (hd : b.takeDoorbell p false = some (off, b'))
include hd

theorem collAccept_outside (h : (b'.fetched p off desc).length < 64) : b.collAccept p desc = b' := by
  simp only [Blk.collAccept, hd, if_pos h]

variable (hlen : 64 ≤ (b'.fetched p off desc).length)
include hlen

theorem collAccept_refused
    (h : b'.collDecideDesc p (descHead (b'.fetched p off desc)) (collAsked (b'.fetched p off desc) b'.clk.frame)
      (b'.fetched p off desc).length ≠ 0) :
    b.collAccept p desc = b'.collRecord p (collAsked (b'.fetched p off desc) b'.clk.frame) 4
      (b'.collDecideDesc p (descHead (b'.fetched p off desc)) (collAsked (b'.fetched p off desc) b'.clk.frame)
        (b'.fetched p off desc).length)
      (if (collAsked (b'.fetched p off desc) b'.clk.frame).chunkLen = 0 then 0
       else (collAsked (b'.fetched p off desc) b'.clk.frame).chunks) := by
  unfold collAsked descHead at h ⊢
  simp only [Blk.collAccept, hd, if_neg (Nat.not_lt.mpr hlen), if_pos h]

theorem collAccept_makes {c : Coll} {r : Blk × List Part} (hc : collAsked (b'.fetched p off desc) b'.clk.frame = c)
    (hr : holdParts c p (b', []) c.parts = r)
    (h : b'.collDecideDesc p (descHead (b'.fetched p off desc)) c (b'.fetched p off desc).length = 0) :
    b.collAccept p desc = r.1.modPlot p fun x => { x with colls := x.colls ++ [{ c with parts := r.2 }] } := by
  subst hr hc
  unfold collAsked descHead at h
  simp only [Blk.collAccept, hd, if_neg (Nat.not_lt.mpr hlen), h, ne_eq, not_true, if_false]
  rfl

end

section
variable {d : Nat × Dfp}

theorem collAck_marks {c : Coll} {j : Nat} {o : OutBuf} (hd : b.takeColl t flAck = some (d, b'))
    (h : b'.heldChunk t d = some (c, j, o)) :
    b.collAck t = b'.setColl d.1 { c with outb := c.outb.put (j * 8 + o.chunk % 8) { o with acked := some b'.clk.mc } } := by
  simp only [Blk.collAck, hd, h]

theorem collAck_drops (hd : b.takeColl t flAck = some (d, b')) (h : b'.heldChunk t d = none) :
    b.collAck t = b'.drop t 0x31 (some (b'.member.portOf t)) (some d.1) := by
  simp only [Blk.collAck, hd, h]

theorem collResend_drops (hd : b.takeColl t flResend = some (d, b')) (h : b'.heldChunk t d = none) :
    b.collResend t = b'.drop t 0x31 (some (b'.member.portOf t)) (some d.1) := by
  simp only [Blk.collResend, hd, h]

/-- The pieces of a held chunk are sent again, with the DCRC they came with (R193). -/
def resent (b : Blk) (plot : Nat) (c : Coll) (j : Nat) (o : OutBuf) : Chk Blk :=
  c.indices.foldl (fun (a : Chk Blk) i => a >>= fun b =>
    let train := b.readSram (c.part j).tile (c.outSlot j o.chunk i) (64 + collBytes c.finFmt (c.real o.chunk i))
    b.collEmitPiece plot c (c.part j).tile (c.part j).coord.toNat o.chunk i c.finFmt (collHdr train).dcrc (train.drop 64)) (.ok b)

theorem collResend_sends {c : Coll} {j : Nat} {o : OutBuf} (hd : b.takeColl t flResend = some (d, b'))
    (h : b'.heldChunk t d = some (c, j, o)) :
    b.collResend t = match resent b' d.1 c j o with
      | .ok b => b
      | .error _ => b'.collEnd d.1 c 2 0x12 := by
  simp only [Blk.collResend, hd, h]
  rfl

end

theorem collNoAck_ends {step : BitVec 32} {j k : Nat} {c : Coll} {o : OutBuf} (hc : b.coll? p step = some c)
    (hneeds : c.needsAck j = true) (ho : c.outBufOf j k = some o) (hdec : o.decided = true) (hack : o.acked = none) :
    b.collNoAck p step j k = b.collEnd p c 2 0x15 := by
  simp only [Blk.collNoAck, hc, hneeds, ho, Option.any_some, hdec, hack, Option.isNone_none, Bool.and_self, if_true]

theorem ctxAbort_context {c : Nat} (h : b.allColls.find? (fun x => x.2.parts.any fun y => y.tile = t && y.ctx = c) = none) :
    b.ctxAbort t c = b.abortCtx t c := by
  simp only [Blk.ctxAbort, h]

theorem ctxAbort_collective {c : Nat} {x : Nat × Coll}
    (h : b.allColls.find? (fun x => x.2.parts.any fun y => y.tile = t && y.ctx = c) = some x) :
    b.ctxAbort t c = b.collEnd x.1 x.2 3 0x17 := by
  simp only [Blk.ctxAbort, h]

/-! ### Kernels -/

section
variable {desc : Bytes} {off : BitVec 32} (hd : b.takeDoorbell p true = some (off, b'))
include hd

theorem kernelDesc_outside (h : (b'.fetched p off desc).length < 64) : b.kernelDesc p desc = b' := by
  simp only [Blk.kernelDesc, hd, if_pos h]

theorem kernelDesc_bind (h : 64 ≤ (b'.fetched p off desc).length) (hop : flag (descHead (b'.fetched p off desc)) 8 = false) :
    b.kernelDesc p desc = b'.bindKernel p (descHead (b'.fetched p off desc)) := by
  unfold descHead at hop ⊢
  simp only [Blk.kernelDesc, hd, if_neg (Nat.not_lt.mpr h), hop, Bool.false_eq_true, if_false]

theorem kernelDesc_unbind (h : 64 ≤ (b'.fetched p off desc).length) (hop : flag (descHead (b'.fetched p off desc)) 8 = true) :
    b.kernelDesc p desc = b'.unbindKernel p (descHead (b'.fetched p off desc)) := by
  unfold descHead at hop ⊢
  simp only [Blk.kernelDesc, hd, if_neg (Nat.not_lt.mpr h), hop, if_true]

end

section
variable {h : BitVec 512}

theorem bindKernel_refused (hno : b.kernelDecide p (fld h 24 10) h (kernelOf h p) ≠ 0) :
    b.bindKernel p h = b.kerBind p (fld h 24 10) (kernelOf h p).cls (b.kernelDecide p (fld h 24 10) h (kernelOf h p)) := by
  simp only [Blk.bindKernel, if_pos hno]

section
variable (hok : b.kernelDecide p (fld h 24 10) h (kernelOf h p) = 0)
include hok

theorem bindKernel_expert (hdis : (kernelOf h p).dispatch = false) :
    b.bindKernel p h = (b.setKernel (fld h 24 10) { kernelOf h p with loaded := true }).kerBind p (fld h 24 10) (kernelOf h p).cls 0 := by
  simp only [Blk.bindKernel, hok, ne_eq, not_true, if_false, hdis, Bool.false_eq_true, Bool.not_false]

theorem bindKernel_dispatch (hdis : (kernelOf h p).dispatch = true) :
    b.bindKernel p h =
      let x := kernelOf h p
      let t := fld h 24 10
      ((b.modTile t fun y => { y with
        oases := y.oases.put x.oasis { wide := fmtWide x.retFmt, size := x.accEntries, grid := .none, entries := [] },
        weights := some { k := x.k, n := x.n, fmt := x.wFmt, data := b.readSram t x.wAddr (weightBytes x.wFmt x.k x.n) },
        pinned := true }).setKernel t { x with loaded := false }).kerBind p t x.cls 0 := by
  simp only [Blk.bindKernel, hok, ne_eq, not_true, if_false, hdis, if_true, Bool.not_true]

end

theorem unbindKernel_version (hv : fld h 0 8 ≠ 1) : b.unbindKernel p h = b.kerBind p (fld h 24 10) (fld h 12 6) 0x01 := if_pos hv

section
variable (hv : fld h 0 8 = 1)
include hv

theorem unbindKernel_none
    (hk : (b.tile (fld h 24 10)).ks.kernels.find? (fun y => y.2.cls = fld h 12 6 && y.2.plot = p) = none) :
    b.unbindKernel p h = b.kerBind p (fld h 24 10) (fld h 12 6) 0x08 := by
  simp only [Blk.unbindKernel, hv, ne_eq, not_true, if_false, hk]

variable {k : Nat} {y : Kernel}
  (hk : (b.tile (fld h 24 10)).ks.kernels.find? (fun y => y.2.cls = fld h 12 6 && y.2.plot = p) = some (k, y))
include hk

theorem unbindKernel_settles : b.unbindKernel p h = b.kernelSettle (fld h 24 10) { y with unbinding := true } := by
  simp only [Blk.unbindKernel, hv, ne_eq, not_true, if_false, hk]

theorem unbindKernel_frees (htok : y.tokens = []) :
    b.unbindKernel p h = (b.kernelFree (fld h 24 10) { y with unbinding := true }).kerBind y.plot (fld h 24 10) y.cls 0x07 := by
  rw [unbindKernel_settles hv hk, Blk.kernelSettle, if_pos (by simp [htok])]

theorem unbindKernel_marks (htok : y.tokens ≠ []) :
    b.unbindKernel p h = b.setKernel (fld h 24 10) { y with unbinding := true } := by
  rw [unbindKernel_settles hv hk, Blk.kernelSettle, if_neg (by simp [htok])]

end

end

end

/-- Settles O23; what an accepted descriptor leaves unchanged is `holdParts_changes`. -/
theorem collectiveCommands : Obligations.CollectiveCommands := by
  unfold Obligations.CollectiveCommands
  intro s p t
  refine ⟨fun off hr => ⟨fun h => ?_, fun hb hp h => ?_, fun hb hp h => ?_⟩, fun desc off b hr hd => ?_,
    fun d b hd hr => ⟨fun c j o h => ?_, fun h => ?_⟩, fun d b hd hr => ⟨fun h => ?_, fun c j o h => ?_⟩,
    fun step j k c o hr hc hneeds ho hdec hack => ?_, fun c hr => ⟨fun h => ?_, fun x h => ?_⟩⟩
  · show execCollDoorbell p off s = _
    exact mesh_becomes hr (doorbell_unbound h)
  · show execCollDoorbell p off s = _
    exact mesh_becomes hr (doorbell_enters hb hp h)
  · show execCollDoorbell p off s = _
    exact mesh_becomes hr (doorbell_full hb hp h)
  · intro d h c
    refine ⟨fun hshort => ?_, fun hlen hno => ?_, fun hlen hok => ?_⟩
    · show execCollAccept p desc s = _
      exact mesh_becomes hr (collAccept_outside hd hshort)
    · show execCollAccept p desc s = _
      exact mesh_becomes hr (collAccept_refused hd hlen hno)
    · obtain ⟨ts, qs, heq, hmap⟩ := holdParts_changes (p := p) c c.parts (b, [])
      have hmade := collAccept_makes hd hlen rfl heq hok
      refine ⟨(({ b with tiles := ts } : Blk).modPlot p fun x => { x with colls := x.colls ++ [{ c with parts := qs }] }), qs, ?_, hmap,
        ?_, fun q hq => ?_, rfl⟩
      · show execCollAccept p desc s = _
        exact mesh_becomes hr hmade
      · rw [plot_modPlot_same]
        rfl
      · exact plot_modPlot_other _ p q _ hq
  · show execCollAckReceive t s = _
    exact mesh_becomes hr (collAck_marks hd h)
  · show execCollAckReceive t s = _
    exact mesh_becomes hr (collAck_drops hd h)
  · show execCollResendReceive t s = _
    exact mesh_becomes hr (collResend_drops hd h)
  · have hsend := collResend_sends hd h
    intro r
    refine ⟨fun b' hb' => ?_, fun f hf => ?_⟩
    · have hres : resent b d.1 c j o = .ok b' := hb'
      rw [hres] at hsend
      show execCollResendReceive t s = _
      exact mesh_becomes hr hsend
    · have hres : resent b d.1 c j o = .error f := hf
      rw [hres] at hsend
      show execCollResendReceive t s = _
      exact mesh_becomes hr hsend
  · show execCollNoAck p step j k s = _
    exact mesh_becomes hr (collNoAck_ends hc hneeds ho hdec hack)
  · show execCtxAbort t c s = _
    exact mesh_becomes hr (ctxAbort_context h)
  · show execCtxAbort t c s = _
    exact mesh_becomes hr (ctxAbort_collective h)

/-- Settles O24: both descriptors are read by `kernelDesc`, whose OP says what is asked. -/
theorem kernelBinding : Obligations.KernelBinding := by
  unfold Obligations.KernelBinding
  intro s p
  refine ⟨fun off hr => ⟨fun h => ?_, fun hb hp h => ?_, fun hb hp h => ?_⟩, fun desc off b i hi hr hd => ?_⟩
  · show execKernelDoorbell p off s = _
    exact mesh_becomes hr (doorbell_unbound h)
  · show execKernelDoorbell p off s = _
    exact mesh_becomes hr (doorbell_enters hb hp h)
  · show execKernelDoorbell p off s = _
    exact mesh_becomes hr (doorbell_full hb hp h)
  · have hexec : ∀ {c : Blk}, s.blk.kernelDesc p desc = c → exec i s = become s c := by
      intro c hc
      have hmesh := mesh_becomes (f := fun b => b.kernelDesc p desc) hr hc
      rcases hi with rfl | rfl
      · exact hmesh
      · exact hmesh
    intro d h t x
    refine ⟨fun hshort => hexec (kernelDesc_outside hd hshort), fun hlen hop => ?_, fun hlen hop => ?_⟩
    · have hbind := kernelDesc_bind hd hlen hop
      exact ⟨fun hno => hexec (hbind.trans (bindKernel_refused hno)), fun hok hdis => hexec (hbind.trans (bindKernel_expert hok hdis)),
        fun hok hdis => hexec (hbind.trans (bindKernel_dispatch hok hdis))⟩
    · have hunbind := kernelDesc_unbind hd hlen hop
      exact ⟨fun hv => hexec (hunbind.trans (unbindKernel_version hv)), fun hv =>
        ⟨fun hk => hexec (hunbind.trans (unbindKernel_none hv hk)), fun k y hk =>
          ⟨fun htok => hexec (hunbind.trans (unbindKernel_frees hv hk htok)),
            fun htok => hexec (hunbind.trans (unbindKernel_marks hv hk htok))⟩⟩⟩

end Sys2Proof.Doorbells
end


section
/-! Tokens of kernels (R204–R212): parts and their slots, time limits, expert outputs, KHDRs and trains. -/
namespace Sys2Proof.Tokens
open Sys2Proof Sys2Proof.Machine Sys2Proof.Safety Sys2Proof.Laws Sys2Proof.Acts

section
variable {b c : Blk} {t : Nat}

/-! ### Parts of tokens -/

/-- The oldest TYPE 2 DFP has left the queue of arrivals. -/
def tokenTaken (b : Blk) (t : Nat) (rest : List Dfp) : Blk := b.modKs t fun k => { k with tokenIn := rest }

/-- The slot of a kernel that a part belongs to (R205). -/
def openSlot (x : Kernel) (d : Dfp) : Option (Nat × Token) := x.tokens.find? fun y =>
  y.2.src = BitVec.ofNat 32 (fSrc d.hdr) && y.2.token.toNat / 8 = fTag d.hdr / 8 && !y.2.gated

/-- What is decided on a part for the DISPATCH kernel at HOME, in the order of R204. -/
def partDecided (b : Blk) (t : Nat) (x : Kernel) (d : Dfp) : Blk :=
  let plot := b.plotOfKey d.hdr
  let port := b.member.portOf t
  let part := fTag d.hdr % 8
  if x.plot ≠ plot || x.cls ≠ fClass d.hdr || !x.loaded || (x.unbinding && (openSlot x d).isNone) then
    b.drop t 0x40 (some port) (some plot)
  else if partsOf x.tokBytes ≤ part || d.payload.length ≠ partSize x.tokBytes part then b.drop t 0x41 (some port) (some plot)
  else match openSlot x d with
    | some (slot, tok) => b.tokenLand t x slot tok part d.payload
    | none => match x.freeSlot with
      | none => b.drop t 0x42 (some port) (some plot)
      | some slot => b.tokenLand t { x with serial := (x.serial + 1) % 2 ^ 16 } slot
          { src := BitVec.ofNat 32 (fSrc d.hdr), token := BitVec.ofNat 32 (fTag d.hdr), serial := x.serial,
            landed := [], gated := false, gates := [], ranks := [], missing := [], outs := [], acc := [] } part d.payload

section
variable {d : Dfp} {rest : List Dfp} (hd : (b.tile t).ks.tokenIn = d :: rest)
include hd

theorem tokenPart_no_kernel (h : (tokenTaken b t rest).dispatchAt t = none) :
    b.tokenPart t = (tokenTaken b t rest).drop t 0x40 (some ((tokenTaken b t rest).member.portOf t))
      (some ((tokenTaken b t rest).plotOfKey d.hdr)) := by
  unfold tokenTaken at h ⊢
  simp only [Blk.tokenPart, hd, h]

theorem tokenPart_decides {x : Kernel} (h : (tokenTaken b t rest).dispatchAt t = some x) :
    b.tokenPart t = partDecided (tokenTaken b t rest) t x d := by
  unfold tokenTaken at h ⊢
  simp only [Blk.tokenPart, hd, h]
  rfl

end

section
variable {x : Kernel} {d : Dfp}

theorem partDecided_foreign (h : x.plot ≠ b.plotOfKey d.hdr ∨ x.cls ≠ fClass d.hdr ∨ x.loaded = false ∨
      (x.unbinding = true ∧ openSlot x d = none)) :
    partDecided b t x d = b.drop t 0x40 (some (b.member.portOf t)) (some (b.plotOfKey d.hdr)) := by
  refine if_pos ?_
  simpa only [Bool.or_eq_true, Bool.and_eq_true, decide_eq_true_eq, Bool.not_eq_true', Option.isNone_iff_eq_none, or_assoc] using h

section
variable (hplot : x.plot = b.plotOfKey d.hdr) (hcls : x.cls = fClass d.hdr) (hload : x.loaded = true)
  (hopen : x.unbinding = false ∨ openSlot x d ≠ none)
include hplot hcls hload hopen

theorem foreignTest_of_own : (decide (x.plot ≠ b.plotOfKey d.hdr) || decide (x.cls ≠ fClass d.hdr) || !x.loaded ||
    (x.unbinding && (openSlot x d).isNone)) = false := by
  have hgone : (x.unbinding && (openSlot x d).isNone) = false := by
    rcases hopen with h | h
    · rw [h, Bool.false_and]
    · rw [Option.isNone_eq_false_iff.mpr (Option.isSome_iff_ne_none.mpr h), Bool.and_false]
  rw [decide_eq_false (not_not_intro hplot), decide_eq_false (not_not_intro hcls), hload, hgone]
  rfl

theorem partDecided_size (h : partsOf x.tokBytes ≤ fTag d.hdr % 8 ∨ d.payload.length ≠ partSize x.tokBytes (fTag d.hdr % 8)) :
    partDecided b t x d = b.drop t 0x41 (some (b.member.portOf t)) (some (b.plotOfKey d.hdr)) := by
  simp only [partDecided, foreignTest_of_own hplot hcls hload hopen, Bool.false_eq_true, if_false]
  exact if_pos (by simpa using h)

variable (hpart : fTag d.hdr % 8 < partsOf x.tokBytes) (hsize : d.payload.length = partSize x.tokBytes (fTag d.hdr % 8))
include hpart hsize

omit hplot hcls hload hopen in
theorem sizeTest_of_fits : (decide (partsOf x.tokBytes ≤ fTag d.hdr % 8) ||
    decide (d.payload.length ≠ partSize x.tokBytes (fTag d.hdr % 8))) = false := by
  rw [decide_eq_false (Nat.not_le.mpr hpart), decide_eq_false (not_not_intro hsize)]
  rfl

theorem partDecided_joins {slot : Nat} {tok : Token} (h : openSlot x d = some (slot, tok)) :
    partDecided b t x d = b.tokenLand t x slot tok (fTag d.hdr % 8) d.payload := by
  simp only [partDecided, foreignTest_of_own hplot hcls hload hopen, sizeTest_of_fits hpart hsize, Bool.false_eq_true, if_false]
  simp only [h]

theorem partDecided_no_slot (h : openSlot x d = none) (hfree : x.freeSlot = none) :
    partDecided b t x d = b.drop t 0x42 (some (b.member.portOf t)) (some (b.plotOfKey d.hdr)) := by
  simp only [partDecided, foreignTest_of_own hplot hcls hload hopen, sizeTest_of_fits hpart hsize, Bool.false_eq_true, if_false]
  simp only [h, hfree]

theorem partDecided_opens {slot : Nat} (h : openSlot x d = none) (hfree : x.freeSlot = some slot) :
    partDecided b t x d = b.tokenLand t { x with serial := (x.serial + 1) % 2 ^ 16 } slot
      { src := BitVec.ofNat 32 (fSrc d.hdr), token := BitVec.ofNat 32 (fTag d.hdr), serial := x.serial,
        landed := [], gated := false, gates := [], ranks := [], missing := [], outs := [], acc := [] }
      (fTag d.hdr % 8) d.payload := by
  simp only [partDecided, foreignTest_of_own hplot hcls hload hopen, sizeTest_of_fits hpart hsize, Bool.false_eq_true, if_false]
  simp only [h, hfree]

end

end

/-! ### Time limits -/

section
variable {x : Kernel} {slot : Nat} {tok : Token} (hx : b.dispatchAt t = some x) (hs : x.tokens.get? slot = some tok)
include hx hs

theorem tokenAsm_discards (h : tok.gated = false) :
    b.tokenAsm t slot = ((b.count t 0x15B (some x.plot)).raiseP 0x0C x.plot (some t) (tok.token.toNat / 8) 1).kernelSettle t
      { x with tokens := x.tokens.del slot } := by
  simp only [Blk.tokenAsm, hx, hs, h, Bool.false_eq_true, if_false]

theorem tokenRet_closes (h : tok.gated = true) : b.tokenRet t slot = b.tokenClose t x slot tok := by
  simp only [Blk.tokenRet, hx, hs, h, if_true]

end

/-! ### Expert outputs -/

/-- The oldest TYPE 3 DFP has left the queue of arrivals. -/
def expertTaken (b : Blk) (t : Nat) (rest : List Dfp) : Blk := b.modKs t fun k => { k with expertIn := rest }

/-- What is decided on an expert output for the DISPATCH kernel at HOME, in the order of R204. -/
def outputDecided (b : Blk) (t : Nat) (x : Kernel) (d : Dfp) : Blk :=
  let plot := b.plotOfKey d.hdr
  let port := b.member.portOf t
  let tag := fTag d.hdr
  let rank := tag / 64 % 8
  let part := tag / 512 % 8
  if x.plot ≠ plot then b.drop t 0x40 (some port) (some plot)
  else if partsOf x.retBytes ≤ part || d.payload.length ≠ partSize x.retBytes part then b.drop t 0x41 (some port) (some plot)
  else match x.tokens.get? (tag % 64) with
    | none => b.drop t 0x43 (some port) (some plot)
    | some tok =>
      if tok.serial ≠ tag / 2 ^ 16 || tag / 2 ^ 12 % 16 ≠ 0 || !tok.ranks.contains rank ||
          tok.missing.contains rank || (tok.outs.get? (8 * rank + part)).isSome then b.drop t 0x43 (some port) (some plot)
      else b.expertAdd t x (tag % 64) tok rank part d.payload

section
variable {d : Dfp} {rest : List Dfp} (hd : (b.tile t).ks.expertIn = d :: rest)
include hd

theorem expertOut_decides {x : Kernel} (h : (expertTaken b t rest).dispatchAt t = some x) :
    b.expertOut t = outputDecided (expertTaken b t rest) t x d := by
  unfold expertTaken at h ⊢
  simp only [Blk.expertOut, hd, h]
  rfl

theorem expertOut_foreign
    (h : ∀ x, (expertTaken b t rest).dispatchAt t = some x → x.plot ≠ (expertTaken b t rest).plotOfKey d.hdr) :
    b.expertOut t = (expertTaken b t rest).drop t 0x40 (some ((expertTaken b t rest).member.portOf t))
      (some ((expertTaken b t rest).plotOfKey d.hdr)) := by
  cases hx : (expertTaken b t rest).dispatchAt t with
  | none =>
    unfold expertTaken at hx ⊢
    simp only [Blk.expertOut, hd, hx]
  | some x =>
    rw [expertOut_decides hd hx]
    exact if_pos (h x hx)

end

section
variable {x : Kernel} {d : Dfp} (hplot : x.plot = b.plotOfKey d.hdr)
include hplot

theorem outputDecided_size (h : partsOf x.retBytes ≤ fTag d.hdr / 512 % 8 ∨
      d.payload.length ≠ partSize x.retBytes (fTag d.hdr / 512 % 8)) :
    outputDecided b t x d = b.drop t 0x41 (some (b.member.portOf t)) (some (b.plotOfKey d.hdr)) :=
  (if_neg (not_not_intro hplot)).trans (if_pos (by simpa using h))

variable (hpart : fTag d.hdr / 512 % 8 < partsOf x.retBytes) (hsize : d.payload.length = partSize x.retBytes (fTag d.hdr / 512 % 8))
include hpart hsize

omit hplot in
theorem outputTest_of_fits : (decide (partsOf x.retBytes ≤ fTag d.hdr / 512 % 8) ||
    decide (d.payload.length ≠ partSize x.retBytes (fTag d.hdr / 512 % 8))) = false := by
  rw [decide_eq_false (Nat.not_le.mpr hpart), decide_eq_false (not_not_intro hsize)]
  rfl

theorem outputDecided_no_token (h : x.tokens.get? (fTag d.hdr % 64) = none) :
    outputDecided b t x d = b.drop t 0x43 (some (b.member.portOf t)) (some (b.plotOfKey d.hdr)) := by
  simp only [outputDecided, if_neg (not_not_intro hplot), outputTest_of_fits hpart hsize, Bool.false_eq_true, if_false, h]

variable {tok : Token} (htok : x.tokens.get? (fTag d.hdr % 64) = some tok)
include htok

theorem outputDecided_unfit (h : tok.serial ≠ fTag d.hdr / 2 ^ 16 ∨ fTag d.hdr / 2 ^ 12 % 16 ≠ 0 ∨
      tok.ranks.contains (fTag d.hdr / 64 % 8) = false ∨ tok.missing.contains (fTag d.hdr / 64 % 8) = true ∨
      (tok.outs.get? (8 * (fTag d.hdr / 64 % 8) + fTag d.hdr / 512 % 8)).isSome = true) :
    outputDecided b t x d = b.drop t 0x43 (some (b.member.portOf t)) (some (b.plotOfKey d.hdr)) := by
  simp only [outputDecided, if_neg (not_not_intro hplot), outputTest_of_fits hpart hsize, Bool.false_eq_true, if_false, htok]
  refine if_pos ?_
  simpa only [Bool.or_eq_true, decide_eq_true_eq, Bool.not_eq_true', or_assoc] using h

theorem outputDecided_adds (hserial : tok.serial = fTag d.hdr / 2 ^ 16) (hzero : fTag d.hdr / 2 ^ 12 % 16 = 0)
    (hrank : tok.ranks.contains (fTag d.hdr / 64 % 8) = true) (hmiss : tok.missing.contains (fTag d.hdr / 64 % 8) = false)
    (hnew : tok.outs.get? (8 * (fTag d.hdr / 64 % 8) + fTag d.hdr / 512 % 8) = none) :
    outputDecided b t x d =
      b.expertAdd t x (fTag d.hdr % 64) tok (fTag d.hdr / 64 % 8) (fTag d.hdr / 512 % 8) d.payload := by
  have htest : (decide (tok.serial ≠ fTag d.hdr / 2 ^ 16) || decide (fTag d.hdr / 2 ^ 12 % 16 ≠ 0) ||
      !tok.ranks.contains (fTag d.hdr / 64 % 8) || tok.missing.contains (fTag d.hdr / 64 % 8) ||
      (tok.outs.get? (8 * (fTag d.hdr / 64 % 8) + fTag d.hdr / 512 % 8)).isSome) = false := by
    rw [decide_eq_false (not_not_intro hserial), decide_eq_false (not_not_intro hzero), hrank, hmiss, hnew]
    rfl
  simp only [outputDecided, if_neg (not_not_intro hplot), outputTest_of_fits hpart hsize, htest, Bool.false_eq_true, if_false, htok]

end

/-! ### Headers and trains -/

/-- A KHDR waits at the egress tile, marked where it was answered BUSY (R209). -/
def khdrKept (b : Blk) (t : Nat) (q : Packet × Nat) (refused : Bool) : Blk := b.modKs t fun y => { y with khdrs := y.khdrs ++
  [{ src := pSrc q.1.hdr, plot := pPlot q.1.hdr, tag := BitVec.ofNat 32 (pArg q.1.hdr), body := q.1.body.take 16,
     refused := refused }] }

section
variable {q : Packet × Nat} (hq : b.takeInbox t (· = rqKhdr) = some (q, c))
include hq

theorem khdrTake_waits (h : ((c.tile t).ks.khdrs.filter fun k => !k.refused).length < 64) :
    b.khdrTake t = (khdrKept c t q false).answerReq t q 0 [] := by
  simp only [Blk.khdrTake, hq, decide_eq_false (Nat.not_le.mpr h), Bool.false_eq_true, if_false]
  rfl

theorem khdrTake_busy (h : 64 ≤ ((c.tile t).ks.khdrs.filter fun k => !k.refused).length) :
    b.khdrTake t = (khdrKept c t q true).errReq t q erBusy := by
  simp only [Blk.khdrTake, hq, decide_eq_true h, if_true]
  rfl

end

section
variable {x : Train}

theorem copyTrain_none (h : takeFirst (fun (k : Khdr) => k.src = x.src && k.plot = x.plot) (b.tile t).ks.khdrs = none) :
    b.copyTrain t x = b.count t evKerNoHdr (some x.plot) := by
  simp only [Blk.copyTrain, h]

variable {k : Khdr} {ks : List Khdr}
  (h : takeFirst (fun (k : Khdr) => k.src = x.src && k.plot = x.plot) (b.tile t).ks.khdrs = some (k, ks))
include h

theorem copyTrain_sends (hk : k.refused = false) : b.copyTrain t x = (b.modKs t fun y => { y with khdrs := ks }).trainSend t k x := by
  simp only [Blk.copyTrain, h, hk, Bool.false_eq_true, if_false]

theorem copyTrain_refused (hk : k.refused = true) :
    b.copyTrain t x = (b.modKs t fun y => { y with khdrs := ks }).count t evKerNoHdr (some x.plot) := by
  simp only [Blk.copyTrain, h, hk, if_true]

end

section
variable {x : Train} {rest : List Train} (hx : takeFirst (fun x => !b.isUpTrain t x) (b.tile t).ks.trains = some (x, rest))
include hx

/-- The oldest kernel train has left the egress tile's queue. -/
def trainTaken (b : Blk) (t : Nat) (rest : List Train) : Blk := b.modKs t fun k => { k with trains := rest }

/-- The train that a token's HOME is owed, for the sender of a landed train. -/
def dueFor (b : Blk) (t : Nat) (x : Train) : Option (DueTrain × List DueTrain) :=
  takeFirst (fun (d : DueTrain) => d.src = x.src && d.plot = x.plot) (b.tile t).ks.due

/-- The block once the train that was due, if any, is no longer. -/
def dueTaken (b : Blk) (t : Nat) (x : Train) : Blk :=
  match dueFor b t x with
  | none => b
  | some (_, ds) => b.modKs t fun k => { k with due := ds }

theorem kernelTrain_combined {d : DueTrain} {ds : List DueTrain} {h : BitVec 256}
    (hdue : dueFor (trainTaken b t rest) t x = some (d, ds)) (hh : d.hdr = some h) :
    b.kernelTrain t = (dueTaken (trainTaken b t rest) t x).emitParts t x.plot
      ((dueTaken (trainTaken b t rest) t x).member.portOf t) false (returnHdr h) (padTo (fBytes h) x.data) := by
  simp only [dueTaken, hdue]
  unfold dueFor trainTaken at hdue
  unfold trainTaken
  simp only [Blk.kernelTrain, hx, hdue, hh]

theorem kernelTrain_copy (hdue : ∀ d ds, dueFor (trainTaken b t rest) t x = some (d, ds) → d.hdr = none) :
    b.kernelTrain t = (dueTaken (trainTaken b t rest) t x).copyTrain t x := by
  cases hd : dueFor (trainTaken b t rest) t x with
  | none =>
    simp only [dueTaken, hd]
    unfold dueFor trainTaken at hd
    unfold trainTaken
    simp only [Blk.kernelTrain, hx, hd]
  | some y =>
    obtain ⟨d, ds⟩ := y
    have hnone := hdue d ds hd
    simp only [dueTaken, hd]
    unfold dueFor trainTaken at hd
    unfold trainTaken
    simp only [Blk.kernelTrain, hx, hd, hnone]

end

end

/-- Settles O25. -/
theorem kernelTokens : Obligations.KernelTokens := by
  unfold Obligations.KernelTokens
  intro s t
  refine ⟨fun d rest hd hr => ?_, fun x slot tok hx hs => ⟨fun hr h => ?_, fun hr h => ?_⟩, fun d rest hd hr => ?_, fun q b hr hq => ?_,
    fun x rest hr hx => ?_⟩
  · intro b plot port part
    refine ⟨fun h => ?_, fun x hx => ?_⟩
    · show execTokenPartArrival t s = _
      exact mesh_becomes hr (tokenPart_no_kernel hd h)
    · have hdec := tokenPart_decides hd hx
      have hexec : ∀ {c : Blk}, partDecided b t x d = c → exec (.tokenPartArrival t) s = become s c := fun {c} hc =>
        mesh_becomes (f := fun b => b.tokenPart t) hr (hdec.trans hc)
      intro open_
      exact ⟨fun h => hexec (partDecided_foreign h), fun hplot hcls hload hopen =>
        ⟨fun h => hexec (partDecided_size hplot hcls hload hopen h), fun hpart hsize =>
          ⟨fun slot tok h => hexec (partDecided_joins hplot hcls hload hopen hpart hsize h),
            fun h hfree => hexec (partDecided_no_slot hplot hcls hload hopen hpart hsize h hfree),
            fun slot h hfree => hexec (partDecided_opens hplot hcls hload hopen hpart hsize h hfree)⟩⟩⟩
  · show execTokenAsmTimeout t slot s = _
    exact mesh_becomes hr (tokenAsm_discards hx hs h)
  · show execTokenRetTimeout t slot s = _
    exact mesh_becomes hr (tokenRet_closes hx hs h)
  · intro b plot port tag rank part
    refine ⟨fun h => ?_, fun x hx hplot => ?_⟩
    · show execExpertOutputArrival t s = _
      exact mesh_becomes hr (expertOut_foreign hd h)
    · have hdec := expertOut_decides hd hx
      have hexec : ∀ {c : Blk}, outputDecided b t x d = c → exec (.expertOutputArrival t) s = become s c := fun {c} hc =>
        mesh_becomes (f := fun b => b.expertOut t) hr (hdec.trans hc)
      exact ⟨fun h => hexec (outputDecided_size hplot h), fun hpart hsize =>
        ⟨fun h => hexec (outputDecided_no_token hplot hpart hsize h), fun tok htok =>
          ⟨fun h => hexec (outputDecided_unfit hplot hpart hsize htok h),
            fun hserial hzero hrank hmiss hnew => hexec (outputDecided_adds hplot hpart hsize htok hserial hzero hrank hmiss hnew)⟩⟩⟩
  · intro n b'
    refine ⟨fun h => ?_, fun h => ?_⟩
    · show execKhdrReceive t s = _
      exact mesh_becomes hr (khdrTake_waits hq h)
    · show execKhdrReceive t s = _
      exact mesh_becomes hr (khdrTake_busy hq h)
  · intro b due b1
    refine ⟨fun d ds h hdue hh => ?_, fun hdue => ?_⟩
    · show execKernelTrainLand t s = _
      exact mesh_becomes hr (kernelTrain_combined hx hdue hh)
    · have hcopy := kernelTrain_copy hx hdue
      intro mine
      refine ⟨fun h => ?_, fun k ks h => ?_⟩
      · show execKernelTrainLand t s = _
        exact mesh_becomes hr (hcopy.trans (copyTrain_none h))
      · intro b2
        refine ⟨fun hk => ?_, fun hk => ?_⟩
        · show execKernelTrainLand t s = _
          exact mesh_becomes hr (hcopy.trans (copyTrain_sends h hk))
        · show execKernelTrainLand t s = _
          exact mesh_becomes hr (hcopy.trans (copyTrain_refused h hk))

end Sys2Proof.Tokens
end


section
/-! The object dictionary and the management network: READ, WRITE, DESCRIBE and HELLO (R315–R322), key slots and segmented transfers
(R325, R329–R332), MOA frames in the order of R326. -/
namespace Sys2Proof.Dictionary
open Sys2Proof Sys2Proof.Machine Sys2Proof.Safety Sys2Proof.Laws Sys2Proof.Acts

section
variable {s : State} {b was : Blk} {seen : Seen} {ch : Channel} {i j : Nat} {xs : Bytes} {e : Ent}

/-! ### READ -/

theorem doRead_of_read (h : b.odRead seen ch i j = .ok xs) : b.doRead seen ch i j = b.answer 0 xs := by simp only [Blk.doRead, h, abNone]

theorem doRead_of_refused {a : Nat} (h : b.odRead seen ch i j = .error a) : b.doRead seen ch i j = b.answer a := by
  simp only [Blk.doRead, h]

theorem odRead_absent {a : Nat} (h : b.entry? i j = .error a) : b.odRead seen ch i j = .error a := by simp only [Blk.odRead, h]

/-- Only a read-only field is taken from the block as the mc began; what tells who may read is the block's own. -/
theorem roOf_writable_kept : (b.roOf was false i j).member = b.member ∧ (b.roOf was false i j).power = b.power ∧
    (b.roOf was false i j).mgmt = b.mgmt := by
  simp only [Blk.roOf, Bool.false_and, Bool.false_eq_true, if_false]
  split
  · exact ⟨rfl, rfl, rfl⟩
  · split <;> exact ⟨rfl, rfl, rfl⟩

theorem roOf_mgmt {ro : Bool} : (b.roOf was ro i j).mgmt = b.mgmt := by
  unfold Blk.roOf
  split
  · rfl
  · split
    · rfl
    · split <;> rfl

theorem expert_of_mgmt {c : Blk} (h : c.mgmt = b.mgmt) : c.expert ch = b.expert ch := by
  cases ch <;> simp only [Blk.expert, Blk.keySlot, h]

theorem sels_of_mgmt {c : Blk} (h : c.mgmt = b.mgmt) : c.sels ch = b.sels ch := by cases ch <;> simp only [Blk.sels, h]

theorem entry_zero (h : b.entry? i 0 = .ok e) : e = entZero := by
  simp only [Blk.entry?, if_true] at h
  split at h
  · cases h
  · exact (Except.ok.inj h).symm

theorem odRead_zero (h : b.entry? i 0 = .ok e) : b.odRead seen ch i 0 = .ok (toBytes 1 (maxSub b.member i)) := by
  have he := entry_zero h
  subst he
  simp only [Blk.odRead, h, if_true]
  exact congrArg (fun m => Except.ok (toBytes 1 (maxSub m i))) (roOf_writable_kept (b := b) (was := seen.was) (i := i) (j := 0)).1

section
variable (h : b.entry? i j = .ok e) (hj : 0 < j)
include h hj

theorem odRead_level (hx : e.expert = true) (hb : e.both = false) (hc : b.expert ch = false) : b.odRead seen ch i j = .error 0x04 := by
  simp only [Blk.odRead, h, if_neg (Nat.pos_iff_ne_zero.mp hj), expert_of_mgmt (roOf_mgmt (b := b)), hx, hb, hc, Bool.not_false,
    Bool.and_self, if_true, abLevel]

theorem odRead_domain (hl : e.expert = false ∨ e.both = true ∨ b.expert ch = true) (ht : e.type = tyDomain) :
    b.odRead seen ch i j = .error 0x06 := by
  have hlevel : (e.expert && !e.both && !b.expert ch) = false := by rcases hl with h | h | h <;> simp [h]
  simp only [Blk.odRead, h, if_neg (Nat.pos_iff_ne_zero.mp hj), expert_of_mgmt (roOf_mgmt (b := b)), hlevel, Bool.false_eq_true, if_false,
    ht, if_true, abType]

/-- A write-only entry reads as zeros (R317). -/
theorem odRead_write_only (hl : e.expert = false ∨ e.both = true ∨ b.expert ch = true) (ht : e.type ≠ tyDomain) (ha : e.access = acWO)
    (htile : e.inst = inTile → b.clusterTested (clusterOf (b.sels ch).tile) = false) :
    b.odRead seen ch i j = .ok (List.replicate e.size 0#8) := by
  have hlevel : (e.expert && !e.both && !b.expert ch) = false := by rcases hl with h | h | h <;> simp [h]
  have hro : decide (e.access = acRO) = false := by rw [ha]; rfl
  obtain ⟨-, hpower, hmgmt⟩ := roOf_writable_kept (b := b) (was := seen.was) (i := i) (j := j)
  have hsel : (decide (e.inst = inTile) && ((b.roOf seen.was false i j).selTile ch).isNone) = false := by
    by_cases hi : e.inst = inTile
    · have hfree := htile hi
      simp only [Blk.clusterTested] at hfree
      simp only [Blk.selTile, Blk.clusterTested, sels_of_mgmt hmgmt, hpower, hfree, Bool.false_eq_true, if_false, Option.isNone_some,
        Bool.and_false]
    · simp [hi]
  simp only [Blk.odRead, h, if_neg (Nat.pos_iff_ne_zero.mp hj), expert_of_mgmt (roOf_mgmt (b := b)), hlevel, Bool.false_eq_true, if_false,
    if_neg ht, hro, hsel, if_pos ha]

end

/-! ### WRITE and DESCRIBE -/

theorem doDescribe_found (h : b.entry? i j = .ok e) : b.doDescribe i j = b.answer 0 e.describe := by simp only [Blk.doDescribe, h, abNone]

theorem doDescribe_absent {a : Nat} (h : b.entry? i j = .error a) : b.doDescribe i j = b.answer a := by simp only [Blk.doDescribe, h]

theorem odWrite_absent {a : Nat} (h : b.entry? i j = .error a) : b.odWrite ch i j xs = (b, a) := by simp only [Blk.odWrite, h, Od.no]

section
variable (h : b.entry? i j = .ok e)
include h

theorem odWrite_read_only (ha : e.access = acRO ∨ e.access = acConst) : b.odWrite ch i j xs = (b, 0x03) := by
  simp only [Blk.odWrite, h]
  exact if_pos (by simpa using ha)

section
variable (hro : e.access ≠ acRO) (hconst : e.access ≠ acConst)
include hro hconst

theorem odWrite_level (hx : e.expert = true) (hc : b.expert ch = false) : b.odWrite ch i j xs = (b, 0x04) := by
  simp only [Blk.odWrite, h, decide_eq_false hro, decide_eq_false hconst, Bool.or_self, hx, hc, Bool.not_false, Bool.and_self,
    Bool.false_eq_true, if_false, if_true, Od.no, abLevel]

variable (hl : e.expert = true → b.expert ch = true)
include hl

theorem odWrite_domain (ht : e.type = tyDomain) : b.odWrite ch i j xs = (b, 0x06) := by
  have hlevel : (e.expert && !b.expert ch) = false := by simpa using hl
  simp only [Blk.odWrite, h, decide_eq_false hro, decide_eq_false hconst, Bool.or_self, hlevel, Bool.false_eq_true, if_false, ht, if_true,
    Od.no, abType]

theorem odWrite_length (ht : e.type ≠ tyDomain) (hn : xs.length ≠ e.size) : b.odWrite ch i j xs = (b, 0x05) := by
  have hlevel : (e.expert && !b.expert ch) = false := by simpa using hl
  simp only [Blk.odWrite, h, decide_eq_false hro, decide_eq_false hconst, Bool.or_self, hlevel, Bool.false_eq_true, if_false, if_neg ht,
    if_pos hn, Od.no, abLength]

theorem odWrite_stores (ht : e.type ≠ tyDomain) (hn : xs.length = e.size) : b.odWrite ch i j xs = b.odStore ch i j xs := by
  have hlevel : (e.expert && !b.expert ch) = false := by simpa using hl
  simp only [Blk.odWrite, h, decide_eq_false hro, decide_eq_false hconst, Bool.or_self, hlevel, Bool.false_eq_true, if_false, if_neg ht,
    if_neg (not_not_intro hn)]

end
end

/-! ### Requests -/

theorem moaRead_becomes (ha : Asked s (.moaRead ch i j) ch false) (h : s.blk.doRead s.seen ch i j = b) :
    exec (.moaRead ch i j) s = become s b := by
  show execMoaRead ch i j s = _
  exact request_becomes ha h

theorem describe_becomes (ha : Asked s (.describe ch i j) ch false) (h : s.blk.doDescribe i j = b) :
    exec (.describe ch i j) s = become s b := by
  show execDescribe ch i j s = _
  exact request_becomes ha h

/-- WRITE of the object dictionary and of its register window are one request (R316, R340). -/
theorem write_becomes {w : Instr} (hw : w = .moaWrite ch i j xs ∨ w = .odRegisterWrite ch i j xs) (ha : Asked s w ch false) {a : Nat}
    (h : s.blk.odWrite ch i j xs = (b, a)) : exec w s = become s (b.answer a) := by
  rcases hw with rfl | rfl
  · show execMoaWrite ch i j xs s = _
    exact request_becomes (f := fun _ b => Blk.odAnswer (b.odWrite ch i j xs)) ha (congrArg Blk.odAnswer h)
  · show execOdRegisterWrite ch i j xs s = _
    exact request_becomes (f := fun _ b => Blk.odAnswer (b.odWrite ch i j xs)) ha (congrArg Blk.odAnswer h)

theorem hello_becomes (hs : Served s (.hello ch)) (h : ch = .mailbox ∨ s.blk.mgmt.mgmtEn = true) :
    exec (.hello ch) s = become s s.blk.doHello := by
  show execHello ch s = _
  rw [execHello, at_named hs.1]
  exact if_pos (by simpa [hs.2] using h)

end

/-- Settles O26. -/
theorem dictionaryRequests : Obligations.DictionaryRequests := by
  unfold Obligations.DictionaryRequests
  intro s ch i j xs e
  refine ⟨fun ha => ⟨fun r hr => moaRead_becomes ha (doRead_of_read hr), fun a hr => moaRead_becomes ha (doRead_of_refused hr), ?_⟩, ?_,
    fun he hj => ⟨fun ha => ⟨fun hx hb hc => ?_, fun hl => ⟨fun ht => ?_, fun ht hwo htile => ?_⟩⟩, fun w hw ha =>
      ⟨fun hro => write_becomes hw ha (odWrite_read_only he hro), fun hro hconst =>
        ⟨fun hx hc => write_becomes hw ha (odWrite_level he hro hconst hx hc), fun hl =>
          ⟨fun ht => write_becomes hw ha (odWrite_domain he hro hconst hl ht),
            fun ht hn => write_becomes hw ha (odWrite_length he hro hconst hl ht hn),
            fun ht hn => write_becomes hw ha (odWrite_stores he hro hconst hl ht hn)⟩⟩⟩,
      fun ha => describe_becomes ha (doDescribe_found he)⟩, fun hs h => hello_becomes hs h⟩
  · rintro he rfl
    exact moaRead_becomes ha (doRead_of_read (odRead_zero he))
  · rintro a he w (rfl | rfl | rfl | rfl) ha
    · exact moaRead_becomes ha (doRead_of_refused (odRead_absent he))
    · exact write_becomes (.inl rfl) ha (odWrite_absent he)
    · exact write_becomes (.inr rfl) ha (odWrite_absent he)
    · exact describe_becomes ha (doDescribe_absent he)
  · exact moaRead_becomes ha (doRead_of_refused (odRead_level he hj hx hb hc))
  · exact moaRead_becomes ha (doRead_of_refused (odRead_domain he hj hl ht))
  · exact moaRead_becomes ha (doRead_of_read (odRead_write_only he hj hl ht hwo htile))

section
variable {s : State} {b : Blk} {ch : Channel} {i j : Nat} {xs : Bytes} {e : Ent}

/-! ### Key slots -/

theorem closeXfer_only_mgmt {a : Nat} : b.closeXfer ch a = { b with mgmt := (b.closeXfer ch a).mgmt } := by
  unfold Blk.closeXfer
  split
  · rfl
  · cases ch <;> rfl

theorem closeXfer_keeps_slots {a : Nat} {c : Channel} : (b.closeXfer ch a).keySlot c = b.keySlot c := by
  unfold Blk.closeXfer
  split
  · rfl
  · cases ch <;> cases c <;> rfl

theorem closeXfer_closes {a : Nat} : (b.closeXfer ch a).xfer ch = none := by
  unfold Blk.closeXfer
  split
  · assumption
  · cases ch <;> rfl

theorem setKeySlot_only_mgmt {slot : Bool} : b.setKeySlot slot xs = { b with mgmt := (b.setKeySlot slot xs).mgmt } := by
  unfold Blk.setKeySlot
  rw [closeXfer_only_mgmt]
  cases slot <;> rfl

theorem setKeySlot_sets {slot : Bool} : (b.setKeySlot slot xs).keySlot (slotCh slot) = KeySlot.of xs := by cases slot <;> rfl

theorem setKeySlot_keeps_other {slot : Bool} : (b.setKeySlot slot xs).keySlot (slotCh !slot) = b.keySlot (slotCh !slot) := by
  cases slot
  · exact closeXfer_keeps_slots (ch := .slot0) (c := .slot1)
  · exact closeXfer_keeps_slots (ch := .slot1) (c := .slot0)

theorem setKeySlot_closes {slot : Bool} : (b.setKeySlot slot xs).xfer (slotCh slot) = none := by
  cases slot
  · exact closeXfer_closes (ch := .slot0)
  · exact closeXfer_closes (ch := .slot1)

/-- A key slot takes its bytes once the journal holds them (log 101). -/
def keyTaken (b : Blk) (slot : Bool) (xs : Bytes) : Blk :=
  { b.setKeySlot slot xs with fw := { (b.setKeySlot slot xs).fw with keyJournal := true } }

theorem writeKeySlot_takes {slot : Bool} {c : Blk} (hn : xs.length = 34) (hch : ch ≠ slotCh slot) (h32 : (xs.getD 32 0#8).toNat ≤ 1)
    (h33 : (xs.getD 33 0#8).toNat ≤ 1)
    (hstore : b.replayJournal.store psJournal (BitVec.ofNat 8 (if slot then 1 else 0) :: xs) = some c) :
    b.writeKeySlot ch slot xs = (keyTaken c slot xs, 0) := by
  have hbit : bit slot = if slot then 1 else 0 := by cases slot <;> rfl
  simp only [Blk.writeKeySlot, if_neg (not_not_intro hn), if_neg hch, decide_eq_false (Nat.not_lt.mpr h32),
    decide_eq_false (Nat.not_lt.mpr h33), Bool.or_self, Bool.false_eq_true, if_false, hbit, Blk.storeThen, hstore]
  rfl

theorem keyTaken_otherwise {slot : Bool} : { keyTaken b slot xs with mgmt := b.mgmt, fw := b.fw } = b := by
  unfold keyTaken
  rw [setKeySlot_only_mgmt]

/-! ### SEG_WRITE and SEG_READ -/

/-- The transfer that a SEG_WRITE opens. -/
def opening (i j total : Nat) (xcrc : BitVec 32) (base : Nat) : Transfer :=
  { index := i, sub := j, write := true, total := total, xcrc := xcrc, base := base, next := 0, data := [] }

section
variable (h : b.entry? i j = .ok e) (ht : e.type = tyDomain) (hl : e.expert = true → b.expert ch = true)
include h ht hl

theorem doSegWrite_opens {total : Nat} {xcrc : BitVec 32} : b.doSegWrite ch i j total xcrc = b.domainOpen ch i j total xcrc := by
  have hlevel : (e.expert && !b.expert ch) = false := by simpa using hl
  simp only [Blk.doSegWrite, h, hlevel, Bool.false_eq_true, if_false, if_neg (not_not_intro ht)]

theorem doSegRead_opens (hx : b.xfer ch = none) (hon : b.transferOn i j = false) :
    b.doSegRead ch i j = (b.setXfer ch (some
      { index := i, sub := j, write := false, total := 0, xcrc := crc32c [], base := 0, next := 0, data := [] }), 0) := by
  have hlevel : (e.expert && !b.expert ch) = false := by simpa using hl
  simp only [Blk.doSegRead, h, hlevel, Bool.false_eq_true, if_false, if_neg (not_not_intro ht), hx, hon, Option.isSome_none, Bool.or_self]
  rfl

end

section
variable {total : Nat} {xcrc : BitVec 32} (hx : b.xfer ch = none) (hon : b.transferOn i j = false) (hpos : 0 < total)
  (hmax : total ≤ 67108864)
include hx hon hpos hmax

theorem segTests_pass : ((decide (total = 0) || decide (objectMax < total)) = false) ∧
    (((b.xfer ch).isSome || b.transferOn i j) = false) := by
  refine ⟨?_, by rw [hx, hon]; rfl⟩
  rw [decide_eq_false (Nat.pos_iff_ne_zero.mp hpos), decide_eq_false (show ¬ objectMax < total from Nat.not_lt.mpr hmax)]
  rfl

theorem domainOpen_library (hi : i = 0x1400) (hroom : (b.sels ch).stage.toNat * 64 + total ≤ stagingBytes)
    (hfree : b.meetsLibrary ((b.sels ch).stage.toNat * 64) total = false) :
    b.domainOpen ch i j total xcrc = (b.setXfer ch (some (opening i j total xcrc ((b.sels ch).stage.toNat * 64))), 0) := by
  obtain ⟨hsize, hbusy⟩ := segTests_pass hx hon hpos hmax
  subst hi
  simp only [Blk.domainOpen, hsize, hbusy, Bool.false_eq_true, if_false, if_true, if_neg (Nat.not_lt.mpr hroom), hfree]
  rfl

theorem domainOpen_image (hi : i = 0x4000) (hroom : total ≤ 4194304) (hfw : b.fwWritable = true) :
    b.domainOpen ch i j total xcrc = ({ b.setXfer ch (some (opening i j total xcrc 0)) with
      fw := (b.setXfer ch (some (opening i j total xcrc 0))).fw.setSlot (b.setXfer ch (some (opening i j total xcrc 0))).fw.inactive []
        .partial_ }, 0) := by
  obtain ⟨hsize, hbusy⟩ := segTests_pass hx hon hpos hmax
  subst hi
  simp only [Blk.domainOpen, hsize, hbusy, Bool.false_eq_true, if_false, if_neg (show ¬ (0x4000 : Nat) = 0x1400 by decide), if_true,
    if_neg (Nat.not_lt.mpr hroom), hfw, Bool.not_true]
  rfl

theorem domainOpen_schedule (hi : i = 0x2200 ∨ i = 0x2202) (hload : b.sown.state ≠ .loading) (harm : b.sown.state ≠ .armed) :
    b.domainOpen ch i j total xcrc =
      (b.setXfer ch (some (opening i j total xcrc (if i = 0x2202 then 67108864 else 0))), 0) := by
  obtain ⟨hsize, hbusy⟩ := segTests_pass hx hon hpos hmax
  have hlib : i ≠ 0x1400 := by omega
  have hfw : i ≠ 0x4000 := by omega
  simp only [Blk.domainOpen, hsize, hbusy, Bool.false_eq_true, if_false, if_neg hlib, if_neg hfw, decide_eq_false hload,
    decide_eq_false harm, Bool.or_self]
  rfl

end

theorem setXfer_sets {x : Option Transfer} : (b.setXfer ch x).xfer ch = x := by cases ch <;> rfl

theorem setXfer_only_mgmt {x : Option Transfer} : b.setXfer ch x = { b with mgmt := (b.setXfer ch x).mgmt } := by cases ch <;> rfl

/-! ### Segments, acknowledgements and their end -/

section
variable {n : Nat} {data : Bytes} {x : Transfer}

theorem segment_unopened (h : b.xfer ch = none) : b.segment ch n data = b.countSys evMoaSegOoo := by simp only [Blk.segment, h]

theorem segment_out_of_order (h : b.xfer ch = some x) (hn : x.write = false ∨ n ≠ x.next ∨ data.length ≠ segBytes x.total n) :
    b.segment ch n data = (b.countSys evMoaSegOoo).sendAck x.next 0 := by
  simp only [Blk.segment, h]
  exact if_pos (by simpa [or_assoc] using hn)

section
variable (h : b.xfer ch = some x) (hw : x.write = true) (hn : n = x.next) (hlen : data.length = segBytes x.total n)
include hw hn hlen

theorem segmentTest_in_order : (!x.write || decide (n ≠ x.next) || decide (data.length ≠ segBytes x.total n)) = false := by
  rw [hw, decide_eq_false (not_not_intro hn), decide_eq_false (not_not_intro hlen)]
  rfl

include h

theorem segment_more (hmore : x.data.length + data.length < x.total) : b.segment ch n data =
    ((b.segTarget x data).setXfer ch (some { x with next := x.next + 1, data := x.data ++ data })).sendAck (x.next + 1) 0 := by
  simp only [Blk.segment, h, segmentTest_in_order hw hn hlen, Bool.false_eq_true, if_false, List.length_append, if_pos hmore]
  rfl

theorem segment_last (hall : x.total ≤ x.data.length + data.length) : b.segment ch n data =
    (((b.segTarget x data).setXfer ch none).objectDone x (decide (crc32c (x.data ++ data) = x.xcrc))).sendAck (x.next + 1)
      (if decide (crc32c (x.data ++ data) = x.xcrc) then abNone else abCrc) := by
  simp only [Blk.segment, h, segmentTest_in_order hw hn hlen, Bool.false_eq_true, if_false, List.length_append,
    if_neg (Nat.not_lt.mpr hall)]

theorem segment_whole (hall : x.total ≤ x.data.length + data.length) (hcrc : crc32c (x.data ++ data) = x.xcrc) :
    b.segment ch n data = (((b.segTarget x data).setXfer ch none).objectDone x true).sendAck (x.next + 1) 0 := by
  rw [segment_last h hw hn hlen hall, decide_eq_true hcrc]
  rfl

theorem segment_corrupt (hall : x.total ≤ x.data.length + data.length) (hcrc : crc32c (x.data ++ data) ≠ x.xcrc) :
    b.segment ch n data = (((b.segTarget x data).setXfer ch none).objectDone x false).sendAck (x.next + 1) 0x0E := by
  rw [segment_last h hw hn hlen hall, decide_eq_false hcrc]
  rfl

end

variable (h : b.xfer ch = some x)
include h

theorem segAck_moves (hw : x.write = false) : b.segAck ch n =
    Blk.setXfer { b with mgmt := { b.mgmt with segOut := x.window n } } ch
      (if x.window n = [] then none else some { x with next := n }) := by
  simp only [Blk.segAck, h, hw, Bool.false_eq_true, if_false, List.isEmpty_iff]

theorem closeXfer_ends {a : Nat} : b.closeXfer ch a = (b.setXfer ch none).sendAck x.next a := by simp only [Blk.closeXfer, h]

theorem segAbort_ends : b.segAbort ch = ((b.setXfer ch none).sendAck x.next 0x10, 0x10) := by
  simp only [Blk.segAbort, h, Option.isSome_some, if_true, closeXfer_ends h]
  rfl

end

theorem segWrite_answers {total : Nat} {xcrc : BitVec 32} {c : Blk} (ha : Asked s (.segWrite ch i j total xcrc) ch false)
    (h : s.blk.doSegWrite ch i j total xcrc = (c, 0)) : exec (.segWrite ch i j total xcrc) s = become s (c.answer 0) := by
  show execSegWrite ch i j total xcrc s = _
  exact request_becomes (f := fun _ b => Blk.odAnswer (b.doSegWrite ch i j total xcrc)) ha (congrArg Blk.odAnswer h)

theorem segRead_answers {c : Blk} (ha : Asked s (.segRead ch i j) ch false) (h : s.blk.doSegRead ch i j = (c, 0)) :
    exec (.segRead ch i j) s = become s (c.answer 0) := by
  show execSegRead ch i j s = _
  exact request_becomes (f := fun _ b => Blk.odAnswer (b.doSegRead ch i j)) ha (congrArg Blk.odAnswer h)

end

theorem segment_becomes {s : State} {ch : Channel} {n : Nat} {data : Bytes} {b : Blk} (hs : Served s (.segment ch n data))
    (h : s.blk.segment ch n data = b) : exec (.segment ch n data) s = become s b := by
  show execSegment ch n data s = _
  exact boot_becomes hs h

/-- Settles O27. -/
theorem segmentedTransfers : Obligations.SegmentedTransfers := by
  unfold Obligations.SegmentedTransfers
  intro s ch
  refine ⟨fun slot xs b ha hn hch h32 h33 hstore => ⟨keyTaken b slot xs, ?_, setKeySlot_sets, setKeySlot_keeps_other, setKeySlot_closes,
      rfl, keyTaken_otherwise⟩,
    fun i j total xcrc e he ht hl => ⟨fun ha hx hon hpos hmax => ⟨fun hi hroom hfree => ?_, fun hi hroom hfw => ?_,
      fun hi hload harm => ?_⟩, fun ha hx hon => segRead_answers ha (doSegRead_opens he ht hl hx hon)⟩,
    fun n data hs => ⟨fun hx => segment_becomes hs (segment_unopened hx), fun x hx =>
      ⟨fun hbad => segment_becomes hs (segment_out_of_order hx hbad), fun hw hn hlen =>
        ⟨fun hmore => segment_becomes hs (segment_more hx hw hn hlen hmore),
          fun hall hcrc => segment_becomes hs (segment_whole hx hw hn hlen hall hcrc),
          fun hall hcrc => segment_becomes hs (segment_corrupt hx hw hn hlen hall hcrc)⟩⟩⟩,
    fun x n hx => ⟨fun hs hw => ?_, fun hs => ?_, fun ha => ?_⟩⟩
  · show execKeySlotWrite ch slot xs s = _
    exact od_answers ha (writeKeySlot_takes hn hch h32 h33 hstore)
  · exact segWrite_answers ha ((doSegWrite_opens he ht hl).trans (domainOpen_library hx hon hpos hmax hi hroom hfree))
  · refine ⟨_, segWrite_answers ha ((doSegWrite_opens he ht hl).trans (domainOpen_image hx hon hpos hmax hi hroom hfw)), ?_, ?_, ?_⟩
    · exact setXfer_sets
    · rw [setXfer_only_mgmt]
    · rw [setXfer_only_mgmt]
  · exact segWrite_answers ha ((doSegWrite_opens he ht hl).trans (domainOpen_schedule hx hon hpos hmax hi hload harm))
  · show execSegAck ch n s = _
    exact boot_becomes hs (segAck_moves hx hw)
  · show execSegTimeout ch s = _
    exact boot_becomes (f := (·.closeXfer ch abTimeout)) hs (closeXfer_ends hx)
  · show execSegAbort ch s = _
    exact odFw_answers ha (segAbort_ends hx)

section
variable {s : State} {b : Blk} {seen : Seen} {frame xs : Bytes} {x : MoaIn}

/-! ### Frames of the management network -/

section
variable {c : Blk} {out : List Bytes}

theorem moaArrives_answers (h : b.moaFor frame = some x) (hsum : x.sumOk = true) (hr : b.moaReceive seen x.body = (c, out)) :
    b.moaArrives seen frame true = c.mgmtSend (out.map (c.moaOut x)) := by
  simp only [Blk.moaArrives, h, hsum, hr, Bool.not_true, Bool.false_eq_true, if_false]

end

theorem moaArrives_foreign (h : b.moaFor frame = none) : b.moaArrives seen frame true = b.countSys evMoaForeign := by
  simp only [Blk.moaArrives, h, Bool.not_true, Bool.false_eq_true, if_false]

theorem moaArrives_corrupt (h : b.moaFor frame = some x) (hsum : x.sumOk = false) : b.moaArrives seen frame true = b := by
  simp only [Blk.moaArrives, h, hsum, Bool.not_true, Bool.not_false, Bool.false_eq_true, if_false, if_true]

/-- The row of R326 that holds a request which has passed every check before HELLO's. -/
theorem moaReceive_malformed (h : moaOk xs = false ∨ b.mgmt.mgmtEn = false) : b.moaReceive seen xs = (b.countSys evMoaBad, []) := by
  unfold Blk.moaReceive
  exact if_pos (by simpa using h)

theorem helloTest_other (hhello : mhKind (moaHdr xs) ≠ 0 ∨ mhOp (moaHdr xs) ≠ 0x07) :
    (decide (mhKind (moaHdr xs) = mkRequest) && decide (mhOp (moaHdr xs) = 0x07)) = false := by
  rcases hhello with h | h
  · rw [decide_eq_false (show ¬ mhKind (moaHdr xs) = mkRequest from h), Bool.false_and]
  · rw [decide_eq_false h, Bool.and_false]

theorem silentTest_served (hworn : b.fw.worn = false) (hspdm : mhKind (moaHdr xs) ≠ 4) :
    (b.fw.worn || decide (mhKind (moaHdr xs) = mkSpdm)) = false := by
  rw [hworn, decide_eq_false (show ¬ mhKind (moaHdr xs) = mkSpdm from hspdm)]
  rfl

/-- A management address is the block's own where it is set (R323). -/
theorem ownAddress_iff {n : Nat} {own ip : BitVec n} :
    (decide (own ≠ 0#n) && decide (ip = own)) = true ↔ ip ≠ 0#n ∧ ip = own := by
  simp only [Bool.and_eq_true, decide_eq_true_eq]
  exact and_congr_left fun h => by rw [h]

theorem foreignAddress {n : Nat} {own ip : BitVec n} (h : ip = 0#n ∨ ip ≠ own) : ¬ (decide (own ≠ 0#n) && decide (ip = own)) = true := by
  rw [ownAddress_iff]
  rintro ⟨h0, hown⟩
  exact h.elim h0 (· hown)

section
variable (hok : moaOk xs = true) (hen : b.mgmt.mgmtEn = true)
include hok hen

theorem moaReceive_hello (hkind : mhKind (moaHdr xs) = 0) (hop : mhOp (moaHdr xs) = 0x07) : b.moaReceive seen xs =
    (b.doHello, [b.doHello.moaResponse (slotCh (mhSlot (moaHdr xs))) (setFld (moaHdr xs) 33 1 0) b.mgmt.boot.toNat]) := by
  simp only [Blk.moaReceive, hok, hen, hkind, hop, Bool.not_true, Bool.or_self, Bool.false_eq_true, if_false, mkRequest, decide_true,
    Bool.and_self, if_true]

section
variable (hhello : mhKind (moaHdr xs) ≠ 0 ∨ mhOp (moaHdr xs) ≠ 0x07)
include hhello

theorem moaReceive_silent (h : b.fw.worn = true ∨ mhKind (moaHdr xs) = 4) : b.moaReceive seen xs = (b, []) := by
  simp only [Blk.moaReceive, hok, hen, helloTest_other hhello, Bool.not_true, Bool.or_self, Bool.false_eq_true, if_false]
  exact if_pos ((Bool.or_eq_true _ _).mpr (h.imp_right decide_eq_true))

section
variable (hworn : b.fw.worn = false) (hspdm : mhKind (moaHdr xs) ≠ 4)
include hworn hspdm

theorem moaReceive_unauthentic (h : mhAuth (moaHdr xs) = false ∨ (seen.was.keySlot (slotCh (mhSlot (moaHdr xs)))).valid = false ∨
      moaTagOk (seen.was.keySlot (slotCh (mhSlot (moaHdr xs)))).key xs = false) :
    b.moaReceive seen xs = (b.authFail (mhSlot (moaHdr xs)), []) := by
  simp only [Blk.moaReceive, hok, hen, helloTest_other hhello, silentTest_served hworn hspdm, Bool.not_true,
    Bool.or_self, Bool.false_eq_true, if_false]
  exact if_pos (by simpa [or_assoc] using h)

section
variable (hauth : mhAuth (moaHdr xs) = true) (hvalid : (seen.was.keySlot (slotCh (mhSlot (moaHdr xs)))).valid = true)
  (htag : moaTagOk (seen.was.keySlot (slotCh (mhSlot (moaHdr xs)))).key xs = true)
include hauth hvalid htag

theorem moaReceive_old_boot (hboot : mhBoot (moaHdr xs) ≠ b.mgmt.boot.toNat) : b.moaReceive seen xs =
    (b.answer 0x0A, [(b.answer 0x0A).moaResponse (slotCh (mhSlot (moaHdr xs))) (moaHdr xs) b.mgmt.boot.toNat]) := by
  simp only [Blk.moaReceive, hok, hen, helloTest_other hhello, silentTest_served hworn hspdm, hauth, hvalid, htag,
    Bool.not_true, Bool.or_self, Bool.false_eq_true, if_false, if_pos hboot, abBoot]

section
variable (hboot : mhBoot (moaHdr xs) = b.mgmt.boot.toNat)
include hboot

theorem moaReceive_fresh {y : Blk × List Bytes} (hfresh : (b.seqRec (mhSlot (moaHdr xs))).fresh_ (mhSeq (moaHdr xs)) = true)
    (hy : (b.setSeqRec (mhSlot (moaHdr xs)) ((b.seqRec (mhSlot (moaHdr xs))).take (mhSeq (moaHdr xs)))).moaExec seen
      (slotCh (mhSlot (moaHdr xs))) b.mgmt.boot.toNat xs = y) : b.moaReceive seen xs =
    (y.1.setSeqRec (mhSlot (moaHdr xs)) ((y.1.seqRec (mhSlot (moaHdr xs))).hold (mhSeq (moaHdr xs)) y.2), y.2) := by
  subst hy
  simp only [Blk.moaReceive, hok, hen, helloTest_other hhello, silentTest_served hworn hspdm, hauth, hvalid, htag,
    Bool.not_true, Bool.or_self, Bool.false_eq_true, if_false, if_neg (not_not_intro hboot), hfresh, if_true]

variable (hold : (b.seqRec (mhSlot (moaHdr xs))).fresh_ (mhSeq (moaHdr xs)) = false)
include hold

theorem moaReceive_repeated (hheld : (b.seqRec (mhSlot (moaHdr xs))).held (mhSeq (moaHdr xs)) ≠ []) :
    b.moaReceive seen xs = (b, (b.seqRec (mhSlot (moaHdr xs))).held (mhSeq (moaHdr xs))) := by
  simp only [Blk.moaReceive, hok, hen, helloTest_other hhello, silentTest_served hworn hspdm, hauth, hvalid, htag,
    Bool.not_true, Bool.or_self, Bool.false_eq_true, if_false, if_neg (not_not_intro hboot), hold]
  exact if_pos (by simpa using hheld)

theorem moaReceive_stale (hheld : (b.seqRec (mhSlot (moaHdr xs))).held (mhSeq (moaHdr xs)) = []) : b.moaReceive seen xs =
    (b.answer 0x0B, [(b.answer 0x0B).moaResponse (slotCh (mhSlot (moaHdr xs))) (moaHdr xs) b.mgmt.boot.toNat]) := by
  simp only [Blk.moaReceive, hok, hen, helloTest_other hhello, silentTest_served hworn hspdm, hauth, hvalid, htag,
    Bool.not_true, Bool.or_self, Bool.false_eq_true, if_false, if_neg (not_not_intro hboot), hold, hheld, List.isEmpty_nil, abSeq]

end
end
end
end
end

theorem frame_becomes {good : Bool} (hs : Served s (.moaFrameReceive frame good)) (h : s.blk.moaArrives s.seen frame good = b) :
    exec (.moaFrameReceive frame good) s = become s b := by
  show execMoaFrameReceive frame good s = _
  rw [execMoaFrameReceive, at_named hs.1]
  exact (if_pos hs.2).trans (h ▸ rfl)

end

/-- Settles O28, row by row of R326. -/
theorem moaFrames : Obligations.MoaFrames := by
  unfold Obligations.MoaFrames
  intro s frame x xs h slot ch b key send boot
  refine ⟨fun hs => frame_becomes hs rfl, fun hs hf => frame_becomes hs (moaArrives_foreign hf),
    fun hs hf hsum => frame_becomes hs (moaArrives_corrupt hf hsum), fun hs hf hsum => ?_, fun ip hs => ⟨fun h0 hip => ?_, fun hip => ?_⟩,
    fun ip hs => ⟨fun h0 hip => ?_, fun hip => ?_⟩⟩
  · have hsend : ∀ {c : Blk} {out : List Bytes}, s.blk.moaReceive s.seen x.body = (c, out) →
        exec (.moaFrameReceive frame true) s = become s (c.mgmtSend (out.map (c.moaOut x))) :=
      fun hr => frame_becomes hs (moaArrives_answers hf hsum hr)
    refine ⟨fun hbad => hsend (moaReceive_malformed hbad), fun hok hen hk ho => hsend (moaReceive_hello hok hen hk ho),
      fun hok hen hother => ⟨fun hq => hsend (moaReceive_silent hok hen hother hq), fun hworn hspdm =>
        ⟨fun hbad => hsend (moaReceive_unauthentic hok hen hother hworn hspdm hbad), fun ha hv ht =>
          ⟨fun hb => hsend (moaReceive_old_boot hok hen hother hworn hspdm ha hv ht hb), fun hb hfresh => ?_, fun hb hold =>
            ⟨fun hheld => hsend (moaReceive_repeated hok hen hother hworn hspdm ha hv ht hb hold hheld),
              fun hheld => hsend (moaReceive_stale hok hen hother hworn hspdm ha hv ht hb hold hheld)⟩⟩⟩⟩⟩
    exact hsend (moaReceive_fresh hok hen hother hworn hspdm ha hv ht hb hfresh rfl)
  · show execArpRequest ip s = _
    exact steward_becomes hs (if_pos (ownAddress_iff.mpr ⟨h0, hip⟩))
  · show execArpRequest ip s = _
    exact steward_becomes hs (if_neg (foreignAddress hip))
  · show execNeighborSolicitation ip s = _
    exact steward_becomes hs (if_pos (ownAddress_iff.mpr ⟨h0, hip⟩))
  · show execNeighborSolicitation ip s = _
    exact steward_becomes hs (if_neg (foreignAddress hip))

end Sys2Proof.Dictionary
end


section
/-! Ports: the egress scheduler and its pick (R237–R243), and the way of a received frame (R230–R237). -/
namespace Sys2Proof.PortTraffic
open Sys2Proof Sys2Proof.Machine Sys2Proof.Safety Sys2Proof.Laws Sys2Proof.Acts

/-! ### The pick of an output -/

section
variable {b : Blk} {p q : Nat} {half : Bool}

/-- How the scheduler goes on from the best queue so far to the next one that can send (R239). -/
def chooseNext (b : Blk) (p : Nat) (a : Option Nat) (q : Nat) : Option Nat :=
  match a with
  | none => some q
  | some c =>
    let x := b.egQueue p q
    let y := b.egQueue p c
    if b.prioOf p c < b.prioOf p q then some q
    else if b.prioOf p q < b.prioOf p c then a
    else if y.tag ≠ x.tag && laterTag y.tag x.tag = y.tag then some q else a

theorem pick_eq_fold : b.pick p half = ((List.range 64).filter fun q => b.canSend p q half).foldl (chooseNext b p) none := rfl

/-- Queue `q` goes before queue `r`: by priority, then by finish tag, then by number. -/
def Before (b : Blk) (p q r : Nat) : Prop :=
  b.prioOf p r ≤ b.prioOf p q ∧ (b.prioOf p r = b.prioOf p q →
    ((b.egQueue p r).tag - (b.egQueue p q).tag).toNat < 2 ^ 31 ∧
      (((b.egQueue p r).tag - (b.egQueue p q).tag).toNat = 0 → q ≤ r))

theorem tag_kept {x y : BitVec 32} (h : (x - y).toNat < 2 ^ 31) : (decide (y ≠ x) && decide (laterTag y x = y)) = false := by
  by_cases heq : y = x
  · simp [heq]
  · have hlate : ¬ (y - x).toNat < 2 ^ 31 := by
      intro hlt
      exact heq (by bv_omega)
    rw [laterTag, if_neg hlate, decide_eq_false (show ¬ x = y from fun h => heq h.symm), Bool.and_false]

theorem tag_taken {x y : BitVec 32} (h : (x - y).toNat < 2 ^ 31) (hne : (x - y).toNat ≠ 0) :
    (decide (x ≠ y) && decide (laterTag x y = x)) = true := by
  have heq : x ≠ y := by
    rintro rfl
    simp at hne
  rw [laterTag, if_pos h, decide_eq_true heq, decide_eq_true rfl]
  rfl

theorem chooseNext_keeps {r : Nat} (h : Before b p q r) : chooseNext b p (some q) r = some q := by
  obtain ⟨hprio, htag⟩ := h
  simp only [chooseNext, if_neg (Nat.not_lt.mpr hprio)]
  split
  · rfl
  · rename_i hle
    obtain ⟨hnear, -⟩ := htag (Nat.le_antisymm hprio (Nat.not_lt.mp hle))
    rw [tag_kept hnear]
    rfl

theorem chooseNext_takes {a : Option Nat} (h : ∀ c, a = some c → c < q ∧ Before b p q c) : chooseNext b p a q = some q := by
  cases a with
  | none => rfl
  | some c =>
    obtain ⟨hlt, hprio, htag⟩ := h c rfl
    unfold chooseNext
    by_cases hless : b.prioOf p c < b.prioOf p q
    · exact if_pos hless
    · have heq := Nat.le_antisymm hprio (Nat.not_lt.mp hless)
      obtain ⟨hnear, hnum⟩ := htag heq
      have hapart : ((b.egQueue p c).tag - (b.egQueue p q).tag).toNat ≠ 0 := fun h0 => absurd (hnum h0) (Nat.not_le.mpr hlt)
      refine (if_neg hless).trans ((if_neg (by omega)).trans (if_pos (tag_taken hnear hapart)))

/-- What has been picked is one of the queues that were looked at. -/
theorem fold_chooseNext_mem {l : List Nat} {a : Option Nat} {c : Nat} (h : l.foldl (chooseNext b p) a = some c) : a = some c ∨ c ∈ l := by
  induction l generalizing a with
  | nil => exact .inl h
  | cons x l ih =>
    rcases ih h with hx | hmem
    · have hstep : chooseNext b p a x = some x ∨ chooseNext b p a x = a := by
        cases a with
        | none => exact .inl rfl
        | some y =>
          simp only [chooseNext]
          repeat' split
          · exact .inl rfl
          · exact .inr rfl
          · exact .inl rfl
          · exact .inr rfl
      rcases hstep with hs | hs
      · exact .inr (by rw [hs] at hx; simp [Option.some.inj hx])
      · exact .inl (hs ▸ hx)
    · exact .inr (List.mem_cons_of_mem _ hmem)

theorem fold_chooseNext_keeps {l : List Nat} (h : ∀ r ∈ l, Before b p q r) : l.foldl (chooseNext b p) (some q) = some q := by
  induction l with
  | nil => rfl
  | cons x l ih =>
    rw [List.foldl_cons, chooseNext_keeps (h x List.mem_cons_self)]
    exact ih fun r hr => h r (List.mem_cons_of_mem _ hr)

theorem pick_best (hq : q < 64) (hcan : b.canSend p q half = true) (hbest : ∀ r, r < 64 → b.canSend p r half = true → Before b p q r) :
    b.pick p half = some q := by
  obtain ⟨front, back, hl⟩ :=
    List.append_of_mem (List.mem_filter (p := fun q => b.canSend p q half).mpr ⟨List.mem_range.mpr hq, hcan⟩)
  have hsorted : ((List.range 64).filter fun q => b.canSend p q half).Pairwise (· < ·) := List.pairwise_lt_range.filter _
  have hall : ∀ r ∈ front ++ q :: back, Before b p q r := by
    intro r hr
    rw [← hl, List.mem_filter, List.mem_range] at hr
    exact hbest r hr.1 hr.2
  rw [hl] at hsorted
  have hfront : ∀ c ∈ front, c < q := fun c hc => (List.pairwise_append.mp hsorted).2.2 c hc q List.mem_cons_self
  rw [pick_eq_fold, hl, List.foldl_append, List.foldl_cons]
  rw [chooseNext_takes fun c hc => ?_]
  · exact fold_chooseNext_keeps fun r hr => hall r (List.mem_append_right _ (List.mem_cons_of_mem _ hr))
  · rcases fold_chooseNext_mem hc with hnone | hmem
    · exact absurd hnone (by simp)
    · exact ⟨hfront c hmem, hall c (List.mem_append_left _ hmem)⟩

theorem pick_none (h : ∀ q, q < 64 → b.canSend p q half = false) : b.pick p half = none := by
  have hnil : (List.range 64).filter (fun q => b.canSend p q half) = [] :=
    List.filter_eq_nil_iff.mpr fun q hq => by simp [h q (List.mem_range.mp hq)]
  rw [pick_eq_fold, hnil]
  rfl

/-! ### The scheduler, underrun and pause -/

theorem egressSchedule_rests (h : ((b.port p).state ≠ .up ∧ (b.port p).state ≠ .draining) ∨ (b.port p).ctrl.mode = 0 ∨
      ((b.port p).eg.txOf half).isSome = true ∨ (half = true ∧ (b.port p).ctrl.mode ≠ 2) ∨ (∀ q, q < 64 → b.canSend p q half = false)) :
    b.egressSchedule p half = b := by
  rw [Blk.egressSchedule]
  refine ite_eq_left_iff.mpr fun htest => ?_
  have hidle : ∀ q, q < 64 → b.canSend p q half = false := by
    simp only [Bool.or_eq_true, Bool.not_eq_true', Bool.or_eq_false_iff, decide_eq_false_iff_not, decide_eq_true_eq, Bool.and_eq_true,
      not_or, or_assoc] at htest
    obtain ⟨hstate, hmode, hbusy, hhalf⟩ := htest
    rcases h with h | h | h | h | h
    · exact absurd h hstate
    · exact absurd h hmode
    · exact absurd h hbusy
    · exact absurd h hhalf
    · exact h
  rw [pick_none hidle]

theorem egressSchedule_starts (hstate : (b.port p).state = .up ∨ (b.port p).state = .draining) (hmode : (b.port p).ctrl.mode ≠ 0)
    (hfree : (b.port p).eg.txOf half = none) (hhalf : half = true → (b.port p).ctrl.mode = 2) (hpick : b.pick p half = some q) :
    b.egressSchedule p half = b.txStart p q half := by
  have hserves : (!(decide ((b.port p).state = .up) || decide ((b.port p).state = .draining))) = false := by
    rcases hstate with h | h <;> simp [h]
  have hwhich : (half && decide ((b.port p).ctrl.mode ≠ 2)) = false := by
    cases half
    · rfl
    · simp [hhalf rfl]
  simp only [Blk.egressSchedule, hserves, decide_eq_false hmode, hfree, Option.isSome_none, hwhich, Bool.or_self, Bool.false_eq_true, if_false,
    hpick]

theorem abortTx_idle (h : (b.port p).eg.txOf half = none) : b.abortTx p half = b := by simp only [Blk.abortTx, h]

theorem abortTx_ends {d : EgDfp} {n : Nat} (h : (b.port p).eg.txOf half = some (d, n)) : b.abortTx p half =
    (((b.modEg p fun e => e.setTx half none).emit p d true).portDrop p 0x5B d.plot).pause := by simp only [Blk.abortTx, h]

theorem pfcReceive_holds {k : Nat} {on : Bool} (h : k = 4 ∨ k = 5 ∨ k = 6) : b.pfcReceive p k on = b.modPort p fun x =>
    { x with pools := { x.pools with pfcRx :=
      if on then x.pools.pfcRx ||| BitVec.ofNat 8 (2 ^ k) else x.pools.pfcRx &&& ~~~BitVec.ofNat 8 (2 ^ k) } } :=
  if_pos (by simpa [or_assoc] using h)

theorem pfcReceive_other {k : Nat} {on : Bool} (h4 : k ≠ 4) (h5 : k ≠ 5) (h6 : k ≠ 6) : b.pfcReceive p k on = b :=
  if_neg (by simp [h4, h5, h6])

end

/-- Settles O29; the pick is a fold over the queues, of which `pick_best` says what it finds. -/
theorem egressCommands : Obligations.EgressCommands := by
  unfold Obligations.EgressCommands
  intro s p half
  refine ⟨fun hr => ?_, fun hr => ⟨fun hrest => ?_, fun q hstate hmode hfree hhalf hq hcan hbest => ?_⟩,
    fun hr => ⟨fun hidle => ?_, fun d n htx => ?_⟩, fun k on hr => ⟨fun hk => ?_, fun h4 h5 h6 => ?_⟩⟩
  · show execEgressEnqueue p s = _
    exact mesh_becomes hr rfl
  · show execEgressSchedule p half s = _
    exact mesh_becomes hr (egressSchedule_rests hrest)
  · show execEgressSchedule p half s = _
    exact mesh_becomes hr (egressSchedule_starts hstate hmode hfree hhalf (pick_best hq hcan hbest))
  · show execTxUnderrun p half s = _
    exact mesh_becomes hr (abortTx_idle hidle)
  · show execTxUnderrun p half s = _
    exact mesh_becomes hr (abortTx_ends htx)
  · show execPfcReceive p k on s = _
    exact mesh_becomes hr (pfcReceive_holds hk)
  · show execPfcReceive p k on s = _
    exact mesh_becomes hr (pfcReceive_other h4 h5 h6)

/-! ### Checks of a received frame -/

theorem need_pass {c : Bool} (r : Nat) (h : c = true) : need c r = .ok () := by rw [need, if_pos h]

theorem need_fail {c : Bool} (r : Nat) (h : c = false) : need c r = .error r := by rw [need, if_neg (by simp [h])]

theorem pass_bind {α β : Type} (a : α) (f : α → Checked β) : (Except.ok a >>= f : Checked β) = f a := rfl

theorem fail_bind {α β : Type} (r : Nat) (f : α → Checked β) : (Except.error r >>= f : Checked β) = .error r := rfl

section
variable {b : Blk} {p : Nat} {frame xs : Bytes} {good half : Bool}

/-- The header that a frame's DFP begins with. -/
def headOf (xs : Bytes) : BitVec 256 := BitVec.ofNat 256 (ofBytes (xs.take 32))

theorem checkFrame_corrupt (h : good = false ∨ (b.port p).decap frame = .bad) : b.checkFrame p frame good = .error 0x51 := by
  have htest : (good && decide ((b.port p).decap frame ≠ .bad)) = false := by rcases h with h | h <;> simp [h]
  simp only [Blk.checkFrame]
  rw [need_fail 0x51 htest, fail_bind]

section
variable (hgood : good = true)
include hgood

theorem checkFrame_foreign (h : (b.port p).decap frame = .foreign) : b.checkFrame p frame good = .error 0x50 := by
  simp only [Blk.checkFrame, h]
  rw [need_pass 0x51 (by simp [hgood]), pass_bind, fail_bind]

section
variable (hd : (b.port p).decap frame = .dfp xs)
include hd

theorem checkFrame_port_down (h : (b.port p).state ≠ .up) : b.checkFrame p frame good = .error 0x52 := by
  simp only [Blk.checkFrame, hd]
  rw [need_pass 0x51 (by simp [hgood]), pass_bind, pass_bind, need_fail 0x52 (decide_eq_false h), fail_bind]

section
variable (hup : (b.port p).state = .up)
include hup

theorem checkFrame_size (h : xs.length < 32 ∨ xs.length ≠ 48 + fBytes (headOf xs)) : b.checkFrame p frame good = .error 0x01 := by
  have htest : (decide (32 ≤ xs.length) && decide (xs.length = 48 + fBytes (headOf xs))) = false := by
    rcases h with h | h
    · rw [decide_eq_false (Nat.not_le.mpr h), Bool.false_and]
    · rw [decide_eq_false h, Bool.and_false]
  unfold headOf at htest
  simp only [Blk.checkFrame, hd]
  rw [need_pass 0x51 (by simp [hgood]), pass_bind, pass_bind, need_pass 0x52 (decide_eq_true hup), pass_bind, need_fail 0x01 htest, fail_bind]

section
variable (hlen : 32 ≤ xs.length) (hsize : xs.length = 48 + fBytes (headOf xs))
include hlen hsize

theorem checkFrame_head (h : fVer (headOf xs) ≠ 1 ∨ fHchkOk (headOf xs) = false) : b.checkFrame p frame good = .error 0x02 := by
  have hfit : (decide (32 ≤ xs.length) && decide (xs.length = 48 + fBytes (headOf xs))) = true := by
    rw [decide_eq_true hlen, decide_eq_true hsize]
    rfl
  have htest : (decide (fVer (headOf xs) = 1) && fHchkOk (headOf xs)) = false := by
    rcases h with h | h
    · rw [decide_eq_false h, Bool.false_and]
    · rw [h, Bool.and_false]
  unfold headOf at hfit htest
  simp only [Blk.checkFrame, hd]
  rw [need_pass 0x51 (by simp [hgood]), pass_bind, pass_bind, need_pass 0x52 (decide_eq_true hup), pass_bind, need_pass 0x01 hfit, pass_bind,
    need_fail 0x02 htest, fail_bind]

theorem checkFrame_type (hver : fVer (headOf xs) = 1) (hchk : fHchkOk (headOf xs) = true)
    (h : 6 ≤ fType (headOf xs) ∨ fColor (headOf xs) = 3) : b.checkFrame p frame good = .error 0x03 := by
  have hfit : (decide (32 ≤ xs.length) && decide (xs.length = 48 + fBytes (headOf xs))) = true := by
    rw [decide_eq_true hlen, decide_eq_true hsize]
    rfl
  have hhead : (decide (fVer (headOf xs) = 1) && fHchkOk (headOf xs)) = true := by
    rw [decide_eq_true hver, hchk]
    rfl
  have htest : (decide (fType (headOf xs) < 6) && decide (fColor (headOf xs) ≠ 3)) = false := by
    rcases h with h | h
    · rw [decide_eq_false (Nat.not_lt.mpr h), Bool.false_and]
    · rw [decide_eq_false (not_not_intro h), Bool.and_false]
  unfold headOf at hfit hhead htest
  simp only [Blk.checkFrame, hd]
  rw [need_pass 0x51 (by simp [hgood]), pass_bind, pass_bind, need_pass 0x52 (decide_eq_true hup), pass_bind, need_pass 0x01 hfit, pass_bind,
    need_pass 0x02 hhead, pass_bind, need_fail 0x03 htest, fail_bind]

end
end
end
end

/-! ### The way of a received frame -/

/-- A frame that an output in service receives is counted. -/
def counted (b : Blk) (p : Nat) (frame : Bytes) : Blk :=
  (b.count (b.member.portTile p) evRxFrames).countN (b.member.portTile p) evRxBytes (frame.length / 64)

/-- A marker that passes the checks of its port is traced (R382). -/
def marked (b : Blk) (x : Port) (tp : Nat) (h : BitVec 256) (data : Bytes) : Blk :=
  if fType h = 4 && (x.ctrl.pass || (b.checkAddr (b.plotOfKey h) h).isOk) then
    b.traceMark tp 2 (ofBytes (data.take 4) + 2 ^ 32 * fSrc h) else b

theorem traceOne_member {b : Blk} {t : Nat} {r : BitVec 128} : (b.traceOne t r).member = b.member := by
  unfold Blk.traceOne
  split <;> rfl

theorem trace_member {b : Blk} {t kind data : Nat} : (b.trace t kind data).member = b.member := by
  unfold Blk.trace
  rw [traceOne_member]
  split
  · exact traceOne_member
  · rfl

theorem marked_member {x : Port} {tp : Nat} {h : BitVec 256} {data : Bytes} : (marked b x tp h data).member = b.member := by
  unfold marked Blk.traceMark
  split
  · split
    · exact trace_member
    · rfl
  · rfl

theorem dfpIngress_off (h : (b.port p).ctrl.mode = 0 ∨ (half = true ∧ (b.port p).ctrl.mode ≠ 2)) : b.dfpIngress p half frame good = b :=
  if_pos (by simpa using h)

section
variable (hmode : (b.port p).ctrl.mode ≠ 0) (hhalf : half = true → (b.port p).ctrl.mode = 2)
include hmode hhalf

theorem offTest_on : (decide ((b.port p).ctrl.mode = 0) || (half && decide ((b.port p).ctrl.mode ≠ 2))) = false := by
  have hwhich : (half && decide ((b.port p).ctrl.mode ≠ 2)) = false := by
    cases half
    · rfl
    · simp [hhalf rfl]
  rw [decide_eq_false hmode, hwhich]
  rfl

theorem dfpIngress_early {r : Nat} (h : (counted b p frame).checkFrame p frame good = .error r) (h4 : r ≠ 0x04) (h60 : r ≠ 0x60)
    (h61 : r ≠ 0x61) (h5 : r ≠ 0x05) (h6 : r ≠ 0x06) : b.dfpIngress p half frame good = (counted b p frame).portDrop p r 0 := by
  unfold counted at h ⊢
  simp only [Blk.dfpIngress, offTest_on hmode hhalf, Bool.false_eq_true, if_false, h, decide_eq_false h4, decide_eq_false h60,
    decide_eq_false h61, decide_eq_false h5, decide_eq_false h6, Bool.or_self]

/-- From the sieve on, a drop is counted for the plot of its key. -/
theorem dfpIngress_keyed {r : Nat} (hd : (b.port p).decap frame = .dfp xs)
    (h : (counted b p frame).checkFrame p frame good = .error r) (hr : r = 0x04 ∨ r = 0x60 ∨ r = 0x61 ∨ r = 0x05 ∨ r = 0x06) :
    b.dfpIngress p half frame good = (counted b p frame).portDrop p r
      ((((counted b p frame).sieveOf (ofBytes ((xs.drop 2).take 2))).map svPlot).getD 0) := by
  have htest : (decide (r = 0x04) || decide (r = 0x60) || decide (r = 0x61) || decide (r = 0x05) || decide (r = 0x06)) = true := by
    simpa [or_assoc] using hr
  unfold counted at h ⊢
  simp only [Blk.dfpIngress, offTest_on hmode hhalf, Bool.false_eq_true, if_false, h, htest, if_true, hd]

theorem dfpIngress_routes {h : BitVec 256} {data : Bytes} (hok : (counted b p frame).checkFrame p frame good = .ok (h, data)) :
    b.dfpIngress p half frame good = (marked (counted b p frame) (b.port p) (b.member.portTile p) h data).route p
      ((counted b p frame).plotOfKey h) h data := by
  unfold counted at hok
  simp only [Blk.dfpIngress, offTest_on hmode hhalf, Bool.false_eq_true, if_false, hok]
  rfl

end
end

section
variable {b b1 : Blk} {p plot q queue : Nat} {h h' : BitVec 256} {data : Bytes} {op : Bool}

theorem localTest_here (hl : fDst h' = b.self ∨ (b.lookup plot (fDst h')).map lkKind = some 3) :
    (decide (fDst h' = b.self) || decide (((b.lookup plot (fDst h')).map lkKind).getD 0 = 3)) = true := by
  rcases hl with h | h <;> simp [h]

theorem route_passes (hp : (b.port p).ctrl.pass = true) : b.route p plot h data = b.passDfp p plot h data := if_pos hp

section
variable (hp : (b.port p).ctrl.pass = false)
include hp

theorem route_refused {r : Nat} (ha : b.checkAddr plot h = .error r) : b.route p plot h data = b.portDrop p r plot := by
  simp only [Blk.route, hp, Bool.false_eq_true, if_false, ha]

variable (ha : b.checkAddr plot h = .ok h')
include ha

section
variable (hl : fDst h' = b.self ∨ (b.lookup plot (fDst h')).map lkKind = some 3)
include hl

theorem route_consumes {color : Nat} (hm : b.meterDfp p plot h' = (b1, .ok color)) :
    b.route p plot h data = b1.consume p plot h' data := by
  simp only [Blk.route, hp, Bool.false_eq_true, if_false, ha, localTest_here hl, if_true, hm]

theorem route_here_metered {r : Nat} (hm : b.meterDfp p plot h' = (b1, .error r)) : b.route p plot h data = b1.portDrop p r plot := by
  simp only [Blk.route, hp, Bool.false_eq_true, if_false, ha, localTest_here hl, if_true, hm]

end

section
variable {e : BitVec 64} (hself : fDst h' ≠ b.self) (he : b.lookup plot (fDst h') = some e) (hkind : lkKind e ≠ 3)
include hself he hkind

theorem route_transits : b.route p plot h data = b.transit p plot h' data := by
  have hlocal : (decide (fDst h' = b.self) || decide (((b.lookup plot (fDst h')).map lkKind).getD 0 = 3)) = false := by
    rw [decide_eq_false hself, he, Option.map_some, Option.getD_some, decide_eq_false hkind]
    rfl
  simp only [Blk.route, hp, Bool.false_eq_true, if_false, ha, hlocal]

theorem route_no_way {r : Nat} (hw : b.wayOut p plot h' e = .error r) : b.route p plot h data = b.portDrop p r plot := by
  rw [route_transits hp ha hself he hkind]
  simp only [Blk.transit, he, hw]

variable (hw : b.wayOut p plot h' e = .ok (q, queue, op, b1))
include hw

theorem route_metered {b2 : Blk} {r : Nat} (hm : b1.meterDfp p plot h' = (b2, .error r)) :
    b.route p plot h data = b2.portDrop p r plot := by
  rw [route_transits hp ha hself he hkind]
  simp only [Blk.transit, he, hw, hm]

variable {b2 : Blk} {color : Nat} (hm : b1.meterDfp p plot h' = (b2, .ok color))
include hm

theorem route_unmapped {r : Nat} (hmap : b2.mapDfp p plot h' data = .error r) : b.route p plot h data = b2.portDrop p r plot := by
  rw [route_transits hp ha hself he hkind]
  simp only [Blk.transit, he, hw, hm, hmap]

theorem route_forwards {h2 : BitVec 256} {data2 : Bytes} {b3 : Blk} (hmap : b2.mapDfp p plot h' data = .ok (h2, data2, b3)) :
    b.route p plot h data = (b3.forward (b.member.portTile p) plot p (hopHdr h2) color data2 q queue op).getD (b3.portDrop p 0x54 plot) := by
  rw [route_transits hp ha hself he hkind]
  simp only [Blk.transit, he, hw, hm, hmap]

end
end
end

/-! ### Open-path DFPs at their egress port -/

section
variable {b : Blk} {t : Nat}

/-- An arriving packet is of an assembly of the same source and MSG_ID. -/
def sameAsm (q : Packet × Nat) (a : DfpAsm) : Bool := decide (a.src = pSrc q.1.hdr) && decide (a.msgId = mId q.1.body)

/-- The port notes when its last packet came. -/
def cellNoted (b : Blk) (n : Nat) : Blk := b.modPort n fun x => { x with cage := { x.cage with lastCell := b.clk.frame } }

/-- What an open-path packet carries of its DFP. -/
def partOf (q : Packet × Nat) : Bytes := (q.1.body.drop 16).take (min 128 (mBytes q.1.body - mOffset q.1.body))

/-- The assembly that the first packet of a DFP opens. -/
def firstAsm (q : Packet × Nat) : DfpAsm :=
  { src := pSrc q.1.hdr, msgId := mId q.1.body, plot := pPlot q.1.hdr, queue := pArg q.1.hdr % 64, due := mBytes q.1.body, got := partOf q }

/-- An assembly goes on: whole, it leaves the table and its DFP may be sent. -/
def asmJoined (b : Blk) (t n : Nat) (q : Packet × Nat) (asm : List DfpAsm) (a : DfpAsm) : Blk :=
  if a.due ≤ a.got.length then
    ((b.answerReq t q 0 []).modEg n fun e => { e with asm := asm.filter fun x => !sameAsm q x }).asmWhole n a
  else (b.answerReq t q 0 []).modEg n fun e => { e with asm := (asm.filter fun x => !sameAsm q x) ++ [a] }

/-- What is decided on an open-path packet at a port. -/
def asmDecided (b : Blk) (t n : Nat) (q : Packet × Nat) : Blk :=
  let asm := (b.port n).eg.asm
  if mOffset q.1.body = 0 then
    if (16 ≤ asm.length && !asm.any (sameAsm q)) || !b.roomFor n (firstAsm q).dfp then b.errReq t q erBusy
    else asmJoined (b.enqueue n (firstAsm q).dfp) t n q asm (firstAsm q)
  else match asm.find? (sameAsm q) with
    | none => b.errReq t q erBusy
    | some a => asmJoined b t n q asm { a with got := a.got ++ partOf q }

theorem msgDfp_elsewhere (h : b.member.isPortTile t = false) : b.msgDfp t = b := if_pos (by simp [h])

theorem msgDfp_decides {q : Packet × Nat} {c : Blk} (hport : b.member.isPortTile t = true) (hq : b.takeInbox t (· = rqDfp) = some (q, c)) :
    b.msgDfp t = asmDecided (cellNoted c (c.member.portOf t)) t (c.member.portOf t) q := by
  simp only [Blk.msgDfp, hport, Bool.not_true, Bool.false_eq_true, if_false, hq]
  rfl

section
variable {n : Nat} {q : Packet × Nat}

section
variable (h0 : mOffset q.1.body = 0)
include h0

theorem asmDecided_first (hfree : (b.port n).eg.asm.length < 16 ∨ (b.port n).eg.asm.any (sameAsm q) = true)
    (hroom : b.roomFor n (firstAsm q).dfp = true) :
    asmDecided b t n q = asmJoined (b.enqueue n (firstAsm q).dfp) t n q (b.port n).eg.asm (firstAsm q) := by
  have htest : ((decide (16 ≤ (b.port n).eg.asm.length) && !(b.port n).eg.asm.any (sameAsm q)) || !b.roomFor n (firstAsm q).dfp) = false := by
    rw [hroom]
    rcases hfree with h | h
    · rw [decide_eq_false (Nat.not_le.mpr h), Bool.false_and]
      rfl
    · rw [h, Bool.not_true, Bool.and_false]
      rfl
  simp only [asmDecided, if_pos h0, htest, Bool.false_eq_true, if_false]

theorem asmDecided_full (h : (16 ≤ (b.port n).eg.asm.length ∧ (b.port n).eg.asm.any (sameAsm q) = false) ∨
      b.roomFor n (firstAsm q).dfp = false) : asmDecided b t n q = b.errReq t q erBusy := by
  have htest : ((decide (16 ≤ (b.port n).eg.asm.length) && !(b.port n).eg.asm.any (sameAsm q)) || !b.roomFor n (firstAsm q).dfp) = true := by
    rcases h with ⟨h16, hany⟩ | h
    · rw [decide_eq_true h16, hany]
      rfl
    · rw [h, Bool.not_false, Bool.or_true]
  simp only [asmDecided, if_pos h0, htest, if_true]

end

section
variable (h0 : mOffset q.1.body ≠ 0)
include h0

theorem asmDecided_stray (h : (b.port n).eg.asm.find? (sameAsm q) = none) : asmDecided b t n q = b.errReq t q erBusy := by
  simp only [asmDecided, if_neg h0, h]

theorem asmDecided_later {a : DfpAsm} (h : (b.port n).eg.asm.find? (sameAsm q) = some a) :
    asmDecided b t n q = asmJoined b t n q (b.port n).eg.asm { a with got := a.got ++ partOf q } := by
  simp only [asmDecided, if_neg h0, h]

end
end
end

/-- Settles O30. -/
theorem ingressCommands : Obligations.IngressCommands := by
  unfold Obligations.IngressCommands
  intro s p t half good frame x tp b
  have hstep : ∀ {c : Blk}, Ready s (.dfpIngress p half frame good) → s.blk.dfpIngress p half frame good = c →
      exec (.dfpIngress p half frame good) s = become s c := by
    intro c hr hc
    show execDfpIngress p half frame good s = _
    exact mesh_becomes hr hc
  refine ⟨fun hr hoff => hstep hr (dfpIngress_off hoff), fun hr hmode hhalf => ⟨fun hbad => ?_, fun hgood hf => ?_, fun xs hgood hd => ?_,
    fun h data hok => ?_⟩, fun hr hport => ?_, fun q c hr hport hq => ?_⟩
  · exact hstep hr (dfpIngress_early hmode hhalf (checkFrame_corrupt hbad) (by decide) (by decide) (by decide) (by decide) (by decide))
  · exact hstep hr (dfpIngress_early hmode hhalf (checkFrame_foreign hgood hf) (by decide) (by decide) (by decide) (by decide) (by decide))
  · intro h
    refine ⟨fun hdown => ?_, fun hup hsize => ?_, fun hup hlen hsize hhead => ?_, fun hup hlen hsize hver hchk htype => ?_,
      fun r hc hkey => hstep hr (dfpIngress_keyed hmode hhalf hd hc hkey)⟩
    · exact hstep hr (dfpIngress_early hmode hhalf (checkFrame_port_down hgood hd hdown) (by decide) (by decide) (by decide) (by decide)
        (by decide))
    · exact hstep hr (dfpIngress_early hmode hhalf (checkFrame_size hgood hd hup hsize) (by decide) (by decide) (by decide) (by decide)
        (by decide))
    · exact hstep hr (dfpIngress_early hmode hhalf (checkFrame_head hgood hd hup hlen hsize hhead) (by decide) (by decide) (by decide)
        (by decide) (by decide))
    · exact hstep hr (dfpIngress_early hmode hhalf (checkFrame_type hgood hd hup hlen hsize hver hchk htype) (by decide) (by decide)
        (by decide) (by decide) (by decide))
  · intro plot b0
    have hroute : ∀ {c : Blk}, b0.route p plot h data = c → exec (.dfpIngress p half frame good) s = become s c :=
      fun hc => hstep hr ((dfpIngress_routes hmode hhalf hok).trans hc)
    refine ⟨fun hp => hroute (route_passes hp), fun hp => ⟨fun r ha => hroute (route_refused hp ha), fun h' ha =>
      ⟨fun hl => ⟨fun b' color hm => hroute (route_consumes hp ha hl hm), fun b' r hm => hroute (route_here_metered hp ha hl hm)⟩,
        fun e hself he hkind => ⟨fun r hw => hroute (route_no_way hp ha hself he hkind hw), fun q queue op b1 hw =>
          ⟨fun b2 r hm => hroute (route_metered hp ha hself he hkind hw hm), fun b2 color hm =>
            ⟨fun r hmap => hroute (route_unmapped hp ha hself he hkind hw hm hmap), fun h2 data2 b3 hmap => ?_⟩⟩⟩⟩⟩⟩
    have hmember : b0.member = s.blk.member := marked_member
    exact hroute ((route_forwards hp ha hself he hkind hw hm hmap).trans (by rw [hmember]))
  · show execMsgDfpReceive t s = _
    exact mesh_becomes hr (msgDfp_elsewhere hport)
  · have hstep : ∀ {d : Blk}, asmDecided (cellNoted c (c.member.portOf t)) t (c.member.portOf t) q = d →
        exec (.msgDfpReceive t) s = become s d := by
      intro d hd
      show execMsgDfpReceive t s = _
      exact mesh_becomes hr ((msgDfp_decides hport hq).trans hd)
    exact ⟨fun h0 hfree hroom => hstep (asmDecided_first h0 hfree hroom), fun h0 hfull => hstep (asmDecided_full h0 hfull),
      fun h0 => ⟨fun hnone => hstep (asmDecided_stray h0 hnone), fun a ha => hstep (asmDecided_later h0 ha)⟩⟩

end Sys2Proof.PortTraffic
end


section
/-! Optics (R247–R258) and the power commands with their paced stages (R306–R313). -/
namespace Sys2Proof.Plant
open Sys2Proof Sys2Proof.Machine Sys2Proof.Safety Sys2Proof.Laws Sys2Proof.Acts

section
variable {b : Blk} {p : Nat}

@[simp] theorem optPort_modOptPort (f : OptPort → OptPort) : (b.modOptPort p f).optPort p = f (b.optPort p) := by
  simp only [Blk.optPort, Blk.modOptPort, getD_put_same]

/-! ### Combs, loops and calibrations -/

theorem combLost_locked {c : Nat} (h : b.optics.combs.getD c true = true) : b.combLost c =
    (Blk.raiseS { b with optics := { b.optics with combs := b.optics.combs.put c false } } 0x53 0 none c).each
      ((List.range 4).map (4 * c + ·)) fun b p => (b.unlockLoops (loopsOfPort p)).relock p := by
  simp only [Blk.combLost, h, Bool.not_true, Bool.false_eq_true, if_false]

theorem combLost_lost {c : Nat} (h : b.optics.combs.getD c true = false) : b.combLost c = b := if_pos (by simp [h])

section
variable {l : Nat} {v : BitVec 128}

theorem writeLoop_calibrating (hr : (b.optPort (l / 10)).calRuns = true) (hc : (b.optPort (l / 10)).calCh = l % 10 / 2) :
    b.writeLoop l v = (b, abState) := if_pos (by simp [hr, hc])

section
variable (hfree : (b.optPort (l / 10)).calRuns = true → (b.optPort (l / 10)).calCh ≠ l % 10 / 2)
include hfree

theorem writeLoop_range (h : lpMax v < lpMin v) : b.writeLoop l v = (b, abRange) :=
  (if_neg (by simpa using hfree)).trans (if_pos h)

theorem writeLoop_writes (h : lpMin v ≤ lpMax v) : b.writeLoop l v =
    (b.modLoop l fun x => { x with cfg := setFld v 1 4 (min 9 (lpInteg v)) &&& loopMask }, 0) :=
  (if_neg (by simpa using hfree)).trans (if_neg (Nat.not_lt.mpr h))

end
end

section
variable {v : BitVec 64} {expert : Bool}

theorem writeOptPort_level (h : flag v 19 = true ∨ fld v 16 3 ≠ 0) (he : expert = false) : b.writeOptPort expert p v = (b, abLevel) :=
  if_pos (by simpa [he] using h)

section
variable (hl : flag v 19 = true ∨ fld v 16 3 ≠ 0 → expert = true)
include hl

theorem levelTest_allowed : ((flag v 19 || decide (fld v 16 3 ≠ 0)) && !expert) = false := by
  cases expert
  · have hno := not_or.mp fun h => absurd (hl h) (by decide)
    simpa using hno
  · simp

theorem writeOptPort_range (h : 4 < fld v 16 3) : b.writeOptPort expert p v = (b, abRange) := by
  simp only [Blk.writeOptPort, levelTest_allowed hl, Bool.false_eq_true, if_false, if_pos h]
  rfl

variable (hch : fld v 16 3 ≤ 4)
include hch

theorem writeOptPort_busy (hgo : flag v 19 = true) (hs : (b.optPort p).stage ≠ .idle) : b.writeOptPort expert p v = (b, abState) := by
  simp only [Blk.writeOptPort, levelTest_allowed hl, Bool.false_eq_true, if_false, if_neg (Nat.not_lt.mpr hch)]
  simp only [hgo, decide_eq_true hs, Bool.and_self, if_true]
  rfl

theorem writeOptPort_goes (hgo : flag v 19 = true) (hs : (b.optPort p).stage = .idle) : b.writeOptPort expert p v =
    (b.modOptPort p fun o => { o with calAuto := flag v 15, asked := true, calCh := fld v 16 3 }, 0) := by
  simp only [Blk.writeOptPort, levelTest_allowed hl, Bool.false_eq_true, if_false, if_neg (Nat.not_lt.mpr hch)]
  simp only [hgo, decide_eq_false (not_not_intro hs), Bool.and_false, Bool.or_true, Bool.false_eq_true, if_false, if_true]
  rfl

theorem writeOptPort_sets (hgo : flag v 19 = false) : b.writeOptPort expert p v =
    (b.modOptPort p fun o => { o with calAuto := flag v 15 }, 0) := by
  simp only [Blk.writeOptPort, levelTest_allowed hl, Bool.false_eq_true, if_false, if_neg (Nat.not_lt.mpr hch)]
  simp only [hgo, Bool.false_and, Bool.or_false, Bool.false_eq_true, if_false]
  rfl

end
end

theorem calDue_asks (h : (b.optPort p).calAuto = true ∧ (b.optPort p).stage = .idle ∧ (b.optPort p).asked = false ∧
      (b.port p).cage.present = true) : b.calDue p = b.modOptPort p fun o => { o with
        asked := true
        calCh := if (o.lastCh + 1) % 5 = o.spare then ((o.lastCh + 1) % 5 + 1) % 5 else (o.lastCh + 1) % 5 } :=
  if_pos (by simpa [and_assoc] using h)

theorem calDue_waits (h : ¬ ((b.optPort p).calAuto = true ∧ (b.optPort p).stage = .idle ∧ (b.optPort p).asked = false ∧
      (b.port p).cage.present = true)) : b.calDue p = b := if_neg (by simpa [and_assoc] using h)

/-! ### The stages of a calibration or an acquisition -/

theorem calStageEnd_none (h : (b.optPort p).stage = .idle ∨ (b.optPort p).stage = .deferred ∨
      ((b.optPort p).stage = .move ∧ (b.optPort p).frames = 0)) : b.calStageEnd p = b := by
  rcases h with h | h | ⟨h, h0⟩
  · simp only [Blk.calStageEnd, h]
  · simp only [Blk.calStageEnd, h]
  · simp only [Blk.calStageEnd, h, h0, if_true]

theorem calStageEnd_move (h : (b.optPort p).stage = .move) (hf : 0 < (b.optPort p).frames) : b.calStageEnd p = b.sweepBegin p := by
  simp only [Blk.calStageEnd, h, if_neg (Nat.pos_iff_ne_zero.mp hf)]

theorem calStageEnd_fine (h : (b.optPort p).stage = .fine) : b.calStageEnd p = b.fineEnd p := by simp only [Blk.calStageEnd, h]

/-- The best codes of a sweep go to the converters. -/
def swept (b : Blk) (p : Nat) : Blk :=
  b.each ((b.optPort p).calLoops p) fun c l =>
    let code := (((b.optPort p).best.get? (l % 10)).map (·.1)).getD (c.loop l).dac
    (c.dacPut l code).modLoop l fun x => { x with past := [], now := [] }

theorem swept_optics : { swept b p with optics := b.optics } = b :=
  Idle.each_induction (P := fun c => { c with optics := b.optics } = b) _ _ rfl fun _ _ h => h

theorem calStageEnd_sweep (h : (b.optPort p).stage = .sweep) :
    b.calStageEnd p = (swept b p).modOptPort p fun o => { o with stage := .fine, frames := 0 } := by
  simp only [Blk.calStageEnd, h]
  rfl

theorem calStageEnd_verify (h : (b.optPort p).stage = .verify) (ha : (b.optPort p).acquiring = false) :
    b.calStageEnd p = b.verifyEnd p := by simp only [Blk.calStageEnd, h, ha, Bool.false_eq_true, if_false]

theorem calStageEnd_acquire (h : (b.optPort p).stage = .verify) (ha : (b.optPort p).acquiring = true) :
    b.calStageEnd p = b.acquireEnd p := by simp only [Blk.calStageEnd, h, ha, if_true]

theorem verifyEnd_locked (h : flag (b.optPort p).lockedCh (b.optPort p).calCh = true) : b.verifyEnd p =
    (b.modOptPort p fun x => { x with spare := x.calCh, lastCh := x.calCh, lastEnd := b.clk.frame, stage := .idle, frames := 0, saved := [],
                                      best := [], since := x.since.put x.calCh 16 }).raiseS 0x56 0 (some (b.member.portTile p)) p
      (b.optPort p).calCh := if_pos h

theorem verifyEnd_unlocked (h : flag (b.optPort p).lockedCh (b.optPort p).calCh = false) : b.verifyEnd p =
    (b.calAbort p).modOptPort p fun x => { x with spare := x.calCh, lastCh := x.calCh, lastEnd := b.clk.frame } := if_neg (by simp [h])

theorem acquireEnd_locked (h : 4 ≤ (b.optPort p).lockedCount) : b.acquireEnd p =
    b.modOptPort p fun x => { x with stage := .idle, acquiring := false, resume := false, acqFails := 0, frames := 0 } := if_pos h

section
variable (h : (b.optPort p).lockedCount < 4)
include h

theorem acquireEnd_resumes (hr : (b.optPort p).resume = true) : b.acquireEnd p = b.acquire p :=
  (if_neg (Nat.not_le.mpr h)).trans (if_pos hr)

theorem acquireEnd_again (hr : (b.optPort p).resume = false) (hf : (b.optPort p).acqFails = 0) :
    b.acquireEnd p = (b.modOptPort p fun x => { x with acqFails := 1 }).acquire p :=
  (if_neg (Nat.not_le.mpr h)).trans ((if_neg (by simp [hr])).trans (if_pos hf))

theorem acquireEnd_fails (hr : (b.optPort p).resume = false) (hf : (b.optPort p).acqFails ≠ 0) : b.acquireEnd p =
    (b.modOptPort p fun x => { x with stage := .idle, acquiring := false, acqFails := 0, frames := 0 }).raiseS 0x59 0
      (some (b.member.portTile p)) p :=
  (if_neg (Nat.not_le.mpr h)).trans ((if_neg (by simp [hr])).trans (if_neg hf))

end
end

/-- Settles O34. -/
theorem opticsCommands : Obligations.OpticsCommands := by
  unfold Obligations.OpticsCommands
  intro s p o due
  refine ⟨fun c hr => ⟨fun h => ?_, fun h => ?_⟩, fun c hr => ?_, fun l code hr => ?_, ?_, ?_, fun hr => ⟨fun h => ?_, fun h => ?_⟩,
    fun hr => ?_⟩
  · show execCombLost c s = _
    exact mesh_becomes hr (combLost_locked h)
  · show execCombLost c s = _
    exact mesh_becomes hr (combLost_lost h)
  · show execCombLocked c s = _
    exact mesh_becomes hr rfl
  · show execAdcReading l code s = _
    exact mesh_becomes hr rfl
  · intro ch v l ha
    refine ⟨fun hruns hch => ?_, fun hfree => ⟨fun h => ?_, fun h => ?_⟩⟩
    · show execLoopConfigWrite ch v s = _
      exact od_answers ha (writeLoop_calibrating hruns hch)
    · show execLoopConfigWrite ch v s = _
      exact od_answers ha (writeLoop_range hfree h)
    · show execLoopConfigWrite ch v s = _
      exact od_answers ha (writeLoop_writes hfree h)
  · intro ch v q ha
    have hgo : ∀ {b : Blk} {a : Nat}, s.blk.writeOptPort (s.blk.expert ch) q v = (b, a) →
        exec (.calGo ch v) s = become s (b.answer a) := by
      intro b a h
      show execCalGo ch v s = _
      exact od_answers ha h
    exact ⟨fun h he => hgo (writeOptPort_level h he), fun hl => ⟨fun h => hgo (writeOptPort_range hl h), fun hch =>
      ⟨fun h hs => hgo (writeOptPort_busy hl hch h hs), fun h hs => hgo (writeOptPort_goes hl hch h hs),
        fun h => hgo (writeOptPort_sets hl hch h)⟩⟩⟩
  · show execCalDue p s = _
    exact mesh_becomes hr (calDue_asks h)
  · show execCalDue p s = _
    exact mesh_becomes hr (calDue_waits h)
  · have hend : ∀ {b : Blk}, s.blk.calStageEnd p = b → exec (.calStageEnd p) s = become s (b.autoUp p) := by
      intro b h
      show execCalStageEnd p s = _
      exact mesh_becomes (f := fun b => (b.calStageEnd p).autoUp p) hr (congrArg (·.autoUp p) h)
    refine ⟨fun h => hend (calStageEnd_none h), fun h hf => hend (calStageEnd_move h hf), fun h => hend (calStageEnd_fine h),
      fun h => ⟨_, hend (calStageEnd_sweep h), ?_, ?_, swept_optics⟩, fun h ha => ⟨fun hl => ?_, fun hl => ?_⟩,
      fun h ha => ⟨fun hl => ?_, fun hl => ⟨fun hres => ?_, fun hres hf => ?_, fun hres hf => ?_⟩⟩⟩
    · rw [optPort_modOptPort]
    · rw [optPort_modOptPort]
    · exact hend ((calStageEnd_verify h ha).trans (verifyEnd_locked hl))
    · exact hend ((calStageEnd_verify h ha).trans (verifyEnd_unlocked hl))
    · exact hend ((calStageEnd_acquire h ha).trans (acquireEnd_locked hl))
    · exact hend ((calStageEnd_acquire h ha).trans (acquireEnd_resumes hl hres))
    · exact hend ((calStageEnd_acquire h ha).trans (acquireEnd_again hl hres hf))
    · exact hend ((calStageEnd_acquire h ha).trans (acquireEnd_fails hl hres hf))

section
variable {b : Blk} {c d i p : Nat}

/-! ### Power commands -/

theorem clusterCmd_accepts {dest : ClusterState} (h : b.clusterRefused c dest = false) :
    b.clusterCmd c dest = (if dest = .fallow then b.fallowCluster c else b.queueCluster c dest, 0) := if_neg (by simp [h])

theorem clusterCmd_refused {dest : ClusterState} (h : b.clusterRefused c dest = true) :
    b.clusterCmd c dest = (b.countSys evPwrRefused, abState) := if_pos h

theorem fallowCluster_quiet (h : ∀ p t, McNote.launch p t ∈ b.mcLog → clusterOf t ≠ c) :
    b.fallowCluster c = b.queueCluster c .fallow := by
  have hnone : b.unlaunch c = b := by
    unfold Blk.unlaunch
    dsimp only
    rw [List.filterMap_eq_nil_iff.mpr]
    · rfl
    · intro n hn
      cases n with
      | launch p t => exact if_neg (h p t hn)
      | _ => rfl
  rw [Blk.fallowCluster, hnone]

section
variable {fallow : Bool}

theorem writePortPwr_refused (h : (fallow = true ∧ (b.port p).idle = false) ∨ b.portMoving p = true) :
    b.writePortPwr p fallow = (b.countSys evPwrRefused, abState) := if_pos (by simpa using h)

theorem writePortPwr_fallow_already (hm : b.portMoving p = false) (hi : (b.port p).idle = true) (hp : (b.port p).pwr = .fallow) :
    b.writePortPwr p true = (b, 0) := (if_neg (by simp [hm, hi])).trans (if_pos (by simp [hp]))

theorem writePortPwr_fallow (hm : b.portMoving p = false) (hi : (b.port p).idle = true) (hp : (b.port p).pwr = .on) :
    b.writePortPwr p true = ((b.queuePort p .fallow).note (.portFallow p), 0) :=
  (if_neg (by simp [hm, hi])).trans ((if_neg (by simp [hp])).trans (if_pos rfl))

theorem writePortPwr_on_already (hm : b.portMoving p = false) (hp : (b.port p).pwr = .on) : b.writePortPwr p false = (b, 0) :=
  (if_neg (by simp [hm])).trans (if_pos (by simp [hp]))

theorem writePortPwr_on (hm : b.portMoving p = false) (hp : (b.port p).pwr = .fallow) :
    b.writePortPwr p false = (b.queuePort p .on, 0) :=
  (if_neg (by simp [hm])).trans ((if_neg (by simp [hp])).trans (if_neg (by decide)))

end

/-- The clusters that FALLOW_ALL takes. -/
def restless (b : Blk) : List Nat := b.member.clusters.filter fun c => b.cluster c = .active && !b.clusterMoving c

theorem anyStays : ((b.member.clusters.filter fun c => b.cluster c = .active && !b.clusterMoving c).any fun c => !b.mayFallow c) =
    !(restless b).all fun c => b.mayFallow c := List.not_all_eq_any_not.symm

theorem fallowAll_takes (h : (restless b).all (fun c => b.mayFallow c) = true) : b.writeBlockCmd 1 =
    ((b.each (restless b) fun b c => b.fallowCluster c).each
      ((List.range (b.each (restless b) fun b c => b.fallowCluster c).member.ports).filter
        (b.each (restless b) fun b c => b.fallowCluster c).portMayFallow) fun b p => (b.queuePort p .fallow).note (.portFallow p), 0) := by
  show b.fallowAll = _
  exact if_neg (by rw [anyStays, h]; decide)

theorem fallowAll_refused (h : (restless b).all (fun c => b.mayFallow c) = false) :
    b.writeBlockCmd 1 = (b.countSys evPwrRefused, abState) := by
  show b.fallowAll = _
  exact if_pos (by rw [anyStays, h]; rfl)

/-! ### Stages of a transition -/

section
variable {t : Transition}

theorem stageStart_none (h : (b.power.queues.getD d [])[i]? = none) : b.stageStart d i = b := by simp only [Blk.stageStart, h]

section
variable (h : (b.power.queues.getD d [])[i]? = some t)
include h

theorem stageStart_starts (hready : readyAtIndex (b.power.queues.getD d []) i = true)
    (hfit : ((b.recent d).map (·.2)).sum + t.step ≤ b.slew d) : b.stageStart d i = { b with power := { b.power with
      queues := b.power.queues.put d ((b.power.queues.getD d []).set i
        { t with running := true, waited := t.waited + (b.clk.mc - t.readyAt) }),
      starts := b.power.starts.put d (b.recent d ++ [(b.clk.mc, t.step)]) } } := by
  simp only [Blk.stageStart, h, hready, Bool.not_true, decide_eq_false (Nat.not_lt.mpr hfit), Bool.or_self, Bool.false_eq_true, if_false]

theorem stageStart_waits (hno : readyAtIndex (b.power.queues.getD d []) i = false ∨
      b.slew d < ((b.recent d).map (·.2)).sum + t.step) : b.stageStart d i = b := by
  simp only [Blk.stageStart, h]
  exact if_pos (by simpa using hno)

end

theorem stageEnd_none (h : (b.power.queues.getD d [])[i]? = none) : b.stageEnd d i = b := by simp only [Blk.stageEnd, h]

section
variable (h : (b.power.queues.getD d [])[i]? = some t)
include h

theorem stageEnd_not_running (hr : t.running = false) : b.stageEnd d i = b := by
  simp only [Blk.stageEnd, h, hr, Bool.not_false, if_true]

variable (hr : t.running = true)
include hr

theorem stageEnd_next (hmore : t.ended + 1 < t.stages) : b.stageEnd d i = { b with power := { b.power with
    queues := b.power.queues.put d ((b.power.queues.getD d []).set i
      { t with running := false, ended := t.ended + 1, readyAt := b.clk.mc }) } } := by
  simp only [Blk.stageEnd, h, hr, Bool.not_true, Bool.false_eq_true, if_false, if_pos hmore]

theorem stageEnd_last (hlast : t.stages ≤ t.ended + 1) : b.stageEnd d i = Blk.unitDone { b with power := { b.power with
    queues := b.power.queues.put d (((b.power.queues.getD d []).eraseIdx i).map fun u =>
      if u.unit.id = t.unit.id then { u with readyAt := b.clk.mc } else u) } } t := by
  simp only [Blk.stageEnd, h, hr, Bool.not_true, Bool.false_eq_true, if_false, if_neg (Nat.not_lt.mpr hlast)]
  rfl

end
end

theorem writePwrCtrl_stores {v : BitVec 64} {c : Blk} (h : b.store psPwr (toBytes 8 (b.power.ofCtrl v.toNat).ctrl) = some c) :
    b.writePwrCtrl v = ({ (c.note (.slews c.power.slews)) with power := b.power.ofCtrl v.toNat }, 0) := by
  simp only [Blk.writePwrCtrl, Blk.storeThen, h]
  rfl

theorem writePwrCtrl_refused {v : BitVec 64} (h : b.store psPwr (toBytes 8 (b.power.ofCtrl v.toNat).ctrl) = none) :
    b.writePwrCtrl v = (b, abState) := by
  simp only [Blk.writePwrCtrl, Blk.storeThen, h]
  rfl

end

/-- Settles O35. -/
theorem powerTransitions : Obligations.PowerTransitions := by
  unfold Obligations.PowerTransitions
  intro s ch d i c refused l
  refine ⟨fun ha => ⟨fun h => ?_, fun h => ?_⟩, fun ha => ⟨fun h => ?_, fun h => ?_⟩, fun ha => ⟨fun h => ?_, fun h => ?_⟩, fun h => ?_,
    fun p f ha => ?_, ?_, ?_, fun hr => ?_, fun hr => ?_, ?_⟩
  · show execClusterActive ch s = _
    exact od_answers ha (clusterCmd_accepts h)
  · show execClusterActive ch s = _
    exact od_answers ha (clusterCmd_refused h)
  · show execClusterFallow ch s = _
    exact od_answers ha (clusterCmd_accepts h)
  · show execClusterFallow ch s = _
    exact od_answers ha (clusterCmd_refused h)
  · show execClusterDeep ch s = _
    exact od_answers ha (clusterCmd_accepts h)
  · show execClusterDeep ch s = _
    exact od_answers ha (clusterCmd_refused h)
  · exact fallowCluster_quiet fun p t hmem => of_decide_eq_true (List.all_eq_true.mp h _ hmem)
  · refine ⟨fun hp => ?_, fun hp => ?_⟩
    · show execPortPwrWrite ch p f s = _
      exact odPort_lacks ha hp
    · have hport : ∀ {b : Blk} {a : Nat}, s.blk.writePortPwr p f = (b, a) → exec (.portPwrWrite ch p f) s = become s (b.answer a) := by
        intro b a h
        show execPortPwrWrite ch p f s = _
        exact odPort_answers ha hp h
      refine ⟨fun h => hport (writePortPwr_refused h), fun hm => ⟨?_, ?_⟩⟩
      · rintro rfl hi
        exact ⟨fun h => hport (writePortPwr_fallow_already hm hi h), fun h => hport (writePortPwr_fallow hm hi h)⟩
      · rintro rfl
        exact ⟨fun h => hport (writePortPwr_on_already hm h), fun h => hport (writePortPwr_on hm h)⟩
  · intro ha cs
    refine ⟨fun h => ?_, fun h => ?_⟩
    · intro b
      show execFallowAll ch s = _
      exact od_answers ha (fallowAll_takes h)
    · show execFallowAll ch s = _
      exact od_answers ha (fallowAll_refused h)
  · intro ha b
    show execWakeAll ch s = _
    exact od_answers ha rfl
  · refine ⟨fun h => ?_, fun t h => ⟨fun hready hfit => ?_, fun hno => ?_⟩⟩
    · show execPowerStageStart d i s = _
      exact mesh_becomes hr (stageStart_none h)
    · show execPowerStageStart d i s = _
      exact mesh_becomes hr (stageStart_starts h hready hfit)
    · show execPowerStageStart d i s = _
      exact mesh_becomes hr (stageStart_waits h hno)
  · refine ⟨fun h => ?_, fun t h => ⟨fun hrun => ?_, fun hrun => ⟨fun hmore => ?_, fun hlast => ?_⟩⟩⟩
    · show execPowerStageEnd d i s = _
      exact mesh_becomes hr (stageEnd_none h)
    · show execPowerStageEnd d i s = _
      exact mesh_becomes hr (stageEnd_not_running h hrun)
    · show execPowerStageEnd d i s = _
      exact mesh_becomes hr (stageEnd_next h hrun hmore)
    · show execPowerStageEnd d i s = _
      exact mesh_becomes hr (stageEnd_last h hrun hlast)
  · intro v ha w
    refine ⟨fun b h => ?_, fun h => ?_⟩
    · show execPwrCtrlWrite ch v s = _
      exact od_answers ha (writePwrCtrl_stores h)
    · show execPwrCtrlWrite ch v s = _
      exact od_answers ha (writePwrCtrl_refused h)

end Sys2Proof.Plant
end


section
/-! Plots (R263–R272): bind, rebind, teardown, and the writes of a configuration. -/
namespace Sys2Proof.Plots
open Sys2Proof Sys2Proof.Machine Sys2Proof.Safety Sys2Proof.Laws Sys2Proof.Acts

/-! ### What ending a plot's work leaves of the plots -/

/-- A plot's state, tiles and grafts stand, and none of its collectives is new. -/
structure PlotStands (x0 x : Plot) : Prop where
  state : x.state = x0.state
  result : x.result = x0.result
  owned : x.owned = x0.owned
  graft : x.graft = x0.graft
  colls : ∀ c ∈ x.colls, c ∈ x0.colls

/-- The plots stand but for collectives that end; so does the sieve. -/
structure Stand (b0 b : Blk) : Prop where
  plots : ∀ q, PlotStands (b0.plot q) (b.plot q)
  sieve : b.traf.sieve = b0.traf.sieve
  serial : b.bindCount = b0.bindCount

theorem PlotStands.refl (x : Plot) : PlotStands x x := ⟨rfl, rfl, rfl, rfl, fun _ h => h⟩

theorem PlotStands.trans {x y z : Plot} (h : PlotStands x y) (k : PlotStands y z) : PlotStands x z :=
  ⟨k.state.trans h.state, k.result.trans h.result, k.owned.trans h.owned, k.graft.trans h.graft, fun c hc => h.colls c (k.colls c hc)⟩

/-- The packets that tell the other members of a collective that it ends. -/
def collNotices (b : Blk) (plot : Nat) (k : Coll) (status : Nat) : Blk :=
  if status = 0 then b
  else b.each k.parts fun b p =>
    if p.dst ≠ srcPort then b
    else match b.collEmit plot k p.tile p.coord.toNat (collCell k.step 0 0 0 flAbort k.finFmt 0 0 0#32) with
      | .ok b => b
      | .error _ => b

theorem collEnd_eq {b : Blk} {plot status cause : Nat} {k : Coll} : b.collEnd plot k status cause =
    ((collNotices b plot k status).collRelease plot k).collRecord plot k status cause k.chunks := rfl

section
variable {b0 b c : Blk}

theorem Stand.refl (b : Blk) : Stand b b := ⟨fun _ => .refl _, rfl, rfl⟩

theorem Stand.trans (h : Stand b0 b) (k : Stand b c) : Stand b0 c :=
  ⟨fun q => (h.plots q).trans (k.plots q), k.sieve.trans h.sieve, k.serial.trans h.serial⟩

/-- What does not write the plots, the sieve or the serial leaves them. -/
theorem Stand.of_eq (h : Stand b0 b) (hp : c.plots = b.plots) (hs : c.traf.sieve = b.traf.sieve) (hn : c.bindCount = b.bindCount) :
    Stand b0 c := by
  refine h.trans ⟨fun q => ?_, hs, hn⟩
  rw [show c.plot q = b.plot q from congrArg (fun l => Tbl.getD l q Plot.fresh) hp]
  exact .refl _

theorem Stand.each {α : Type} {l : List α} {f : Blk → α → Blk} (h : Stand b0 b) (hf : ∀ b x, Stand b0 b → Stand b0 (f b x)) :
    Stand b0 (b.each l f) := Idle.each_induction (P := Stand b0) l f h hf

theorem Stand.ite {p : Prop} [Decidable p] (h : Stand b0 b) (k : Stand b0 c) : Stand b0 (if p then b else c) := by
  split
  · exact h
  · exact k

variable (h : Stand b0 b)
include h

theorem Stand.sown (x : Sown) : Stand b0 { b with sown := x } := h.of_eq rfl rfl rfl

theorem Stand.opn (x : Opn) : Stand b0 { b with opn := x } := h.of_eq rfl rfl rfl

theorem Stand.writeHost (a : Nat) (xs : Bytes) : Stand b0 (b.writeHost a xs) := h.of_eq rfl rfl rfl

theorem Stand.vault (x : Vault) : Stand b0 { b with vault := x } := h.of_eq rfl rfl rfl

theorem Stand.modTile (t : Nat) (f : Tile → Tile) : Stand b0 (b.modTile t f) := h.of_eq rfl rfl rfl

theorem Stand.modPort (p : Nat) (f : Port → Port) : Stand b0 (b.modPort p f) := h.of_eq rfl rfl rfl

theorem Stand.countN (t e n : Nat) (plot : Option Nat) : Stand b0 (b.countN t e n plot) := h.modTile _ _

theorem Stand.hangEvent (e : Event) : Stand b0 (b.hangEvent e) := by
  unfold Blk.hangEvent
  split
  · exact h.modTile _ _
  · exact h

theorem Stand.raiseP (type plot : Nat) (tile : Option Nat) (d0 d1 d2 d3 : Nat) : Stand b0 (b.raiseP type plot tile d0 d1 d2 d3) :=
  (h.hangEvent _).of_eq rfl rfl rfl

theorem Stand.raiseS (type plot : Nat) (tile : Option Nat) (d0 d1 d2 d3 : Nat) : Stand b0 (b.raiseS type plot tile d0 d1 d2 d3) :=
  (h.hangEvent _).of_eq rfl rfl rfl

theorem Stand.traceOne (t : Nat) (r : BitVec 128) : Stand b0 (b.traceOne t r) :=
  .ite ((h.modTile _ _).countN _ _ _ _) ((h.modTile _ _).countN _ _ _ _)

theorem Stand.trace (t kind data : Nat) : Stand b0 (b.trace t kind data) := by
  unfold Blk.trace
  exact Stand.traceOne (.ite ((h.modTile _ _).traceOne _ _) h) _ _

theorem Stand.traceCmd (t kind data : Nat) : Stand b0 (b.traceCmd t kind data) := .ite (h.trace _ _ _) h

theorem Stand.signal (t plot k n : Nat) : Stand b0 (b.signal t plot k n) :=
  .ite (h.modTile _ _) (((h.modTile _ _).countN _ _ _ _).raiseP _ _ _ _ _ _ _)

theorem Stand.completeCmd (t plot ctx index status detail : Nat) (cmd : BitVec 256) :
    Stand b0 (b.completeCmd t plot ctx index status detail cmd) := by
  unfold Blk.completeCmd
  have hsig : Stand b0 (if kSigEn cmd && !failing status && decide (opFunction (kOp cmd) ≠ fnWait) &&
      decide (opFunction (kOp cmd) ≠ fnSignal) then b.signal t plot (kSigSem cmd) 1 else b) := .ite (h.signal _ _ _ _) h
  exact Stand.modTile (.ite (hsig.raiseP _ _ _ _ _ _ _) hsig) _ _

theorem Stand.completeSheaf (t e : Nat) (s : Sheaf) : Stand b0 (b.completeSheaf t e s) :=
  Stand.completeCmd (((h.modTile _ _).countN _ _ _ _).traceCmd _ _ _) _ _ _ _ _ _ _

theorem Stand.abortCtx (t k : Nat) : Stand b0 (b.abortCtx t k) :=
  .ite h (Stand.modTile (Stand.each (h.modTile _ _) fun _ _ hb => Stand.each hb fun _ _ hc => hc.completeSheaf _ _ _) _ _)

theorem Stand.complete (t e : Nat) (s : Sheaf) : Stand b0 (b.complete t e s) := by
  unfold Blk.complete
  exact Stand.modTile (.ite ((h.completeSheaf _ _ _).abortCtx _ _) (h.completeSheaf _ _ _)) _ _

theorem Stand.stopTile (p t : Nat) : Stand b0 (b.stopTile p t) := by
  unfold Blk.stopTile
  refine Stand.modTile (Stand.each (Stand.each h fun _ _ hb => .ite (hb.abortCtx _ _) hb) fun _ _ hb => Stand.each hb fun _ _ hc => ?_) _ _
  exact .ite (hc.complete _ _ _) hc

theorem Stand.drop (t reason : Nat) (port plot : Option Nat) : Stand b0 (b.drop t reason port plot) :=
  (h.countN _ _ _ _).raiseS _ _ _ _ _ _ _

theorem Stand.pause : Stand b0 b.pause := h.of_eq rfl rfl rfl

theorem Stand.enqueue (p : Nat) (d : EgDfp) : Stand b0 (b.enqueue p d) :=
  .ite (h.drop _ _ _ _) (.ite (h.drop _ _ _ _) (.ite (h.drop _ _ _ _) (.ite (h.drop _ _ _ _) (h.modPort _ _).pause)))

theorem Stand.discard (p reason : Nat) (test : Nat → EgDfp → Bool) : Stand b0 (b.discard p reason test) := by
  unfold Blk.discard
  exact Stand.pause (Stand.each h fun _ _ hb => Stand.each (hb.modPort _ _) fun _ _ hc => hc.drop _ _ _ _)

theorem Stand.dropQueued (p : Nat) : Stand b0 (b.dropQueued p) := Stand.each h fun _ _ hb => hb.discard _ _ _

theorem Stand.flushEgress (p : Nat) : Stand b0 (b.flushEgress p) := Stand.each h fun _ _ hb => (hb.discard _ _ _).modPort _ _

theorem Stand.collEmit {plot : Nat} {k : Coll} {t dst : Nat} {xs : Bytes} (hok : b.collEmit plot k t dst xs = .ok c) : Stand b0 c := by
  unfold Blk.collEmit at hok
  cases hport : b.emitPort t plot k.pkey.toNat false with
  | error e =>
    rw [hport] at hok
    cases hok
  | ok p =>
    rw [hport] at hok
    cases hok
    exact h.enqueue _ _

theorem Stand.collRelease (plot : Nat) (k : Coll) : Stand b0 (b.collRelease plot k) := by
  have hparts : Stand b0 (b.each k.parts fun b p => b.modTile p.tile fun x =>
      { (x.modCtx p.ctx fun _ => Ctx.fresh) with oases := x.oases.del p.oasis }) := Stand.each h fun _ _ hb => hb.modTile _ _
  refine hparts.trans ⟨fun q => ?_, rfl, rfl⟩
  by_cases hq : q = plot
  · subst hq
    unfold Blk.collRelease
    rw [plot_modPlot_same]
    exact ⟨rfl, rfl, rfl, rfl, fun _ hc => (List.mem_filter.mp hc).1⟩
  · unfold Blk.collRelease
    rw [plot_modPlot_other _ _ _ _ hq]
    exact .refl _

theorem Stand.collRecord (plot : Nat) (k : Coll) (status cause chunks : Nat) : Stand b0 (b.collRecord plot k status cause chunks) := by
  unfold Blk.collRecord
  refine Stand.raiseP ?_ _ _ _ _ _ _ _
  split
  · exact h.writeHost _ _
  · exact h

theorem Stand.collNotices (plot : Nat) (k : Coll) (status : Nat) : Stand b0 (collNotices b plot k status) := by
  unfold Plots.collNotices
  refine .ite h (Stand.each h fun d p hd => ?_)
  split
  · exact hd
  · split
    · exact hd.collEmit (by assumption)
    · exact hd

theorem Stand.collEnd (plot : Nat) (k : Coll) (status cause : Nat) : Stand b0 (b.collEnd plot k status cause) :=
  collEnd_eq ▸ Stand.collRecord (Stand.collRelease (h.collNotices _ _ _) _ _) _ _ _ _ _

theorem Stand.endColls (p status cause : Nat) : Stand b0 (b.endColls p status cause) :=
  Stand.each (h.dropQueued _) fun _ _ hb => hb.collEnd _ _ _ _

theorem Stand.unstage (p : Nat) : Stand b0 (b.unstage p) := by
  unfold Blk.unstage
  refine Stand.each h fun d x hd => ?_
  dsimp only
  split
  · exact hd
  · exact (hd.countN _ _ _ _).sown _

theorem Stand.streamStop (t i : Nat) : Stand b0 (b.streamStop t i) := by
  unfold Blk.streamStop
  split
  · exact h
  · rename_i s _
    have hdel : Stand b0 (b.modHbm t fun x => { x with streams := x.streams.del i }) := h.of_eq rfl rfl rfl
    exact Stand.raiseP (.ite hdel (hdel.countN _ _ _ _)) _ _ _ _ _ _ _

theorem Stand.streamStopIf (p : Nat → HbmStream → Bool) : Stand b0 (b.streamStopIf p) :=
  Stand.each h fun _ _ hb => Stand.each hb fun _ _ hc => .ite (hc.streamStop _ _) hc

theorem Stand.capBegin : Stand b0 b.capBegin := by
  unfold Blk.capBegin
  split
  · exact h
  · exact .ite (Stand.of_eq (h.of_eq rfl rfl rfl) rfl rfl rfl) (h.of_eq rfl rfl rfl)

theorem Stand.unbindKernels (p : Nat) : Stand b0 (b.unbindKernels p) := by
  unfold Blk.unbindKernels
  refine Stand.each h fun d x hd => Stand.each hd fun d k hd => Stand.raiseP ?_ _ _ _ _ _ _ _
  exact .ite (Stand.modTile (hd.modTile _ _) _ _) (hd.modTile _ _)

theorem Stand.zeroSram (t a n : Nat) : Stand b0 (b.zeroSram t a n) := h.of_eq rfl rfl rfl

theorem Stand.zeroTile (t : Nat) : Stand b0 (b.zeroTile t) := by
  unfold Blk.zeroTile
  have hz := (h.modTile t Tile.zeroed).zeroSram t 0 sramBytes
  exact hz.opn _

theorem Stand.unsealTile (t : Nat) : Stand b0 (b.unsealTile t) := by
  unfold Blk.unsealTile
  exact Stand.modTile (Stand.each h fun _ _ hb => hb.zeroSram _ _ _) _ _

theorem Stand.zeroStart (ts : List Nat) : Stand b0 (b.zeroStart ts) := Stand.each h fun _ _ hb => hb.modTile _ _

end

section
variable {b0 b : Blk} {p status cause : Nat}

/-- A plot's work stops once its collectives have ended. -/
theorem Stand.stopWork (hend : Stand b0 (b.endColls p status cause)) : Stand b0 (b.stopWork p status cause) := by
  have htiles := Stand.each hend (l := tilesOf ((b.endColls p status cause).plot p).owned) fun b t hb => hb.stopTile p t
  have hstop := (htiles.unstage p).streamStopIf fun _ s => s.plot = p
  unfold Blk.stopWork
  refine .ite ?_ ?_
  · exact (hstop.vault _).capBegin
  · exact hstop.vault _

end

/-! ### Small steps of a plot's life -/

section
variable {b : Blk} {p q : Nat}

theorem plotTo_plot (st : PlotState) : (b.plotTo p st).plot p = { b.plot p with state := st } :=
  plot_modPlot_same b p fun x => { x with state := st }

theorem plotTo_other (st : PlotState) (h : q ≠ p) : (b.plotTo p st).plot q = b.plot q :=
  plot_modPlot_other b p q (fun x => { x with state := st }) h

theorem plotResult_plot (r : Nat) : (b.plotResult p r).plot p = { b.plot p with result := BitVec.ofNat 8 r } := plot_modPlot_same ..

theorem plotResult_other (r : Nat) (h : q ≠ p) : (b.plotResult p r).plot q = b.plot q := plot_modPlot_other _ _ _ _ h

theorem takeSerial_plot : (b.takeSerial p).plot p = { b.plot p with bindSerial := b.bindCount + 1 } :=
  plot_modPlot_same b p fun x => { x with bindSerial := b.bindCount + 1 }

theorem takeSerial_other (h : q ≠ p) : (b.takeSerial p).plot q = b.plot q :=
  plot_modPlot_other b p q (fun x => { x with bindSerial := b.bindCount + 1 }) h

/-- Marking tiles for zeroing touches the tiles alone. -/
theorem zeroStart_kept (ts : List Nat) : (b.zeroStart ts).plots = b.plots ∧ (b.zeroStart ts).bindCount = b.bindCount ∧
    (b.zeroStart ts).sram = b.sram ∧ (b.zeroStart ts).hbm = b.hbm :=
  Idle.each_induction (P := fun c => c.plots = b.plots ∧ c.bindCount = b.bindCount ∧ c.sram = b.sram ∧ c.hbm = b.hbm) _ _
    ⟨rfl, rfl, rfl, rfl⟩ fun _ _ h => h

theorem zeroStart_plot (ts : List Nat) : (b.zeroStart ts).plot q = b.plot q := by
  rw [Blk.plot, (zeroStart_kept ts).1]
  rfl

theorem zeroStart_keeps {t : Nat} (ts : List Nat) (h : (b.tile t).zeroing = true) : ((b.zeroStart ts).tile t).zeroing = true := by
  refine Idle.each_induction (P := fun c => (c.tile t).zeroing = true) _ _ h fun c u hc => ?_
  by_cases htu : t = u
  · subst htu
    rw [tile_modTile_same]
  · rw [tile_modTile_other _ _ _ _ htu]
    exact hc

theorem zeroStart_zeroing {t : Nat} {ts : List Nat} (h : t ∈ ts) : ((b.zeroStart ts).tile t).zeroing = true := by
  induction ts generalizing b with
  | nil => cases h
  | cons u ts ih =>
    rcases List.mem_cons.mp h with rfl | hmem
    · exact zeroStart_keeps ts (by rw [tile_modTile_same])
    · exact ih hmem

/-! ### Bind -/

theorem plotCommand_zero (v : Nat) : b.plotCommand 0 v = (b.plotResult 0 1, abState) := rfl

section
variable (hp : p ≠ 0)
include hp

theorem plotCommand_bind : b.plotCommand p 1 = (b.bind_ p, if ((b.bind_ p).plot p).result = 0#8 then abNone else abState) := if_neg hp

theorem plotCommand_rebind : b.plotCommand p 2 = (b.rebind p, if ((b.rebind p).plot p).result = 0#8 then abNone else abState) := if_neg hp

theorem plotCommand_teardown :
    b.plotCommand p 3 = (b.teardown p, if ((b.teardown p).plot p).result = 0#8 then abNone else abState) := if_neg hp

end

/-- A RESULT that is not 0 answers STATE. -/
theorem result_refused {r : Nat} (hpos : 0 < r) (hlt : r < 256) :
    (if ((b.plotResult p r).plot p).result = 0#8 then abNone else abState) = abState := by
  rw [plotResult_plot]
  refine if_neg fun h => ?_
  have hr := congrArg BitVec.toNat h
  simp only [BitVec.toNat_ofNat] at hr
  omega

theorem bind_refused {r : Nat} (hr : b.bindCheck p (b.plot p).cfg.tiles .free = r) (h : r ≠ 0) : b.bind_ p = b.plotResult p r := by
  simp only [Blk.bind_, hr, rsDone, if_pos h]

/-- The plot of a bind that has passed its checks (R266). -/
def bindMarked (b : Blk) (p : Nat) : Blk := ((b.plotResult p 0).plotTo p .binding).modPlot p fun x =>
  { x with owned := (b.plot p).cfg.tiles, keys := PlotKeys.fresh, graft := { x.graft with gen := 0#16, holding := false } }

/-- A bind that has passed its checks begins. -/
def bindBegun (b : Blk) (p : Nat) : Blk := ((bindMarked b p).zeroStart (tilesOf (b.plot p).cfg.tiles)).takeSerial p

theorem bind_begins (h : b.bindCheck p (b.plot p).cfg.tiles .free = 0) : b.bind_ p = bindBegun b p := by
  have hcfg : ((b.plotResult p 0).plot p).cfg = (b.plot p).cfg := by rw [plotResult_plot]
  simp only [Blk.bind_, h, rsDone, ne_eq, not_true_eq_false, if_false, hcfg]
  rfl

theorem bindMarked_plot : (bindMarked b p).plot p = { b.plot p with
    result := 0#8, state := .binding, owned := (b.plot p).cfg.tiles, keys := PlotKeys.fresh,
    graft := { (b.plot p).graft with gen := 0#16, holding := false } } := by
  rw [bindMarked, plot_modPlot_same, plotTo_plot, plotResult_plot]

theorem bindMarked_bindCount : (bindMarked b p).bindCount = b.bindCount := rfl

theorem bindBegun_plot : (bindBegun b p).plot p = { b.plot p with
    result := 0#8, state := .binding, owned := (b.plot p).cfg.tiles, keys := PlotKeys.fresh,
    graft := { (b.plot p).graft with gen := 0#16, holding := false }, bindSerial := b.bindCount + 1 } := by
  rw [bindBegun, takeSerial_plot, (zeroStart_kept _).2.1, zeroStart_plot, bindMarked_plot, bindMarked_bindCount]

theorem bindBegun_other (h : q ≠ p) : (bindBegun b p).plot q = b.plot q := by
  rw [bindBegun, takeSerial_other h, zeroStart_plot, bindMarked, plot_modPlot_other _ _ _ _ h, plotTo_other _ h, plotResult_other _ h]

theorem takeSerial_kept : (b.takeSerial p).bindCount = b.bindCount + 1 ∧ (b.takeSerial p).sram = b.sram ∧
    (b.takeSerial p).hbm = b.hbm ∧ ∀ t, (b.takeSerial p).tile t = b.tile t := ⟨rfl, rfl, rfl, fun _ => rfl⟩

theorem bindBegun_kept : (bindBegun b p).bindCount = b.bindCount + 1 ∧ (bindBegun b p).sram = b.sram ∧ (bindBegun b p).hbm = b.hbm := by
  obtain ⟨hcount, hsram, hhbm, -⟩ := takeSerial_kept (b := (bindMarked b p).zeroStart (tilesOf (b.plot p).cfg.tiles)) (p := p)
  obtain ⟨-, hcount', hsram', hhbm'⟩ := zeroStart_kept (b := bindMarked b p) (tilesOf (b.plot p).cfg.tiles)
  rw [bindBegun, hcount, hsram, hhbm, hcount', hsram', hhbm']
  exact ⟨rfl, rfl, rfl⟩

theorem bindBegun_zeroing {t : Nat} (h : t ∈ tilesOf (b.plot p).cfg.tiles) : ((bindBegun b p).tile t).zeroing = true := by
  obtain ⟨-, -, -, htile⟩ := takeSerial_kept (b := (bindMarked b p).zeroStart (tilesOf (b.plot p).cfg.tiles)) (p := p)
  rw [bindBegun, htile]
  exact zeroStart_zeroing h

/-! ### Rebind -/

theorem rebind_refused {r : Nat} (hr : b.bindCheck p (b.plot p).cfg.tilesNext .bound = r) (h : r ≠ 0) :
    b.rebind p = b.plotResult p r := by
  simp only [Blk.rebind, hr, rsDone, if_pos h]

/-- The work of a plot that a rebind stops. -/
def rebindStopped (b : Blk) (p : Nat) : Blk := (((b.plotResult p 0).plotTo p .rebinding).stopWork p 2 0x14).unbindKernels p

def rebindMoving (b : Blk) (p : Nat) : Blk := (rebindStopped b p).modPlot p fun x =>
  { x with graft := { x.graft with holding := false }, moving := (b.plot p).cfg.tilesNext }

theorem rebind_begins (h : b.bindCheck p (b.plot p).cfg.tilesNext .bound = 0) : b.rebind p =
    (rebindMoving b p).zeroStart ((tilesOf (b.plot p).cfg.tilesNext).filter fun t => !(rebindMoving b p).owns p t) := by
  simp only [Blk.rebind, h, rsDone, ne_eq, not_true_eq_false, if_false]
  rfl

/-- A collective that ends is gone from its plot. -/
theorem collEnd_gone {k c : Coll} {status cause : Nat} (hc : c ∈ ((b.collEnd p k status cause).plot p).colls) :
    c ∈ (b.plot p).colls ∧ c.step ≠ k.step := by
  rw [collEnd_eq] at hc
  have hrelease := ((Stand.refl _).collRecord p k status cause k.chunks).plots p |>.colls c hc
  have hparts := Stand.each ((Stand.refl b).collNotices p k status) (l := k.parts) (f := fun b x => b.modTile x.tile fun y =>
    { (y.modCtx x.ctx fun _ => Ctx.fresh) with oases := y.oases.del x.oasis }) fun _ _ hb => hb.modTile _ _
  unfold Blk.collRelease at hrelease
  rw [plot_modPlot_same] at hrelease
  obtain ⟨hmem, hstep⟩ := List.mem_filter.mp hrelease
  exact ⟨(hparts.plots p).colls c hmem, by simpa using hstep⟩

theorem collEnds_gone {l : List Coll} {status cause : Nat} {c : Coll}
    (hc : c ∈ ((b.each l fun b k => b.collEnd p k status cause).plot p).colls) :
    c ∈ (b.plot p).colls ∧ ∀ k ∈ l, c.step ≠ k.step := by
  induction l generalizing b with
  | nil => exact ⟨hc, fun _ h => by cases h⟩
  | cons k l ih =>
    obtain ⟨hmem, hrest⟩ := ih hc
    obtain ⟨hin, hk⟩ := collEnd_gone hmem
    exact ⟨hin, List.forall_mem_cons.mpr ⟨hk, hrest⟩⟩

theorem endColls_none {status cause : Nat} : ((b.endColls p status cause).plot p).colls = [] := by
  refine List.eq_nil_iff_forall_not_mem.mpr fun c hc => ?_
  obtain ⟨hmem, hgone⟩ := collEnds_gone hc
  exact hgone c (List.mem_filter.mpr ⟨hmem, rfl⟩) rfl

theorem PlotStands.ended {x0 x : Plot} (h : PlotStands x0 x) (h0 : x0.colls = []) : x.colls = [] :=
  List.eq_nil_iff_forall_not_mem.mpr fun c hc => by simpa [h0] using h.colls c hc

theorem stopWork_ended {status cause : Nat} : ((b.stopWork p status cause).plot p).colls = [] :=
  ((Stand.stopWork (Stand.refl (b.endColls p status cause))).plots p).ended endColls_none

theorem rebindStopped_stands :
    PlotStands { b.plot p with result := 0#8, state := .rebinding } ((rebindStopped b p).plot p) := by
  have h := ((Stand.stopWork ((Stand.refl ((b.plotResult p 0).plotTo p .rebinding)).endColls p 2 0x14)).unbindKernels p).plots p
  rw [plotTo_plot, plotResult_plot] at h
  exact h

theorem rebindStopped_state : ((rebindStopped b p).plot p).state = .rebinding := rebindStopped_stands.state

theorem rebindStopped_result : ((rebindStopped b p).plot p).result = 0#8 := rebindStopped_stands.result

theorem rebindStopped_owned : ((rebindStopped b p).plot p).owned = (b.plot p).owned := rebindStopped_stands.owned

theorem rebindStopped_ended : ((rebindStopped b p).plot p).colls = [] := by
  have h := ((Stand.refl (((b.plotResult p 0).plotTo p .rebinding).stopWork p 2 0x14)).unbindKernels p).plots p
  exact h.ended stopWork_ended

theorem rebindMoving_plot : (rebindMoving b p).plot p = { (rebindStopped b p).plot p with
    graft := { ((rebindStopped b p).plot p).graft with holding := false }, moving := (b.plot p).cfg.tilesNext } := by
  rw [rebindMoving, plot_modPlot_same]

theorem rebindMoving_owns {t : Nat} : (rebindMoving b p).owns p t = (decide (t < 1024) && flag (b.plot p).owned t) := by
  have howned : ((rebindMoving b p).plot p).owned = (b.plot p).owned := by rw [rebindMoving_plot, rebindStopped_owned]
  rw [Blk.owns, howned]

theorem rebind_plot (h : b.bindCheck p (b.plot p).cfg.tilesNext .bound = 0) : (b.rebind p).plot p = { (rebindStopped b p).plot p with
    graft := { ((rebindStopped b p).plot p).graft with holding := false }, moving := (b.plot p).cfg.tilesNext } := by
  rw [rebind_begins h, zeroStart_plot, rebindMoving_plot]

section
variable (h : b.bindCheck p (b.plot p).cfg.tilesNext .bound = 0)
include h

theorem rebind_state : ((b.rebind p).plot p).state = .rebinding := by
  rw [rebind_plot h]
  dsimp only
  exact rebindStopped_state

theorem rebind_result : ((b.rebind p).plot p).result = 0#8 := by
  rw [rebind_plot h]
  dsimp only
  exact rebindStopped_result

theorem rebind_owned : ((b.rebind p).plot p).owned = (b.plot p).owned := by
  rw [rebind_plot h]
  dsimp only
  exact rebindStopped_owned

theorem rebind_ended : ((b.rebind p).plot p).colls = [] := by
  rw [rebind_plot h]
  dsimp only
  exact rebindStopped_ended

theorem rebind_moving : ((b.rebind p).plot p).moving = (b.plot p).cfg.tilesNext ∧ ((b.rebind p).plot p).graft.holding = false := by
  rw [rebind_plot h]
  exact ⟨rfl, rfl⟩

end

theorem rebind_zeroing (h : b.bindCheck p (b.plot p).cfg.tilesNext .bound = 0) {t : Nat} (ht : t ∈ tilesOf (b.plot p).cfg.tilesNext)
    (hown : flag (b.plot p).owned t = false) : ((b.rebind p).tile t).zeroing = true := by
  rw [rebind_begins h]
  refine zeroStart_zeroing (List.mem_filter.mpr ⟨ht, ?_⟩)
  rw [rebindMoving_owns, hown, Bool.and_false]
  rfl

/-! ### Teardown -/

theorem teardown_refused (h : (b.plot p).state ≠ .bound) : b.teardown p = b.plotResult p 1 := if_pos (by simp [h])

/-- The plot's collectives have ended and it is in TEARDOWN (R266). -/
def tearing (b : Blk) (p : Nat) : Blk := ((b.plotResult p 0).endColls p 3 0x17).plotTo p .teardown

/-- The keys and the work of a plot in TEARDOWN are gone. -/
def tornDown (b : Blk) (p : Nat) : Blk := (((tearing b p).dropKeys p).unbindKernels p).stopWork p 3 0x17

theorem teardown_tears (hp : p ≠ 0) (h : (b.plot p).state = .bound) : b.teardown p = (tornDown b p).modPlot p fun x =>
    { x with host := { x.host with doorbells := [] }, graft := { x.graft with holding := false } } := if_neg (by simp [hp, h])

theorem tornDown_stands : Stand ((tearing b p).dropKeys p) (tornDown b p) := by
  have h := (Stand.refl ((tearing b p).dropKeys p)).unbindKernels p
  exact Stand.stopWork (h.endColls p 3 0x17)

theorem tearing_plot : PlotStands { b.plot p with result := 0#8, state := .teardown } ((tearing b p).plot p) := by
  have h := ((Stand.refl (b.plotResult p 0)).endColls p 3 0x17).plots p
  rw [plotResult_plot] at h
  rw [tearing, plotTo_plot]
  exact ⟨rfl, h.result, h.owned, h.graft, h.colls⟩

theorem tornDown_plot : PlotStands { b.plot p with result := 0#8, state := .teardown } ((tornDown b p).plot p) :=
  tearing_plot.trans (tornDown_stands.plots p)

theorem tornDown_state : ((tornDown b p).plot p).state = .teardown := tornDown_plot.state

theorem tornDown_result : ((tornDown b p).plot p).result = 0#8 := tornDown_plot.result

section
variable (hp : p ≠ 0) (h : (b.plot p).state = .bound)
include hp h

theorem teardown_plot : (b.teardown p).plot p = { (tornDown b p).plot p with
    host := { ((tornDown b p).plot p).host with doorbells := [] },
    graft := { ((tornDown b p).plot p).graft with holding := false } } := by
  rw [teardown_tears hp h, plot_modPlot_same]

theorem teardown_state : ((b.teardown p).plot p).state = .teardown := by
  rw [teardown_plot hp h]
  dsimp only
  exact tornDown_state

theorem teardown_result : ((b.teardown p).plot p).result = 0#8 := by
  rw [teardown_plot hp h]
  dsimp only
  exact tornDown_result

theorem teardown_ended : ((b.teardown p).plot p).colls = [] := by
  rw [teardown_plot hp h]
  dsimp only
  exact stopWork_ended

theorem teardown_quiet : ((b.teardown p).plot p).host.doorbells = [] ∧ ((b.teardown p).plot p).graft.holding = false := by
  rw [teardown_plot hp h]
  exact ⟨rfl, rfl⟩

end

theorem svValid_cleared (e : BitVec 320) : svValid (setFld e 24 1 0) = false := by
  have hbit : (e.toNat - fld e 24 1 * 2 ^ 24 + 0 % 2 ^ 1 * 2 ^ 24) / 2 ^ 24 % 2 = 0 := by
    unfold fld
    omega
  rw [svValid, flag, setFld, BitVec.getLsbD_ofNat, Nat.testBit_eq_decide_div_mod_eq, hbit]
  rfl

theorem dropKeys_invalid {x : Nat × BitVec 320} (hx : x ∈ (b.dropKeys p).traf.sieve) (hplot : svPlot x.2 = p) : svValid x.2 = false := by
  obtain ⟨y, -, rfl⟩ := List.mem_map.mp hx
  dsimp only at hplot ⊢
  split at hplot
  · rw [if_pos (by assumption)]
    exact svValid_cleared _
  · exact absurd hplot (by assumption)

theorem teardown_keyless (hp : p ≠ 0) (h : (b.plot p).state = .bound) {x : Nat × BitVec 320} (hx : x ∈ (b.teardown p).traf.sieve)
    (hplot : svPlot x.2 = p) : svValid x.2 = false := by
  rw [teardown_tears hp h, modPlot_traf, tornDown_stands.sieve] at hx
  exact dropKeys_invalid hx hplot

/-! ### The ends of the transitions -/

theorem bindDone_binds (h : (b.plot p).state = .binding) : b.bindDone p = (b.each (tilesOf (b.plot p).owned) Blk.zeroTile).plotTo p .bound :=
  if_pos h

theorem bindDone_other (h : (b.plot p).state ≠ .binding) : b.bindDone p = b := if_neg h

theorem rebindDone_other (h : (b.plot p).state ≠ .rebinding) : b.rebindDone p = b := if_pos h

/-- The tiles of a rebind are zeroed or unsealed, and its egress is flushed (R267). -/
def rebindMoved (b : Blk) (p : Nat) : Blk :=
  (((b.flushEgress p).each ((tilesOf (b.plot p).owned).filter fun t => !flag (b.plot p).moving t) Blk.zeroTile).each
    ((tilesOf (b.plot p).moving).filter fun t => !flag (b.plot p).owned t) Blk.zeroTile).each
      ((tilesOf (b.plot p).owned).filter fun t => flag (b.plot p).moving t) Blk.unsealTile

theorem rebindDone_moves (h : (b.plot p).state = .rebinding) : b.rebindDone p = (((rebindMoved b p).modPlot p fun x =>
    { x with owned := (b.plot p).moving, cfg := { x.cfg with tiles := (b.plot p).moving },
             graft := { x.graft with gen := x.graft.gen + 1, holding := true, old := x.owned },
             keys := { x.keys with sealedFlag := false } }).takeSerial p).plotTo p .bound := by
  unfold rebindMoved
  simp only [Blk.rebindDone, h, ne_eq, not_true_eq_false, if_false]

theorem rebindMoved_stands : Stand b (rebindMoved b p) :=
  Stand.each (Stand.each (Stand.each ((Stand.refl b).flushEgress p) fun _ _ h => h.zeroTile _) fun _ _ h => h.zeroTile _)
    fun _ _ h => h.unsealTile _

theorem rebindDone_plot (h : (b.plot p).state = .rebinding) : (b.rebindDone p).plot p =
    { (rebindMoved b p).plot p with
      owned := (b.plot p).moving, cfg := { ((rebindMoved b p).plot p).cfg with tiles := (b.plot p).moving },
      graft := { ((rebindMoved b p).plot p).graft with
        gen := ((rebindMoved b p).plot p).graft.gen + 1, holding := true, old := ((rebindMoved b p).plot p).owned },
      keys := { ((rebindMoved b p).plot p).keys with sealedFlag := false },
      bindSerial := (rebindMoved b p).bindCount + 1, state := .bound } := by
  rw [rebindDone_moves h, plotTo_plot, takeSerial_plot, plot_modPlot_same, modPlot_bindCount]

section
variable (h : (b.plot p).state = .rebinding)
include h

/-- The plot of a rebind that ends has the map that was checked, its next generation and the old map (R267). -/
theorem rebindDone_map : ((b.rebindDone p).plot p).state = .bound ∧ ((b.rebindDone p).plot p).owned = (b.plot p).moving ∧
    ((b.rebindDone p).plot p).cfg.tiles = (b.plot p).moving ∧ ((b.rebindDone p).plot p).graft.holding = true ∧
    ((b.rebindDone p).plot p).keys.sealedFlag = false := by
  rw [rebindDone_plot h]
  exact ⟨rfl, rfl, rfl, rfl, rfl⟩

theorem rebindDone_generation : ((b.rebindDone p).plot p).graft.old = (b.plot p).owned ∧
    ((b.rebindDone p).plot p).graft.gen = (b.plot p).graft.gen + 1 ∧ ((b.rebindDone p).plot p).bindSerial = b.bindCount + 1 := by
  have hstands := (rebindMoved_stands (b := b) (p := p)).plots p
  rw [rebindDone_plot h]
  dsimp only
  exact ⟨hstands.owned, by rw [hstands.graft], by rw [rebindMoved_stands.serial]⟩

end

theorem released_waits (h : (b.plot p).state ≠ .teardown ∨ b.plotOpen p = true) : b.released p = b := if_pos (by simpa using h)

theorem scrubCheck_plot : (b.scrubCheck p).plot p = { b.plot p with
    state := if (b.plot p).state = .scrubbing && (b.plot p).scrubs.isEmpty then .free else (b.plot p).state } := by
  unfold Blk.scrubCheck
  split
  · exact plotTo_plot .free
  · rfl

/-- The ranges that the scrubs of a teardown take (R268). -/
def rangesOf (x : Plot) : List (Nat × Nat × Nat) :=
  ((List.range 4).map fun d => (d, (x.cfg.range d).1, (x.cfg.range d).2)).filter fun r => 0 < r.2.2

/-- The tiles of a plot in TEARDOWN are zeroed and its egress is flushed. -/
def vacated (b : Blk) (p : Nat) : Blk := (b.each (tilesOf (b.plot p).owned) Blk.zeroTile).flushEgress p

theorem released_scrubs (h : (b.plot p).state = .teardown) (hopen : b.plotOpen p = false) : b.released p =
    ((((vacated b p).modPlot p fun x =>
      { x with owned := 0#1024, keys := PlotKeys.fresh, scrubs := x.scrubs ++ rangesOf (b.plot p),
               host := { x.host with dmaValid := false }, hbmCut := none }).plotTo p .scrubbing).scrubCheck p) :=
  if_neg (by simp [h, hopen])

theorem released_plot (h : (b.plot p).state = .teardown) (hopen : b.plotOpen p = false) : (b.released p).plot p =
    { (vacated b p).plot p with
      owned := 0#1024, keys := PlotKeys.fresh, scrubs := ((vacated b p).plot p).scrubs ++ rangesOf (b.plot p),
      host := { ((vacated b p).plot p).host with dmaValid := false }, hbmCut := none,
      state := if (((vacated b p).plot p).scrubs ++ rangesOf (b.plot p)).isEmpty then .free else .scrubbing } := by
  rw [released_scrubs h hopen, scrubCheck_plot, plotTo_plot, plot_modPlot_same]
  rfl

theorem scrubDone_none {i : Nat} (h : (b.plot p).scrubs[i]? = none) : b.scrubDone p i = b := by simp only [Blk.scrubDone, h]

section
variable {i : Nat} {r : Nat × Nat × Nat} (h : (b.plot p).scrubs[i]? = some r)
include h

theorem scrubDone_open (hcut : b.cutOpen p r.1 = true) : b.scrubDone p i = b := by simp only [Blk.scrubDone, h, hcut, if_true]

theorem scrubDone_zeroes (hcut : b.cutOpen p r.1 = false) : b.scrubDone p i =
    ((({ b with hbm := b.hbm.zero (2 ^ 36 * r.1 + granule * r.2.1) (granule * r.2.2) } : Blk).modPlot p fun x =>
      { x with scrubs := x.scrubs.eraseIdx i }).scrubCheck p) := by
  simp only [Blk.scrubDone, h, hcut, Bool.false_eq_true, if_false]

end
end

/-- Settles O38. What a stopped plot's work leaves is `Stand`; its collectives are gone by `endColls_none`. -/
theorem plotLifecycle : Obligations.PlotLifecycle := by
  unfold Obligations.PlotLifecycle
  intro s ch p
  have hbind : ∀ {b : Blk} {a : Nat}, Asked s (.plotBind ch) ch false → s.blk.plotCommand (s.blk.sels ch).plot 1 = (b, a) →
      exec (.plotBind ch) s = become s (b.answer a) := by
    intro b a ha h
    show execPlotBind ch s = _
    exact od_answers ha h
  have hrebind : ∀ {b : Blk} {a : Nat}, Asked s (.plotRebind ch) ch false → s.blk.plotCommand (s.blk.sels ch).plot 2 = (b, a) →
      exec (.plotRebind ch) s = become s (b.answer a) := by
    intro b a ha h
    show execPlotRebind ch s = _
    exact od_answers ha h
  have htear : ∀ {b : Blk} {a : Nat}, Asked s (.plotTeardown ch) ch false → s.blk.plotCommand (s.blk.sels ch).plot 3 = (b, a) →
      exec (.plotTeardown ch) s = become s (b.answer a) := by
    intro b a ha h
    show execPlotTeardown ch s = _
    exact od_answers ha h
  refine ⟨fun h0 => ?_, fun hsel hp => ?_, fun hr => ⟨fun h => ?_, fun h => ?_⟩, fun hr h => ?_, fun hr h => ?_, fun hr h => ?_,
    fun hr h hopen => ?_, fun i hr => ⟨fun h => ?_, fun r h => ⟨fun hcut => ?_, fun hcut => ?_⟩⟩⟩
  · rw [h0] at hbind hrebind htear
    exact ⟨fun ha => hbind ha (plotCommand_zero 1), fun ha => hrebind ha (plotCommand_zero 2), fun ha => htear ha (plotCommand_zero 3)⟩
  · subst hsel
    have hcmd := plotCommand_bind (b := s.blk) hp
    have hrecmd := plotCommand_rebind (b := s.blk) hp
    have htearcmd := plotCommand_teardown (b := s.blk) hp
    refine ⟨fun ha => ⟨fun hpos hlt => ?_, fun hok => ?_⟩, fun ha => ⟨fun hpos hlt => ?_, fun hok => ?_⟩, fun ha => ⟨fun hst => ?_, fun hst => ?_⟩⟩
    · rw [bind_refused rfl (Nat.pos_iff_ne_zero.mp hpos), result_refused hpos hlt] at hcmd
      exact hbind ha hcmd
    · rw [bind_begins hok, bindBegun_plot] at hcmd
      obtain ⟨hcount, hsram, hhbm⟩ := bindBegun_kept (b := s.blk) (p := (s.blk.sels ch).plot)
      refine ⟨_, hbind ha hcmd, ?_⟩
      rw [bindBegun_plot]
      exact ⟨rfl, rfl, rfl, rfl, rfl, hcount, fun t ht => bindBegun_zeroing ht, hsram, hhbm, fun q hq => bindBegun_other hq⟩
    · rw [rebind_refused rfl (Nat.pos_iff_ne_zero.mp hpos), result_refused hpos hlt] at hrecmd
      exact hrebind ha hrecmd
    · rw [if_pos (rebind_result hok)] at hrecmd
      obtain ⟨hmoving, hholding⟩ := rebind_moving hok
      exact ⟨_, hrebind ha hrecmd, rebind_state hok, rebind_owned hok, hmoving, rebind_ended hok, hholding,
        fun t ht hown => rebind_zeroing hok ht hown⟩
    · rw [teardown_refused hst, result_refused (by decide) (by decide)] at htearcmd
      exact htear ha htearcmd
    · rw [if_pos (teardown_result hp hst)] at htearcmd
      obtain ⟨hdoorbells, hholding⟩ := teardown_quiet hp hst
      exact ⟨_, htear ha htearcmd, teardown_state hp hst, teardown_ended hp hst, hdoorbells, hholding,
        fun e he hplot => teardown_keyless hp hst he hplot⟩
  · show execPlotBindDone p s = _
    exact mesh_becomes hr (bindDone_binds h)
  · show execPlotBindDone p s = _
    exact mesh_becomes hr (bindDone_other h)
  · show execPlotRebindDone p s = _
    exact mesh_becomes hr (rebindDone_other h)
  · obtain ⟨hstate, howned, htiles, hholding, hsealed⟩ := rebindDone_map h
    obtain ⟨hold, hgen, hserial⟩ := rebindDone_generation h
    refine ⟨s.blk.rebindDone p, ?_, hstate, howned, htiles, hold, hgen, hholding, hserial, hsealed⟩
    show execPlotRebindDone p s = _
    exact mesh_becomes hr rfl
  · show execTeardownTilesReleased p s = _
    exact mesh_becomes hr (released_waits h)
  · refine ⟨s.blk.released p, ?_, ?_⟩
    · show execTeardownTilesReleased p s = _
      exact mesh_becomes hr rfl
    · rw [released_plot h hopen]
      refine ⟨rfl, rfl, rfl, ?_⟩
      by_cases hnone : ((vacated s.blk p).plot p).scrubs ++ rangesOf (s.blk.plot p) = []
      · exact .inr ⟨if_pos (by rw [hnone]; rfl), hnone⟩
      · exact .inl (if_neg (by simpa using hnone))
  · show execHbmScrubDone p i s = _
    exact mesh_becomes hr (scrubDone_none h)
  · show execHbmScrubDone p i s = _
    exact mesh_becomes hr (scrubDone_open h hcut)
  · show execHbmScrubDone p i s = _
    exact mesh_becomes hr (scrubDone_zeroes h hcut)

end Sys2Proof.Plots
end


section
/-! The writes of a plot's configuration (R263, R264, R271, R272, R302). -/
namespace Sys2Proof.PlotWrites
open Sys2Proof Sys2Proof.Machine Sys2Proof.Safety Sys2Proof.Laws Sys2Proof.Acts

section
variable {b : Blk} {p q : Nat} {xs : Bytes}

/-! ### One entry -/

/-- The configuration of a plot is replaced. -/
def withCfg (b : Blk) (p : Nat) (c : PlotCfg) : Blk := b.modPlot p fun x => { x with cfg := c }

theorem writePlotCfg_tiles (hn : xs.length = 128) (hf : (b.plot p).state = .free) : b.writePlotCfg p 0x03 xs =
    (withCfg b p { (b.plot p).cfg with tiles := BitVec.ofNat 1024 (ofBytes xs) }, 0) :=
  (if_neg (not_not_intro hn)).trans (if_neg (by simp [hf]))

theorem writePlotCfg_recovery (hn : xs.length = 1) (hv : ofBytes xs ≤ 1) : b.writePlotCfg p 0x04 xs =
    (withCfg b p { (b.plot p).cfg with recovery := ofBytes xs = 1 }, 0) :=
  (if_neg (not_not_intro hn)).trans (if_neg (Nat.not_lt.mpr hv))

/-- STEAL goes to the tiles that the plot owns too (R263). -/
theorem writePlotCfg_steal (hn : xs.length = 1) (hv : ofBytes xs ≤ 1) : b.writePlotCfg p 0x06 xs =
    ((withCfg b p { (b.plot p).cfg with stealEn := ofBytes xs = 1 }).each ((List.range 1024).filter (b.owns p)) fun b t =>
      b.modTile t fun x => { x with engCtrl := { x.engCtrl with stealEn := ofBytes xs = 1 } }, 0) :=
  (if_neg (not_not_intro hn)).trans (if_neg (Nat.not_lt.mpr hv))

theorem writePlotCfg_owner (hn : xs.length = 48) (hf : (b.plot p).state = .free) : b.writePlotCfg p 0x09 xs =
    (withCfg b p { (b.plot p).cfg with owner := xs }, 0) :=
  (if_neg (not_not_intro hn)).trans (if_neg (by simp [hf]))

theorem writePlotCfg_tilesNext (hn : xs.length = 128) : b.writePlotCfg p 0x0B xs =
    (withCfg b p { (b.plot p).cfg with tilesNext := BitVec.ofNat 1024 (ofBytes xs) }, 0) := if_neg (not_not_intro hn)

theorem writePlotCfg_rankBase (hn : xs.length = 4) : b.writePlotCfg p 0x10 xs =
    (withCfg b p { (b.plot p).cfg with rankBase := BitVec.ofNat 32 (ofBytes xs) }, 0) := if_neg (not_not_intro hn)

theorem writePlotCfg_rankCount (hn : xs.length = 4) (hv : ofBytes xs ≤ 131072) : b.writePlotCfg p 0x11 xs =
    (withCfg b p { (b.plot p).cfg with rankCount := BitVec.ofNat 32 (ofBytes xs) }, 0) :=
  (if_neg (not_not_intro hn)).trans (if_neg (Nat.not_lt.mpr hv))

theorem writePlotCfg_length {sub n : Nat}
    (h : (sub, n) ∈ [(0x03, 128), (0x04, 1), (0x06, 1), (0x09, 48), (0x0B, 128), (0x10, 4), (0x11, 4)]) (hn : xs.length ≠ n) :
    b.writePlotCfg p sub xs = (b, abLength) := by
  simp only [List.mem_cons, Prod.mk.injEq, List.not_mem_nil, or_false] at h
  rcases h with ⟨rfl, rfl⟩ | ⟨rfl, rfl⟩ | ⟨rfl, rfl⟩ | ⟨rfl, rfl⟩ | ⟨rfl, rfl⟩ | ⟨rfl, rfl⟩ | ⟨rfl, rfl⟩ <;> exact if_pos hn

theorem writePlotCfg_range {sub : Nat} (h : ((sub = 0x04 ∨ sub = 0x06) ∧ xs.length = 1 ∧ 1 < ofBytes xs) ∨
      (sub = 0x11 ∧ xs.length = 4 ∧ 131072 < ofBytes xs)) : b.writePlotCfg p sub xs = (b, abRange) := by
  rcases h with ⟨rfl | rfl, hn, hv⟩ | ⟨rfl, hn, hv⟩ <;> exact (if_neg (not_not_intro hn)).trans (if_pos hv)

theorem writePlotCfg_none {sub : Nat} (h : sub ∉ [0x03, 0x04, 0x06, 0x09, 0x0B, 0x10, 0x11]) :
    b.writePlotCfg p sub xs = (b, abNoSub) := by
  simp only [List.mem_cons, List.not_mem_nil, or_false, not_or] at h
  obtain ⟨h3, h4, h6, h9, hb, h10, h11⟩ := h
  unfold Blk.writePlotCfg
  split
  · exact absurd rfl h3
  · exact absurd rfl h4
  · exact absurd rfl h6
  · exact absurd rfl h9
  · exact absurd rfl hb
  · exact absurd rfl h10
  · exact absurd rfl h11
  · rfl

theorem writePlotCfg_bound {sub : Nat} (h : sub = 0x03 ∨ sub = 0x09) (h3 : sub = 0x03 → xs.length = 128) (h9 : sub = 0x09 → xs.length = 48)
    (hf : (b.plot p).state ≠ .free) : b.writePlotCfg p sub xs = (b, abState) := by
  rcases h with rfl | rfl
  · exact (if_neg (not_not_intro (h3 rfl))).trans (if_pos (by simp [hf]))
  · exact (if_neg (not_not_intro (h9 rfl))).trans (if_pos (by simp [hf]))

/-! ### The queue quota and the graft map -/

theorem writeQueueQuota_range (h : 16 * b.member.tileCount < q) : b.writeQueueQuota p q = (b, abRange) := if_pos h

section
variable (h : q ≤ 16 * b.member.tileCount)
include h

theorem writeQueueQuota_sets (hroom : b.bound p = true → b.boundQueues p ≤ q) : b.writeQueueQuota p q =
    (b.modPlot p fun x => { x with cfg := { x.cfg with queueQuota := q } }, 0) := by
  have hwhole : (b.bound p && decide (q < b.boundQueues p)) = false := by
    cases hb : b.bound p
    · rfl
    · exact decide_eq_false (Nat.not_lt.mpr (hroom hb))
  simp only [Blk.writeQueueQuota, if_neg (Nat.not_lt.mpr h), hwhole, Bool.false_eq_true, if_false]
  rfl

theorem writeQueueQuota_excess (hb : b.bound p = true) (hless : q < b.boundQueues p) : b.writeQueueQuota p q =
    ((b.modPlot p fun x => { x with cfg := { x.cfg with queueQuota := q } }).raiseS 0x12 p none 1 0, 0) := by
  simp only [Blk.writeQueueQuota, if_neg (Nat.not_lt.mpr h), hb, decide_eq_true hless, Bool.and_self, if_true]
  rfl

end

theorem writeGraftMap_unbound {old : Nat} {v : BitVec 16} (h : b.bound p = false) : b.writeGraftMap p old v = (b, abState) :=
  if_pos (by simp [h])

theorem writeGraftMap_writes {old : Nat} {v : BitVec 16} (h : b.bound p = true) : b.writeGraftMap p old v =
    (b.modPlot p fun x => { x with graft := { x.graft with map := x.graft.map.put old (v &&& 0x7FF#16) } }, 0) :=
  if_neg (by simp [h])

/-! ### HBM ranges -/

section
variable {v : BitVec 128}

section
variable (hp : p ≠ 0)
include hp

theorem writeHbmRange_free (h : (b.plot p).state = .free) : b.writeHbmRange p v =
    (b.modPlot p fun x => { x with cfg := { x.cfg with hbm := v &&& hbmMask } }, 0) :=
  (if_neg hp).trans (if_pos h)

theorem writeHbmRange_moving (hf : (b.plot p).state ≠ .free) (hb : (b.plot p).state ≠ .bound) : b.writeHbmRange p v = (b, abState) :=
  (if_neg hp).trans ((if_neg hf).trans (if_pos hb))

section
variable (hb : (b.plot p).state = .bound)
include hb

theorem writeHbmRange_refused {a : Nat}
    (h : (List.range 4).mapM (fun d => b.rangeChange p d ((b.plot p).cfg.range d) (rangeOf (v &&& hbmMask) d)) = .error a) :
    b.writeHbmRange p v = (b, a) := by
  simp only [Blk.writeHbmRange, if_neg hp, hb, if_neg (show ¬ PlotState.bound = .free by decide), ne_eq, not_true_eq_false, if_false, h]
  rfl

/-- The plot's new ranges, the freed runs to be scrubbed (R272). -/
def rangesSet (b : Blk) (p : Nat) (v : BitVec 128) (gone : List (List (Nat × Nat × Nat))) : Blk :=
  (b.modPlot p fun x => { x with cfg := { x.cfg with hbm := v } }).modPlot p fun y =>
    if gone.flatten.isEmpty then y
    else { y with scrubs := y.scrubs ++ gone.flatten, hbmOld := (b.plot p).cfg.hbm, hbmCut := some b.clk.mc }

/-- Each range that lost a run is told. -/
def rangesTold (b : Blk) (p : Nat) (gone : List (List (Nat × Nat × Nat))) : Blk :=
  b.each gone.zipIdx fun b g => if g.1.isEmpty then b else b.raiseS 0x12 p none 2 g.2

theorem writeHbmRange_changes {gone : List (List (Nat × Nat × Nat))}
    (h : (List.range 4).mapM (fun d => b.rangeChange p d ((b.plot p).cfg.range d) (rangeOf (v &&& hbmMask) d)) = .ok gone) :
    b.writeHbmRange p v = (rangesTold (rangesSet b p (v &&& hbmMask) gone) p gone, 0) := by
  simp only [Blk.writeHbmRange, if_neg hp, hb, if_neg (show ¬ PlotState.bound = .free by decide), ne_eq, not_true_eq_false, if_false, h]
  rfl

end
end

section
variable {gone : List (List (Nat × Nat × Nat))}

theorem rangesTold_kept : (rangesTold b p gone).plots = b.plots ∧ (rangesTold b p gone).hbm = b.hbm := by
  refine Idle.each_induction (P := fun c => c.plots = b.plots ∧ c.hbm = b.hbm) _ _ ⟨rfl, rfl⟩ fun c g hc => ?_
  split <;> exact hc

theorem rangesTold_plot : (rangesTold b p gone).plot q = b.plot q :=
  congrArg (fun l => Tbl.getD l q Plot.fresh) (rangesTold_kept (b := b) (p := p) (gone := gone)).1

theorem rangesSet_other (h : q ≠ p) : (rangesSet b p v gone).plot q = b.plot q := by
  rw [rangesSet, plot_modPlot_other _ _ _ _ h, plot_modPlot_other _ _ _ _ h]

theorem rangesSet_hbm : (rangesSet b p v gone).hbm = b.hbm := rfl

theorem rangesSet_plot : ((rangesSet b p v gone).plot p).cfg.hbm = v ∧
    ((rangesSet b p v gone).plot p).scrubs = (b.plot p).scrubs ++ gone.flatten ∧
    (gone.flatten ≠ [] →
      ((rangesSet b p v gone).plot p).hbmOld = (b.plot p).cfg.hbm ∧ ((rangesSet b p v gone).plot p).hbmCut = some b.clk.mc) := by
  rw [rangesSet, plot_modPlot_same, plot_modPlot_same]
  by_cases hnone : gone.flatten = []
  · simp [hnone]
  · rw [if_neg (by simpa using hnone)]
    exact ⟨rfl, rfl, fun _ => ⟨rfl, rfl⟩⟩

end
end

/-! ### What a range's change may be -/

section
variable {d : Nat} {old new : Nat × Nat}

theorem rangeChange_none (h : old = new ∨ (old.2 = 0 ∧ new.2 = 0)) : b.rangeChange p d old new = .ok [] := if_pos (by simpa using h)

section
variable (hne : old ≠ new) (hlen : old.2 ≠ 0 ∨ new.2 ≠ 0)
include hne hlen

theorem sameTest_differs : ¬ ((decide (old = new) || (decide (old.2 = 0) && decide (new.2 = 0))) = true) := by
  simp only [Bool.or_eq_true, Bool.and_eq_true, decide_eq_true_eq, not_or, Classical.not_and_iff_not_or_not]
  exact ⟨hne, hlen⟩

variable (hin : runIn old.1 old.2 new.1 new.2 = true)
include hin

theorem rangeChange_scrubbing (h : ∃ r ∈ (b.plot p).scrubs, r.1 = d) : b.rangeChange p d old new = .error abState :=
  (if_neg (sameTest_differs hne hlen)).trans ((if_pos hin).trans (if_pos (by simpa using h)))

variable (hfree : ∀ r ∈ (b.plot p).scrubs, r.1 ≠ d)
include hfree

omit hne hlen hin in
theorem scrubTest_free : ¬ ((b.plot p).scrubs.any fun r => r.1 = d) = true := by
  rw [List.any_eq_true]
  rintro ⟨r, hr, hd⟩
  exact hfree r hr (of_decide_eq_true hd)

theorem rangeChange_all (h : new.2 = 0) : b.rangeChange p d old new = .ok [(d, old.1, old.2)] :=
  (if_neg (sameTest_differs hne hlen)).trans ((if_pos hin).trans ((if_neg (scrubTest_free hfree)).trans (if_pos h)))

theorem rangeChange_cut (h : new.2 ≠ 0) : b.rangeChange p d old new =
    .ok ([(d, old.1, new.1 - old.1), (d, new.1 + new.2, old.1 + old.2 - (new.1 + new.2))].filter fun r => 0 < r.2.2) :=
  (if_neg (sameTest_differs hne hlen)).trans ((if_pos hin).trans ((if_neg (scrubTest_free hfree)).trans (if_neg h)))

end

section
variable (hout : runIn old.1 old.2 new.1 new.2 = false)
include hout

/-- A range that does not hold the new one is neither it nor empty beside an empty one. -/
theorem sameTest_outside : (decide (old = new) || (decide (old.2 = 0) && decide (new.2 = 0))) = false := by
  rw [Bool.or_eq_false_iff, Bool.and_eq_false_iff]
  constructor
  · refine decide_eq_false fun heq => ?_
    subst heq
    simp [runIn] at hout
  · refine .inr (decide_eq_false fun h0 => ?_)
    simp [runIn, h0] at hout

theorem rangeChange_grows (hin : runIn new.1 new.2 old.1 old.2 = true) (hok : b.hbmOk p d new.1 new.2 = true) :
    b.rangeChange p d old new = .ok [] := by
  simp only [Blk.rangeChange, sameTest_outside hout, hout, hin, hok, Bool.and_self, Bool.false_eq_true, if_false, if_true]

theorem rangeChange_range (h : runIn new.1 new.2 old.1 old.2 = false ∨ b.hbmOk p d new.1 new.2 = false) :
    b.rangeChange p d old new = .error abRange := by
  have htest : (runIn new.1 new.2 old.1 old.2 && b.hbmOk p d new.1 new.2) = false := by rwa [Bool.and_eq_false_iff]
  simp only [Blk.rangeChange, sameTest_outside hout, hout, htest, Bool.false_eq_true, if_false]

end
end
end

/-- Settles O39. -/
theorem plotConfiguration : Obligations.PlotConfiguration := by
  unfold Obligations.PlotConfiguration
  intro s ch p x cfg
  refine ⟨fun sub xs ha => ?_, fun q ha h => ?_, fun q ha h => ?_, fun v ha hp => ?_, fun v ha hp => ?_,
    fun d old new => ⟨rangeChange_none, fun hne hlen hin => ⟨fun h => rangeChange_scrubbing hne hlen hin h, fun hfree =>
      ⟨fun h => rangeChange_all hne hlen hin hfree h, fun h => rangeChange_cut hne hlen hin hfree h⟩⟩,
      fun hout => ⟨fun hin hok => rangeChange_grows hout hin hok, fun h => rangeChange_range hout h⟩⟩,
    fun v ha hb => ?_, fun v ha hb => ?_, fun q hr => ?_⟩
  · have hwrite : ∀ {b : Blk} {a : Nat}, s.blk.writePlotCfg p sub xs = (b, a) →
        exec (.plotConfigWrite ch sub xs) s = become s (b.answer a) := by
      intro b a h
      show execPlotConfigWrite ch sub xs s = _
      exact od_answers ha h
    refine ⟨?_, ?_, ?_, fun n hmem hn => hwrite (writePlotCfg_length hmem hn), fun h => hwrite (writePlotCfg_range h),
      fun h => hwrite (writePlotCfg_none h), ?_, ?_, ?_, ?_, fun h h3 h9 hf => hwrite (writePlotCfg_bound h h3 h9 hf)⟩
    · rintro rfl hn hf
      exact hwrite (writePlotCfg_tiles hn hf)
    · rintro rfl hn hv
      exact hwrite (writePlotCfg_recovery hn hv)
    · rintro rfl hn hv
      exact hwrite (writePlotCfg_steal hn hv)
    · rintro rfl hn hf
      exact hwrite (writePlotCfg_owner hn hf)
    · rintro rfl hn
      exact hwrite (writePlotCfg_tilesNext hn)
    · rintro rfl hn
      exact hwrite (writePlotCfg_rankBase hn)
    · rintro rfl hn hv
      exact hwrite (writePlotCfg_rankCount hn hv)
  · show execQueueQuotaWrite ch q s = _
    exact od_answers ha (writeQueueQuota_range h)
  · intro b
    refine ⟨fun hroom => ?_, fun hb hless => ?_⟩
    · show execQueueQuotaWrite ch q s = _
      exact od_answers ha (writeQueueQuota_sets h hroom)
    · show execQueueQuotaWrite ch q s = _
      exact od_answers ha (writeQueueQuota_excess h hb hless)
  · show execHbmRangeWrite ch v s = _
    exact od_answers ha (if_pos hp)
  · have hwrite : ∀ {b : Blk} {a : Nat}, s.blk.writeHbmRange p v = (b, a) → exec (.hbmRangeWrite ch v) s = become s (b.answer a) := by
      intro b a h
      show execHbmRangeWrite ch v s = _
      exact od_answers ha h
    refine ⟨fun hf => hwrite (writeHbmRange_free hp hf), fun hf hb => hwrite (writeHbmRange_moving hp hf hb), fun hb => ?_⟩
    intro change
    refine ⟨fun a h => hwrite (writeHbmRange_refused hp hb h), fun gone h => ⟨_, hwrite (writeHbmRange_changes hp hb h), ?_⟩⟩
    obtain ⟨hhbm, hscrubs, hcut⟩ := rangesSet_plot (b := s.blk) (p := p) (v := v &&& hbmMask) (gone := gone)
    rw [rangesTold_plot]
    exact ⟨hhbm, hscrubs, fun q hq => rangesTold_plot.trans (rangesSet_other hq), rangesTold_kept.2.trans rangesSet_hbm, hcut⟩
  · show execGraftMapWrite ch v s = _
    exact od_answers ha (writeGraftMap_unbound hb)
  · show execGraftMapWrite ch v s = _
    exact od_answers ha (writeGraftMap_writes hb)
  · show execGraftHoldEnd q s = _
    exact mesh_becomes hr rfl

end Sys2Proof.PlotWrites
end


section
/-! The quorum (R293–R299): heartbeats, messages, the phases of a round, and the group table. -/
namespace Sys2Proof.Quorums
open Sys2Proof Sys2Proof.Machine Sys2Proof.Safety Sys2Proof.Laws Sys2Proof.Acts

section
variable {b : Blk} {m : Nat} {x : QMsg} {rd : Round}

/-! ### Heartbeats and messages sent -/

theorem heartbeatSend_sends (he : b.quorum.en = true) (ho : b.quorum.selfOut = false) :
    b.heartbeatSend = b.qSendAll b.quorum.valid 1 0 b.quorum.maxRound 0#32 := if_pos (by simp [he, ho])

theorem heartbeatSend_silent (h : b.quorum.en = false ∨ b.quorum.selfOut = true) : b.heartbeatSend = b :=
  if_neg (by rcases h with h | h <;> simp [h])

/-- A message is noted as sent. -/
def outNoted (b : Blk) (m : Nat) (x : QMsg) : Blk := { b with quorum := { b.quorum with out := b.quorum.out ++ [(m, x)] } }

/-- The header of a quorum DFP. -/
def quorumHdr (b : Blk) (m : Nat) (x : QMsg) : BitVec 256 := dfpHdr 5 0xFFFF 63 4 (qmCoord (b.quorum.member m)) b.self x.round.toNat 0 64

theorem qSend_eq : b.qSend m x = (outNoted b m x).quorumOut (quorumHdr b m x) x.bytes := rfl

section
variable {h : BitVec 256} {xs : Bytes}

theorem quorumOut_nowhere (hl : b.lookup 0 (fDst h) = none) : b.quorumOut h xs = b := by simp only [Blk.quorumOut, hl]

theorem quorumOut_sends {e : BitVec 64} {p : Nat} {half : Bool} {c : Blk} (hl : b.lookup 0 (fDst h) = some e) (hk : lkKind e ≠ 3)
    (hout : b.egressOf 0 0 e = (p, half, true, c)) : b.quorumOut h xs = { c with quorum := { c.quorum with
      net := c.quorum.net ++ [(true, c.member.portTile p, toBytes 1 (bit half) ++ toBytes 32 h.toNat ++ xs)] } } := by
  simp only [Blk.quorumOut, hl, if_neg hk, hout, if_true]

end

/-! ### Suspicion -/

/-- A member's misses count: it is in the group, valid and not failed (R292). -/
def Counts (b : Blk) (m : Nat) : Prop := b.quorum.en = true ∧ b.quorum.selfOut = false ∧ qmValid (b.quorum.member m) = true ∧
  flag b.quorum.failed m = false ∧ m ≠ b.quorum.self

/-- The suspicion is held. -/
def suspected (b : Blk) (m : Nat) : Blk := { b with quorum := { b.quorum with held := b.quorum.held ||| BitVec.ofNat 32 (2 ^ m) } }

theorem countTest_iff : (!b.quorum.en || b.quorum.selfOut || !qmValid (b.quorum.member m) || flag b.quorum.failed m ||
    decide (m = b.quorum.self)) = false ↔ Counts b m := by
  simp only [Bool.or_eq_false_iff, Bool.not_eq_false', decide_eq_false_iff_not, and_assoc, Counts, ne_eq]

theorem suspect_joins (h : Counts b m) (hc : b.quorum.cur = none) :
    b.suspect m = (suspected b m).qJoin (b.quorum.maxRound + 1) 0#32 := by
  simp only [Blk.suspect, countTest_iff.mpr h, hc, Bool.false_eq_true, if_false, Option.isSome_none]
  rfl

theorem suspect_held (h : Counts b m) (hc : b.quorum.cur ≠ none) : b.suspect m = suspected b m := by
  simp only [Blk.suspect, countTest_iff.mpr h, Option.isSome_iff_ne_none.mpr hc, Bool.false_eq_true, if_false, if_true]
  rfl

theorem suspect_no (h : ¬ Counts b m) : b.suspect m = b := by
  rw [← countTest_iff, Bool.not_eq_false] at h
  exact if_pos h

/-! ### Messages received -/

theorem quorumReceive_none (h : b.quorum.rawIn = []) : b.quorumReceive = b := by simp only [Blk.quorumReceive, h]

/-- The oldest quorum DFP has left the queue of arrivals. -/
def rawTaken (b : Blk) (rest : List QMsg) : Blk := { b with quorum := { b.quorum with rawIn := rest } }

theorem quorumReceive_checks {rest : List QMsg} (h : b.quorum.rawIn = x :: rest) : b.quorumReceive = (rawTaken b rest).quorumCheck x := by
  simp only [Blk.quorumReceive, h]
  rfl

theorem quorumCheck_kind (h : x.kind < 1 ∨ 3 < x.kind) : b.quorumCheck x = b.countSys evQuorumBad := by
  refine if_pos ?_
  rw [Bool.not_eq_true', Bool.and_eq_false_iff]
  exact h.imp (fun h => decide_eq_false (Nat.not_le.mpr h)) fun h => decide_eq_false (Nat.not_le.mpr h)

section
variable (h1 : 1 ≤ x.kind) (h3 : x.kind ≤ 3)
include h1 h3

theorem kindTest_known : (!(decide (1 ≤ x.kind) && decide (x.kind ≤ 3))) = false := by
  rw [decide_eq_true h1, decide_eq_true h3]
  rfl

theorem quorumCheck_group (h : x.group ≠ b.quorum.groupId) :
    b.quorumCheck x = (b.countSys evQuorumBad).raiseS 0x35 0 (some sysTile) x.round.toNat 0 x.sender := by
  simp only [Blk.quorumCheck, kindTest_known h1 h3, Bool.false_eq_true, if_false, if_pos h]

section
variable (hg : x.group = b.quorum.groupId)
include hg

theorem quorumCheck_stranger (h : ¬ (x.sender < 32 ∧ qmValid (b.quorum.member x.sender) = true ∧ flag b.quorum.failed x.sender = false)) :
    b.quorumCheck x = b.countSys evQuorumBad := by
  simp only [Blk.quorumCheck, kindTest_known h1 h3, Bool.false_eq_true, if_false, if_neg (not_not_intro hg)]
  refine if_pos ?_
  refine Classical.byContradiction fun hno => ?_
  simp only [Bool.or_eq_true, decide_eq_true_eq, Bool.not_eq_true', not_or, Nat.not_le, Bool.not_eq_true, Bool.not_eq_false, and_assoc] at hno
  exact h hno

section
variable (hm : x.sender < 32 ∧ qmValid (b.quorum.member x.sender) = true ∧ flag b.quorum.failed x.sender = false)
include hm

theorem quorumCheck_member : b.quorumCheck x = if !b.quorum.en || b.quorum.selfOut then b
    else (({ b with quorum := { b.quorum with good := b.quorum.good ++ [x] } } : Blk)).unsuspect x.sender := by
  obtain ⟨hs, hv, hf⟩ := hm
  simp only [Blk.quorumCheck, kindTest_known h1 h3, Bool.false_eq_true, if_false, if_neg (not_not_intro hg),
    decide_eq_false (Nat.not_le.mpr hs), hv, hf, Bool.not_true, Bool.or_self]

theorem quorumCheck_out (h : b.quorum.en = false ∨ b.quorum.selfOut = true) : b.quorumCheck x = b :=
  (quorumCheck_member h1 h3 hg hm).trans (if_pos (by simpa using h))

theorem quorumCheck_good (he : b.quorum.en = true) (ho : b.quorum.selfOut = false) : b.quorumCheck x = { b with quorum := { b.quorum with
    good := b.quorum.good ++ [x], held := b.quorum.held &&& ~~~BitVec.ofNat 32 (2 ^ x.sender) } } :=
  (quorumCheck_member h1 h3 hg hm).trans (if_neg (by simp [he, ho]))

end
end
end

theorem heartbeat_none (h : b.takeGood 1 = none) : b.heartbeat = b := by simp only [Blk.heartbeat, h]

theorem heartbeat_rounds {c : Blk} (h : b.takeGood 1 = some (x, c)) : b.heartbeat = { c with quorum := { c.quorum with
    maxRound := if c.quorum.maxRound.toNat < x.round.toNat then x.round else c.quorum.maxRound } } := by
  simp only [Blk.heartbeat, h]
  rfl

/-! ### The running round -/

section
variable {f : Round → Round}

theorem inRound_none (h : b.quorum.cur = none) (r : BitVec 32) : b.inRound r f = b := by simp only [Blk.inRound, h]

theorem inRound_own (h : b.quorum.cur = some rd) {r : BitVec 32} (hr : rd.number = r) :
    b.inRound r f = { b with quorum := { b.quorum with cur := some (f rd) } } := by simp only [Blk.inRound, h, if_pos hr]

theorem inRound_other (h : b.quorum.cur = some rd) {r : BitVec 32} (hr : rd.number ≠ r) : b.inRound r f = b := by
  simp only [Blk.inRound, h, if_neg hr]

end

theorem joinFor_old (h : x.round.toNat ≤ b.quorum.round.toNat) : b.joinFor x = b := if_neg (Nat.not_lt.mpr h)

theorem joinFor_new (h : b.quorum.round.toNat < x.round.toNat) : b.joinFor x = b.qJoin x.round x.set := if_pos h

/-- A VIEW is written into its round. -/
def viewed (x : QMsg) (rd : Round) : Round := { rd with views := rd.views.put x.sender x.set }

/-- A COMMIT is written into its round. -/
def committed (x : QMsg) (rd : Round) : Round :=
  if x.pass = 2 then { rd with commit2 := rd.commit2.put x.sender x.set } else { rd with commit1 := rd.commit1.put x.sender x.set }

theorem view_none (h : b.takeGood 2 = none) : b.view = b := by simp only [Blk.view, h]

theorem view_takes {c : Blk} (h : b.takeGood 2 = some (x, c)) : b.view = (c.joinFor x).inRound x.round (viewed x) := by
  simp only [Blk.view, h]
  rfl

theorem commit_none (h : b.takeGood 3 = none) : b.commit = b := by simp only [Blk.commit, h]

theorem commit_takes {c : Blk} (h : b.takeGood 3 = some (x, c)) : b.commit = (c.joinFor x).inRound x.round (committed x) := by
  simp only [Blk.commit, h]
  rfl

/-- A message of no later round goes into the running round, if it is of that. -/
theorem joinFor_inRound_old {f : Round → Round} (hle : x.round.toNat ≤ b.quorum.round.toNat) :
    (b.joinFor x).inRound x.round f = b.inRound x.round f := by rw [joinFor_old hle]

/-! ### The ends of the phases -/

theorem phase1End_none (h : b.quorum.cur = none) : b.phase1End = b := by simp only [Blk.phase1End, h]

theorem phase2End_none (h : b.quorum.cur = none) : b.phase2End = b := by simp only [Blk.phase2End, h]

theorem phase3End_none (h : b.quorum.cur = none) : b.phase3End = b := by simp only [Blk.phase3End, h]

section
variable (h : b.quorum.cur = some rd)
include h

theorem phase1End_other (hp : rd.phase ≠ 1) : b.phase1End = b := by simp only [Blk.phase1End, h, if_pos hp]

theorem phase1End_commits (hp : rd.phase = 1) :
    b.phase1End = b.sendCommit { rd with f := unionOf rd.views ||| rd.v ||| b.quorum.silent rd.views } 1 := by
  simp only [Blk.phase1End, h, if_neg (not_not_intro hp)]

theorem phase2End_other (hp : rd.phase ≠ 2) : b.phase2End = b := by simp only [Blk.phase2End, h, if_pos hp]

section
variable (hp : rd.phase = 2)
include hp

theorem phase2End_decides (hd : b.quorum.decides rd.commit1 rd.f = true) : b.phase2End = b.decide_ rd := by
  simp only [Blk.phase2End, h, if_neg (not_not_intro hp), hd, if_true]

theorem phase2End_commits (hd : b.quorum.decides rd.commit1 rd.f = false) : b.phase2End = b.sendCommit
    { rd with f := rd.f ||| (unionOf rd.commit1 ||| unionOf rd.commit2) ||| (b.quorum.silent rd.commit1 &&& b.quorum.silent rd.commit2) }
    2 := by
  simp only [Blk.phase2End, h, if_neg (not_not_intro hp), hd, Bool.false_eq_true, if_false]

end

theorem phase3End_other (hp : rd.phase ≠ 3) : b.phase3End = b := by simp only [Blk.phase3End, h, if_pos hp]

section
variable (hp : rd.phase = 3)
include hp

theorem phase3End_decides (hd : b.quorum.decides rd.commit2 rd.f = true) : b.phase3End = b.decide_ rd := by
  simp only [Blk.phase3End, h, if_neg (not_not_intro hp), hd, if_true]

theorem phase3End_fails (hd : b.quorum.decides rd.commit2 rd.f = false) : b.phase3End = b.noQuorum rd := by
  simp only [Blk.phase3End, h, if_neg (not_not_intro hp), hd, Bool.false_eq_true, if_false]

end
end
end

/-! ### The group table -/

section
variable {b : Blk} {ch : Channel} {sub n : Nat}

theorem writeQuorumEn_range (h : 1 < n) : b.writeQuorumEn n = (b, abRange) := if_pos h

theorem writeQuorumEn_on : b.writeQuorumEn 1 =
    ({ b with quorum := { b.quorum with en := true, selfOut := b.quorum.selfOut && b.quorum.en } }, 0) := rfl

theorem writeQuorumEn_off (h : b.quorum.cur = none) : b.writeQuorumEn 0 =
    ({ b with quorum := { b.quorum with en := false, cur := none, held := 0#32 } }, 0) := by
  simp only [Blk.writeQuorumEn, h]
  rfl

theorem writeQuorumEn_stops {rd : Round} (h : b.quorum.cur = some rd) : b.writeQuorumEn 0 =
    (Blk.raiseS { b with quorum := { b.quorum with en := false, cur := none, held := 0#32 } } 0x33 0 none rd.number.toNat 2 rd.f.toNat, 0) := by
  simp only [Blk.writeQuorumEn, h]
  rfl

theorem writeGroup_en : b.writeGroup ch 0x01 n = b.writeQuorumEn n := rfl

theorem writeGroup_rejoins : b.writeGroup ch 0x0A n = (b.rejoined (BitVec.ofNat 32 n), 0) := rfl

theorem writeGroup_busy (hc : b.quorum.cur ≠ none) (h2 : 2 ≤ sub) (h7 : sub ≤ 7) : b.writeGroup ch sub n = (b, abState) :=
  if_pos (by simp [h2, h7, Option.isSome_iff_ne_none.mpr hc])

theorem writeGroup_none (h : sub ∉ [0x01, 0x02, 0x03, 0x04, 0x05, 0x06, 0x07, 0x0A]) : b.writeGroup ch sub n = (b, abNoSub) := by
  simp only [List.mem_cons, List.not_mem_nil, or_false, not_or] at h
  obtain ⟨h1, h2, h3, h4, h5, h6, h7, ha⟩ := h
  have hrange : (decide (0x02 ≤ sub) && decide (sub ≤ 0x07) && b.quorum.cur.isSome) = false := by
    have : ¬ (2 ≤ sub ∧ sub ≤ 7) := by omega
    rw [← Bool.decide_and, decide_eq_false this, Bool.false_and]
  simp only [Blk.writeGroup, hrange, Bool.false_eq_true, if_false]
  rfl

/-- A value outside the bounds of an interval of the quorum. -/
theorem bounds_out {lo hi : Nat} (h : n < lo ∨ hi < n) : ¬ (decide (lo ≤ n) && decide (n ≤ hi)) = true := by
  rw [← Bool.decide_and, decide_eq_true_eq]
  omega

section
variable (hc : b.quorum.cur = none)
include hc

theorem roundTest_none : (decide (0x02 ≤ sub) && decide (sub ≤ 0x07) && b.quorum.cur.isSome) = false := by
  rw [hc, Option.isSome_none, Bool.and_false]

theorem writeGroup_self (hn : n < 32) (hs : qmCoord (b.quorum.member n) = b.self) :
    b.writeGroup ch 0x02 n = ({ b with quorum := { b.quorum with self := n } }, 0) := by
  simp only [Blk.writeGroup, roundTest_none hc, Bool.false_eq_true, if_false, decide_eq_true hn, decide_eq_true hs, Bool.and_self, if_true]
  rfl

theorem writeGroup_self_range (h : 32 ≤ n ∨ qmCoord (b.quorum.member n) ≠ b.self) : b.writeGroup ch 0x02 n = (b, abRange) := by
  simp only [Blk.writeGroup, roundTest_none hc, Bool.false_eq_true, if_false]
  refine if_neg ?_
  rw [← Bool.decide_and, decide_eq_true_eq, Classical.not_and_iff_not_or_not]
  exact h.imp_left Nat.not_lt.mpr

theorem writeGroup_interval (h1 : 10 ≤ n) (h2 : n ≤ 500) :
    b.writeGroup ch 0x03 n = ({ b with quorum := { b.quorum with hbInterval := n } }, 0) := by
  simp only [Blk.writeGroup, roundTest_none hc, Bool.false_eq_true, if_false, decide_eq_true h1, decide_eq_true h2, Bool.and_self, if_true]
  rfl

theorem writeGroup_interval_range (h : n < 10 ∨ 500 < n) : b.writeGroup ch 0x03 n = (b, abRange) := by
  simp only [Blk.writeGroup, roundTest_none hc, Bool.false_eq_true, if_false]
  exact if_neg (bounds_out h)

theorem writeGroup_miss (h1 : 2 ≤ n) (h2 : n ≤ 16) : b.writeGroup ch 0x04 n = ({ b with quorum := { b.quorum with hbMiss := n } }, 0) := by
  simp only [Blk.writeGroup, roundTest_none hc, Bool.false_eq_true, if_false, decide_eq_true h1, decide_eq_true h2, Bool.and_self, if_true]
  rfl

theorem writeGroup_miss_range (h : n < 2 ∨ 16 < n) : b.writeGroup ch 0x04 n = (b, abRange) := by
  simp only [Blk.writeGroup, roundTest_none hc, Bool.false_eq_true, if_false]
  exact if_neg (bounds_out h)

theorem writeGroup_phase (h1 : 100 ≤ n) (h2 : n ≤ 400) : b.writeGroup ch 0x05 n = ({ b with quorum := { b.quorum with phase := n } }, 0) := by
  simp only [Blk.writeGroup, roundTest_none hc, Bool.false_eq_true, if_false, decide_eq_true h1, decide_eq_true h2, Bool.and_self, if_true]
  rfl

theorem writeGroup_phase_range (h : n < 100 ∨ 400 < n) : b.writeGroup ch 0x05 n = (b, abRange) := by
  simp only [Blk.writeGroup, roundTest_none hc, Bool.false_eq_true, if_false]
  exact if_neg (bounds_out h)

theorem writeGroup_select (h : n < 32) : b.writeGroup ch 0x06 n = (b.modSels ch fun x => { x with member := n }, 0) := by
  simp only [Blk.writeGroup, roundTest_none hc, Bool.false_eq_true, if_false, if_pos h]
  rfl

theorem writeGroup_select_range (h : 32 ≤ n) : b.writeGroup ch 0x06 n = (b, abRange) := by
  simp only [Blk.writeGroup, roundTest_none hc, Bool.false_eq_true, if_false, if_neg (Nat.not_lt.mpr h)]
  rfl

theorem writeGroup_member : b.writeGroup ch 0x07 n = ({ b with quorum := { b.quorum with
    members := b.quorum.members.put (b.sels ch).member (BitVec.ofNat 64 (n % 2 ^ 41)) } }, 0) := by
  simp only [Blk.writeGroup, roundTest_none hc, Bool.false_eq_true, if_false]
  rfl

end
end

/-- Settles O41. -/
theorem quorumCommands : Obligations.QuorumCommands := by
  unfold Obligations.QuorumCommands
  intro s ch q
  refine ⟨fun hr => ⟨fun he ho => ?_, fun h => ?_⟩, ?_, ?_, fun hr => ⟨fun h => ?_, ?_⟩, fun hr => ⟨fun h => ?_, fun x b h => ?_⟩,
    fun hr => ⟨fun h => ?_, fun x b h => ?_⟩, fun hr => ⟨fun h => ?_, ?_⟩, fun hc => ⟨fun hr => ?_, fun hr => ?_, fun hr => ?_⟩,
    fun rd hc => ⟨fun hr => ⟨fun hp => ?_, fun hp => ?_⟩, fun hr => ⟨fun hp => ?_, fun hp hd => ?_, fun hp hd => ?_⟩,
      fun hr => ⟨fun hp => ?_, fun hp hd => ?_, fun hp hd => ?_⟩⟩, ?_, fun m ha => ?_⟩
  · show execHeartbeatSend s = _
    exact mesh_becomes hr (heartbeatSend_sends he ho)
  · show execHeartbeatSend s = _
    exact mesh_becomes hr (heartbeatSend_silent h)
  · intro b m x b' h
    exact ⟨fun hl => qSend_eq.trans (quorumOut_nowhere (b := outNoted b m x) hl),
      fun e p half c hl hk hout => qSend_eq.trans (quorumOut_sends (b := outNoted b m x) hl hk hout)⟩
  · intro m hr b counts
    refine ⟨fun h hc => ?_, fun h hc => ?_, fun h => ?_⟩
    · show execHeartbeatMiss m s = _
      exact mesh_becomes hr (suspect_joins h hc)
    · show execHeartbeatMiss m s = _
      exact mesh_becomes hr (suspect_held h hc)
    · show execHeartbeatMiss m s = _
      exact mesh_becomes hr (suspect_no h)
  · show execQuorumDfpReceive s = _
    exact mesh_becomes hr (quorumReceive_none h)
  · intro x rest h b member
    have hcheck : ∀ {c : Blk}, (rawTaken s.blk rest).quorumCheck x = c → exec .quorumDfpReceive s = become s c := by
      intro c hc
      show execQuorumDfpReceive s = _
      exact mesh_becomes hr ((quorumReceive_checks h).trans hc)
    exact ⟨fun hk => hcheck (quorumCheck_kind hk), fun h1 h3 => ⟨fun hg => hcheck (quorumCheck_group h1 h3 hg), fun hg =>
      ⟨fun hm => hcheck (quorumCheck_stranger h1 h3 hg hm), fun hm ho => hcheck (quorumCheck_out h1 h3 hg hm ho),
        fun hm he ho => hcheck (quorumCheck_good h1 h3 hg hm he ho)⟩⟩⟩
  · show execHeartbeat s = _
    exact mesh_becomes hr (heartbeat_none h)
  · show execHeartbeat s = _
    exact mesh_becomes hr (heartbeat_rounds h)
  · show execView s = _
    exact mesh_becomes hr (view_none h)
  · have hview : ∀ {c : Blk}, (b.joinFor x).inRound x.round (viewed x) = c → exec .view s = become s c := by
      intro c hc
      show execView s = _
      exact mesh_becomes hr ((view_takes h).trans hc)
    refine ⟨fun hle => ⟨fun hc => ?_, fun rd hc => ⟨fun hn => ?_, fun hn => ?_⟩⟩, fun hlt => ?_⟩
    · exact hview ((joinFor_inRound_old hle).trans (inRound_none hc _))
    · exact hview ((joinFor_inRound_old hle).trans (inRound_own hc hn))
    · exact hview ((joinFor_inRound_old hle).trans (inRound_other hc hn))
    · exact hview (congrArg (·.inRound x.round (viewed x)) (joinFor_new hlt))
  · show execCommit s = _
    exact mesh_becomes hr (commit_none h)
  · intro x b h takes
    have hcommit : ∀ {c : Blk}, (b.joinFor x).inRound x.round (committed x) = c → exec .commit s = become s c := by
      intro c hc
      show execCommit s = _
      exact mesh_becomes hr ((commit_takes h).trans hc)
    refine ⟨fun hle => ⟨fun hc => ?_, fun rd hc => ⟨fun hn => ?_, fun hn => ?_⟩⟩, fun hlt => ?_⟩
    · exact hcommit ((joinFor_inRound_old hle).trans (inRound_none hc _))
    · exact hcommit ((joinFor_inRound_old hle).trans (inRound_own hc hn))
    · exact hcommit ((joinFor_inRound_old hle).trans (inRound_other hc hn))
    · exact hcommit (congrArg (·.inRound x.round (committed x)) (joinFor_new hlt))
  · show execQuorumPhase1End s = _
    exact mesh_becomes hr (phase1End_none hc)
  · show execQuorumPhase2End s = _
    exact mesh_becomes hr (phase2End_none hc)
  · show execQuorumPhase3End s = _
    exact mesh_becomes hr (phase3End_none hc)
  · show execQuorumPhase1End s = _
    exact mesh_becomes hr (phase1End_other hc hp)
  · show execQuorumPhase1End s = _
    exact mesh_becomes hr (phase1End_commits hc hp)
  · show execQuorumPhase2End s = _
    exact mesh_becomes hr (phase2End_other hc hp)
  · show execQuorumPhase2End s = _
    exact mesh_becomes hr (phase2End_decides hc hp hd)
  · show execQuorumPhase2End s = _
    exact mesh_becomes hr (phase2End_commits hc hp hd)
  · show execQuorumPhase3End s = _
    exact mesh_becomes hr (phase3End_other hc hp)
  · show execQuorumPhase3End s = _
    exact mesh_becomes hr (phase3End_decides hc hp hd)
  · show execQuorumPhase3End s = _
    exact mesh_becomes hr (phase3End_fails hc hp hd)
  · intro sub v ha now set range n
    have hwrite : ∀ {b : Blk} {a : Nat}, s.blk.writeGroup ch sub n = (b, a) → now = become s (b.answer a) := by
      intro b a h
      show execQuorumGroupWrite ch sub v s = _
      exact od_answers ha h
    refine ⟨?_, fun hc h2 h7 => hwrite (writeGroup_busy hc h2 h7), fun hc => ⟨?_, ?_, ?_, ?_, ?_, ?_, ?_, ?_, ?_, ?_, ?_⟩, ?_,
      fun h => hwrite (writeGroup_none h)⟩
    · rintro rfl
      refine ⟨fun h => hwrite (writeQuorumEn_range h), fun h => ?_, fun h hc => ?_, fun rd h hc => ?_⟩
      · exact hwrite ((congrArg s.blk.writeQuorumEn h).trans writeQuorumEn_on)
      · exact hwrite ((congrArg s.blk.writeQuorumEn h).trans (writeQuorumEn_off hc))
      · exact hwrite ((congrArg s.blk.writeQuorumEn h).trans (writeQuorumEn_stops hc))
    · rintro rfl hn hs
      exact hwrite (writeGroup_self hc hn hs)
    · rintro rfl h
      exact hwrite (writeGroup_self_range hc h)
    · rintro rfl h1 h2
      exact hwrite (writeGroup_interval hc h1 h2)
    · rintro rfl h
      exact hwrite (writeGroup_interval_range hc h)
    · rintro rfl h1 h2
      exact hwrite (writeGroup_miss hc h1 h2)
    · rintro rfl h
      exact hwrite (writeGroup_miss_range hc h)
    · rintro rfl h1 h2
      exact hwrite (writeGroup_phase hc h1 h2)
    · rintro rfl h
      exact hwrite (writeGroup_phase_range hc h)
    · rintro rfl h
      exact hwrite (writeGroup_select hc h)
    · rintro rfl h
      exact hwrite (writeGroup_select_range hc h)
    · rintro rfl
      exact hwrite (writeGroup_member hc)
    · rintro rfl
      exact hwrite writeGroup_rejoins
  · show execRejoin ch m s = _
    have hm : BitVec.ofNat 32 m.toNat = m := by simp
    exact od_answers ha (writeGroup_rejoins.trans (by rw [hm]; rfl))

end Sys2Proof.Quorums
end


section
/-! Start-up, self-tests and firmware (R352–R368). -/
namespace Sys2Proof.Boot
open Sys2Proof Sys2Proof.Machine Sys2Proof.Safety Sys2Proof.Laws Sys2Proof.Acts

section
variable {s : State} {b : Blk} {ok : Bool}

/-! ### The stages of start-up -/

theorem startup_plain {c : Blk} (hn : Named s (.startupStageDone ok)) (ht : s.trip.tripped = false) (h : s.blk.stageDone ok = c) :
    exec (.startupStageDone ok) s = become s c := by
  show execStartupStageDone ok s = _
  rw [execStartupStageDone, at_named hn, ← h]
  exact if_neg (by simp [ht])

theorem startup_tripped {c : Blk} (hn : Named s (.startupStageDone ok)) (ht : s.trip.tripped = true) (h : s.blk.stageTripped ok = c) :
    exec (.startupStageDone ok) s = become s c := by
  show execStartupStageDone ok s = _
  rw [execStartupStageDone, at_named hn, ← h]
  exact if_pos ht

theorem startup_either {c : Blk} (hn : Named s (.startupStageDone ok)) (h : s.blk.stageDone ok = c) (k : s.blk.stageTripped ok = c) :
    exec (.startupStageDone ok) s = become s c := by
  cases ht : s.trip.tripped
  · exact startup_plain hn ht h
  · exact startup_tripped hn ht k

/-- A trip takes nothing from stages 1 and 2 (R408). -/
theorem stageTripped_early (h : b.fw.stage = .stage 1 ∨ b.fw.stage = .stage 2) : b.stageTripped ok = b.stageDone ok := by
  rcases h with h | h <;> simp only [Blk.stageTripped, h]

/-- The block is in a stage of start-up. -/
def staged (b : Blk) (n : Nat) : Blk := { b with fw := { b.fw with stage := .stage n } }

theorem stageDone_identifies (h : b.fw.stage = .stage 1) (hs : b.seedWaits = false) : b.stageDone ok = staged b.identify 2 := by
  simp only [Blk.stageDone, h, hs, Bool.false_eq_true, if_false]
  rfl

theorem stageDone_seedWaits (h : b.fw.stage = .stage 1) (hs : b.seedWaits = true) : b.stageDone ok = b := by
  simp only [Blk.stageDone, h, hs, if_true]

theorem stageDone_flash (h : b.fw.stage = .stage 2) : b.stageDone true = staged b 3 := by
  simp only [Blk.stageDone, h, if_true]
  rfl

theorem stageDone_flashFail (h : b.fw.stage = .stage 2) :
    b.stageDone false = { b.raiseS 0x79 0 none with fw := { b.fw with stage := .flashFail } } := by
  simp only [Blk.stageDone, h, Bool.false_eq_true, if_false]

theorem stageDone_outside (h : b.fw.stage = .held ∨ b.fw.stage = .done ∨ b.fw.stage = .recovery ∨ b.fw.stage = .flashFail) :
    b.stageDone ok = b ∧ b.stageTripped ok = b := by
  rcases h with h | h | h | h
  · exact ⟨by simp only [Blk.stageDone, h], by simp only [Blk.stageTripped, h]⟩
  · exact ⟨by simp only [Blk.stageDone, h], by simp only [Blk.stageTripped, h]⟩
  · exact ⟨by simp only [Blk.stageDone, h], by simp only [Blk.stageTripped, h]⟩
  · exact ⟨by simp only [Blk.stageDone, h], by simp only [Blk.stageTripped, h]⟩

/-- Past stage 3 a tripped block goes no further (R408). -/
theorem stageTripped_late (h : ∀ n, b.fw.stage = .stage n → 3 < n) : b.stageTripped ok = b := by
  unfold Blk.stageTripped
  split
  · exact absurd (h 1 (by assumption)) (by decide)
  · exact absurd (h 2 (by assumption)) (by decide)
  · exact absurd (h 3 (by assumption)) (by decide)
  · rfl

theorem stageDone_boots (h : b.fw.stage = .stage 3) : b.stageDone ok = b.bootImage := by simp only [Blk.stageDone, h]

theorem stageTripped_boots (h : b.fw.stage = .stage 3) : b.stageTripped ok = b.bootTripped := by simp only [Blk.stageTripped, h]

theorem bootImage_none (h : b.fw.choose = none) :
    b.bootImage = { b with fw := { b.fw.tryTrial with stage := .recovery }, host := { b.host with busy := false } } := by
  simp only [Blk.bootImage, h]

theorem bootTripped_none (h : b.fw.choose = none) :
    b.bootTripped = { b with fw := { b.fw with stage := .recovery }, host := { b.host with busy := false } } := by
  simp only [Blk.bootTripped, h]

/-- An image has been started: its slot runs, its version stands. -/
def Booted (slot : Bool) (f : Firmware) (c : Blk) : Prop :=
  c.fw.stage = .stage 4 ∧ c.fw.running = slot ∧ c.mgmt.fwVersion = BitVec.ofNat 32 (imgVersion (f.slot slot))

section
variable {slot rev : Bool} {f : Firmware}

theorem Booted.raiseS (h : Booted slot f b) (type d0 : Nat) : Booted slot f (b.raiseS type 0 none d0) := h

theorem Booted.rollback (h : Booted slot f b) (k : Nat) : Booted slot f { b with fw := { b.fw with rollback := k } } := h

/-- The rollback count that an image raises changes nothing else of what runs. -/
theorem Booted.raiseRollback (h : Booted slot f b) (svn : Nat) : Booted slot f (b.raiseRollback svn) := by
  have heach : Booted slot f (b.each ((List.range (svn - b.fw.rollback)).map fun i => b.fw.rollback + 1 + i) fun b k =>
      { b.raiseS 0x74 0 none k with fw := { b.fw with rollback := k } }) := Idle.each_induction _ _ h fun _ _ hb => hb
  unfold Blk.raiseRollback
  dsimp only
  split
  · exact heach
  · exact heach

theorem bootImage_boots (h : b.fw.choose = some (slot, rev, f)) : Booted slot f b.bootImage := by
  have hstart : ∀ trial : Bool, Booted slot f { b with
      fw := { f with running := slot, trialRun := trial, stage := .stage 4 },
      mgmt := { b.mgmt with fwVersion := BitVec.ofNat 32 (imgVersion (f.slot slot)) } } := fun _ => ⟨rfl, rfl, rfl⟩
  simp only [Blk.bootImage, h]
  split
  · split
    · exact (hstart _).raiseS _ _
    · exact hstart _
  · split
    · exact ((hstart _).raiseS _ _).raiseRollback _
    · exact (hstart _).raiseRollback _

theorem bootTripped_boots (h : b.fw.choose = some (slot, rev, f)) : Booted slot f b.bootTripped := by
  simp only [Blk.bootTripped, h]
  split <;> exact ⟨rfl, rfl, rfl⟩

end

theorem stageDone_replays (h : b.fw.stage = .stage 4) : b.stageDone ok = staged b.replay 5 := by
  simp only [Blk.stageDone, h]
  rfl

theorem stageDone_tests (h : b.fw.stage = .stage 5) :
    b.stageDone ok = { staged b 6 with power := { b.power with testing := b.member.clusters } } := by
  simp only [Blk.stageDone, h]
  rfl

theorem stageDone_tested (h : b.fw.stage = .stage 6) (ht : b.power.testing = []) : b.stageDone ok = staged b 7 := by
  simp only [Blk.stageDone, h, ht, List.isEmpty_nil, if_true]
  rfl

theorem stageDone_testing (h : b.fw.stage = .stage 6) (ht : b.power.testing ≠ []) : b.stageDone ok = b := by
  simp only [Blk.stageDone, h]
  exact if_neg (by simpa using ht)

/-- Start-up is over. -/
def started (b : Blk) : Blk := { b with fw := { b.fw with stage := .done }, host := { b.host with busy := false } }

theorem stageDone_ends (h : b.fw.stage = .stage 7) :
    b.stageDone ok = (started b).raiseS 0x70 0 none b.mgmt.boot.toNat (if b.fw.running then 1 else 0) b.mgmt.fwVersion.toNat := by
  simp only [Blk.stageDone, h]
  rfl

end

/-! ### Self-tests -/

section
variable {b : Blk} {c : Nat}

theorem hangEvent_power (e : Event) : (b.hangEvent e).power = b.power := by
  unfold Blk.hangEvent
  split <;> rfl

theorem raiseS_power {type plot d0 d1 d2 d3 : Nat} {tile : Option Nat} : (b.raiseS type plot tile d0 d1 d2 d3).power = b.power :=
  hangEvent_power _

theorem faultEvent_power (f : Failover) (outcome : Nat) : (b.faultEvent f outcome).power = b.power := by
  unfold Blk.faultEvent
  exact Idle.each_induction (P := fun c => c.power = b.power) _ _ rfl fun _ _ h => (hangEvent_power _).trans h

theorem tellFault_power (f : Failover) (outcome : Nat) : (b.tellFault f outcome).power = b.power := by
  unfold Blk.tellFault
  split
  · rfl
  · exact faultEvent_power _ _

theorem failWait_power (f : Failover) : (b.failWait f).power = b.power := faultEvent_power _ _

theorem startFailover_power (f : Failover) : (b.startFailover f).power = b.power := by
  unfold Blk.startFailover
  split
  · exact tellFault_power _ _
  · rfl

theorem swapCancel_power (reason : Nat) (dest : ShadowState) : (b.swapCancel reason dest).power = b.power := rfl

theorem failover_power (f : Failover) : (b.failover f).power = b.power := by
  have hcancel : ((b.swapCancel rsFault .free).startFailover f).power = b.power := startFailover_power f
  unfold Blk.failover
  split
  · exact failWait_power f
  · split
    · exact startFailover_power f
    · exact startFailover_power f
    · exact failWait_power f
    · exact hcancel
    · exact hcancel
    · split
      · exact hcancel
      · exact failWait_power f

theorem hangDump_power (k : Nat) : (b.hangDump k).power = b.power := by
  unfold Blk.hangDump
  split <;> rfl

theorem hangFreeze_power (cls res : Nat) : (b.hangFreeze cls res).power = b.power := by
  have heach : ∀ ts : List Nat, (b.each ts fun b t =>
      (b.modTile t fun x => { x with ob := { x.ob with frozen := true } }).note (.set (.frozen t))).power = b.power :=
    fun ts => Idle.each_induction (P := fun c => c.power = b.power) _ _ rfl fun _ _ h => h
  unfold Blk.hangFreeze
  dsimp only
  split
  · exact (hangDump_power _).trans (heach _)
  · split
    · exact (hangDump_power _).trans (heach _)
    · exact heach _

/-- The resource that fails and its fences. -/
def failedFenced (b : Blk) (cls res : Nat) : Blk :=
  Blk.each { b with fault := { b.fault with failed := (b.fault.failed.filter fun r => r ≠ (cls, res)) ++ [(cls, res)] } }
    (resourceFences cls res) fun b x => b.fence x.1 x.2

theorem failedFenced_power (cls res : Nat) : (failedFenced b cls res).power = b.power :=
  Idle.each_induction (P := fun c => c.power = b.power) _ _ rfl fun _ _ h => h

/-- What is declared failed touches no power state. -/
theorem declare_power (cls res : Nat) : (b.declare cls res).power = b.power := by
  have hfenced := failedFenced_power (b := b) cls res
  unfold failedFenced at hfenced
  unfold Blk.declare
  split
  · rfl
  · refine (hangFreeze_power _ _).trans ?_
    split
    · exact (faultEvent_power _ _).trans hfenced
    · split
      · exact (faultEvent_power _ _).trans hfenced
      · exact (failover_power _).trans hfenced

theorem testedZero_power : (b.testedZero c).power = b.power :=
  Idle.each_induction (P := fun d => d.power = b.power) _ _ rfl fun _ _ h => h

theorem selfTestDone_other {r : Nat} (h : b.clusterTested c = false) : b.selfTestDone c r = b := if_pos (by simp [h])

/-- What a self-test writes to the power state. -/
def testedPower (p : Power) (c r : Nat) : Power :=
  { p with testing := p.testing.filter (· ≠ c), stResult := p.stResult.put c (BitVec.ofNat 8 r),
           stFailed := if r = 0 then p.stFailed &&& ~~~BitVec.ofNat 64 (2 ^ c) else p.stFailed ||| BitVec.ofNat 64 (2 ^ c) }

/-- The end of a self-test with power state `p`: the cluster is zeroed, told, and failed where it did not pass. -/
def testEnded (b : Blk) (p : Power) (c r : Nat) : Blk :=
  let b := (Blk.testedZero { b with power := p } c).raiseS 0x71 0 none c r
  if r = 0 then b else b.declare fcCluster c

theorem testEnded_power {p : Power} {r : Nat} : (testEnded b p c r).power = p := by
  have hzero : ((Blk.testedZero { b with power := p } c).raiseS 0x71 0 none c r).power = p :=
    (raiseS_power (b := Blk.testedZero { b with power := p } c)).trans testedZero_power
  unfold testEnded
  dsimp only
  split
  · exact hzero
  · exact (declare_power _ _).trans hzero

/-- In operation the cluster's return to FALLOW is queued. -/
def testedQueued (b : Blk) (c r : Nat) : Power :=
  let p := testedPower b.power c r
  let d := b.member.dieOfCluster c
  if b.fw.stage = .done then
    { p with queues := p.queues.put d (p.queues.getD d [] ++
        [{ unit := .selfTest c false, ended := 0, stages := 1, running := false, readyAt := b.clk.mc, waited := 0, step := 30 }]) }
  else p

theorem selfTestDone_ends {r : Nat} (h : b.clusterTested c = true) : b.selfTestDone c r = testEnded b (testedQueued b c r) c r := by
  unfold testEnded testedQueued testedPower
  simp only [Blk.selfTestDone, h, Bool.not_true, Bool.false_eq_true, if_false]

theorem testedQueued_power {r : Nat} : (testedQueued b c r).testing = (testedPower b.power c r).testing ∧
    (testedQueued b c r).stResult = (testedPower b.power c r).stResult ∧
    (testedQueued b c r).stFailed = (testedPower b.power c r).stFailed := by
  unfold testedQueued
  dsimp only
  split <;> exact ⟨rfl, rfl, rfl⟩

theorem selfTestDone_power {r : Nat} (h : b.clusterTested c = true) :
    (b.selfTestDone c r).power.testing = b.power.testing.filter (· ≠ c) ∧
    (b.selfTestDone c r).power.stResult.getD c 0#8 = BitVec.ofNat 8 r ∧
    (b.selfTestDone c r).power.stFailed = (testedPower b.power c r).stFailed := by
  obtain ⟨htesting, hresult, hfailed⟩ := testedQueued_power (b := b) (c := c) (r := r)
  rw [selfTestDone_ends h, testEnded_power, htesting, hresult, hfailed]
  exact ⟨rfl, getD_put_same _ _ _ _, rfl⟩

theorem testedPower_failed {p : Power} {r : Nat} (hc : c < 64) : flag (testedPower p c r).stFailed c = true ↔ r ≠ 0 := by
  have hbit : (BitVec.ofNat 64 (2 ^ c)).getLsbD c = true := by
    rw [BitVec.getLsbD_ofNat, Nat.testBit_two_pow_self]
    simpa using hc
  unfold testedPower flag
  dsimp only
  split
  · rename_i h0
    simp only [BitVec.getLsbD_and, BitVec.getLsbD_not, hbit, Bool.not_true, Bool.and_false, Bool.false_eq_true, h0, ne_eq,
      not_true_eq_false]
  · rename_i h0
    simp only [BitVec.getLsbD_or, hbit, Bool.or_true, h0, ne_eq, not_false_eq_true]

theorem selfTestStart_refused (h : b.cluster c ≠ .fallow ∨ b.member.hasCluster c = false ∨ b.clusterMoving c = true ∨
      b.clusterTested c = true ∨ (clusterTiles c).any (fun t => (b.ownerOf t).isSome) = true) : b.selfTestStart c 1 = (b, abState) := by
  refine (if_neg (by decide)).trans (if_pos ?_)
  simpa only [Bool.or_eq_true, decide_eq_true_eq, Bool.not_eq_true', or_assoc] using h

theorem selfTestStart_queues (hf : b.cluster c = .fallow) (hh : b.member.hasCluster c = true) (hm : b.clusterMoving c = false)
    (ht : b.clusterTested c = false) (ho : (clusterTiles c).all (fun t => (b.ownerOf t).isNone) = true) : b.selfTestStart c 1 =
    ({ b with power := { b.power with
      queues := b.power.queues.put (b.member.dieOfCluster c) (b.power.queues.getD (b.member.dieOfCluster c) [] ++
        [{ unit := .selfTest c true, ended := 0, stages := 1, running := false, readyAt := b.clk.mc, waited := 0, step := 30 }]) } }, 0) := by
  have hfree : (clusterTiles c).any (fun t => (b.ownerOf t).isSome) = false := by
    rw [List.any_eq_false]
    intro t hmem
    rw [Option.isNone_iff_eq_none.mp (List.all_eq_true.mp ho t hmem)]
    decide
  refine (if_neg (by decide)).trans (if_neg ?_)
  rw [hf, hh, hm, ht, hfree]
  decide

end

/-- Settles O46. -/
theorem startUp : Obligations.StartUp := by
  unfold Obligations.StartUp
  intro s ok b dest
  refine ⟨fun hn => ⟨fun h hs => ?_, fun h hs => ?_, fun h => ?_, ?_, ?_, fun h hc => ?_, fun slot rev f h hc => ?_, fun ht => ⟨fun h => ?_, fun h => ?_,
    fun h ht' => ?_, fun h ht' => ?_, fun h => ?_⟩, fun ht h => ?_⟩, fun c r hr ht => ?_, fun c r hr ht => ?_, ?_, ?_⟩
  · exact startup_either hn (stageDone_identifies h hs) ((stageTripped_early (.inl h)).trans (stageDone_identifies h hs))
  · exact startup_either hn (stageDone_seedWaits h hs) ((stageTripped_early (.inl h)).trans (stageDone_seedWaits h hs))
  · exact startup_either hn (stageDone_outside h).1 (stageDone_outside h).2
  · rintro h rfl
    exact startup_either hn (stageDone_flash h) ((stageTripped_early (.inr h)).trans (stageDone_flash h))
  · rintro h rfl
    exact ⟨_, startup_either hn (stageDone_flashFail h) ((stageTripped_early (.inr h)).trans (stageDone_flashFail h)), rfl⟩
  · cases ht : s.trip.tripped
    · exact startup_plain hn ht ((stageDone_boots h).trans (bootImage_none hc))
    · exact startup_tripped hn ht ((stageTripped_boots h).trans (bootTripped_none hc))
  · cases ht : s.trip.tripped
    · exact ⟨_, startup_plain hn ht (stageDone_boots h), bootImage_boots hc⟩
    · exact ⟨_, startup_tripped hn ht (stageTripped_boots h), bootTripped_boots hc⟩
  · exact startup_plain hn ht (stageDone_replays h)
  · exact ⟨_, startup_plain hn ht (stageDone_tests h), rfl, rfl⟩
  · exact startup_plain hn ht (stageDone_tested h ht')
  · exact startup_plain hn ht (stageDone_testing h ht')
  · exact ⟨_, startup_plain hn ht (stageDone_ends h), rfl, rfl⟩
  · exact startup_tripped hn ht (stageTripped_late h)
  · obtain ⟨htesting, hresult, hfailed⟩ := selfTestDone_power (r := r.toNat) ht
    have hc : c < 64 := of_decide_eq_true (show decide (c < 64) = true from hr.1.1)
    refine ⟨s.blk.selfTestDone c r.toNat, ?_, htesting, hresult.trans (by simp), ?_⟩
    · show execSelfTestDone c r s = _
      exact mesh_becomes hr rfl
    · rw [hfailed, testedPower_failed hc, ne_eq, ne_eq, ← BitVec.toNat_inj]
      rfl
  · show execSelfTestDone c r s = _
    exact mesh_becomes hr (selfTestDone_other ht)
  · intro ch c ha h
    show execSelfTestStart ch s = _
    exact od_answers ha (selfTestStart_refused h)
  · intro ch c ha hf hh hm ht ho
    show execSelfTestStart ch s = _
    exact od_answers ha (selfTestStart_queues hf hh hm ht ho)

section
variable {b : Blk} {ch : Channel}

/-! ### Firmware -/

theorem fwVerify_judges {st : FwSlotState} {r : Nat}
    (h : b.fw.slotState b.fw.inactive = .written ∨ b.fw.slotState b.fw.inactive = .verified ∨ b.fw.slotState b.fw.inactive = .bad)
    (hr : imgVerify (b.fw.slot b.fw.inactive) b.fw.rollback = r) (hst : (if r = 0 then FwSlotState.verified else .bad) = st) :
    b.fwCmd 1 = (Blk.fwStage { b with fw := { b.fw.setSlot b.fw.inactive (b.fw.slot b.fw.inactive) st with verifyRes := r } } 1 r, 0) := by
  show b.fwVerify = _
  have htest : (!(decide (b.fw.slotState b.fw.inactive = .written) || decide (b.fw.slotState b.fw.inactive = .verified) ||
      decide (b.fw.slotState b.fw.inactive = .bad))) = false := by
    rcases h with h | h | h <;> simp [h]
  simp only [Blk.fwVerify, htest, hr, hst, Bool.false_eq_true, if_false]
  rfl

theorem fwVerify_refused (h : b.fw.slotState b.fw.inactive = .empty ∨ b.fw.slotState b.fw.inactive = .partial_) :
    b.fwCmd 1 = (b, abState) := by
  show b.fwVerify = _
  exact if_pos (by rcases h with h | h <;> rw [h] <;> decide)

theorem fwActivate_names (hs : b.fw.slotState b.fw.inactive = .verified) (ht : b.fw.trialRun = false) (hf : b.fw.flashStop = false) :
    b.fwCmd 2 = (Blk.fwStage { b with fw := b.fw.writeDir b.fw.inactive (b.fw.stage ≠ BootStage.recovery) false } 2 0, 0) := by
  show b.fwActivate = _
  exact if_neg (by rw [hs, ht, hf]; decide)

theorem fwActivate_refused (h : b.fw.slotState b.fw.inactive ≠ .verified ∨ b.fw.trialRun = true ∨ b.fw.flashStop = true) :
    b.fwCmd 2 = (b, abState) := by
  show b.fwActivate = _
  exact if_pos (by simpa [or_assoc] using h)

theorem fwConfirm_ends (ht : b.fw.trialRun = true) (hf : b.fw.flashStop = false) : b.fwCmd 3 =
    ((Blk.raiseRollback { b with fw := { b.fw.writeDir b.fw.running false true with trialRun := false } }
      (imgSvn ((b.fw.writeDir b.fw.running false true).slot (b.fw.writeDir b.fw.running false true).running))).fwStage 3 0, 0) := by
  show b.fwConfirm = _
  exact if_neg (by rw [ht, hf]; decide)

theorem fwConfirm_refused (h : b.fw.trialRun = false ∨ b.fw.flashStop = true) : b.fwCmd 3 = (b, abState) := by
  show b.fwConfirm = _
  exact if_pos (by simpa using h)

theorem fwErase_empties (h : b.fwWritable = true) :
    b.fwCmd 4 = (Blk.fwStage { b with fw := b.fw.setSlot b.fw.inactive [] .empty } 4 0, 0) := by
  show b.fwErase = _
  exact if_neg (by rw [h]; decide)

theorem fwErase_refused (h : b.fwWritable = false) : b.fwCmd 4 = (b, abState) := by
  show b.fwErase = _
  exact if_pos (by rw [h]; rfl)

theorem compaction_due (hfull : b.fw.full = true) (hstop : b.fw.flashStop = false) :
    (if b.fw.full && !b.fw.flashStop then b.compact else b) = b.compact := if_pos (by rw [hfull, hstop]; rfl)

theorem compaction_idle (h : b.fw.full = false ∨ b.fw.flashStop = true) :
    (if b.fw.full && !b.fw.flashStop then b.compact else b) = b := if_neg (by rcases h with h | h <;> simp [h])

theorem transferOn_of_writable (h : b.fwWritable = true) : b.transferOn 0x4000 0x02 = false := by
  simp only [Blk.fwWritable, Bool.and_eq_true, Bool.not_eq_true'] at h
  exact h.1.2

end

/-- Settles O47. -/
theorem firmwareCommands : Obligations.FirmwareCommands := by
  unfold Obligations.FirmwareCommands
  intro s ch f k asked said no
  have hanswers : ∀ {c : Instr} {g : Blk → Od} {b : Blk} {a : Nat}, asked c → g s.blk = (b, a) →
      s.odFw c ch g = become s (b.answer a) := by
    rintro c g b a (h | ⟨hn, hs, rfl⟩) hg
    · exact odFw_answers h hg
    · exact Resets.odFw_recovery hn hs hg
  refine ⟨fun ha => ⟨fun hst => ⟨fun hr => ?_, fun hr => ?_⟩, fun hst => ?_⟩, fun ha => ⟨fun hst ht hf => ?_, fun h => ?_⟩,
    fun ha => ⟨fun ht hf => ?_, fun h => ?_⟩, fun ha => ⟨fun h => ?_, fun h => ?_⟩, fun n xcrc ha hpos hmax hx hw => ?_,
    fun hs => ⟨fun hfull hstop => ?_, fun h => ?_⟩⟩
  · show execVerify ch s = _
    exact hanswers ha (fwVerify_judges hst hr rfl)
  · show execVerify ch s = _
    exact hanswers ha (fwVerify_judges hst rfl (if_neg hr))
  · show execVerify ch s = _
    exact hanswers ha (fwVerify_refused hst)
  · show execActivate ch s = _
    exact hanswers ha (fwActivate_names hst ht hf)
  · show execActivate ch s = _
    exact hanswers ha (fwActivate_refused h)
  · show execConfirm ch s = _
    exact hanswers ha (fwConfirm_ends ht hf)
  · show execConfirm ch s = _
    exact hanswers ha (fwConfirm_refused h)
  · show execErase ch s = _
    exact hanswers ha (fwErase_empties h)
  · show execErase ch s = _
    exact hanswers ha (fwErase_refused h)
  · have hopens := Dictionary.domainOpen_image (i := 0x4000) (j := 0x02) (xcrc := xcrc) hx (transferOn_of_writable hw) hpos
      (Nat.le_trans hmax (by decide)) rfl hmax hw
    refine ⟨_, (show execFwImage ch n xcrc s = _ from hanswers ha hopens), ?_, ?_, ?_⟩
    · rw [Dictionary.setXfer_only_mgmt]
    · exact Dictionary.setXfer_sets
    · rw [Dictionary.setXfer_only_mgmt]
  · show execPstoreCompaction s = _
    exact steward_becomes hs (compaction_due hfull hstop)
  · show execPstoreCompaction s = _
    exact steward_becomes hs (compaction_idle h)

end Sys2Proof.Boot
end


section
/-! The host's window (R335–R348): DMA windows, event rings, the mailbox, and the access to a register. -/
namespace Sys2Proof.Window
open Sys2Proof Sys2Proof.Machine Sys2Proof.Safety Sys2Proof.Laws Sys2Proof.Acts

section
variable {b : Blk} {p q r : Nat}

/-! ### Windows and indices -/

section
variable {v : BitVec 128}

theorem writeDma_sets (hs : (b.plot p).state = .free ∨ (b.plot p).state = .bound) (hv : fld v 0 12 = 0) : b.writeDma p v =
    b.modPlot p fun x => { x with host := { x.host with
      dmaBase := BitVec.ofNat 64 (fld v 0 64), dmaPages := BitVec.ofNat 32 (fld v 64 32), dmaValid := flag v 96 } } := by
  refine if_neg ?_
  rcases hs with hs | hs <;> simp [hs, hv]

theorem writeDma_refused (h : (b.plot p).state ≠ .free ∧ (b.plot p).state ≠ .bound ∨ fld v 0 12 ≠ 0) :
    b.writeDma p v = b.countSys evBadAccess := if_pos (by simpa using h)

end

theorem writeCons_moves {v : BitVec 32} (h : ((b.ring r).prod - v).toNat ≤ ((b.ring r).prod - (b.ring r).cons).toNat) :
    b.writeCons r v = (b.modRing r fun x => { x with cons := v }).note (.cons r) := if_pos h

theorem writeCons_refused {v : BitVec 32} (h : ((b.ring r).prod - (b.ring r).cons).toNat < ((b.ring r).prod - v).toNat) :
    b.writeCons r v = b.countSys evBadAccess := if_neg (Nat.not_le.mpr h)

/-! ### An event ring -/

@[simp] theorem ring_modRing_same (f : Ring → Ring) : (b.modRing r f).ring r = f (b.ring r) := getD_put_same ..

theorem ring_modRing_other (f : Ring → Ring) (h : q ≠ r) : (b.modRing r f).ring q = b.ring q := getD_put_other _ _ _ _ _ h

theorem ring_note (n : McNote) : (b.note n).ring r = b.ring r := rfl

/-- A changed ring changes nothing but the rings. -/
theorem modRing_only (f : Ring → Ring) (rings : Tbl Ring) :
    { b.modRing r f with host := { (b.modRing r f).host with rings := rings } } = { b with host := { b.host with rings := rings } } := rfl

section
variable {v : BitVec 512}

/-- The size and the owner of a ring that is not enabled (R342). -/
def ringSized (b : Blk) (r : Nat) (v : BitVec 512) : Blk := b.modRing r fun x =>
  { x with sizeLog2 := min 20 (max 6 (fld v 64 5)), owner := if r = 0 then 0#8 else BitVec.ofNat 8 (fld v 72 8) }

/-- The base of a ring that is not enabled, where it is aligned. -/
def ringBase (x : Ring) (v : BitVec 512) : BitVec 64 := if fld v 0 12 = 0 then BitVec.ofNat 64 (fld v 0 64) else x.base

section
variable (h : (b.ring r).enable = false)
include h

theorem ringPlace_aligned (hv : fld v 0 12 = 0) :
    b.ringPlace r v = (ringSized b r v).modRing r fun x => { x with base := BitVec.ofNat 64 (fld v 0 64) } := by
  simp only [Blk.ringPlace, h, Bool.false_eq_true, if_false, if_neg (not_not_intro hv)]
  rfl

theorem ringPlace_unaligned (hv : fld v 0 12 ≠ 0) : b.ringPlace r v = (ringSized b r v).countSys evBadAccess := by
  simp only [Blk.ringPlace, h, Bool.false_eq_true, if_false, if_pos hv]
  rfl

theorem ringPlace_ring : (b.ringPlace r v).ring r = { b.ring r with
    sizeLog2 := min 20 (max 6 (fld v 64 5)), owner := if r = 0 then 0#8 else BitVec.ofNat 8 (fld v 72 8),
    base := ringBase (b.ring r) v } := by
  by_cases hv : fld v 0 12 = 0
  · rw [ringPlace_aligned h hv, ring_modRing_same, ringSized, ring_modRing_same, ringBase, if_pos hv]
  · rw [ringPlace_unaligned h hv, ringBase, if_neg hv]
    show (ringSized b r v).ring r = _
    exact ring_modRing_same _

theorem ringPlace_other (hq : q ≠ r) : (b.ringPlace r v).ring q = b.ring q := by
  by_cases hv : fld v 0 12 = 0
  · rw [ringPlace_aligned h hv, ring_modRing_other _ hq, ringSized, ring_modRing_other _ hq]
  · rw [ringPlace_unaligned h hv]
    show (ringSized b r v).ring q = _
    exact ring_modRing_other _ hq

/-- Placing a ring leaves the notes and what was raised before the first ring opened. -/
theorem ringPlace_kept : (b.ringPlace r v).mcLog = b.mcLog ∧ (b.ringPlace r v).host.ringOpen = b.host.ringOpen ∧
    (b.ringPlace r v).host.startBuf = b.host.startBuf ∧ (b.ringPlace r v).host.startLost = b.host.startLost := by
  by_cases hv : fld v 0 12 = 0
  · rw [ringPlace_aligned h hv]
    exact ⟨rfl, rfl, rfl, rfl⟩
  · rw [ringPlace_unaligned h hv]
    exact ⟨rfl, rfl, rfl, rfl⟩

end

theorem ringPlace_enabled (h : (b.ring r).enable = true) : (b.ringPlace r v).ring r = b.ring r := by
  simp only [Blk.ringPlace, h, if_true]
  exact (apply_ite (fun c : Blk => c.ring r) _ b (b.countSys evBadAccess)).trans (ite_self _)

/-- What a write of a ring sets whether it is enabled or not. -/
def ringSet (b : Blk) (r : Nat) (v : BitVec 512) : Blk := (b.ringPlace r v).modRing r fun x =>
  { x with irqEn := flag v 70, mask := BitVec.ofNat 16 (fld v 80 16),
           ovf := x.ovf && (!flag v 192 || b.noted (.set (.ringOvf r))), irqHold := fld v 208 8 }

/-- A ring that is enabled starts empty (R344). -/
def ringEnabled (b : Blk) (r : Nat) : Blk := b.modRing r fun x =>
  { x with enable := true, prod := 0#32, cons := 0#32, lost := 0#32, pendLoss := 0 }

theorem writeRing_enables (h : (b.ring r).enable = false) (hon : flag v 69 = true) : b.writeRing r v =
    if r = 0 && !(ringEnabled (ringSet b r v) r).host.ringOpen then (ringEnabled (ringSet b r v) r).ringOpens
    else ringEnabled (ringSet b r v) r := by
  simp only [Blk.writeRing, h, hon, Bool.not_false, Bool.and_self, if_true]
  rfl

theorem ringSet_open (h : (b.ring r).enable = false) : (ringSet b r v).host.ringOpen = b.host.ringOpen := (ringPlace_kept h).2.1

theorem writeRing_starts (h : (b.ring r).enable = false) (hon : flag v 69 = true) (hopen : r ≠ 0 ∨ b.host.ringOpen = true) :
    b.writeRing r v = ringEnabled (ringSet b r v) r := by
  rw [writeRing_enables h hon]
  refine if_neg ?_
  rw [show (ringEnabled (ringSet b r v) r).host.ringOpen = b.host.ringOpen from ringSet_open h]
  rcases hopen with hopen | hopen <;> simp [hopen]

theorem writeRing_opens (h : (b.ring 0).enable = false) (hon : flag v 69 = true) (hopen : b.host.ringOpen = false) :
    b.writeRing 0 v = (ringEnabled (ringSet b 0 v) 0).ringOpens := by
  rw [writeRing_enables h hon]
  refine if_pos ?_
  rw [show (ringEnabled (ringSet b 0 v) 0).host.ringOpen = b.host.ringOpen from ringSet_open h, hopen]
  rfl

/-- A ring that is disabled, or stays as it was. -/
def ringEnableSet (b : Blk) (r : Nat) (v : BitVec 512) : Blk := (ringSet b r v).modRing r fun x => { x with enable := flag v 69 }

theorem writeRing_keeps_on (h : (flag v 69 && !(b.ring r).enable) = false) : b.writeRing r v =
    if ((ringEnableSet b r v).ring r).cons = BitVec.ofNat 32 (fld v 128 32) then ringEnableSet b r v
    else (ringEnableSet b r v).writeCons r (BitVec.ofNat 32 (fld v 128 32)) := by
  simp only [Blk.writeRing, h, Bool.false_eq_true, if_false]
  rfl

theorem ringSet_ring : (ringSet b r v).ring r = { (b.ringPlace r v).ring r with
    irqEn := flag v 70, mask := BitVec.ofNat 16 (fld v 80 16),
    ovf := ((b.ringPlace r v).ring r).ovf && (!flag v 192 || b.noted (.set (.ringOvf r))), irqHold := fld v 208 8 } :=
  ring_modRing_same _

/-- What a write leaves of a ring that was not enabled. -/
theorem ringSet_place (h : (b.ring r).enable = false) : (ringSet b r v).ring r = { b.ring r with
    sizeLog2 := min 20 (max 6 (fld v 64 5)), owner := if r = 0 then 0#8 else BitVec.ofNat 8 (fld v 72 8),
    base := ringBase (b.ring r) v, irqEn := flag v 70, mask := BitVec.ofNat 16 (fld v 80 16),
    ovf := (b.ring r).ovf && (!flag v 192 || b.noted (.set (.ringOvf r))), irqHold := fld v 208 8 } := by
  rw [ringSet_ring, ringPlace_ring h]

theorem ringEnabled_ring (h : (b.ring r).enable = false) : (ringEnabled (ringSet b r v) r).ring r = { b.ring r with
    sizeLog2 := min 20 (max 6 (fld v 64 5)), owner := if r = 0 then 0#8 else BitVec.ofNat 8 (fld v 72 8),
    base := ringBase (b.ring r) v, irqEn := flag v 70, mask := BitVec.ofNat 16 (fld v 80 16),
    ovf := (b.ring r).ovf && (!flag v 192 || b.noted (.set (.ringOvf r))), irqHold := fld v 208 8,
    enable := true, prod := 0#32, cons := 0#32, lost := 0#32, pendLoss := 0 } := by
  rw [ringEnabled, ring_modRing_same, ringSet_place h]

theorem ringEnabled_other (h : (b.ring r).enable = false) (hq : q ≠ r) : (ringEnabled (ringSet b r v) r).ring q = b.ring q := by
  rw [ringEnabled, ring_modRing_other _ hq, ringSet, ring_modRing_other _ hq, ringPlace_other h hq]

theorem ringEnabled_only (h : (b.ring r).enable = false) (hv : fld v 0 12 = 0) :
    { ringEnabled (ringSet b r v) r with host := { (ringEnabled (ringSet b r v) r).host with rings := b.host.rings } } = b := by
  unfold ringEnabled ringSet
  rw [ringPlace_aligned h hv]
  unfold ringSized
  rw [modRing_only, modRing_only, modRing_only, modRing_only]

theorem ringEnableSet_ring (h : (b.ring r).enable = false) : (ringEnableSet b r v).ring r = { b.ring r with
    sizeLog2 := min 20 (max 6 (fld v 64 5)), owner := if r = 0 then 0#8 else BitVec.ofNat 8 (fld v 72 8),
    base := ringBase (b.ring r) v, irqEn := flag v 70, mask := BitVec.ofNat 16 (fld v 80 16),
    ovf := (b.ring r).ovf && (!flag v 192 || b.noted (.set (.ringOvf r))), irqHold := fld v 208 8, enable := flag v 69 } := by
  rw [ringEnableSet, ring_modRing_same, ringSet_place h]

theorem writeRing_sets (h : (b.ring r).enable = false) (hoff : flag v 69 = false) (hc : (b.ring r).cons = BitVec.ofNat 32 (fld v 128 32)) :
    b.writeRing r v = ringEnableSet b r v := by
  rw [writeRing_keeps_on (by rw [hoff]; rfl)]
  refine if_pos ?_
  rw [ringEnableSet_ring h]
  exact hc

/-- A ring keeps its place while CONS moves. -/
theorem writeCons_place {w : BitVec 32} : ((b.writeCons r w).ring r).base = (b.ring r).base ∧
    ((b.writeCons r w).ring r).sizeLog2 = (b.ring r).sizeLog2 ∧ ((b.writeCons r w).ring r).owner = (b.ring r).owner ∧
    ((b.writeCons r w).ring r).enable = (b.ring r).enable := by
  unfold Blk.writeCons
  dsimp only
  split
  · rw [ring_note, ring_modRing_same]
    exact ⟨rfl, rfl, rfl, rfl⟩
  · exact ⟨rfl, rfl, rfl, rfl⟩

theorem ringEnableSet_enabled (h : (b.ring r).enable = true) : ((ringEnableSet b r v).ring r).base = (b.ring r).base ∧
    ((ringEnableSet b r v).ring r).sizeLog2 = (b.ring r).sizeLog2 ∧ ((ringEnableSet b r v).ring r).owner = (b.ring r).owner ∧
    ((ringEnableSet b r v).ring r).enable = flag v 69 := by
  rw [ringEnableSet, ring_modRing_same, ringSet_ring, ringPlace_enabled h]
  exact ⟨rfl, rfl, rfl, rfl⟩

/-- An enabled ring keeps BASE, SIZE and OWNER (R342). -/
theorem writeRing_enabled (h : (b.ring r).enable = true) : ((b.writeRing r v).ring r).base = (b.ring r).base ∧
    ((b.writeRing r v).ring r).sizeLog2 = (b.ring r).sizeLog2 ∧ ((b.writeRing r v).ring r).owner = (b.ring r).owner ∧
    ((b.writeRing r v).ring r).enable = flag v 69 := by
  obtain ⟨hbase, hsize, howner, henable⟩ := ringEnableSet_enabled (v := v) h
  rw [writeRing_keeps_on (by rw [h]; exact Bool.and_false _)]
  split
  · exact ⟨hbase, hsize, howner, henable⟩
  · obtain ⟨kbase, ksize, kowner, kenable⟩ := writeCons_place (b := ringEnableSet b r v) (r := r) (w := BitVec.ofNat 32 (fld v 128 32))
    exact ⟨kbase.trans hbase, ksize.trans hsize, kowner.trans howner, kenable.trans henable⟩

theorem ovf_stays_iff {o f n : Bool} : (o && (!f || n)) = true ↔ o = true ∧ (f = false ∨ n = true) := by simp

end

theorem irqHoldEnd_signals (he : (b.ring r).irqEn = true) (hw : (b.ring r).wrote = true)
    (hh : (b.ring r).lastIrq.any (fun f => decide ((b.clk.frame - f).toNat < (b.ring r).irqHold)) = false) :
    b.irqHoldEnd r = b.ringIrq r := if_pos (by rw [he, hw, hh]; rfl)

theorem irqHoldEnd_waits (h : (b.ring r).irqEn = false ∨ (b.ring r).wrote = false ∨
      (b.ring r).lastIrq.any (fun f => decide ((b.clk.frame - f).toNat < (b.ring r).irqHold)) = true) : b.irqHoldEnd r = b := by
  refine if_neg ?_
  rcases h with h | h | h
  · rw [h, Bool.false_and, Bool.false_and]
    decide
  · rw [h, Bool.and_false, Bool.false_and]
    decide
  · rw [h, Bool.not_true, Bool.and_false]
    decide

end

/-- Settles O48. -/
theorem hostRings : Obligations.HostRings := by
  unfold Obligations.HostRings
  intro s r p x
  have hwrite : ∀ {v b}, Up s (.eventRingWrite r v) → s.blk.writeRing r v = b → exec (.eventRingWrite r v) s = become s b := by
    intro v b hu h
    show execEventRingWrite r v s = _
    exact window_becomes hu h
  refine ⟨fun v hu => ⟨fun hs hv => ?_, fun h => ?_⟩, fun v hu => ⟨fun h => ?_, fun h => ?_⟩, fun v hu he hon hv hopen => ?_,
    fun v hu he hon hr hopen => ?_, fun v hu he hoff hc => ?_, fun b => rfl, fun v hu he => ?_, fun hu => ⟨fun he hw hh => ?_, fun h => ?_⟩⟩
  · show execDmaWindowWrite p v s = _
    exact window_becomes hu (writeDma_sets hs hv)
  · show execDmaWindowWrite p v s = _
    exact window_becomes hu (writeDma_refused h)
  · show execConsWrite r v s = _
    exact window_becomes hu (writeCons_moves h)
  · show execConsWrite r v s = _
    exact window_becomes hu (writeCons_refused h)
  · refine ⟨_, hwrite hu (writeRing_starts he hon hopen), ?_⟩
    rw [ringEnabled_ring he]
    exact ⟨rfl, if_pos hv, rfl, rfl, rfl, rfl, rfl, rfl, rfl, ovf_stays_iff, fun hr => if_neg hr, fun hr => if_pos hr,
      fun q hq => ringEnabled_other he hq, ringEnabled_only he hv⟩
  · subst hr
    obtain ⟨-, -, hbuf, hlost⟩ := ringPlace_kept (v := v) he
    refine ⟨_, hwrite hu (writeRing_opens he hon hopen), ?_⟩
    rw [ringEnabled_ring he]
    exact ⟨rfl, rfl, rfl, rfl, rfl, rfl, hbuf, hlost⟩
  · refine ⟨_, hwrite hu (writeRing_sets he hoff hc), ?_⟩
    rw [ringEnableSet_ring he]
    exact ⟨hoff, rfl, rfl, rfl, rfl, rfl, rfl, rfl⟩
  · exact ⟨_, hwrite hu rfl, writeRing_enabled he⟩
  · show execIrqHoldEnd r s = _
    exact window_becomes hu (irqHoldEnd_signals he hw hh)
  · show execIrqHoldEnd r s = _
    exact window_becomes hu (irqHoldEnd_waits h)

section
variable {b : Blk} {seen : Seen} {off n : Nat}

/-! ### The mailbox -/

theorem mailboxGo_refused (h : b.host.busy = true ∨ b.noted (.set .mboxDone) = true) : b.mailboxGo seen = b.countSys evMboxRefused :=
  if_pos (by simpa using h)

/-- The mailbox takes its frame. -/
def mboxTaken (b : Blk) : Blk := { b with host := { b.host with busy := true, go := false } }

/-- The frame of the mailbox, AUTH read as 0. -/
def mboxBody (b : Blk) : Bytes := Blk.mboxTake.setAuth0 b.mboxFrame

section
variable (hb : b.host.busy = false) (hd : b.noted (.set .mboxDone) = false)
include hb hd

theorem mailboxGo_takes : b.mailboxGo seen =
    if !moaOk (mboxBody b) then { (mboxTaken b).countSys evMoaBad with host := { ((mboxTaken b).countSys evMoaBad).host with busy := false } }
    else if mhKind (moaHdr (mboxBody b)) = mkSpdm then mboxTaken b
    else ((mboxTaken b).moaExec seen .mailbox (mhBoot (moaHdr (mboxBody b))) (mboxBody b)).1.mboxRespond
      (((mboxTaken b).moaExec seen .mailbox (mhBoot (moaHdr (mboxBody b))) (mboxBody b)).2.headD []) := by
  simp only [Blk.mailboxGo, hb, hd, Bool.or_self, Bool.false_eq_true, if_false]
  rfl

theorem mailboxGo_bad (h : moaOk (mboxBody b) = false) : b.mailboxGo seen =
    { (mboxTaken b).countSys evMoaBad with host := { ((mboxTaken b).countSys evMoaBad).host with busy := false } } :=
  (mailboxGo_takes hb hd).trans (if_pos (by rw [h]; rfl))

section
variable (hok : moaOk (mboxBody b) = true)
include hok

theorem mailboxGo_spdm (h : mhKind (moaHdr (mboxBody b)) = mkSpdm) : b.mailboxGo seen = mboxTaken b :=
  (mailboxGo_takes hb hd).trans ((if_neg (by rw [hok]; decide)).trans (if_pos h))

theorem mailboxGo_executes (h : mhKind (moaHdr (mboxBody b)) ≠ mkSpdm) : b.mailboxGo seen =
    ((mboxTaken b).moaExec seen .mailbox (mhBoot (moaHdr (mboxBody b))) (mboxBody b)).1.mboxRespond
      (((mboxTaken b).moaExec seen .mailbox (mhBoot (moaHdr (mboxBody b))) (mboxBody b)).2.headD []) :=
  (mailboxGo_takes hb hd).trans ((if_neg (by rw [hok]; decide)).trans (if_neg h))

end
end

/-- The response stands in the buffer: DONE is set and the event raised. -/
def mboxDone (b : Blk) : Blk :=
  (Blk.note { b with host := { b.host with busy := false, done := true } } (.set .mboxDone)).raiseS 0x0F 0 (some sysTile)

theorem mailboxDone_idle (h : b.host.busy = false) : b.mailboxDone = b := if_pos (by rw [h]; rfl)

theorem mailboxDone_other (hb : b.host.busy = true) (hk : mhKind (moaHdr (b.host.reqBuf.read 0 32)) ≠ mkSpdm) :
    b.mailboxDone = mboxDone b := by
  simp only [Blk.mailboxDone, hb, Bool.not_true, Bool.false_eq_true, if_false, if_neg hk]
  rfl

theorem mailboxDone_spdm (hb : b.host.busy = true) (hk : mhKind (moaHdr (b.host.reqBuf.read 0 32)) = mkSpdm) :
    b.mailboxDone = mboxDone (b.mboxRespond (b.moaFrame (setFld (moaHdr (b.host.reqBuf.read 0 32)) 33 1 0)
      (mhBoot (moaHdr (b.host.reqBuf.read 0 32))) mkSpdm 0 0 0 0
      (Config.spdmMessage b.vault.reply.kind b.vault.reply.code.toNat b.vault.reply.body))) := by
  simp only [Blk.mailboxDone, hb, Bool.not_true, Bool.false_eq_true, if_false, if_pos hk]
  rfl

/-! ### The registers -/

section
variable {reg : WinReg} {lo size : Nat} {was : Blk}

theorem splits_none (h : regAt b.member off = none) : splits b.member off n = false := by
  simp only [splits, h, Bool.and_false]

theorem splits_within (h : regAt b.member off = some (reg, lo, size)) (hfit : off + n ≤ lo + size) : splits b.member off n = false := by
  unfold splits
  by_cases h8 : n = 8
  · simp only [h]
    rw [decide_eq_false (show ¬ lo + size < off + 8 by omega), Bool.and_false]
  · rw [decide_eq_false h8, Bool.false_and]

theorem winRead_unaligned (h : aligned off n = false) : b.winRead was off n = (b.countSys evBadAccess, 0) := if_pos (by rw [h]; rfl)

section
variable (ha : aligned off n = true)
include ha

theorem winRead_splits (hs : splits b.member off n = true) : b.winRead was off n =
    (((b.winRead1 was off 4).1.winRead1 was (off + 4) 4).1,
      (b.winRead1 was off 4).2 + 2 ^ 32 * ((b.winRead1 was off 4).1.winRead1 was (off + 4) 4).2) :=
  (if_neg (by rw [ha]; decide)).trans (if_pos hs)

theorem winRead_one (hs : splits b.member off n = false) : b.winRead was off n = b.winRead1 was off n :=
  (if_neg (by rw [ha]; decide)).trans (if_neg (by rw [hs]; decide))

theorem winRead_none (h : regAt b.member off = none) : b.winRead was off n = (b.countSys evBadAccess, 0) := by
  rw [winRead_one ha (splits_none h)]
  simp only [Blk.winRead1, h]

section
variable (h : regAt b.member off = some (reg, lo, size)) (hfit : off + n ≤ lo + size)
include h hfit

theorem winRead_narrow (hs : size ≤ 8) : b.winRead was off n =
    (b, ofBytes (((toBytes size (b.winSeen was reg)).drop (off - lo)).take n)) := by
  rw [winRead_one ha (splits_within h hfit)]
  simp only [Blk.winRead1, h, if_pos hs]

/-- The lowest bytes of a wide register latch it. -/
theorem winRead_latches (hs : 8 < size) (hlo : off = lo) : b.winRead was off n =
    ({ b with host := { b.host with latch := b.host.latch.put lo (toBytes size (b.winSeen was reg)) } },
      ofBytes ((toBytes size (b.winSeen was reg)).take n)) := by
  rw [winRead_one ha (splits_within h hfit)]
  subst hlo
  simp only [Blk.winRead1, h, if_neg (Nat.not_le.mpr hs), if_pos (show off < off + 8 by omega), if_true, getD_put_same, Nat.sub_self,
    List.drop_zero]

theorem winRead_latched (hs : 8 < size) (hlo : lo < off) : b.winRead was off n =
    (b, ofBytes (((b.host.latch.getD lo (toBytes size (b.winSeen was reg))).drop (off - lo)).take n)) := by
  rw [winRead_one ha (splits_within h hfit)]
  simp only [Blk.winRead1, h, if_neg (Nat.not_le.mpr hs), if_neg (Nat.ne_of_gt hlo), ite_self]

end
end

variable {s : State} {v : Nat}

/-- The bytes of a write, held with those before. -/
def bytesPut (off n v : Nat) (h : Tbl Byte) : Tbl Byte := (toBytes n v).zipIdx.foldl (fun (h : Tbl Byte) x => h.put (off + x.2) x.1) h

theorem winWrite_unaligned (h : aligned off n = false) : b.winWrite s off n v = b.countSys evBadAccess := if_pos (by rw [h]; rfl)

section
variable (ha : aligned off n = true)
include ha

theorem winWrite_splits (hs : splits b.member off n = true) :
    b.winWrite s off n v = (b.winWrite1 s off 4 (v % 2 ^ 32)).winWrite1 s (off + 4) 4 (v / 2 ^ 32) :=
  (if_neg (by rw [ha]; decide)).trans (if_pos hs)

theorem winWrite_one (hs : splits b.member off n = false) : b.winWrite s off n v = b.winWrite1 s off n v :=
  (if_neg (by rw [ha]; decide)).trans (if_neg (by rw [hs]; decide))

theorem winWrite_none (h : regAt b.member off = none) : b.winWrite s off n v = b.countSys evBadAccess := by
  rw [winWrite_one ha (splits_none h)]
  simp only [Blk.winWrite1, h]

section
variable (h : regAt b.member off = some (reg, lo, size)) (hfit : off + n ≤ lo + size)
include h hfit

theorem winWrite_narrow (hs : size ≤ 8) : b.winWrite s off n v =
    b.winStore s reg (ofBytes (winMerge (bytesPut off n v []) (toBytes size (b.winKeep reg)) lo)) := by
  rw [winWrite_one ha (splits_within h hfit)]
  simp only [Blk.winWrite1, h, if_pos hs]
  rfl

theorem winWrite_holds (hs : 8 < size) (hlt : off + n < lo + size) : b.winWrite s off n v =
    { b with host := { b.host with held := bytesPut off n v b.host.held } } := by
  rw [winWrite_one ha (splits_within h hfit)]
  simp only [Blk.winWrite1, h, if_neg (Nat.not_le.mpr hs), if_neg (Nat.ne_of_lt hlt)]
  rfl

/-- The highest bytes of a wide register make its write take effect. -/
theorem winWrite_effects (hs : 8 < size) (hend : off + n = lo + size) : b.winWrite s off n v =
    Blk.winStore { b with host := { b.host with held := (bytesPut off n v b.host.held).drop fun k => lo ≤ k && k < lo + size } } s reg
      (ofBytes (winMerge (bytesPut off n v b.host.held) (toBytes size (b.winKeep reg)) lo)) := by
  rw [winWrite_one ha (splits_within h hfit)]
  simp only [Blk.winWrite1, h, if_neg (Nat.not_le.mpr hs), if_pos hend]
  rfl

end
end
end

theorem registerRead_becomes {s : State} {c : Blk} {v : Nat} (hu : Up s (.hostRegisterRead off n)) (h : s.blk.winRead s.was off n = (c, v)) :
    exec (.hostRegisterRead off n) s = become s { c with host := { c.host with readData := BitVec.ofNat 64 v } } := by
  show execHostRegisterRead off n s = _
  refine window_becomes (f := fun s =>
    let r := s.blk.winRead s.was off n
    { r.1 with host := { r.1.host with readData := BitVec.ofNat 64 r.2 } }) hu ?_
  dsimp only
  rw [h]

end

/-- Settles O49. -/
theorem hostWindow : Obligations.HostWindow := by
  unfold Obligations.HostWindow
  intro s off n
  refine ⟨fun hu h => ?_, fun hu hb hd => ?_, fun hs => ?_, fun hu => ?_, fun data hu => ?_⟩
  · show execMailboxGo s = _
    exact window_becomes hu (mailboxGo_refused h)
  · intro b xs
    have hgo : ∀ {c : Blk}, s.blk.mailboxGo s.seen = c → exec .mailboxGo s = become s c := by
      intro c h
      show execMailboxGo s = _
      exact window_becomes hu h
    exact ⟨fun h => hgo (mailboxGo_bad hb hd h), fun hok hk => hgo (mailboxGo_spdm hb hd hok hk),
      fun hok hk => hgo (mailboxGo_executes hb hd hok hk)⟩
  · intro h v done
    have hdone : ∀ {c : Blk}, s.blk.mailboxDone = c → exec .mailboxDone s = become s c := by
      rintro c rfl
      show execMailboxDone s = _
      rcases hs with hs | ⟨hn, hrec⟩
      · exact boot_becomes hs rfl
      · rw [execMailboxDone, State.boot, at_named hn]
        exact if_pos (by simp [hrec])
    exact ⟨fun hb => hdone (mailboxDone_idle hb), fun hb hk => hdone (mailboxDone_other hb hk), fun hb hk => hdone (mailboxDone_spdm hb hk)⟩
  · intro got
    refine ⟨fun ha => registerRead_becomes hu (winRead_unaligned ha), ?_, fun ha hreg => registerRead_becomes hu (winRead_none ha hreg), ?_⟩
    · intro ha hs x y
      exact registerRead_becomes hu (winRead_splits ha hs)
    · intro reg lo size ha hreg hfit now
      exact ⟨fun hs => registerRead_becomes hu (winRead_narrow ha hreg hfit hs),
        fun hs hlo => registerRead_becomes hu (winRead_latches ha hreg hfit hs hlo),
        fun hs hlo => registerRead_becomes hu (winRead_latched ha hreg hfit hs hlo)⟩
  · intro v puts
    have hwrite : ∀ {c : Blk}, s.blk.winWrite s off n v = c → exec (.hostRegisterWrite off n data) s = become s c := by
      intro c h
      show execHostRegisterWrite off n data s = _
      exact window_becomes hu h
    refine ⟨fun ha => hwrite (winWrite_unaligned ha), fun ha hs => hwrite (winWrite_splits ha hs),
      fun ha hreg => hwrite (winWrite_none ha hreg), ?_⟩
    intro reg lo size ha hreg hfit keep
    exact ⟨fun hs => hwrite (winWrite_narrow ha hreg hfit hs), fun hs hlt => hwrite (winWrite_holds ha hreg hfit hs hlt),
      fun hs hend => hwrite (winWrite_effects ha hreg hfit hs hend)⟩

end Sys2Proof.Window
end


section
/-! The traffic tables (R229–R242, R262, R299): what a write of each one takes, and what refuses it. -/
namespace Sys2Proof.TrafficTables
open Sys2Proof Sys2Proof.Machine Sys2Proof.Safety Sys2Proof.Laws Sys2Proof.Acts

/-- An entry of a port that the member lacks answers NO_INDEX whatever the level of the channel (R320). -/
theorem odPort_lacks_any {s : State} {c : Instr} {ch : Channel} {e : Bool} {p : Nat} {f : Blk → Od} (h : Asked s c ch false)
    (hp : s.blk.member.ports ≤ p) : s.odPort c ch e p f = become s (s.blk.answer abNoIndex) := by
  have hexpert : (e && decide (p < s.blk.member.ports)) = false := by simp [Nat.not_lt.mpr hp]
  show s.od c ch (e && decide (p < s.blk.member.ports)) _ = _
  rw [hexpert]
  exact od_answers h (if_neg (Nat.not_lt.mpr hp))

section
variable {b : Blk}

/-! ### Sieve -/

section
variable {slot : Nat} {v : BitVec 320}

/-- The key of a VALID entry is 0, or the wildcard for another plot than 0 (R238). -/
abbrev BadKey (e : BitVec 320) : Prop := svValid e = true ∧ (svKey e = 0 ∨ (svKey e = 0xFFFF ∧ svPlot e ≠ 0))

/-- Another VALID sieve entry has the key of `e`. -/
abbrev SieveMet (b : Blk) (slot : Nat) (e : BitVec 320) : Prop :=
  (b.traf.sieve.any fun x => decide (x.1 ≠ slot) && svValid x.2 && decide (svKey x.2 = svKey e)) = true

theorem writeSieve_unbound (h : b.bound (svPlot (v &&& sieveMask)) = false) : b.writeSieve slot v = (b, abState) :=
  if_pos (by simpa using h)

theorem writeSieve_badKey (h : b.bound (svPlot (v &&& sieveMask)) = true) (hk : BadKey (v &&& sieveMask)) :
    b.writeSieve slot v = (b, abRange) :=
  (if_neg (by simpa using h)).trans (if_pos (by simpa using hk))

theorem writeSieve_met (h : b.bound (svPlot (v &&& sieveMask)) = true) (hk : ¬BadKey (v &&& sieveMask))
    (hv : svValid (v &&& sieveMask) = true) (hm : SieveMet b slot (v &&& sieveMask)) : b.writeSieve slot v = (b, abState) :=
  (if_neg (by simpa using h)).trans <| (if_neg (by simpa using hk)).trans <| if_pos (by rw [hv]; exact hm)

theorem writeSieve_puts (h : b.bound (svPlot (v &&& sieveMask)) = true) (hk : ¬BadKey (v &&& sieveMask))
    (hm : svValid (v &&& sieveMask) = true → ¬SieveMet b slot (v &&& sieveMask)) : b.writeSieve slot v =
      ({ b with traf := { b.traf with sieve := b.traf.sieve.put slot (v &&& sieveMask) } }, abNone) :=
  (if_neg (by simpa using h)).trans <| (if_neg (by simpa using hk)).trans <| if_neg fun hand =>
    have hand := Bool.and_eq_true_iff.mp hand
    hm hand.1 hand.2

end

/-! ### Lookup -/

section
variable {i : Nat} {v : BitVec 64}

/-- A network longer than 32 bits, or with a bit past its length (R240). -/
abbrev BadPrefix (e : BitVec 64) : Prop := 32 < lkPlen e ∨ lkPrefix e % 2 ^ (32 - lkPlen e) ≠ 0

/-- Another VALID lookup entry of the plot names the network of `e`. -/
abbrev LookupMet (b : Blk) (i : Nat) (e : BitVec 64) : Prop :=
  (b.traf.lookup.any fun x => decide (x.1 ≠ i) && lkValid x.2 && decide (lkPlot x.2 = lkPlot e) &&
    decide (lkPrefix x.2 = lkPrefix e) && decide (lkPlen x.2 = lkPlen e)) = true

theorem writeLookup_unbound (h : b.bound (lkPlot (v &&& lookupMask)) = false) : b.writeLookup i v = (b, abState) :=
  if_pos (by simpa using h)

theorem writeLookup_bad (h : b.bound (lkPlot (v &&& lookupMask)) = true) (hk : BadPrefix (v &&& lookupMask)) :
    b.writeLookup i v = (b, abRange) :=
  (if_neg (by simpa using h)).trans (if_pos (by simpa using hk))

theorem writeLookup_met (h : b.bound (lkPlot (v &&& lookupMask)) = true) (hk : ¬BadPrefix (v &&& lookupMask))
    (hv : lkValid (v &&& lookupMask) = true) (hm : LookupMet b i (v &&& lookupMask)) : b.writeLookup i v = (b, abState) :=
  (if_neg (by simpa using h)).trans <| (if_neg (by simpa using hk)).trans <| if_pos (by rw [hv]; exact hm)

theorem writeLookup_puts (h : b.bound (lkPlot (v &&& lookupMask)) = true) (hk : ¬BadPrefix (v &&& lookupMask))
    (hm : lkValid (v &&& lookupMask) = true → ¬LookupMet b i (v &&& lookupMask)) : b.writeLookup i v =
      ({ b with traf := { b.traf with lookup := b.traf.lookup.put i (v &&& lookupMask) } }, abNone) :=
  (if_neg (by simpa using h)).trans <| (if_neg (by simpa using hk)).trans <| if_neg fun hand =>
    have hand := Bool.and_eq_true_iff.mp hand
    hm hand.1 hand.2

end

/-! ### Meters -/

section
variable {i : Nat} {v : BitVec 256}

theorem writeMeter_rates (h : mtPir (meterWord v) < mtCir (meterWord v)) : b.writeMeter i v = (b, abRange) := if_pos h

theorem writeMeter_met (h : mtCir (meterWord v) ≤ mtPir (meterWord v))
    (hm : ∃ j ∈ b.meterIds, j ≠ i ∧ metersMeet (b.meterCfg j) (meterWord v) = true) : b.writeMeter i v = (b, abState) :=
  (if_neg (Nat.not_lt.mpr h)).trans (if_pos (by simpa using hm))

theorem writeMeter_notes (h : mtCir (meterWord v) ≤ mtPir (meterWord v))
    (hm : ∀ j ∈ b.meterIds, j ≠ i → metersMeet (b.meterCfg j) (meterWord v) = false) :
    b.writeMeter i v = (b.note (.meter i (meterWord v)), abNone) :=
  (if_neg (Nat.not_lt.mpr h)).trans (if_neg (by simpa using hm))

end

/-! ### Egress queues, gates and pools -/

section
variable {p q i : Nat}

section
variable {v : BitVec 64}

/-- The write changes what the mode of the port fixes of a queue of the quorum (R299). -/
abbrev MovesFixed (b : Blk) (p q : Nat) (v : BitVec 64) : Prop :=
  quorumQueue (b.port p).ctrl.mode q = true ∧
    (fld v 52 8 ≠ (b.egQueue p q).owner ∨ fld v 12 2 ≠ (b.egQueue p q).prio ∨ flag v 14 ≠ (b.egQueue p q).gated ∨
      flag v 15 = true)

theorem movesFixed_iff : (quorumQueue (b.port p).ctrl.mode q &&
    (decide (fld v 52 8 ≠ (b.egQueue p q).owner) || decide (fld v 12 2 ≠ (b.egQueue p q).prio) ||
      decide (flag v 14 ≠ (b.egQueue p q).gated) || flag v 15)) = true ↔ MovesFixed b p q v := by
  simp only [Bool.and_eq_true, Bool.or_eq_true, decide_eq_true_eq, or_assoc]

theorem writeEgQueue_fixed (h : MovesFixed b p q v) : b.writeEgQueue p q v = (b, abState) := if_pos (movesFixed_iff.mpr h)

theorem writeEgQueue_long (h : ¬MovesFixed b p q v) (hq : 8192 < fld v 24 14) : b.writeEgQueue p q v = (b, abRange) :=
  (if_neg (mt movesFixed_iff.mp h)).trans (if_pos hq)

theorem writeEgQueue_sets (h : ¬MovesFixed b p q v) (hq : fld v 24 14 ≤ 8192) : b.writeEgQueue p q v =
    ((b.modEgQueue p q fun y =>
      { y with weight := max 1 (fld v 0 12), prio := fld v 12 2, gated := flag v 14, qmax := fld v 24 14, ylim := fld v 38 14,
               owner := fld v 52 8 }).note (.shapeEn p q (flag v 15)), abNone) :=
  (if_neg (mt movesFixed_iff.mp h)).trans (if_neg (Nat.not_lt.mpr hq))

/-- The pools do not fit the buffer, or a lossless priority is asked of a port without VLAN tags (R242). -/
abbrev BadPools (b : Blk) (p : Nat) (v : BitVec 64) : Prop :=
  8128 < fld v 0 14 + fld v 14 14 + fld v 28 14 + 1024 ∨ (fld v 56 3 ≠ 0 ∧ (b.port p).ctrl.vlan = false)

theorem lossless_iff : BitVec.ofNat 3 (fld v 56 3) ≠ 0#3 ↔ fld v 56 3 ≠ 0 := by
  have hlt : fld v 56 3 < 2 ^ 3 := Nat.mod_lt _ (Nat.two_pow_pos 3)
  rw [ne_eq, ← BitVec.toNat_inj, BitVec.toNat_ofNat, Nat.mod_eq_of_lt hlt]
  rfl

theorem writePools_busy (h : (b.port p).idle = false) : b.writePools p v = (b, abState) := if_pos (by simpa using h)

theorem writePools_bad (h : (b.port p).idle = true) (hb : BadPools b p v) : b.writePools p v = (b, abRange) := by
  refine (if_neg (by simpa using h)).trans ?_
  split
  · rfl
  · next hfit => exact if_pos (by simpa [lossless_iff] using hb.resolve_left hfit)

theorem writePools_sets (h : (b.port p).idle = true) (hb : ¬BadPools b p v) : b.writePools p v =
    ((b.modPort p fun x => { x with pools := { x.pools with
      req := fld v 0 14, reply := fld v 14 14, coll := fld v 28 14, headroom := fld v 42 14,
      lossless := BitVec.ofNat 3 (fld v 56 3) } }).pause, abNone) := by
  obtain ⟨hfit, hvlan⟩ := not_or.mp hb
  exact (if_neg (by simpa using h)).trans <| (if_neg hfit).trans <| if_neg (by simpa [lossless_iff] using hvlan)

end

theorem writeGate_empty {v : BitVec 128} (h : fld v 16 14 ≤ fld v 0 14) : b.writeGate p i v = (b, abRange) := if_pos h

theorem writeGate_waits {v : BitVec 128} (h : fld v 0 14 < fld v 16 14) : b.writeGate p i v =
    (b.modEg p fun e => { e with gatesPend := e.gatesPend.put i (Gate.of v) }, abNone) := if_neg (Nat.not_le.mpr h)

end

end

/-- Settles O31. -/
theorem trafficTables : Obligations.TrafficTables := by
  unfold Obligations.TrafficTables
  intro s ch p
  refine ⟨?_, ?_, ?_, ?_, ?_, ?_, ?_, ?_⟩
  · intro v e met badKey ha
    have hwrite : ∀ {b a}, s.blk.writeSieve (s.blk.sels ch).sieve v = (b, a) →
        exec (.sieveWrite ch v) s = become s (b.answer a) := fun h => by
      show execSieveWrite ch v s = _
      exact od_answers ha h
    exact ⟨fun hu => hwrite (writeSieve_unbound hu), fun hb => ⟨fun hk => hwrite (writeSieve_badKey hb hk),
      fun hk hv hm => hwrite (writeSieve_met hb hk hv hm), fun hk hm => hwrite (writeSieve_puts hb hk hm)⟩⟩
  · intro v e bad met ha
    have hwrite : ∀ {b a}, s.blk.writeLookup (s.blk.sels ch).lookup v = (b, a) →
        exec (.lookupWrite ch v) s = become s (b.answer a) := fun h => by
      show execLookupWrite ch v s = _
      exact od_answers ha h
    exact ⟨fun hu => hwrite (writeLookup_unbound hu), fun hb => ⟨fun hk => hwrite (writeLookup_bad hb hk),
      fun hk hv hm => hwrite (writeLookup_met hb hk hv hm), fun hk hm => hwrite (writeLookup_puts hb hk hm)⟩⟩
  · intro v c i ha
    have hwrite : ∀ {b a}, s.blk.writeMeter (s.blk.sels ch).meter v = (b, a) →
        exec (.meterWrite ch v) s = become s (b.answer a) := fun h => by
      show execMeterWrite ch v s = _
      exact od_answers ha h
    exact ⟨fun h => hwrite (writeMeter_rates h), fun h hm => hwrite (writeMeter_met h hm),
      fun h hm => hwrite (writeMeter_notes h hm), fun b => rfl⟩
  · rintro w (⟨v, rfl | rfl | rfl⟩ | ⟨v, rfl⟩) hp ha
    · show execEgressQueueWrite ch p v s = _
      exact odPort_lacks_any ha hp
    · show execShaperWrite ch p v s = _
      exact odPort_lacks_any ha hp
    · show execPoolWrite ch p v s = _
      exact odPort_lacks_any ha hp
    · show execGateWrite ch p v s = _
      exact odPort_lacks_any ha hp
  · intro v q x fixed
    have hwrite : Asked s (.egressQueueWrite ch p v) ch true → p < s.blk.member.ports → ∀ {b a},
        s.blk.writeEgQueue p ((s.blk.sels ch).portQueue.getD p 0) v = (b, a) →
        exec (.egressQueueWrite ch p v) s = become s (b.answer a) := fun ha hp _ _ h => by
      show execEgressQueueWrite ch p v s = _
      exact odPort_answers ha hp h
    exact fun ha hp => ⟨fun hf => hwrite ha hp (writeEgQueue_fixed hf), fun hf hq => hwrite ha hp (writeEgQueue_long hf hq),
      fun hf hq => hwrite ha hp (writeEgQueue_sets hf hq), fun b on => rfl⟩
  · intro v q
    refine ⟨fun ha hp => ?_, fun b rate burst => rfl⟩
    show execShaperWrite ch p v s = _
    exact odPort_answers ha hp rfl
  · intro v g i ha hp
    have hwrite : ∀ {b a}, s.blk.writeGate p ((s.blk.sels ch).portGate.getD p 0) v = (b, a) →
        exec (.gateWrite ch p v) s = become s (b.answer a) := fun h => by
      show execGateWrite ch p v s = _
      exact odPort_answers ha hp h
    exact ⟨fun h => hwrite (writeGate_waits h), fun h => hwrite (writeGate_empty h)⟩
  · intro v ha hp bad
    have hwrite : ∀ {b a}, s.blk.writePools p v = (b, a) → exec (.poolWrite ch p v) s = become s (b.answer a) := fun h => by
      show execPoolWrite ch p v s = _
      exact odPort_answers ha hp h
    exact ⟨fun h => hwrite (writePools_busy h), fun h hb => hwrite (writePools_bad h hb),
      fun h hb => hwrite (writePools_sets h hb)⟩

end Sys2Proof.TrafficTables
end


section
/-! The states of a port (R220–R222), its module and its link, the service button (R404) and PORT_CTRL (R218). -/
namespace Sys2Proof.PortPanel
open Sys2Proof Sys2Proof.Machine Sys2Proof.Safety Sys2Proof.Laws Sys2Proof.Acts

section
variable {b : Blk} {p : Nat}

/-! ### Host commands -/

theorem portUp_takes (h : (b.unfallow p).canUp p = true) : b.portUp p = ((b.unfallow p).portTo p .up, abNone) := if_pos h

theorem portUp_fallow (h : (b.unfallow p).canUp p = false) (hf : (b.port p).pwr = .fallow ∨ b.portFalling p = true) :
    b.portUp p = (b, abState) :=
  (if_neg (by simpa using h)).trans (if_pos (by simpa using hf))

theorem portUp_waits (h : (b.unfallow p).canUp p = false) (hp : (b.port p).pwr ≠ .fallow) (hf : b.portFalling p = false) :
    b.portUp p = (b, abNone) :=
  (if_neg (by simpa using h)).trans (if_neg (by simp [hp, hf]))

theorem unfallow_of_not_noted (h : b.noted (.portFallow p) = false) : b.unfallow p = b := if_neg (by simpa using h)

/-- The rows of R221 that lead to UP: from SAFE, and from DOWN with the mode set and four channels locked. -/
theorem canUp_of_row (hp : (b.port p).pwr = .on) (hf : b.portFalling p = false) (hl : (b.port p).cage.link = true)
    (hrow : ((b.port p).state = .safe ∧ ((b.port p).ctrl.bond = 0 ∨ b.bondFormed p = true)) ∨
      ((b.port p).state = .down ∧ (b.port p).ctrl.mode ≠ 0 ∧ b.bondFormed p = true ∧ 4 ≤ (b.optPort p).lockedCount)) :
    b.canUp p = true := by
  rcases hrow with ⟨hs, hb⟩ | ⟨hs, hm, hb, hc⟩
  · simpa [Blk.canUp, hp, hf, hl, hs] using hb
  · simp [Blk.canUp, hp, hf, hl, hs, hm, hb, hc]

theorem portDrain_up (h : (b.port p).state = .up) : b.portDrain p = b.portTo p .draining := if_pos h

theorem portDrain_other (h : (b.port p).state ≠ .up) : b.portDrain p = b := if_neg h

theorem portLeave_up {d : PortState} (h : (b.port p).state = .up) :
    b.portLeave p d = ((b.portTo p d).discard p 0x5C fun _ _ => true).suspectPort p := if_pos (by simpa using h)

theorem portLeave_other {d : PortState} (h : (b.port p).state ≠ .up) :
    b.portLeave p d = (b.portTo p d).discard p 0x5C fun _ _ => true := if_neg (by simpa using h)

theorem portDown_leaves (h : (b.port p).state = .up ∨ (b.port p).state = .draining ∨ (b.port p).state = .safe) :
    b.portDown p = b.portLeave p .down := by
  rcases h with h | h | h <;> simp only [Blk.portDown, h]

theorem portDown_stays (h : (b.port p).state = .absent ∨ (b.port p).state = .down) : b.portDown p = b := by
  rcases h with h | h <;> simp only [Blk.portDown, h]

/-! ### Module and link -/

theorem moduleInsert_present (h : (b.port p).state ≠ .absent) : b.moduleInsert p = b := if_pos h

/-- The block with the module of port p in its cage, the port DOWN and its loops unlocked. -/
def inserted (b : Blk) (p : Nat) : Blk :=
  ((b.modPort p fun x => { x with cage := { x.cage with
    present := true, autoPend := true, btnIgnore := x.cage.btnIgnore || x.cage.button } }).portTo p .down).unlockLoops (loopsOfPort p)

theorem moduleInsert_absent (h : (b.port p).state = .absent) : b.moduleInsert p =
    if ((inserted b p).port p).pwr = .on then ((inserted b p).modOptPort p fun o => { o with acqFails := 0 }).acquire p
    else (inserted b p).relock p := if_neg (not_not_intro h)

/-- A port is drained once nothing is held, nothing is under assembly and two ticks passed without a cell (R222). -/
theorem drained_iff : b.drained p = true ↔ ((b.port p).state = .draining ∧ (b.port p).eg.held = [] ∧ (b.port p).eg.rx = [] ∧
    2 ≤ (b.clk.frame - (b.port p).cage.lastCell).toNat) := by
  simp [Blk.drained, and_assoc]

/-- A removal that loses nothing (R221). -/
abbrev SafeRemoval (b : Blk) (p : Nat) : Prop := (b.port p).state = .safe ∨ (b.port p).state = .down ∨
  ((b.port p).state = .draining ∧ (b.port p).eg.held = [] ∧ (b.port p).eg.rx = [] ∧
    2 ≤ (b.clk.frame - (b.port p).cage.lastCell).toNat)

/-- The block after the removal of the module of port p, its event with `code`. -/
def removed (b : Blk) (p code : Nat) : Blk :=
  (((((b.modPort p fun x => { x with cage := { x.cage with present := false } }).abortBoth p).portLeave p .absent).raiseS 0x41 0
    (some (b.member.portTile p)) p code).opticsGone p)

theorem moduleRemove_absent (h : (b.port p).state = .absent) : b.moduleRemove p = b := if_pos h

theorem moduleRemove_present (h : (b.port p).state ≠ .absent) : b.moduleRemove p =
    removed b p ((b.port p).state.code +
      if (decide ((b.port p).state = .safe) || decide ((b.port p).state = .down) || b.drained p) = true then 0 else 2 ^ 16) :=
  if_neg h

theorem safeRemoval_iff : (decide ((b.port p).state = .safe) || decide ((b.port p).state = .down) || b.drained p) = true ↔
    SafeRemoval b p := by
  rw [Bool.or_eq_true, Bool.or_eq_true, drained_iff, decide_eq_true_eq, decide_eq_true_eq, or_assoc]

theorem moduleRemove_safe (h : (b.port p).state ≠ .absent) (hs : SafeRemoval b p) :
    b.moduleRemove p = removed b p (b.port p).state.code := by
  rw [moduleRemove_present h, if_pos (safeRemoval_iff.mpr hs), Nat.add_zero]

theorem moduleRemove_unsafe (h : (b.port p).state ≠ .absent) (hs : ¬SafeRemoval b p) :
    b.moduleRemove p = removed b p ((b.port p).state.code + 2 ^ 16) := by
  rw [moduleRemove_present h, if_neg (mt safeRemoval_iff.mp hs)]

theorem portLinkDown_down (h : (b.port p).cage.link = false) : b.portLinkDown p = b := if_pos (by simpa using h)

/-- The block with the link of port p down, its transmissions ended. -/
def unlinked (b : Blk) (p : Nat) : Blk :=
  (b.modPort p fun x => { x with cage := { x.cage with link := false } }).abortBoth p

theorem portLinkDown_leaves (h : (b.port p).cage.link = true)
    (hs : ((unlinked b p).port p).state = .up ∨ ((unlinked b p).port p).state = .draining) :
    b.portLinkDown p = ((unlinked b p).portLeave p .down).declare fcPort p := by
  refine (if_neg (by simpa using h)).trans (congrArg (Blk.declare · fcPort p) (if_pos ?_))
  rw [Bool.or_eq_true, decide_eq_true_eq, decide_eq_true_eq]
  exact hs

theorem portLinkDown_stays (h : (b.port p).cage.link = true)
    (hu : ((unlinked b p).port p).state ≠ .up) (hd : ((unlinked b p).port p).state ≠ .draining) :
    b.portLinkDown p = (unlinked b p).declare fcPort p := by
  refine (if_neg (by simpa using h)).trans (congrArg (Blk.declare · fcPort p) (if_neg ?_))
  rw [Bool.or_eq_true, decide_eq_true_eq, decide_eq_true_eq]
  exact not_or.mpr ⟨hu, hd⟩

/-! ### Ends of a drain -/

theorem drainComplete_drained (h : b.drained p = true) : b.drainComplete p = b.portTo p .safe := if_pos h

theorem drainComplete_not (h : b.drained p = false) : b.drainComplete p = b := if_neg (by simpa using h)

theorem drainExpiry_draining (h : (b.port p).state = .draining) : b.drainExpiry p = b.note (.expiry p) := if_pos h

theorem drainExpiry_other (h : (b.port p).state ≠ .draining) : b.drainExpiry p = b := if_neg h

theorem expiryActs_draining (h : (b.port p).state = .draining) :
    b.noteActs (.expiry p) = (b.discard p 0x5D fun _ _ => true).portTo p .safe := if_pos h

theorem expiryActs_other (h : (b.port p).state ≠ .draining) : b.noteActs (.expiry p) = b := if_neg h

/-! ### Service button -/

theorem svcPress_noted (h : (b.port p).pwr ≠ .fallow) (hb : (b.port p).cage.btnIgnore = false) :
    b.svcPress p = b.note (.press p) := if_neg (by simp [h, hb])

theorem svcPress_ignored (h : (b.port p).pwr = .fallow ∨ (b.port p).cage.btnIgnore = true) : b.svcPress p = b :=
  if_pos (by simpa using h)

/-- A host command for the port in the same mc comes before the press. -/
theorem pressActs_commanded (h : b.noted (.portCmd p) = true) : b.noteActs (.press p) = b := if_pos h

section
variable (h : b.noted (.portCmd p) = false)
include h

theorem pressActs_up (hs : (b.port p).state = .up) : b.noteActs (.press p) = b.portTo p .draining := by
  show b.pressActs p = _
  simp only [Blk.pressActs, h, Bool.false_eq_true, if_false, hs, portDrain_up hs]

theorem pressActs_returns (hs : (b.port p).state = .safe) (hp : (b.port p).cage.present = true) (hu : b.canUp p = true) :
    b.noteActs (.press p) = b.portTo p .up := by
  show b.pressActs p = _
  simp only [Blk.pressActs, h, Bool.false_eq_true, if_false, hs, hp, hu, Bool.and_self, if_true]

theorem pressActs_safe (hs : (b.port p).state = .safe) (hn : (b.port p).cage.present = false ∨ b.canUp p = false) :
    b.noteActs (.press p) = b := by
  show b.pressActs p = _
  simp only [Blk.pressActs, h, Bool.false_eq_true, if_false, hs]
  exact if_neg (by rcases hn with hn | hn <;> simp [hn])

theorem pressActs_other (hs : (b.port p).state = .absent ∨ (b.port p).state = .down ∨ (b.port p).state = .draining) :
    b.noteActs (.press p) = b := by
  show b.pressActs p = _
  rcases hs with hs | hs | hs <;> simp only [Blk.pressActs, h, Bool.false_eq_true, if_false, hs]

end

theorem svcStuck_reports (h : (b.port p).cage.stuckSent = false) : b.svcStuck p =
    (b.modPort p fun x => { x with cage := { x.cage with stuckSent := true, btnIgnore := true } }).raiseS 0x44 0
      (some (b.member.portTile p)) p := if_neg (by simpa using h)

theorem svcStuck_again (h : (b.port p).cage.stuckSent = true) : b.svcStuck p = b := if_pos h

/-! ### PORT_CTRL -/

section
variable {e : Bool} {v : BitVec 128}

/-- A value outside what R218 defines. -/
abbrev BadCtrl (n : PortCtrl) : Prop := n.mode = 3 ∨ n.bond = 3 ∨ (n.encap = true ∧ n.udpPort = 0#16)

theorem badCtrl_iff {n : PortCtrl} : (decide (n.mode = 3) || decide (n.bond = 3) || (n.encap && decide (n.udpPort = 0#16))) = true ↔
    BadCtrl n := by
  simp only [Bool.or_eq_true, Bool.and_eq_true, decide_eq_true_eq, or_assoc]

theorem not_badCtrl {n : PortCtrl} (hm : n.mode < 3) (hb : n.bond < 3) (he : n.encap = true → n.udpPort ≠ 0#16) : ¬BadCtrl n := by
  rintro (h | h | ⟨h, hu⟩)
  · omega
  · omega
  · exact he h hu

theorem writePortCtrl_level (h : (b.port p).ctrl.expertMoves (PortCtrl.of v) = true) : b.writePortCtrl false p v = (b, abLevel) :=
  if_pos (by simpa using h)

section
variable (h : (b.port p).ctrl.expertMoves (PortCtrl.of v) = true → e = true)
include h

theorem writePortCtrl_range (hb : BadCtrl (PortCtrl.of v)) : b.writePortCtrl e p v = (b, abRange) :=
  (if_neg (by simpa using h)).trans (if_pos (badCtrl_iff.mpr hb))

theorem writePortCtrl_state (hb : ¬BadCtrl (PortCtrl.of v)) (hm : (b.port p).ctrl.moves (PortCtrl.of v) = true)
    (hi : (b.port p).idle = false) : b.writePortCtrl e p v = (b, abState) :=
  (if_neg (by simpa using h)).trans <| (if_neg (mt badCtrl_iff.mp hb)).trans <| if_pos (by simp [hm, hi])

theorem writePortCtrl_takes (hb : ¬BadCtrl (PortCtrl.of v))
    (hm : (b.port p).ctrl.moves (PortCtrl.of v) = true → (b.port p).idle = true) : b.writePortCtrl e p v =
      ((((b.modPort p fun x => { x with ctrl := PortCtrl.of v }).each ((List.range 4).map (p / 4 * 4 + ·))
        fun b q => b.bondCheck q).each ((List.range 4).map (p / 4 * 4 + ·)) fun b q => b.autoUp q), abNone) :=
  (if_neg (by simpa using h)).trans <| (if_neg (mt badCtrl_iff.mp hb)).trans <| if_neg (by simpa using hm)

end

theorem idle_false (ha : (b.port p).state ≠ .absent) (hd : (b.port p).state ≠ .down) (hs : (b.port p).state ≠ .safe) :
    (b.port p).idle = false := by
  simp [Port.idle, ha, hd, hs]

end

end

section
variable {s : State} {c : Instr} {p : Nat} {f : Blk → Blk}

/-- What the panel reports of a port that the member lacks changes nothing. -/
theorem panel_lacks (h : Ready s c) (hp : s.blk.member.ports ≤ p) : s.panel c p f = become s s.blk :=
  mesh_becomes h (if_neg (Nat.not_lt.mpr hp))

theorem panel_becomes {b : Blk} (h : Ready s c) (hp : p < s.blk.member.ports) (hf : f s.blk = b) : s.panel c p f = become s b :=
  mesh_becomes h ((if_pos hp).trans hf)

end

/-- Settles O32. -/
theorem portStates : Obligations.PortStates := by
  unfold Obligations.PortStates
  intro s p x t
  refine ⟨fun hr => ?_, fun hr => ?_, fun hr => ?_, fun hp => ⟨fun hr => ?_, fun hr => ?_⟩, fun hr hp => ?_, fun hr hp => ?_,
    fun hr => ?_, fun hr => ?_, fun hr => ⟨drained_iff, ?_⟩, fun hr => ?_, fun b => ⟨expiryActs_draining, expiryActs_other⟩⟩
  · intro u
    have hup : ∀ {b a}, s.blk.portUp p = (b, a) → exec (.portUp p) s = become s ((b.note (.portCmd p)).answer a) := fun h => by
      show execPortUp p s = _
      exact steward_becomes hr (by rw [h]; rfl)
    refine ⟨fun h => hup (portUp_takes h), fun h hf => hup (portUp_fallow h hf), fun h hn hf => hup (portUp_waits h hn hf),
      fun hn hpwr hf hl hrow => hup ?_⟩
    have hsame := unfallow_of_not_noted hn
    rw [portUp_takes (hsame.symm ▸ canUp_of_row hpwr hf hl hrow), hsame]
    rfl
  · have hdrain : ∀ {b}, s.blk.portDrain p = b → exec (.portDrain p) s = become s (b.note (.portCmd p)) := fun h => by
      show execPortDrain p s = _
      exact steward_becomes hr (by rw [h])
    exact ⟨fun h => hdrain (portDrain_up h), fun h => hdrain (portDrain_other h)⟩
  · have hdown : ∀ {b}, s.blk.portDown p = b → exec (.portDown p) s = become s (b.note (.portCmd p)) := fun h => by
      show execPortDown p s = _
      exact steward_becomes hr (by rw [h])
    refine ⟨fun h => hdown ((portDown_leaves (.inl h)).trans (portLeave_up h)),
      fun h => hdown ((portDown_leaves (.inr h)).trans (portLeave_other ?_)), fun h => hdown (portDown_stays h)⟩
    rcases h with h | h <;> exact fun hup => nomatch h.symm.trans hup
  · show execModuleInsert p s = _
    exact panel_lacks hr hp
  · show execModuleRemove p s = _
    exact panel_lacks hr hp
  · have hinsert : ∀ {b}, s.blk.moduleInsert p = b → exec (.moduleInsert p) s = become s b := fun h => by
      show execModuleInsert p s = _
      exact panel_becomes hr hp h
    exact ⟨fun h => hinsert (moduleInsert_present h), fun h => hinsert (moduleInsert_absent h)⟩
  · have hremove : ∀ {b}, s.blk.moduleRemove p = b → exec (.moduleRemove p) s = become s b := fun h => by
      show execModuleRemove p s = _
      exact panel_becomes hr hp h
    exact ⟨fun h => hremove (moduleRemove_absent h), fun h => ⟨fun hs => hremove (moduleRemove_safe h hs),
      fun hs => hremove (moduleRemove_unsafe h hs)⟩⟩
  · show execPortLinkUp p s = _
    exact mesh_becomes hr rfl
  · have hdown : ∀ {b}, s.blk.portLinkDown p = b → exec (.portLinkDown p) s = become s b := fun h => by
      show execPortLinkDown p s = _
      exact mesh_becomes hr h
    exact ⟨fun h => hdown (portLinkDown_down h), fun h => ⟨fun hs => hdown (portLinkDown_leaves h hs),
      fun hu hd => hdown (portLinkDown_stays h hu hd)⟩⟩
  · have hdone : ∀ {b}, s.blk.drainComplete p = b → exec (.drainComplete p) s = become s b := fun h => by
      show execDrainComplete p s = _
      exact mesh_becomes hr h
    exact ⟨fun h => hdone (drainComplete_drained h), fun h => hdone (drainComplete_not h)⟩
  · have hlimit : ∀ {b}, s.blk.drainExpiry p = b → exec (.drainLimitExpiry p) s = become s b := fun h => by
      show execDrainLimitExpiry p s = _
      exact mesh_becomes hr h
    exact ⟨fun h => hlimit (drainExpiry_draining h), fun h => hlimit (drainExpiry_other h)⟩

/-- Settles O33. -/
theorem portPanelAndControl : Obligations.PortPanelAndControl := by
  unfold Obligations.PortPanelAndControl
  intro s p x
  refine ⟨fun hr hp => ?_, fun b => ⟨pressActs_commanded, fun h => ⟨pressActs_up h, pressActs_returns h, pressActs_safe h,
    pressActs_other h⟩⟩, fun hr hp => ?_, fun hp => ⟨fun hr => ?_, fun hr => ?_⟩, fun bits hr => ?_, ?_⟩
  · have hpress : ∀ {b}, s.blk.svcPress p = b → exec (.svcPress p) s = become s b := fun h => by
      show execSvcPress p s = _
      exact panel_becomes hr hp h
    exact ⟨fun h hb => hpress (svcPress_noted h hb), fun h => hpress (svcPress_ignored h)⟩
  · have hstuck : ∀ {b}, s.blk.svcStuck p = b → exec (.svcStuck p) s = become s b := fun h => by
      show execSvcStuck p s = _
      exact panel_becomes hr hp h
    exact ⟨fun h => hstuck (svcStuck_reports h), fun h => hstuck (svcStuck_again h)⟩
  · show execSvcPress p s = _
    exact panel_lacks hr hp
  · show execSvcStuck p s = _
    exact panel_lacks hr hp
  · show execFrontPanelScan bits s = _
    exact mesh_becomes hr rfl
  · intro ch v n group ha
    refine ⟨fun hp => ?_, fun hp => ?_⟩
    · show execPortCtrlWrite ch p v s = _
      exact odPort_lacks ha hp
    have hwrite : ∀ {b a}, s.blk.writePortCtrl (s.blk.expert ch) p v = (b, a) →
        exec (.portCtrlWrite ch p v) s = become s (b.answer a) := fun h => by
      show execPortCtrlWrite ch p v s = _
      exact odPort_answers ha hp h
    refine ⟨fun hm he => hwrite (he.symm ▸ writePortCtrl_level hm), fun hm => ⟨fun hb => hwrite (writePortCtrl_range hm hb),
      fun hmode hbond hencap => ?_⟩⟩
    have hgood := not_badCtrl hmode hbond hencap
    exact ⟨fun hmv h1 h2 h3 => hwrite (writePortCtrl_state hm hgood hmv (idle_false h1 h2 h3)),
      fun hmv => hwrite (writePortCtrl_takes hm hgood hmv)⟩

end Sys2Proof.PortPanel
end


section
/-! Wear, library and link retries (R289–R291), and the observation entries (R372–R384). -/
namespace Sys2Proof.Observed
open Sys2Proof Sys2Proof.Machine Sys2Proof.Safety Sys2Proof.Laws Sys2Proof.Acts

section
variable {b : Blk}

/-! ### Wear and library -/

section
variable {sel : BitVec 16} {v : BitVec 64}

theorem writeWear_clears (hv : flag v 32 = true)
    (hn : b.noted (.set (.wearWarn (4096 * fld sel 14 2 + fld sel 0 12))) = false) : b.writeWear sel v =
    ({ b with fault := { b.fault with
        wear := b.fault.wear.put (4096 * fld sel 14 2 + fld sel 0 12)
          ((b.wearOf (fld sel 14 2) (fld sel 0 12)).1, false, (b.wearOf (fld sel 14 2) (fld sel 0 12)).2.2) } }, abNone) :=
  congrArg (·, abNone) (if_pos (by simp only [hv, hn, Bool.not_false, Bool.and_self]))

theorem writeWear_stands (h : flag v 32 = false ∨
    b.noted (.set (.wearWarn (4096 * fld sel 14 2 + fld sel 0 12))) = true) : b.writeWear sel v = (b, abNone) :=
  congrArg (·, abNone) (if_neg (by rcases h with h | h <;> simp [h]))

end

section
variable {i : Nat} {v : BitVec 64}

theorem writeLibrary_takes (hk : lKind v ≤ 3) (hi : lValid v = true → b.alternateOk (lImage v) = true) : b.writeLibrary i v =
    ({ b with fault := { b.fault with
      library := b.fault.library.put i (setFld v 48 16 (fld (imageHeader b (lImage v)) 32 16)) } }, abNone) :=
  if_neg (by simpa [hk] using hi)

theorem writeLibrary_range (h : 3 < lKind v ∨ (lValid v = true ∧ b.alternateOk (lImage v) = false)) :
    b.writeLibrary i v = (b, abRange) := if_pos (by simpa using h)

end

/-! ### Links -/

section
variable {port failed : Bool} {i t : Nat}

theorem linkRetry_counts (h : b.retryTile port i = some t) :
    b.linkRetry port i = (b.count t evLinkRetry).addWear (if port then 2 else 1) i 8 := by
  simp only [Blk.linkRetry, h]

/-- A link inside a die has no wear (R290). -/
theorem linkRetry_inside (h : b.retryTile port i = none) : b.linkRetry port i = b := by
  simp only [Blk.linkRetry, h]

theorem linkRetrain_fails (h : b.retryTile false i = some t) :
    b.linkRetrain false i true = ((b.count t evLinkRetrain).addWear 1 i 256).declare fcLink i := by
  simp only [Blk.linkRetrain, h]
  rfl

theorem linkRetrain_counts (h : b.retryTile port i = some t) (hf : failed = false ∨ port = true) :
    b.linkRetrain port i failed = (b.count t evLinkRetrain).addWear (if port then 2 else 1) i 256 := by
  simp only [Blk.linkRetrain, h]
  exact if_neg (by rcases hf with hf | hf <;> simp [hf])

theorem linkRetrain_inside (h : b.retryTile port i = none) : b.linkRetrain port i false = b := by
  simp only [Blk.linkRetrain, h, Bool.false_and, Bool.false_eq_true, if_false]

/-- Only a link has no tile of its own: a port has one always. -/
theorem linkRetrain_inside_fails (h : b.retryTile port i = none) : b.linkRetrain port i true = b.declare fcLink i := by
  cases port with
  | true => cases h
  | false => simp only [Blk.linkRetrain, h, Bool.true_and, Bool.not_false, if_true]

end

/-! ### Entries of the selected tile -/

section
variable {ch : Channel} {f : Nat → Blk → Od}

theorem odTile_tested (h : b.clusterTested (clusterOf (b.sels ch).tile) = true) : b.odTile ch f = (b, abState) := by
  simp only [Blk.odTile, Blk.selTile, h, if_true]
  rfl

theorem odTile_free (h : b.clusterTested (clusterOf (b.sels ch).tile) = false) : b.odTile ch f = f (b.sels ch).tile b := by
  simp only [Blk.odTile, Blk.selTile, h, Bool.false_eq_true, if_false]

end

section
variable {e t : Nat} {v : BitVec 32}

theorem writeCounter_fixed (h : hasFixed e = true) : Blk.writeCounter e v t b =
    (b.modOb t fun o => { o with ctr := o.ctr.put e (v + BitVec.ofNat 32 (o.adds.getD e 0)) }, abNone) := if_pos h

theorem writeCounter_other (h : hasFixed e = false) : Blk.writeCounter e v t b = (b, abRange) := if_neg (by simp [h])

end

section
variable {t : Nat} {v : BitVec 8}

theorem thaw_clears (hv : flag v 0 = true) (hn : b.noted (.set (.frozen t)) = false) :
    Blk.thaw v t b = (b.modOb t fun o => { o with frozen := false }, abNone) :=
  congrArg (·, abNone) (if_pos (by simp only [hv, hn, Bool.not_false, Bool.and_self]))

theorem thaw_stands (h : flag v 0 = false ∨ b.noted (.set (.frozen t)) = true) : Blk.thaw v t b = (b, abNone) :=
  congrArg (·, abNone) (if_neg (by rcases h with h | h <;> simp [h]))

end

/-! ### Counters that are configured -/

theorem writePmc_at {t i : Nat} {v : BitVec 64} (h : i < 8) : b.writePmc t i v =
    b.modOb t fun o => o.modPmc i fun x => x.write (o.wraps.contains (1024 + i)) v := if_pos h

/-- A field below bit 24 sees only the 24 lowest bits. -/
theorem fld_low {x y : BitVec 64} {lo w : Nat} (hw : lo + w ≤ 24) (h : x.toNat % 2 ^ 24 = y.toNat % 2 ^ 24) :
    fld x lo w = fld y lo w := by
  have hfld : ∀ z : BitVec 64, fld z lo w = z.toNat % 2 ^ 24 / 2 ^ lo % 2 ^ w := fun z => by
    have hsplit : 2 ^ 24 = 2 ^ lo * 2 ^ (24 - lo) := by rw [← Nat.pow_add]; congr 1; omega
    rw [hsplit, Nat.mod_mul_right_div_self, Nat.mod_mod_of_dvd _ (Nat.pow_dvd_pow 2 (by omega))]
    rfl
  rw [hfld, hfld, h]

theorem setFld_low (x : BitVec 64) (k : Nat) : (setFld x 24 1 k).toNat % 2 ^ 24 = x.toNat % 2 ^ 24 := by
  simp only [setFld, fld, BitVec.toNat_ofNat]
  omega

/-- A mask that is all ones over a field leaves it as it is. -/
theorem fld_and {v m : BitVec 64} {lo w : Nat} (h : m.extractLsb' lo w = BitVec.allOnes w) : fld (v &&& m) lo w = fld v lo w := by
  have hfld : ∀ z : BitVec 64, fld z lo w = (z.extractLsb' lo w).toNat := fun z => by
    rw [BitVec.extractLsb'_toNat, Nat.shiftRight_eq_div_pow]
    rfl
  rw [hfld, hfld, BitVec.extractLsb'_and, h, BitVec.and_allOnes]

/-- A configuration reads as last written in its fields (R373). -/
theorem word_write {x : Pmc} {w : Bool} {v : BitVec 64} {lo n : Nat} (hn : lo + n ≤ 24)
    (hmask : pmcMask.extractLsb' lo n = BitVec.allOnes n) : fld (x.write w v).word lo n = fld v lo n :=
  (fld_low hn (setFld_low _ _)).trans (fld_and hmask)

/-! ### Rake, bases, trace and markers -/

theorem writeRakeK_takes {v : Nat} (h : v = 0 ∨ (10 ≤ v ∧ v ≤ 24)) : b.writeRakeK v =
    ({ b with obs := { b.obs with rakeK := v, rakeSeq := if b.obs.rakeK = 0 then 0 else b.obs.rakeSeq } }, abNone) := by
  refine if_neg ?_
  simp only [Bool.and_eq_true, Bool.or_eq_true, decide_eq_true_eq]
  omega

theorem writeRakeK_range {v : Nat} (h0 : v ≠ 0) (h : v < 10 ∨ 24 < v) : b.writeRakeK v = (b, abRange) :=
  if_pos (by simpa [h0] using h)

section
variable {v : BitVec 64}

theorem writeRakeBase_range (h : fld v 0 12 ≠ 0) : b.writeRakeBase v = (b, abRange) := if_pos h

theorem writeRakeBase_sets (h : fld v 0 12 = 0) (hk : b.obs.rakeK = 0) :
    b.writeRakeBase v = ({ b with obs := { b.obs with rakeBase := v } }, abNone) :=
  (if_neg (not_not_intro h)).trans (if_neg (not_not_intro hk))

theorem writeRakeBase_running (h : fld v 0 12 = 0) (hk : b.obs.rakeK ≠ 0) : b.writeRakeBase v = (b, abState) :=
  (if_neg (not_not_intro h)).trans (if_pos hk)

theorem writeHangBase_range (h : fld v 0 12 ≠ 0) : b.writeHangBase v = (b, abRange) := if_pos h

theorem writeHangBase_sets (h : fld v 0 12 = 0) :
    b.writeHangBase v = ({ b with obs := { b.obs with hangBase := v } }, abNone) := if_neg (not_not_intro h)

end

theorem rakeWriteOut_idle (h : b.obs.rake = none) : b.rakeWriteOut = b := by
  simp only [Blk.rakeWriteOut, h]

theorem obs_writeHosts (l : List (Nat × Bytes)) : (b.each l fun b x => b.writeHost x.1 x.2).obs = b.obs :=
  Idle.each_induction (P := fun c => c.obs = b.obs) l _ rfl fun _ _ h => h

theorem rakeWriteOut_writes {i : Nat} {image : List (Nat × Bytes)} (h : b.obs.rake = some (i, image)) : b.rakeWriteOut =
    Blk.raiseS { (b.each (image.drop 1 ++ image.take 1) fun b x => b.writeHost x.1 x.2) with
      obs := { b.obs with rake := none } } 0x80 0 none i := by
  simp only [Blk.rakeWriteOut, h, obs_writeHosts]

section
variable {v : BitVec 8}

/-- The block with the bits of TRACE_CTRL taken. -/
def traced (b : Blk) (v : BitVec 8) : Blk := { b with obs := { b.obs with traceCtrl := v &&& 0x0F#8 } }

theorem writeTraceCtrl_eq : b.writeTraceCtrl v =
    (if flag v 0 = true ∧ flag b.obs.traceCtrl 0 = false then (traced b v).traceTick else traced b v, abNone) := by
  have hon : (flag v 0 && !flag b.obs.traceCtrl 0) = true ↔ flag v 0 = true ∧ flag b.obs.traceCtrl 0 = false := by
    rw [Bool.and_eq_true, Bool.not_eq_true']
  refine congrArg (·, abNone) ?_
  by_cases h : flag v 0 = true ∧ flag b.obs.traceCtrl 0 = false
  · rw [if_pos h]
    exact if_pos (hon.mpr h)
  · rw [if_neg h]
    exact if_neg (mt hon.mp h)

end

section
variable {xs : Bytes}

theorem markerSend_lacks (h : b.member.ports ≤ ofBytes (xs.take 1)) : b.markerSend xs = (b, abRange) := if_pos h

theorem markerSend_down (h : ofBytes (xs.take 1) < b.member.ports) (hs : (b.port (ofBytes (xs.take 1))).state ≠ .up) :
    b.markerSend xs = (b, abState) := (if_neg (Nat.not_le.mpr h)).trans (if_pos hs)

theorem markerSend_sends (h : ofBytes (xs.take 1) < b.member.ports) (hs : (b.port (ofBytes (xs.take 1))).state = .up) :
    b.markerSend xs = (b.enqueue (ofBytes (xs.take 1)) (b.marker (ofBytes (xs.take 1)) (ofBytes ((xs.drop 4).take 4))
      (ofBytes ((xs.drop 8).take 4))), abNone) := (if_neg (Nat.not_le.mpr h)).trans (if_neg (not_not_intro hs))

end

end

/-- Settles O37. -/
theorem wearAndLibrary : Obligations.WearAndLibrary := by
  unfold Obligations.WearAndLibrary
  intro s ch port i
  refine ⟨?_, ?_, fun hr => ?_, rfl, rfl, ?_, ?_⟩
  · intro v ha k n
    have hwrite : ∀ {b a}, s.blk.writeWear (s.blk.sels ch).wear v = (b, a) →
        exec (.wearWrite ch v) s = become s (b.answer a) := fun h => by
      show execWearWrite ch v s = _
      exact od_answers ha h
    exact ⟨fun hv hn => hwrite (writeWear_clears hv hn), fun h => hwrite (writeWear_stands h)⟩
  · intro v ha
    have hwrite : ∀ {b a}, s.blk.writeLibrary (s.blk.sels ch).library v = (b, a) →
        exec (.libraryWrite ch v) s = become s (b.answer a) := fun h => by
      show execLibraryWrite ch v s = _
      exact od_answers ha h
    exact ⟨fun hk hi => hwrite (writeLibrary_takes hk hi), fun h => hwrite (writeLibrary_range h)⟩
  · show execRailFault i s = _
    exact mesh_becomes hr rfl
  · intro t ht
    refine ⟨fun hr => ?_, fun f hr => ?_⟩
    · show execLinkRetry port i s = _
      exact mesh_becomes hr (linkRetry_counts ht)
    have hretrain : ∀ {b}, s.blk.linkRetrain port i f = b → exec (.linkRetrain port i f) s = become s b := fun h => by
      show execLinkRetrain port i f s = _
      exact mesh_becomes hr h
    refine ⟨fun hf hp => ?_, fun h => hretrain (linkRetrain_counts ht h)⟩
    subst hf hp
    exact hretrain (linkRetrain_fails ht)
  · refine fun ht => ⟨fun hr => ?_, fun hr => ?_, fun hr => ?_⟩
    · show execLinkRetry port i s = _
      exact mesh_becomes hr (linkRetry_inside ht)
    · show execLinkRetrain port i false s = _
      exact mesh_becomes hr (linkRetrain_inside ht)
    · show execLinkRetrain port i true s = _
      exact mesh_becomes hr (linkRetrain_inside_fails ht)

/-- Settles O40. -/
theorem observationCommands : Obligations.ObservationCommands := by
  unfold Obligations.ObservationCommands
  intro s ch t e tested obs
  refine ⟨fun v ha => ?_, fun u i v hr hu hi => ?_, fun u i v hup hu => ?_,
    fun x w v => ⟨word_write (by decide) (by decide), word_write (by decide) (by decide)⟩, fun v ha => ?_, fun v ha => ?_,
    fun hr => ?_, fun ha => ?_, fun v ha => ?_, fun v ha => ?_, ?_, ?_⟩
  · have hwrite : ∀ {b a}, s.blk.odTile ch (Blk.writeCounter (s.blk.sels ch).evsel v) = (b, a) →
        exec (.counterWrite ch v) s = become s (b.answer a) := fun h => by
      show execCounterWrite ch v s = _
      exact od_answers ha h
    exact ⟨fun hfree he => hwrite ((odTile_free hfree).trans (writeCounter_fixed he)),
      fun hfree he => hwrite ((odTile_free hfree).trans (writeCounter_other he)), fun htest => hwrite (odTile_tested htest)⟩
  · show execPmcCfgWrite u i v s = _
    exact page_becomes hr hu (writePmc_at hi)
  · show execPmcCfgWrite u i v s = _
    rw [execPmcCfgWrite, State.page, hu]
    exact window_becomes hup rfl
  · have hwrite : ∀ {b a}, s.blk.writeRakeK v.toNat = (b, a) → exec (.rakeKWrite ch v) s = become s (b.answer a) := fun h => by
      show execRakeKWrite ch v s = _
      exact od_answers ha h
    exact ⟨fun h => hwrite (writeRakeK_takes h), fun h0 h => hwrite (writeRakeK_range h0 h)⟩
  · have hwrite : ∀ {b a}, s.blk.writeRakeBase v = (b, a) → exec (.rakeBaseWrite ch v) s = become s (b.answer a) := fun h => by
      show execRakeBaseWrite ch v s = _
      exact od_answers ha h
    exact ⟨fun h => hwrite (writeRakeBase_range h), fun h => ⟨fun hk => hwrite (writeRakeBase_sets h hk),
      fun hk => hwrite (writeRakeBase_running h hk)⟩⟩
  · have hrake : ∀ {b}, s.blk.rakeWriteOut = b → exec .rakeWriteOut s = become s b := fun h => by
      show execRakeWriteOut s = _
      exact mesh_becomes hr h
    exact ⟨fun h => hrake (rakeWriteOut_idle h), fun i image h => hrake (rakeWriteOut_writes h)⟩
  · have hclear : ∀ {b a}, s.blk.odTile ch (Blk.clearHist 1) = (b, a) →
        exec (.histogramClear ch) s = become s (b.answer a) := fun h => by
      show execHistogramClear ch s = _
      exact od_answers ha h
    exact ⟨fun hfree => hclear ((odTile_free hfree).trans (if_neg (not_not_intro rfl))), fun htest => hclear (odTile_tested htest)⟩
  · have hthaw : ∀ {b a}, s.blk.odTile ch (Blk.thaw v) = (b, a) → exec (.hangThaw ch v) s = become s (b.answer a) := fun h => by
      show execHangThaw ch v s = _
      exact od_answers ha h
    exact ⟨fun htest => hthaw (odTile_tested htest), fun hfree hv hn => hthaw ((odTile_free hfree).trans (thaw_clears hv hn)),
      fun hfree h => hthaw ((odTile_free hfree).trans (thaw_stands h))⟩
  · have hwrite : ∀ {b a}, s.blk.writeHangBase v = (b, a) → exec (.hangBaseWrite ch v) s = become s (b.answer a) := fun h => by
      show execHangBaseWrite ch v s = _
      exact od_answers ha h
    exact ⟨fun h => hwrite (writeHangBase_sets h), fun h => hwrite (writeHangBase_range h)⟩
  · intro v ha b
    show execTraceCtrlWrite ch v s = _
    exact od_answers ha writeTraceCtrl_eq
  · intro xs p ha
    have hsend : ∀ {b a}, s.blk.markerSend xs = (b, a) → exec (.markerSend ch xs) s = become s (b.answer a) := fun h => by
      show execMarkerSend ch xs s = _
      exact od_answers ha h
    exact ⟨fun h => hsend (markerSend_lacks h), fun h => ⟨fun hs => hsend (markerSend_sends h hs),
      fun hs => hsend (markerSend_down h hs)⟩⟩

end Sys2Proof.Observed
end


section
/-! What the vault answers: SPDM requests and the random source (R274–R276, R285), the keys of a plot (R276, R278), IDE keys and capsules
(R277, R281). -/
namespace Sys2Proof.VaultRequests
open Sys2Proof Sys2Proof.Machine Sys2Proof.Safety Sys2Proof.Laws Sys2Proof.Acts

section
variable {b : Blk} {ch : Channel} {i : Nat} {x : Session}

/-! ### Negotiation and the random source -/

section
variable {n : Nat} {f : Blk → Blk}

theorem negotiatedAt_reached (h : n ≤ b.negotiated ch) : b.negotiatedAt ch n f = f b := if_pos h

theorem negotiatedAt_early (h : b.negotiated ch < n) : b.negotiatedAt ch n f = b.spdmErr spUnexpected := if_neg (Nat.not_le.mpr h)

end

section
variable {j : VaultJob}

theorem needRandom_ok (h : b.vault.rng = .ok) : b.needRandom ch j = b.vaultRun ch j := by simp only [Blk.needRandom, h]

theorem needRandom_restarting (h : b.vault.rng = .restarting) :
    b.needRandom ch j = { b with vault := { b.vault with rngWait := b.vault.rngWait ++ [(ch, j)] } } := by
  simp only [Blk.needRandom, h]

theorem needRandom_dead (h : b.vault.rng = .dead) : b.needRandom ch j = b.spdmErr spBusy := by simp only [Blk.needRandom, h]

end

/-! ### What the vault does with random bits at hand -/

section
variable {nonce : Bytes} {session : Option Nat} {n : Nat}

theorem challenged_signed (h : b.vault.identity = true) : b.challenged nonce = b.draw.spdmOk 0x03 0 (nonce ++ b.random) :=
  if_neg (by simp [h])

theorem challenged_refused (h : b.vault.identity = false) : b.challenged nonce = b.spdmErr spUnspecified := if_pos (by simp [h])

theorem measured_refused (h : b.vault.identity = false) : b.measured session n nonce = b.spdmErr spUnspecified := if_pos (by simp [h])

theorem measured_report (h : b.vault.identity = true) : b.measured session 0x80 nonce =
    b.vaultSay 0 0x60 (b.report (((session.bind b.session?).bind (·.claim)).getD 0) nonce) :=
  (if_neg (by simp [h])).trans (if_pos rfl)

theorem measured_block (h : b.vault.identity = true) (hn : n ≠ 0x80) : b.measured session n nonce =
    b.draw.spdmOk 0x60 (session.getD 0) (toBytes 1 n ++ nonce ++ b.random) :=
  (if_neg (by simp [h])).trans (if_neg hn)

end

theorem keyExchange_refused (h : b.vault.identity = false) : b.keyExchange ch = b.spdmErr spUnspecified := if_pos (by simp [h])

theorem keyExchange_opens {j : Nat} (h : b.vault.identity = true) (hj : b.freeSession = some j) : b.keyExchange ch =
    (b.draw.setSession j { ch := ch, established := false, mutualHash := none, claim := none }).spdmOk 0x64 j b.random := by
  simp only [Blk.keyExchange, h, hj, Bool.not_true, Bool.false_eq_true, if_false]

theorem keyExchange_full (h : b.vault.identity = true) (hj : b.freeSession = none) :
    b.keyExchange ch = b.spdmErr spSessionLimit := by
  simp only [Blk.keyExchange, h, hj, Bool.not_true, Bool.false_eq_true, if_false]

theorem attest_report (h : b.vault.identity = true) :
    b.attest ch = .ok (b.report (b.vault.reportReq.getD (chNum ch) (0, [])).1 (b.vault.reportReq.getD (chNum ch) (0, [])).2) :=
  if_neg (by simp [h])

theorem attest_refused (h : b.vault.identity = false) : b.attest ch = .error abState := if_pos (by simp [h])

/-! ### Sessions -/

/-- No session of this number is established. -/
abbrev NotEstablished (b : Blk) (i : Nat) : Prop := b.session? i = none ∨ ∃ x, b.session? i = some x ∧ x.established = false

section
variable {f : Session → Blk}

theorem inSession_established (h : b.session? i = some x) (he : x.established = true) : b.inSession i f = f x := by
  simp only [Blk.inSession, h, he, if_true]

theorem inSession_not (h : NotEstablished b i) : b.inSession i f = b.spdmErr spUnexpected := by
  rcases h with h | ⟨x, h, he⟩
  · simp only [Blk.inSession, h]
  · simp only [Blk.inSession, h, he, Bool.false_eq_true, if_false]

end

section
variable {key : Option Bytes}

theorem finishSession_establishes (h : b.session? i = some x) (he : x.established = false) : b.finishSession i key =
    (b.setSession i { x with established := true, mutualHash := key.map fun k => padTo 48 (Config.sha384 k) }).spdmOk 0x65 i := by
  simp only [Blk.finishSession, h, he, Bool.false_eq_true, if_false]

theorem finishSession_again (h : b.session? i = some x) (he : x.established = true) :
    b.finishSession i key = b.spdmErr spUnexpected := by
  simp only [Blk.finishSession, h, he, if_true]

theorem finishSession_none (h : b.session? i = none) : b.finishSession i key = b.spdmErr spUnexpected := by
  simp only [Blk.finishSession, h]

end

/-! ### Health of the random source -/

/-- The health failures of the last second of the mesh clock, with the one of this mc. -/
def recentFails (b : Blk) : List Nat := (b.vault.rngFails ++ [b.clk.mc]).filter fun m => b.clk.mc - m < b.mcOf 1000000000

section
variable {test : BitVec 32}

theorem rngHealth_dead (h : b.vault.rng = .dead) : b.rngHealth test = b.raiseS 0x61 0 none test.toNat := if_pos h

theorem rngHealth_restarts (h : b.vault.rng ≠ .dead) (hn : (recentFails b).length < 3) : b.rngHealth test =
    { b.raiseS 0x61 0 none test.toNat with
      vault := { (b.raiseS 0x61 0 none test.toNat).vault with rng := .restarting, rngFails := recentFails b } } :=
  (if_neg h).trans (if_neg (Nat.not_le.mpr hn))

theorem failWaiting_empties : b.failWaiting.vault.rngWait = [] ∧ b.failWaiting.vault.rng = b.vault.rng := by
  unfold Blk.failWaiting
  split
  · next h => exact ⟨List.isEmpty_iff.mp h, rfl⟩
  · exact ⟨rfl, rfl⟩

theorem rngHealth_dies (h : b.vault.rng ≠ .dead) (hn : 3 ≤ (recentFails b).length) :
    (b.rngHealth test).vault.rng = .dead ∧ (b.rngHealth test).vault.rngWait = [] := by
  have hdies : b.rngHealth test = (Blk.failWaiting { b.raiseS 0x61 0 none test.toNat with
      vault := { (b.raiseS 0x61 0 none test.toNat).vault with rng := .dead, rngFails := recentFails b } }).raiseS 0x62 0 none :=
    (if_neg h).trans (if_pos hn)
  rw [hdies]
  exact ⟨failWaiting_empties.2, failWaiting_empties.1⟩

end

theorem rngRestart_serves (h : b.vault.rng = .restarting) : b.rngRestart =
    Blk.each { b with vault := { b.vault with rng := .ok, rngWait := [] } } b.vault.rngWait fun b w => b.vaultRun w.1 w.2 :=
  if_neg (not_not_intro h)

theorem rngRestart_other (h : b.vault.rng ≠ .restarting) : b.rngRestart = b := if_pos h

theorem rngTimeout_none (h : b.vault.rngWait = []) : b.rngTimeout = b := by simp only [Blk.rngTimeout, h]

theorem rngTimeout_oldest {w : Channel × VaultJob} {ws : List (Channel × VaultJob)} (h : b.vault.rngWait = w :: ws) :
    b.rngTimeout = Blk.spdmErr { b with vault := { b.vault with rngWait := ws } } spBusy := by
  simp only [Blk.rngTimeout, h]
  rfl

/-! ### Claim and key phases -/

section
variable {f : Session → Bytes → Blk} {h : Bytes}

theorem inMutual_becomes (hx : b.session? i = some x) (he : x.established = true) (hm : x.mutualHash = some h) :
    b.inMutual i f = f x h := by
  simp only [Blk.inMutual, hx, he, hm, if_true]

/-- No mutually authenticated session of this number is established. -/
abbrev NotMutual (b : Blk) (i : Nat) : Prop :=
  b.session? i = none ∨ ∃ x, b.session? i = some x ∧ (x.established = false ∨ x.mutualHash = none)

theorem inMutual_not (hn : NotMutual b i) : b.inMutual i f = b.vendor vrState := by
  unfold Blk.inMutual
  rcases hn with hx | ⟨x, hx, hn⟩
  · simp only [hx]
  simp only [hx]
  split
  · next hm => exact if_neg (by rcases hn with hn | hn <;> simp_all)
  · rfl

end

section
variable {f : Nat → Blk} {h : Bytes} {p : Nat}

theorem inClaim_becomes (hx : b.session? i = some x) (he : x.established = true) (hm : x.mutualHash = some h)
    (hc : x.claim = some p) : b.inClaim i f = f p := by
  unfold Blk.inClaim
  rw [inMutual_becomes hx he hm]
  simp only [hc]

/-- No mutually authenticated session of this number has a claim. -/
abbrev NoClaim (b : Blk) (i : Nat) : Prop :=
  b.session? i = none ∨ ∃ x, b.session? i = some x ∧ (x.established = false ∨ x.mutualHash = none ∨ x.claim = none)

theorem inClaim_not (hn : NoClaim b i) : b.inClaim i f = b.vendor vrState := by
  unfold Blk.inClaim Blk.inMutual
  rcases hn with hx | ⟨x, hx, hn⟩
  · simp only [hx]
  simp only [hx]
  rcases hn with hn | hn | hn
  · split
    · exact if_neg (by simp [hn])
    · rfl
  · simp only [hn]
  · simp only [hn]
    split
    · exact ite_self _
    · rfl

end

section
variable {p : Nat} {ph : Bool} {h : Bytes}

theorem plotClaim_takes (hx : b.session? i = some x) (he : x.established = true) (hm : x.mutualHash = some h)
    (hb : b.bound p = true) (ho : h = (b.plot p).cfg.owner) (hz : h.any (fun y => y ≠ 0#8) = true) :
    b.plotClaim i p = (b.setSession i { x with claim := some p }).vendor 0x00 :=
  (inMutual_becomes hx he hm).trans (if_pos (by rw [hb, hz, decide_eq_true ho]; rfl))

theorem plotClaim_refused (hx : b.session? i = some x) (he : x.established = true) (hm : x.mutualHash = some h)
    (hn : b.bound p = false ∨ h ≠ (b.plot p).cfg.owner ∨ h.any (fun y => y ≠ 0#8) = false) :
    b.plotClaim i p = b.vendor 0x01 := by
  refine (inMutual_becomes hx he hm).trans (if_neg ?_)
  rw [Bool.and_eq_true, Bool.and_eq_true, decide_eq_true_eq]
  rintro ⟨⟨hb, ho⟩, hz⟩
  rcases hn with hn | hn | hn
  · exact absurd hb (by rw [hn]; exact Bool.false_ne_true)
  · exact hn ho
  · exact absurd hz (by rw [hn]; exact Bool.false_ne_true)

theorem phase_live_or {k : PlotKeys} : (decide (k.phase ph = .live) || decide (k.phase ph = .retiring)) = true ↔
    (k.phase ph = .live ∨ k.phase ph = .retiring) := by
  rw [Bool.or_eq_true, decide_eq_true_eq, decide_eq_true_eq]

section
variable (hx : b.session? i = some x) (he : x.established = true) (hm : x.mutualHash = some h) (hc : x.claim = some p)
include hx he hm hc

section
variable {key : Bytes}

theorem keySet_lives (hl : key.length = 32)
    (hp : (b.plot p).keys.phase ph = .empty ∨ (b.plot p).keys.phase ph = .retired) : b.keySet i ph key =
      ((b.modKeys p fun k => k.setPhase ph .live (some key)).zeroPktNum p ph).vendor 0x00 := by
  refine (inClaim_becomes hx he hm hc).trans <| (if_neg (not_not_intro hl)).trans <| if_neg (mt phase_live_or.mp ?_)
  rcases hp with hp | hp <;> simp [hp]

theorem keySet_held (hl : key.length = 32)
    (hp : (b.plot p).keys.phase ph = .live ∨ (b.plot p).keys.phase ph = .retiring) : b.keySet i ph key = b.vendor 0x02 :=
  (inClaim_becomes hx he hm hc).trans <| (if_neg (not_not_intro hl)).trans <| if_pos (phase_live_or.mpr hp)

theorem keySet_format (hl : key.length ≠ 32) : b.keySet i ph key = b.vendor 0x03 :=
  (inClaim_becomes hx he hm hc).trans (if_pos hl)

end

theorem txPhase_live (hp : (b.plot p).keys.phase ph = .live) :
    b.txPhase i ph = (b.modKeys p fun k => { k with txNext := some ph }).vendor 0x00 :=
  (inClaim_becomes hx he hm hc).trans (if_pos hp)

theorem txPhase_not (hp : (b.plot p).keys.phase ph ≠ .live) : b.txPhase i ph = b.vendor 0x02 :=
  (inClaim_becomes hx he hm hc).trans (if_neg hp)

section
variable {hold : Nat}

theorem phaseRetire_format (hh : hold = 0 ∨ 65535 < hold) : b.phaseRetire i ph hold = b.vendor 0x03 :=
  (inClaim_becomes hx he hm hc).trans (if_pos (by simpa using hh))

theorem phaseRetire_retires (h0 : 0 < hold) (hh : hold ≤ 65535) (hl : (b.plot p).keys.phase ph = .live)
    (ht : (b.plot p).keys.tx ≠ ph) (hn : (b.plot p).keys.txNext ≠ some ph) : b.phaseRetire i ph hold =
      (b.modKeys p fun k => k.setPhase ph .retiring (k.keyOf ph)).vendor 0x00 :=
  (inClaim_becomes hx he hm hc).trans <| (if_neg (by simp; omega)).trans (if_neg (by simp [hl, ht, hn]))

theorem phaseRetire_state (h0 : 0 < hold) (hh : hold ≤ 65535)
    (hn : (b.plot p).keys.phase ph ≠ .live ∨ (b.plot p).keys.tx = ph ∨ (b.plot p).keys.txNext = some ph) :
    b.phaseRetire i ph hold = b.vendor 0x02 :=
  (inClaim_becomes hx he hm hc).trans <| (if_neg (by simp; omega)).trans (if_pos (by simpa [or_assoc] using hn))

end

theorem secFlags_waits {f : BitVec 8} : b.secFlags i f =
    (b.modKeys p fun k => { k with secNext := some ((b.plot p).keys.flagsFor f) }).vendor 0x00 := inClaim_becomes hx he hm hc

end

theorem phaseHoldEnd_retires (h : (b.plot p).keys.phase ph = .retiring) :
    b.phaseHoldEnd p ph = b.modKeys p fun k => k.setPhase ph .retired none := if_pos h

theorem phaseHoldEnd_other (h : (b.plot p).keys.phase ph ≠ .retiring) : b.phaseHoldEnd p ph = b := if_neg h

end

/-- NO_DEBUG once set stays (R278). -/
theorem flagsFor_noDebug {k : PlotKeys} {f : BitVec 8} (h : flag f 2 = true ∨ k.sec.noDebug = true) :
    (k.flagsFor f).noDebug = true := by
  rcases h with h | h <;> simp [PlotKeys.flagsFor, h]

/-! ### IDE keys -/

section
variable {f : Blk → Blk} {c : IdeCmd}

theorem inIde_manager (h : b.ideManager i = true) : b.inIde i f = f b := if_pos h

theorem inIde_other (h : b.ideManager i = false) : b.inIde i f = b.ideErr := if_neg (by simp [h])

theorem idePut_free (h : b.vault.idePort = none) : b.idePut c = { b with vault := { b.vault with idePort := some c } } :=
  if_neg (by simp [h])

theorem idePut_busy (h : b.vault.idePort ≠ none) : b.idePut c = b.spdmErr spBusy :=
  if_pos (Option.isSome_iff_ne_none.mpr h)

theorem ideAnswer_none {ack : Bool} (h : b.vault.idePort = none) : b.ideAnswer ack = b := by
  simp only [Blk.ideAnswer, h]

/-- The block with the key port free again. -/
def portFreed (b : Blk) : Blk := { b with vault := { b.vault with idePort := none } }

theorem ideAnswer_ack (h : b.vault.idePort = some c) : b.ideAnswer true =
    ((portFreed b).setIde c.id (if c.cmd = 0 then .programmed else if c.cmd = 1 then .active else .empty)).vaultSay 3
      (c.cmd + 2) [] := by
  obtain ⟨cmd, id, key, iv⟩ := c
  simp only [Blk.ideAnswer, h, if_true]
  match cmd with
  | 0 => rfl
  | 1 => rfl
  | _ + 2 => rfl

theorem ideAnswer_refused (h : b.vault.idePort = some c) : b.ideAnswer false = (portFreed b).ideErr := by
  simp only [Blk.ideAnswer, h, Bool.false_eq_true, if_false]
  rfl

end

section
variable {xs : Bytes}

theorem writeIdeManager_length (h : xs.length ≠ 48) : b.writeIdeManager ch xs = (b, abLength) := if_pos h

theorem storeThen_full {f : Blk → Blk} {key : Nat} (h : b.store key xs = none) : b.storeThen key xs f = (b, abState) := by
  simp only [Blk.storeThen, h]
  rfl

theorem storeThen_stored {f : Blk → Blk} {key : Nat} {b' : Blk} (h : b.store key xs = some b') :
    b.storeThen key xs f = (f b', abNone) := by
  simp only [Blk.storeThen, h]
  rfl

theorem writeIdeManager_state (hl : xs.length = 48)
    (h : ch ≠ .mailbox ∨ b.vault.ide ≠ [] ∨ b.store psIde xs = none) : b.writeIdeManager ch xs = (b, abState) := by
  refine (if_neg (not_not_intro hl)).trans ?_
  split
  · rfl
  · next hn =>
    rw [Bool.or_eq_true, decide_eq_true_eq, not_or, Bool.not_eq_true', Bool.not_eq_false, List.isEmpty_iff] at hn
    exact storeThen_full ((h.resolve_left hn.1).resolve_left (not_not_intro hn.2))

theorem writeIdeManager_stores {b' : Blk} (hl : xs.length = 48) (hc : ch = .mailbox) (hi : b.vault.ide = [])
    (h : b.store psIde xs = some b') :
    b.writeIdeManager ch xs = ({ b' with vault := { b'.vault with ideMgr := xs } }, abNone) :=
  (if_neg (not_not_intro hl)).trans <| (if_neg (by simp [hc, hi])).trans <| storeThen_stored h

end

/-! ### Capsules -/

/-- The unwrap request that the word `w` makes. -/
def capReq (p : Nat) (w : BitVec 128) : CapReq :=
  { plot := p, offset := fld w 0 32, tile := fld w 32 10, sram := fld w 64 21, verdict := 0, len := 0 }

/-- The block with this queue of unwrap requests. -/
def capQueue (b : Blk) (l : List CapReq) : Blk := { b with vault := { b.vault with capQ := l } }

section
variable {p : Nat} {w : BitVec 128}

theorem capsuleUnwrap_bad (h : b.bound p = false ∨ p = 0) : b.capsuleUnwrap p w = b.countSys evBadAccess :=
  if_pos (by simpa using h)

section
variable (hb : b.bound p = true) (hp : p ≠ 0)
include hb hp

theorem capsuleUnwrap_begins (h : b.vault.capQ = []) : b.capsuleUnwrap p w = (capQueue b [capReq p w]).capBegin := by
  refine (if_neg (by simp [hb, hp])).trans ?_
  simp only [h]
  rfl

theorem capsuleUnwrap_queues (h0 : 0 < b.vault.capQ.length) (h : b.vault.capQ.length ≤ 4) :
    b.capsuleUnwrap p w = capQueue b (b.vault.capQ ++ [capReq p w]) :=
  (if_neg (by simp [hb, hp])).trans <| (if_neg (by omega)).trans <|
    if_neg fun hempty => by simp [List.isEmpty_iff.mp hempty] at h0

theorem capsuleUnwrap_busy (h : 4 < b.vault.capQ.length) : b.capsuleUnwrap p w = b.capEvent p 6 [] :=
  (if_neg (by simp [hb, hp])).trans (if_pos h)

end

end

theorem capsuleDone_none (h : b.vault.capQ = []) : b.capsuleDone = b := by simp only [Blk.capsuleDone, h]

section
variable {c : CapReq} {rest : List CapReq}

theorem capsuleDone_opens (h : b.vault.capQ = c :: rest) (hv : c.verdict = 0) : b.capsuleDone =
    ((((capQueue b rest).capOpen c).1.capEvent c.plot ((capQueue b rest).capOpen c).2.1 ((capQueue b rest).capOpen c).2.2).capBegin) := by
  simp only [Blk.capsuleDone, h, show c.verdict = cpOk from hv, if_true]
  rfl

theorem capsuleDone_refuses (h : b.vault.capQ = c :: rest) (hv : c.verdict ≠ 0) : b.capsuleDone =
    (((capQueue b rest).capEvent c.plot c.verdict ((((capQueue b rest).plotHbm c.plot c.offset 256).map cpId).getD [])).capBegin) := by
  simp only [Blk.capsuleDone, h, show ¬c.verdict = cpOk from hv, if_false]
  rfl

end

end

/-! ### The requests -/

section
variable {s : State} {ch : Channel}

theorem challenge_becomes {nonce : Bytes} {b : Blk} (h : Served s (.challenge ch nonce)) (hn : 3 ≤ s.blk.negotiated ch)
    (hb : s.blk.needRandom ch (.challenge nonce) = b) : exec (.challenge ch nonce) s = become s b := by
  show execChallenge ch nonce s = _
  exact steward_becomes h ((negotiatedAt_reached hn).trans hb)

theorem keyExchange_becomes {b : Blk} (h : Served s (.keyExchange ch)) (hn : 3 ≤ s.blk.negotiated ch)
    (hb : s.blk.needRandom ch .keyExchange = b) : exec (.keyExchange ch) s = become s b := by
  show execKeyExchange ch s = _
  exact steward_becomes h ((negotiatedAt_reached hn).trans hb)

section
variable {nonce : Bytes} {session : Option Nat} {n : Nat} {b : Blk}

theorem report_becomes (h : Served s (.getMeasurements ch session 0x80 nonce)) (hn : 3 ≤ s.blk.negotiated ch)
    (hb : s.blk.measured session 0x80 nonce = b) : exec (.getMeasurements ch session 0x80 nonce) s = become s b := by
  show execGetMeasurements ch session 0x80 nonce s = _
  exact steward_becomes h ((negotiatedAt_reached hn).trans ((if_pos rfl).trans hb))

/-- While the source is good, a measurement does not wait, whatever its index. -/
theorem measurement_becomes (h : Served s (.getMeasurements ch session n nonce)) (hn : 3 ≤ s.blk.negotiated ch)
    (hr : s.blk.vault.rng = .ok) (hb : s.blk.measured session n nonce = b) :
    exec (.getMeasurements ch session n nonce) s = become s b := by
  show execGetMeasurements ch session n nonce s = _
  refine steward_becomes h ((negotiatedAt_reached hn).trans ?_)
  split
  · exact hb
  · exact (needRandom_ok hr).trans hb

end

theorem attestReport_signed (h : Asked s (.attestReport ch) ch false) (hi : s.blk.vault.identity = true) :
    exec (.attestReport ch) s = become s (s.blk.answer 0 (s.blk.report (s.blk.vault.reportReq.getD (chNum ch) (0, [])).1
      (s.blk.vault.reportReq.getD (chNum ch) (0, [])).2)) := by
  show execAttestReport ch s = _
  rw [execAttestReport, at_named h.1.1]
  simp only [h.1.2, h.2.1, attest_report hi, decide_true, Bool.and_self, if_true]
  rfl

theorem attestReport_refused (h : Asked s (.attestReport ch) ch false) (hi : s.blk.vault.identity = false) :
    exec (.attestReport ch) s = become s (s.blk.answer abState) := by
  show execAttestReport ch s = _
  rw [execAttestReport, at_named h.1.1]
  simp only [h.1.2, h.2.1, attest_refused hi, decide_true, Bool.and_self, if_true]

end

/-- Settles O42. -/
theorem spdmRequests : Obligations.SpdmRequests := by
  unfold Obligations.SpdmRequests
  intro s ch i nonce v ready early claim
  refine ⟨attestReport_signed, attestReport_refused, fun hr => ?_, fun hr => ⟨fun hn => ?_, fun hn => ?_⟩,
    fun hr => ⟨fun hn => ?_, fun hn => ?_⟩, fun hr => ⟨fun hn => ?_, fun hn => ?_⟩,
    fun off len hr => ⟨fun hn => ?_, fun hn => ?_⟩, fun hr hready => ?_, fun hr hn hi => ?_, fun hr hn hi => ?_,
    fun session n hr hready hn => ?_, fun j hr hready hj => ?_, fun hr hready hj => ?_, ?_, ?_, ?_, ?_, fun key hr hx => ?_,
    fun code hr => ?_, fun first last part hr => ?_, ?_, ?_, ?_⟩
  · show execGetVersion ch s = _
    exact steward_becomes hr rfl
  · show execGetCapabilities ch s = _
    exact steward_becomes hr (negotiatedAt_reached hn)
  · show execGetCapabilities ch s = _
    exact steward_becomes hr (negotiatedAt_early (Nat.lt_one_iff.mpr hn))
  · show execNegotiateAlgorithms ch s = _
    exact steward_becomes hr (negotiatedAt_reached hn)
  · show execNegotiateAlgorithms ch s = _
    exact steward_becomes hr (negotiatedAt_early hn)
  · show execGetDigests ch s = _
    exact steward_becomes hr (negotiatedAt_reached hn)
  · show execGetDigests ch s = _
    exact steward_becomes hr (negotiatedAt_early hn)
  · show execGetCertificate ch off len s = _
    exact steward_becomes hr (negotiatedAt_reached hn)
  · show execGetCertificate ch off len s = _
    exact steward_becomes hr (negotiatedAt_early hn)
  · obtain ⟨hi, hrng, hn⟩ := hready
    exact challenge_becomes hr hn ((needRandom_ok hrng).trans (challenged_signed hi))
  · exact report_becomes hr hn (measured_report hi)
  · exact report_becomes hr hn (measured_report hi)
  · obtain ⟨hi, hrng, hneg⟩ := hready
    exact measurement_becomes hr hneg hrng (measured_block hi hn)
  · obtain ⟨hi, hrng, hn⟩ := hready
    exact keyExchange_becomes hr hn ((needRandom_ok hrng).trans (keyExchange_opens hi hj))
  · obtain ⟨hi, hrng, hn⟩ := hready
    exact keyExchange_becomes hr hn ((needRandom_ok hrng).trans (keyExchange_full hi hj))
  · intro c job hmem hr
    simp only [List.mem_cons, List.not_mem_nil, or_false, Prod.mk.injEq] at hmem
    rcases hmem with ⟨rfl, rfl⟩ | ⟨rfl, rfl⟩
    · refine ⟨fun hn => ?_, fun hn hd => challenge_becomes hr hn (needRandom_dead hd),
        fun hn hw => challenge_becomes hr hn (needRandom_restarting hw)⟩
      show execChallenge ch nonce s = _
      exact steward_becomes hr (negotiatedAt_early hn)
    · refine ⟨fun hn => ?_, fun hn hd => keyExchange_becomes hr hn (needRandom_dead hd),
        fun hn hw => keyExchange_becomes hr hn (needRandom_restarting hw)⟩
      show execKeyExchange ch s = _
      exact steward_becomes hr (negotiatedAt_early hn)
  · exact fun hi hrng hn => ⟨fun hr => challenge_becomes hr hn ((needRandom_ok hrng).trans (challenged_refused hi)),
      fun hr => keyExchange_becomes hr hn ((needRandom_ok hrng).trans (keyExchange_refused hi)),
      fun session n hr => measurement_becomes hr hn hrng (measured_refused hi)⟩
  · intro x hx
    refine ⟨fun key hr => ⟨fun he => ?_, fun he => ?_⟩, fun he => ⟨fun hr => ?_, fun hr => ?_, fun hr => ?_⟩⟩
    · show execFinish i key s = _
      exact steward_becomes hr (finishSession_establishes hx he)
    · show execFinish i key s = _
      exact steward_becomes hr (finishSession_again hx he)
    · show execHeartbeatSpdm i s = _
      exact steward_becomes hr (inSession_established hx he)
    · show execKeyUpdate i s = _
      exact steward_becomes hr (inSession_established hx he)
    · show execEndSession i s = _
      exact steward_becomes hr (inSession_established hx he)
  · refine fun hnot => ⟨fun hr => ?_, fun hr => ?_, fun hr => ?_⟩
    · show execHeartbeatSpdm i s = _
      exact steward_becomes hr (inSession_not hnot)
    · show execKeyUpdate i s = _
      exact steward_becomes hr (inSession_not hnot)
    · show execEndSession i s = _
      exact steward_becomes hr (inSession_not hnot)
  · show execFinish i key s = _
    exact steward_becomes hr (finishSession_none hx)
  · show execSpdmUnsupportedRequest ch code s = _
    exact steward_becomes hr rfl
  · show execChunkedTransfer ch first last part s = _
    exact steward_becomes hr rfl
  · intro test hu fails
    have hhealth : exec (.rngHealth test) s = become s (s.blk.rngHealth test) := by
      show execRngHealth test s = _
      exact vaultEvent_becomes hu rfl
    exact ⟨fun hd => hhealth.trans (congrArg (become s) (rngHealth_dead hd)),
      fun hd hn => hhealth.trans (congrArg (become s) (rngHealth_restarts hd hn)),
      fun hd hn => ⟨_, hhealth, rngHealth_dies hd hn⟩⟩
  · intro hu
    refine ⟨fun hw => ?_, fun hw => ?_⟩
    · show execRngRestartPass s = _
      exact vaultEvent_becomes hu (rngRestart_serves hw)
    · show execRngRestartPass s = _
      exact vaultEvent_becomes hu (rngRestart_other hw)
  · intro hu
    refine ⟨fun hw => ?_, fun w ws hw => ?_⟩
    · show execRngWaitTimeout s = _
      exact vaultEvent_becomes hu (rngTimeout_none hw)
    · show execRngWaitTimeout s = _
      exact vaultEvent_becomes hu (rngTimeout_oldest hw)

/-- Settles O43. -/
theorem tenantKeys : Obligations.TenantKeys := by
  unfold Obligations.TenantKeys
  intro s i p ph x h
  refine ⟨fun hx he hm => ⟨fun hr => ?_, ?_⟩, fun hu => ⟨fun hp => ?_, fun hp => ?_⟩, fun hn hr => ?_,
    fun hn => ⟨fun key hr => ?_, fun hr => ?_, fun hold hr => ?_, fun f hr => ?_⟩⟩
  · have hclaim : ∀ {b}, s.blk.plotClaim i p = b → exec (.plotClaim i p) s = become s b := fun h => by
      show execPlotClaim i p s = _
      exact steward_becomes hr h
    exact ⟨fun hb ho hz => hclaim (plotClaim_takes hx he hm hb ho hz), fun hn => hclaim (plotClaim_refused hx he hm hn)⟩
  · intro hc k
    refine ⟨fun key hr => ?_, fun hr => ?_, fun hold hr hh => ?_, fun hold hr h0 hh => ?_, fun f hr => ?_⟩
    · have hset : ∀ {b}, s.blk.keySet i ph key = b → exec (.keySet i ph key) s = become s b := fun h => by
        show execKeySet i ph key s = _
        exact steward_becomes hr h
      exact ⟨fun hl hp => hset (keySet_lives hx he hm hc hl hp), fun hl hp => hset (keySet_held hx he hm hc hl hp),
        fun hl => hset (keySet_format hx he hm hc hl)⟩
    · have hphase : ∀ {b}, s.blk.txPhase i ph = b → exec (.txPhase i ph) s = become s b := fun h => by
        show execTxPhase i ph s = _
        exact steward_becomes hr h
      exact ⟨fun hp => hphase (txPhase_live hx he hm hc hp), fun hp => hphase (txPhase_not hx he hm hc hp)⟩
    · show execPhaseRetire i ph hold s = _
      exact steward_becomes hr (phaseRetire_format hx he hm hc hh)
    · have hretire : ∀ {b}, s.blk.phaseRetire i ph hold = b → exec (.phaseRetire i ph hold) s = become s b := fun h => by
        show execPhaseRetire i ph hold s = _
        exact steward_becomes hr h
      exact ⟨fun hl ht hn => hretire (phaseRetire_retires hx he hm hc h0 hh hl ht hn),
        fun hn => hretire (phaseRetire_state hx he hm hc h0 hh hn)⟩
    · refine ⟨s.blk.modKeys p fun l => { l with secNext := some (k.flagsFor f) }, ?_, k.flagsFor f, ?_, rfl, rfl, fun hf => flagsFor_noDebug (.inl hf), fun hk => flagsFor_noDebug (.inr hk), ?_⟩
      · show execSecFlags i f s = _
        exact steward_becomes hr (secFlags_waits hx he hm hc)
      · rw [Blk.modKeys, plot_modPlot_same]
      · rfl
  · show execPhaseHoldEnd p ph s = _
    exact vaultEvent_becomes hu (phaseHoldEnd_retires hp)
  · show execPhaseHoldEnd p ph s = _
    exact vaultEvent_becomes hu (phaseHoldEnd_other hp)
  · show execPlotClaim i p s = _
    exact steward_becomes hr (inMutual_not hn)
  · show execKeySet i ph key s = _
    exact steward_becomes hr (inClaim_not hn)
  · show execTxPhase i ph s = _
    exact steward_becomes hr (inClaim_not hn)
  · show execPhaseRetire i ph hold s = _
    exact steward_becomes hr (inClaim_not hn)
  · show execSecFlags i f s = _
    exact steward_becomes hr (inClaim_not hn)

/-- Settles O44. -/
theorem vaultCommands : Obligations.VaultCommands := by
  unfold Obligations.VaultCommands
  intro s i id v put err busy
  refine ⟨fun hr hm => ?_, fun hm => ⟨fun hr => ?_, fun key iv hr => ?_, fun hr => ?_, fun hr => ?_⟩,
    fun hm => ⟨fun key iv hr => ?_, fun hr => ?_, fun hr => ?_⟩, fun hp ack hu => ?_, fun c hp => ?_, fun ch xs ha => ?_,
    fun p w hr hb => ?_, fun p w hr hb hp => ?_, fun hr => ?_⟩
  · show execQuery i s = _
    exact steward_becomes hr (inIde_manager hm)
  · show execQuery i s = _
    exact steward_becomes hr (inIde_other hm)
  · show execKeyProg i id key iv s = _
    exact steward_becomes hr (inIde_other hm)
  · show execKSetGo i id s = _
    exact steward_becomes hr (inIde_other hm)
  · show execKSetStop i id s = _
    exact steward_becomes hr (inIde_other hm)
  · refine ⟨fun hs => ?_, fun hs hp => ?_, fun hs hp => ?_⟩
    · show execKeyProg i id key iv s = _
      exact steward_becomes hr ((inIde_manager hm).trans (if_neg (by simp [hs])))
    · show execKeyProg i id key iv s = _
      exact steward_becomes hr ((inIde_manager hm).trans ((if_pos hs).trans (idePut_free hp)))
    · show execKeyProg i id key iv s = _
      exact steward_becomes hr ((inIde_manager hm).trans ((if_pos hs).trans (idePut_busy hp)))
  · refine ⟨fun hs => ?_, fun hs hp => ?_, fun hs hp => ?_⟩
    · show execKSetGo i id s = _
      exact steward_becomes hr ((inIde_manager hm).trans (if_pos hs))
    · show execKSetGo i id s = _
      exact steward_becomes hr ((inIde_manager hm).trans ((if_neg hs).trans (idePut_free hp)))
    · show execKSetGo i id s = _
      exact steward_becomes hr ((inIde_manager hm).trans ((if_neg hs).trans (idePut_busy hp)))
  · refine ⟨fun hs => ?_, fun hs hp => ?_, fun hs hp => ?_⟩
    · show execKSetStop i id s = _
      exact steward_becomes hr ((inIde_manager hm).trans (if_pos hs))
    · show execKSetStop i id s = _
      exact steward_becomes hr ((inIde_manager hm).trans ((if_neg hs).trans (idePut_free hp)))
    · show execKSetStop i id s = _
      exact steward_becomes hr ((inIde_manager hm).trans ((if_neg hs).trans (idePut_busy hp)))
  · show execIdeAnswer ack s = _
    exact vaultEvent_becomes hu (ideAnswer_none hp)
  · refine ⟨fun hu => ?_, fun hu => ?_⟩
    · show execIdeAnswer true s = _
      exact vaultEvent_becomes hu (ideAnswer_ack hp)
    · show execIdeAnswer false s = _
      exact vaultEvent_becomes hu (ideAnswer_refused hp)
  · have hwrite : ∀ {b a}, s.blk.writeIdeManager ch xs = (b, a) →
        exec (.ideManagerWrite ch xs) s = become s (b.answer a) := fun h => by
      show execIdeManagerWrite ch xs s = _
      exact od_answers ha h
    exact ⟨fun hl => hwrite (writeIdeManager_length hl), fun hl h => hwrite (writeIdeManager_state hl h),
      fun b hl hc hi h => hwrite (writeIdeManager_stores hl hc hi h)⟩
  · show execCapsuleUnwrap p w s = _
    exact mesh_becomes hr (capsuleUnwrap_bad hb)
  · have hunwrap : ∀ {b}, s.blk.capsuleUnwrap p w = b → exec (.capsuleUnwrap p w) s = become s b := fun h => by
      show execCapsuleUnwrap p w s = _
      exact mesh_becomes hr h
    exact ⟨fun h => hunwrap (capsuleUnwrap_begins hb hp h), fun h0 h => hunwrap (capsuleUnwrap_queues hb hp h0 h),
      fun h => hunwrap (capsuleUnwrap_busy hb hp h)⟩
  · have hdone : ∀ {b}, s.blk.capsuleDone = b → exec .capsuleDone s = become s b := fun h => by
      show execCapsuleDone s = _
      exact mesh_becomes hr h
    exact ⟨fun h => hdone (capsuleDone_none h), fun c rest h => ⟨fun hv => hdone (capsuleDone_opens h hv),
      fun hv => hdone (capsuleDone_refuses h hv)⟩⟩

end Sys2Proof.VaultRequests
end
